-- ==== Sys2Proof/Word.lean ====
section
/-! DEFINITION. The word types of the module: a byte, a 32-bit register word, a 64-bit scalar, a command word. -/

namespace Sys2Proof

/-- One byte of memory or of a message. -/
abbrev Byte := BitVec 8

/-- One register word (R440) or one FP32 value (R85). -/
abbrev Word := BitVec 32

/-- One scalar register of a tile, one joint value (R59, R377). -/
abbrev DWord := BitVec 64

/-- One 128-bit command word (R64). -/
abbrev CWord := BitVec 128

end Sys2Proof
end

