-- ==== Sys2Proof/Syntax.lean ====
section
/-! DEFINITION. The commands of the module: one constructor per row of spec/opcode_table.json, with its operands.
Host and agent accesses carry the master identity of R382. A step that the module itself takes names the object that
takes it (a tile, a channel, a port, a ring); what the outside world supplies (a value, the bytes of a flit, a sensor
reading, an error pattern) is an operand too. -/

namespace Sys2Proof

/-- What the sweeps of a channel training find (R188): the widest passing window of the strobe delay, the passing window
of the reference voltage, and of each of the 38 pins the width of its strobe window, its passing deskew trims from first
to last, and the width of its reference window. A pin that fails at every setting has widths of 0. -/
structure PinSweep where
  stbLo : Nat
  stbHi : Nat
  vrefLo : Nat
  vrefHi : Nat
  pins : List (Nat × Nat × Nat × Nat)
  deriving DecidableEq, Repr

/-- The commands, in the order of spec/opcode_table.json. -/
inductive Instr where
  /-- R362: `master` writes SQ_DB of submission ring `ring` of context `ctx`. -/
  | sqDoorbell (master ctx ring : Nat) (value : Word)
  /-- R364: `master` writes CQ_DB of completion ring `ring` of context `ctx`. -/
  | cqDoorbell (master ctx ring : Nat) (value : Word)
  /-- R363: the device reads the next entry of the ring; `hostFail`: a host memory read of it fails. -/
  | submissionEntryRead (ctx ring : Nat) (hostFail : Bool)
  /-- R371: the oldest unstarted descriptor of the ring, a launch, is taken. -/
  | launch (ctx ring : Nat)
  /-- R371: waiting launch `id` starts on its tiles. -/
  | launchStart (id : Nat)
  /-- R373: the oldest unstarted descriptor of the ring, a copy, runs. -/
  | copy (ctx ring : Nat)
  /-- R374: joint operation descriptor ADD. -/
  | jointDescAdd (ctx ring : Nat)
  /-- R374: joint operation descriptor SET. -/
  | jointDescSet (ctx ring : Nat)
  /-- R374: joint operation descriptor READ. -/
  | jointDescRead (ctx ring : Nat)
  /-- R374: joint operation descriptor WAITGE. -/
  | jointDescWaitge (ctx ring : Nat)
  /-- R374: joint operation descriptor TICKET. -/
  | jointDescTicket (ctx ring : Nat)
  /-- R381: joint operation descriptor SIGNAL. -/
  | jointDescSignal (ctx ring : Nat)
  /-- R374: joint operation descriptor SETTICKET. -/
  | jointDescSetticket (ctx ring : Nat)
  /-- R375: a fence descriptor is taken. -/
  | fenceDesc (ctx ring : Nat)
  /-- R376: the STOP of a fence descriptor stops the context's launches. -/
  | fenceStop (ctx ring : Nat)
  /-- R375: what a fence waits for has completed. -/
  | fenceDescRelease (ctx ring : Nat)
  /-- R365: the oldest held record of the context that can be written is written. -/
  | heldRecordWrite (ctx : Nat)
  /-- R361: the descriptor at ring index `idx` of a real-time ring reaches its need-by time. -/
  | ringNeedbyMiss (ctx ring idx : Nat)
  /-- R48: admitted timed request `req` is delivered. -/
  | timedRequestDelivered (req : Nat)
  /-- R39: read of DEVTIME_LO. -/
  | devtimeLoRead (master : Nat)
  /-- R50: write of PP_CTRL. -/
  | ppReqWrite (master : Nat) (value : Word)
  /-- R50: a pending lowering of PP or of DUTY_ADM applies. -/
  | ppPendingApply
  /-- R472: host read `tag` of an admitted timed request is late. -/
  | lateHostRead (tag : Nat)
  /-- R55: the wait of `tile` reaches its need-by time. -/
  | deadlineMiss (tile : Nat)
  /-- R56: after a miss the hod cancels the late requests of the stream. -/
  | hodMissCancel (tile stream : Nat)
  /-- R65: sequencer word NOP of the tile. -/
  | nop (tile : Nat)
  /-- R65: SETI. -/
  | seti (tile : Nat)
  /-- R65: ADDI. -/
  | addi (tile : Nat)
  /-- R65: ADD. -/
  | add (tile : Nat)
  /-- R65: LOOP. -/
  | loop (tile : Nat)
  /-- R65: BR. -/
  | br (tile : Nat)
  /-- R65: BRZ. -/
  | brz (tile : Nat)
  /-- R65: BRNZ. -/
  | brnz (tile : Nat)
  /-- R65: HALT. -/
  | halt (tile : Nat)
  /-- R65: a halting tile has drained. -/
  | haltComplete (tile : Nat)
  /-- R65: FENCE. -/
  | fence (tile : Nat)
  /-- R65: every word before a FENCE has completed. -/
  | fenceRelease (tile : Nat)
  /-- R65: RDTIME. -/
  | rdtime (tile : Nat)
  /-- R82: SPLIT. -/
  | split (tile : Nat)
  /-- R82: the conversion of banks finishes. -/
  | splitComplete (tile : Nat)
  /-- R60: a command fetch returns; `fail`: its data is uncorrectable. -/
  | commandFetchFill (tile : Nat) (fail : Bool)
  /-- R61: the stalled sequencer places its word. -/
  | issueStallRelease (tile : Nat)
  /-- R63: the head word of `unit` starts on its token; `unit` 7 is the drain port of the matrix array. -/
  | tokenWaitStart (tile unit : Nat)
  /-- R63: the running word of `unit` completes. -/
  | unitWordComplete (tile unit : Nat)
  /-- R66: WAIT. -/
  | wait (tile : Nat)
  /-- R66: the condition of the tile's WAIT holds. -/
  | waitSatisfied (tile : Nat)
  /-- R78: MMA. -/
  | mma (tile : Nat)
  /-- R74: MDRAIN. -/
  | mdrain (tile : Nat)
  /-- R79: MLOAD. -/
  | mload (tile : Nat)
  /-- R79: MZERO. -/
  | mzero (tile : Nat)
  /-- R118: write of SR_SEED_LO. -/
  | srSeedLoWrite (master : Nat) (value : Word)
  /-- R118: write of SR_SEED_HI. -/
  | srSeedHiWrite (master : Nat) (value : Word)
  /-- R124: VLD. -/
  | vld (tile : Nat)
  /-- R124: VST. -/
  | vst (tile : Nat)
  /-- R124: VFMA. -/
  | vfma (tile : Nat)
  /-- R124: VADD. -/
  | vadd (tile : Nat)
  /-- R124: VSUB. -/
  | vsub (tile : Nat)
  /-- R124: VMUL. -/
  | vmul (tile : Nat)
  /-- R125: VMAX. -/
  | vmax (tile : Nat)
  /-- R125: VMIN. -/
  | vmin (tile : Nat)
  /-- R125: VDIV. -/
  | vdiv (tile : Nat)
  /-- R124: VCMP. -/
  | vcmp (tile : Nat)
  /-- R124: VSEL. -/
  | vsel (tile : Nat)
  /-- R126: VSCAN. -/
  | vscan (tile : Nat)
  /-- R127: VRED. -/
  | vred (tile : Nat)
  /-- R128: VBRC. -/
  | vbrc (tile : Nat)
  /-- R130: VSTAT. -/
  | vstat (tile : Nat)
  /-- R131: VSTATF. -/
  | vstatf (tile : Nat)
  /-- R124: VMOVS. -/
  | vmovs (tile : Nat)
  /-- R133: SFEVAL. -/
  | sfeval (tile : Nat)
  /-- R135: SFSINCOS. -/
  | sfsincos (tile : Nat)
  /-- R136: SFBAS. -/
  | sfbas (tile : Nat)
  /-- R137: SFNSS. -/
  | sfnss (tile : Nat)
  /-- R140: SFLOAD. -/
  | sfload (tile : Nat)
  /-- R140: SFSWAP. -/
  | sfswap (tile : Nat)
  /-- R141: SFPROG. -/
  | sfprog (tile : Nat)
  /-- R208: HODSTREAM. -/
  | hodstream (tile : Nat)
  /-- R209: HODRUN. -/
  | hodrun (tile : Nat)
  /-- R209: HODRECV. -/
  | hodrecv (tile : Nat)
  /-- R223: HODCMO. -/
  | hodcmo (tile : Nat)
  /-- R211: the hod takes the oldest untaken descriptor of the stream. -/
  | hodDescriptorTake (tile stream : Nat)
  /-- R214: the `n`-th waiting request of the tile's hod is issued. -/
  | hodRequestIssue (tile n : Nat)
  /-- R212: the request that holds `tag` lands. -/
  | hodResponseLand (tile tag : Nat)
  /-- R220: the gather engine makes the next reads of the index list of descriptor `desc`. -/
  | gatherIndexRead (tile desc : Nat)
  /-- R226: relay descriptor `desc` starts. -/
  | relayStart (tile desc : Nat)
  /-- R227: multicast descriptor `desc` starts. -/
  | multicastStart (tile desc : Nat)
  /-- R228: the drop instant of timed multicast `desc`. -/
  | multicastDropInstant (tile desc : Nat)
  /-- R228: dropped member `member` of multicast `desc` is replayed to. -/
  | multicastReplay (tile desc member : Nat)
  /-- R25: context `ctx` accesses the scratchpad window at device address `addr`. -/
  | scratchpadWindowAccess (ctx addr len : Nat) (write : Bool) (data : List Byte)
  /-- R217: the controller of channel `ch` takes the next line of request `entry`. -/
  | channelRequest (ch entry : Nat)
  /-- R179, R184: the line in service of `ch` finishes; `errs`: symbol errors (codeword of the line, lane, value). -/
  | channelLineDone (ch : Nat) (errs : List (Nat × Nat × Nat))
  /-- R196: the refresh interval of bank `bank` of channel `ch` elapses. -/
  | refreshDue (ch bank : Nat)
  /-- R194: patrol scrub visits the next line of `ch`; `errs` as for channelLineDone. -/
  | scrubLine (ch : Nat) (errs : List (Nat × Nat × Nat))
  /-- R196: the 48 sensors of the brick are read, in units of 0.25 °C. -/
  | brickTempSample (brick : Nat) (readings : List Nat)
  /-- R191: CH_CMD RETRAIN. -/
  | chCmdRetrain (master : Nat)
  /-- R191: a refused re-train is submitted again. -/
  | retrainResubmit (ch : Nat)
  /-- R191: the re-train gets its turn. -/
  | retrainStart (ch : Nat)
  /-- R188, R189: a training of `ch` ends: what its sweeps found, and whether step 8 read back clean. -/
  | retrainDone (ch : Nat) (sweep : PinSweep) (readback : Bool)
  /-- R457: CH_CMD FENCE. -/
  | chCmdFence (master : Nat)
  /-- R457: a fencing channel has served its requests. -/
  | channelFenceComplete (ch : Nat)
  /-- R461: CH_CMD UNFENCE. -/
  | chCmdUnfence (master : Nat)
  /-- R193: CH_CMD SPALL. -/
  | chCmdSpall (master : Nat)
  /-- R198: CH_CMD MARGIN_STB. -/
  | chCmdMarginStb (master : Nat)
  /-- R198: CH_CMD MARGIN_VREF. -/
  | chCmdMarginVref (master : Nat)
  /-- R198: the sweep of `ch` ends: lowest and highest passing setting and worst lane, or none passed. -/
  | marginDone (ch low high lane : Nat) (nonePassed : Bool)
  /-- R199: write of SUPPLY_OFS. -/
  | brickSupplyWrite (master : Nat) (value : Word)
  /-- R194: write of SCRUB_CTRL. -/
  | scrubPeriodWrite (master : Nat) (value : Word)
  /-- R200: read of ERRLOG_3. -/
  | errlogPopRead (master : Nat)
  /-- R236: flash operation CREATE. -/
  | flashCreate (ctx ring : Nat)
  /-- R238: flash operation DELETE. -/
  | flashDelete (ctx ring : Nat)
  /-- R236: flash operation READ. -/
  | flashRead (ctx ring : Nat)
  /-- R239: READ command `cmd` takes the credit of its stream. -/
  | flashReadStreamStart (cmd : Nat)
  /-- R239: the rest of READ command `cmd` is cancelled. -/
  | flashReadCancel (cmd : Nat)
  /-- R238: flash operation WRITE. -/
  | flashWrite (ctx ring : Nat)
  /-- R236: flash operation TRIM. -/
  | flashTrim (ctx ring : Nat)
  /-- R237: flash operation STAT. -/
  | flashStat (ctx ring : Nat)
  /-- R244: the page read of unit `unit` of command `cmd` finishes; `ok`: its LDPC decode passed. -/
  | flashPageReadDone (cmd unit : Nat) (ok : Bool)
  /-- R244: a read-retry of that page finishes. -/
  | flashReadRetry (cmd unit : Nat) (ok : Bool)
  /-- R245: the parity rebuild of that page finishes. -/
  | flashRebuildDone (cmd unit : Nat) (ok : Bool)
  /-- R238, R242: a page program of command `cmd` finishes; the data slot of the row of blocks where a data page stands. -/
  | flashProgramDone (cmd : Nat) (ok : Bool) (row slot : Nat)
  /-- R246: die `die` answers no command within FL_TIMEOUT. -/
  | flashDieTimeout (die : Nat)
  /-- R242: the blocks of row `row` are relocated to the free row `dst` and erased. -/
  | flashRelocate (row dst : Nat)
  /-- R247: a completion of host read `tag` arrives; status 0 data, 1 Unsupported Request, 2 Completer Abort. -/
  | hostReadCompletion (tag status : Nat) (data : List Byte)
  /-- R248: host read `tag` exceeds CPL_TIMEOUT. -/
  | hostCplTimeout (tag : Nat)
  /-- R249: the hold-up energy is measured, in mJ. -/
  | holdupMeasure (energy : Nat)
  /-- R260: a kiln batch descriptor is validated. -/
  | kilnBatch (ctx ring : Nat)
  /-- R261: the next slot of batch `batch` starts on the lowest free engine. -/
  | kilnSlotStart (batch : Nat)
  /-- R263: the header window of engine `engine` has landed. -/
  | kilnHeaderReadDone (engine : Nat)
  /-- R265: engine `engine` ends its sample. -/
  | kilnSampleDecoded (engine : Nat)
  /-- R269: the lowest unresolved corrupt slot of batch `batch` takes its next backfill entry or becomes padding. -/
  | kilnBackfillAssign (batch : Nat)
  /-- R272: batch `batch` has landed. -/
  | kilnPalletDelivered (batch : Nat)
  /-- R281: the 272 bytes of a flit arrive at `port` on fibre `fibre`; `fec`: of each codeword that ends with the flit,
  the lanes and how many symbols of each were wrong (R278). -/
  | arkelFlitReceive (port fibre : Nat) (flit : List Byte) (fec : List (List (Nat × Nat)))
  /-- R281: no acknowledgement for 10 µs. -/
  | arkelReplayTimeout (port : Nat)
  /-- R280: the oldest whole message of `port`, a write, is performed. -/
  | arkelWriteMsg (port : Nat)
  /-- R288: the oldest whole message of `port`, a read request, is answered. -/
  | arkelReadRequestMsg (port : Nat)
  /-- R280: the oldest whole message of `port`, a read response, completes its read. -/
  | arkelReadResponseMsg (port : Nat)
  /-- R381: the oldest whole message of `port`, a joint signal, is performed. -/
  | jointSignalMsg (port : Nat)
  /-- R293: the oldest whole message of `port`, an unreachable notice, is handled. -/
  | unreachableNotice (port : Nat)
  /-- R287 E1: the port detects light. -/
  | arkelLightDetect (port : Nat)
  /-- R287 E2, E3: lane training ends; the failed lanes (direction 0 send 1 receive, fibre, wavelength 0 to 8). -/
  | arkelLaneTrainDone (port : Nat) (failed : List (Nat × Nat × Nat))
  /-- R287 E4, R289: the partner's link-control flit: lowest and highest version, coordinates, port code, and the
  fibres in service in the direction it sends. -/
  | arkelLinkControlFlit (port verMin verMax coord code fibres : Nat)
  /-- R287: a down port with AUTO set retries. -/
  | arkelBringupRetry (port : Nat)
  /-- R287: write of LINK_CTRL. -/
  | linkEnableWrite (master : Nat) (value : Word)
  /-- R287: write of LINK_CTRL with RETRAIN. -/
  | linkRetrain (master : Nat) (value : Word)
  /-- R290: a lane fails (direction 0 send 1 receive). -/
  | arkelLaneFail (port dir fibre lane : Nat)
  /-- R290: the spare swap of the fibre completes. -/
  | arkelSpareSwapDone (port dir fibre : Nat)
  /-- R291: no fibre of the direction has been in service for 5 µs. -/
  | arkelLinkDown (port dir : Nat)
  /-- R291: a fibre rejoins. -/
  | arkelFibreRejoin (port dir fibre : Nat)
  /-- R296: the port sends its time-exchange flit. -/
  | timeExchangeSend (port : Nat)
  /-- R296: a time-exchange flit: the root time that the partner follows, the offset of the partner's device time from
  this module's in ps, as both ends' times give it, and the partner's hops to the root. -/
  | timeExchangeFlit (port : Nat) (rootTime : DWord) (offsetPs : Int) (rootHops : Nat)
  /-- R298: light is lost at input `input` (0 or 1) for the wavelengths of `lambdas`, and the 850 nm carrier if `mm`. -/
  | laserSupplyLoss (input : Nat) (lambdas : BitVec 9) (mm : Bool)
  /-- R294: write of RT_LO. -/
  | rtLoWrite (master : Nat) (value : Word)
  /-- R294: write of RT_HI. -/
  | rtHiWrite (master : Nat) (value : Word)
  /-- R312: collective REDUCE_SCATTER. -/
  | collReduceScatter (ctx ring : Nat)
  /-- R313: collective ALL_REDUCE. -/
  | collAllReduce (ctx ring : Nat)
  /-- R318: collective ALL_GATHER. -/
  | collAllGather (ctx ring : Nat)
  /-- R320: collective ALL_TO_ALL. -/
  | collAllToAll (ctx ring : Nat)
  /-- R322: collective PERMUTE. -/
  | collPermute (ctx ring : Nat)
  /-- R317: collective VOTE. -/
  | collVote (ctx ring : Nat)
  /-- R305: collective LAND. -/
  | collLand (ctx ring : Nat)
  /-- R304: the oldest whole message of `port`, a setup message. -/
  | collSetupMsg (port : Nat)
  /-- R304: the setup lap of the group's collective has not returned in time. -/
  | collSetupTimeout (ctx group : Nat)
  /-- R304: the oldest whole message of `port`, an abort message. -/
  | collAbortMsg (port : Nat)
  /-- R313: the oldest whole message of `port`, a header pass message. -/
  | collHeaderPassMsg (port : Nat)
  /-- R312: a mantissa pass message. -/
  | collMantissaPassMsg (port : Nat)
  /-- R318: a gather data message. -/
  | collGatherDataMsg (port : Nat)
  /-- R320: a counts message. -/
  | collCountsMsg (port : Nat)
  /-- R321: a bucket message. -/
  | collBucketMsg (port : Nat)
  /-- R323: permute data. -/
  | collPermuteDataMsg (port : Nat)
  /-- R317: a vote message. -/
  | collVoteMsg (port : Nat)
  /-- R324: a statistics message. -/
  | collStatisticsMsg (port : Nat)
  /-- R327: write of COLL_GROUP. -/
  | collGroupWrite (master : Nat) (value : Word)
  /-- R326: one microsecond passes for the idle counters. -/
  | idleTick
  /-- R328: read of IDLE_LO. -/
  | idleLoRead (master : Nat)
  /-- R332: TUPDATE. -/
  | tupdate (tile : Nat)
  /-- R339: the oldest whole message of `port`, a commit lap message, or the completion of a lap with no other member. -/
  | commitLapMsg (port : Nat)
  /-- R341: the lap result of the context has not arrived within CONT_TIMEOUT. -/
  | contTimeoutExpiry (ctx : Nat)
  /-- R341: CONT_CMD COMMIT. -/
  | contCmdCommit (master : Nat)
  /-- R341: CONT_CMD ABORT. -/
  | contCmdAbort (master : Nat)
  /-- R347: CONT_CMD HOLD. -/
  | contCmdHold (master : Nat)
  /-- R347: CONT_CMD RELEASE. -/
  | contCmdRelease (master : Nat)
  /-- R355: write of CONT_CTRL. -/
  | contEnWrite (master : Nat) (value : Word)
  /-- R353: the rack manager announces an orderly removal. -/
  | removalAnnounce
  /-- R380: JADD. -/
  | jadd (tile : Nat)
  /-- R380: JTRY. -/
  | jtry (tile : Nat)
  /-- R380: JTICKET. -/
  | jticket (tile : Nat)
  /-- R380: JORDER. -/
  | jorder (tile : Nat)
  /-- R380: JARRIVE. -/
  | jarrive (tile : Nat)
  /-- R381: JSIGNAL. -/
  | jsignal (tile : Nat)
  /-- R380: JREAD. -/
  | jread (tile : Nat)
  /-- R379: the oldest pending wait of the joint whose condition holds is released. -/
  | jointWaitRelease (joint : Nat)
  /-- R377: write of JNT_CFG. -/
  | jntCfgWrite (master : Nat) (value : Word)
  /-- R391: read of VALUE_LO. -/
  | jointValueLoRead (master : Nat)
  /-- R391: read of TICKET_LO. -/
  | jointTicketLoRead (master : Nat)
  /-- R384: function `fn` writes MB_TX_SEND. -/
  | mbTxSend (fn : Nat) (value : Word)
  /-- R387: MBSEND. -/
  | mbsend (tile : Nat)
  /-- R387: MBRECV. -/
  | mbrecv (tile : Nat)
  /-- R386: the timer of channel `chan` reaches MB_TIMEOUT. -/
  | mbTimeoutExpiry (chan : Nat)
  /-- R385: the receiver with identity `ident` enters state 0 AWAKE, 1 ASLEEP, 2 RESET or 3 DEAD. -/
  | mbReceiverStateChange (ident state : Nat)
  /-- R389: Function Level Reset of function `fn`. -/
  | functionLevelReset (fn : Nat)
  /-- R389 E4, E5: the reset of context `ctx` completes. -/
  | contextResetComplete (ctx : Nat)
  /-- R357: PCIe function `fn` is enabled or disabled. -/
  | functionEnableChange (fn : Nat) (enable : Bool)
  /-- R360: write of PROT_SYNC. -/
  | protSync (master : Nat)
  /-- R391: write of a ring's EN word. -/
  | ringEnWrite (master : Nat) (value : Word)
  /-- R450: software clears the mask of vector `vector` of function `fn`. -/
  | msixUnmask (fn vector : Nat)
  /-- R173: a write of `data` at offset `off` of the command window; `full`: full byte enables. -/
  | kvCmdWindowWrite (master off : Nat) (data : List Byte) (full : Bool)
  /-- R173: the partial run of `master` receives no write for 10 µs. -/
  | kvRunTimeout (master : Nat)
  /-- R170: the `n`-th accepted page command, a LOOKUP, is processed. -/
  | kvLookup (n : Nat)
  /-- R170: ALLOC. -/
  | kvAlloc (n : Nat)
  /-- R170: PUBLISH. -/
  | kvPublish (n : Nat)
  /-- R170: PIN. -/
  | kvPin (n : Nat)
  /-- R170: UNPIN. -/
  | kvUnpin (n : Nat)
  /-- R170: REF. -/
  | kvRef (n : Nat)
  /-- R170: UNREF. -/
  | kvUnref (n : Nat)
  /-- R171: WPREP. -/
  | kvWprep (n : Nat)
  /-- R171: the copy of page `page` completes; `ue`: a read of it was uncorrectable. -/
  | kvWprepCopyDone (page : Nat) (ue : Bool)
  /-- R172: the epoch advances. -/
  | kvEpochAdvance
  /-- R175: write of KV_CTRL. -/
  | kvCtrlWrite (master : Nat) (value : Word)
  /-- R394, R395: a datagram arrives at the cap port. -/
  | capFrame (bytes : List Byte)
  /-- R395: REPORT_MS has passed. -/
  | reportTimer
  /-- R393: the lease expires. -/
  | leaseExpiry
  /-- R396: a 1 ms window ends with this mean input power in W. -/
  | powerWindowEnd (meanW : Nat)
  /-- R397: the power manager sets CUR_VP; `want` is the point its control law asks for. -/
  | curVpUpdate (want measuredW : Nat)
  /-- R399: a 100 µs quantum begins, open or closed. -/
  | dutyQuantum (openQ : Bool)
  /-- R400: write of the power word that holds DUTY_ADM. -/
  | dutyAdmWrite (master : Nat) (value : Word)
  /-- R401: the 5 ms exemption ends. -/
  | collExemptExpiry
  /-- R407: the supply monitor declares stage `stage` with stop cause `cause`. -/
  | shedStageEnter (stage cause : Nat)
  /-- R408: the highest stage is left. -/
  | shedStageExit
  /-- R409 E3 to E5: the retained commit and the safe stop. -/
  | safeStopCommit
  /-- R403: tile `tile` reads its replica's natural rate, in M steps/s. -/
  | tileReplicaSample (tile rate : Nat)
  /-- R403: PWR_CMD REMEASURE. -/
  | pwrCmdRemeasure (master : Nat)
  /-- R403: the sweep ends; measured entries (tile, point, rate). -/
  | remeasureDone (entries : List (Nat × Nat × Nat))
  /-- R411: junction sensor `sensor` reads `temp`, in 0.25 °C; `over115`: at 115 °C for 100 µs. -/
  | junctionSensorSample (sensor temp : Nat) (over115 : Bool)
  /-- R411: one 100 µs throttle interval passes. -/
  | thermalThrottleStep
  /-- R410: write of the word that holds KILN_ON. -/
  | kilnOnWrite (master : Nat) (value : Word)
  /-- R410: write of the word that holds FLASH_ON. -/
  | flashOnWrite (master : Nat) (value : Word)
  /-- R410: unit `unit` (0 kiln, 1 upper vector lanes, 2 wide ports, 3 flash) finishes its drain. -/
  | unitDrainDone (unit : Nat)
  /-- R410: unit `unit` reaches ON. -/
  | unitPowerUpDone (unit : Nat)
  /-- R413: read of EN_LO. -/
  | enLoRead (master : Nat)
  /-- R420: input power is applied. `puf0`, `puf1`: helper copy 0 and 1 reconstruct the seed (R415); `half0`, `half1`:
  the halves of the store authenticate (R425); `sigA`, `sigB`: the signature checks of R418 on the two slots; the
  channels whose training found pins bad, with those pins. -/
  | coldReset (puf0 puf1 half0 half1 sigA sigB : Bool) (badPins : List (Nat × List Nat))
  /-- R430: STORE_CMD WARM_RESET, or a request in the management session (`master` 0x82); the channels whose training
  finds pins bad, with those pins. -/
  | storeCmdWarmReset (master : Nat) (badPins : List (Nat × List Nat))
  /-- R430: PCIe hot reset, link down or PERST#. -/
  | hostPortReset
  /-- R426: STORE_CMD SAVE_CONFIG. -/
  | storeCmdSaveConfig (master : Nat)
  /-- R419: STORE_CMD COMMIT_SVN. -/
  | storeCmdCommitSvn (master : Nat)
  /-- R419: STORE_CMD PREFER_A. -/
  | storeCmdPreferA (master : Nat)
  /-- R419: STORE_CMD PREFER_B. -/
  | storeCmdPreferB (master : Nat)
  /-- R427: the KRT starts writing the next queued record. -/
  | storeRecordCommit
  /-- R427: the KRT compacts the store. -/
  | storeCompact
  /-- R423: KRT request ATTEST, the oldest message of the KRT's channel `chan`. -/
  | krtAttest (chan : Nat)
  /-- R421: KRT request EXTEND. -/
  | krtExtend (chan : Nat)
  /-- R422: KRT request CERT. -/
  | krtCert (chan : Nat)
  /-- R422: KRT request PEER_ADD. -/
  | krtPeerAdd (chan : Nat)
  /-- R422: KRT request PEER_DEL. -/
  | krtPeerDel (chan : Nat)
  /-- R431: write of WDT_KICK. -/
  | wdtKick (master : Nat)
  /-- R431: the watchdog expires. -/
  | wdtExpiry
  /-- R432: a DTLS handshake succeeds with a peer whose public key has this SHA3-512. -/
  | mgmtHandshake (peerHash : List Byte)
  /-- R432: 10 s without a datagram. -/
  | mgmtSessionIdleTimeout
  /-- R446: write of UNLOCK. -/
  | unlockKeyWrite (master : Nat) (value : Word)
  /-- R446: the unlock of `master` has not been consumed within 100 µs. -/
  | unlockExpiry (master : Nat)
  /-- R447: write of the word at BAR0 offset `off`; `full`: the byte enables cover it. -/
  | registerWrite (master off : Nat) (value : Word) (full : Bool)
  /-- R443: read of the word at BAR0 offset `off`. -/
  | registerReadClear (master off : Nat)
  /-- R439: access to a hole. -/
  | holeAccess (master off : Nat) (write : Bool)
  /-- R444: read of the bit-alias word of slot `slot`, bit `bit`. -/
  | bitAliasRead (master slot bit : Nat)
  /-- R444: write of that word. -/
  | bitAliasWrite (master slot bit : Nat) (value : Word)
  /-- R451: write of the context-table word with ENABLE. -/
  | ctEnableWrite (master : Nat) (value : Word)
  /-- R451: write of that word with RESET set. -/
  | ctResetWrite (master : Nat) (value : Word)
  /-- R452: write of BIND_ENTRY. -/
  | bindEntryWrite (master : Nat) (value : Word)
  /-- R456: test request FENCE, its 32 bytes. -/
  | testFence (frame : List Byte)
  /-- R456: a pending tile fence takes effect. -/
  | tileFenceEffect (tile : Nat)
  /-- R461: test request UNFENCE. -/
  | testUnfence (frame : List Byte)
  /-- R460: test request SELFTEST. -/
  | testSelftest (frame : List Byte)
  /-- R460: the self-test of element (`kind`, `id`) completes with RESULT bits, RATE and BER_EXP; a channel's with
  what its training found and whether step 8 of R188 read back clean. -/
  | selftestDone (kind id result rate berExp : Nat) (sweep : PinSweep) (readback : Bool)
  /-- R463: test request SPALL. -/
  | testSpall (frame : List Byte)
  /-- R463: the spalling tile's router has been quiet for 10 µs. -/
  | spallTileStop (tile : Nat)
  /-- R464: test request RESTORE. -/
  | testRestore (frame : List Byte)
  /-- R467: PRESENT# breaks. -/
  | presentRelease
  /-- R298: light returns at input `input`. -/
  | laserSupplyLightReturn (input : Nat) (lambdas : BitVec 9) (mm : Bool)
  /-- R388: the flash translation layer has loaded. -/
  | translationLayerLoaded
  /-- R426: an hour passes. -/
  | lifetimeHourlyRecord
  /-- R427: the record write in progress finishes; `badPins`: as for storeCmdWarmReset, if a warm reset waits for it. -/
  | retainedStoreRecordDone (badPins : List (Nat × List Nat))
  /-- R411: the coolant sensors read, in 0.25 °C. -/
  | coolantTemperatureSample (coolIn coolOut : Nat)
  deriving DecidableEq, Repr

end Sys2Proof
end

