-- ==== Sys2Proof/Machine/Bits.lean ====
section
/-! DEFINITION. Bit fields, byte order and saturation, as the conventions of R6 to R11 state them. -/

namespace Sys2Proof.Machine

/-- Field [lo + n - 1 : lo] of a number (R8). -/
def bits (v lo n : Nat) : Nat := v / 2 ^ lo % 2 ^ n

/-- Bit `i` of a number. -/
def bitAt (v i : Nat) : Bool := v.testBit i

/-- `v` with its field [lo + n - 1 : lo] replaced by `x`. -/
def setBits (v lo n x : Nat) : Nat :=
  v - bits v lo n * 2 ^ lo + x % 2 ^ n * 2 ^ lo

/-- 1 for true, 0 for false. -/
def b2n (b : Bool) : Nat := if b then 1 else 0

/-- The number that bytes spell in little-endian order (R8). -/
def leNat : List Byte → Nat
  | [] => 0
  | b :: bs => b.toNat + 256 * leNat bs

/-- The `n` little-endian bytes of a number. -/
def leBytes : Nat → Nat → List Byte
  | 0, _ => []
  | n + 1, v => BitVec.ofNat 8 v :: leBytes n (v / 256)

/-- `n` bytes of a list from offset `o`. -/
def slice (bs : List Byte) (o n : Nat) : List Byte := (bs.drop o).take n

/-- The field of a format (R11): `n` bytes from byte `o`, little-endian. -/
def fld (bs : List Byte) (o n : Nat) : Nat := leNat (slice bs o n)

/-- Bits [lo + w - 1 : lo] of the `n`-byte field at byte `o`. -/
def fldBits (bs : List Byte) (o n lo w : Nat) : Nat := bits (fld bs o n) lo w

/-- One flag bit of byte `o`. -/
def fldBit (bs : List Byte) (o i : Nat) : Bool := bitAt (fld bs o 1) i

/-- A number read as two's complement of width `w`. -/
def signed (w v : Nat) : Int := if bitAt v (w - 1) then (v % 2 ^ w : Nat) - (2 ^ w : Nat) else (v % 2 ^ w : Nat)

/-- An integer as a two's-complement number of width `w`. -/
def unsignedOf (w : Nat) (x : Int) : Nat := (x % (2 ^ w : Nat)).toNat

/-- Saturation at 0xFFFF_FFFF (R58). -/
def satAdd32 (v n : Nat) : Nat := min (v + n) 0xFFFFFFFF

/-- `n` zero bytes. -/
def zeros (n : Nat) : List Byte := List.replicate n 0

/-- A list padded with zeros, or cut, to length `n`. -/
def fit (n : Nat) (bs : List Byte) : List Byte := (bs ++ zeros n).take n

/-- A list with element `i` replaced; unchanged when it has no element `i`. -/
def setAt {α : Type} (l : List α) (i : Nat) (x : α) : List α := l.set i x

/-- `a / b` rounded up. -/
def ceilDiv (a b : Nat) : Nat := (a + b - 1) / b

/-- Insertion into a list sorted by `le`, after the elements that are no greater. -/
def insertBy {α : Type} (le : α → α → Bool) (x : α) : List α → List α
  | [] => [x]
  | y :: ys => if le y x then y :: insertBy le x ys else x :: y :: ys

/-- A stable sort. -/
def sortBy {α : Type} (le : α → α → Bool) : List α → List α
  | [] => []
  | x :: xs => insertFirst le x (sortBy le xs)
where
  insertFirst (le : α → α → Bool) (x : α) : List α → List α
    | [] => [x]
    | y :: ys => if le x y then x :: y :: ys else y :: insertFirst le x ys

/-! ### Sparse tables -/

/-- The entry at `k`, or `d`. -/
def tget {α : Type} (d : α) : List (Nat × α) → Nat → α
  | [], _ => d
  | (i, x) :: r, k => if i = k then x else tget d r k

/-- The table with `x` at `k`, kept sorted. -/
def tset {α : Type} (x : α) : List (Nat × α) → Nat → List (Nat × α)
  | [], k => [(k, x)]
  | (i, y) :: r, k =>
    if i = k then (k, x) :: r else if k < i then (k, x) :: (i, y) :: r else (i, y) :: tset x r k

/-- The table without the entry at `k`. -/
def tdel {α : Type} : List (Nat × α) → Nat → List (Nat × α)
  | [], _ => []
  | (i, y) :: r, k => if i = k then r else (i, y) :: tdel r k

/-- The table holds an entry at `k`. -/
def thas {α : Type} (t : List (Nat × α)) (k : Nat) : Bool := t.any (·.1 == k)

/-- The entry at `k`, if there is one. -/
def tfind? {α : Type} (t : List (Nat × α)) (k : Nat) : Option α := (t.find? (·.1 == k)).map (·.2)

end Sys2Proof.Machine
end

