-- ==== Sys2Proof/Machine/Fp.lean ====
section
/-! DEFINITION. Numbers: the element formats of R85, exact arithmetic on what they encode, one rounding (R98 to R102),
stochastic rounding (R103, R104) and MX scales (R105 to R107). -/

namespace Sys2Proof.Machine

/-! ### Flags, as bits of CTX_FLAGS (R118) -/

def flagIV : Nat := 1
def flagDZ : Nat := 2
def flagOF : Nat := 4
def flagUF : Nat := 8
def flagNX : Nat := 16
def flagSAT : Nat := 32
def flagALOSS : Nat := 64
def flagAOVF : Nat := 128

/-- What a number encodes: a NaN, an infinity, or exactly (-1)^neg * man * 2^exp. -/
inductive Val where
  | nan
  | inf (neg : Bool)
  | fin (neg : Bool) (man : Nat) (exp : Int)
  deriving DecidableEq, Repr

/-- R85, the floating formats. -/
inductive Fmt where
  | fp32 | bf16 | fp16 | e4m3 | e5m2 | e3m2 | e2m3 | e2m1
  deriving DecidableEq, Repr

/-- Exponent bits. -/
def Fmt.eb : Fmt → Nat
  | .fp32 => 8 | .bf16 => 8 | .fp16 => 5 | .e4m3 => 4 | .e5m2 => 5 | .e3m2 => 3 | .e2m3 => 2 | .e2m1 => 2

/-- Mantissa bits. -/
def Fmt.mb : Fmt → Nat
  | .fp32 => 23 | .bf16 => 7 | .fp16 => 10 | .e4m3 => 3 | .e5m2 => 2 | .e3m2 => 2 | .e2m3 => 3 | .e2m1 => 1

/-- Bias. -/
def Fmt.bias : Fmt → Nat
  | .fp32 => 127 | .bf16 => 127 | .fp16 => 15 | .e4m3 => 7 | .e5m2 => 15 | .e3m2 => 3 | .e2m3 => 1 | .e2m1 => 1

/-- The format has infinities. -/
def Fmt.hasInf : Fmt → Bool
  | .fp32 => true | .bf16 => true | .fp16 => true | .e5m2 => true
  | .e4m3 => false | .e3m2 => false | .e2m3 => false | .e2m1 => false

/-- Bits of an element. -/
def Fmt.width (f : Fmt) : Nat := 1 + f.eb + f.mb

/-- R86: the canonical NaN; the element formats without one never receive a NaN. -/
def Fmt.nan : Fmt → Nat
  | .fp32 => 0x7FC00000 | .bf16 => 0x7FC0 | .fp16 => 0x7E00 | .e4m3 => 0x7F | .e5m2 => 0x7E
  | .e3m2 => 0 | .e2m3 => 0 | .e2m1 => 0

/-- The largest finite magnitude, without its sign. -/
def Fmt.maxFinite : Fmt → Nat
  | .fp32 => 0x7F7FFFFF | .bf16 => 0x7F7F | .fp16 => 0x7BFF | .e4m3 => 0x7E | .e5m2 => 0x7B
  | .e3m2 => 0x1F | .e2m3 => 0x1F | .e2m1 => 0x7

/-- The exponent of the weight of the last mantissa bit of the smallest normal. -/
def Fmt.emin (f : Fmt) : Int := 1 - (f.bias : Int) - (f.mb : Int)

/-- R85: what an encoding means. -/
def Fmt.decode (f : Fmt) (w : Nat) : Val :=
  let s := bitAt w (f.eb + f.mb)
  let e := bits w f.mb f.eb
  let m := bits w 0 f.mb
  if f.hasInf && e == 2 ^ f.eb - 1 then (if m = 0 then .inf s else .nan)
  else if f == .e4m3 && e == 15 && m == 7 then .nan
  else if e = 0 then .fin s m f.emin
  else .fin s (2 ^ f.mb + m) ((e : Int) - 1 + f.emin)

/-- How a conversion rounds: to nearest even, or stochastically with the random word `u` (R104). -/
inductive Rnd where
  | rne
  | sr (u : Nat)
  deriving DecidableEq, Repr

/-- `m` divided by 2^k, rounded to an integer; and whether it lost nothing. -/
def roundShift (r : Rnd) (m k : Nat) : Nat × Bool :=
  let q := m / 2 ^ k
  let d := m % 2 ^ k
  if d = 0 then (q, true)
  else match r with
    | .rne => (if 2 * d > 2 ^ k || (2 * d == 2 ^ k && q % 2 == 1) then q + 1 else q, false)
    | .sr u =>
      let top := if 16 ≤ k then d / 2 ^ (k - 16) else d * 2 ^ (16 - k)
      (if 2 ^ 16 ≤ top + u % 2 ^ 16 then q + 1 else q, false)

/-- R98: a nonzero magnitude rounded to the precision of a format, its exponent unlimited above: mantissa, exponent of
its last bit, exactness. -/
def Fmt.roundMag (f : Fmt) (r : Rnd) (m : Nat) (e : Int) : Nat × Int × Bool :=
  let top : Int := (Nat.log2 m : Int) + e
  let q : Int := max (top - f.mb) f.emin
  if q ≤ e then (m * 2 ^ (e - q).toNat, q, true)
  else
    let (n, ex) := roundShift r m (q - e).toNat
    if n = 2 ^ (f.mb + 1) then (2 ^ f.mb, q + 1, ex) else (n, q, ex)

/-- Settings of a conversion: the context's E4M3_OVF and E5M2_OVF (R99, R100). -/
structure Conv where
  e4m3Ovf : Bool
  e5m2Ovf : Bool
  deriving DecidableEq, Repr

/-- The settings of reset. -/
def Conv.plain : Conv := { e4m3Ovf := false, e5m2Ovf := false }

/-- The sign bit of a format. -/
def Fmt.signBit (f : Fmt) (neg : Bool) : Nat := b2n neg * 2 ^ (f.eb + f.mb)

/-- R99, R100, R101, R106: the result of an overflow, with its flags. -/
def Fmt.overflow (f : Fmt) (cv : Conv) (neg : Bool) : Nat × Nat :=
  match f with
  | .e4m3 => if cv.e4m3Ovf then (f.nan, flagOF + flagNX) else (f.maxFinite + f.signBit neg, flagOF + flagNX + flagSAT)
  | .e5m2 => if cv.e5m2Ovf then (0x7C + f.signBit neg, flagOF + flagNX)
      else (f.maxFinite + f.signBit neg, flagOF + flagNX + flagSAT)
  | .fp32 => (0x7F800000 + f.signBit neg, flagOF + flagNX)
  | .bf16 => (0x7F80 + f.signBit neg, flagOF + flagNX)
  | .fp16 => (0x7C00 + f.signBit neg, flagOF + flagNX)
  | .e3m2 => (f.maxFinite + f.signBit neg, flagNX + flagSAT)
  | .e2m3 => (f.maxFinite + f.signBit neg, flagNX + flagSAT)
  | .e2m1 => (f.maxFinite + f.signBit neg, flagNX + flagSAT)

/-- R98 to R102: a value converted to a format, with the flags it raises. -/
def Fmt.encode (f : Fmt) (cv : Conv) (r : Rnd) : Val → Nat × Nat
  | .nan => (f.nan, 0)
  | .inf neg => if f.hasInf then ((2 ^ f.eb - 1) * 2 ^ f.mb + f.signBit neg, 0) else f.overflow cv neg
  | .fin neg m e =>
    if m = 0 then (f.signBit neg, 0)
    else
      let (n, q, ex) := f.roundMag r m e
      if n < 2 ^ f.mb then (n + f.signBit neg, if ex then 0 else flagUF + flagNX)
      else
        let mag : Nat := ((q - f.emin).toNat + 1) * 2 ^ f.mb + (n - 2 ^ f.mb)
        if f.maxFinite < mag then f.overflow cv neg
        else (mag + f.signBit neg, if ex then 0 else flagNX)

/-- R101: a value converted to a two's-complement integer of `w` bits, rounding to nearest even. -/
def toIntFmt (w : Nat) (v : Val) : Nat × Nat :=
  match v with
  | .nan => (0, flagIV)
  | .inf neg => (if neg then 2 ^ (w - 1) else 2 ^ (w - 1) - 1, flagIV)
  | .fin neg m e =>
    let (n, ex) := if 0 ≤ e then (m * 2 ^ e.toNat, true) else roundShift .rne m (-e).toNat
    if neg then (if 2 ^ (w - 1) < n then (2 ^ (w - 1), flagIV + flagSAT)
      else ((2 ^ w - n) % 2 ^ w, if ex then 0 else flagNX))
    else (if 2 ^ (w - 1) ≤ n then (2 ^ (w - 1) - 1, flagIV + flagSAT) else (n, if ex then 0 else flagNX))

/-- An integer as a value. -/
def Val.ofInt (x : Int) : Val := .fin (decide (x < 0)) x.natAbs 0

/-- x times 2^e as a value. -/
def Val.ofScaled (x : Int) (e : Int) : Val := .fin (decide (x < 0)) x.natAbs e

/-- The value's integer at weight 2^e0, which its exponent must not be below. -/
def Val.scaled : Val → Int → Int
  | .fin neg m e, e0 => (if neg then -1 else 1) * ((m * 2 ^ (e - e0).toNat : Nat) : Int)
  | _, _ => 0

/-- The value is zero. -/
def Val.isZero : Val → Bool
  | .fin _ m _ => m == 0
  | _ => false

/-- The value is a NaN. -/
def Val.isNan : Val → Bool
  | .nan => true
  | _ => false

/-- The value is finite. -/
def Val.isFin : Val → Bool
  | .fin .. => true
  | _ => false

/-- The value with its sign turned. -/
def Val.neg : Val → Val
  | .nan => .nan
  | .inf s => .inf (!s)
  | .fin s m e => .fin (!s) m e

/-- The exact sum, with IV for infinities of two signs (R97). -/
def Val.add : Val → Val → Val × Nat
  | .nan, _ => (.nan, 0)
  | _, .nan => (.nan, 0)
  | .inf a, .inf b => if a = b then (.inf a, 0) else (.nan, flagIV)
  | .inf a, .fin .. => (.inf a, 0)
  | .fin .., .inf b => (.inf b, 0)
  | .fin s m e, .fin s' m' e' =>
    let e0 := min e e'
    let x := Val.scaled (.fin s m e) e0 + Val.scaled (.fin s' m' e') e0
    if x = 0 then (.fin (s && s') 0 0, 0) else (Val.ofScaled x e0, 0)

/-- The exact product, with IV for an infinity times zero. -/
def Val.mul : Val → Val → Val × Nat
  | .nan, _ => (.nan, 0)
  | _, .nan => (.nan, 0)
  | .inf a, .inf b => (.inf (a != b), 0)
  | .inf a, .fin s m _ => if m = 0 then (.nan, flagIV) else (.inf (a != s), 0)
  | .fin s m _, .inf b => if m = 0 then (.nan, flagIV) else (.inf (s != b), 0)
  | .fin s m e, .fin s' m' e' => (.fin (s != s') (m * m') (e + e'), 0)

/-- The exact a*b + c. A NaN operand gives a NaN and no flag. -/
def Val.fma (a b c : Val) : Val × Nat :=
  if c.isNan then (.nan, 0)
  else
    let (p, f) := a.mul b
    let (r, g) := p.add c
    (r, f ||| g)

/-- A nonzero number known to `m` * 2^e from below, with something left over when `rest`: an extra last bit keeps the
rounding right. -/
def stickyVal (neg : Bool) (m : Nat) (e : Int) (rest : Bool) : Val := .fin neg (2 * m + b2n rest) (e - 1)

/-- IEEE 754 division (R125): a value whose rounding to any format of R85 is that of the quotient. -/
def Val.div : Val → Val → Val × Nat
  | .nan, _ => (.nan, 0)
  | _, .nan => (.nan, 0)
  | .inf _, .inf _ => (.nan, flagIV)
  | .inf a, .fin s _ _ => (.inf (a != s), 0)
  | .fin s _ _, .inf b => (.fin (s != b) 0 0, 0)
  | .fin s m e, .fin s' m' e' =>
    if m' = 0 then (if m = 0 then (.nan, flagIV) else (.inf (s != s'), flagDZ))
    else if m = 0 then (.fin (s != s') 0 0, 0)
    else
      let k := 64 + Nat.log2 m'
      (stickyVal (s != s') (m * 2 ^ k / m') (e - e' - k) (m * 2 ^ k % m' != 0), 0)

/-- Order of two values that are not NaNs. -/
def Val.lt : Val → Val → Bool
  | .nan, _ => false
  | _, .nan => false
  | .inf a, .inf b => a && !b
  | .inf a, .fin .. => a
  | .fin .., .inf b => !b
  | .fin s m e, .fin s' m' e' =>
    let e0 := min e e'
    decide (Val.scaled (.fin s m e) e0 < Val.scaled (.fin s' m' e') e0)

/-- Equality of two values that are not NaNs; the zeros are equal. -/
def Val.eqv (a b : Val) : Bool := !a.isNan && !b.isNan && !a.lt b && !b.lt a

/-- The value's sign. -/
def Val.sign : Val → Bool
  | .nan => false
  | .inf s => s
  | .fin s _ _ => s

/-- R125: the greater value, +0 above -0, a NaN if either is one. -/
def Val.max (a b : Val) : Val :=
  if a.isNan || b.isNan then .nan
  else if a.lt b then b else if b.lt a then a else if a.sign then b else a

/-- R125: the lesser value, -0 below +0. -/
def Val.min (a b : Val) : Val :=
  if a.isNan || b.isNan then .nan
  else if a.lt b then a else if b.lt a then b else if a.sign then a else b

/-- An FP32 word's value. -/
def fp32 (w : Word) : Val := Fmt.fp32.decode w.toNat

/-- One FP32 rounding to nearest even of an exact result that may carry a flag. -/
def toFp32 (r : Val × Nat) : Word × Nat :=
  let (w, g) := Fmt.fp32.encode Conv.plain .rne r.1
  (BitVec.ofNat 32 w, r.2 ||| g)

/-- FP32 addition, multiplication, fused multiply-add and division, each rounded once. -/
def fAdd (a b : Word) : Word × Nat := toFp32 ((fp32 a).add (fp32 b))
def fSub (a b : Word) : Word × Nat := toFp32 ((fp32 a).add (fp32 b).neg)
def fMul (a b : Word) : Word × Nat := toFp32 ((fp32 a).mul (fp32 b))
def fFma (a b c : Word) : Word × Nat := toFp32 ((fp32 a).fma (fp32 b) (fp32 c))
def fDiv (a b : Word) : Word × Nat := toFp32 ((fp32 a).div (fp32 b))

/-! ### Philox4x32-10 (R103) -/

/-- One round: the counter words and the key. -/
def philoxRound (c : Nat × Nat × Nat × Nat) (k0 k1 : Nat) : Nat × Nat × Nat × Nat :=
  let p0 := 0xD2511F53 * c.1
  let p1 := 0xCD9E8D57 * c.2.2.1
  ((p1 / 2 ^ 32) ^^^ c.2.1 ^^^ k0, p1 % 2 ^ 32, (p0 / 2 ^ 32) ^^^ c.2.2.2 ^^^ k1, p0 % 2 ^ 32)

/-- `n` rounds; the key grows by the Weyl constants after each. -/
def philoxRounds : Nat → Nat × Nat × Nat × Nat → Nat → Nat → Nat × Nat × Nat × Nat
  | 0, c, _, _ => c
  | n + 1, c, k0, k1 =>
    philoxRounds n (philoxRound c k0 k1) ((k0 + 0x9E3779B9) % 2 ^ 32) ((k1 + 0xBB67AE85) % 2 ^ 32)

/-- R103: the random word of element index `n` under a seed. -/
def srWord (seed n : Nat) : Nat :=
  (philoxRounds 10 (n % 2 ^ 32, n / 2 ^ 32 % 2 ^ 32, 0, 0) (seed % 2 ^ 32) (seed / 2 ^ 32 % 2 ^ 32)).1 % 2 ^ 16

/-- The rounding that an operation asks for, at an element index. -/
def srRnd (sr : Bool) (seed n : Nat) : Rnd := if sr then .sr (srWord seed (n % 2 ^ 64)) else .rne

/-! ### MX blocks (R88, R105 to R107) -/

/-- The MX element formats of R68: a float, or MXINT8. -/
inductive MxFmt where
  | float (f : Fmt)
  | int8
  deriving DecidableEq, Repr

/-- R105: the exponent of the element format's largest normal. -/
def MxFmt.emax : MxFmt → Int
  | .float .e4m3 => 8
  | .float .e5m2 => 15
  | .float .e3m2 => 4
  | .float .e2m3 => 2
  | .float .e2m1 => 2
  | .float _ => 0
  | .int8 => 0

/-- R88: the value of one element before its scale. -/
def MxFmt.decode : MxFmt → Nat → Val
  | .float f, w => f.decode w
  | .int8, w => Val.ofScaled (signed 8 w) (-6)

/-- R106: one element rounded, saturating. -/
def MxFmt.encode : MxFmt → Val → Nat × Nat
  | .float f, v =>
    let (w, g) := f.encode Conv.plain .rne v
    if g &&& flagOF != 0 then (f.maxFinite + f.signBit v.sign, flagNX + flagSAT)
    else (w, g)
  | .int8, .fin neg m e =>
    let (n, ex) := if -6 ≤ e then (m * 2 ^ (e + 6).toNat, true) else roundShift .rne m (-6 - e).toNat
    let g := if ex then 0 else flagNX
    if 127 < n then (if neg then 129 else 127, flagNX + flagSAT) else ((if neg then (256 - n) % 256 else n), g)
  | .int8, _ => (0, 0)

/-- The exponent of a nonzero value's leading bit. -/
def Val.topExp : Val → Int
  | .fin _ m e => (Nat.log2 m : Int) + e
  | _ => 0

/-- R105 to R107: values converted into one MX block: scale byte, elements, flags. -/
def mxBlock (f : MxFmt) (vs : List Val) : Nat × List Nat × Nat :=
  if vs.any (fun v => !v.isFin) then
    (0xFF, vs.map (fun _ => 0), (if vs.any Val.isNan then flagIV else 0) ||| (if vs.any (fun v => !v.isFin && !v.isNan)
      then flagOF else 0))
  else if vs.all Val.isZero then (0x7F, vs.map (fun _ => 0), 0)
  else
    let top := (vs.filter (fun v => !v.isZero)).foldl (fun t v => max t v.topExp) (-100000)
    let x := max (top - f.emax) (-127)
    let rs := vs.map (fun v => f.encode (match v with | .fin s m e => .fin s m (e - x) | v => v))
    ((x + 127).toNat, rs.map (·.1), rs.foldl (fun g r => g ||| r.2) 0)

end Sys2Proof.Machine
end

