-- ==== Sys2Proof/Machine/Special.lean ====
section
/-! DEFINITION. The built-in special functions of R133, correctly rounded. Each is computed in fixed point with 640
fraction bits, then cut with one extra bit that stands for what follows; notes/assumptions/17.md says why that bit
decides the rounding. -/

namespace Sys2Proof.Machine

/-- Fraction bits of the fixed point. -/
def fxP : Nat := 640

/-- One. -/
def fxOne : Int := 2 ^ 640

/-- π times 2^900, cut. -/
def piWide : Int :=
  ((0x3243f6a8885a308d313198a2e03707344a4093822299f31d0082efa98ec4e6c894) * 2 ^ 320 +
    0x52821e638d01377be5466cf34e90c6cc0ac29b7c97c50dd3f84d5b5b54709179216d5d98979fb1bd) * 2 ^ 320 +
    0x1310ba698dfb5ac2ffd72dbd01adfb7b8e1afed6a267e96ba7c9045f12c7f9924a19947b3916cf70

/-- ln 2 times 2^900, cut. -/
def ln2Wide : Int :=
  ((0xb17217f7d1cf79abc9e3b39803f2f6af40f343267298b62d8a0d175b8baafa2be) * 2 ^ 320 +
    0x7b876206debac98559552fb4afa1b10ed2eae35c138214427573b291169b8253e96ca16224ae8c51) * 2 ^ 320 +
    0xacbda11317c387eb9ea9bc3b136603b256fa0ec7657f74b72ce87b19d6548caf5dfa6bd383032486

/-- ln 2 in fixed point. -/
def ln2Fx : Int := ln2Wide / 2 ^ 260

/-- Product in fixed point. -/
def fxMul (a b : Int) : Int := a * b / 2 ^ 640

/-- Quotient in fixed point. -/
def fxDiv (a b : Int) : Int := a * 2 ^ 640 / b

/-- Integer square root by bits, from bit `n` - 1 down. -/
def isqrtAux : Nat → Nat → Nat → Nat
  | 0, _, r => r
  | n + 1, x, r => let r' := r + 2 ^ n; isqrtAux n x (if r' * r' ≤ x then r' else r)

/-- ⌊√x⌋. -/
def isqrt (x : Nat) : Nat := isqrtAux (Nat.log2 x / 2 + 1) x 0

/-- A finite value in fixed point; exact for every FP32 value and every product of one with an integer. -/
def Val.fx : Val → Int
  | .fin neg m e => (if neg then -1 else 1) * (m : Int) * 2 ^ (e + 640).toNat
  | _ => 0

/-- Σ y^k/k!, `n` more terms. -/
def expSeries : Nat → Nat → Int → Int → Int → Int
  | 0, _, _, _, sum => sum
  | n + 1, k, y, term, sum => let t := fxMul term y / (k : Int); expSeries n (k + 1) y t (sum + t)

/-- e^y as a mantissa in fixed point, from 1 to below 2, and a power of two. -/
def expFx (y : Int) : Int × Int :=
  let n := y / ln2Fx
  (expSeries 130 1 (y - n * ln2Fx) fxOne fxOne, n)

/-- A mantissa in fixed point times 2^n, cut. -/
def fxShift (m n : Int) : Int := if 0 ≤ n then m * 2 ^ n.toNat else m / 2 ^ (-n).toNat

/-- e^y in fixed point. -/
def expFlat (y : Int) : Int := let (m, n) := expFx y; fxShift m n

/-- Σ z^(2k+1)/(2k+1). -/
def atanhSeries : Nat → Nat → Int → Int → Int → Int
  | 0, _, _, _, sum => sum
  | n + 1, k, z2, pow, sum => let p := fxMul pow z2; atanhSeries n (k + 2) z2 p (sum + p / (k : Int))

/-- ln of a mantissa from 1 to below 2. -/
def lnMant (m : Int) : Int :=
  let z := fxDiv (m - fxOne) (m + fxOne)
  2 * atanhSeries 210 3 (fxMul z z) z z

/-- ln of a positive number in fixed point. -/
def lnFx (x : Int) : Int :=
  let k : Int := (Nat.log2 x.toNat : Int) - 640
  k * ln2Fx + lnMant (fxShift x (-k))

/-- Σ of the terms of sin or cos: each is the one before times -y²/(k (k + 1)). -/
def trigSeries : Nat → Nat → Int → Int → Int → Int
  | 0, _, _, _, sum => sum
  | n + 1, k, y2, term, sum =>
    let t := -(fxMul term y2) / ((k * (k + 1) : Nat) : Int)
    trigSeries n (k + 2) y2 t (sum + t)

/-- sin of a reduced argument. -/
def sinFx (r : Int) : Int := trigSeries 80 2 (fxMul r r) r r

/-- cos of a reduced argument. -/
def cosFx (r : Int) : Int := trigSeries 80 1 (fxMul r r) fxOne fxOne

/-- R135: exact reduction modulo π/2: quadrant and remainder. -/
def trigReduce (v : Val) : Int × Int :=
  match v with
  | .fin neg m e =>
    let w : Int := (if neg then -1 else 1) * (m : Int) * 2 ^ (e + 900).toNat
    let q := (2 * w + piWide / 2) / piWide
    (q % 4, (w - q * piWide / 2) / 2 ^ 260)
  | _ => (0, 0)

/-- Σ 2^n z^(2n+1)/(2n+1)!!. -/
def erfSeries : Nat → Nat → Int → Int → Int → Int
  | 0, _, _, _, sum => sum
  | n + 1, k, w, term, sum => let t := fxMul term w / (k : Int); erfSeries n (k + 2) w t (sum + t)

/-- erf of a number from 0 to about 15. -/
def erfFx (z : Int) : Int :=
  let z2 := fxMul z z
  let s := erfSeries 900 3 (2 * z2) z z
  let (m, n) := expFx (-z2)
  let rootPi : Int := (isqrt (piWide * 2 ^ 380).toNat : Int)
  fxDiv (2 * fxShift (fxMul m s) n) rootPi

/-- 1/(1 + e^-y) in fixed point, for y from -300 to 300 or so. -/
def sigmoidFx (y : Int) : Int :=
  let e := expFlat (if y < 0 then -y else y)
  if y < 0 then fxDiv fxOne (fxOne + e) else fxDiv e (fxOne + e)

/-- A result known in fixed point, inexact. -/
def fxVal (x : Int) : Val := stickyVal (decide (x < 0)) x.natAbs (-640) true

/-- A value times a positive factor in fixed point, inexact. -/
def Val.scaleFx (v : Val) (x : Int) : Val :=
  match v with
  | .fin s m e => stickyVal s (m * x.toNat) (e - 640) true
  | v => v

/-- A magnitude below every rounding boundary of FP32. -/
def tinyVal (neg : Bool) : Val := .fin neg 1 (-400)

/-- A value that lies just below, or just above, a finite one in magnitude. -/
def Val.nudge (v : Val) (up : Bool) : Val :=
  match v with
  | .fin s m e => .fin s (if up then m * 2 ^ 400 + 1 else m * 2 ^ 400 - 1) (e - 400)
  | v => v

/-- |v| is greater than the integer `n`. -/
def Val.magAbove (v : Val) (n : Nat) : Bool :=
  match v with
  | .fin _ m e => Val.lt (.fin false n 0) (.fin false m e)
  | _ => false

/-- A nonzero finite value is a power of two; its exponent. -/
def Val.pow2 : Val → Option Int
  | .fin _ m e => if m = 2 ^ Nat.log2 m then some ((Nat.log2 m : Int) + e) else none
  | _ => none

/-- A finite value is an integer; which. -/
def Val.int? : Val → Option Int
  | .fin s m e =>
    let x : Option Nat := if 0 ≤ e then some (m * 2 ^ (if e < 300 then e else 300).toNat)
      else if m % 2 ^ (-e).toNat = 0 then some (m / 2 ^ (-e).toNat) else none
    x.map (fun n => if s then -(n : Int) else (n : Int))
  | _ => none

/-- exp2 (FUNC 0x00). -/
def sfExp2 : Val → Val × Nat
  | .nan => (.nan, 0)
  | .inf s => (if s then .fin false 0 0 else .inf false, 0)
  | .fin s m e =>
    let v : Val := .fin s m e
    if v.magAbove 1000 then (if s then tinyVal false else .fin false 1 1000, 0)
    else match v.int? with
      | some n => (.fin false 1 n, 0)
      | none =>
        let y := v.fx
        let n := y / fxOne
        let f := expSeries 130 1 (fxMul (y - n * fxOne) ln2Fx) fxOne fxOne
        (stickyVal false f.toNat (n - 640) true, 0)

/-- log2 (FUNC 0x01). -/
def sfLog2 : Val → Val × Nat
  | .nan => (.nan, 0)
  | .inf s => if s then (.nan, flagIV) else (.inf false, 0)
  | .fin s m e =>
    if m = 0 then (.inf true, 0)
    else if s then (.nan, flagIV)
    else match Val.pow2 (.fin s m e) with
      | some n => (Val.ofInt n, 0)
      | none =>
        let k : Int := (Nat.log2 m : Int)
        (fxVal ((k + e) * fxOne + fxDiv (lnMant (fxShift ((m : Int) * fxOne) (-k))) ln2Fx), 0)

/-- 1/x (FUNC 0x02). -/
def sfRecip (v : Val) : Val × Nat := Val.div (.fin false 1 0) v

/-- 1/√x (FUNC 0x03). -/
def sfRsqrt : Val → Val × Nat
  | .nan => (.nan, 0)
  | .inf s => if s then (.nan, flagIV) else (.fin false 0 0, 0)
  | .fin s m e =>
    if m = 0 then (.inf s, flagDZ)
    else if s then (.nan, flagIV)
    else
      let (m', e') := if e % 2 = 0 then (m, e) else (2 * m, e - 1)
      let r := isqrt (2 ^ 400 / m')
      (stickyVal false r (-200 - e' / 2) (r * r * m' != 2 ^ 400), 0)

/-- tanh (FUNC 0x04). -/
def sfTanh : Val → Val × Nat
  | .nan => (.nan, 0)
  | .inf s => (.fin s 1 0, 0)
  | .fin s m e =>
    if m = 0 then (.fin s m e, 0)
    else if Val.magAbove (.fin s m e) 256 then (Val.nudge (.fin s 1 0) false, 0)
    else
      let ex := expFlat (2 * Val.fx (.fin false m e))
      (stickyVal s (fxDiv (ex - fxOne) (ex + fxOne)).toNat (-640) true, 0)

/-- sigmoid (FUNC 0x05). -/
def sfSigmoid : Val → Val × Nat
  | .nan => (.nan, 0)
  | .inf s => (if s then .fin false 0 0 else .fin false 1 0, 0)
  | .fin s m e =>
    if m = 0 then (.fin false 1 (-1), 0)
    else if Val.magAbove (.fin s m e) 256 then (if s then tinyVal false else Val.nudge (.fin false 1 0) false, 0)
    else (fxVal (sigmoidFx (Val.fx (.fin s m e))), 0)

/-- erf (FUNC 0x06). -/
def sfErf : Val → Val × Nat
  | .nan => (.nan, 0)
  | .inf s => (.fin s 1 0, 0)
  | .fin s m e =>
    if m = 0 then (.fin s m e, 0)
    else if Val.magAbove (.fin s m e) 12 then (Val.nudge (.fin s 1 0) false, 0)
    else (stickyVal s (erfFx (Val.fx (.fin false m e))).toNat (-640) true, 0)

/-- R134, the ends of GELU and SiLU: a sum of x at +∞, -0 at -∞, the zeros kept. -/
def sfGate (limit : Nat) (gate : Int → Int) : Val → Val × Nat
  | .nan => (.nan, 0)
  | .inf s => (if s then .fin true 0 0 else .inf false, 0)
  | .fin s m e =>
    let v : Val := .fin s m e
    if m = 0 then (v, 0)
    else if v.magAbove limit then (if s then tinyVal true else v.nudge false, 0)
    else (v.scaleFx (gate v.fx), 0)

/-- (1 + erf(x/√2))/2. -/
def geluGate (x : Int) : Int :=
  let z := fxDiv (if x < 0 then -x else x) ((isqrt (2 ^ 1281) : Nat) : Int)
  let r := erfFx z
  (if x < 0 then fxOne - r else fxOne + r) / 2

/-- (1 + tanh(√(2/π)(x + 0.044715x³)))/2. -/
def geluTanhGate (x : Int) : Int :=
  let inner := x + fxMul (fxMul x x) x * 44715 / 1000000
  let c : Int := (isqrt (2 ^ 2181 / piWide.toNat) : Int)
  sigmoidFx (2 * fxMul c inner)

/-- softplus (FUNC 0x0A). -/
def sfSoftplus : Val → Val × Nat
  | .nan => (.nan, 0)
  | .inf s => (if s then .fin false 0 0 else .inf false, 0)
  | .fin s m e =>
    if Val.magAbove (.fin s m e) 256 then (if s then tinyVal false else Val.nudge (.fin s m e) true, 0)
    else (fxVal (lnFx (fxOne + expFlat (Val.fx (.fin s m e)))), 0)

/-- sin (FUNC 0x0B) and cos (FUNC 0x0C) of an exact value. -/
def sfTrig (isCos : Bool) : Val → Val × Nat
  | .nan => (.nan, 0)
  | .inf _ => (.nan, flagIV)
  | .fin s m e =>
    if m = 0 then (if isCos then .fin false 1 0 else .fin s 0 0, 0)
    else
      let (q, r) := trigReduce (.fin s m e)
      let k := if isCos then (q + 1) % 4 else q
      let y := if k % 2 = 0 then sinFx r else cosFx r
      (fxVal (if 2 ≤ k then -y else y), 0)

/-- R133: the built-in functions, before their one rounding; none for the reserved and user codes. -/
def sfBuiltin (func : Nat) (v : Val) : Option (Val × Nat) :=
  if func = 0 then some (sfExp2 v) else if func = 1 then some (sfLog2 v) else if func = 2 then some (sfRecip v)
  else if func = 3 then some (sfRsqrt v) else if func = 4 then some (sfTanh v) else if func = 5 then some (sfSigmoid v)
  else if func = 6 then some (sfErf v) else if func = 7 then some (sfGate 20 geluGate v)
  else if func = 8 then some (sfGate 16 geluTanhGate v) else if func = 9 then some (sfGate 256 sigmoidFx v)
  else if func = 10 then some (sfSoftplus v) else if func = 11 then some (sfTrig false v)
  else if func = 12 then some (sfTrig true v) else if func = 13 then some (v, 0)
  else if func = 14 then some (Val.max v (.fin false 0 0), 0) else none

/-- A built-in on FP32 words. -/
def sfWord (func : Nat) (x : Word) : Option (Word × Nat) := (sfBuiltin func (fp32 x)).map toFp32

end Sys2Proof.Machine
end

