-- ==== Sys2Proof/Config.lean ====
section
/-! DEFINITION. What the manual leaves open: the free values (constants with no body, of which nothing can be proved)
and the verdicts of standards that lie outside the manual. Each is named in a row of notes/assumptions. -/

namespace Sys2Proof.Config

/-- The byte that undefined memory reads as: `gen` counts the times the byte became undefined, `addr` its address. -/
opaque freeByte (gen addr : Nat) : BitVec 8

/-- A free 32-bit value, fresh for every `n`. -/
opaque freeWord (n : Nat) : BitVec 32

/-- A free 64-bit value, fresh for every `n`. -/
opaque freeDWord (n : Nat) : BitVec 64

/-- A free number, fresh for every `n`. -/
opaque freeNat (n : Nat) : Nat

/-- R101, R117: the byte that VST stores for an INT32 lane that INT8 cannot hold. -/
opaque wideInt8 (lane : BitVec 32) : BitVec 8

/-- R139, R117: K of an RRED whose product of `x` and `c` is not finite. -/
opaque rredOpen (x c : BitVec 32) : Int

/-- R139, R117: the table index of a TLU whose operand has no leading 1. -/
opaque tluOpen (x : BitVec 32) (n : Nat) : Nat

/-- ML-DSA-87 signature of a 64-byte digest by the identity key (R423): 4,627 bytes, by FIPS 204. -/
opaque mlDsaSign (digest : List Byte) (n : Nat) : Nat → BitVec 8

/-- Byte `i` of the module's ML-DSA-87 identity public key (R416). -/
opaque identityKey (i : Nat) : BitVec 8

/-- Byte `i` of the module's identity certificate (R416), and its length. -/
opaque certByte (i : Nat) : BitVec 8

/-- Length of the identity certificate, at most 16 KiB (R422). -/
opaque certLen : Nat

/-- MAC address of the management port as manufactured (R300, R426). -/
opaque mac : Nat

/-- Tile speed map entry of a tile and operating point as manufactured, in M steps/s (R402). -/
opaque tileSpeed (tile vp : Nat) : Nat

/-- R397: the full-load estimate of an operating point, in W, from the part's calibration in the retained store. -/
opaque fullLoadW (vp : Nat) : Nat

/-- R188: what a training of all channels finds for channel `ch`: strobe delay, reference, and the two windows. -/
opaque bootTrain (gen ch what : Nat) : Nat

/-- R203: the CMC's choice among the intermediate tiles of a route. -/
opaque detourChoice (gen a b : Nat) : Nat

/-- R421: the bytes of sections of the retained store as they are measured: `which` names the sections. -/
opaque sectionDigest (which : Nat) (content : List (Nat × Nat)) : List (BitVec 8)

/-- R280, R285: length in metres of the longest fibre on a port, as the machine is installed. -/
opaque fibreMetres (port : Nat) : Nat

/-- R423: the ROM version. -/
opaque romVer : Nat

/-- R241: pages of a NAND block on one die. -/
opaque flashBlockPages : Nat

/-- R243: WEAR_PCT when the most worn die's blocks have been erased this often. -/
opaque flashWear (erases : Nat) : Nat

/-! The verdicts of the coding standards of R253 on the bytes of a sample. -/

/-- R263 step 5: what the first sequence-level header in the window says; empty where it does not parse. The entries are
profile (seq_profile, general_profile_idc, profile_idc, the VP9 profile, the SOF marker), level in tenths, 1 for field-coded
or interlaced, width, height, bit depth, chroma (0 one component, 1 4:2:0, 2 4:2:2, 3 4:4:4), the frame count of an IVF
header, matrix (0 none signalled, 1 BT.601, 2 BT.709, 3 BT.2020), 1 for full range, and chroma siting type (0 to 5). -/
opaque kilnParse (codec : Nat) (window : List (BitVec 8)) : List Nat

/-- R265: `bytes` begin a random-access point numbered `frame`. -/
opaque kilnSeekPoint (codec : Nat) (bytes : List (BitVec 8)) (frame : Nat) : Bool

/-- R265: decoding `bytes`, which begin at frame `first`, up to frame `last`: 0 decodes, 1 violates the standard, 2 ends
early, 3 changes its sequence-level header. -/
opaque kilnVerdict (codec : Nat) (bytes : List (BitVec 8)) (first last : Nat) : Nat

/-- R253: the decoded sample of plane `plane` (0 luma, 1 Cb, 2 Cr) of frame `frame` at (x, y). -/
opaque kilnSample (codec : Nat) (bytes : List (BitVec 8)) (first frame plane x y : Nat) : Nat

end Sys2Proof.Config
end

