-- ==== Sys2Proof/Machine/State.lean ====
section
/-! DEFINITION. The state of the module, as plain data, and the state after reset.
Registers that the manual maps as plain words live in `State.regs`, keyed by BAR0 offset and bank (Registers.lean holds
their field tables); everything that a unit keeps beyond its registers has a structure of its own here. -/

namespace Sys2Proof.Machine

/-- A sparse table, sorted by key. -/
abbrev Tbl (α : Type) := List (Nat × α)

/-- How a region of memory was last filled: with zeros, or with contents that the manual leaves undefined (`gen` tells
one such filling from the next). -/
inductive Fill where
  | zero
  | undef (gen : Nat)
  deriving DecidableEq, Repr

/-- A filled region of memory, newest first in `Memory.fills`. -/
structure FillRegion where
  base : Nat
  len : Nat
  fill : Fill
  deriving DecidableEq, Repr

/-- Sparse memory: the bytes that differ from the background, at strictly rising addresses, over the fills. -/
structure Memory where
  cells : List Host.Cell
  fills : List FillRegion
  deriving DecidableEq, Repr

/-! ### Masters (R442, R446) -/

/-- The KV command run a master has begun (R173). -/
structure KvRun where
  slot : Nat
  bytes : List Byte
  at_ : Nat
  deriving DecidableEq, Repr

/-- What is kept for one master beyond its selections and latches, which are banked words. -/
structure Master where
  /-- Device time at which the unlock was disarmed; none while armed. -/
  unlockedAt : Option Nat
  run : Option KvRun
  /-- The value of the master's last register read; none where it ended in Completer Abort (R388)
  or address error. -/
  lastRead : Option Word
  deriving DecidableEq, Repr

/-! ### Timed requests (R41 to R57) -/

/-- An admitted timed request: its ledger entries are `res`, resource code of R471 and remaining size. -/
structure TReq where
  id : Nat
  /-- 0 descriptor ring, 1 hod stream, 2 link flow, 3 pallet stream, 4 mailbox, 5 the CMC's re-train. -/
  qkind : Nat
  ctx : Nat
  queue : Nat
  tag : Nat
  cplRing : Nat
  deadline : Nat
  allow : Nat
  res : List (Nat × Nat)
  broken : Bool
  deriving DecidableEq, Repr

/-- Device time, operating point and admission state (R37, R50, R397). -/
structure TimeSt where
  devTime : Nat
  /-- Correction still to be slewed, in ps, and the part below 1 ns. -/
  slewLeft : Int
  slewAcc : Int
  curVp : Nat
  pp : Nat
  pendVp : Option Nat
  shedStage : Nat
  /-- Admission stopped by shedding (R53 E2, R407), or by an announced removal (R353). -/
  admStopped : Bool
  removed : Bool
  stepMedian : Nat
  stepSlowest : Nat
  treqs : List TReq
  /-- Deadline of the last request admitted as timed on each queue (R42). -/
  lastDeadline : List ((Nat × Nat × Nat) × Nat)
  deriving DecidableEq, Repr

/-! ### The tile (R59) -/

/-- R84 STATE, 2 (waiting) apart, which shows a running tile whose WAIT is pending. -/
inductive TileRun where
  | idle | running | faulted | fenced | spalled
  deriving DecidableEq, Repr

/-- Why the sequencer issues no word. -/
inductive Stall where
  | none
  | fetch
  | queueFull
  | fence
  | halt
  | split (cache : Nat)
  deriving DecidableEq, Repr

/-- A word in a unit queue, with its command address and issue number. -/
structure QWord where
  addr : Nat
  word : CWord
  seq : Nat
  deriving DecidableEq, Repr

/-- The word a unit runs; `finished` once only its completion is left, `flags` raised by it so far (R108), `latch` what
a waiting TUPDATE copied when the trowel took it (R330), or the value and need-by time of a WAIT. -/
structure Active where
  addr : Nat
  word : CWord
  seq : Nat
  flags : BitVec 8
  finished : Bool
  latch : List Nat
  deriving DecidableEq, Repr

/-- One unit with its queue of 16 words (R61). The matrix unit is two: the array, with the queue, and at index 7 of
`units` the drain port (R75). -/
structure UnitQ where
  queue : List QWord
  active : Option Active
  deriving DecidableEq, Repr

/-- One level of LOOP. -/
structure LoopLevel where
  first : Nat
  last : Nat
  left : Nat
  deriving DecidableEq, Repr

/-- One cell of an EXACT accumulator set (R89 to R94). -/
structure ExactCell where
  anchor : Option Int
  acc : BitVec 96
  guardCnt : Nat
  nan : Bool
  pinf : Bool
  ninf : Bool
  deriving DecidableEq, Repr

/-- One accumulator set: its path tag (R73) with the 256 cells, row by row. -/
inductive AccSet where
  | empty
  | exact (cells : List ExactCell) (int8Only : Bool)
  | fp32 (cells : List Word)
  deriving DecidableEq, Repr

/-- One statistics accumulator (R129). -/
structure StatAcc where
  started : Bool
  finalised : Bool
  rms : Bool
  shift : Word
  n : Nat
  nonfin : Bool
  inf : Bool
  d : List (Word × Word)
  d2 : List (Word × Word)
  mean : Word
  rstd : Word
  deriving DecidableEq, Repr

/-- One hod stream (R208). -/
structure Stream where
  timed : Bool
  rt : Bool
  recv : Bool
  credits : Nat
  delivered : Nat
  deriving DecidableEq, Repr

/-- What one hod request does: `spread` serves a relay, a multicast or a replay (R226 to R228), `index` reads an index
list (R220). -/
inductive HKind where
  | copy | zero | prefetch | spread | index
  deriving DecidableEq, Repr

/-- One hod request of at most 512 B (R212). -/
structure HReq where
  desc : Nat
  kind : HKind
  src : Nat
  dst : Nat
  len : Nat
  /-- Row of a gather or scatter. -/
  row : Nat
  deriving DecidableEq, Repr

/-- A tag held by an issued request (R214): its destination, and whether its channel leg or host read has answered. -/
structure HTag where
  tag : Nat
  req : HReq
  dest : Nat
  /-- The context for which the request runs. -/
  ctx : Nat
  answered : Bool
  /-- Order of the answer among those that wait to land (R204), and the tile from whose router it came, if any. -/
  arrival : Nat
  origin : Option Nat
  failed : Bool
  /-- The tag waits for its write, the read leg being over. -/
  writing : Bool
  /-- The data read carried the poison mark. -/
  marked : Bool
  /-- Reads and writes of the descriptor that go through the tile cache (R221), REUSE and TENSOR. -/
  cacheRd : Bool
  cacheWr : Bool
  reuse : Nat
  tensor : Nat
  data : List Byte
  poison : List Nat
  deriving DecidableEq, Repr

/-- A descriptor submitted to a stream. -/
structure HDesc where
  id : Nat
  stream : Nat
  /-- The context of its launch. -/
  ctx : Nat
  bytes : List Byte
  /-- Command address of the HODRUN word, and the token it signals at delivery. -/
  pc : Nat
  sig : Option Nat
  deadline : Nat
  timed : Bool
  /-- 0 bulk, 1 timed, 2 admitted as bulk. -/
  adm : Nat
  treq : Option Nat
  taken : Bool
  /-- Bytes added to SRC (R30) when the descriptor was taken. -/
  genOfs : Nat
  waiting : List HReq
  issued : Nat
  /-- Index list of a gather or scatter: rows turned into requests, bytes of the list asked for and read, and the bytes
  of an index that two reads share, with whether they are usable. -/
  rowNext : Nat
  idxAsked : Nat
  idxNext : Nat
  idxRest : List Byte
  idxBad : Bool
  /-- Members of a relay or multicast, and members dropped. -/
  members : List Nat
  dropped : List Nat
  /-- A relay or multicast has started, and all of its data has landed at its members. -/
  sent : Bool
  landed : Bool
  /-- The descriptor is a replay to a dropped member (R228): it belongs to no stream. -/
  replay : Bool
  /-- 0 good, 1 address error, 2 poisoned, 3 cancelled, 4 refused. -/
  status : Nat
  done : Bool
  /-- Marked late by a miss (R56); over without its work, being refused or cancelled. -/
  late : Bool
  cancel : Bool
  kvUser : Option Nat
  deriving DecidableEq, Repr

/-- The hod and gather engine (R208 to R220). -/
structure Hod where
  streams : Tbl Stream
  descs : List HDesc
  tags : List HTag
  lastStream : Nat
  deriving DecidableEq, Repr

/-- One line of the tile cache (R221, R222). -/
structure CLine where
  addr : Nat
  data : List Byte
  poison : List Nat
  dirty : Bool
  tagged : Bool
  count : Nat
  tensor : Nat
  lru : Nat
  deriving DecidableEq, Repr

/-- One tile. -/
structure Tile where
  run : TileRun
  stall : Stall
  ctx : Nat
  launch : Nat
  lastCtx : Option Nat
  pc : Nat
  image : Nat
  sregs : List DWord
  tokens : List Nat
  cmdCache : Tbl CWord
  units : List UnitQ
  issueSeq : Nat
  loops : List LoopLevel
  acc : Tbl AccSet
  vregs : Tbl (BitVec 1024)
  vmasks : Tbl (BitVec 64)
  scanChain : Option Word
  redChain : Option Word
  sta : Tbl StatAcc
  bank0 : Tbl Word
  bank1 : Tbl Word
  activeBank : Bool
  gen : BitVec 8
  store : Tbl (BitVec 64)
  dir : Tbl (Nat × Nat)
  split : Nat
  e4m3Ovf : Bool
  e5m2Ovf : Bool
  seed : DWord
  hod : Hod
  cache : List CLine
  cacheClock : Nat
  fencePending : Bool
  /-- Zeroed before its next launch (R461). -/
  zeroNext : Bool
  /-- Restored and not yet measured by a self-test that passes (R464). -/
  restored : Bool
  deriving DecidableEq, Repr

/-! ### Channels and bricks (R176 to R200) -/

/-- R200 STATE. -/
inductive ChState where
  | untrained | active | degraded | training | fenced | spalled
  deriving DecidableEq, Repr

/-- Where a re-train stands (R191). -/
inductive Retrain where
  | none | refused | submitted | running
  deriving DecidableEq, Repr

/-- One request entry of a channel controller (R216), or one that waits for an entry; `treq` is the timed request it
belongs to, `vc` the virtual channel of R202 on which it came. -/
structure CEntry where
  id : Nat
  tile : Nat
  tag : Nat
  treq : Option Nat
  vc : Nat
  write : Bool
  addr : Nat
  len : Nat
  next : Nat
  data : List Byte
  poison : List Nat
  deriving DecidableEq, Repr

/-- One channel. -/
structure Chan where
  state : ChState
  /-- State to return to when a training that runs ends on a fenced channel. -/
  wasFenced : Bool
  unfenceAfter : Bool
  spare0 : Nat
  spare1 : Nat
  suspect : BitVec 36
  passCnt : Tbl Nat
  stb : Nat
  vref : Nat
  /-- Deskew trims of the 38 pins (R188). -/
  dsk : List Nat
  eyeStb : Nat
  eyeVref : Nat
  retrain : Retrain
  retrainReq : Option Nat
  /-- Device time at which admission last refused the re-train (R191). -/
  refusedAt : Nat
  fencing : Bool
  selftestPassed : Bool
  needArray : Bool
  margin : Option Nat
  marginLow : Nat
  marginHigh : Nat
  marginLane : Nat
  marginValid : Bool
  marginNone : Bool
  entries : List CEntry
  held : List CEntry
  service : Option Nat
  /-- Sources served in the turn under way, and all sources, those served least recently first (R31, R217). -/
  turn : List Nat
  rota : List Nat
  scrubLine : Nat
  refreshed : Tbl Nat
  deriving DecidableEq, Repr

/-- The local output of a router (R205): the input of each class granted last, and of each bulk virtual channel the
flits that timed packets have sent since its last flit, with the flits sent of the packet at its head. -/
structure RouterOut where
  lastTimed : Nat
  lastBulk : Nat
  owed : Tbl (Nat × Nat)
  deriving DecidableEq, Repr

/-- The mortar (R201 to R207, R230): flits carried by leg, keyed by its ends; the count of each output that its last
read of LINK_FLITS saw; and the local outputs of the routers, keyed by 2 times the tile, plus 1 for the responses to
its hod. -/
structure Mortar where
  flows : Tbl Nat
  seen : Tbl Nat
  routers : Tbl RouterOut
  deriving DecidableEq, Repr

/-- One brick (R196, R199). -/
structure Brick where
  temp : Nat
  band : Nat
  deriving DecidableEq, Repr

/-- One entry of the error log (R200). -/
structure ErrEntry where
  ch : Nat
  kind : Nat
  cw : Nat
  time : Nat
  deriving DecidableEq, Repr

/-! ### Host interface (R357 to R392) -/

/-- Where a descriptor that the device has read stands. -/
inductive DPhase where
  | ready | running | waiting | finished | held
  deriving DecidableEq, Repr

/-- A descriptor read from a submission ring; `abs` counts entries from ring start. -/
structure Desc where
  abs : Nat
  bytes : List Byte
  phase : DPhase
  adm : Nat
  treq : Option Nat
  status : Nat
  detail : Nat
  missed : Bool
  order : Nat
  deriving DecidableEq, Repr

/-- A submission ring; `head` and `tail` count entries from ring start. -/
structure SRing where
  en : Bool
  base : Nat
  log2 : Nat
  timed : Bool
  rtm : Bool
  /-- The entry with which the ring started when EN was last set. -/
  start : Nat
  head : Nat
  tail : Nat
  /-- Tail and doorbell order number of each doorbell accepted, newest first. -/
  doors : List (Nat × Nat)
  out : List Desc
  deriving DecidableEq, Repr

/-- A completion ring; `head` counts records written, `db` the records released. -/
structure CRing where
  en : Bool
  base : Nat
  log2 : Nat
  vector : Nat
  wb : Nat
  head : Nat
  db : Nat
  deriving DecidableEq, Repr

/-- A record held for a full or disabled ring (R365); `desc` names the descriptor it completes. -/
structure HeldRec where
  ring : Nat
  bytes : List Byte
  irq : Bool
  event : Bool
  desc : Option (Nat × Nat)
  deriving DecidableEq, Repr

/-- A launch, waiting or running (R371). -/
structure Launch where
  id : Nat
  ctx : Nat
  ring : Nat
  abs : Nat
  bytes : List Byte
  running : Bool
  skipped : Nat
  faulted : Nat
  stopped : Bool
  left : List Nat
  deriving DecidableEq, Repr

/-- One context: its context-table entry, rings and poison flags. -/
structure Ctx where
  enable : Bool
  inReset : Bool
  fnEn : Bool
  x0 : Nat
  y0 : Nat
  wm1 : Nat
  hm1 : Nat
  /-- The rectangle at the start of the reset in progress. -/
  resetRect : List Nat
  protBase : Nat
  hostBase : Nat
  hostLimit : Nat
  protCache : Tbl Nat
  stepPoison0 : Bool
  stepPoison1 : Bool
  sq : Tbl SRing
  cq : Tbl CRing
  held : List HeldRec
  pallets : Tbl Nat
  doorOrder : Nat
  deriving DecidableEq, Repr

/-- Who waits on a joint. -/
inductive JWho where
  | tile (t : Nat)
  | desc (ctx ring abs : Nat)
  deriving DecidableEq, Repr

/-- What a pending wait needs. -/
inductive JNeed where
  | ge (v : Nat)
  | order (ticket addend : Nat)
  deriving DecidableEq, Repr

/-- One joint (R377). `cause` is coded as R326. -/
structure Joint where
  valid : Bool
  owner : Nat
  remoteOk : Bool
  value : DWord
  ticket : DWord
  cause : Nat
  waits : List (JWho × JNeed)
  deriving DecidableEq, Repr

/-- One mailbox channel (R382 to R386). -/
structure Mailbox where
  sender : Nat
  receiver : Nat
  timed : Bool
  rt : Bool
  cplRing : Nat
  valid : Bool
  mverMax : Nat
  queue : List (List Byte)
  seq : Nat
  timeout : Bool
  timerFrom : Option Nat
  deriving DecidableEq, Repr

/-! ### KV page manager (R166 to R175) -/

/-- R168: FREE, LIVE or RETIRING. -/
inductive PageState where
  | free | live | retiring
  deriving DecidableEq, Repr

/-- One page record. -/
structure Page where
  st : PageState
  refs : Nat
  pins : Nat
  published : Bool
  /-- Entered in the directory: a page whose references end leaves it. -/
  inDir : Bool
  ring : Bool
  ctx : Nat
  lgrp : Nat
  key : Nat
  epoch : Nat
  deriving DecidableEq, Repr

/-- An accepted page command with its issuer's identity and context. -/
structure KvCmd where
  bytes : List Byte
  ctx : Nat
  deriving DecidableEq, Repr

/-- A WPREP copy in progress; `gone` once its page has been retired since the copy began. -/
structure KvCopy where
  page : Nat
  newPage : Nat
  cmd : KvCmd
  gone : Bool
  deriving DecidableEq, Repr

/-- The KV page manager. -/
structure Kv where
  pages : Tbl Page
  epoch : BitVec 32
  advancedAt : Nat
  accepted : List KvCmd
  copies : List KvCopy
  /-- Descriptors in flight over the pool: user number and epoch of issue. -/
  users : Tbl Nat
  deriving DecidableEq, Repr

/-! ### Flash tier and host memory (R232 to R252) -/

/-- One flash object. -/
structure FObj where
  ctx : Nat
  size : Nat
  poisoned : List Nat
  deriving DecidableEq, Repr

/-- Who issued a flash command: a descriptor, a collective with KEEP, or a kiln engine that reads a sample. -/
inductive FOrigin where
  | ring (ring abs : Nat)
  | keep (group : Nat)
  | kiln (engine : Nat)
  deriving DecidableEq, Repr

/-- A flash command in flight; `units` are the units still to be moved, `programs` its page programs in flight, `data`
the bytes that a KEEP write brings with it. -/
structure FCmd where
  id : Nat
  origin : FOrigin
  ctx : Nat
  op : Nat
  obj : Nat
  off : Nat
  len : Nat
  addr : Nat
  stream : Option (Nat × Nat)
  joint : Option Nat
  started : Bool
  units : List Nat
  status : Nat
  programs : Nat
  /-- Stripes that hold data of the WRITE and whose parity page is still to be programmed (R238): row and stripe. -/
  parity : List (Nat × Nat)
  /-- A program was deferred since the last measurement of the hold-up energy (R249). -/
  deferred : Bool
  /-- A real-time wait on its stream has missed (R239). -/
  late : Bool
  /-- Device time of the command's last step in NAND (R246). -/
  steppedAt : Nat
  data : List Byte
  /-- Of a WRITE from host memory (R247): its host reads asked for and landed, their bytes by offset, and the offsets
  of those that failed. -/
  asked : Nat
  landed : Nat
  parts : Tbl (List Byte)
  badParts : List Nat
  deriving DecidableEq, Repr

/-- The flash tier; `recover` lists the pages whose decode failed, with the read-retries made. The NAND of R241 and R242:
a row is the blocks at one block address of the 16 dies, whose pages form stripes of 15 data pages and one of parity;
`place` gives the row and the data slot of every page of an object that stands in NAND, `fill` the slots of a row that
have been programmed or passed over, `erases` how often a row has been erased, `reads` the reads of each of its blocks
since then, keyed by 16 times the row plus the die, and `retried` the rows whose reads needed read-retry. -/
structure Flash where
  ready : Bool
  readOnly : Bool
  dieFailed : BitVec 16
  wearPct : Nat
  writtenPages : Nat
  objs : Tbl FObj
  data : Memory
  cmds : List FCmd
  recover : List ((Nat × Nat) × Nat)
  place : List ((Nat × Nat) × (Nat × Nat))
  fill : Tbl Nat
  erases : Tbl Nat
  reads : Tbl Nat
  retried : List Nat
  deriving DecidableEq, Repr

/-- Who waits on a host read: a hod tag, a request of a copy, a unit that a flash WRITE takes, or a kiln engine for a
piece of its sample. -/
inductive HostWho where
  | hod (tile tag : Nat)
  | copy (ctx ring abs off : Nat)
  | unit (cmd unit : Nat)
  | engine (k ofs : Nat)
  deriving DecidableEq, Repr

/-- A host read in flight: `addr` is its device address. -/
structure HostRead where
  tag : Nat
  ctx : Nat
  who : HostWho
  addr : Nat
  len : Nat
  sentAt : Nat
  treq : Option Nat
  abandoned : Bool
  deriving DecidableEq, Repr

/-- A copy whose source is host memory, in one of the four copy engines (R373): requests asked for, requests landed,
whether every request succeeded, whether one read as poisoned, the bytes moved, and its number among the users of the
KV pool (R172). -/
structure CopyJob where
  ctx : Nat
  ring : Nat
  abs : Nat
  asked : Nat
  landed : Nat
  ok : Bool
  bad : Bool
  moved : Nat
  kvUser : Option Nat
  deriving DecidableEq, Repr

/-- The hold-up bank (R249, R250). -/
structure Holdup where
  energy : Nat
  ok : Bool
  wasOk : Bool
  deferring : Bool
  failed : Bool
  deriving DecidableEq, Repr

/-! ### Kiln (R253 to R276) -/

/-- How a slot of a batch ended. -/
inductive SlotSt where
  | todo
  | busy
  | corrupt
  | done
  | padding
  deriving DecidableEq, Repr

/-- One slot: `cause` of its own sample, `cand` the backfill entry in use, catalogue index delivered. -/
structure Slot where
  st : SlotSt
  cause : Nat
  cand : Option Nat
  catalog : Nat
  clamped : Bool
  deriving DecidableEq, Repr

/-- A batch in progress. -/
structure Batch where
  id : Nat
  ctx : Nat
  ring : Nat
  abs : Nat
  bytes : List Byte
  block : List Byte
  timed : Bool
  deadline : Nat
  slots : List Slot
  corrupt : Nat
  bfUsed : Nat
  clamped : Nat
  /-- Kiln size consumed (R255), in fifths of a pixel. -/
  pixels : Nat
  /-- More than DECL_PIXELS has been consumed: the rest goes at the head of the bulk requests (R273). -/
  excess : Bool
  deriving DecidableEq, Repr

/-- What an engine does. -/
inductive EngSt where
  | free | header | decode
  deriving DecidableEq, Repr

/-- One decode engine: the sample it holds, its record buffer, what its sequence header says, and the bytes of its share
in use; of its source reads (R262, R263) the range of the stream that is being read, the requests of it asked for, its
bytes landed, the bytes of the stream that it holds, by offset, and whether a read has failed. -/
structure Engine where
  st : EngSt
  batch : Nat
  slot : Nat
  share : Nat
  catalog : Nat
  record : List Byte
  head : List Nat
  lo : Nat
  hi : Nat
  asked : Nat
  landed : Nat
  parts : Tbl (List Byte)
  failed : Bool
  deriving DecidableEq, Repr

/-- The kiln. -/
structure Kiln where
  up : BitVec 16
  kstate : Nat
  queuedEnable : Bool
  engines : Tbl Engine
  fencing : BitVec 16
  batches : List Batch
  deriving DecidableEq, Repr

/-! ### Arkel links (R277 to R301) -/

/-- Bring-up phase of a port (R287). -/
inductive PortPhase where
  | off | dark | lanes | fec | up
  deriving DecidableEq, Repr

/-- A whole received message: its bytes from the message header on, the route it came with, its channel and REV. -/
structure RxMsg where
  bytes : List Byte
  vc : Nat
  route : Nat
  hopsM1 : Nat
  rev : Bool
  deriving DecidableEq, Repr

/-- A message waiting to be sent, as payload flits on a virtual channel. -/
structure TxMsg where
  bytes : List Byte
  vc : Nat
  route : Nat
  hopsM1 : Nat
  rev : Bool
  entry : Option Nat
  ctx : Nat
  tag : Nat
  /-- Payload bytes already sent in flits. -/
  sent : Nat
  deriving DecidableEq, Repr

/-- A joint signal sent (R381) or a remote read in flight: the message's TAG, its context, its route entry, the joint
at the peer, and for a read the kiln engine that waits and the offset in its stream. -/
structure Issued where
  tag : Nat
  ctx : Nat
  entry : Nat
  rjoint : Nat
  engine : Option Nat
  ofs : Nat
  deriving DecidableEq, Repr

/-- One Arkel port, or the host port, of which only the fibres and lanes are held here (R299). `exchanged`: a time
exchange has come since link-up, `rootAhead` being then how far, in ns, the partner's root lay ahead of this module's
device time; `txFlit` the flits sent since link-up, `lastVc` the channel of each class whose message went last, and
`symErrs` the symbols corrected in the last ms: the time, 16 times the fibre plus the lane, and their number. -/
structure Port where
  phase : PortPhase
  cause : Nat
  txFibres : BitVec 4
  rxFibres : BitVec 4
  version : Nat
  exchanged : Bool
  timeSplit : Bool
  coord : Nat
  code : Nat
  spareTx : List Nat
  spareRx : List Nat
  swapping : List (Nat × Nat)
  failRun : List Nat
  fencedLane : List (Nat × Nat)
  txSeq : Nat
  rxSeq : Nat
  ackedSeq : Nat
  nakDue : Bool
  replay : List (Nat × List Byte)
  credits : Tbl Nat
  owed : Tbl Nat
  asm : Tbl (List Byte)
  inbox : List RxMsg
  txQ : List TxMsg
  wire : List (Nat × List Byte)
  txFlit : Nat
  lastVc : Tbl Nat
  symErrs : List (Nat × Nat × Nat)
  ackAt : Nat
  offsetPs : Int
  rootAhead : Int
  rootHops : Nat
  deriving DecidableEq, Repr

/-- The links beyond their ports. -/
structure Links where
  ports : Tbl Port
  routes : Tbl (BitVec 64)
  ls0 : BitVec 9
  ls0mm : Bool
  ls1 : BitVec 9
  ls1mm : Bool
  startedCtx : Bool
  acquired : Bool
  parent : Option Nat
  issued : List Issued
  deriving DecidableEq, Repr

/-! ### Collectives (R302 to R328) -/

/-- Where a collective stands. `ended`: its record has gone, and the setup messages of other members still pass. -/
inductive CollPhase where
  | setup | header | mantissa | stats | gather | counts | buckets | permute | vote | land | keepWait | ended
  deriving DecidableEq, Repr

/-- A collective in progress in group `group` of context `ctx`. -/
structure Coll where
  ctx : Nat
  group : Nat
  ring : Nat
  abs : Nat
  bytes : List Byte
  phase : CollPhase
  seq : Nat
  startedAt : Nat
  /-- Ranks whose setup messages have passed; the own message is back; contributions of the whole group. -/
  seen : List Nat
  own : Bool
  total : Nat
  /-- Exponent and flags of every block of the tensor: the own ones until the agreed ones arrive. -/
  heads : List (Nat × Nat)
  headLeft : Nat
  /-- Summed mantissas of the own shard, for the statistics record. -/
  sums : Tbl (List Int)
  /-- Blocks, or bytes, still to be received. -/
  left : Nat
  counts : Tbl (List Nat)
  stats : Tbl (Word × Word)
  mismatch : Bool
  /-- PERMUTE: the round in progress and the last round; VOTE: the group in progress. -/
  round : Nat
  rounds : Nat
  /-- Of the lap of a round or of a vote: the own message is back; messages of others passed on. -/
  lapBack : Bool
  lapSeen : Nat
  /-- LAND: the parts of its range that have not landed. -/
  missing : List (Nat × Nat)
  /-- KEEP: wire bytes by block. -/
  wire : Tbl (List Byte)
  /-- A byte of the destination has been written. -/
  wrote : Bool
  keepLeft : Nat
  keepBad : Bool
  kvUser : Option Nat
  deriving DecidableEq, Repr

/-- A group's entry of the group table (R303). -/
structure Group where
  en : Bool
  axis : Nat
  len : Nat
  rank : Nat
  seq : BitVec 32
  deriving DecidableEq, Repr

/-! ### Continuity units (R337 to R355) -/

/-- R338. -/
inductive ContSt where
  | disabled | running | prepared | inDoubt | go
  deriving DecidableEq, Repr

/-- One continuity unit. -/
structure Cont where
  st : ContSt
  curGen : Bool
  held : Option Bool
  trUe : Bool
  lap : Bool
  preparedAt : Nat
  lapGroups : List Nat
  lapAnd : Bool
  lapCause : Nat
  /-- Of the lap of the first group of `lapGroups`: the own message has come back; messages of others passed on. -/
  lapBack : Bool
  lapSeen : Nat
  heldMsgs : List (Nat × RxMsg)
  elems : Nat
  deriving DecidableEq, Repr

/-! ### Power, trust, test -/

/-- Power, caps and thermal control (R393 to R413). -/
structure Power where
  capVp : Nat
  duty : Nat
  capPending : Bool
  leaseExpired : Bool
  matchLost : Bool
  flowLow : Bool
  collExempt : Bool
  exemptFrom : Nat
  exemptColls : List (Nat × Nat)
  meanW : Nat
  maxW : Nat
  rackCap : Option Nat
  leaseEnd : Option Nat
  lastSeq : Option (BitVec 32)
  dutyAdm : Nat
  dutyPend : Option Nat
  issueOpen : Bool
  tsm : Tbl (Nat × Bool)
  remeasuring : Bool
  junc : Tbl Nat
  throttle : Tbl Nat
  throttleSince : Nat
  coolIn : Nat
  coolOut : Nat
  energy : Tbl DWord
  energyIn : DWord
  /-- UNIT_STATUS of kiln, upper vector lanes, wide ports, flash: 0 OFF 1 ON 2 DRAINING 3 POWERING. -/
  units : List Nat
  /-- The last queued request of each unit. -/
  unitWant : List (Option Bool)
  stopCause : Nat
  safeStop : Bool
  stage5 : Bool
  deriving DecidableEq, Repr

/-- The two images of a firmware slot: the header fields of R417 that the KRT checks, and the image digests of R418. -/
structure FwSlot where
  cmcSvn : Nat
  cmcVer : Nat
  cmcFwi : Nat
  cmcKey : Nat
  cmcDigest : List Byte
  perSvn : Nat
  perVer : Nat
  perKey : Nat
  perDigest : List Byte
  deriving DecidableEq, Repr

/-- A queued retained-store record: section id and content as a word list. -/
structure StoreRec where
  section_ : Nat
  data : List (Nat × Nat)
  bytes : Nat
  deriving DecidableEq, Repr

/-- The KRT, the retained store and the watchdog (R414 to R435). -/
structure Trust where
  stage : Nat
  factoryDefaults : Bool
  rebuilding : Bool
  identityLost : Bool
  cmcFailed : Bool
  bindLocked : Bool
  slot : Bool
  altSlot : Bool
  helperCopy : Bool
  slotA : FwSlot
  slotB : FwSlot
  half : Bool
  busy : Bool
  compacting : Bool
  replayCut : Bool
  free : Nat
  storeGen : Nat
  storeValid : Bool
  queue : List StoreRec
  writing : Option StoreRec
  committed : List StoreRec
  warmPending : Bool
  /-- The pins that the training of a warm reset finds bad, while its command is performed; none otherwise. -/
  pins : List (Nat × List Nat)
  /-- A commit was deferred since the last measurement of the hold-up energy (R249). -/
  deferred : Bool
  cmcFloor : Nat
  periphFloor : Nat
  preferB : Bool
  revoked : BitVec 2
  peers : List (List Byte)
  meas : List (List Byte)
  lastReset : Nat
  /-- STOP_CAUSE of the LIFETIME section as restored (R426, R435). -/
  stopCause : Nat
  wdtAt : Nat
  wdtExpiries : List Nat
  /-- CMC as a mailbox receiver (R385): 0 AWAKE, 2 RESET, 3 DEAD. -/
  cmcState : Nat
  fnState : Tbl Nat
  /-- What the signature checks of R418 find on the two slots. -/
  sigA : Bool
  sigB : Bool
  /-- The MAC address of the management port (R300). -/
  mac : Nat
  /-- A spall would have split the mortar: the module is marked failed (R203). -/
  moduleFailed : Bool
  deriving DecidableEq, Repr

/-- The management session and what it has sent (R432). -/
structure Mgmt where
  up : Bool
  peer : List Byte
  lastAt : Nat
  sent : List (List Byte)
  deriving DecidableEq, Repr

/-- A test command in progress (R455): `depth` of a channel's self-test; `auto` one that the CMC gave itself (R462). -/
structure TestCmd where
  op : Nat
  kind : Nat
  id : Nat
  tag : Nat
  depth : Bool
  auto : Bool
  deriving DecidableEq, Repr

/-- MSI-X entry of one vector. -/
structure MsixVec where
  addr : Nat
  data : Word
  masked : Bool
  pending : Bool
  deriving DecidableEq, Repr

/-- Which variant the module is (R1). -/
inductive Variant where
  | kv1a | kv1s
  deriving DecidableEq, Repr

/-- The whole module. -/
structure State where
  variant : Variant
  /-- The commands that wait, first in, first out. -/
  pending : List Instr
  /-- The model's own counter: the number of free values drawn so far. -/
  freeCtr : Nat
  nextId : Nat
  regs : List (Nat × Word)
  mem : Memory
  poison : List Nat
  hostMem : Memory
  masters : Tbl Master
  time : TimeSt
  tiles : Tbl Tile
  chans : Tbl Chan
  /-- State of every channel that has no entry of its own in `chans`. -/
  chanBoot : ChState
  /-- Trainings of all channels at once so far (R190). -/
  chanGen : Nat
  mortar : Mortar
  bricks : Tbl Brick
  errLog : List ErrEntry
  errOverflow : Bool
  scrubDone : List Nat
  ctxs : Tbl Ctx
  launches : List Launch
  joints : Tbl Joint
  mail : Tbl Mailbox
  kv : Kv
  flash : Flash
  hostReads : List HostRead
  copies : List CopyJob
  holdup : Holdup
  kiln : Kiln
  links : Links
  groups : Tbl Group
  colls : List Coll
  idle : Tbl DWord
  conts : Tbl Cont
  power : Power
  trust : Trust
  mgmt : Mgmt
  tests : List TestCmd
  /-- The detour tables in force (R203): the tiles they avoid, and how often they have been loaded. -/
  detourAvoid : List Nat
  detourGen : Nat
  msix : Tbl MsixVec
  /-- MSI-X messages sent, oldest first: function and vector. -/
  msixSent : List (Nat × Nat)
  /-- Writes of device agents to the register space, waiting to act: master, offset, and the bytes of one word, or of a
  whole write to the KV window (R173). -/
  regPosted : List (Nat × Nat × List Byte)
  deriving DecidableEq, Repr

/-- Why the module stops with a fault. No rule of the manual stops the whole module: no command raises one. -/
inductive Fault where
  /-- Raised by no command; it is here so that the type has a value. Safe. -/
  | unreachable
  deriving DecidableEq, Repr

/-- Why a command has no meaning. -/
inductive Refusal where
  /-- The model gives this row no meaning yet; raised by Dispatch only. Safe. -/
  | notModelled (mnemonic : String)
  deriving DecidableEq, Repr

/-! ### Reset values
State.reset is the module as power is applied, before the cold boot of R420: every register at the reset value of its
table; COLD_RESET boots it. -/

/-- Memory in which nothing is known: no cell, no fill. An unlisted byte is then undefined, and a read of it is a free
value (Ops.lean). -/
def Memory.empty : Memory := { cells := [], fills := [] }

/-- R442: unlock armed, assembly buffer empty. -/
def Master.reset : Master := { unlockedAt := none, run := none, lastRead := some 0 }

def UnitQ.reset : UnitQ := { queue := [], active := none }

def Hod.reset : Hod := { streams := [], descs := [], tags := [], lastStream := 0 }

def StatAcc.reset : StatAcc :=
  { started := false, finalised := false, rms := false, shift := 0, n := 0, nonfin := false, inf := false,
    d := List.replicate 32 (0, 0), d2 := List.replicate 32 (0, 0), mean := 0, rstd := 0 }

/-- A tile at power-up: idle under R84, every register 0. -/
def Tile.reset : Tile :=
  { run := .idle, stall := .none, ctx := 0, launch := 0, lastCtx := none, pc := 0, image := 0,
    sregs := List.replicate 16 0, tokens := List.replicate 16 0, cmdCache := [],
    units := List.replicate 8 UnitQ.reset, issueSeq := 0, loops := [], acc := [], vregs := [], vmasks := [],
    scanChain := none, redChain := none, sta := [], bank0 := [], bank1 := [], activeBank := false, gen := 0,
    store := [], dir := [], split := 0, e4m3Ovf := false, e5m2Ovf := false, seed := 0, hod := Hod.reset,
    cache := [], cacheClock := 0, fencePending := false, zeroNext := false, restored := false }

/-- A channel at power-up: untrained, both spares unassigned (63, R200). -/
def Chan.reset : Chan :=
  { state := .untrained, wasFenced := false, unfenceAfter := false, spare0 := 63, spare1 := 63, suspect := 0,
    passCnt := [], stb := 0, vref := 0, dsk := List.replicate 38 0, eyeStb := 0, eyeVref := 0, retrain := .none,
    retrainReq := none, refusedAt := 0, fencing := false, selftestPassed := false, needArray := false, margin := none, marginLow := 0, marginHigh := 0,
    marginLane := 0, marginValid := false, marginNone := false, entries := [], held := [], service := none,
    turn := [], rota := [], scrubLine := 0, refreshed := [] }

/-- R205: a router output that has granted nothing yet. -/
def RouterOut.reset : RouterOut := { lastTimed := 4, lastBulk := 4, owed := [] }

/-- R230: no flit has been carried. -/
def Mortar.reset : Mortar := { flows := [], seen := [], routers := [] }

/-- R200: TEMP and BAND reset to 0. -/
def Brick.reset : Brick := { temp := 0, band := 0 }

/-- R391: a ring at reset. -/
def SRing.reset : SRing :=
  { en := false, base := 0, log2 := 4, timed := false, rtm := false, start := 0, head := 0, tail := 0, doors := [], out := [] }

/-- R391: a completion ring at reset. -/
def CRing.reset : CRing :=
  { en := false, base := 0, log2 := 4, vector := 0, wb := 0, head := 0, db := 0 }

/-- R451: a context-table entry at reset. -/
def Ctx.reset : Ctx :=
  { enable := false, inReset := false, fnEn := false, x0 := 0, y0 := 0, wm1 := 0, hm1 := 0,
    resetRect := [], protBase := 0,
    hostBase := 0, hostLimit := 0, protCache := [], stepPoison0 := false, stepPoison1 := false, sq := [], cq := [],
    held := [], pallets := [], doorOrder := 0 }

/-- R391: a joint at reset. -/
def Joint.reset : Joint :=
  { valid := false, owner := 0, remoteOk := false, value := 0, ticket := 0, cause := 0, waits := [] }

/-- A mailbox channel with no binding; the binding table is written at boot (R420 E6). -/
def Mailbox.reset : Mailbox :=
  { sender := 0, receiver := 0, timed := false, rt := false, cplRing := 0, valid := false, mverMax := 0, queue := [],
    seq := 0, timeout := false, timerFrom := none }

/-- R175: every page FREE. -/
def Page.reset : Page :=
  { st := .free, refs := 0, pins := 0, published := false, inDir := false, ring := false, ctx := 0, lgrp := 0, key := 0, epoch := 0 }

def Kv.reset : Kv :=
  { pages := [], epoch := 0, advancedAt := 0, accepted := [], copies := [], users := [] }

def Flash.reset : Flash :=
  { ready := false, readOnly := false, dieFailed := 0, wearPct := 0, writtenPages := 0, objs := [],
    data := Memory.empty, cmds := [], recover := [], place := [], fill := [], erases := [], reads := [], retried := [] }

def Holdup.reset : Holdup := { energy := 0, ok := false, wasOk := false, deferring := false, failed := false }

def Engine.reset : Engine := 
  { st := .free, batch := 0, slot := 0, share := 0, catalog := 0, record := [], head := [], lo := 0, hi := 0,
    asked := 0, landed := 0, parts := [], failed := false }

def Kiln.reset : Kiln :=
  { up := 0xFFFF, kstate := 0, queuedEnable := false, engines := [], fencing := 0, batches := [] }

/-- R301: a port at reset, spare map 0xF on every fibre. -/
def Port.reset : Port :=
  { phase := .off, cause := 0, txFibres := 0, rxFibres := 0, version := 0, exchanged := false, timeSplit := false,
    coord := 0, code := 0, spareTx := List.replicate 4 15, spareRx := List.replicate 4 15, swapping := [],
    failRun := List.replicate 4 0, fencedLane := [], txSeq := 0, rxSeq := 0,
    ackedSeq := 0, nakDue := false, replay := [], credits := [], owed := [], asm := [], inbox := [], txQ := [],
    wire := [], txFlit := 0, lastVc := [], symErrs := [], ackAt := 0, offsetPs := 0, rootAhead := 0, rootHops := 0 }

def Links.reset : Links :=
  { ports := [], routes := [], ls0 := 0, ls0mm := false, ls1 := 0, ls1mm := false,
    startedCtx := false, acquired := false, parent := none, issued := [] }

/-- R327: a group at reset, LEN 2. -/
def Group.reset : Group := { en := false, axis := 0, len := 2, rank := 0, seq := 0 }

/-- R355: a continuity unit at reset. -/
def Cont.reset : Cont :=
  { st := .disabled, curGen := false, held := none, trUe := false, lap := false,
    preparedAt := 0, lapGroups := [], lapAnd := true, lapCause := 0, lapBack := false, lapSeen := 0, heldMsgs := [], elems := 0 }

/-- R413: the power block at reset; the rack cap is FALLBACK_W (R393). -/
def Power.reset : Power :=
  { capVp := 8, duty := 10, capPending := false, leaseExpired := true, matchLost := false, flowLow := false,
    collExempt := false, exemptFrom := 0, exemptColls := [], meanW := 0, maxW := 0, rackCap := none, leaseEnd := none,
    lastSeq := none, dutyAdm := 1, dutyPend := none, issueOpen := true, tsm := [], remeasuring := false,
    junc := [], throttle := [], throttleSince := 0, coolIn := 0, coolOut := 0, energy := [], energyIn := 0,
    units := [1, 1, 1, 1], unitWant := [none, none, none, none], stopCause := 0, safeStop := false, stage5 := false }

/-- A firmware slot: the model names SVN, version and digests of 0 for the images the module is shipped with. -/
def FwSlot.reset : FwSlot :=
  { cmcSvn := 0, cmcVer := 0, cmcFwi := 1, cmcKey := 0, cmcDigest := List.replicate 64 0, perSvn := 0, perVer := 0,
    perKey := 0, perDigest := List.replicate 64 0 }

/-- R421, R435: the KRT at power-up. -/
def Trust.reset : Trust :=
  { stage := 0, factoryDefaults := false, rebuilding := false, identityLost := false, cmcFailed := false,
    bindLocked := false, slot := false, altSlot := false, helperCopy := false, slotA := FwSlot.reset,
    slotB := FwSlot.reset, half := false, busy := false, compacting := false, replayCut := false, free := 0x700000,
    storeGen := 0, storeValid := true, queue := [], writing := none, committed := [], warmPending := false, pins := [], deferred := false,
    cmcFloor := 0, periphFloor := 0, preferB := false, revoked := 0, peers := [],
    meas := List.replicate 8 (List.replicate 64 0), lastReset := 0, stopCause := 0, wdtAt := 0, wdtExpiries := [], cmcState := 2,
    fnState := [], sigA := true, sigB := true, mac := 0, moduleFailed := false }

def Mgmt.reset : Mgmt := { up := false, peer := [], lastAt := 0, sent := [] }

/-- R450 leaves the entries to PCIe, whose vectors reset masked. -/
def MsixVec.reset : MsixVec := { addr := 0, data := 0, masked := true, pending := false }

/-- R58: device time starts at 0, the promise point and the operating point at VP8. -/
def TimeSt.reset : TimeSt :=
  { devTime := 0, slewLeft := 0, slewAcc := 0, curVp := 8, pp := 8, pendVp := none, shedStage := 0,
    admStopped := false, removed := false, stepMedian := 0, stepSlowest := 0, treqs := [], lastDeadline := [] }

/-- The module as power is applied: every register at its reset value, nothing in memory, no command waiting. -/
def State.reset : State :=
  { variant := .kv1a, pending := [], freeCtr := 0, nextId := 1, regs := [], mem := Memory.empty, poison := [],
    hostMem := Memory.empty, masters := [], time := TimeSt.reset, tiles := [], chans := [], chanBoot := .untrained, chanGen := 0,
    mortar := Mortar.reset, bricks := [], errLog := [],
    errOverflow := false, scrubDone := [], ctxs := [], launches := [], joints := [], mail := [], kv := Kv.reset,
    flash := Flash.reset, hostReads := [], copies := [], holdup := Holdup.reset, kiln := Kiln.reset, links := Links.reset,
    groups := [], colls := [], idle := [], conts := [], power := Power.reset, trust := Trust.reset,
    mgmt := Mgmt.reset, tests := [], detourAvoid := [], detourGen := 0, msix := [], msixSent := [], regPosted := [] }

end Sys2Proof.Machine
end

