-- ==== Sys2Proof/Machine/RegTable.lean ====
section
/-! DEFINITION. The register map: every word of the blocks of R438 with its fields, as the chapters' register tables
give them: place, access code (R9), reset value, legal range, and the selection that banks the word (R442). A value
given as trim or map (R10) is 0 here where the manual states none, FALLBACK_W apart, which takes its lowest legal
value; notes/assumptions/3.md. -/

namespace Sys2Proof.Machine

/-- R9, the access codes. -/
inductive Acc where
  | rw | ro | rc | wo | wk
  deriving DecidableEq, Repr

/-- What banks a word: nothing, the master itself, or what a selection of the master names. -/
inductive Bank where
  | module | master | tile | tileLink | arithCtx | chan | lane | brick | kcause | port | rtIndex | collGroup | collCtx
  | idle | contCtx | hifRing | hifCtx | joint | mailbox | tsm | en | meas | ct | bind | unlock
  deriving DecidableEq, Repr

/-- How a field treats a value outside its legal ones (R447): every value legal, nearest of a range, or nearest of the
signed range from -hi to hi. -/
inductive Clamp where
  | any
  | range (lo hi : Nat)
  | sym (hi : Nat)
  deriving DecidableEq, Repr

/-- One field. -/
structure FieldRow where
  lsb : Nat
  width : Nat
  acc : Acc
  reset : Nat
  clamp : Clamp
  deriving DecidableEq, Repr

/-- One word: its BAR0 offset, its bank and its fields. -/
structure WordRow where
  off : Nat
  bank : Bank
  fields : List FieldRow
  deriving DecidableEq, Repr

/-- A field with no range of its own. -/
def anyF (lsb width : Nat) (acc : Acc) (reset : Nat) : FieldRow :=
  { lsb := lsb, width := width, acc := acc, reset := reset, clamp := .any }

/-- A field with a stated range. -/
def inF (lsb width : Nat) (acc : Acc) (reset lo hi : Nat) : FieldRow :=
  { lsb := lsb, width := width, acc := acc, reset := reset, clamp := .range lo hi }

/-- A signed field with a stated range. -/
def symF (lsb width : Nat) (acc : Acc) (reset hi : Nat) : FieldRow :=
  { lsb := lsb, width := width, acc := acc, reset := reset, clamp := .sym hi }

/-- A row of the map. -/
def row (off : Nat) (bank : Bank) (fields : List FieldRow) : WordRow :=
  { off := off, bank := bank, fields := fields }

/-- The words of the block at BAR0 offset 0x00001000. -/
def rows1 : List WordRow := [
    row 0x1000 .module [anyF 0 8 .ro 1],
    row 0x1004 .module [anyF 0 32 .rw 0],
    row 0x1008 .module [anyF 0 32 .wo 0],
    row 0x100c .unlock [anyF 0 1 .ro 0],
    row 0x1010 .module [anyF 0 32 .rc 0],
    row 0x1014 .module [anyF 0 26 .ro 0],
    row 0x1018 .module [anyF 0 8 .ro 0, anyF 8 2 .ro 0],
    row 0x101c .module [anyF 0 32 .rc 0],
    row 0x1020 .module [anyF 0 32 .rc 0],
    row 0x1024 .module [anyF 0 32 .rc 0]]

/-- The words of the block at BAR0 offset 0x00010000. -/
def rows10 : List WordRow := [
    row 0x10000 .master [anyF 0 6 .rw 0],
    row 0x10004 .ct [anyF 0 1 .rw 0, anyF 1 1 .wo 0, anyF 2 2 .ro 0, anyF 4 1 .ro 0],
    row 0x10008 .ct [anyF 0 8 .rw 0, anyF 8 8 .rw 0, anyF 16 8 .rw 0, anyF 24 8 .rw 0],
    row 0x1000c .ct [inF 0 32 .rw 0 0 209715175],
    row 0x10010 .ct [anyF 0 32 .wo 0],
    row 0x10014 .ct [anyF 0 32 .rw 0],
    row 0x10018 .ct [anyF 0 32 .rw 0],
    row 0x1001c .ct [inF 0 32 .rw 0 0 2147483648],
    row 0x10020 .ct [anyF 0 32 .rc 0]]

/-- The words of the block at BAR0 offset 0x00011000. -/
def rows11 : List WordRow := [
    row 0x11000 .master [anyF 0 6 .rw 0],
    row 0x11004 .bind [anyF 0 8 .rw 0, anyF 8 8 .rw 0, anyF 16 1 .rw 0, anyF 17 1 .rw 0, anyF 18 4 .rw 0,
      anyF 22 1 .rw 0, anyF 24 8 .rw 0]]

/-- The words of the block at BAR0 offset 0x00012000. -/
def rows12 : List WordRow := [
    row 0x12000 .module [anyF 0 32 .ro 0],
    row 0x12004 .master [anyF 0 32 .ro 0],
    row 0x12008 .module [anyF 0 4 .ro 8, anyF 8 4 .ro 8, anyF 12 1 .ro 0, anyF 16 4 .ro 8, anyF 20 3 .ro 0],
    row 0x1200c .module [inF 0 4 .wk 8 0 12],
    row 0x12010 .module [inF 0 7 .wk 0x50 10 95, inF 8 16 .wk 0x3e8 200 65535, inF 24 8 .wk 0xc8 1 250],
    row 0x12014 .module [anyF 0 32 .rc 0],
    row 0x12018 .module [anyF 0 32 .rc 0],
    row 0x1201c .module [anyF 0 32 .rc 0],
    row 0x12020 .module [anyF 0 32 .rc 0],
    row 0x12024 .module [anyF 0 16 .ro 0, anyF 16 16 .ro 0]]

/-- The words of the block at BAR0 offset 0x00013000. -/
def rows13 : List WordRow := [
    row 0x13000 .master [inF 0 15 .rw 0 0 25599],
    row 0x13004 .tile [anyF 0 3 .ro 0, anyF 3 6 .ro 0, anyF 9 2 .ro 0],
    row 0x13008 .tile [anyF 0 20 .ro 0],
    row 0x1300c .tile [anyF 0 8 .rc 0],
    row 0x13010 .tile [anyF 0 32 .rc 0],
    row 0x13014 .tile [anyF 0 1 .rc 0, anyF 1 1 .rc 0, anyF 2 1 .rc 0, anyF 3 1 .rc 0, anyF 4 1 .rc 0,
      anyF 5 1 .rc 0, anyF 6 1 .rc 0, anyF 7 1 .rc 0],
    row 0x13018 .tile [anyF 0 8 .ro 0, anyF 8 1 .ro 0, anyF 16 16 .ro 0],
    row 0x1301c .tile [anyF 0 32 .rc 0],
    row 0x13020 .tile [anyF 0 7 .ro 0, anyF 7 5 .ro 0, anyF 12 4 .ro 0, anyF 16 1 .rc 0, anyF 17 1 .rc 0],
    row 0x13024 .tile [anyF 0 32 .rc 0],
    row 0x13028 .tile [anyF 0 32 .rc 0],
    row 0x1302c .tile [anyF 0 32 .rc 0],
    row 0x13030 .tile [anyF 0 32 .rc 0],
    row 0x13034 .tile [anyF 0 32 .rc 0],
    row 0x13038 .tile [anyF 0 32 .rc 0],
    row 0x1303c .master [inF 0 3 .rw 0 0 5],
    row 0x13040 .tileLink [anyF 0 32 .rc 0],
    row 0x13044 .tileLink [anyF 0 32 .rc 0],
    row 0x13048 .master [inF 0 15 .rw 0 0 25599],
    row 0x1304c .tile [anyF 0 15 .ro 0x7fff]]

/-- The words of the block at BAR0 offset 0x00014000. -/
def rows14 : List WordRow := [
    row 0x14000 .master [anyF 0 6 .rw 0],
    row 0x14004 .arithCtx [anyF 0 1 .rw 0, anyF 1 1 .rw 0],
    row 0x14008 .arithCtx [anyF 0 32 .rw 0],
    row 0x1400c .arithCtx [anyF 0 32 .rw 0],
    row 0x14010 .arithCtx [anyF 0 1 .rc 0, anyF 1 1 .rc 0, anyF 2 1 .rc 0, anyF 3 1 .rc 0, anyF 4 1 .rc 0,
      anyF 5 1 .rc 0, anyF 6 1 .rc 0, anyF 7 1 .rc 0]]

/-- The words of the block at BAR0 offset 0x00015000. -/
def rows15 : List WordRow := [
    row 0x15000 .module [anyF 0 1 .wk 0, inF 1 5 .wk 0x13 12 24],
    row 0x15004 .module [inF 0 32 .wk 0 0 209715199],
    row 0x15008 .module [inF 0 23 .wk 0 0 4194304],
    row 0x1500c .module [inF 0 32 .wk 0 0 209715199],
    row 0x15010 .module [anyF 0 32 .ro 0],
    row 0x15014 .module [anyF 0 23 .ro 0],
    row 0x15018 .module [anyF 0 23 .ro 0],
    row 0x1501c .module [anyF 0 32 .rc 0],
    row 0x15020 .module [anyF 0 32 .rc 0],
    row 0x15024 .module [anyF 0 32 .rc 0],
    row 0x15028 .module [anyF 0 32 .rc 0],
    row 0x1502c .module [anyF 0 32 .rc 0],
    row 0x15030 .module [anyF 0 32 .rc 0]]

/-- The words of the block at BAR0 offset 0x00017000. -/
def rows17 : List WordRow := [
    row 0x17000 .master [inF 0 15 .rw 0 0 25599],
    row 0x17004 .chan [anyF 0 3 .ro 0, anyF 3 6 .ro 0, anyF 9 6 .ro 0, anyF 15 1 .ro 0],
    row 0x17008 .chan [anyF 0 32 .ro 0],
    row 0x1700c .chan [anyF 0 4 .ro 0],
    row 0x17010 .chan [anyF 0 32 .rc 0],
    row 0x17014 .chan [anyF 0 32 .rc 0],
    row 0x17018 .chan [anyF 0 32 .rc 0],
    row 0x1701c .chan [anyF 0 32 .rc 0],
    row 0x17020 .master [inF 0 6 .rw 0 0 35],
    row 0x17024 .lane [anyF 0 32 .rc 0],
    row 0x17028 .chan [anyF 0 6 .ro 0, anyF 6 6 .ro 0, anyF 12 6 .ro 0, anyF 18 6 .ro 0],
    row 0x1702c .chan [anyF 0 6 .ro 0, anyF 6 6 .ro 0, anyF 12 6 .ro 0, anyF 18 1 .ro 0, anyF 19 1 .ro 0],
    row 0x17034 .chan [anyF 0 3 .wk 0],
    row 0x1703c .module [anyF 0 1 .wk 0, anyF 1 1 .wk 1, anyF 2 1 .wk 1, inF 3 5 .wk 6 2 31,
      inF 8 16 .wk 0x10 1 65535],
    row 0x17040 .module [anyF 0 24 .rw 0x15180],
    row 0x17044 .module [anyF 0 32 .ro 0],
    row 0x17048 .master [anyF 0 4 .rw 0],
    row 0x1704c .brick [anyF 0 12 .ro 0, anyF 12 2 .ro 0, anyF 14 1 .ro 0, anyF 15 1 .rc 0],
    row 0x17050 .brick [symF 0 6 .wk 0 16],
    row 0x17060 .module [anyF 0 15 .ro 0, anyF 15 3 .ro 0],
    row 0x17064 .module [anyF 0 20 .ro 0],
    row 0x17068 .module [anyF 0 32 .ro 0],
    row 0x1706c .module [anyF 0 32 .rc 0]]

/-- The words of the block at BAR0 offset 0x00018000. -/
def rows18 : List WordRow := [
    row 0x18000 .module [anyF 0 1 .ro 0, anyF 1 1 .ro 0, anyF 16 16 .ro 0],
    row 0x18004 .module [anyF 0 8 .ro 0],
    row 0x18008 .module [inF 0 16 .wk 0x64 10 1000, inF 16 8 .wk 0x64 10 255],
    row 0x1800c .module [anyF 0 32 .rc 0],
    row 0x18010 .module [anyF 0 32 .rc 0],
    row 0x18014 .module [anyF 0 32 .rc 0],
    row 0x18018 .module [anyF 0 32 .rc 0],
    row 0x1801c .module [anyF 0 32 .ro 0]]

/-- The words of the block at BAR0 offset 0x00019000. -/
def rows19 : List WordRow := [
    row 0x19000 .module [anyF 0 16 .ro 0, anyF 16 1 .ro 0, anyF 17 1 .ro 0],
    row 0x19004 .module [anyF 0 32 .rc 0],
    row 0x19008 .module [inF 0 6 .wk 0x10 1 63, inF 8 8 .wk 4 1 255],
    row 0x1900c .module [anyF 0 32 .rc 0]]

/-- The words of the block at BAR0 offset 0x0001A000. -/
def rows1a : List WordRow := [
    row 0x1a000 .module [anyF 0 1 .ro 0, anyF 1 1 .ro 0, anyF 2 3 .ro 0, anyF 16 16 .ro 0],
    row 0x1a004 .module [inF 0 32 .wk 0 0 209715199],
    row 0x1a008 .module [anyF 0 32 .wk 0],
    row 0x1a00c .module [inF 0 14 .wk 0x2000 16 8192, inF 16 14 .wk 0x2000 16 8192],
    row 0x1a010 .module [inF 0 20 .wk 0xffff 1 1048575],
    row 0x1a014 .module [inF 0 16 .wk 0x2000 16 65535],
    row 0x1a018 .module [anyF 0 32 .rc 0],
    row 0x1a01c .module [anyF 0 32 .rc 0],
    row 0x1a020 .module [anyF 0 32 .rc 0],
    row 0x1a024 .module [anyF 0 32 .rc 0],
    row 0x1a028 .module [anyF 0 32 .rc 0],
    row 0x1a02c .module [anyF 0 32 .rc 0],
    row 0x1a030 .master [inF 0 4 .rw 1 1 15],
    row 0x1a034 .kcause [anyF 0 32 .rc 0]]

/-- The words of the block at BAR0 offset 0x0001B000. -/
def rows1b : List WordRow := [
    row 0x1b000 .master [inF 0 4 .rw 0 0 9],
    row 0x1b004 .module [anyF 0 24 .wk 0],
    row 0x1b008 .port [anyF 0 3 .ro 0, anyF 3 4 .ro 0, anyF 7 4 .ro 0, anyF 11 3 .ro 0, anyF 14 1 .ro 0,
      anyF 15 1 .ro 0],
    row 0x1b00c .port [anyF 0 1 .wk 1, anyF 1 1 .wk 1, anyF 2 1 .wk 0, anyF 3 1 .wk 0, inF 8 8 .wk 0x32 1 255],
    row 0x1b010 .port [anyF 0 16 .ro 0xffff, anyF 16 16 .ro 0xffff],
    row 0x1b014 .port [anyF 0 24 .ro 0, anyF 24 3 .ro 0],
    row 0x1b018 .port [anyF 0 32 .rc 0],
    row 0x1b01c .port [anyF 0 32 .rc 0],
    row 0x1b020 .port [anyF 0 32 .rc 0],
    row 0x1b024 .port [anyF 0 32 .rc 0],
    row 0x1b028 .port [anyF 0 32 .rc 0],
    row 0x1b02c .port [anyF 0 32 .rc 0],
    row 0x1b030 .port [anyF 0 32 .ro 0],
    row 0x1b038 .module [anyF 0 9 .ro 0, anyF 9 1 .ro 0, anyF 10 9 .ro 0, anyF 19 1 .ro 0, anyF 20 1 .rc 0],
    row 0x1b040 .master [anyF 0 12 .rw 0],
    row 0x1b044 .rtIndex [anyF 0 32 .wk 0],
    row 0x1b048 .rtIndex [anyF 0 32 .wk 0]]

/-- The words of the block at BAR0 offset 0x0001C000. -/
def rows1c : List WordRow := [
    row 0x1c000 .master [anyF 0 6 .rw 0],
    row 0x1c004 .master [anyF 0 4 .rw 0],
    row 0x1c008 .collGroup [anyF 0 1 .rw 0, anyF 1 2 .rw 0, inF 3 7 .rw 2 2 64, anyF 10 6 .rw 0],
    row 0x1c00c .collGroup [anyF 0 32 .ro 0],
    row 0x1c010 .collCtx [anyF 0 1 .ro 0, anyF 1 1 .ro 0],
    row 0x1c014 .module [inF 0 8 .wk 0x64 1 255],
    row 0x1c018 .module [anyF 0 32 .rc 0],
    row 0x1c01c .module [anyF 0 32 .rc 0],
    row 0x1c020 .module [anyF 0 32 .rc 0],
    row 0x1c024 .module [anyF 0 32 .rc 0],
    row 0x1c028 .module [anyF 0 32 .rc 0]]

/-- The words of the block at BAR0 offset 0x0001D000. -/
def rows1d : List WordRow := [
    row 0x1d000 .master [anyF 0 4 .rw 0, inF 4 4 .rw 0 0 9],
    row 0x1d004 .idle [anyF 0 32 .ro 0],
    row 0x1d008 .master [anyF 0 32 .ro 0]]

/-- The words of the block at BAR0 offset 0x0001E000. -/
def rows1e : List WordRow := [
    row 0x1e000 .master [anyF 0 6 .rw 0],
    row 0x1e004 .contCtx [anyF 0 1 .wk 0, anyF 1 1 .wk 0, anyF 2 16 .wk 0],
    row 0x1e008 .contCtx [anyF 0 14 .wk 0, anyF 16 14 .wk 0],
    row 0x1e00c .contCtx [inF 0 32 .wk 1 1 4294967295],
    row 0x1e010 .contCtx [anyF 0 13 .wk 0, anyF 16 13 .wk 0x1000],
    row 0x1e014 .contCtx [inF 0 13 .wk 0 1 4096],
    row 0x1e018 .contCtx [anyF 0 3 .ro 0, anyF 3 1 .ro 0, anyF 4 1 .ro 0, anyF 5 1 .ro 0, anyF 6 1 .ro 0,
      anyF 7 1 .ro 0],
    row 0x1e01c .contCtx [anyF 0 32 .wk 0],
    row 0x1e020 .contCtx [anyF 0 3 .wk 0],
    row 0x1e024 .contCtx [inF 0 16 .wk 0x3e8 10 65535],
    row 0x1e028 .contCtx [anyF 0 32 .rc 0],
    row 0x1e02c .contCtx [anyF 0 32 .rc 0],
    row 0x1e030 .contCtx [anyF 0 32 .rc 0],
    row 0x1e034 .contCtx [anyF 0 32 .rc 0],
    row 0x1e038 .contCtx [anyF 0 32 .rc 0],
    row 0x1e040 .module [anyF 0 12 .wk 0, anyF 12 1 .wk 0],
    row 0x1e044 .module [anyF 0 12 .wk 0, anyF 12 1 .wk 0],
    row 0x1e048 .module [anyF 0 12 .wk 0, anyF 12 1 .wk 0],
    row 0x1e04c .module [anyF 0 12 .wk 0, anyF 12 1 .wk 0],
    row 0x1e050 .module [anyF 0 12 .wk 0, anyF 12 1 .wk 0],
    row 0x1e054 .module [anyF 0 12 .wk 0, anyF 12 1 .wk 0],
    row 0x1e058 .module [anyF 0 12 .wk 0, anyF 12 1 .wk 0],
    row 0x1e05c .module [anyF 0 12 .wk 0, anyF 12 1 .wk 0]]

/-- The words of the block at BAR0 offset 0x0001F000. -/
def rows1f : List WordRow := [
    row 0x1f000 .master [anyF 0 6 .rw 0],
    row 0x1f004 .master [anyF 0 4 .rw 0, anyF 4 1 .rw 0],
    row 0x1f008 .hifRing [anyF 0 32 .rw 0],
    row 0x1f00c .hifRing [anyF 0 16 .rw 0],
    row 0x1f010 .hifRing [anyF 0 1 .rw 0, inF 1 4 .rw 0 0 12, anyF 5 1 .rw 0, anyF 6 1 .rw 0, anyF 7 5 .rw 0],
    row 0x1f014 .hifRing [anyF 0 32 .rw 0],
    row 0x1f018 .hifRing [anyF 0 16 .rw 0],
    row 0x1f01c .hifRing [anyF 0 16 .ro 0, anyF 16 16 .ro 0],
    row 0x1f020 .module [anyF 0 8 .ro 1, anyF 8 8 .ro 1],
    row 0x1f024 .hifCtx [anyF 0 1 .rc 0],
    row 0x1f028 .hifCtx [anyF 0 32 .rc 0],
    row 0x1f02c .module [anyF 0 32 .rc 0],
    row 0x1f040 .master [anyF 0 14 .rw 0],
    row 0x1f044 .joint [anyF 0 1 .wk 0, anyF 1 6 .wk 0, anyF 7 1 .wk 0],
    row 0x1f048 .joint [anyF 0 32 .ro 0],
    row 0x1f04c .master [anyF 0 32 .ro 0],
    row 0x1f050 .joint [anyF 0 32 .ro 0],
    row 0x1f054 .joint [anyF 0 4 .ro 0, anyF 4 16 .ro 0],
    row 0x1f058 .module [anyF 0 32 .rc 0],
    row 0x1f05c .master [anyF 0 32 .ro 0],
    row 0x1f060 .master [anyF 0 6 .rw 0],
    row 0x1f064 .mailbox [anyF 0 5 .ro 0, anyF 5 1 .ro 0, anyF 6 2 .ro 0, anyF 8 8 .ro 0],
    row 0x1f068 .mailbox [inF 0 16 .rw 0x3e8 10 65535],
    row 0x1f06c .module [anyF 0 32 .rc 0],
    row 0x1f070 .module [anyF 0 32 .rc 0]]

/-- The words of the block at BAR0 offset 0x00020000. -/
def rows20 : List WordRow := [
    row 0x20000 .module [anyF 0 4 .ro 8, anyF 4 4 .ro 0xa, anyF 8 1 .ro 0, anyF 9 1 .ro 0, anyF 10 1 .ro 1,
      anyF 11 1 .ro 0, anyF 12 1 .ro 0, anyF 13 1 .ro 0, anyF 14 1 .ro 0],
    row 0x20004 .module [anyF 0 16 .ro 0, anyF 16 16 .ro 0],
    row 0x20008 .module [inF 0 16 .wk 0x4b0 250 1200, inF 16 16 .wk 0xfa 250 1200],
    row 0x2000c .module [anyF 0 8 .wk 0x64, inF 8 8 .wk 0x69 70 105, inF 16 4 .wk 1 1 10],
    row 0x20010 .module [anyF 0 1 .wk 0, inF 1 4 .wk 8 0 12, anyF 5 4 .wk 0, anyF 9 4 .ro 0],
    row 0x20014 .module [anyF 0 1 .rw 1, anyF 1 1 .rw 1],
    row 0x20018 .module [anyF 0 8 .ro 0x55],
    row 0x2001c .master [inF 0 15 .rw 0 0 25599, inF 16 4 .rw 0 0 12],
    row 0x20020 .tsm [anyF 0 16 .ro 0, anyF 16 1 .ro 0],
    row 0x20024 .module [anyF 0 2 .wk 0],
    row 0x20028 .master [anyF 0 6 .rw 0, anyF 8 5 .rw 0x10],
    row 0x2002c .en [anyF 0 32 .ro 0],
    row 0x20030 .master [anyF 0 32 .ro 0],
    row 0x20034 .module [anyF 0 12 .ro 0, anyF 12 4 .ro 0],
    row 0x20038 .module [anyF 0 12 .ro 0, anyF 16 12 .ro 0],
    row 0x2003c .module [anyF 0 32 .rc 0],
    row 0x20040 .module [anyF 0 32 .rc 0],
    row 0x20044 .module [anyF 0 32 .rc 0],
    row 0x20048 .module [anyF 0 32 .rc 0]]

/-- The words of the block at BAR0 offset 0x00021000. -/
def rows21 : List WordRow := [
    row 0x21000 .module [anyF 0 4 .ro 0, anyF 4 1 .ro 0, anyF 5 1 .ro 0, anyF 6 1 .ro 0, anyF 7 1 .ro 0,
      anyF 8 1 .ro 0, anyF 9 1 .ro 0, anyF 10 1 .ro 0, anyF 11 1 .ro 0, anyF 12 1 .ro 0],
    row 0x21004 .module [anyF 0 1 .ro 0, anyF 1 1 .ro 0, anyF 2 1 .ro 0, anyF 3 1 .ro 0, anyF 4 8 .ro 0],
    row 0x21008 .module [anyF 0 32 .ro 0],
    row 0x2100c .module [anyF 0 3 .wk 0],
    row 0x21010 .module [anyF 0 16 .ro 0, anyF 16 16 .ro 0],
    row 0x21014 .module [anyF 0 32 .ro 0],
    row 0x21018 .module [anyF 0 32 .ro 0],
    row 0x2101c .module [inF 0 10 .wk 0xc8 10 1000],
    row 0x21020 .module [anyF 0 32 .wo 0],
    row 0x21024 .module [anyF 0 2 .ro 0, anyF 4 4 .ro 0, anyF 8 8 .rc 0],
    row 0x21040 .module [anyF 0 4 .ro 0, anyF 4 4 .ro 1],
    row 0x21044 .module [anyF 0 1 .ro 0, anyF 1 1 .ro 0, anyF 2 1 .ro 1, anyF 3 5 .ro 0, anyF 8 5 .ro 0],
    row 0x21048 .module [anyF 0 8 .ro 0xa0, anyF 8 8 .ro 0xa0, anyF 16 7 .ro 0x40, anyF 23 4 .ro 8],
    row 0x2104c .module [anyF 0 15 .ro 0x4000, anyF 15 7 .ro 0x40, anyF 22 6 .ro 0x20],
    row 0x21050 .module [anyF 0 4 .ro 1, anyF 4 4 .ro 2, anyF 8 8 .ro 1, anyF 16 8 .ro 1, anyF 24 8 .ro 0],
    row 0x21060 .master [anyF 0 3 .rw 0, anyF 4 4 .rw 0],
    row 0x21064 .meas [anyF 0 32 .ro 0]]

/-- The words of the block at a base, in units of 4 KiB. -/
def blockRows (b : Nat) : List WordRow :=
  if b = 0x1 then rows1 else if b = 0x10 then rows10 else if b = 0x11 then rows11 else if b = 0x12 then rows12
  else if b = 0x13 then rows13 else if b = 0x14 then rows14 else if b = 0x15 then rows15 else if b = 0x17 then rows17
  else if b = 0x18 then rows18 else if b = 0x19 then rows19 else if b = 0x1a then rows1a else if b = 0x1b then rows1b
  else if b = 0x1c then rows1c else if b = 0x1d then rows1d else if b = 0x1e then rows1e else if b = 0x1f then rows1f
  else if b = 0x20 then rows20 else if b = 0x21 then rows21 else []

/-- The row of the word at a BAR0 offset. -/
def wordRow (off : Nat) : Option WordRow := (blockRows (off / 4096)).find? (fun r => r.off == off)

/-- The value that the fields' resets spell. -/
def WordRow.resetValue (r : WordRow) : Nat := r.fields.foldl (fun v x => setBits v x.lsb x.width x.reset) 0

/-- The reset value of the word at an offset; 0 where no block holds one. -/
def wordReset (off : Nat) : Nat := match wordRow off with | some r => r.resetValue | none => 0

/-- The bits of a word that fields of an access code cover. -/
def WordRow.mask (r : WordRow) (a : Acc) : Nat :=
  r.fields.foldl (fun v x => if x.acc = a then setBits v x.lsb x.width (2 ^ x.width - 1) else v) 0

end Sys2Proof.Machine
end

