-- ==== Sys2Proof/Machine/Ops.lean ====
section
/-! DEFINITION. The named operations over memory, registers and the parts of the state, which every meaning uses. -/

namespace Sys2Proof.Machine

/-! ### Memory: sparse bytes over fills, in one canonical form -/

/-- The region covers the address. -/
def FillRegion.covers (r : FillRegion) (a : Nat) : Bool := decide (r.base ≤ a) && decide (a < r.base + r.len)

/-- What an unlisted address holds: zero in a zero-filled region, nothing known elsewhere. -/
def Memory.background (m : Memory) (a : Nat) : Option Byte :=
  match m.fills.find? (fun r => r.covers a) with
  | some r => if r.fill = .zero then some 0 else none
  | none => none

/-- Which undefined filling last covered the address; 0 for the contents at power-up. -/
def Memory.gen (m : Memory) (a : Nat) : Nat :=
  match m.fills.find? (fun r => r.covers a) with
  | some r => (match r.fill with | .undef g => g | .zero => 0)
  | none => 0

/-- The byte at an address. A byte whose contents the manual leaves undefined is a free value. -/
def Memory.read (m : Memory) (a : Nat) : Byte :=
  match tfind? m.cells a with
  | some b => b
  | none => match m.background a with
    | some b => b
    | none => Config.freeByte (m.gen a) a

/-- Writes one byte. Writing what the address holds unlisted removes its cell. -/
def Memory.write (m : Memory) (a : Nat) (b : Byte) : Memory :=
  if m.background a = some b then { m with cells := tdel m.cells a } else { m with cells := tset b m.cells a }

/-- `n` bytes from an address. -/
def Memory.readBytes (m : Memory) (a n : Nat) : List Byte := (List.range n).map (fun i => m.read (a + i))

/-- Writes bytes at rising addresses. -/
def Memory.writeBytes : Memory → Nat → List Byte → Memory
  | m, _, [] => m
  | m, a, b :: bs => Memory.writeBytes (m.write a b) (a + 1) bs

/-- Fills a region anew: its cells, and the older fills that lie wholly inside it, go. -/
def Memory.fill (m : Memory) (base len : Nat) (k : Fill) : Memory :=
  let r : FillRegion := { base := base, len := len, fill := k }
  { cells := m.cells.filter (fun c => !r.covers c.1),
    fills := r :: m.fills.filter (fun o => !(decide (base ≤ o.base) && decide (o.base + o.len ≤ base + len))) }

/-- The cells stand at strictly rising addresses. -/
def sortedCells : List Host.Cell → Bool
  | [] => true
  | [_] => true
  | a :: b :: r => decide (a.1 < b.1) && sortedCells (b :: r)

/-- The canonical form: rising addresses, and no cell that equals what its address holds unlisted. -/
def Memory.wf (m : Memory) : Bool :=
  sortedCells m.cells && m.cells.all (fun c => decide (m.background c.1 ≠ some c.2))

/-! ### Words of the register map (RegTable.lean), keyed by BAR0 offset and bank -/

/-- The key of a word in bank `idx`. -/
def regKey (off idx : Nat) : Nat := off + 0x4000000 * idx

/-- A stored word; an unlisted one holds its reset value. -/
def State.reg (s : State) (off idx : Nat) : Nat :=
  match tfind? s.regs (regKey off idx) with
  | some v => v.toNat
  | none => wordReset off

/-- Stores a word; a word at its reset value is not listed. -/
def State.setReg (s : State) (off idx v : Nat) : State :=
  if v % 2 ^ 32 = wordReset off then { s with regs := tdel s.regs (regKey off idx) }
  else { s with regs := tset (BitVec.ofNat 32 v) s.regs (regKey off idx) }

/-- A counter register rises by `n` and stays at 0xFFFF_FFFF when it gets there (R58 and others). -/
def State.bump (s : State) (off idx n : Nat) : State := s.setReg off idx (satAdd32 (s.reg off idx) n)

/-- Field [lo + n - 1 : lo] of a stored word. -/
def State.regFld (s : State) (off idx lo n : Nat) : Nat := bits (s.reg off idx) lo n

/-- Stores one field of a word. -/
def State.setRegFld (s : State) (off idx lo n v : Nat) : State :=
  s.setReg off idx (setBits (s.reg off idx) lo n v)

/-- Sets bits of a sticky word. -/
def State.orReg (s : State) (off idx v : Nat) : State := s.setReg off idx (s.reg off idx ||| v)

/-! ### Parts of the state -/

/-- The device time. -/
def State.now (s : State) : Nat := s.time.devTime

def State.tile (s : State) (t : Nat) : Tile := tget Tile.reset s.tiles t
def State.setTile (s : State) (t : Nat) (x : Tile) : State := { s with tiles := tset x s.tiles t }
/-- R188, R200: the narrowest window that training accepts, at its reset value: R430 resets the register before every
training of all channels. -/
def State.minEye (_s : State) : Nat := 6
/-- A channel as the last training of all channels left it: R188 gives no value for its settings and windows. -/
def State.bootChan (s : State) (c : Nat) : Chan :=
  if s.chanBoot = .untrained then Chan.reset
  else { Chan.reset with
    state := s.chanBoot, stb := Config.bootTrain s.chanGen c 0 % 64, vref := Config.bootTrain s.chanGen c 1 % 64,
    eyeStb := max s.minEye (Config.bootTrain s.chanGen c 2 % 64),
    eyeVref := max s.minEye (Config.bootTrain s.chanGen c 3 % 64),
    dsk := (List.range 38).map (fun i => Config.bootTrain s.chanGen c (4 + i) % 16) }
def State.chan (s : State) (c : Nat) : Chan := tget (s.bootChan c) s.chans c
def State.setChan (s : State) (c : Nat) (x : Chan) : State := { s with chans := tset x s.chans c }
def State.brick (s : State) (b : Nat) : Brick := tget Brick.reset s.bricks b
def State.setBrick (s : State) (b : Nat) (x : Brick) : State := { s with bricks := tset x s.bricks b }
def State.ctx (s : State) (c : Nat) : Ctx := tget Ctx.reset s.ctxs c
def State.setCtx (s : State) (c : Nat) (x : Ctx) : State := { s with ctxs := tset x s.ctxs c }
def State.joint (s : State) (j : Nat) : Joint := tget Joint.reset s.joints j
def State.setJoint (s : State) (j : Nat) (x : Joint) : State := { s with joints := tset x s.joints j }
def State.mbox (s : State) (c : Nat) : Mailbox := tget Mailbox.reset s.mail c
def State.setMbox (s : State) (c : Nat) (x : Mailbox) : State := { s with mail := tset x s.mail c }
def State.master (s : State) (m : Nat) : Master := tget Master.reset s.masters m
def State.setMaster (s : State) (m : Nat) (x : Master) : State := { s with masters := tset x s.masters m }
def State.port (s : State) (p : Nat) : Port := tget Port.reset s.links.ports p
def State.setPort (s : State) (p : Nat) (x : Port) : State :=
  { s with links := { s.links with ports := tset x s.links.ports p } }
def State.group (s : State) (c g : Nat) : Group := tget Group.reset s.groups (c * 16 + g)
def State.setGroup (s : State) (c g : Nat) (x : Group) : State := { s with groups := tset x s.groups (c * 16 + g) }
def State.cont (s : State) (c : Nat) : Cont := tget Cont.reset s.conts c
def State.setCont (s : State) (c : Nat) (x : Cont) : State := { s with conts := tset x s.conts c }
def State.page (s : State) (p : Nat) : Page := tget Page.reset s.kv.pages p
def State.setPage (s : State) (p : Nat) (x : Page) : State :=
  { s with kv := { s.kv with pages := tset x s.kv.pages p } }
def Ctx.ring (c : Ctx) (q : Nat) : SRing := tget SRing.reset c.sq q
def Ctx.cring (c : Ctx) (q : Nat) : CRing := tget CRing.reset c.cq q
def State.setRing (s : State) (c q : Nat) (x : SRing) : State :=
  s.setCtx c { s.ctx c with sq := tset x (s.ctx c).sq q }
def State.setCRing (s : State) (c q : Nat) (x : CRing) : State :=
  s.setCtx c { s.ctx c with cq := tset x (s.ctx c).cq q }

/-- A fresh number for a request, a launch or a descriptor. -/
def State.fresh (s : State) : Nat × State := (s.nextId, { s with nextId := s.nextId + 1 })

/-- The next free value's index; the counter of `freeCtr` advances. -/
def State.draw (s : State) : Nat × State := (s.freeCtr, { s with freeCtr := s.freeCtr + 1 })

/-- R448: a write that was clamped (`kind` 1) or ignored by the device's state (`kind` 2) is counted. -/
def State.clampEvent (s : State) (off master kind : Nat) : State :=
  ((s.bump 0x1010 0 1).setReg 0x1014 0 (off / 0x1000 * 0x1000 + off % 0x400 / 4 * 4)).setReg 0x1018 0
    (master % 256 + 256 * kind)

/-! ### The field of tiles (R15 to R20) -/

def tileCount : Nat := 25600
def tileX (t : Nat) : Nat := t % 160
def tileY (t : Nat) : Nat := t / 160
def tileAt (x y : Nat) : Nat := 160 * y + x

/-- R17: the brick above a tile. -/
def brickOf (t : Nat) : Nat := 4 * (tileY t / 40) + tileX t / 40

/-- Distance of two numbers. -/
def dist (a b : Nat) : Nat := (a - b) + (b - a)

/-- The tiles of a rectangle, course by course. -/
def rectTiles (x0 y0 wm1 hm1 : Nat) : List Nat :=
  (List.range (hm1 + 1)).flatMap (fun dy => (List.range (wm1 + 1)).map (fun dx => tileAt (x0 + dx) (y0 + dy)))

/-- The tile lies in the rectangle. -/
def inRect (x0 y0 wm1 hm1 t : Nat) : Bool :=
  decide (x0 ≤ tileX t) && decide (tileX t ≤ x0 + wm1) && decide (y0 ≤ tileY t) && decide (tileY t ≤ y0 + hm1)

/-- R358: the tile lies in the context's rectangle. -/
def Ctx.owns (c : Ctx) (t : Nat) : Bool := decide (t < tileCount) && inRect c.x0 c.y0 c.wm1 c.hm1 t

/-- R357: the context is enabled and not in reset. -/
def Ctx.live (c : Ctx) : Bool := c.enable && c.fnEn && !c.inReset

/-- The context whose rectangle holds the tile, if an enabled one does. -/
def State.ownerOf (s : State) (t : Nat) : Option Nat :=
  (s.ctxs.find? (fun p => p.2.enable && p.2.fnEn && p.2.owns t)).map (·.1)

/-- R62: a scalar register, S0 reading 0. -/
def Tile.sreg (t : Tile) (i : Nat) : Nat := if i = 0 then 0 else (t.sregs.getD i 0).toNat

/-- R62: a write of a scalar register; S0 discards it. -/
def Tile.setS (t : Tile) (i v : Nat) : Tile :=
  if i = 0 then t else { t with sregs := t.sregs.set i (BitVec.ofNat 64 v) }

/-- R81: bytes of scratchpad under the split in force. -/
def Tile.scratchBytes (t : Tile) : Nat := 98304 - 16384 * t.split

/-! ### Detours (R203) -/

/-- The tiles between the ends of an XY route. -/
def pathTiles (a b : Nat) : List Nat :=
  let (xa, ya, xb, yb) := (tileX a, tileY a, tileX b, tileY b)
  let row := (List.range (dist xa xb + 1)).map (fun i => tileAt (if xa ≤ xb then xa + i else xa - i) ya)
  let col := (List.range (dist ya yb + 1)).map (fun i => tileAt xb (if ya ≤ yb then ya + i else ya - i))
  (row ++ col).filter (fun t => t != a && t != b)

/-- R203: the intermediate tile of a pair whose XY route meets a tile that the tables avoid: one of those that neither
leg brings to such a tile, which one being the CMC's choice. -/
def State.detour (s : State) (a b : Nat) : Option Nat :=
  let meets := fun (p q : Nat) => (pathTiles p q).any (fun t => s.detourAvoid.contains t)
  if s.detourAvoid.isEmpty || !meets a b then none
  else
    let vs := (List.range tileCount).filter (fun v => !s.detourAvoid.contains v && !meets a v && !meets v b)
    vs[Config.detourChoice s.detourGen a b % vs.length]?

/-! ### The device address map (R23) -/

def brickTop : Nat := 0xC800000000
def scratchBase : Nat := 0x10000000000
def scratchTop : Nat := 0x100C8000000
def regBase : Nat := 0x20000000000
def hostBase : Nat := 0x800000000000

/-- The channel that serves a brick address (R18). -/
def chanOf (a : Nat) : Nat := a / 0x2000000

/-- The tile of a scratchpad-window address (R25). -/
def slotTile (a : Nat) : Nat := (a - scratchBase) / 0x20000

/-- Window address of byte `o` of a tile's scratchpad. -/
def scratchAddr (t o : Nat) : Nat := scratchBase + (0x20000 * t + o)

/-- The channel serves requests: it is trained and neither fenced nor spalled (R24, R26, R457). -/
def Chan.serves (c : Chan) : Bool := c.state == .active || c.state == .degraded || c.state == .training && !c.wasFenced

/-- R26: brick address in service. -/
def State.brickOk (s : State) (a : Nat) : Bool := decide (a < brickTop) && (s.chan (chanOf a)).serves

/-! ### The mortar: routes and flits (R19 to R22, R201 to R205) -/

/-- Kinds of addresses. -/
inductive AddrKind where
  | brick | scratch | regs | host | reserved
  deriving DecidableEq, Repr

/-- R23. -/
def addrKind (a : Nat) : AddrKind :=
  if a < brickTop then .brick
  else if decide (scratchBase ≤ a) && decide (a < scratchTop) then .scratch
  else if decide (regBase ≤ a) && decide (a < 0x4000000 + regBase) then .regs
  else if decide (hostBase ≤ a) && decide (a < 0x1000000000000) then .host
  else .reserved

/-- The links of a leg: along the course, then along the column; the outputs of R230 are 0 north, 1 east, 2 south,
3 west. -/
def legLinks (a b : Nat) : List (Nat × Nat) :=
  let (xa, ya, xb, yb) := (tileX a, tileY a, tileX b, tileY b)
  (if xa ≤ xb then (List.range (xb - xa)).map (fun i => (tileAt (xa + i) ya, 1))
    else (List.range (xa - xb)).map (fun i => (tileAt (xa - i) ya, 3))) ++
  (if ya ≤ yb then (List.range (yb - ya)).map (fun i => (tileAt xb (ya + i), 0))
    else (List.range (ya - yb)).map (fun i => (tileAt xb (ya - i), 2)))

/-- A number held between two limits. -/
def clampTo (lo hi v : Nat) : Nat := max lo (min hi v)

/-- R20, R22: the tile at which traffic between a unit and a tile meets the mortar; units are 0 to 7 the port codes of
R277, 8 HP, 9 the management port, 10 the kiln, 11 the KV page manager, 12 flash, 13 CMC and KRT. -/
def attachTile (unit t : Nat) : Nat :=
  if unit = 8 then tileAt 0 (clampTo 120 159 (tileY t))
  else if unit = 0 then tileAt 159 (clampTo 40 79 (tileY t))
  else if unit = 1 then tileAt 0 (clampTo 40 79 (tileY t))
  else if unit = 2 then tileAt (clampTo 0 39 (tileX t)) 159
  else if unit = 3 then tileAt (clampTo 0 39 (tileX t)) 0
  else if unit = 4 then tileAt 159 (clampTo 80 119 (tileY t))
  else if unit = 5 then tileAt 0 (clampTo 80 119 (tileY t))
  else if unit = 6 then tileAt (clampTo 120 159 (tileX t)) 159
  else if unit = 7 then tileAt (clampTo 120 159 (tileX t)) 0
  else if unit = 9 then tileAt 159 (clampTo 0 39 (tileY t))
  else if unit = 10 then tileAt (clampTo 40 119 (tileX t)) 0
  else if unit = 11 then tileAt (clampTo 40 79 (tileX t)) 159
  else if unit = 12 then tileAt (clampTo 80 119 (tileX t)) 159
  else tileAt 0 (clampTo 0 39 (tileY t))

/-- R20: the edge that a unit lies on: 0 north, 1 east, 2 south, 3 west. -/
def unitEdge (unit : Nat) : Nat :=
  if unit ∈ [2, 6, 11, 12] then 0 else if unit ∈ [0, 4, 9] then 1 else if unit ∈ [3, 7, 10] then 2 else 3

/-- The edges that a tile touches, in the order of unitEdge. -/
def tileEdges (t : Nat) : List Nat :=
  [(0, tileY t == 159), (1, tileX t == 159), (2, tileY t == 0), (3, tileX t == 0)].filterMap
    (fun e => if e.2 then some e.1 else none)

/-- R230: the outward port of an attach tile toward a unit, as LINK numbers it: 4 the first, 5 the second of a corner
tile. Which of the two is the first is the model's choice: the earlier edge in the order north, east, south, west
(DESIGN CHOICE, log 87). -/
def outPort (unit t : Nat) : Nat := if (tileEdges t).head? = some (unitEdge unit) then 4 else 5

/-- A periphery unit as an end of mortar traffic; a tile stands for itself. -/
def unitEnd (u : Nat) : Nat := 0x8000 + u

/-- R18, R22, R25: the end that serves an address: the tile below the channel, the tile of the scratchpad, the host port
for the host window, the KV page manager for its window, and the host port for the rest of register space, of which
R22 names no unit (DESIGN CHOICE, log 86). -/
def endOf (a : Nat) : Nat :=
  match addrKind a with
  | .brick => chanOf a
  | .scratch => slotTile a
  | .regs => if (a - regBase) / 0x1000 = 0x16 then unitEnd 11 else unitEnd 8
  | _ => unitEnd 8

/-- R22: where traffic of an end that serves the tile `near` meets the mortar. -/
def meetTile (e near : Nat) : Nat := if e < 0x8000 then e else attachTile (e - 0x8000) near

/-- R203: the legs of a packet between two ends: over the detour in force if there is one, and out of the mortar where
a unit takes it. -/
def State.legs (s : State) (e1 e2 : Nat) : List (Nat × Nat) :=
  if e1 = e2 then []
  else
    let t1 := meetTile e1 (meetTile e2 0)
    let t2 := meetTile e2 t1
    (match s.detour t1 t2 with | some v => [(t1, v), (v, t2)] | none => [(t1, t2)]) ++
      (if e2 < 0x8000 then [] else [(t2, e2)])

/-- The links of one leg, its outward port included. -/
def linksOfLeg (l : Nat × Nat) : List (Nat × Nat) :=
  if l.2 < 0x8000 then legLinks l.1 l.2 else [(l.1, outPort (l.2 - 0x8000) l.1)]

/-- R203: the links of a packet's path, in order. -/
def State.path (s : State) (e1 e2 : Nat) : List (Nat × Nat) := (s.legs e1 e2).flatMap linksOfLeg

/-- R207: the hops of a path: its links between routers. -/
def hopsOf (links : List (Nat × Nat)) : Nat := (links.filter (fun l => decide (l.2 < 4))).length

/-- `n` flits cross some legs. -/
def State.sendLegs (s : State) (legs : List (Nat × Nat)) (n : Nat) : State :=
  { s with mortar := { s.mortar with flows := legs.foldl (fun f l =>
      tset (tget 0 f (65536 * l.1 + l.2) + n) f (65536 * l.1 + l.2)) s.mortar.flows } }

/-- R201, R202: a packet of `n` flits crosses the mortar. -/
def State.sendFlits (s : State) (e1 e2 n : Nat) : State := s.sendLegs (s.legs e1 e2) n

/-- R230: the flits that an output of a tile's router has sent. -/
def State.linkTotal (s : State) (t out : Nat) : Nat :=
  s.mortar.flows.foldl (fun k f => if (linksOfLeg (f.1 / 65536, f.1 % 65536)).contains (t, out) then k + f.2 else k) 0

/-- R202: flits of `n` bytes. -/
def flitsOf (n : Nat) : Nat := ceilDiv n 32

/-- Codewords (32 B) that [a, a + n) touches. -/
def codewords (a n : Nat) : List Nat :=
  if n = 0 then [] else (List.range ((a + n - 1) / 32 - a / 32 + 1)).map (· + a / 32)

/-- Codewords of [a, a + n) in stored-poison form (R187). -/
def State.poisonIn (s : State) (a n : Nat) : List Nat := (codewords a n).filter (fun c => s.poison.contains c)

/-- Adds to, or removes from, the sorted list of poisoned codewords. -/
def poisonSet (p : List Nat) (cw : Nat) (b : Bool) : List Nat :=
  let q := p.filter (· != cw)
  if b then insertBy (fun x y => decide (x ≤ y)) cw q else q

/-- Stores bytes in the bricks (R179, R187): a codeword written whole takes the mark of `bad`, the codewords whose data
carries the poison mark; one written in part keeps a mark it had. -/
def State.storeBrick (s : State) (a : Nat) (bs : List Byte) (bad : List Nat) : State :=
  let p := (codewords a bs.length).foldl (fun p cw =>
    if bad.contains cw then poisonSet p cw true
    else if decide (a ≤ 32 * cw) && decide (32 * cw + 32 ≤ a + bs.length) then poisonSet p cw false else p) s.poison
  { s with mem := s.mem.writeBytes a bs, poison := p }

/-- Bytes of a tile's scratchpad. -/
def State.scratch (s : State) (t o n : Nat) : List Byte := s.mem.readBytes (scratchAddr t o) n

/-- Stores bytes in a tile's scratchpad. -/
def State.setScratch (s : State) (t o : Nat) (bs : List Byte) : State :=
  { s with mem := s.mem.writeBytes (scratchAddr t o) bs }

/-- R371 item 2, R389 E4: zeros in all 96 KiB of a tile's scratchpad. -/
def State.zeroScratch (s : State) (t : Nat) : State := { s with mem := s.mem.fill (scratchAddr t 0) 98304 .zero }

/-- Contents that the manual leaves undefined from now on. -/
def State.undefine (s : State) (a n : Nat) : State :=
  let (g, s) := s.draw
  { s with mem := s.mem.fill a n (.undef (g + 1)),
           poison := s.poison.filter (fun c => !(decide (a ≤ 32 * c) && decide (32 * c < a + n))) }

/-- The number that stands for no context: an agent that acts for none (R27). -/
def noCtx : Nat := 64

/-- The context for which a master acts: its function's, its tile programs', or none (R27, R382). -/
def masterCtx (m : Nat) : Nat := if m < 0x40 then m else if m < 0x80 then m - 0x40 else noCtx

/-! ### The error log and the decoder's counts (R184 to R187, R200) -/

/-- R200: an entry joins the log; a full log loses its oldest. -/
def logErr (s : State) (ch kind cw : Nat) : State :=
  let e : ErrEntry := { ch := ch, kind := kind, cw := cw, time := s.now }
  if s.errLog.length < 64 then { s with errLog := s.errLog ++ [e] }
  else { s with errLog := s.errLog.drop 1 ++ [e], errOverflow := true }

/-- R185: the SUSPECT lanes of a channel. -/
def suspectLanes (c : Chan) : List Nat := (List.range 36).filter (fun i => c.suspect.getLsbD i)

/-- R185: the lanes of a channel that the decoder takes as erasures. -/
def State.erased (s : State) (ch : Nat) : List Nat :=
  if bitAt (s.reg 0x1703C 0) 1 then suspectLanes (s.chan ch) else []

/-- R186, R187: a codeword that reads as poisoned is counted and logged: stored poison, or uncorrectable. -/
def noteBad (ch : Nat) (s : State) (cw : Nat) : State :=
  if s.poison.contains cw then logErr (s.bump 0x1701C ch 1) ch 2 (cw % 0x100000)
  else logErr (s.bump 0x17018 ch 1) ch 1 (cw % 0x100000)

/-- R184 to R187: the controller decodes the codewords of [a, a + n), which lie in one channel, no symbol changing on
the way: the marked ones, which it counts and logs. With five erasures or more every codeword is uncorrectable. -/
def State.decodeClean (s : State) (a n : Nat) : List Nat × State :=
  let ch := chanOf a
  let bad := if 4 < (s.erased ch).length then codewords a n else s.poisonIn a n
  (bad, bad.foldl (noteBad ch) s)

/-- R179: the codewords that [a, a + n) covers in part. -/
def partWords (a n : Nat) : List Nat :=
  (codewords a n).filter (fun c => !(decide (a ≤ 32 * c) && decide (32 * c + 32 ≤ a + n)))

/-- R179, R187: bytes of one channel are written: a codeword covered in part is read first, and takes stored-poison form
when that read is uncorrectable. -/
def State.writeBrick (s : State) (a : Nat) (bs : List Byte) (bad : List Nat) : State :=
  let (ue, s) := (partWords a bs.length).foldl (fun (acc : List Nat × State) c =>
    let (u, s) := acc.2.decodeClean (32 * c) 32
    (acc.1 ++ u, s)) ([], s)
  s.storeBrick a bs (bad ++ ue)

end Sys2Proof.Machine
end

