-- ==== Sys2Proof/Machine/RegRead.lean ====
section
/-! DEFINITION. Reading a register (R436 to R445): decoding, the selections of R442, what each status word shows, and
clear-on-read. -/

namespace Sys2Proof.Machine

/-! ### What status words show -/

/-- R35: the guaranteed floor of each operating point, in M steps/s. -/
def floorRate (vp : Nat) : Nat :=
  [380, 450, 500, 560, 620, 670, 740, 810, 900, 990, 1070, 1150, 1220].getD vp 1220

/-- R402, R428: the tile speed map entry; 0 on a spalled tile, the floor under factory defaults. -/
def State.speedEntry (s : State) (t vp : Nat) : Nat :=
  if (s.tile t).run = .spalled then 0
  else match tfind? s.power.tsm (t * 16 + vp) with 
    | some e => e.1
    | none => if s.trust.factoryDefaults then floorRate vp else Config.tileSpeed t vp

/-- R405: the highest class that every non-spalled tile's entry at a point supports. -/
def State.matchMax (s : State) (vp : Nat) : Nat :=
  ((List.range tileCount).filter (fun t => decide ((s.tile t).run ≠ .spalled))).foldl
    (fun k t => min k (s.speedEntry t vp * 100 / floorRate vp - 100)) 15

/-- R393, R413: the cap in force: the smaller of LOCAL_CAP and the rack cap, FALLBACK_W without a lease. -/
def State.capInForce (s : State) : Nat :=
  min (s.regFld 0x20008 0 0 16) (match s.power.rackCap with | some c => c | none => s.regFld 0x20008 0 16 16)

/-- R401: a collective that the exemption covers is in progress. -/
def State.collsExempt (s : State) : Bool :=
  s.power.collExempt && s.colls.any (fun c => c.phase != .ended && s.power.exemptColls.contains (c.ctx * 16 + c.group, c.seq))

/-- A tile waits in its program: its WAIT is pending (R84 STATE 2). -/
def Tile.waiting (t : Tile) : Bool :=
  match (t.units.getD 6 UnitQ.reset).active with
  | some a => !a.finished && decide (bits a.word.toNat 120 8 = 0x60)
  | none => false

/-- R84: TILE_STATE. -/
def Tile.stateCode (t : Tile) : Nat :=
  match t.run with
  | .idle => 0
  | .running => if t.waiting then 2 else 1
  | .faulted => 3
  | .fenced => 4
  | .spalled => 5

/-- R200: CH_STATE.STATE. -/
def ChState.code : ChState → Nat
  | .untrained => 0 | .active => 1 | .degraded => 2 | .training => 3 | .fenced => 4 | .spalled => 5

/-- R230: the tags held of the 64 of R214. -/
def State.tileTags (s : State) (t : Nat) : Nat := ((s.tile t).hod.tags.filter (fun g => decide (g.tag < 64))).length

/-- The destination of a request that waits on no far end: the tile's own scratchpad. -/
def ownEnd : Nat := 0x30000

/-- R214, R230: the most tags that wait on one destination. -/
def Hod.maxDest (h : Hod) : Nat :=
  let far := h.tags.filter (fun g => decide (g.tag < 64) && g.dest != ownEnd)
  far.foldl (fun k x => max k (far.filter (fun y => y.dest == x.dest)).length) 0

/-- R385: the state of a receiver. -/
def State.rxState (s : State) (ident : Nat) : Nat :=
  if ident < 0x40 then
    (let c := s.ctx ident
     if !c.fnEn then 3 else if c.inReset then 2 else tget 0 s.trust.fnState ident)
  else if ident < 0x80 then
    (let c := s.ctx (ident - 0x40)
     if c.inReset then 2 else if !(c.enable && c.fnEn) then 3
     else if s.launches.any (fun l => l.ctx == ident - 0x40 && l.running) then 0 else 1)
  else if ident = 0x80 then s.trust.cmcState
  else if ident = 0x81 then 0
  else if ident = 0x82 then (if s.mgmt.up then 0 else 3) else 3

/-- R277, R299: the fibre pairs of a port: four, two of the host port. -/
def portFibres (p : Nat) : Nat := if p = 8 then 2 else 4

/-- R299, R301: the port words that apply to the host port: LINK_STATUS, SPARE_MAP, SWAPS and DOWNS. -/
def hpWord (off : Nat) : Bool := decide (off ∈ [0x1B008, 0x1B010, 0x1B028, 0x1B02C])

/-- R287, R301: LINK_STATE.STATE of a port. -/
def Port.stateCode (p : Port) : Nat :=
  match p.phase with
  | .up => 2
  | .lanes => 1
  | .fec => 1
  | .dark => if p.cause = 5 then 5 else 1
  | .off => p.cause

/-- R252, R276: the pages in a state. -/
def State.pageCount (s : State) (st : PageState) : Nat := (s.kv.pages.filter (fun p => p.2.st == st)).length

/-- R276: a work region is set and the unit runs. -/
def State.kilnOn (s : State) : Bool :=
  decide (s.reg 0x1A008 0 / 16 * 16 ≠ 0) && decide (s.power.units.getD 0 0 = 1)

/-- R276: the kiln accepts batches. -/
def State.kilnReady (s : State) : Bool := s.kilnOn && decide (s.kiln.kstate = 0)

/-- R296: TIME_LOCK of a port that is up: an exchange has come since link-up, and the module is the root or within 50 ns
of its parent. -/
def State.timeLock (s : State) (p : Nat) : Bool :=
  let x := s.port p
  x.phase == .up && x.exchanged && (s.links.parent.isNone || decide (s.time.slewLeft.natAbs ≤ 50000))

/-- R326: two counters of 32 bits of an idle counter; R413 the energy counters. -/
def State.energyOf (s : State) (idx : Nat) : Nat := (tget 0 s.power.energy idx).toNat

/-- R8, R421, R435: word `w` of the 16 of measurement register `r`, least significant first. -/
def State.measWord (s : State) (r w : Nat) : Nat := leNat (slice (s.trust.meas.getD r []) (4 * w) 4)

/-- What a structured status word shows apart from its RC fields; none for a word kept in `regs`. `m` is the reading
master, `idx` the bank. -/
def State.view (s : State) (m off idx : Nat) : Option Nat :=
  if off = 0x100C then some (b2n (match (s.master m).unlockedAt with
    | some t => decide (s.now ≤ 100000 + t) | none => false))
  else if off = 0x10004 then
    (let c := s.ctx idx
     some (b2n c.enable + 4 * (if c.inReset then 2 else if c.enable && c.fnEn then 1 else 0) + 16 * b2n c.fnEn))
  else if off = 0x10008 then
    (let c := s.ctx idx; some (c.x0 + 2 ^ 8 * c.y0 + 2 ^ 16 * c.wm1 + 2 ^ 24 * c.hm1))
  else if off = 0x1000C then some (s.ctx idx).protBase
  else if off = 0x10014 then some ((s.ctx idx).hostBase % 2 ^ 32)
  else if off = 0x10018 then some ((s.ctx idx).hostBase / 2 ^ 32)
  else if off = 0x1001C then some (s.ctx idx).hostLimit
  else if off = 0x11004 then
    (let b := s.mbox idx
     some (b.sender + 2 ^ 8 * b.receiver + 2 ^ 16 * b2n b.timed + 2 ^ 17 * b2n b.rt + 2 ^ 18 * b.cplRing +
       2 ^ 22 * b2n b.valid + 2 ^ 24 * b.mverMax))
  else if off = 0x12000 then some (s.now % 2 ^ 32)
  else if off = 0x12008 then
    some (s.time.curVp + 2 ^ 8 * s.time.pp + 2 ^ 12 * b2n s.time.pendVp.isSome + 2 ^ 16 * s.time.pendVp.getD 8 +
      2 ^ 20 * s.time.shedStage)
  else if off = 0x12024 then some (s.time.stepMedian % 2 ^ 16 + 2 ^ 16 * (s.time.stepSlowest % 2 ^ 16))
  else if off = 0x13040 then some (min 0xFFFFFFFF (s.linkTotal (idx / 8) (idx % 8) - tget 0 s.mortar.seen idx))
  else if off = 0x13004 then
    (let t := s.tile idx
     let c := t.stateCode
     some (c + 8 * (if decide (1 ≤ c) && decide (c ≤ 3) then t.ctx else 0) + 2 ^ 9 * t.split))
  else if off = 0x13008 then some (s.tile idx).pc
  else if off = 0x13018 then
    (let t := s.tile idx
     some (t.gen.toNat + 2 ^ 8 * b2n t.activeBank + 2 ^ 16 * (t.dir.foldl (fun v d => v ||| 2 ^ d.1) 0)))
  else if off = 0x13020 then
    (let h := (s.tile idx).hod
     some (h.tags.length + 2 ^ 7 * h.maxDest + 2 ^ 12 * h.lastStream))
  else if off = 0x1304C then
    some (match s.detour idx (s.reg 0x13048 m) with | some d => d | none => 0x7FFF)
  else if off = 0x15010 then some s.kv.epoch.toNat
  else if off = 0x15014 then some (s.reg 0x15008 0 - s.pageCount .live - s.pageCount .retiring - s.kv.copies.length)
  else if off = 0x15018 then some (s.pageCount .retiring)
  else if off = 0x17004 then
    (let c := s.chan idx
     some (c.state.code + 2 ^ 3 * c.spare0 + 2 ^ 9 * c.spare1 + 2 ^ 15 * b2n (c.retrain != .none)))
  else if off = 0x17008 then some ((s.chan idx).suspect.toNat % 2 ^ 32)
  else if off = 0x1700C then some ((s.chan idx).suspect.toNat / 2 ^ 32)
  else if off = 0x17028 then
    (let c := s.chan idx; some (c.stb + 2 ^ 6 * c.vref + 2 ^ 12 * c.eyeStb + 2 ^ 18 * c.eyeVref))
  else if off = 0x1702C then
    (let c := s.chan idx
     some (c.marginLow + 2 ^ 6 * c.marginHigh + 2 ^ 12 * c.marginLane + 2 ^ 18 * b2n c.marginValid +
       2 ^ 19 * b2n c.marginNone))
  else if off = 0x1704C then
    (let b := s.brick idx; some (b.temp % 2 ^ 12 + 2 ^ 12 * b.band + 2 ^ 14 * b2n (decide (380 < b.temp))))
  else if off = 0x17060 then
    (match s.errLog with
     | [] => some 0
     | e :: _ => some (e.ch + 2 ^ 15 * (if s.errOverflow then 4 else e.kind)))
  else if off = 0x17064 then (match s.errLog with | [] => some 0 | e :: _ => some e.cw)
  else if off = 0x17068 then (match s.errLog with | [] => some 0 | e :: _ => some (e.time % 2 ^ 32))
  else if off = 0x1706C then (match s.errLog with | [] => some 0 | e :: _ => some (e.time / 2 ^ 32 % 2 ^ 32))
  else if off = 0x18000 then
    some (b2n s.flash.ready + 2 * b2n s.flash.readOnly + 2 ^ 16 * s.flash.dieFailed.toNat)
  else if off = 0x18004 then some (min s.flash.wearPct 255)
  else if off = 0x1801C then some (16384 * s.flash.writtenPages / 10 ^ 12 % 2 ^ 32)
  else if off = 0x19000 then
    some (min s.holdup.energy 0xFFFF + 2 ^ 16 * b2n s.holdup.ok + 2 ^ 17 * b2n s.holdup.deferring)
  else if off = 0x1A000 then
    some (b2n s.kilnReady + 2 * b2n (!s.kiln.batches.isEmpty) + 4 * s.kiln.kstate + 2 ^ 16 * s.kiln.up.toNat)
  else if off = 0x1B008 then
    (let p := s.port idx
     some (p.stateCode + 2 ^ 3 * p.txFibres.toNat + 2 ^ 7 * p.rxFibres.toNat +
       2 ^ 11 * p.version + 2 ^ 14 * b2n (s.timeLock idx) + 2 ^ 15 * b2n p.timeSplit))
  else if off = 0x1B010 then
    (let p := s.port idx
     some ((List.range (portFibres idx)).foldl (fun v i =>
       v + 2 ^ (4 * i) * (p.spareTx.getD i 15) + 2 ^ (16 + 4 * i) * (p.spareRx.getD i 15)) 0))
  else if off = 0x1B014 then (let p := s.port idx; some (p.coord + 2 ^ 24 * p.code))
  else if off = 0x1B030 then some (unsignedOf 32 (s.port idx).offsetPs)
  else if off = 0x1B038 then
    some (s.links.ls0.toNat + 2 ^ 9 * b2n s.links.ls0mm + 2 ^ 10 * s.links.ls1.toNat + 2 ^ 19 * b2n s.links.ls1mm)
  else if off = 0x1B044 then some ((tget 0 s.links.routes idx).toNat % 2 ^ 32)
  else if off = 0x1B048 then some ((tget 0 s.links.routes idx).toNat / 2 ^ 32)
  else if off = 0x1C008 then
    (let g := tget Group.reset s.groups idx
     some (b2n g.en + 2 * g.axis + 2 ^ 3 * g.len + 2 ^ 10 * g.rank))
  else if off = 0x1C00C then some (tget Group.reset s.groups idx).seq.toNat
  else if off = 0x1C010 then some (b2n (s.ctx idx).stepPoison0 + 2 * b2n (s.ctx idx).stepPoison1)
  else if off = 0x1D004 then some ((tget 0 s.idle idx).toNat % 2 ^ 32)
  else if off = 0x1E018 then
    (let c := s.cont idx
     let st := match c.st with | .disabled => 0 | .running => 1 | .prepared => 2 | .inDoubt => 3 | .go => 4
     some (st + 2 ^ 3 * b2n c.curGen + 2 ^ 4 * b2n c.held.isSome + 2 ^ 5 * b2n (c.held.getD false) +
       2 ^ 6 * b2n c.trUe + 2 ^ 7 * b2n c.lap))
  else if decide (0x1F008 ≤ off) && decide (off ≤ 0x1F01C) then
    (let c := s.ctx (idx / 32)
     let q := idx % 16
     let sr := c.ring q
     let cr := c.cring q
     let cpl := decide (16 ≤ idx % 32)
     let base := if cpl then cr.base else sr.base
     let k := if cpl then cr.log2 else sr.log2
     some (if off = 0x1F008 then base % 2 ^ 32
       else if off = 0x1F00C then base / 2 ^ 32
       else if off = 0x1F010 then
         (if cpl then b2n cr.en + 2 * (k - 4) + 2 ^ 7 * cr.vector
          else b2n sr.en + 2 * (k - 4) + 2 ^ 5 * b2n sr.timed + 2 ^ 6 * b2n sr.rtm)
       else if off = 0x1F014 then (if cpl then cr.wb % 2 ^ 32 else 0)
       else if off = 0x1F018 then (if cpl then cr.wb / 2 ^ 32 else 0)
       else (if cpl then cr.head % 2 ^ k + 2 ^ 16 * (cr.db % 2 ^ k) else sr.head % 2 ^ k + 2 ^ 16 * (sr.tail % 2 ^ k))))
  else if off = 0x1F044 then
    (let j := s.joint idx; some (b2n j.valid + 2 * j.owner + 2 ^ 7 * b2n j.remoteOk))
  else if off = 0x1F048 then some ((s.joint idx).value.toNat % 2 ^ 32)
  else if off = 0x1F050 then some ((s.joint idx).ticket.toNat % 2 ^ 32)
  else if off = 0x1F054 then some ((s.joint idx).cause + 2 ^ 4 * min (s.joint idx).waits.length 0xFFFF)
  else if off = 0x1F064 then
    (let b := s.mbox idx
     some (b.queue.length + 2 ^ 5 * b2n b.timeout + 2 ^ 6 * s.rxState b.receiver + 2 ^ 8 * b.mverMax))
  else if off = 0x20000 then
    (let p := s.power
     some (p.capVp + 2 ^ 4 * p.duty + 2 ^ 8 * b2n (decide (p.duty < 10)) + 2 ^ 9 * b2n p.capPending +
       2 ^ 10 * b2n p.leaseExpired + 2 ^ 11 * b2n p.matchLost + 2 ^ 12 * b2n (!p.throttle.isEmpty) +
       2 ^ 13 * b2n p.flowLow + 2 ^ 14 * b2n s.collsExempt))
  else if off = 0x20004 then some (s.capInForce + 2 ^ 16 * min s.power.meanW 0xFFFF)
  else if off = 0x20010 then
    some (s.reg 0x20010 0 % 2 ^ 9 + 2 ^ 9 * s.matchMax (s.regFld 0x20010 0 1 4))
  else if off = 0x20014 then some (if s.variant = .kv1s then 0 else s.reg 0x20014 0)
  else if off = 0x20018 then
    some ((List.range 4).foldl (fun v i =>
      if s.variant = .kv1s && (i == 0 || i == 3) then v else v + 4 ^ i * (s.power.units.getD i 0)) 0)
  else if off = 0x20020 then
    some (s.speedEntry (idx / 16) (idx % 16) % 2 ^ 16 +
      2 ^ 16 * b2n (match tfind? s.power.tsm idx with | some e => e.2 | none => false))
  else if off = 0x2002C then some (s.energyOf idx % 2 ^ 32)
  else if off = 0x20034 then
    (let h := s.power.junc.foldl (fun (b : Nat × Nat) x => if b.2 < x.2 then x else b) (0, 0)
     some (h.2 % 2 ^ 12 + 2 ^ 12 * (h.1 / 100 % 16)))
  else if off = 0x20038 then some (s.power.coolIn % 2 ^ 12 + 2 ^ 16 * (s.power.coolOut % 2 ^ 12))
  else if off = 0x21000 then
    (let t := s.trust
     some (t.stage + 2 ^ 4 * b2n (decide (t.stage = 6)) + 2 ^ 5 * b2n t.factoryDefaults + 2 ^ 6 * b2n t.rebuilding +
       2 ^ 7 * b2n t.identityLost + 2 ^ 8 * b2n t.cmcFailed + 2 ^ 9 * b2n t.bindLocked + 2 ^ 10 * b2n t.slot +
       2 ^ 11 * b2n t.altSlot + 2 ^ 12 * b2n t.helperCopy))
  else if off = 0x21004 then
    (let t := s.trust
     some (b2n t.half + 2 * b2n t.busy + 4 * b2n t.compacting + 8 * b2n t.replayCut + 16 * min (t.free / 65536) 0xFF))
  else if off = 0x21008 then some (s.trust.storeGen % 2 ^ 32)
  else if off = 0x21010 then some (s.trust.cmcFloor + 2 ^ 16 * s.trust.periphFloor)
  else if off = 0x21014 then some ((if s.trust.slot then s.trust.slotB else s.trust.slotA).cmcVer % 2 ^ 32)
  else if off = 0x21018 then some ((if s.trust.slot then s.trust.slotB else s.trust.slotA).perVer % 2 ^ 32)
  else if off = 0x21024 then some (s.trust.lastReset + 2 ^ 4 * s.trust.stopCause)
  else if off = 0x21040 then some ((if s.variant = .kv1a then 0 else 1) + 2 ^ 4)
  else if off = 0x21044 then
    some (if s.variant = .kv1a then 7 + 2 ^ 3 * 16 + 2 ^ 8 * 16 else 4)
  else if off = 0x21050 then
    some (1 + 2 ^ 4 * 2 + 2 ^ 8 + 2 ^ 16 + 2 ^ 24 * ((if s.trust.slot then s.trust.slotB else s.trust.slotA).cmcFwi % 256))
  else if off = 0x21064 then some (s.measWord (idx / 16) (idx % 16))
  else none

/-! ### Decoding (R438, R439, R442) -/

/-- R439: bits 11:10 and 1:0 of an offset are not decoded. -/
def canon (off : Nat) : Nat := off / 0x1000 * 0x1000 + off % 0x400 / 4 * 4

/-- What an offset of function 0's BAR0 leads to. -/
inductive Target where
  | hole
  | nothing
  | word (row : WordRow)
  | doorbell (ctx off : Nat)
  | alias_ (slot bit : Nat)
  | msix (fn off : Nat)
  | kvWindow
  deriving DecidableEq, Repr

/-- R438, R439, R444: the target of an access. -/
def decodeOffset (off : Nat) : Target :=
  let b := off / 0x1000
  let o := off % 0x400 / 4 * 4
  if b = 0 then .doorbell 0 o
  else if decide (0x100 ≤ b) && decide (b < 0x140) then .doorbell (b - 0x100) o
  else if b = 2 || b = 3 then .alias_ ((b - 2) * 8 + o / 0x80) (o % 0x80 / 4)
  else if b = 4 then .msix 0 o
  else if b = 0x16 then .kvWindow
  else if (blockRows b).isEmpty then .hole
  else match wordRow (canon off) with
    | some r => .word r
    | none => .nothing

/-- R436: what an offset leads to for a master: a virtual function has a BAR0 of its own, of four pages. -/
def decodeFor (m off : Nat) : Target :=
  if decide (1 ≤ m) && decide (m < 0x40) then
    (let b := off / 0x1000 % 4
     let o := off % 0x400 / 4 * 4
     if b = 0 then .doorbell m o else if b = 1 then .kvWindow else if b = 2 then .msix m o else .nothing)
  else decodeOffset off

/-- R442: the bank that a master's selections give a word. -/
def State.bankOf (s : State) (m : Nat) (b : Bank) : Nat :=
  match b with
  | .module => 0
  | .master => m
  | .unlock => m
  | .tile => s.reg 0x13000 m
  | .tileLink => s.reg 0x13000 m * 8 + s.reg 0x1303C m
  | .arithCtx => s.reg 0x14000 m
  | .chan => s.reg 0x17000 m
  | .lane => s.reg 0x17000 m * 64 + s.reg 0x17020 m
  | .brick => s.reg 0x17048 m
  | .kcause => s.reg 0x1A030 m
  | .port => s.reg 0x1B000 m
  | .rtIndex => s.reg 0x1B040 m
  | .collGroup => s.reg 0x1C000 m * 16 + s.reg 0x1C004 m
  | .collCtx => s.reg 0x1C000 m
  | .idle => s.regFld 0x1D000 m 0 4 * 16 + s.regFld 0x1D000 m 4 4
  | .contCtx => s.reg 0x1E000 m
  | .hifRing => s.reg 0x1F000 m * 32 + s.regFld 0x1F004 m 0 5
  | .hifCtx => s.reg 0x1F000 m
  | .joint => s.reg 0x1F040 m
  | .mailbox => s.reg 0x1F060 m
  | .tsm => s.regFld 0x2001C m 0 15 * 16 + s.regFld 0x2001C m 16 4
  | .en => s.regFld 0x20028 m 0 6 * 32 + s.regFld 0x20028 m 8 5
  | .meas => s.regFld 0x21060 m 0 3 * 16 + s.regFld 0x21060 m 4 4
  | .ct => s.reg 0x10000 m
  | .bind => s.reg 0x11000 m

/-- R445: the register that a bit-alias slot mirrors. -/
def aliasTarget (slot : Nat) : Nat :=
  [0x14010, 0x13014, 0x13020, 0x12008, 0x1703C, 0x1704C, 0x1B00C, 0x1B038, 0x1C010, 0x1E018, 0x1F024, 0x20000,
   0x20014, 0x21000, 0x19000, 0x1A000].getD slot 0

/-- R2: the register belongs to a unit that the variant lacks. -/
def State.unitAbsent (s : State) (off : Nat) : Bool :=
  s.variant == .kv1s && (decide (off / 0x1000 = 0x18) || decide (off / 0x1000 = 0x1A))

/-- R388: the register's domain is in reset: a context's doorbell page and VF pages, or the flash registers before
READY. -/
def State.domainOff (s : State) (m off : Nat) : Bool :=
  match decodeFor m off with
  | .doorbell c _ => (s.ctx c).inReset
  | _ => if decide (1 ≤ m) && decide (m < 0x40) then (s.ctx m).inReset else s.variant == .kv1a && decide (off / 0x1000 = 0x18) && !s.flash.ready

/-- The whole value that a word shows to a master before the read's effects; the words of HP and MP that do not apply to them
read 0 (R301). -/
def State.wordValue (s : State) (m : Nat) (r : WordRow) : Nat :=
  let idx := s.bankOf m r.bank
  if s.unitAbsent r.off || (r.bank == .port && (decide (9 ≤ idx) || idx == 8 && !hpWord r.off)) then 0
  else match s.view m r.off idx with
    | some v => v ||| (if r.off = 0x1706C then 0 else s.reg r.off idx &&& r.mask .rc)
    | none => s.reg r.off idx

/-! ### Effects of a read -/

/-- R39, R328, R391, R413: a read of a low half latches the upper half for its master. -/
def State.latch (s : State) (m off idx : Nat) : State :=
  if off = 0x12000 then s.setReg 0x12004 m (s.now / 2 ^ 32)
  else if off = 0x1D004 then s.setReg 0x1D008 m ((tget 0 s.idle idx).toNat / 2 ^ 32)
  else if off = 0x1F048 then s.setReg 0x1F04C m ((s.joint idx).value.toNat / 2 ^ 32)
  else if off = 0x1F050 then s.setReg 0x1F05C m ((s.joint idx).ticket.toNat / 2 ^ 32)
  else if off = 0x2002C then s.setReg 0x20030 m (s.energyOf idx / 2 ^ 32)
  else s

/-- R200: the read of ERRLOG_3 removes the oldest entry. -/
def State.popErr (s : State) : State := { s with errLog := s.errLog.drop 1, errOverflow := false }

/-- R443: clears the RC fields of a word that `mask` covers. -/
def State.clearRc (s : State) (r : WordRow) (idx mask : Nat) : State :=
  let v := s.reg r.off idx
  let c := r.mask .rc &&& mask
  if c = 0 then s else s.setReg r.off idx (v - (v &&& c))

/-- R230: a read of LINK_FLITS restarts the count of its output. -/
def State.clearFlits (s : State) (off idx : Nat) : State :=
  if off = 0x13040 then
    { s with mortar := { s.mortar with seen := tset (s.linkTotal (idx / 8) (idx % 8)) s.mortar.seen idx } }
  else s

/-- A read of a word: its value, and the state after its side effects. -/
def State.readRow (s : State) (m : Nat) (r : WordRow) : Nat × State :=
  let idx := s.bankOf m r.bank
  let v := s.wordValue m r
  if s.unitAbsent r.off then (0, s)
  else if r.off = 0x1706C then (v, s.popErr)
  else (v, ((s.latch m r.off idx).clearRc r idx 0xFFFFFFFF).clearFlits r.off idx)

/-- R390: TIMEOUT of the channels that function `n` sends on, channels from `lo`. -/
def State.timeoutWord (s : State) (n lo : Nat) : Nat :=
  (List.range 32).foldl (fun v i =>
    let b := s.mbox (lo + i)
    if b.valid && b.timeout && b.sender == n then v + 2 ^ i else v) 0

/-- A read of a doorbell page (R390). -/
def State.readDoorbell (s : State) (n o : Nat) : Nat × State :=
  if o = 0x140 then (s.timeoutWord n 0, s)
  else if o = 0x144 then (s.timeoutWord n 32, s)
  else if o = 0x148 || o = 0x14C then
    (s.reg (0x100000 + o) n, s.setReg (0x100000 + o) n 0)
  else (0, s)

/-- A read of the MSI-X table and pending bits of function `fn` (R450), in the layout of the PCIe specification. -/
def State.readMsix (s : State) (fn o : Nat) : Nat :=
  if o < 0x200 then
    (let v := tget MsixVec.reset s.msix (fn * 32 + o / 16)
     if o % 16 = 0 then v.addr % 2 ^ 32 else if o % 16 = 4 then v.addr / 2 ^ 32 % 2 ^ 32
     else if o % 16 = 8 then v.data.toNat else b2n v.masked)
  else if o = 0x200 then
    (List.range 32).foldl (fun x i => if (tget MsixVec.reset s.msix (fn * 32 + i)).pending then x + 2 ^ i else x) 0
  else 0

/-- R444: the bit-alias read. -/
def State.readAlias (s : State) (m slot bit : Nat) : Nat × State :=
  match wordRow (aliasTarget slot) with
  | none => (0, s)
  | some r =>
    let v := s.wordValue m r
    if s.unitAbsent r.off then (0, s)
    else (b2n (bitAt v bit), s.clearRc r (s.bankOf m r.bank) (2 ^ bit))

/-- A read of one word at an offset of the master's BAR0, function 0's for all but the virtual functions: its value, none where the read aborts (R388), and the state
after it. -/
def readReg (s : State) (m off : Nat) : Option Nat × State :=
  if s.domainOff m off then (none, s)
  else match decodeFor m off with
    | .hole => (some 0, s.bump 0x1020 0 1)
    | .nothing => (some 0, s)
    | .word r => let (v, s) := s.readRow m r; (some v, s)
    | .doorbell n o => let (v, s) := s.readDoorbell n o; (some v, s)
    | .alias_ slot bit => let (v, s) := s.readAlias m slot bit; (some v, s)
    | .msix fn o => (some (s.readMsix fn o), s)
    | .kvWindow => (some 0, s)

/-- The read returns to its master. -/
def State.returnRead (r : Option Nat × State) (m : Nat) : State :=
  r.2.setMaster m { r.2.master m with lastRead := r.1.map (BitVec.ofNat 32) }

end Sys2Proof.Machine
end

