-- ==== Sys2Proof/Machine/Access.lean ====
section
/-! DEFINITION. Accesses of device agents to the address map on behalf of a context (R23 to R27, R359, R360). -/

namespace Sys2Proof.Machine

/-! ### Protection (R360) -/

/-- The byte of the context's protection table that holds the entry of a protection page. -/
def Ctx.protAddr (c : Ctx) (page : Nat) : Nat := 4096 * c.protBase + page / 4

/-- The entry's byte can be read: its channel serves, and its codeword decodes. -/
def State.protReadable (s : State) (c : Ctx) (page : Nat) : Bool :=
  s.brickOk (c.protAddr page) && (s.decodeClean (c.protAddr page) 1).1.isEmpty

/-- The entry in force: the cached one, or the stored one when it can be read, or no access. -/
def State.protEntry (s : State) (ctx page : Nat) : Nat :=
  let c := s.ctx ctx
  match tfind? c.protCache page with
  | some v => v
  | none =>
    if s.protReadable c page then
      (let v := bits (s.mem.read (c.protAddr page)).toNat (2 * (page % 4)) 2
       if v = 2 then 0 else v)
    else 0

/-- The device reads an entry that it has not cached, and caches it if the read decodes. -/
def State.noteProt (s : State) (ctx page : Nat) : State :=
  let c := s.ctx ctx
  if ctx = noCtx ∨ thas c.protCache page = true ∨ !s.brickOk (c.protAddr page) then s
  else
    let v := s.protEntry ctx page
    let (bad, s) := s.decodeClean (c.protAddr page) 1
    if bad.isEmpty then s.setCtx ctx { c with protCache := tset v c.protCache page } else s

/-- The page's entry grants the access; an agent that acts for no context has no table. -/
def State.granted (s : State) (ctx page : Nat) (wr : Bool) : Bool :=
  let e := s.protEntry ctx page
  ctx == noCtx || (if wr then e == 3 else e == 1 || e == 3)

/-! ### Reach (R24, R25, R359) -/

/-- R359: the offsets of register space that a context reaches. -/
def regReach (ctx off : Nat) : Bool :=
  decide (ctx = 0) || ctx == noCtx || decide (off / 0x1000 = 0x100 + ctx) || decide (off / 0x1000 = 0x16)

/-- The master number under which a context's agents access register space (R446). -/
def agentMaster (ctx : Nat) : Nat := if ctx = noCtx then 0x80 else 0x40 + ctx

/-- The context reaches [a, a + len), which lies within one 512 B unit. An agent that acts for no context reaches every
range but the host memory window (R27). -/
def State.reaches (s : State) (ctx a len : Nat) (wr : Bool) : Bool :=
  match addrKind a with
  | .brick => s.brickOk a && decide (a + len ≤ brickTop) && s.granted ctx (a / 0x200000) wr
  | .scratch =>
    (ctx == noCtx || (s.ctx ctx).owns (slotTile a)) &&
      decide ((a - scratchBase) % 0x20000 + len ≤ (s.tile (slotTile a)).scratchBytes) &&
      decide ((s.tile (slotTile a)).run ≠ .spalled)
  | .regs => regReach ctx (a - regBase) && !s.domainOff (agentMaster ctx) (a - regBase)
  | .host => ctx != noCtx && decide (a - hostBase + len ≤ 65536 * (s.ctx ctx).hostLimit)
  | .reserved => false

/-- R24, R27: a failed access counts in the address-error counter of its context, if it has one. -/
def State.addrError (s : State) (ctx : Nat) : State := if ctx = noCtx then s else s.bump 0x10020 ctx 1

/-- R27: the host bus address. -/
def State.hostAddr (s : State) (ctx a : Nat) : Nat := ((s.ctx ctx).hostBase + (a - hostBase)) % 2 ^ 64

/-- The bytes at an address that the context reaches, the register space apart. -/
def State.bytesAt (s : State) (ctx a n : Nat) : List Byte :=
  if addrKind a = .host then s.hostMem.readBytes (s.hostAddr ctx a) n else s.mem.readBytes a n

/-- R82: a write to [a, a + n) reaches a bank that leaves the tile cache and has not been converted. -/
def State.converting (s : State) (a n : Nat) : Bool :=
  let x := s.tile (slotTile a)
  match x.stall with
  | .split c =>
    let last := (a - scratchBase) % 0x20000 + n
    decide (x.scratchBytes < last) && decide (last ≤ 98304 - 16384 * c)
  | _ => false

/-- R190, R82: a channel that [a, a + n) touches is being trained, or a write to it reaches a bank that is being
converted, and what needs it waits. -/
def State.stalled (s : State) (a n : Nat) (wr : Bool := false) : Bool :=
  match addrKind a with
  | .brick => decide (0 < n) && (List.range (chanOf (a + n - 1) - chanOf a + 1)).any (fun i =>
      let c := s.chan (chanOf a + i)
      c.state == .training && !c.wasFenced)
  | .scratch => wr && s.converting a n
  | _ => false

/-- What a read gives: whether it was allowed, its bytes, and the codewords of the brick data that carry the mark. -/
structure RdOut where
  ok : Bool
  data : List Byte
  bad : List Nat
  deriving DecidableEq, Repr

/-- Words of the register space, one after the other (R437, R440). -/
def readRegWords : Nat → State → Nat → Nat → List Byte × State
  | 0, s, _, _ => ([], s)
  | n + 1, s, m, off =>
    let (v, s) := readReg s m off
    let (r, s) := readRegWords n s m (off + 4)
    (leBytes 4 (v.getD 0) ++ r, s)

/-- One read request of a context by an agent at the mortar's end `e`, within one 512 B unit: a request of one flit, and
a response (R202). -/
def agentRead (s : State) (ctx a len : Nat) (e : Nat := unitEnd 8) : RdOut × State :=
  let s' := if addrKind a = .brick then s.noteProt ctx (a / 0x200000) else s
  if s.reaches ctx a len false then
    let s' := (s'.sendFlits e (endOf a) 1).sendFlits (endOf a) e (flitsOf len)
    if addrKind a = .regs then
      (let (d, s) := readRegWords ((len + 3) / 4) s' (agentMaster ctx) (a - regBase)
       ({ ok := true, data := d.take len, bad := [] }, s))
    else if addrKind a = .brick then
      (let (bad, s) := s'.decodeClean a len
       ({ ok := true, data := s.mem.readBytes a len, bad := bad }, s))
    else ({ ok := true, data := s.bytesAt ctx a len, bad := [] }, s')
  else ({ ok := false, data := [], bad := [] }, s'.addrError ctx)

/-- R440: register writes of a device agent, word by word; each waits to act as the master's write. A word that the
bytes cover in part is counted in PARTIAL_WR. -/
def postWords : Nat → State → Nat → Nat → List Byte → State
  | 0, s, _, _, _ => s
  | n + 1, s, m, off, bs =>
    if bs.length < 4 then s.bump 0x1024 0 (b2n (!bs.isEmpty))
    else postWords n { s with regPosted := s.regPosted ++ [(m, off, bs.take 4)] } m (off + 4) (bs.drop 4)

/-- R173, R440: a write of a device agent to the register space; one to the command window of the KV page manager stays
whole. -/
def postRegs (s : State) (m off : Nat) (bs : List Byte) : State :=
  if decodeFor m off = .kvWindow then { s with regPosted := s.regPosted ++ [(m, off, bs)] }
  else postWords (bs.length / 4 + 1) s m off bs

/-- Stores bytes where the context reaches them; `bad` names the codewords of the destination that take the mark. -/
def State.putBytes (s : State) (ctx a : Nat) (bs : List Byte) (bad : List Nat) : State :=
  match addrKind a with
  | .brick => s.writeBrick a bs bad
  | .scratch => { s with mem := s.mem.writeBytes a bs }
  | .regs => postRegs s (agentMaster ctx) (a - regBase) bs
  | .host => if (s.ctx ctx).inReset then s else { s with hostMem := s.hostMem.writeBytes (s.hostAddr ctx a) bs }
  | .reserved => s

/-- One write request of a context by an agent at the mortar's end `e`, within one 512 B unit. -/
def agentWrite (s : State) (ctx a : Nat) (bs : List Byte) (bad : List Nat) (e : Nat := unitEnd 8) : Bool × State :=
  let s' := if addrKind a = .brick then s.noteProt ctx (a / 0x200000) else s
  if s.reaches ctx a bs.length true then
    (true, (s'.sendFlits e (endOf a) (flitsOf bs.length)).putBytes ctx a bs bad)
  else (false, s'.addrError ctx)

/-! ### Transfers, split at 512 B (R24, R212) -/

/-- Cuts [a, a + len) at 512 B boundaries of `a` and of `b`: (offset, length) of each request, in order. `fuel` is
at least the number of requests. -/
def splitReq : Nat → Nat → Nat → Nat → Nat → List (Nat × Nat)
  | 0, _, _, _, _ => []
  | fuel + 1, a, b, o, len =>
    if len = 0 then []
    else
      let n := min len (min (512 - (a + o) % 512) (512 - (b + o) % 512))
      (o, n) :: splitReq fuel a b (o + n) (len - n)

/-- The requests of a transfer between `a` and `b`. -/
def requests (a b len : Nat) : List (Nat × Nat) := splitReq (2 * (len / 512) + 4) a b 0 len

/-- Reads [a, a + len) for a context, request by request (R24); `ok` once every request succeeds. The place of a failed
request holds zeros, which no reader of a failed transfer takes. -/
def readAllAux : List (Nat × Nat) → State → Nat → Nat → Nat → RdOut → RdOut × State
  | [], s, _, _, _, acc => (acc, s)
  | (o, n) :: r, s, e, ctx, a, acc =>
    let (d, s) := agentRead s ctx (a + o) n e
    if d.ok then readAllAux r s e ctx a { acc with data := acc.data ++ d.data, bad := acc.bad ++ d.bad }
    else readAllAux r s e ctx a { acc with ok := false, data := acc.data ++ zeros n }

/-- A read of any length. -/
def agentReadAll (s : State) (ctx a len : Nat) (e : Nat := unitEnd 8) : RdOut × State :=
  readAllAux (requests a a len) s e ctx a { ok := true, data := [], bad := [] }

/-- Writes bytes for a context, request by request (R24): what the requests that succeed write stands. -/
def writeAllAux : List (Nat × Nat) → State → Nat → Nat → Nat → List Byte → List Nat → Bool → Bool × State
  | [], s, _, _, _, _, _, good => (good, s)
  | (o, n) :: r, s, e, ctx, a, bs, bad, good =>
    let (ok, s) := agentWrite s ctx (a + o) (slice bs o n) bad e
    writeAllAux r s e ctx a bs bad (good && ok)

/-- A write of any length; `bad` names the codewords of the destination that take the mark. -/
def agentWriteAll (s : State) (ctx a : Nat) (bs : List Byte) (bad : List Nat) (e : Nat := unitEnd 8) : Bool × State :=
  writeAllAux (requests a a bs.length) s e ctx a bs bad true

/-- The codewords at `b` that take the mark when the codewords `bad` of data at `a` carry it (R187, R212): those that
hold a byte of one of them. -/
def moveBad (bad : List Nat) (a b len : Nat) : List Nat :=
  (codewords b len).filter (fun cw => bad.any (fun c =>
    decide (32 * c + b < 32 * cw + 32 + a) && decide (32 * cw + a < 32 * c + 32 + b)))

/-- Moves the requests of a transfer from `src` to `dst`, each on its own (R24): good or not, marked codewords
read, bytes moved. -/
def moveAux : List (Nat × Nat) → State → Nat → Nat → Nat → Nat → Bool → List Nat → Nat →
    (Bool × List Nat × Nat) × State
  | [], s, _, _, _, _, ok, poi, n => ((ok, poi, n), s)
  | (o, k) :: r, s, e, ctx, src, dst, ok, poi, n =>
    let (d, s1) := agentRead s ctx (src + o) k e
    if d.ok then
      let (w, s2) := agentWrite s1 ctx (dst + o) d.data (moveBad d.bad (src + o) (dst + o) k) e
      if w then moveAux r s2 e ctx src dst ok (poi ++ d.bad) (n + k)
      else moveAux r s2 e ctx src dst false (poi ++ d.bad) n
    else moveAux r s1 e ctx src dst false poi n

/-- R24, R373: a copy of bytes. -/
def agentMove (s : State) (ctx src dst len : Nat) (e : Nat := unitEnd 8) : (Bool × List Nat × Nat) × State :=
  moveAux (requests src dst len) s e ctx src dst true [] 0

end Sys2Proof.Machine
end

