-- ==== Sys2Proof/Machine/Records.lean ====
section
/-! DEFINITION. Completion rings: records, held records, vectors (R361 to R369), and the completion of descriptors. -/

namespace Sys2Proof.Machine

/-- R450: vector `v` of function `fn` is raised: its message is sent, or its pending bit is set while it is masked. -/
def raiseVector (s : State) (fn v : Nat) : State :=
  let e := tget MsixVec.reset s.msix (fn * 32 + v)
  if e.masked then { s with msix := tset { e with pending := true } s.msix (fn * 32 + v) }
  else { s with msixSent := s.msixSent ++ [(fn, v)] }

/-- R365: one more record would reach the index last written to CQ_DB. -/
def CRing.full (r : CRing) : Bool := decide (2 ^ r.log2 ≤ r.head + 1 - r.db)

/-- The ring can take a record now, behind none that is held for it. -/
def Ctx.canTake (c : Ctx) (q : Nat) : Bool :=
  (c.cring q).en && !(c.cring q).full && !c.held.any (fun h => h.ring == q)

/-- R366: a record is written, then the tail; then the vector is raised for an event or an IRQ descriptor. -/
def writeRecord (s : State) (ctx q : Nat) (bs : List Byte) (raise : Bool) : State :=
  let r := (s.ctx ctx).cring q
  let (_, s) := agentWrite s ctx (r.base + 32 * (r.head % 2 ^ r.log2)) bs []
  let s := s.setCRing ctx q { r with head := r.head + 1 }
  let (_, s) := agentWrite s ctx r.wb (leBytes 4 ((r.head + 1) % 2 ^ r.log2)) []
  if raise then raiseVector s ctx r.vector else s

/-- R365: an event record is written, held, or lost. -/
def postEvent (s : State) (ctx q : Nat) (bs : List Byte) : State :=
  let c := s.ctx ctx
  if c.canTake q then writeRecord s ctx q bs true
  else if c.held.length < 256 then
    s.setCtx ctx { c with held := c.held ++ [{ ring := q, bytes := bs, irq := true, event := true, desc := none }] }
  else (s.orReg 0x1F024 ctx 1).bump 0x1F028 ctx 1

/-- R54: the layout that broken-promise, miss and other event records share. -/
def eventRecord (type cause stage qkind ctx queue tag res deadline at_ : Nat) : List Byte :=
  leBytes 1 1 ++ leBytes 1 type ++ leBytes 1 (cause + 16 * stage) ++ leBytes 1 qkind ++ leBytes 2 ctx ++
    leBytes 2 queue ++ leBytes 4 tag ++ leBytes 4 res ++ leBytes 8 deadline ++ leBytes 8 at_

/-- R369: a tile-fault record. -/
def faultRecord (code ctx tile tag pc now : Nat) : List Byte :=
  leBytes 1 1 ++ leBytes 1 0x10 ++ leBytes 1 code ++ leBytes 1 0 ++ leBytes 2 ctx ++ leBytes 2 tile ++ leBytes 4 tag ++
    leBytes 4 pc ++ leBytes 8 now ++ zeros 8

/-! ### Fields of the common header (R367) -/

def Desc.type (d : Desc) : Nat := fld d.bytes 1 1
def Desc.timed (d : Desc) : Bool := fldBit d.bytes 2 0
def Desc.demote (d : Desc) : Bool := fldBit d.bytes 2 1
def Desc.irq (d : Desc) : Bool := fldBit d.bytes 2 2
def Desc.fencePrev (d : Desc) : Bool := fldBit d.bytes 2 3
def Desc.cpl (d : Desc) : Nat := fldBits d.bytes 3 1 0 4
def Desc.tag (d : Desc) : Nat := fld d.bytes 4 4
def Desc.deadline (d : Desc) : Nat := fld d.bytes 8 8

/-- R368: the completion record of a descriptor of submission ring `q`. -/
def Desc.record (d : Desc) (ctx q now : Nat) : List Byte :=
  leBytes 1 1 ++ leBytes 1 1 ++ leBytes 1 d.type ++ leBytes 1 d.status ++ leBytes 2 ctx ++ leBytes 1 q ++
    leBytes 1 d.adm ++ leBytes 4 d.tag ++ zeros 4 ++ leBytes 8 now ++ leBytes 8 d.detail

/-! ### Descriptors that the device has read -/

/-- Changes one descriptor of a ring. -/
def State.modDesc (s : State) (ctx q abs : Nat) (g : Desc → Desc) : State :=
  let r := (s.ctx ctx).ring q
  s.setRing ctx q { r with out := r.out.map (fun d => if d.abs = abs then g d else d) }

/-- Removes a completed descriptor. -/
def State.dropDesc (s : State) (ctx q abs : Nat) : State :=
  let r := (s.ctx ctx).ring q
  s.setRing ctx q { r with out := r.out.filter (fun d => d.abs != abs) }

/-- A descriptor that the device has read and not yet completed. -/
def State.desc? (s : State) (ctx q abs : Nat) : Option Desc :=
  ((s.ctx ctx).ring q).out.find? (fun d => d.abs == abs)

/-- R365: the completion record of a finished descriptor is written, or held, or waits with its descriptor. -/
def emitDesc (s : State) (ctx q : Nat) (d : Desc) : State :=
  let c := s.ctx ctx
  let bs := d.record ctx q s.now
  if c.canTake d.cpl then (writeRecord s ctx d.cpl bs d.irq).dropDesc ctx q d.abs
  else if c.held.length < 256 then
    (s.setCtx ctx { c with held := c.held ++
      [{ ring := d.cpl, bytes := bs, irq := d.irq, event := false, desc := some (q, d.abs) }] }).modDesc ctx q d.abs
        (fun d => { d with phase := .held })
  else s

/-- The descriptor's record may go now: it has finished and, if admitted as timed, been delivered. -/
def Desc.emittable (d : Desc) : Bool := d.phase == .finished && d.treq.isNone

/-- R363: emits what a ring may emit: any finished descriptor of a bulk ring, the oldest of a timed ring. -/
def sweepRing : Nat → State → Nat → Nat → State
  | 0, s, _, _ => s
  | n + 1, s, ctx, q =>
    let r := (s.ctx ctx).ring q
    let next := if r.timed then r.out.head?.filter Desc.emittable else r.out.find? Desc.emittable
    match next with
    | none => s
    | some d =>
      let s' := emitDesc s ctx q d
      if ((s'.ctx ctx).ring q).out == r.out then s' else sweepRing n s' ctx q

/-- The descriptor has done its work: its status and detail are fixed, and its record goes as R363 and R365 allow. -/
def finishDesc (s : State) (ctx q abs status detail : Nat) : State :=
  let s := s.modDesc ctx q abs (fun d => { d with phase := .finished, status := status, detail := detail })
  sweepRing (((s.ctx ctx).ring q).out.length + 1) s ctx q

/-- The oldest descriptor of a ring that has not started, if those before it allow it to start (R363). -/
def State.nextDesc (s : State) (ctx q : Nat) : Option Desc :=
  let r := (s.ctx ctx).ring q
  match r.out.find? (fun d => d.phase == .ready) with
  | none => none
  | some d => if d.fencePrev && r.out.any (fun e => decide (e.abs < d.abs)) then none else some d

/-- The next descriptor of the ring if it is of a type and the context is not in reset. -/
def State.nextOf (s : State) (ctx q type : Nat) : Option Desc :=
  if (s.ctx ctx).inReset then none
  else (s.nextDesc ctx q).filter (fun d => d.type == type)

/-- The descriptor starts. -/
def State.startDesc (s : State) (ctx q abs : Nat) : State :=
  s.modDesc ctx q abs (fun d => { d with phase := .running })

/-- R365: the oldest held record of a context whose ring can take it. -/
def Ctx.nextHeld (c : Ctx) : Option HeldRec :=
  c.held.find? (fun h => (c.cring h.ring).en && !(c.cring h.ring).full)

/-- Removes the first element for which `p` holds. -/
def dropFirst {α : Type} (p : α → Bool) : List α → List α
  | [] => []
  | x :: xs => if p x then xs else x :: dropFirst p xs

/-- Sweeps the rings of a context: descriptors that waited for the buffer. -/
def sweepCtx (s : State) (ctx : Nat) : State :=
  (List.range 16).foldl (fun s q => sweepRing (((s.ctx ctx).ring q).out.length + 1) s ctx q) s

/-- R365: writes the oldest held record that its ring can take; its descriptor then completes. -/
def writeHeld (s : State) (ctx : Nat) : State :=
  match (s.ctx ctx).nextHeld with
  | none => s
  | some h =>
    let c := s.ctx ctx
    let s := s.setCtx ctx { c with held := dropFirst (fun x => (c.cring x.ring).en && !(c.cring x.ring).full) c.held }
    let s := writeRecord s ctx h.ring h.bytes (h.event || h.irq)
    let s := match h.desc with | some (q, abs) => s.dropDesc ctx q abs | none => s
    sweepCtx s ctx

end Sys2Proof.Machine
end

