-- ==== Sys2Proof/Machine/Admission.lean ====
section
/-! DEFINITION. Admission of timed requests, the promise point, broken promises and misses (R40 to R57, R471). -/

namespace Sys2Proof.Machine

/-! ### Resources (R43, R471) -/

def resArray (t : Nat) : Nat := 0x01000000 + t
def resChan (c : Nat) : Nat := 0x02000000 + c
def resLink (t out : Nat) : Nat := 0x03000000 + (0x10000 * out + t)
def resPort (p : Nat) (rx : Bool) : Nat := 0x04000000 + p + 8 * b2n rx
def resHost (fromHost : Bool) : Nat := 0x05000000 + b2n fromHost
def resKiln : Nat := 0x06000000
def resFlashRd : Nat := 0x07000000
def resFlashWr : Nat := 0x08000000
def resMail (c : Nat) : Nat := 0x09000000 + c

/-- R278: payload of a port direction with `n` fibres in service, in bytes per µs. -/
def fibreRate (n : Nat) : Nat := [0, 113800, 227700, 341500, 455300].getD n 455300

/-- Set bits of the low four. -/
def count4 (v : BitVec 4) : Nat := ((List.range 4).filter (fun i => v.getLsbD i)).length

/-- R43, R36, R250, R400: the floor capacity of a resource at a promise point, as a fraction per µs. `duty` is the
admission share in tenths while issue is duty-cycled. -/
def State.capacity (s : State) (pp : Nat) (duty : Option Nat) (res : Nat) : Nat × Nat :=
  let c := res / 2 ^ 24
  let i := res % 2 ^ 24
  if s.power.stage5 && c != 8 then (0, 1)
  else if c = 1 then (match duty with | some d => (floorRate 0 * d, 10) | none => (floorRate pp, 1))
  else if c = 2 then (5600, 1)
  else if c = 3 then (28800 * floorRate pp, 900)
  else if c = 4 then
    (let p := s.port (i % 8)
     (fibreRate (count4 (if bitAt i 3 then p.rxFibres else p.txFibres)), 1))
  else if c = 5 then (100000, 1)
  else if c = 6 then
    (14900 * floorRate pp * ((List.range 16).filter (fun k => s.kiln.up.getLsbD k)).length, 900 * 16)
  else if c = 7 then (48000, 1)
  else if c = 8 then (if s.holdup.ok then 20000 else 0, 1)
  else (2 * floorRate pp, 900)

/-- R400: the admission share in force: none unless issue is duty-cycled. -/
def State.dutyShare (s : State) (adm : Nat) : Option Nat := if s.power.duty < 10 then some adm else none

/-! ### The test of R45 -/

/-- One entry of a ledger. -/
structure LEntry where
  id : Nat
  deadline : Nat
  allow : Nat
  size : Nat
  deriving DecidableEq, Repr

/-- The ledger of a resource, in order of admission. -/
def State.ledger (s : State) (res : Nat) : List LEntry :=
  s.time.treqs.filterMap (fun r => (tfind? r.res res).map (fun n =>
    { id := r.id, deadline := r.deadline, allow := r.allow, size := n }))

/-- Entries sorted by deadline, equal ones in order of admission. -/
def sortLedger (l : List LEntry) : List LEntry := sortBy (fun a b => decide (a.deadline ≤ b.deadline)) l

/-- One check of R45: the sum so far against the reserved capacity until the deadline. -/
def ledgerCheck (cap : Nat × Nat) (pct now sum : Nat) (e : LEntry) : Bool :=
  decide ((sum * 100 * 1000 * cap.2 : Int) ≤ (pct * cap.1 : Int) * ((e.deadline : Int) - now - e.allow))

/-- Every entry of a sorted ledger passes. -/
def ledgerPasses (cap : Nat × Nat) (pct now : Nat) : Nat → List LEntry → Bool
  | _, [] => true
  | sum, e :: r => ledgerCheck cap pct now (sum + e.size) e && ledgerPasses cap pct now (sum + e.size) r

/-- Reserved share, margin and horizon of ADM_CTRL (R58). -/
def State.resvPct (s : State) : Nat := s.regFld 0x12010 0 0 7
def State.marginNs (s : State) : Nat := s.regFld 0x12010 0 8 16
def State.horizonNs (s : State) : Nat := 1000000 * s.regFld 0x12010 0 24 8

/-- A resource's ledger, with further entries, passes at a promise point. -/
def State.resourcePasses (s : State) (pp : Nat) (duty : Option Nat) (res : Nat) (more : List LEntry) : Bool :=
  ledgerPasses (s.capacity pp duty res) s.resvPct s.now 0 (sortLedger (s.ledger res ++ more))

/-- Every resource that some request charges. -/
def State.resources (s : State) : List Nat := (s.time.treqs.flatMap (fun r => r.res.map (·.1))).eraseDups

/-- R50: every ledger passes at a point and an admission share. -/
def State.allPass (s : State) (pp : Nat) (duty : Option Nat) : Bool :=
  s.resources.all (fun r => s.resourcePasses pp duty r [])

/-! ### Admission (R44 to R47) -/

/-- R42: the queues of which `p` holds, by kind, context and number, end: a queue created later starts anew. -/
def State.endQueues (s : State) (p : Nat × Nat × Nat → Bool) : State :=
  { s with time := { s.time with lastDeadline := s.time.lastDeadline.filter (fun x => !p x.1) } }

/-- R42: the deadline of the last request of a queue that was admitted as timed. -/
def State.lastAdmitted (s : State) (k : Nat × Nat × Nat) : Nat :=
  match s.time.lastDeadline.find? (fun x => x.1 == k) with | some x => x.2 | none => 0

/-- The admission share against which requests are checked: the pending one while DUTY_ADM is being lowered. -/
def State.admShare (s : State) : Option Nat :=
  s.dutyShare (match s.power.dutyPend with | some d => d | none => s.power.dutyAdm)

/-- R44: the request passes every test; R50: against the floors of a pending point; R457: a channel that is being fenced
takes no new timed request. -/
def State.admits (s : State) (r : TReq) : Bool :=
  let pp := match s.time.pendVp with | some p => p | none => s.time.pp
  !s.time.admStopped && !s.time.removed &&
  !r.res.any (fun c => decide (c.1 / 2 ^ 24 = 2) && (s.chan (c.1 % 2 ^ 24)).fencing) &&
  decide (s.now + r.allow < r.deadline) && decide (r.deadline ≤ s.now + s.horizonNs) &&
  decide (s.lastAdmitted (r.qkind, r.ctx, r.queue) ≤ r.deadline) &&
  r.res.all (fun c => s.resourcePasses pp s.admShare c.1
    [{ id := r.id, deadline := r.deadline, allow := r.allow, size := c.2 }])

/-- Enters an admitted request in the ledgers. -/
def State.enter (s : State) (r : TReq) : State :=
  let k := (r.qkind, r.ctx, r.queue)
  { s with time := { s.time with
      treqs := s.time.treqs ++ [r],
      lastDeadline := (k, r.deadline) :: s.time.lastDeadline.filter (fun x => x.1 != k) } }

/-- R47: a refusal is counted. -/
def State.refuse (s : State) : State := s.bump 0x12014 0 1

/-- R44, R47: presents a request; its id when it is admitted. -/
def admitReq (s : State) (r : TReq) : Option Nat × State :=
  let (id, s) := s.fresh
  let r := { r with id := id }
  if s.admits r then (some id, s.enter r) else (none, s.refuse)

/-- R48: the request is delivered and leaves the ledgers. -/
def State.deliver (s : State) (id : Nat) : State :=
  { s with time := { s.time with treqs := s.time.treqs.filter (fun r => r.id != id) } }

def State.treq? (s : State) (id : Nat) : Option TReq := s.time.treqs.find? (fun r => r.id == id)

/-- R48, R53: where a request stands among those of a resource: 0 admitted, 1 broken and so at the head of the bulk ones,
2 bulk. -/
def State.rank (s : State) (treq : Option Nat) : Nat :=
  match treq.bind s.treq? with
  | some r => if r.broken then 1 else 0
  | none => 2

/-- The deadline of an admitted request; 0 for any other. -/
def State.dueAt (s : State) (treq : Option Nat) : Nat :=
  match treq.bind s.treq? with
  | some r => if r.broken then 0 else r.deadline
  | none => 0

/-- R48, R53: one request is served before another: by rank, admitted ones by deadline. -/
def State.before (s : State) (a b : Option Nat) : Bool :=
  decide (s.rank a < s.rank b) || s.rank a == s.rank b && decide (s.dueAt a < s.dueAt b)

/-- R48: part of a request has moved: its remaining size falls. -/
def State.progress (s : State) (id res n : Nat) : State :=
  { s with time := { s.time with treqs := s.time.treqs.map (fun r =>
      if r.id = id then { r with res := r.res.map (fun c => if c.1 = res then (c.1, c.2 - n) else c) } else r) } }

/-! ### Broken promises (R51 to R54) -/

/-- R52: a request is broken, once: its size leaves the ledgers, its queue's ring gets the record. The re-trains of
the CMC have neither record nor count (R191), and no ring of a context is there for a mailbox that the CMC sends on. -/
def breakReq (s : State) (id cause stage res : Nat) : State :=
  match s.treq? id with
  | none => s
  | some r =>
    if r.broken then s
    else
      let s := { s with time := { s.time with treqs := s.time.treqs.map (fun x =>
        if x.id = id then { x with broken := true, res := [] } else x) } }
      if r.ctx = noCtx then s
      else
        (postEvent s r.ctx r.cplRing (eventRecord 0x21 cause stage r.qkind r.ctx
          (if r.qkind = 1 || r.qkind = 2 then r.queue % 16 else r.queue) r.tag res r.deadline s.now)).bump 0x12018 0 1

/-- R52: walks a sorted ledger; the entries whose check fails, whose sizes leave the sum for those after them. -/
def ledgerFailures (cap : Nat × Nat) (pct now : Nat) : Nat → List LEntry → List Nat
  | _, [] => []
  | sum, e :: r =>
    if ledgerCheck cap pct now (sum + e.size) e then ledgerFailures cap pct now (sum + e.size) r
    else e.id :: ledgerFailures cap pct now sum r

/-- R52: re-checks one ledger at a point and breaks what fails, naming `shown` as the resource. -/
def recheck (s : State) (pp cause stage res shown : Nat) : State :=
  (ledgerFailures (s.capacity pp s.admShare res) s.resvPct s.now 0 (sortLedger (s.ledger res))).foldl
    (fun s id => breakReq s id cause stage shown) s

/-- R52, R53 E3: re-checks every ledger at a shedding stage. -/
def recheckAll (s : State) (pp stage : Nat) : State :=
  s.resources.foldl (fun s res => recheck s pp 1 stage res res) s

/-- A broken request's completion carries ADM 3 (R53, R368). -/
def State.admCode (s : State) (id : Nat) : Nat :=
  match s.treq? id with | some r => if r.broken then 3 else 1 | none => 1

/-! ### Misses (R55) -/

/-- R55: a miss record, and its count. -/
def missRecord (s : State) (ctx ring qkind queue tag deadline who : Nat) : State :=
  (postEvent s ctx ring (eventRecord 0x22 0 0 qkind ctx queue tag (0x0A000000 + who) deadline s.now)).bump 0x1201C 0 1

/-! ### Paths (R19, R22, R46, R203, R207) -/

/-- R207: guaranteed latency of `hops`, in ns: 2.3 ns a hop at VP8, scaled by the floor step rate. It is taken at the
promise point in force, PP, while a lowering of PP is pending too: R50 names only the capacities for that time (DESIGN
CHOICE, log 85). -/
def State.hopNs (s : State) (hops : Nat) : Nat := ceilDiv (hops * 23 * 900) (10 * floorRate s.time.pp)

/-- R207: the guaranteed crossing into or out of a periphery unit, 40 ns at VP8, scaled in the same way. -/
def State.crossNs (s : State) : Nat := ceilDiv (40 * 900) (floorRate s.time.pp)

/-- Adds charges to a list of (resource, size). -/
def addRes (l : List (Nat × Nat)) (res n : Nat) : List (Nat × Nat) := tset (tget 0 l res + n) l res

/-- R211: bytes of whole flits on every link of a path. -/
def chargeLinks (l : List (Nat × Nat)) (links : List (Nat × Nat)) (n : Nat) : List (Nat × Nat) :=
  links.foldl (fun l x => addRes l (resLink x.1 x.2) n) l

/-- R179: what an access of [a, a + n) costs its channel: whole codewords, a partly written one twice. -/
def channelCost (a n : Nat) (wr : Bool) : Nat :=
  32 * (codewords a n).length + (if wr then 32 * (partWords a n).length else 0)

/-- R179, R202, R212: what the requests of a transfer from `a` to `b` cost together: bytes of the source's channel, bytes
of the destination's, bytes of whole flits. -/
def reqCosts (a b len : Nat) : Nat × Nat × Nat :=
  (requests a b len).foldl (fun (x : Nat × Nat × Nat) r =>
    (x.1 + channelCost (a + r.1) r.2 false, x.2.1 + channelCost (b + r.1) r.2 true, x.2.2 + 32 * flitsOf r.2)) (0, 0, 0)

/-- Charges of one end of a piece of a transfer of `n` bytes that costs a channel `cost`. -/
def chargeEnd (l : List (Nat × Nat)) (a cost n : Nat) (wr : Bool) : List (Nat × Nat) :=
  match addrKind a with
  | .brick => addRes l (resChan (chanOf a)) cost
  | .host => addRes l (resHost (!wr)) n
  | _ => l

/-- Pieces of a transfer within one channel region at either end: (offset, length). -/
def regionPieces : Nat → Nat → Nat → Nat → Nat → List (Nat × Nat)
  | 0, _, _, _, _ => []
  | fuel + 1, a, b, o, len =>
    if len = 0 then []
    else
      let n := min len (min (0x2000000 - (a + o) % 0x2000000) (0x2000000 - (b + o) % 0x2000000))
      (o, n) :: regionPieces fuel a b (o + n) (len - n)

/-- Charges gathered so far, and the longest path in hops. -/
abbrev Charges := List (Nat × Nat) × Nat

/-- R43, R211: adds the charges of moving `len` bytes from `a` to `b` by an agent at the mortar's end `e`: both ends, and
every link of either path in the direction of the data. -/
def State.chargeMove (s : State) (e a b len : Nat) (acc : Charges) : Charges :=
  (regionPieces (2 * (len / 0x2000000) + 4) a b 0 len).foldl (fun (acc : Charges) p =>
    let c := reqCosts (a + p.1) (b + p.1) p.2
    let r1 := s.path (endOf (a + p.1)) e
    let r2 := s.path e (endOf (b + p.1))
    let l := chargeEnd (chargeEnd acc.1 (a + p.1) c.1 p.2 false) (b + p.1) c.2.1 p.2 true
    (chargeLinks (chargeLinks l r1 c.2.2) r2 c.2.2, max acc.2 (hopsOf r1 + hopsOf r2))) acc

/-- R43, R211: adds the charges of an agent at end `e` that reads or writes [a, a + n). -/
def State.chargeRange (s : State) (e a n : Nat) (wr : Bool) (acc : Charges) : Charges :=
  (regionPieces (2 * (n / 0x2000000) + 4) a a 0 n).foldl (fun (acc : Charges) p =>
    let c := reqCosts (a + p.1) (a + p.1) p.2
    let r := if wr then s.path e (endOf (a + p.1)) else s.path (endOf (a + p.1)) e
    (chargeLinks (chargeEnd acc.1 (a + p.1) (if wr then c.2.1 else c.1) p.2 wr) r c.2.2, max acc.2 (hopsOf r))) acc

/-- R43, R373: the charges of a copy through the host port controller, and its largest count of hops. -/
def State.copyCharges (s : State) (src dst len : Nat) : Charges := s.chargeMove (unitEnd 8) src dst len ([], 0)

/-- R46: the allowance of a path: the margin, its hops, crossings into or out of the periphery, and the round trip of
the host when it reads host memory. -/
def State.allowance (s : State) (hops : Nat) (crossing hostRead : Bool) : Nat :=
  s.marginNs + s.hopNs hops + (if crossing then s.crossNs else 0) +
    (if hostRead then 1000 * s.regFld 0x19008 0 8 8 else 0)

/-- An admitted or demoted outcome of a timed request: its id if admitted. -/
inductive Adm where
  | admitted (id : Nat)
  | demoted
  | refused
  deriving DecidableEq, Repr

/-- R47: presents the request of a descriptor: admitted, run as bulk under DEMOTE, or refused. -/
def present (s : State) (r : TReq) (demote : Bool) : Adm × State :=
  let (id, s) := admitReq s r
  match id with
  | some id => (.admitted id, s)
  | none => (if demote then .demoted else .refused, s)

end Sys2Proof.Machine
end

