-- ==== Sys2Proof/Machine/Operands.lean ====
section
/-! DEFINITION. Operand forms of a command word: its header (R64), scalar registers (R62) and scratchpad addresses
(R78). What a unit's word does is an outcome: done, with the flags it raised; a fault; or a wait. -/

namespace Sys2Proof.Machine

/-- Field [lo + n - 1 : lo] of a command word. -/
def cwf (w : CWord) (lo n : Nat) : Nat := bits w.toNat lo n

/-- One flag of a command word. -/
def cwb (w : CWord) (i : Nat) : Bool := bitAt w.toNat i

/-- R64: the header. -/
def cwOp (w : CWord) : Nat := cwf w 120 8
def cwUnit (w : CWord) : Nat := cwf w 117 3
def cwWaitEn (w : CWord) : Bool := cwb w 116
def cwWaitTok (w : CWord) : Nat := cwf w 112 4
def cwSigEn (w : CWord) : Bool := cwb w 111
def cwSigTok (w : CWord) : Nat := cwf w 107 4

/-- R78: the byte offset that an address field in 32 B units and a scalar register name. -/
def Tile.byteAt (t : Tile) (field reg : Nat) : Nat := 32 * (field + t.sreg reg % 4096)

/-- R78: [a, a + n) lies in the scratchpad, clear of the cache banks. -/
def Tile.fits (t : Tile) (a n : Nat) : Bool := decide (a + n ≤ t.scratchBytes)

/-- R65, R78, R124, R132, R209, R330, R380, R387: the opcodes of each unit. -/
def opKnown (unit op : Nat) : Bool :=
  if unit = 0 then decide (op ≤ 0x0A) || op == 0x0C
  else if unit = 1 then decide (0x10 ≤ op) && decide (op ≤ 0x13)
  else if unit = 2 then decide (0x20 ≤ op) && decide (op ≤ 0x30)
  else if unit = 3 then decide (0x40 ≤ op) && decide (op ≤ 0x46)
  else if unit = 4 then decide (0x50 ≤ op) && decide (op ≤ 0x53)
  else if unit = 5 then op == 0x70
  else if unit = 6 then decide (0x60 ≤ op) && decide (op ≤ 0x69)
  else false

/-- What a unit's word did when it ran: it is done but for its completion, it stopped the program, or it waits. -/
inductive WOut where
  | done (s : State) (flags : Nat)
  | fault (s : State) (code : Nat)
  | wait (s : State)

end Sys2Proof.Machine
end

