-- ==== Sys2Proof/Machine/Flags.lean ====
section
/-! DEFINITION. The sticky flags of a tile and of a context (R108, R109): IV, DZ, OF, UF, NX, SAT, ALOSS and AOVF in
bits 0 to 7 of TILE_FLAGS and CTX_FLAGS. What raises each stands with the arithmetic (Fp.lean and the units). -/

namespace Sys2Proof.Machine

/-- R109: flags raised on behalf of a context. -/
def raiseCtx (s : State) (ctx flags : Nat) : State := if flags = 0 then s else s.orReg 0x14010 ctx flags

/-- R109: flags raised by a tile, in its own word and in its context's. -/
def raiseTile (s : State) (t ctx flags : Nat) : State :=
  if flags = 0 then s else raiseCtx (s.orReg 0x13014 t flags) ctx flags

/-- R118: the conversion settings of a context's ARITH_CTRL. -/
def State.arithConv (s : State) (ctx : Nat) : Conv :=
  { e4m3Ovf := bitAt (s.reg 0x14004 ctx) 0, e5m2Ovf := bitAt (s.reg 0x14004 ctx) 1 }

/-- The settings that a tile latched at its launch. -/
def Tile.conv (t : Tile) : Conv := { e4m3Ovf := t.e4m3Ovf, e5m2Ovf := t.e5m2Ovf }

end Sys2Proof.Machine
end

