-- ==== Sys2Proof/Machine/Links.lean ====
section
/-! DEFINITION. Messages over Arkel links: headers, flits, credits, routes (R279 to R285, R292, R293, R352). -/

namespace Sys2Proof.Machine

/-! ### CRC-32C -/

/-- One bit of a reflected CRC-32C. -/
def crcBit (c : Nat) : Nat := if c % 2 = 1 then c / 2 ^^^ 0x82F63B78 else c / 2

/-- One byte. -/
def crcByte (c : Nat) (b : Byte) : Nat :=
  crcBit (crcBit (crcBit (crcBit (crcBit (crcBit (crcBit (crcBit (c ^^^ b.toNat))))))))

/-- CRC-32C of a list of bytes. -/
def crc32c (bs : List Byte) : Nat := bs.foldl crcByte 0xFFFFFFFF ^^^ 0xFFFFFFFF

/-! ### Messages -/

/-- R280: the message header. -/
def msgHeader (op status ctx tag addr len src : Nat) : List Byte :=
  leBytes 1 op ++ leBytes 1 status ++ leBytes 1 ctx ++ leBytes 1 0 ++ leBytes 4 tag ++ leBytes 6 addr ++ leBytes 2 0 ++
    leBytes 4 len ++ leBytes 3 src ++ zeros 9

def msgOp (bs : List Byte) : Nat := fld bs 0 1
def msgStatus (bs : List Byte) : Nat := fld bs 1 1
def msgCtx (bs : List Byte) : Nat := fldBits bs 2 1 0 6
def msgTag (bs : List Byte) : Nat := fld bs 4 4
def msgAddr (bs : List Byte) : Nat := fld bs 8 6
def msgLen (bs : List Byte) : Nat := fld bs 16 4
def msgSrc (bs : List Byte) : Nat := fld bs 20 3
/-- The bytes after the header. -/
def msgData (bs : List Byte) : List Byte := slice bs 32 (msgLen bs)

/-- R301: this module's torus coordinates. -/
def State.coord (s : State) : Nat := s.regFld 0x1B004 0 0 24

/-! ### Routes (R292) -/

def State.routeWord (s : State) (e : Nat) : Nat := (tget 0 s.links.routes e).toNat
def rtRoute (w : Nat) : Nat := bits w 24 24
def rtHopsM1 (w : Nat) : Nat := bits w 48 3
def rtValid (w : Nat) : Bool := bitAt w 51
def rtDown (w : Nat) : Bool := bitAt w 52

/-- The port code of hop `i`. -/
def hopPort (route i : Nat) : Nat := bits route (3 * i) 3

/-- R293: the first `n` hops of a route, reversed, each port code XOR 1. -/
def reverseRoute (route n : Nat) : Nat :=
  (List.range n).foldl (fun r i => r + (hopPort route (n - 1 - i) ^^^ 1) * 2 ^ (3 * i)) 0

def State.setRoute (s : State) (e w : Nat) : State :=
  let r := if w = 0 then tdel s.links.routes e else tset (BitVec.ofNat 64 w) s.links.routes e
  { s with links := { s.links with routes := r } }

/-- R293: the device marks a route down. -/
def State.markDown (s : State) (e : Nat) : State := s.setRoute e (setBits (s.routeWord e) 52 1 1)

/-- R352: the route entry used for port code `p`: its stand-in while that is valid. -/
def State.portEntry (s : State) (p : Nat) : Nat :=
  let w := s.reg (0x1E040 + 4 * p) 0
  if bitAt w 12 then bits w 0 12 else p

def State.portUp (s : State) (p : Nat) : Bool := decide ((s.port p).phase = .up)

/-- R286: guaranteed latency of one hop from a port, in ns, by the length of its fibres. -/
def linkNs (p : Nat) : Nat := 250 + 5 * Config.fibreMetres p

/-- R297: the port's time allows timed requests over it. -/
def State.timedPort (s : State) (p : Nat) : Bool := s.timeLock p && !(s.port p).timeSplit

/-- R295, R297: a timed request may take a route entry: one hop, over a port whose time holds. -/
def State.timedEntry (s : State) (e : Nat) : Bool :=
  rtHopsM1 (s.routeWord e) == 0 && s.timedPort (hopPort (rtRoute (s.routeWord e)) 0)

/-! ### Flits (R278, R279) -/

/-- R279: a flit; SEQ, the acknowledgement and the credits ride in its header. -/
def flitBytes (kind : Nat) (som eom rev : Bool) (vc seq ack crVc : Nat) (nak : Bool) (crCnt route hopsM1 : Nat)
    (payload : List Byte) : List Byte :=
  let h := leBytes 1 (kind + 16 * b2n som + 32 * b2n eom + 64 * b2n rev) ++ leBytes 1 vc ++ leBytes 2 seq ++
    leBytes 2 ack ++ leBytes 1 (crVc + 32 * b2n nak) ++ leBytes 1 crCnt ++ leBytes 4 (route + hopsM1 * 2 ^ 24)
  let b := h ++ fit 256 payload
  b ++ leBytes 4 (crc32c b)

/-- R278: the fibre that carries flit `n` of a direction: the nth active one, counted cyclically. -/
def nthFibre (fibres : BitVec 4) (n : Nat) : Nat :=
  let a := (List.range 4).filter (fun f => fibres.getLsbD f)
  a.getD (n % a.length) 0

/-- R278: flits go out, each on the next fibre. -/
def Port.send (p : Port) : List (List Byte) → Port
  | [] => p
  | f :: r => Port.send { p with wire := p.wire ++ [(nthFibre p.txFibres p.txFlit, f)], txFlit := p.txFlit + 1 } r

/-- R281: fewer than 4,096 flits are unacknowledged, so that a new one may go. -/
def Port.window (p : Port) : Bool := decide (p.replay.length < 4096)

/-- Sends one new flit: it takes the next SEQ, returns credits, and stays in the replay buffer (R281). -/
def Port.emit (p : Port) (kind : Nat) (som eom rev : Bool) (vc route hopsM1 : Nat) (payload : List Byte) : Port :=
  let (crVc, crCnt) := match p.owed.find? (fun c => decide (0 < c.2)) with
    | some c => (c.1, min c.2 15)
    | none => (0, 0)
  let f := flitBytes kind som eom rev vc p.txSeq ((65535 + p.rxSeq) % 65536) crVc p.nakDue crCnt route hopsM1 payload
  { p with txSeq := (p.txSeq + 1) % 65536, nakDue := false,
           owed := if crCnt = 0 then p.owed else tset (tget 0 p.owed crVc - crCnt) p.owed crVc,
           replay := p.replay ++ [(p.txSeq, f)] }.send [f]

/-- R284: the message that is first on virtual channel `v` with a credit there. -/
def Port.firstOn (p : Port) (v : Nat) : Option TxMsg :=
  if tget 0 p.credits v = 0 then none else p.txQ.find? (fun m => m.vc == v)

/-- R284: of a class, the message whose flit goes next: one already begun, else that of the first channel after the one
served last that has a message waiting. -/
def Port.pickClass (p : Port) (cls : Nat) : Option TxMsg :=
  let last := tget 7 p.lastVc cls
  let ms := (List.range 8).filterMap (fun i => p.firstOn (8 * cls + (last + 1 + i) % 8))
  match (p.txQ.find? (fun m => m.vc / 8 == cls && decide (0 < m.sent))) with
  | some m => if tget 0 p.credits m.vc = 0 then none else some m
  | none => ms.head?

/-- R284: the message whose flit goes next: timed classes before bulk ones; of two such classes the responses go first
(DESIGN CHOICE, log 96). -/
def Port.pick (p : Port) : Option TxMsg := [2, 0, 3, 1].findSome? p.pickClass

/-- Drops the first element equal to `x`. -/
def dropEq {α : Type} [DecidableEq α] (x : α) : List α → List α
  | [] => []
  | y :: ys => if x = y then ys else y :: dropEq x ys

/-- Replaces the first element equal to `x`. -/
def replaceEq {α : Type} [DecidableEq α] (x z : α) : List α → List α
  | [] => []
  | y :: ys => if x = y then z :: ys else y :: replaceEq x z ys

/-- Sends flits of waiting messages while credits and the replay window allow (R281, R284). -/
def Port.pump : Nat → Port → Port
  | 0, p => p
  | n + 1, p =>
    if p.phase ≠ .up || !p.window then p
    else match p.pick with
      | none => p
      | some m =>
        let last := decide (m.bytes.length ≤ m.sent + 256)
        let p := { p with credits := tset (tget 0 p.credits m.vc - 1) p.credits m.vc,
                          lastVc := tset (m.vc % 8) p.lastVc (m.vc / 8) }
        let p := p.emit 1 (m.sent == 0) last m.rev m.vc m.route m.hopsM1 (slice m.bytes m.sent 256)
        Port.pump n { p with txQ := if last then dropEq m p.txQ else replaceEq m { m with sent := m.sent + 256 } p.txQ }

/-- Flits that the waiting messages still need. -/
def Port.flitsLeft (p : Port) : Nat := p.txQ.foldl (fun n m => n + (m.bytes.length - m.sent + 255) / 256 + 1) 0

def Port.drain (p : Port) : Port := p.pump p.flitsLeft

/-- A message joins a port's queue. -/
def State.queueMsg (s : State) (p : Nat) (m : TxMsg) : State :=
  let x := s.port p
  s.setPort p ({ x with txQ := x.txQ ++ [m] }).drain

/-- How a send ends at its source (R293). -/
inductive Sent where
  | sent
  | invalid
  | down
  deriving DecidableEq, Repr

/-- R293: a message on a route entry, of class `cls` (R283). -/
def sendOn (s : State) (e cls : Nat) (bs : List Byte) (ctx tag : Nat) : Sent × State :=
  let w := s.routeWord e
  if !rtValid w then (.invalid, s)
  else if rtDown w || !s.portUp (hopPort (rtRoute w) 0) then (.down, s)
  else (.sent, s.queueMsg (hopPort (rtRoute w) 0)
    { bytes := bs, vc := 8 * cls, route := rtRoute w, hopsM1 := rtHopsM1 w, rev := false, entry := some e, ctx := ctx,
      tag := tag, sent := 0 })

/-- R288, R293: an answer back along the route that a message came by: the message had passed `hop` modules. -/
def sendBack (s : State) (m : RxMsg) (bs : List Byte) : State :=
  let hop := m.vc % 8
  let r := reverseRoute m.route (hop + 1)
  let p := hopPort r 0
  if !s.portUp p then s
  else s.queueMsg p
    { bytes := bs, vc := 8 * (if m.vc / 8 < 2 then m.vc / 8 + 2 else m.vc / 8), route := r, hopsM1 := hop, rev := true,
      entry := none, ctx := msgCtx m.bytes, tag := msgTag m.bytes, sent := 0 }

/-- R293: an unreachable notice about a message. -/
def noticeFor (s : State) (m : RxMsg) (status : Nat) : State :=
  sendBack s m (msgHeader 6 status (msgCtx m.bytes) (msgTag m.bytes) (msgAddr m.bytes) 0 s.coord)

/-! ### Messages received -/

/-- R282: messages of one source, on one route and in one class, whose order holds. -/
def sameStream (m o : RxMsg) : Bool :=
  msgSrc o.bytes == msgSrc m.bytes && o.route == m.route && o.hopsM1 == m.hopsM1 && o.vc / 8 == m.vc / 8

/-- R282: a message that has arrived may be taken: every older one of its stream has been. A collective message, once
delivered, waits in the collective engine, and holds back only those of its own operation (DEDUCED, log 97). -/
def takeable (before : List RxMsg) (m : RxMsg) : Bool :=
  !before.any (fun o => sameStream m o && (msgOp o.bytes != 4 ||
    msgOp m.bytes == 4 && msgCtx o.bytes == msgCtx m.bytes && msgTag o.bytes == msgTag m.bytes))

/-- The oldest takeable message for which `p` holds. -/
def findMsg (p : RxMsg → Bool) : List RxMsg → List RxMsg → Option RxMsg
  | _, [] => none
  | before, m :: r => if p m && takeable before m then some m else findMsg p (before ++ [m]) r

/-- The oldest message of a kind at a port. -/
def State.inMsg (s : State) (port : Nat) (p : RxMsg → Bool) : Option RxMsg := findMsg p [] (s.port port).inbox

/-- The message is consumed: its buffer space returns as credits (R284). -/
def State.consume (s : State) (port : Nat) (m : RxMsg) : State :=
  let x := s.port port
  let n := ceilDiv m.bytes.length 256
  s.setPort port { x with inbox := dropEq m x.inbox, owed := tset (tget 0 x.owed m.vc + n) x.owed m.vc }

end Sys2Proof.Machine
end

