-- ==== Sys2Proof/Machine/ContLap.lean ====
section
/-! DEFINITION. Continuity units: entering PREPARED, the commit lap's messages, and what a lap's result does
(R338 to R345). -/

namespace Sys2Proof.Machine

/-! ### The fields of R355 -/

def State.contSingle (s : State) (c : Nat) : Bool := bitAt (s.reg 0x1E004 c) 1
def State.contMask (s : State) (c : Nat) : Nat := s.regFld 0x1E004 c 2 16
def State.prepJoint (s : State) (c : Nat) : Nat := s.regFld 0x1E008 c 0 14
def State.commitJoint (s : State) (c : Nat) : Nat := s.regFld 0x1E008 c 16 14
def State.prepTarget (s : State) (c : Nat) : Nat := s.reg 0x1E00C c
def State.genLo (s : State) (c : Nat) : Nat := s.regFld 0x1E010 c 0 13
def State.genDelta (s : State) (c : Nat) : Nat := s.regFld 0x1E010 c 16 13
def State.genLen (s : State) (c : Nat) : Nat := s.regFld 0x1E014 c 0 13
def State.contStep (s : State) (c : Nat) : Nat := s.reg 0x1E01C c

/-- R30, R337: what the current generation adds to a generational address. -/
def State.genOfs (s : State) (c : Nat) : Nat := if (s.cont c).curGen then 4096 * s.genDelta c else 0

/-- R315: the step poison flag of a parity. -/
def Ctx.stepPoison (c : Ctx) (p : Nat) : Bool := if p % 2 = 0 then c.stepPoison0 else c.stepPoison1

def State.setStepPoison (s : State) (ctx p : Nat) (b : Bool) : State :=
  let c := s.ctx ctx
  s.setCtx ctx (if p % 2 = 0 then { c with stepPoison0 := b } else { c with stepPoison1 := b })

/-! ### Joint values (R377, R378) -/

/-- R378: the context may use the joint. -/
def State.jointOk (s : State) (ctx j : Nat) : Bool := (s.joint j).valid && (s.joint j).owner == ctx

/-- A change of VALUE, with the cause of the add (R326). -/
def State.setJointValue (s : State) (j v : Nat) (cause : Option Nat) : State :=
  let x := s.joint j
  s.setJoint j { x with value := BitVec.ofNat 64 v, cause := cause.getD x.cause }

/-- An add without the continuity units' watch: VALUE grows modulo 2^64. -/
def rawAdd (s : State) (j n cause : Nat) : State := s.setJointValue j ((s.joint j).value.toNat + n) (some cause)

/-- R378: an add on behalf of a context, discarded and counted when the context may not use the joint. -/
def rawAddFor (s : State) (ctx j n cause : Nat) : State :=
  if s.jointOk ctx j then rawAdd s j n cause else s.bump 0x1F058 0 1

/-! ### The lap -/

/-- R303: the port of a group towards rank r + 1, or towards rank r - 1. -/
def Group.port (g : Group) (plus : Bool) : Nat := 2 * g.axis + (if plus then 0 else 1)

/-- R311: the sub-header of a collective message. -/
def subHeader (kind op axis par origin seq first count total : Nat) : List Byte :=
  leBytes 1 kind ++ leBytes 1 op ++ leBytes 1 (axis + 4 * par) ++ leBytes 1 origin ++ leBytes 4 seq ++ leBytes 8 first ++
    leBytes 4 count ++ leBytes 4 total ++ zeros 8

def subKind (bs : List Byte) : Nat := fldBits bs 32 1 0 4
def subOp (bs : List Byte) : Nat := fld bs 33 1
def subAxis (bs : List Byte) : Nat := fldBits bs 34 1 0 2
def subPar (bs : List Byte) : Nat := fldBits bs 34 1 2 1
def subOrigin (bs : List Byte) : Nat := fld bs 35 1
def subSeq (bs : List Byte) : Nat := fld bs 36 4
def subFirst (bs : List Byte) : Nat := fld bs 40 8
def subCount (bs : List Byte) : Nat := fld bs 48 4
def subTotal (bs : List Byte) : Nat := fld bs 52 4

/-- A whole collective message. -/
def collMsg (s : State) (ctx tag : Nat) (sub data : List Byte) : List Byte :=
  msgHeader 4 0 ctx tag 0 (32 + data.length) s.coord ++ sub ++ data

/-- R339: a lap message: bit 1 of TOTAL set, the running AND in bit 0, CONT_STEP in FIRST. -/
def lapMsg (s : State) (ctx : Nat) (g : Group) (origin : Nat) (bit : Bool) (step : Nat) : List Byte :=
  collMsg s ctx 0 (subHeader 8 6 g.axis 0 origin g.seq.toNat step 0 (2 + b2n bit)) []

/-- Sends a lap message on the + port of a group. -/
def sendLap (s : State) (ctx g origin : Nat) (bit : Bool) (step : Nat) : State :=
  let x := s.group ctx g
  if !x.en then s
  else (sendOn s (s.portEntry (x.port true)) 1 (lapMsg s ctx x origin bit step) ctx 0).2

/-- Starts the lap of the first group left, with the agreement so far. -/
def startLap (s : State) (ctx : Nat) : State :=
  let c := s.cont ctx
  match c.lapGroups with
  | [] => s
  | g :: _ => sendLap (s.setCont ctx { c with lapBack := false, lapSeen := 0 }) ctx g (s.group ctx g).rank c.lapAnd
      (s.contStep ctx)

/-- R338: the unit enters PREPARED: the joint returns to 0, the agreement bit is taken, the lap starts. -/
def enterPrepared (s : State) (ctx : Nat) : State :=
  let s := s.setJointValue (s.prepJoint ctx) 0 none
  let c := s.cont ctx
  let poison := (s.ctx ctx).stepPoison (s.contStep ctx)
  let c := { c with st := .prepared, lap := true, preparedAt := s.now,
                    lapGroups := (List.range 16).filter (fun g => bitAt (s.contMask ctx) g),
                    lapAnd := !poison && !c.trUe, lapCause := if poison then 1 else if c.trUe then 4 else 0 }
  startLap (s.setCont ctx c) ctx

/-- R340: a commit record on completion ring 0, whose vector is raised. -/
def commitRecord (s : State) (ctx result : Nat) : State :=
  postEvent s ctx 0 (leBytes 1 1 ++ leBytes 1 0x30 ++ leBytes 1 result ++ leBytes 1 (b2n (s.cont ctx).curGen) ++
    leBytes 2 ctx ++ leBytes 2 0 ++ leBytes 4 (s.contStep ctx) ++ leBytes 4 0 ++ leBytes 8 s.now ++ zeros 8)

/-- R345 item 3: the second arrival at PREP_TARGET in single-generation mode. -/
def leaveGo (s : State) (ctx : Nat) : State :=
  let s := s.setJointValue (s.prepJoint ctx) 0 none
  let s := s.setStepPoison ctx (s.contStep ctx + 1) false
  let s := s.setCont ctx { s.cont ctx with st := .running }
  rawAddFor s ctx (s.commitJoint ctx) 1 4

/-- The PREP_JOINT of a context has reached its target. -/
def State.prepReached (s : State) (ctx : Nat) : Bool :=
  s.jointOk ctx (s.prepJoint ctx) && decide (s.prepTarget ctx ≤ (s.joint (s.prepJoint ctx)).value.toNat)

/-- The continuity unit of a context looks at its joint (R338, R345). -/
def contLook (s : State) (ctx : Nat) : State :=
  let s := if (s.cont ctx).st == .go && s.prepReached ctx then leaveGo s ctx else s
  if (s.cont ctx).st == .running && s.prepReached ctx then enterPrepared s ctx else s

/-- Every continuity unit that is enabled looks at its joint. -/
def contWatch (s : State) : State := s.conts.foldl (fun s c => contLook s c.1) s

/-- R379, R338: an add to a joint, seen by the continuity units. -/
def jointAdd (s : State) (j n cause : Nat) : State := contWatch (rawAdd s j n cause)

/-- R378: an add on behalf of a context. -/
def jointAddFor (s : State) (ctx j n cause : Nat) : State := contWatch (rawAddFor s ctx j n cause)

/-- R339, R345: the lap's result takes effect. -/
def lapResult (s : State) (ctx : Nat) (bit : Bool) : State :=
  let c := s.cont ctx
  let step := s.contStep ctx
  let single := s.contSingle ctx
  let s := if bit then s.setReg 0x1E01C ctx (step + 1) else s
  let s := if bit && single then s else s.setStepPoison ctx step false
  let s := s.setCont ctx { c with st := if bit && single then .go else .running, lap := false, trUe := false,
                                  curGen := if bit && !single then !c.curGen else c.curGen, lapGroups := [] }
  let s := if bit && single then s else rawAddFor s ctx (s.commitJoint ctx) 1 4
  let s := if bit then s.bump 0x1E028 ctx 1 else s.bump 0x1E02C ctx 1
  contWatch (commitRecord s ctx (if bit then 0 else if c.lapCause = 0 then 1 else c.lapCause))

end Sys2Proof.Machine
end

