-- ==== Sys2Proof/Machine/TileCore.lean ====
section
/-! DEFINITION. The tile's program: the program counter with its loops (R65), unit queues (R61), tokens (R63), faults
(R83), and how a tile leaves its launch (R371, R376). -/

namespace Sys2Proof.Machine

def State.modTile (s : State) (t : Nat) (g : Tile → Tile) : State := s.setTile t (g (s.tile t))
def Tile.unit (t : Tile) (u : Nat) : UnitQ := t.units.getD u UnitQ.reset
def Tile.setUnit (t : Tile) (u : Nat) (x : UnitQ) : Tile := { t with units := t.units.set u x }
def Tile.token (t : Tile) (k : Nat) : Nat := t.tokens.getD k 0
def Tile.setToken (t : Tile) (k v : Nat) : Tile := { t with tokens := t.tokens.set k v }

/-- Changes the word that a unit runs. -/
def Tile.modActive (t : Tile) (u : Nat) (g : Active → Active) : Tile :=
  t.setUnit u { t.unit u with active := (t.unit u).active.map g }

/-- The word of a unit is done but for its completion. -/
def Tile.finish (t : Tile) (u flags : Nat) : Tile :=
  t.modActive u (fun a => { a with finished := true, flags := a.flags ||| BitVec.ofNat 8 flags })

/-- Every queue is empty, every word has completed, and every descriptor of the hod has been delivered. -/
def Tile.drained (t : Tile) : Bool :=
  t.units.all (fun u => u.queue.isEmpty && u.active.isNone) && t.hod.descs.all (fun d => d.done)

/-! ### The program counter (R65) -/

/-- Where the program goes on after the word at `a`: each loop that ends there runs again or is left. After 0xFFFFF comes
0 (DESIGN CHOICE, log 100). -/
def afterWord : List LoopLevel → Nat → Nat × List LoopLevel
  | [], a => ((a + 1) % 2 ^ 20, [])
  | l :: r, a =>
    if l.last = a then (if 1 < l.left then (l.first, { l with left := l.left - 1 } :: r) else afterWord r a)
    else ((a + 1) % 2 ^ 20, l :: r)

/-- The sequencer goes on after the word at its program counter. -/
def Tile.advance (t : Tile) : Tile :=
  let (pc, l) := afterWord t.loops t.pc
  { t with pc := pc, loops := l }

/-! ### Leaving a launch -/

/-- R371: a launch all of whose tiles have ended completes; its joint is added to. -/
def launchEnd (s : State) (id : Nat) : State :=
  match s.launches.find? (fun l => l.id == id) with
  | none => s
  | some l =>
    if !l.left.isEmpty then s
    else
      let s := { s with launches := s.launches.filter (fun x => x.id != id) }
      let s := if fldBit l.bytes 29 3 then jointAddFor s l.ctx (fldBits l.bytes 30 2 0 14) 1 4 else s
      finishDesc s l.ctx l.ring l.abs (if 0 < l.faulted then 4 else if l.stopped then 5 else 0)
        (l.skipped + 65536 * l.faulted)

/-- The tile leaves its launch. -/
def leaveLaunch (s : State) (t : Nat) (faulted : Bool) : State :=
  let id := (s.tile t).launch
  let s := { s with launches := s.launches.map (fun l =>
    if l.id = id then { l with left := l.left.filter (· != t), faulted := l.faulted + b2n faulted } else l) }
  launchEnd s id

/-- The waits of a tile on joints end unreleased. -/
def dropTileWaits (s : State) (t : Nat) : State :=
  { s with joints := s.joints.map (fun j =>
    (j.1, { j.2 with waits := j.2.waits.filter (fun w => decide (w.1 ≠ JWho.tile t)) })) }

/-- The admitted requests of a tile's undelivered descriptors leave the ledgers. -/
def dropHodReqs (s : State) (t : Nat) : State :=
  (s.tile t).hod.descs.foldl (fun s d => match d.treq with | some r => s.deliver r | none => s) s

/-- R83, R228: what stays of a descriptor when its program ends: one with requests in flight until they complete, and
after a HALT a multicast with members still to be replayed to, or a replay. -/
def Hod.residue (h : Hod) (halt : Bool) (d : HDesc) : Option HDesc :=
  if halt && (d.replay || !d.dropped.isEmpty) then some d
  else if h.tags.any (fun g => g.req.desc == d.id) then
    some { d with done := true, cancel := true, treq := none, waiting := [], dropped := [] }
  else none

/-- R172: the descriptors of a tile that are dropped leave the epoch's count. -/
def dropKvUsers (s : State) (t : Nat) (halt : Bool) : State :=
  let h := (s.tile t).hod
  let ids := (h.descs.filter (fun d => (h.residue halt d).isNone)).filterMap (fun d => d.kvUser)
  { s with kv := { s.kv with users := s.kv.users.filter (fun u => !ids.contains u.1) } }

/-- R83, R376: the program ends where it stands: queues discarded, issued hod requests left to complete. -/
def haltUnits (s : State) (t : Nat) (run : TileRun) (halt : Bool := false) : State :=
  let s := dropTileWaits (dropKvUsers (dropHodReqs s t) t halt) t
  s.modTile t (fun x => { x with
    run := run, stall := .none, units := List.replicate 8 UnitQ.reset, loops := [], lastCtx := some x.ctx,
    hod := { x.hod with streams := [], descs := x.hod.descs.filterMap (x.hod.residue halt) } })

/-- R83, R369: a fault stops the program at the word `pc`. -/
def tileFault (s : State) (t code pc : Nat) : State :=
  let x := s.tile t
  if x.run ≠ .running then s
  else
    let tag := match s.launches.find? (fun l => l.id == x.launch) with | some l => fld l.bytes 4 4 | none => 0
    let s := (haltUnits s t .faulted).setReg 0x1300C t code
    let s := s.modTile t (fun x => { x with pc := pc })
    leaveLaunch (postEvent s x.ctx 0 (faultRecord code x.ctx t tag pc s.now)) t true

/-- R376: the tile stops, with no record of its own. -/
def tileStop (s : State) (t : Nat) : State :=
  let x := s.tile t
  if x.run ≠ .running then s
  else
    let s := { s with launches := s.launches.map (fun l => if l.id = x.launch then { l with stopped := true } else l) }
    leaveLaunch (haltUnits s t .idle) t false

/-- R65: HALT has drained: the program ends. -/
def tileHalt (s : State) (t : Nat) : State := leaveLaunch (haltUnits s t .idle true) t false

/-! ### Tokens and joint operations of a tile -/

/-- R63: a token is signalled; past 255 the program stops. -/
def signalToken (s : State) (t k pc : Nat) : State :=
  let x := s.tile t
  if 255 ≤ x.token k then tileFault s t 8 pc else s.setTile t (x.setToken k (x.token k + 1))

end Sys2Proof.Machine
end

