-- ==== Sys2Proof/Machine/Vector.lean ====
section
/-! DEFINITION. The vector engine (R120 to R131): registers and lanes, elementwise words, scans, reductions, broadcasts,
row statistics. -/

namespace Sys2Proof.Machine

/-! ### Registers (R120) -/

def Tile.vreg (x : Tile) (i : Nat) : Nat := (tget 0 x.vregs i).toNat
def Tile.setV (x : Tile) (i v : Nat) : Tile := { x with vregs := tset (BitVec.ofNat 1024 v) x.vregs i }

/-- A mask register, M0 reading as ones. -/
def Tile.vmask (x : Tile) (m : Nat) : Nat := if m = 0 then 2 ^ 64 - 1 else (tget 0 x.vmasks m).toNat

/-- A write of a mask register; M0 discards it. -/
def Tile.setMask (x : Tile) (m v : Nat) : Tile :=
  if m = 0 then x else { x with vmasks := tset (BitVec.ofNat 64 v) x.vmasks m }

/-- Lane `l` of `w` bits. -/
def lane (v w l : Nat) : Nat := bits v (w * l) w

/-- A register from its lanes. -/
def packLanes (w : Nat) : List Nat → Nat
  | [] => 0
  | x :: r => x % 2 ^ w + 2 ^ w * packLanes w r

/-- R125: each active lane of a register takes what `f` gives it; the others keep their value and raise no flag. -/
def mapLanes (old w mask : Nat) (f : Nat → Nat × Nat) : Nat × Nat :=
  let r := (List.range (1024 / w)).map (fun l => if bitAt mask l then f l else (lane old w l, 0))
  (packLanes w (r.map (·.1)), r.foldl (fun g y => g ||| y.2) 0)

/-! ### Fields (R123) -/

def vVD (w : CWord) : Nat := cwf w 91 5
def vVA (w : CWord) : Nat := cwf w 86 5
def vVB (w : CWord) : Nat := cwf w 81 5
def vVC (w : CWord) : Nat := cwf w 76 5
def vMask (w : CWord) : Nat := cwf w 73 3
def vType (w : CWord) : Nat := cwf w 71 2
def vSub (w : CWord) : Nat := cwf w 67 4
def vMD (w : CWord) : Nat := cwf w 64 3
def vAddr (x : Tile) (w : CWord) : Nat := x.byteAt (cwf w 52 12) (cwf w 48 4)
def vSReg (w : CWord) : Nat := cwf w 44 4
def vMemFmt (w : CWord) : Nat := cwf w 41 3
def vSR (w : CWord) : Bool := cwb w 40
def vIdx (x : Tile) (w : CWord) : Nat := x.sreg (cwf w 36 4)
def vChain (w : CWord) : Bool := cwb w 35
def vExcl (w : CWord) : Bool := cwb w 34
def vPat (w : CWord) : Nat := cwf w 32 2
def vSel (w : CWord) : Nat := cwf w 29 3
def vBlock (w : CWord) : Bool := cwb w 28

/-- Bits of a lane of a type. -/
def laneBits (ty : Nat) : Nat := if ty = 1 then 16 else 32

/-- The format of a floating type. -/
def typeFmt (ty : Nat) : Fmt := if ty = 1 then .bf16 else .fp32

/-- The value that a lane of a type holds. -/
def laneVal (ty v : Nat) : Val := if ty = 2 then Val.ofInt (signed 32 v) else (typeFmt ty).decode v

/-! ### Elementwise arithmetic (R122, R124, R125) -/

/-- INT32: wraps, and raises no flag. -/
def intOp (op a b c : Nat) : Nat :=
  let x := signed 32 a
  let y := signed 32 b
  unsignedOf 32 (if op = 0x22 then x * y + signed 32 c else if op = 0x23 then x + y else if op = 0x24 then x - y
    else if op = 0x25 then x * y else if op = 0x26 then max x y else if op = 0x27 then min x y
    else if y = 0 then 0 else x.tdiv y)

/-- FP32 and BF16: the exact result rounded once. -/
def fpOp (f : Fmt) (op a b c : Nat) : Nat × Nat :=
  let x := f.decode a
  let y := f.decode b
  let (v, g) := if op = 0x22 then x.fma y (f.decode c) else if op = 0x23 then x.add y
    else if op = 0x24 then x.add y.neg else if op = 0x25 then x.mul y else if op = 0x26 then (Val.max x y, 0)
    else if op = 0x27 then (Val.min x y, 0) else x.div y
  let (r, h) := f.encode Conv.plain .rne v
  (r, g ||| h)

/-- One lane of an operation, by its opcode. -/
def laneOp (ty op a b c : Nat) : Nat × Nat := if ty = 2 then (intOp op a b c, 0) else fpOp (typeFmt ty) op a b c

/-- VFMA, VADD, VSUB, VMUL, VMAX, VMIN, VDIV. -/
def elementWord (op : Nat) (s : State) (t : Nat) (w : CWord) : WOut :=
  let x := s.tile t
  let ty := vType w
  if ty = 3 then .fault s 2
  else
    let n := laneBits ty
    let (a, b, c) := (x.vreg (vVA w), x.vreg (vVB w), x.vreg (vVC w))
    let (r, f) := mapLanes (x.vreg (vVD w)) n (x.vmask (vMask w))
      (fun l => laneOp ty op (lane a n l) (lane b n l) (lane c n l))
    .done (s.modTile t (fun x => x.setV (vVD w) r)) f

/-- R124, R125: a relation of two lanes; with a NaN only NE holds. -/
def laneRel (ty rel a b : Nat) : Bool :=
  let x := laneVal ty a
  let y := laneVal ty b
  if rel = 0 then x.eqv y else if rel = 1 then !x.eqv y else if rel = 2 then x.lt y
  else if rel = 3 then x.lt y || x.eqv y else if rel = 4 then y.lt x else y.lt x || x.eqv y

/-- VCMP. -/
def vcmpWord (s : State) (t : Nat) (w : CWord) : WOut :=
  let x := s.tile t
  let ty := vType w
  if 5 < vSub w then .fault s 1
  else if ty = 3 then .fault s 2
  else
    let n := laneBits ty
    let act := x.vmask (vMask w)
    let old := x.vmask (vMD w)
    let m := packLanes 1 ((List.range 64).map (fun l =>
      if decide (l < 1024 / n) && bitAt act l then
        b2n (laneRel ty (vSub w) (lane (x.vreg (vVA w)) n l) (lane (x.vreg (vVB w)) n l))
      else bits old l 1))
    .done (s.modTile t (fun x => x.setMask (vMD w) m)) 0

/-- VSEL. -/
def vselWord (s : State) (t : Nat) (w : CWord) : WOut :=
  let x := s.tile t
  let ty := vType w
  if ty = 3 then .fault s 2
  else
    let n := laneBits ty
    let (r, f) := mapLanes (x.vreg (vVD w)) n (x.vmask (vMask w)) (fun l =>
      (lane (x.vreg (if bitAt (x.vmask (vMD w)) l then vVA w else vVB w)) n l, 0))
    .done (s.modTile t (fun x => x.setV (vVD w) r)) f

/-! ### Loads and stores (R101, R124) -/

/-- Bytes of an element of a MEMFMT. -/
def memBytes (m : Nat) : Nat := [4, 2, 2, 1, 1, 1, 4].getD m 4

/-- The value of an element of a MEMFMT. -/
def memVal (m w : Nat) : Val :=
  if m = 0 then Fmt.fp32.decode w else if m = 1 then Fmt.bf16.decode w else if m = 2 then Fmt.fp16.decode w
  else if m = 3 then Fmt.e4m3.decode w else if m = 4 then Fmt.e5m2.decode w
  else if m = 5 then Val.ofInt (signed 8 w) else Val.ofInt (signed 32 w)

/-- A value converted to a lane of a type. -/
def toLane (ty : Nat) (cv : Conv) (v : Val) : Nat × Nat :=
  if ty = 2 then toIntFmt 32 v else (typeFmt ty).encode cv .rne v

/-- A value converted to an element of a MEMFMT (R98 to R104). -/
def toMem (m : Nat) (cv : Conv) (r : Rnd) (v : Val) : Nat × Nat :=
  if m = 0 then Fmt.fp32.encode cv .rne v else if m = 1 then Fmt.bf16.encode cv r v
  else if m = 2 then Fmt.fp16.encode cv .rne v else if m = 3 then Fmt.e4m3.encode cv r v
  else if m = 4 then Fmt.e5m2.encode cv r v else if m = 5 then toIntFmt 8 v else toIntFmt 32 v

/-- R123, R124: the fault of a load or store. -/
def memFault (x : Tile) (w : CWord) : Option Nat :=
  let ty := vType w
  if ty = 3 || vMemFmt w == 7 || (ty == 1 && vMemFmt w != 1) then some 2
  else if !x.fits (vAddr x w) (1024 / laneBits ty * memBytes (vMemFmt w)) then some 3 else none

/-- VLD. -/
def vldWord (s : State) (t : Nat) (w : CWord) : WOut :=
  let x := s.tile t
  match memFault x w with
  | some c => .fault s c
  | none =>
    let ty := vType w
    let k := memBytes (vMemFmt w)
    let (r, f) := mapLanes (x.vreg (vVD w)) (laneBits ty) (x.vmask (vMask w)) (fun l =>
      toLane ty x.conv (memVal (vMemFmt w) (leNat (s.scratch t (vAddr x w + k * l) k))))
    .done (s.modTile t (fun x => x.setV (vVD w) r)) f

/-- An INT32 lane that INT8 cannot hold: the manual states no result for it. -/
def int8Open (ty m a : Nat) : Bool :=
  ty == 2 && m == 5 && (decide (signed 32 a < -128) || decide (127 < signed 32 a))

/-- One lane of VST; where the manual states no result, the byte is a free value, the same for the same lane (R117). -/
def storeLane (x : Tile) (w : CWord) (l a : Nat) : Nat × Nat :=
  if int8Open (vType w) (vMemFmt w) a then ((Config.wideInt8 (BitVec.ofNat 32 a)).toNat, 0)
  else toMem (vMemFmt w) x.conv (srRnd (vSR w) x.seed.toNat (vIdx x w + l)) (laneVal (vType w) a)

/-- VST. -/
def vstWord (s : State) (t : Nat) (w : CWord) : WOut :=
  let x := s.tile t
  match memFault x w with
  | some c => .fault s c
  | none =>
    let n := laneBits (vType w)
    let k := memBytes (vMemFmt w)
    let r := (List.range (1024 / n)).foldl (fun (acc : State × Nat) l =>
      if bitAt (x.vmask (vMask w)) l then
        (let (v, f) := storeLane x w l (lane (x.vreg (vVA w)) n l)
         (acc.1.setScratch t (vAddr x w + k * l) (leBytes k v), acc.2 ||| f))
      else acc) (s, 0)
    .done r.1 r.2

/-! ### Scans and reductions (R126, R127) -/

/-- Sum, max, min of two 32-bit lanes. -/
def redOp (ty sub a b : Nat) : Nat × Nat :=
  laneOp ty (if sub = 0 then 0x23 else if sub = 1 then 0x26 else 0x27) a b 0

/-- R126: the identity. -/
def redIdent (ty sub : Nat) : Nat :=
  if sub = 0 then 0
  else if sub = 1 then (if ty = 2 then 0x80000000 else 0xFF800000) else (if ty = 2 then 0x7FFFFFFF else 0x7F800000)

/-- R86: an FP32 lane that is copied: a NaN becomes the canonical one. -/
def quietLane (ty v : Nat) : Nat := if ty = 0 && (Fmt.fp32.decode v).isNan then Fmt.fp32.nan else v

/-- One level of the scan at distance `d`; an inactive lane raises no flag (R125). -/
def scanLevel (ty sub d act : Nat) (y : List (Nat × Bool)) : List (Nat × Bool) × Nat :=
  let r := y.mapIdx (fun l e =>
    if l < d then (e, 0)
    else
      let p := y.getD (l - d) (0, false)
      let (v, f) := if e.2 then (e.1, 0) else redOp ty sub p.1 e.1
      ((v, e.2 || p.2), if bitAt act l then f else 0))
  (r.map (·.1), r.foldl (fun g z => g ||| z.2) 0)

/-- R126: the inclusive scan of 32 lanes. -/
def scanLanes (ty sub : Nat) (xs : List Nat) (act seg : Nat) (chain : Option Nat) : List Nat × Nat :=
  let y := xs.mapIdx (fun l v => if bitAt act l then (quietLane ty v, bitAt seg l) else (redIdent ty sub, false))
  let (y, f) := match chain, y with
    | some c, (v, false) :: r => let (v', f) := redOp ty sub c v; ((v', false) :: r, if bitAt act 0 then f else 0)
    | _, y => (y, 0)
  let (y, f) := [1, 2, 4, 8, 16].foldl (fun (acc : List (Nat × Bool) × Nat) d =>
    let (z, g) := scanLevel ty sub d act acc.1
    (z, acc.2 ||| g)) (y, f)
  (y.map (·.1), f)

/-- The 32 lanes of a register. -/
def lanes32 (v : Nat) : List Nat := (List.range 32).map (lane v 32)

/-- VSCAN. -/
def vscanWord (s : State) (t : Nat) (w : CWord) : WOut :=
  let x := s.tile t
  let (ty, sub) := (vType w, vSub w)
  if 2 < sub then .fault s 1
  else if ty = 1 || ty = 3 then .fault s 2
  else
    let act := x.vmask (vMask w)
    let seg := x.vmask (vMD w)
    let cv := (x.scanChain.map (·.toNat)).getD (redIdent ty sub)
    let (y, f) := scanLanes ty sub (lanes32 (x.vreg (vVA w))) act seg (if vChain w then some cv else none)
    let before := fun l => if bitAt act l && bitAt seg l then redIdent ty sub
      else if l = 0 then (if vChain w then cv else redIdent ty sub) else y.getD (l - 1) 0
    let (r, _) := mapLanes (x.vreg (vVD w)) 32 act (fun l => (if vExcl w then before l else y.getD l 0, 0))
    .done (s.modTile t (fun x => { x.setV (vVD w) r with scanChain := some (BitVec.ofNat 32 (y.getD 31 0)) })) f

/-- One level of a tree: neighbours combined. -/
def treeLevel (g : Nat → Nat → Nat × Nat) : List Nat → List Nat × Nat
  | a :: b :: r =>
    let (v, f) := g a b
    let (vs, h) := treeLevel g r
    (v :: vs, f ||| h)
  | l => (l, 0)

/-- R127: five levels. -/
def treeOf (g : Nat → Nat → Nat × Nat) (xs : List Nat) : Nat × Nat :=
  let r := (List.range 5).foldl (fun (acc : List Nat × Nat) _ =>
    let (y, f) := treeLevel g acc.1
    (y, acc.2 ||| f)) (xs, 0)
  (r.1.headD 0, r.2)

/-- R127: argmax of the active lanes. -/
def argmax (ty act : Nat) (xs : List Nat) : Nat :=
  let ls := (List.range 32).filter (bitAt act)
  let v := fun l => laneVal ty (xs.getD l 0)
  match ls.find? (fun l => (v l).isNan) with
  | some l => l
  | none => match ls with
    | [] => 0xFFFFFFFF
    | l :: r => r.foldl (fun b k => if (v b).lt (v k) then k else b) l

/-- VRED: lane 0 is written if its bit of the mask is 1 (R125). -/
def vredWord (s : State) (t : Nat) (w : CWord) : WOut :=
  let x := s.tile t
  let (ty, sub) := (vType w, vSub w)
  if 3 < sub then .fault s 1
  else if ty = 1 || ty = 3 then .fault s 2
  else
    let act := x.vmask (vMask w)
    let xs := lanes32 (x.vreg (vVA w))
    let put := fun v => (mapLanes (x.vreg (vVD w)) 32 (act % 2) (fun _ => (v, 0))).1
    if sub = 3 then .done (s.modTile t (fun x => x.setV (vVD w) (put (argmax ty act xs)))) 0
    else
      let (v, f) := treeOf (redOp ty sub) (xs.mapIdx (fun l v => if bitAt act l then v else redIdent ty sub))
      let (v, f) := if vChain w then
          (let (u, g) := redOp ty sub ((x.redChain.map (·.toNat)).getD (redIdent ty sub)) v
           (u, f ||| g))
        else (v, f)
      .done (s.modTile t (fun x => { x.setV (vVD w) (put v) with redChain := some (BitVec.ofNat 32 v) })) f

/-! ### Broadcasts (R128) -/

/-- Lane `l` of P(v). -/
def patLane (pat sel v l : Nat) : Nat :=
  lane v 32 (if pat = 1 then l % 16 else if pat = 2 then 2 * sel + l / 16 else l)

/-- VBRC. -/
def vbrcWord (s : State) (t : Nat) (w : CWord) : WOut :=
  let x := s.tile t
  let n := if vBlock w then 8 else 1
  if 3 < vSub w then .fault s 1
  else if vType w ≠ 0 || vPat w == 3 then .fault s 2
  else if 32 < vVA w + n || 32 < vVD w + n then .fault s 0x11
  else
    let op := [0x23, 0x24, 0x25, 0x26].getD (vSub w) 0x23
    let r := (List.range n).map (fun i =>
      mapLanes (x.vreg (vVD w + i)) 32 (x.vmask (vMask w)) (fun l =>
        fpOp .fp32 op (lane (x.vreg (vVA w + i)) 32 l)
          (patLane (vPat w) (if vBlock w then i else vSel w) (x.vreg (vVB w)) l) 0))
    .done (s.modTile t (fun x => (r.mapIdx (fun i y => (i, y.1))).foldl (fun x y => x.setV (vVD w + y.1) y.2) x))
      (r.foldl (fun g y => g ||| y.2) 0)

/-! ### Row statistics (R129 to R131) -/

/-- |a| ≥ |b|, false with a NaN. -/
def magGe (a b : Word) : Bool :=
  let x := Fmt.fp32.decode (a.toNat % 2 ^ 31)
  let y := Fmt.fp32.decode (b.toNat % 2 ^ 31)
  y.lt x || x.eqv y

/-- R130: a value added to a compensated sum. -/
def compAdd (p : Word × Word) (v : Word) : (Word × Word) × Nat :=
  let (t, f0) := fAdd p.1 v
  let (u, f1) := if magGe p.1 v then fSub p.1 t else fSub v t
  let (u, f2) := fAdd u (if magGe p.1 v then v else p.1)
  let (c, f3) := fAdd p.2 u
  ((t, c), f0 ||| f1 ||| f2 ||| f3)

/-- The accumulator STA[i]. -/
def Tile.stat (x : Tile) (i : Nat) : StatAcc := tget StatAcc.reset x.sta i
def Tile.setStat (x : Tile) (i : Nat) (a : StatAcc) : Tile := { x with sta := tset a x.sta i }

/-- R130: one active element `x` of lane `l`; an INT32 lane is its integer. -/
def StatAcc.add (a : StatAcc) (l : Nat) (x : Val) : StatAcc × Nat :=
  let (d, f0) := toFp32 (x.add (fp32 a.shift).neg)
  let (d2, f1) := fMul d d
  let (p, f2) := compAdd (a.d.getD l (0, 0)) d
  let (q, f3) := compAdd (a.d2.getD l (0, 0)) d2
  ({ a with d := a.d.set l p, d2 := a.d2.set l q, n := a.n + 1, nonfin := a.nonfin || !x.isFin,
            inf := a.inf || (!x.isFin && !x.isNan) }, f0 ||| f1 ||| f2 ||| f3)

/-- VSTAT. The first active element becomes s as an FP32 value: an INT32 one rounded (DESIGN CHOICE, log 101). -/
def vstatWord (s : State) (t : Nat) (w : CWord) : WOut :=
  let x := s.tile t
  let i := vMD w % 4
  let start := bitAt (vSub w) 1
  let ls := (List.range 32).filter (bitAt (x.vmask (vMask w)))
  let a := if start then { StatAcc.reset with started := true, rms := bitAt (vSub w) 0 } else x.stat i
  if 3 < vSub w then .fault s 1
  else if vType w = 1 || vType w = 3 then .fault s 2
  else if !a.started || decide (2 ^ 24 < a.n + ls.length) then .fault s 0x10
  else
    let xs := x.vreg (vVA w)
    let a := match ls with
      | l :: _ => if a.n = 0 && !a.rms then { a with shift := (toFp32 (laneVal (vType w) (lane xs 32 l), 0)).1 } else a
      | [] => a
    let (a, f) := ls.foldl (fun (acc : StatAcc × Nat) l =>
      let (b, g) := acc.1.add l (laneVal (vType w) (lane xs 32 l))
      (b, acc.2 ||| g)) (a, 0)
    .done (s.modTile t (fun x => x.setStat i a)) f

/-- One FP32 rounding in a chain of them. -/
def fWord (r : Word × Nat) (k : Word → Word × Nat) : Word × Nat :=
  let (v, f) := k r.1
  (v, r.2 ||| f)

/-- What VSTATF writes to lanes 0 to 5, whether a variance was clamped, and flags. -/
structure StatOut where
  lanes : List Word
  clamped : Bool
  flags : Nat
  deriving DecidableEq, Repr

/-- The tree of R127 over lane sums. -/
def statTree (ps : List (Word × Word)) : Word × Nat :=
  let r := ps.map (fun p => fAdd p.1 p.2)
  let (v, f) := treeOf (fun a b => fpOp .fp32 0x23 a b 0) (r.map (fun y => y.1.toNat))
  (BitVec.ofNat 32 v, r.foldl (fun g y => g ||| y.2) f)

/-- 1/√x of R133 on FP32 words. -/
def fRsqrt (x : Word) : Word × Nat := toFp32 (sfRsqrt (fp32 x))

/-- R131. -/
def StatAcc.final (a : StatAcc) (eps : Word) : StatOut :=
  let (s1, f1) := statTree a.d
  let (s2, f2) := statTree a.d2
  let nW := (toFp32 (Val.ofInt a.n, 0)).1
  if a.nonfin then
    { lanes := [0x7FC00000, 0x7FC00000, 0x7FC00000, nW, s1, s2], clamped := false,
      flags := f1 ||| f2 ||| (if a.inf then flagIV else 0) }
  else if a.n = 0 then
    { lanes := [0, 0, (fRsqrt eps).1, nW, s1, s2], clamped := false, flags := f1 ||| f2 ||| (fRsqrt eps).2 }
  else
    let (m, f3) := fDiv s1 nW
    let (mean, f4) := fAdd a.shift m
    let (p, f5) := fMul s1 m
    let (u, f6) := fSub s2 p
    let (q, f7) := fDiv u nW
    let pos := Val.lt (.fin false 0 0) (fp32 q)
    let var := if pos then q else 0
    let (r, f8) := fWord (fAdd var eps) fRsqrt
    { lanes := [mean, var, r, nW, s1, s2], clamped := Val.lt (fp32 q) (.fin false 0 0),
      flags := f1 ||| f2 ||| f3 ||| f4 ||| f5 ||| f6 ||| f7 ||| f8 }

/-- VSTATF. -/
def vstatfWord (s : State) (t : Nat) (w : CWord) : WOut :=
  let x := s.tile t
  let i := vMD w % 4
  let a := x.stat i
  if vType w = 1 || vType w = 3 then .fault s 2
  else if !a.started then .fault s 0x10
  else
    let o := a.final (BitVec.ofNat 32 (x.sreg (vSReg w)))
    let (r, _) := mapLanes (x.vreg (vVD w)) 32 (x.vmask (vMask w) % 64) (fun l => ((o.lanes.getD l 0).toNat, 0))
    let a := { a with finalised := true, mean := o.lanes.getD 0 0, rstd := o.lanes.getD 2 0 }
    let s := if o.clamped then s.bump 0x1301C t 1 else s
    .done (s.modTile t (fun x => (x.setV (vVD w) r).setStat i a)) o.flags

/-! ### Moves (R124) -/

/-- VMOVS. -/
def vmovsWord (s : State) (t : Nat) (w : CWord) : WOut :=
  let x := s.tile t
  let n := laneBits (vType w)
  if 1 < vSub w then .fault s 1
  else if vType w = 3 then .fault s 2
  else if vSub w = 0 then .done (s.modTile t (fun x => x.setS (vSReg w) (lane (x.vreg (vVA w)) n (cwf w 52 5)))) 0
  else
    let (r, f) := mapLanes (x.vreg (vVD w)) n (x.vmask (vMask w)) (fun _ => (x.sreg (vSReg w) % 2 ^ n, 0))
    .done (s.modTile t (fun x => x.setV (vVD w) r)) f

/-! ### Dependencies (R121): what a word of unit 2 reads and writes; registers 0 to 31, masks 32 to 39, accumulators 40
to 43 -/

/-- Registers `r` to `r` + 7 with BLOCK, `r` alone without. -/
def vGroup (w : CWord) (r : Nat) : List Nat := if vBlock w then (List.range 8).map (· + r) else [r]

/-- What a vector word reads. -/
def vReads (w : CWord) : List Nat :=
  let m := 32 + vMask w
  let op := cwOp w
  if op = 0x20 then [m] else if op = 0x21 then [m, vVA w] else if op = 0x22 then [m, vVA w, vVB w, vVC w]
  else if op = 0x2A then [m, vVA w, vVB w, 32 + vMD w] else if op = 0x2B then [m, vVA w, 32 + vMD w]
  else if op = 0x2C then [m, vVA w] else if op = 0x2D then [m, vVB w] ++ vGroup w (vVA w)
  else if op = 0x2E then [m, vVA w, 40 + vMD w % 4] else if op = 0x2F then [m, 40 + vMD w % 4]
  else if op = 0x30 then (if vSub w = 0 then [vVA w] else [m]) else [m, vVA w, vVB w]

/-- What a vector word writes. -/
def vWrites (w : CWord) : List Nat :=
  let op := cwOp w
  if op = 0x21 then [] else if op = 0x29 then [32 + vMD w] else if op = 0x2D then vGroup w (vVD w)
  else if op = 0x2E then [40 + vMD w % 4] else if op = 0x2F then [vVD w, 40 + vMD w % 4]
  else if op = 0x30 then (if vSub w = 0 then [] else [vVD w]) else [vVD w]

end Sys2Proof.Machine
end

