-- ==== Sys2Proof/Machine/Bbf.lean ====
section
/-! DEFINITION. The bonded block format (R110 to R116) and the squared norms of R324. -/

namespace Sys2Proof.Machine

/-- R111: the bias of a layout. -/
def bbfBias (narrow : Bool) : Int := if narrow then 142 else 150

/-- R112: bits of one contribution's mantissas: they lie from −2^n to 2^n − 1. -/
def bbfTop (narrow : Bool) : Nat := if narrow then 15 else 23

/-- R110: bytes of a block, and bits of a stored mantissa. -/
def bbfBytes (narrow : Bool) : Nat := if narrow then 120 else 152
def bbfWidth (narrow : Bool) : Nat := if narrow then 28 else 36

/-- R112: a finite value on the grid of exponent `e`, before saturation, and whether nothing was lost. -/
def bbfRound (narrow : Bool) (e : Nat) : Val → Int × Bool
  | .fin neg m x =>
    let k := x + bbfBias narrow - e
    let (n, exact_) := if 0 ≤ k then (m * 2 ^ k.toNat, true) else roundShift .rne m (-k).toNat
    (if neg then -(n : Int) else n, exact_)
  | _ => (0, true)

/-- R112 item 3: the value fits at exponent `e`. -/
def bbfFits (narrow : Bool) (e : Nat) (v : Val) : Bool :=
  let n := (bbfRound narrow e v).1
  decide (-(2 ^ bbfTop narrow : Int) ≤ n) && decide (n < (2 ^ bbfTop narrow : Int))

/-- R112 items 2 to 4: the smallest exponent at which one value fits; 255 where it fits at none. A value of leading
bit 2^t fits at t + 129 and does not fit below t + 127. -/
def bbfLocal1 (narrow : Bool) (v : Val) : Nat :=
  if v.isZero then 0
  else
    let low := max 1 (v.topExp + 127).toNat
    match ((List.range 4).map (· + low)).find? (fun e => bbfFits narrow e v) with
    | some e => min e 255
    | none => 255

/-- R112: bytes 0 and 1 of the header that a contributor gives a block: exponent, and POISON in bit 0, NONFIN in bit 1,
NARROW in bit 2. -/
def bbfHead (narrow : Bool) (vs : List (Val × Bool)) : Nat × Nat :=
  if vs.any (fun v => !v.1.isFin) then (0, 3 + 4 * b2n narrow)
  else (vs.foldl (fun e v => max e (bbfLocal1 narrow v.1)) 0, b2n (vs.any (·.2)) + 4 * b2n narrow)

/-- R113: headers combine by maximum and OR. -/
def bbfJoin (a b : Nat × Nat) : Nat × Nat := (max a.1 b.1, a.2 ||| b.2)

/-- R112, R113: a contributor's mantissas at an exponent, with the flags that rounding raises. -/
def bbfEncode (narrow : Bool) (e : Nat) (vs : List (Val × Bool)) : List Int × Nat :=
  if e = 0 || vs.any (fun v => !v.1.isFin) then (vs.map (fun _ => 0), 0)
  else
    let rs := vs.map (fun v =>
      let (n, exact_) := bbfRound narrow e v.1
      let lim : Int := 2 ^ bbfTop narrow - 1
      (min n lim, (if exact_ then 0 else flagNX) ||| (if lim < n then flagSAT else 0)))
    (rs.map (·.1), rs.foldl (fun g r => g ||| r.2) 0)

/-- Two lists of mantissas added. -/
def addInts (a b : List Int) : List Int := List.zipWith (· + ·) a b

/-- R115: a block decoded, with the flags that rounding raises. -/
def bbfDecode (narrow : Bool) (f : Fmt) (p : Nat) (head : Nat × Nat) (ms : List Int) : List Nat × Nat :=
  if bitAt head.2 0 then (ms.map (fun _ => f.nan), 0)
  else
    let rs := ms.map (fun m => if m = 0 then (0, 0) else
      f.encode Conv.plain .rne (Val.ofScaled m ((head.1 : Int) - bbfBias narrow - p)))
    (rs.map (·.1), rs.foldl (fun g r => g ||| r.2) 0)

/-- R110: the bytes of a block. -/
def bbfPack (narrow : Bool) (head : Nat × Nat) (count block : Nat) (ms : List Int) : List Byte :=
  let w := bbfWidth narrow
  leBytes 1 head.1 ++ leBytes 1 (head.2 % 4 + 4 * b2n narrow) ++ leBytes 2 count ++ leBytes 4 block ++
    leBytes (4 * w) (ms.foldr (fun m r => unsignedOf w m + 2 ^ w * r) 0)

/-- The count and the mantissas of a packed block. -/
def bbfUnpack (narrow : Bool) (bs : List Byte) : Nat × List Int :=
  let w := bbfWidth narrow
  let v := fld bs 8 (4 * w)
  (fld bs 2 2, (List.range 32).map (fun i => signed w (v / 2 ^ (w * i) % 2 ^ w)))

/-! ### Squared norms (R324) -/

/-- The sum of squares of one block, scaled by 2^(2(E − 150 − p)) and converted once to FP32, with its flags. -/
def bbfSquare (p : Nat) (e : Nat) (ms : List Int) : Word × Nat :=
  let n : Int := ms.foldl (fun x m => x + m * m) 0
  if n = 0 then (0, 0) else toFp32 (Val.ofScaled n (2 * ((e : Int) - 150 - p)), 0)

/-- R324, R130: the squares of blocks, in order, added with the compensated addition, with the flags of all. -/
def sumSquares (sq : List (Word × Nat)) : Word × Nat :=
  let t := sq.foldl (fun (a : (Word × Word) × Nat) v =>
    let (p, f) := compAdd a.1 v.1
    (p, a.2 ||| v.2 ||| f)) (((0, 0) : Word × Word), 0)
  fWord (t.1.1, t.2) (fun x => fAdd x t.1.2)

/-- Values added in order with one rounding each, with the flags of all. -/
def sumWords (l : List Word) : Word × Nat := l.foldl (fun a v => fWord a (fun x => fAdd x v)) (0, 0)

end Sys2Proof.Machine
end

