-- ==== Sys2Proof/Machine/Store.lean ====
section
/-! DEFINITION. Retained-store requests (R426, R427), repair records and notices (R465), which several units make. -/

namespace Sys2Proof.Machine

/-! ### Records waiting for the KRT -/

/-- Sections of R426. -/
def secSpeed : Nat := 2
def secPointing : Nat := 3
def secConfig : Nat := 4
def secSecurity : Nat := 5
def secBinding : Nat := 6
def secLifetime : Nat := 7

/-- A record joins the queue of the KRT; `data` holds key and value pairs of its section, 8 bytes each. -/
def storePut (s : State) (sec : Nat) (data : List (Nat × Nat)) : State :=
  { s with trust := { s.trust with queue := s.trust.queue ++
    [{ section_ := sec, data := data, bytes := 64 + 8 * data.length }] } }

/-- R402, R413: an entry of the tile speed map as TILE_SPEED holds it, its DERATED bit above the rate. -/
def speedWord (rate : Nat) (derated : Bool) : Nat := rate % 65536 + 65536 * b2n derated
def speedOf (v : Nat) : Nat × Bool := (v % 65536, v / 65536 % 2 == 1)

/-- R465: keys of the pointing map: kind (0 tile, 1 channel, 2 lane, 3 kiln engine, 4 flash die, 5 spare of a fibre) and
number. -/
def pointKey (kind id : Nat) : Nat := kind * 2 ^ 20 + id

/-- A change of the pointing map. -/
def pointPut (s : State) (kind id v : Nat) : State := storePut s secPointing [(pointKey kind id, v)]

/-- The state and lane map of a channel as POINTING holds them. -/
def Chan.point (c : Chan) : Nat :=
  (match c.state with | .untrained => 0 | .active => 1 | .degraded => 2 | .training => 3 | .fenced => 4 | .spalled => 5) +
    8 * c.spare0 + 512 * c.spare1

def pointChan (s : State) (ch : Nat) : State := pointPut s 1 ch (s.chan ch).point

/-! ### Datagrams to the management peer -/

/-- A datagram in the management session; nothing without one. -/
def mgmtSend (s : State) (bs : List Byte) : State :=
  if s.mgmt.up then { s with mgmt := { s.mgmt with sent := s.mgmt.sent ++ [bs] } } else s

/-- R455: a response or a notice. -/
def testFrame (type op status tag result rate ber doneAt : Nat) : List Byte :=
  leBytes 1 1 ++ leBytes 1 type ++ leBytes 1 op ++ leBytes 1 status ++ leBytes 4 tag ++ leBytes 4 result ++
    leBytes 2 rate ++ leBytes 1 ber ++ leBytes 1 0 ++ leBytes 8 doneAt ++ zeros 8

/-- R455: a test command ends; its response goes unless the CMC gave the command itself. -/
def testDone (s : State) (op kind id status result rate ber : Nat) : State :=
  match s.tests.find? (fun c => c.op == op && c.kind == kind && c.id == id) with
  | none => s
  | some c =>
    let s := { s with tests := s.tests.filter (fun (x : TestCmd) => x != c) }
    if c.auto then s else mgmtSend s (testFrame 0x71 op status c.tag result rate ber s.now)

/-- R465: the event record and the notice of a repair event; `owner` is the context of its record. -/
def repairEvent (s : State) (owner cause element op status result : Nat) : State :=
  mgmtSend (postEvent s owner 0 (eventRecord 0x25 cause 0 0 owner 0 0 element 0 s.now))
    (testFrame 0x72 op status 0 result 0 0 s.now)

/-- The context that owns a tile, or context 0. -/
def State.ownerOr0 (s : State) (t : Nat) : Nat := (s.ownerOf t).getD 0

end Sys2Proof.Machine
end

