-- ==== Sys2Proof/Machine/Channel.lean ====
section
/-! DEFINITION. Channels: codewords and their decoder (R181 to R187), the error log, re-trains (R188 to R191), patrol
scrub (R194), the request entries (R216, R217), fencing, margins and supply (R198, R199, R457, R461). -/

namespace Sys2Proof.Machine

/-! ### GF(2^8) and the decoder (R181, R184, R185, R187) -/

/-- Times α. -/
def gfX (a : Nat) : Nat := if 128 ≤ a then (2 * a) ^^^ 0x11D else 2 * a

/-- Product, `n` bits of `b` left. -/
def gfMulAux : Nat → Nat → Nat → Nat
  | 0, _, _ => 0
  | n + 1, a, b => (if b % 2 = 1 then a else 0) ^^^ gfMulAux n (gfX a) (b / 2)

def gfMul (a b : Nat) : Nat := gfMulAux 8 a b

def gfPow (a : Nat) : Nat → Nat
  | 0 => 1
  | n + 1 => gfMul a (gfPow a n)

/-- The inverse: a^254. -/
def gfInv (a : Nat) : Nat := gfPow a 254

/-- The locator of lane `i`: α^(35 - i). -/
def laneLoc (i : Nat) : Nat := gfPow 2 (35 - i)

/-- Symbol errors: lane and value. -/
abbrev ErrPat := List (Nat × Nat)

/-- Syndromes S0 to S3 of an error pattern. -/
def syndromes (e : ErrPat) : List Nat :=
  (List.range 4).map (fun j => e.foldl (fun v x => v ^^^ gfMul x.2 (gfPow (laneLoc x.1) j)) 0)

/-- The polynomial Π (x - X_b) for the lanes `ls`, lowest coefficient first. -/
def locPoly : List Nat → List Nat
  | [] => [1]
  | l :: r =>
    let p := locPoly r
    (0 :: p).mapIdx (fun i v => v ^^^ gfMul (laneLoc l) (p.getD i 0))

/-- The values on the lanes `ls`, at most four, whose syndromes are `sy`; none when there are none. -/
def solveOn (sy ls : List Nat) : Option ErrPat :=
  let vals := ls.map (fun a =>
    let others := ls.filter (· != a)
    let p := locPoly others
    let num := (p.mapIdx (fun i c => gfMul c (sy.getD i 0))).foldl (· ^^^ ·) 0
    let den := others.foldl (fun v b => gfMul v (laneLoc a ^^^ laneLoc b)) 1
    (a, gfMul num (gfInv den)))
  if syndromes vals = sy then some vals else none

/-- R187: the pattern of stored poison. -/
def poisonPattern : ErrPat := [(32, 0x5A), (33, 0xA5), (34, 0x5A), (35, 0xA5)]

/-- How a codeword decodes: corrected by a pattern, stored poison, or uncorrectable. -/
inductive Decoded where
  | corrected (e : ErrPat)
  | poison
  | bad
  deriving DecidableEq, Repr

/-- The first of some supports that explains the syndromes. -/
def firstSolve (sy : List Nat) (sup : List (List Nat)) : Option ErrPat := sup.findSome? (solveOn sy)

/-- The supports that the decoder tries: `era` erased lanes, and as many others as the check symbols pay for. -/
def supports (era : List Nat) (mode1 : Bool) : List (List Nat) :=
  let others := (List.range 36).filter (fun i => !era.contains i)
  let one := others.map (fun i => i :: era)
  let two := others.flatMap (fun i => (others.filter (fun j => decide (i < j))).map (fun j => [i, j]))
  if era.isEmpty then [[]] ++ one ++ (if mode1 then [] else two)
  else if era.length ≤ 2 then [era] ++ one
  else [era]

/-- R184, R185, R187: decodes the syndromes of a codeword, with the lanes `era` as erasures. -/
def decodeSyn (sy era : List Nat) (mode1 : Bool) : Decoded :=
  if sy = syndromes poisonPattern then .poison
  else if 4 < era.length then .bad
  else match firstSolve sy (supports era mode1) with
    | some e => .corrected (e.filter (fun x => x.2 != 0))
    | none => .bad

/-! ### Re-trains (R191) -/

def State.modChan (s : State) (ch : Nat) (g : Chan → Chan) : State := s.setChan ch (g (s.chan ch))

/-- R191: the CMC's timed request for a re-train. -/
def retrainSubmit (s : State) (ch : Nat) : State :=
  let (id, s) := admitReq s
    { id := 0, qkind := 5, ctx := 64, queue := ch, tag := 0, cplRing := 0, deadline := 1000000 + s.now,
      allow := s.marginNs, res := [(resChan ch, 224000)], broken := false }
  match id with
  | some id => s.modChan ch (fun c => { c with retrain := .submitted, retrainReq := some id })
  | none => s.modChan ch (fun c => { c with retrain := .refused, retrainReq := none, refusedAt := s.now })

/-- R191: a cause for a re-train: it runs at once on a fenced channel, joins one that is submitted, or is submitted. -/
def retrainCause (s : State) (ch : Nat) : State :=
  let c := s.chan ch
  if c.state = .spalled ∨ c.retrain ≠ .none then s
  else if c.state = .fenced then s.modChan ch (fun c => { c with retrain := .running })
  else retrainSubmit s ch

/-- A submitted re-train is dropped. -/
def retrainDrop (s : State) (ch : Nat) : State :=
  let s := match (s.chan ch).retrainReq with | some id => s.deliver id | none => s
  s.modChan ch (fun c => { c with retrain := .none, retrainReq := none })

/-! ### Counts and SUSPECT lanes (R185, R192) -/

/-- R185, R192: a lane becomes SUSPECT. -/
def becomeSuspect (s : State) (ch l : Nat) : State :=
  let s := s.modChan ch (fun c => { c with suspect := c.suspect ||| BitVec.twoPow 36 l })
  let s := if (suspectLanes (s.chan ch)).length = 4 then logErr s ch 3 0 else s
  if bitAt (s.reg 0x1703C 0) 2 then retrainCause s ch else s

/-- R192: one symbol changed on a lane. -/
def countLane (s : State) (ch l : Nat) : State :=
  let s := s.bump 0x17024 (ch * 64 + l) 1
  let n := tget 0 (s.chan ch).passCnt l + 1
  let s := s.modChan ch (fun c => { c with passCnt := tset n c.passCnt l })
  if s.regFld 0x1703C 0 8 16 ≤ n ∧ !(s.chan ch).suspect.getLsbD l then becomeSuspect s ch l else s

/-! ### Reading a codeword -/

/-- What a codeword read gives: its bytes, whether they carry the mark, and whether the decoder changed any. -/
structure CwOut where
  data : List Byte
  bad : Bool
  changed : Bool
  deriving DecidableEq, Repr

/-- XORs symbol errors into the 32 data bytes. -/
def applyErr (d : List Byte) (e : ErrPat) : List Byte :=
  e.foldl (fun d x => if x.1 < 32 then d.set x.1 (d.getD x.1 0 ^^^ BitVec.ofNat 8 x.2) else d) d

/-- R184 to R187: the controller reads codeword `cw` (device address / 32) with symbol errors `e` on the way. -/
def readCodeword (s : State) (ch cw : Nat) (e : ErrPat) : CwOut × State :=
  let all := e ++ (if s.poison.contains cw then poisonPattern else [])
  let raw := applyErr (s.mem.readBytes (32 * cw) 32) e
  match decodeSyn (syndromes all) (s.erased ch) (bitAt (s.reg 0x1703C 0) 0) with
  | .corrected p =>
    let s := if p.length = 1 then s.bump 0x17010 ch 1 else if 1 < p.length then s.bump 0x17014 ch 1 else s
    ({ data := applyErr raw p, bad := false, changed := !p.isEmpty }, p.foldl (fun s x => countLane s ch x.1) s)
  | .poison =>
    ({ data := raw, bad := true, changed := false }, logErr (s.bump 0x1701C ch 1) ch 2 (cw % 0x100000))
  | .bad =>
    ({ data := raw, bad := true, changed := false }, logErr (s.bump 0x17018 ch 1) ch 1 (cw % 0x100000))

/-- The symbol errors of codeword `i` of a line, from those of the line. -/
def errsOf (errs : List (Nat × Nat × Nat)) (i : Nat) : ErrPat :=
  (errs.filter (fun e => e.1 == i && decide (e.2.1 < 36))).map (fun e => (e.2.1, e.2.2 % 256))

/-! ### Requests in the mortar (R202, R204 to R206) -/

/-- A packet that waits at a router's local output: what it belongs to, the input it came by, its virtual channel, its
class and its flits. -/
structure Pkt where
  key : Nat
  input : Nat
  vc : Nat
  timed : Bool
  flits : Nat

/-- The input of a tile's router by which traffic of an end arrives: 0 to 3 opposite the output of the last link, 4 the
tile's own controller or hod, 5 an outward port. -/
def State.inputOf (s : State) (e t : Nat) : Nat :=
  match (s.path e t).getLast? with
  | some l => l.2
  | none => if e = t then 4 else 5

/-- R202: the virtual channel of a class (0 timed request, 1 bulk request, 2 timed response, 3 bulk response) on the
last leg to a tile. -/
def State.vcOf (s : State) (e t cls : Nat) : Nat := if 1 < (s.legs e t).length then cls + 4 else cls

/-- R205: the next input in round-robin order after `last` that has a packet; its oldest one. -/
def rrPick (last : Nat) (ps : List Pkt) : Option Pkt :=
  (List.range 6).findSome? (fun i => ps.find? (fun p => p.input == (last + 1 + i) % 6))

/-- R205: what the wait behind a timed packet of `n` flits gives a bulk virtual channel, one flit in 20 being its own:
the flits since its last one, and the flits sent of the packet at its head. -/
def owedAfter (w : Nat × Nat) (n : Nat) : Nat × Nat := ((w.1 + n) % 19, w.2 + (w.1 + n) / 19)

/-- R205: the packet that a router output passes next, of those that wait there, oldest first: timed ones before bulk
ones, but for a bulk virtual channel whose share of one flit in 20 has carried its packet; whole packets of the inputs
of a class in round-robin order. -/
def RouterOut.grant (o : RouterOut) (ps : List Pkt) : Option (Nat × RouterOut) :=
  let bulk := ps.filter (fun p => !p.timed)
  let heads := (bulk.map (·.vc)).eraseDups.filterMap (fun v => rrPick o.lastBulk (bulk.filter (fun p => p.vc == v)))
  let send := fun (p : Pkt) => some (p.key, { o with lastBulk := p.input, owed := tdel o.owed p.vc })
  match rrPick o.lastTimed (ps.filter (·.timed)) with
  | none => (rrPick o.lastBulk bulk).bind send
  | some t =>
    match heads.find? (fun p => decide (p.flits ≤ (owedAfter (tget (0, 0) o.owed p.vc) t.flits).2)) with
    | some p => send p
    | none => some (t.key, { o with
        lastTimed := t.input,
        owed := heads.foldl (fun w p => tset (owedAfter (tget (0, 0) w p.vc) t.flits) w p.vc) o.owed })

def State.router (s : State) (k : Nat) : RouterOut := tget RouterOut.reset s.mortar.routers k
def State.setRouter (s : State) (k : Nat) (o : RouterOut) : State :=
  { s with mortar := { s.mortar with routers := tset o s.mortar.routers k } }

/-- The request of a hod tag answers: done or failed, with data, from an end of the mortar. -/
def answerTag (s : State) (t tag : Nat) (failed : Bool) (data : List Byte) (bad : List Nat) (origin : Nat) : State :=
  let (k, s) := s.fresh
  let s := s.sendFlits origin t (flitsOf data.length)
  { s with tiles := s.tiles.map (fun x =>
    if x.1 = t then (x.1, { x.2 with hod := { x.2.hod with tags := x.2.hod.tags.map (fun (g : HTag) =>
      if g.tag = tag then { g with
        answered := true, arrival := k, origin := some origin, failed := g.failed || failed, data := data,
        poison := bad } else g) } })
    else x) }

/-! ### Request entries (R216, R217) -/

/-- R193, R457: a request that the channel will not serve completes with "address error". -/
def failEntry (ch : Nat) (s : State) (e : CEntry) : State := answerTag s e.tile e.tag true [] [] ch

/-- R216: an entry is open to the request: 48 at most hold bulk requests. -/
def entryOpen (s : State) (c : Chan) (e : CEntry) : Bool :=
  let timed := fun (x : CEntry) => s.rank x.treq == 0
  decide (c.entries.length < 64) && (timed e || decide ((c.entries.filter (fun x => !timed x)).length < 48)) &&
    !(c.fencing && !timed e)

/-- R202: the flits of a request. -/
def CEntry.flits (e : CEntry) : Nat := if e.write then flitsOf e.len else 1

/-- A request that waits at the controller's local port, as a packet. -/
def pktOf (s : State) (ch : Nat) (e : CEntry) : Pkt :=
  { key := e.id, input := s.inputOf e.tile ch, vc := e.vc, timed := s.rank e.treq == 0, flits := e.flits }

/-- R205, R216: requests that wait take entries open to them, `n` at most, in the order of the router's output. -/
def admitHeld : Nat → State → Nat → State
  | 0, s, _ => s
  | n + 1, s, ch =>
    let c := s.chan ch
    match (s.router (2 * ch)).grant ((c.held.filter (entryOpen s c)).map (pktOf s ch)) with
    | none => s
    | some (k, o) =>
      match c.held.find? (fun e => e.id == k) with
      | none => s
      | some e => admitHeld n ((s.setRouter (2 * ch) o).setChan ch { c with
          held := dropEq e c.held, entries := c.entries ++ [e],
          rota := if c.rota.contains e.tile then c.rota else c.rota ++ [e.tile] }) ch

/-- R206, R216, R457: a request reaches the controller. -/
def enterChan (s : State) (ch : Nat) (e : CEntry) : State :=
  let c := s.chan ch
  let s := s.sendFlits e.tile ch e.flits
  if !c.serves then failEntry ch s e
  else admitHeld (c.held.length + 1) (s.setChan ch { c with held := c.held ++ [e] }) ch

/-! ### Turns (R31, R48, R217) -/

/-- Patrol scrub and the channel's trowel as sources of R31; any other source is the tile whose hod asks. -/
def scrubSource : Nat := 0x10000
def trowelSource : Nat := 0x10001

/-- The entries that the turn under way may still serve: those of sources that it has not served, or all of them in a
new turn. -/
def Chan.turnEntries (c : Chan) : List CEntry :=
  let left := c.entries.filter (fun e => !c.turn.contains e.tile)
  if left.isEmpty then c.entries else left

/-- Where a source stands in the round-robin order. -/
def Chan.place (c : Chan) (src : Nat) : Nat := (c.rota.findIdx? (· == src)).getD c.rota.length

/-- R31, R48, R53, R217: one entry's line goes before another's in a turn: by rank, then admitted ones by deadline, then
sources in round-robin order, then the older one. -/
def lineBefore (s : State) (c : Chan) (a b : CEntry) : Bool :=
  s.before a.treq b.treq || !s.before b.treq a.treq && decide (c.place a.tile < c.place b.tile)

/-- R217: the entry whose line is next. -/
def nextLine (s : State) (c : Chan) : Option CEntry :=
  c.turnEntries.foldl (fun b e => match b with
    | none => some e
    | some x => if lineBefore s c e x then some e else some x) none

/-- R217: a source has its line: a new turn begins once every source that holds an entry has had one. -/
def Chan.served (c : Chan) (src : Nat) : Chan :=
  let old := if c.entries.any (fun e => !c.turn.contains e.tile) then c.turn else []
  { c with turn := old ++ [src], rota := c.rota.filter (· != src) ++ [src] }

/-- R217: the controller takes the next line of a request, if its turn has come. -/
def takeLine (s : State) (ch entry : Nat) : State :=
  let c := s.chan ch
  if c.service.isSome || !(c.state == .active || c.state == .degraded) then s
  else match nextLine s c with
    | some e => if e.id = entry then s.setChan ch { c.served e.tile with service := some entry } else s
    | none => s

/-- R31, R48: a source without entries may have a line now: the channel serves none, no admitted line of the turn waits,
and the source has had none in this turn. -/
def turnFree (s : State) (ch src : Nat) : Bool :=
  let c := s.chan ch
  c.service.isNone && !(c.turnEntries.any (fun e => s.rank e.treq == 0)) &&
    !(c.turn.contains src && c.entries.any (fun e => !c.turn.contains e.tile))

/-- R217: CHANNEL_REQUEST. -/
def execChannelRequest (ch entry : Nat) (s : State) : Host.Outcome State Fault Refusal := .next (takeLine s ch entry)

/-- The part of an entry that lies in its next line: address and length. -/
def CEntry.piece (e : CEntry) : Nat × Nat := (e.next, min (e.addr + e.len) (e.next / 128 * 128 + 128) - e.next)

/-- Reads the codewords of a piece: the bytes of it, and the marked codewords. -/
def readPiece (s : State) (ch a n : Nat) (errs : List (Nat × Nat × Nat)) : (List Byte × List Nat) × State :=
  (codewords a n).foldl (fun (acc : (List Byte × List Nat) × State) cw =>
    let (o, s) := readCodeword acc.2 ch cw (errsOf errs (cw % 4))
    let lo := max a (32 * cw)
    let hi := min (a + n) (32 * cw + 32)
    ((acc.1.1 ++ slice o.data (lo - 32 * cw) (hi - lo), if o.bad then acc.1.2 ++ [cw] else acc.1.2), s)) (([], []), s)

/-- R179, R187: writes a piece; a codeword covered in part is read and merged, and stays poisoned if it cannot be
read. -/
def writePiece (s : State) (ch a : Nat) (bs : List Byte) (bad : List Nat) (errs : List (Nat × Nat × Nat)) : State :=
  (codewords a bs.length).foldl (fun s cw =>
    let lo := max a (32 * cw)
    let hi := min (a + bs.length) (32 * cw + 32)
    if hi - lo = 32 then s.storeBrick lo (slice bs (lo - a) 32) bad
    else
      let (o, s) := readCodeword s ch cw (errsOf errs (cw % 4))
      let d := o.data.take (lo - 32 * cw) ++ slice bs (lo - a) (hi - lo) ++ o.data.drop (hi - 32 * cw)
      s.storeBrick (32 * cw) d (if o.bad || bad.contains cw then [cw] else [])) s

/-- R217: one line of the request in service is done; the request ends with its last line. -/
def lineDone (s : State) (ch : Nat) (errs : List (Nat × Nat × Nat)) : State :=
  let c := s.chan ch
  match c.service with
  | none => s
  | some id => match c.entries.find? (fun e => e.id == id) with
    | none => s.setChan ch { c with service := none }
    | some e =>
      let (a, n) := e.piece
      let ((d, bad), s) := if e.write then
          (([], []), writePiece s ch a (slice e.data (a - e.addr) n) e.poison errs)
        else readPiece s ch a n errs
      let e' := { e with next := a + n, data := if e.write then e.data else e.data ++ d,
                         poison := if e.write then e.poison else e.poison ++ bad }
      let s := s.modChan ch (fun c => { c with service := none })
      if e.addr + e.len ≤ a + n then
        (let s := s.modChan ch (fun c => { c with entries := dropEq e c.entries })
         admitHeld ((s.chan ch).held.length) (answerTag s e.tile e.tag false e'.data e'.poison ch) ch)
      else s.modChan ch (fun c => { c with entries := replaceEq e e' c.entries })

/-- R179, R184: CHANNEL_LINE_DONE. -/
def execChannelLineDone (ch : Nat) (errs : List (Nat × Nat × Nat)) (s : State) : Host.Outcome State Fault Refusal :=
  .next (lineDone s ch errs)

/-! ### Refresh and scrub (R194, R196) -/

/-- R177: the bank in which an address lies. -/
def bankOf (a : Nat) : Nat := a / 128 % 16

/-- The bank that the line in service keeps busy. -/
def Chan.busyBank (c : Chan) : Option Nat :=
  (c.entries.find? (fun e => some e.id == c.service)).map (fun e => bankOf e.next)

/-- R177, R196: REFRESH_DUE; a bank whose line is in service is busy until the line is done. -/
def execRefreshDue (ch bank : Nat) (s : State) : Host.Outcome State Fault Refusal :=
  .next (if (s.chan ch).state = .untrained ∨ (s.chan ch).state = .spalled ∨ 16 ≤ bank ∨
      (s.chan ch).busyBank = some bank then s
    else s.modChan ch (fun c => { c with refreshed := tset s.now c.refreshed bank }))

/-- R194: one codeword of the scrubbed line. -/
def scrubCodeword (errs : List (Nat × Nat × Nat)) (ch : Nat) (s : State) (cw : Nat) : State :=
  let (o, s) := readCodeword s ch cw (errsOf errs (cw % 4))
  if o.changed then s.storeBrick (32 * cw) o.data [] else s

/-- R194: every channel that is scrubbed has ended the pass. -/
def scrubAllDone (s : State) : Bool :=
  (List.range tileCount).all (fun c =>
    s.scrubDone.contains c || !((s.chan c).state == .active || (s.chan c).state == .degraded))

/-- R194: the channel's pass ends with its last line. -/
def scrubPassEnd (s : State) (ch : Nat) : State :=
  let s := (s.modChan ch (fun c => { c with scrubLine := 0, passCnt := [] }))
  let s := { s with scrubDone := if s.scrubDone.contains ch then s.scrubDone else s.scrubDone ++ [ch] }
  if scrubAllDone s then { s with scrubDone := [] }.setReg 0x17044 0 (s.reg 0x17044 0 + 1) else s

/-- R194: patrol scrub visits the next line of a channel. -/
def scrubVisit (s : State) (ch : Nat) (errs : List (Nat × Nat × Nat)) : State :=
  let c := s.chan ch
  if !(c.state == .active || c.state == .degraded) || s.regFld 0x17040 0 0 24 == 0 || !turnFree s ch scrubSource then s
  else
    let s := s.setChan ch (c.served scrubSource)
    let cw := 0x100000 * ch + 4 * c.scrubLine
    let s := (List.range 4).foldl (fun s i => scrubCodeword errs ch s (cw + i)) s
    if c.scrubLine + 1 = 0x40000 then scrubPassEnd s ch
    else s.modChan ch (fun x => { x with scrubLine := c.scrubLine + 1 })

/-- R194: SCRUB_LINE. -/
def execScrubLine (ch : Nat) (errs : List (Nat × Nat × Nat)) (s : State) : Host.Outcome State Fault Refusal :=
  .next (scrubVisit s ch errs)

/-! ### Training outcomes (R188, R189) -/

/-- R188 step 6: the spares after training, and the lanes left without a pin. -/
def placeLanes (c : Chan) (bad : List Nat) : (Nat × Nat) × List Nat :=
  let good0 := !bad.contains 36
  let good1 := !bad.contains 37
  let s0 := if good0 then c.spare0 else 63
  let s1 := if good1 then c.spare1 else 63
  let need := (List.range 36).filter (fun i => bad.contains i && i != s0 && i != s1)
  need.foldl (fun (acc : (Nat × Nat) × List Nat) i =>
    if good0 && acc.1.1 == 63 then ((i, acc.1.2), acc.2)
    else if good1 && acc.1.2 == 63 then ((acc.1.1, i), acc.2)
    else (acc.1, acc.2 ++ [i])) ((s0, s1), [])

/-- A set of lanes as bits. -/
def laneBitsOf (ls : List Nat) : BitVec 36 := ls.foldl (fun v i => v ||| BitVec.twoPow 36 i) 0

/-- R190, R193: the requests that the controller holds complete with "address error"; admitted ones among them are
broken where they have met data that can no longer be read. -/
def failWaiting (s : State) (ch : Nat) (breaks : Bool) : State :=
  let c := s.chan ch
  let s := s.setChan ch { c with entries := [], held := [], service := none, turn := [], rota := [] }
  let s := if breaks then
      ((c.entries ++ c.held).filterMap (·.treq)).eraseDups.foldl (fun s id => breakReq s id 2 0 (resChan ch)) s
    else s
  (c.entries ++ c.held).foldl (failEntry ch) s

/-- R193: the requests that hold entries were ordered first: `n` lines of them at most are served. -/
def serveEntries : Nat → State → Nat → State
  | 0, s, _ => s
  | n + 1, s, ch =>
    let c := s.chan ch
    let s := match c.service, nextLine s c with
      | none, some e => s.setChan ch { c.served e.tile with service := some e.id }
      | _, _ => s
    if (s.chan ch).service.isNone then s else serveEntries n (lineDone s ch []) ch

/-- R26: the channel becomes SPALLED; a test request that still waits to fence it ends as not fenced. -/
def dropChan (s : State) (ch : Nat) : State :=
  let s := (retrainDrop s ch).modChan ch (fun c => { c with
    state := .spalled, fencing := false, unfenceAfter := false, margin := none })
  testDone (pointChan s ch) 1 1 ch 2 0 0 0

/-- R193, R465: a SPALL command: requests ordered before it are served, those that still wait for an entry, or for a
training to end, complete with "address error"; the channel is spalled, with its record and notice. -/
def spallChan (s : State) (ch : Nat) : State :=
  let c := s.chan ch
  let s := if c.state = .active ∨ c.state = .degraded then
      serveEntries 320 (s.setChan ch { c with held := [] }) ch |>.modChan ch (fun x => { x with held := c.held })
    else s
  repairEvent (dropChan (failWaiting s ch false) ch) (s.ownerOr0 ch) 4 ch 4 0 0

/-- R189, R190, R465: a training leaves the channel SPALLED; the requests that waited have met data that can no longer be
read. -/
def trainSpall (s : State) (ch : Nat) : State :=
  repairEvent (dropChan (failWaiting s ch true) ch) (s.ownerOr0 ch) 4 ch 4 0 0

/-- R189, R461: a training that ran has ended. `c` holds what it found. -/
def trainEnd (s : State) (ch : Nat) (c : Chan) (lost : List Nat) : State :=
  let degraded := !lost.isEmpty
  let fenced := c.state == .fenced && !c.unfenceAfter
  let warn := degraded && c.state == .fenced && c.unfenceAfter
  let st := if fenced then ChState.fenced else if degraded then .degraded else .active
  let s := s.setChan ch { c with state := st, suspect := laneBitsOf lost, passCnt := [], retrain := .none,
                                 retrainReq := none, unfenceAfter := false }
  let s := if degraded then logErr s ch 3 0 else s
  pointChan (if warn then s.bump 0x1010 0 1 else s) ch

/-- R188 step 5: the pins whose passing window is narrower than MIN_EYE steps, strobe or reference; a pin that fails at
every setting has windows of 0. -/
def badPins (minEye : Nat) (r : PinSweep) : List Nat :=
  (List.range 38).filter (fun p => let w := r.pins.getD p (0, 0, 0, 0); decide (w.1 < minEye) || decide (w.2.2.2 < minEye))

/-- R188: the pins that carry a lane. -/
def placedPins (c : Chan) (lost : List Nat) : List Nat :=
  (List.range 36).filter (fun i => i != c.spare0 && i != c.spare1 && !lost.contains i) ++
    (if c.spare0 < 36 then [36] else []) ++ (if c.spare1 < 36 then [37] else [])

/-- R188: the centre of a passing window, rounding down. -/
def centre (lo hi n : Nat) : Nat := (lo + hi) / 2 % n

/-- R188 steps 2 to 6: what a training that found `r` leaves in the channel, and the lanes it could not place. -/
def trained (c : Chan) (minEye : Nat) (r : PinSweep) : Chan × List Nat :=
  let ((s0, s1), lost) := placeLanes c (badPins minEye r)
  let c := { c with spare0 := s0, spare1 := s1 }
  let eyes := (placedPins c lost).map (fun p => r.pins.getD p (0, 0, 0, 0))
  ({ c with stb := centre r.stbLo r.stbHi 64, vref := centre r.vrefLo r.vrefHi 64,
            dsk := (List.range 38).map (fun p => let w := r.pins.getD p (0, 0, 0, 0); centre w.2.1 w.2.2.1 16),
            eyeStb := eyes.foldl (fun k w => min k w.1) 63, eyeVref := eyes.foldl (fun k w => min k w.2.2.2) 63 }, lost)

/-- MIN_EYE of ECC_CTRL (R200). -/
def State.minEyeNow (s : State) : Nat := s.regFld 0x1703C 0 3 5

/-- R188, R189: RETRAIN_DONE. -/
def execRetrainDone (ch : Nat) (sweep : PinSweep) (readback : Bool) (s : State) : Host.Outcome State Fault Refusal :=
  .next (
    let c := s.chan ch
    if c.retrain ≠ .running then s
    else
      let s := match c.retrainReq with | some id => s.deliver id | none => s
      let (c, lost) := trained c s.minEyeNow sweep
      if 4 < lost.length ∨ !readback then
        trainSpall (s.setChan ch { c with retrain := .none, retrainReq := none }) ch
      else trainEnd s ch c lost)

/-- R191: RETRAIN_RESUBMIT, 1 ms after the refusal. -/
def execRetrainResubmit (ch : Nat) (s : State) : Host.Outcome State Fault Refusal :=
  .next (if (s.chan ch).retrain = .refused ∧ (s.chan ch).refusedAt + 1000000 ≤ s.now then retrainSubmit s ch else s)

/-- R48, R53, R191: no admitted request on the channel comes before the re-train. -/
def retrainTurn (s : State) (ch id : Nat) : Bool :=
  s.time.treqs.all (fun x => x.id == id || decide (tget 0 x.res (resChan ch) = 0) || !s.before (some x.id) (some id))

/-- R191: RETRAIN_START. -/
def execRetrainStart (ch : Nat) (s : State) : Host.Outcome State Fault Refusal :=
  .next (
    let c := s.chan ch
    match c.retrainReq with
    | none => s
    | some id =>
      if c.retrain = .submitted ∧ c.service = none ∧ retrainTurn s ch id = true then
        s.setChan ch { c with retrain := .running, state := if c.state = .fenced then .fenced else .training }
      else s)

/-! ### Fencing (R457, R461) -/

/-- R457 step 1. -/
def fenceChan (s : State) (ch : Nat) : State :=
  s.modChan ch (fun c => if c.state = .fenced then c else { c with fencing := true })

/-- R457 step 3: what the channel serves has ended. -/
def fenceDone (s : State) (ch : Nat) : State :=
  let c := s.chan ch
  if !c.fencing || !c.entries.isEmpty || c.service.isSome || c.state == .training ||
    s.time.treqs.any (fun r => r.qkind != 5 && thas r.res (resChan ch)) then s
  else
    let s := match c.retrainReq with | some id => s.deliver id | none => s
    let s := s.setChan ch { c with
      state := .fenced, fencing := false, selftestPassed := false, held := [], retrainReq := none,
      retrain := if c.retrain = .none then .none else .running }
    testDone (pointChan (c.held.foldl (failEntry ch) s) ch) 1 1 ch 0 0 0 0

/-- R457: CHANNEL_FENCE_COMPLETE. -/
def execChannelFenceComplete (ch : Nat) (s : State) : Host.Outcome State Fault Refusal := .next (fenceDone s ch)

/-- The channel returns to service in the state its lanes give it. -/
def Chan.unfenced (c : Chan) : Chan := { c with state := if c.suspect = 0 then .active else .degraded }

/-- R461: CH_CMD UNFENCE of a fenced channel. -/
def unfenceChan (s : State) (ch : Nat) : State :=
  let c := s.chan ch
  if c.selftestPassed && !c.needArray && c.retrain == .none then pointChan (s.setChan ch c.unfenced) ch
  else s.setChan ch { c with unfenceAfter := true, retrain := .running }

/-! ### CH_CMD (R200) -/

/-- R191, R193, R198, R457, R461: a CH_CMD command of a master for its selected channel. -/
def chCmd (s : State) (master ch cmd : Nat) : State :=
  let c := s.chan ch
  let ignored := s.clampEvent 0x17034 master 2
  if cmd = 0 ∨ cmd = 7 then s
  else if c.state = .spalled then ignored
  else if cmd = 1 then retrainCause s ch
  else if cmd = 2 then fenceChan s ch
  else if cmd = 3 then (if c.state ≠ .fenced then ignored
    else if s.regFld 0x17050 (brickOf ch) 0 6 ≠ 0 then ignored else unfenceChan s ch)
  else if cmd = 4 then spallChan s ch
  else if c.state ≠ .fenced then ignored
  else s.setChan ch { c with margin := some (cmd - 5), marginValid := false }

/-- R198: MARGIN_DONE. -/
def execMarginDone (ch low high lane : Nat) (nonePassed : Bool) (s : State) : Host.Outcome State Fault Refusal :=
  .next (match (s.chan ch).margin with
    | none => s
    | some _ => s.modChan ch (fun c => { c with
        margin := none, marginLow := low % 64, marginHigh := high % 64, marginLane := lane % 64,
        marginValid := true, marginNone := nonePassed }))

/-! ### Supply (R199) -/

/-- The channels of a brick. -/
def brickChans (b : Nat) : List Nat := rectTiles (b % 4 * 40) (b / 4 * 40) 39 39

/-- R199: a write of SUPPLY_OFS, clamped. -/
def supplyWrite (s : State) (master b ofs : Nat) : State :=
  let chs := brickChans b
  if !chs.all (fun c => decide ((s.chan c).state = .fenced) || decide ((s.chan c).state = .spalled)) then
    (s.setReg 0x17050 b 0).clampEvent 0x17050 master 2
  else
    let old := s.regFld 0x17050 b 0 6
    let live := chs.filter (fun c => decide ((s.chan c).state = .fenced))
    let s := s.setReg 0x17050 b ofs
    if ofs ≠ 0 then
      live.foldl (fun s c => (s.modChan c (fun x => { x with selftestPassed := false })).undefine (0x2000000 * c) 0x2000000) s
    else if old ≠ 0 then live.foldl (fun s c => s.modChan c (fun x => { x with retrain := .running })) s
    else s

end Sys2Proof.Machine
end

