-- ==== Sys2Proof/Machine/Crypto.lean ====
section
/-! DEFINITION. Keccak: SHA3-256, SHA3-512 and KMAC256 (FIPS 202, SP 800-185), which R169, R394 and R415 to R435 name. -/

namespace Sys2Proof.Machine

/-- A 64-bit lane turned left by `n`. -/
def rotl64 (x n : Nat) : Nat := (x * 2 ^ n) % 2 ^ 64 + x / 2 ^ (64 - n)

/-- Rotations of ρ for lane x + 5y. -/
def rhoTable : List Nat :=
  [0, 1, 62, 28, 27, 36, 44, 6, 55, 20, 3, 10, 43, 25, 39, 41, 45, 15, 21, 8, 18, 2, 61, 56, 14]

/-- Constants of ι. -/
def iotaTable : List Nat :=
  [0x1, 0x8082, 0x800000000000808A, 0x8000000080008000, 0x808B, 0x80000001, 0x8000000080008081, 0x8000000000008009,
   0x8A, 0x88, 0x80008009, 0x8000000A, 0x8000808B, 0x800000000000008B, 0x8000000000008089, 0x8000000000008003,
   0x8000000000008002, 0x8000000000000080, 0x800A, 0x800000008000000A, 0x8000000080008081, 0x8000000000008080,
   0x80000001, 0x8000000080008008]

/-- θ. -/
def keccakTheta (a : List Nat) : List Nat :=
  let c := (List.range 5).map (fun x => (List.range 5).foldl (fun v y => v ^^^ a.getD (x + 5 * y) 0) 0)
  let d := (List.range 5).map (fun x => c.getD ((x + 4) % 5) 0 ^^^ rotl64 (c.getD ((x + 1) % 5) 0) 1)
  a.mapIdx (fun i v => v ^^^ d.getD (i % 5) 0)

/-- ρ and π: lane (X, Y) of the result comes from lane ((X + 3Y) mod 5, X). -/
def keccakRhoPi (a : List Nat) : List Nat :=
  (List.range 25).map (fun i =>
    let src := (i % 5 + 3 * (i / 5)) % 5 + 5 * (i % 5)
    rotl64 (a.getD src 0) (rhoTable.getD src 0))

/-- χ. -/
def keccakChi (b : List Nat) : List Nat :=
  (List.range 25).map (fun i =>
    let g := fun k => b.getD ((i % 5 + k) % 5 + 5 * (i / 5)) 0
    g 0 ^^^ ((2 ^ 64 - 1 - g 1) &&& g 2))

/-- One round. -/
def keccakRound (a : List Nat) (rc : Nat) : List Nat :=
  (keccakChi (keccakRhoPi (keccakTheta a))).mapIdx (fun i v => if i = 0 then v ^^^ rc else v)

/-- Keccak-f[1600]. -/
def keccakF (a : List Nat) : List Nat := iotaTable.foldl keccakRound a

/-- One block of `rate` bytes absorbed. -/
def keccakAbsorb (a : List Nat) (block : List Byte) : List Nat :=
  keccakF (a.mapIdx (fun i v => v ^^^ fld block (8 * i) 8))

/-- Absorbs `n` blocks of `rate` bytes. -/
def absorbBlocks : Nat → Nat → List Nat → List Byte → List Nat
  | 0, _, a, _ => a
  | n + 1, rate, a, bs => absorbBlocks n rate (keccakAbsorb a (bs.take rate)) (bs.drop rate)

/-- A message with its suffix bits and the padding. -/
def keccakPad (rate suffix : Nat) (m : List Byte) : List Byte :=
  let k := rate - m.length % rate
  m ++ (if k = 1 then [BitVec.ofNat 8 (suffix + 0x80)]
    else BitVec.ofNat 8 suffix :: zeros (k - 2) ++ [0x80])

/-- The sponge: at most `rate` bytes of output. -/
def sponge (rate suffix out : Nat) (m : List Byte) : List Byte :=
  let p := keccakPad rate suffix m
  ((absorbBlocks (p.length / rate) rate (List.replicate 25 0) p).flatMap (leBytes 8)).take out

def sha3_256 (m : List Byte) : List Byte := sponge 136 6 32 m
def sha3_512 (m : List Byte) : List Byte := sponge 72 6 64 m

/-- The big-endian bytes of a number below 2^24, without leading zeros. -/
def beShort (v : Nat) : List Byte :=
  if v < 256 then [BitVec.ofNat 8 v]
  else if v < 65536 then [BitVec.ofNat 8 (v / 256), BitVec.ofNat 8 v]
  else [BitVec.ofNat 8 (v / 65536), BitVec.ofNat 8 (v / 256), BitVec.ofNat 8 v]

def leftEncode (v : Nat) : List Byte := BitVec.ofNat 8 (beShort v).length :: beShort v
def rightEncode (v : Nat) : List Byte := beShort v ++ [BitVec.ofNat 8 (beShort v).length]
def encodeString (s : List Byte) : List Byte := leftEncode (8 * s.length) ++ s

/-- Padded with zeros to a multiple of `w`. -/
def bytepad (x : List Byte) (w : Nat) : List Byte :=
  let y := leftEncode w ++ x
  y ++ zeros ((w - y.length % w) % w)

/-- KMAC256 with `out` bytes of output (at most 136) and customisation string `custom`. -/
def kmac256 (key m custom : List Byte) (out : Nat) : List Byte :=
  sponge 136 4 out (bytepad (encodeString [0x4B, 0x4D, 0x41, 0x43] ++ encodeString custom) 136 ++
    bytepad (encodeString key) 136 ++ m ++ rightEncode (8 * out))

end Sys2Proof.Machine
end

