-- ==== Sys2Proof/Machine/Mail.lean ====
section
/-! DEFINITION. Mailbox channels (R382 to R387): sends, delivery, timers, and the words MBSEND and MBRECV. -/

namespace Sys2Proof.Machine

/-- R388: a write to a doorbell page in reset is discarded and counted. -/
def inDomain (s : State) (ctx : Nat) (k : State → State) : State :=
  if (s.ctx ctx).inReset then s.bump 0x1F02C 0 1 else k s

/-! ### The timer and the queue (R384, R386) -/

/-- R386: the timer of a channel runs. -/
def Mailbox.timed? (b : Mailbox) (rx : Nat) : Bool := (!b.queue.isEmpty && rx != 0) || decide (16 ≤ b.queue.length)

/-- The timer starts, runs on, or stops, as the channel now stands. -/
def mbClock (s : State) (c : Nat) : State :=
  let b := s.mbox c
  s.setMbox c { b with timerFrom := if b.timed? (s.rxState b.receiver) then some (b.timerFrom.getD s.now) else none }

/-- R48: every message of a timed channel that waits has become visible. -/
def mbVisible (s : State) (c : Nat) : State :=
  (s.time.treqs.filter (fun r => r.qkind == 4 && r.queue == c)).foldl (fun s r => s.deliver r.id) s

/-- R386: the receiver takes the oldest message: TIMEOUT clears and the timer restarts. -/
def mbTake (s : State) (c : Nat) : State :=
  let b := s.mbox c
  mbClock (s.setMbox c { b with queue := b.queue.drop 1, timeout := false, timerFrom := none }) c

/-- The completion ring of a host receiver can take both records, or the buffer of R365 can. -/
def mbRoom (s : State) (b : Mailbox) : Bool :=
  let x := s.ctx b.receiver
  (x.canTake b.cplRing && decide ((x.cring b.cplRing).head + 2 - (x.cring b.cplRing).db < 2 ^ (x.cring b.cplRing).log2)) ||
    decide (x.held.length + 2 ≤ 256)

/-- R384: the oldest message goes to its receiver, if the receiver takes it by itself. -/
def mbDeliver (s : State) (c : Nat) : State :=
  let b := s.mbox c
  match b.queue with
  | [] => s
  | m :: _ =>
    if s.rxState b.receiver ≠ 0 then s
    else if b.receiver < 0x40 then
      (if mbRoom s b then
        mbTake (mbVisible (postEvent (postEvent s b.receiver b.cplRing (m.take 32)) b.receiver b.cplRing (m.drop 32)) c) c
       else s)
    else if b.receiver = 0x80 then mbTake (mbVisible s c) c
    else if b.receiver = 0x82 then
      mbTake (mbVisible { s with mgmt := { s.mgmt with sent := s.mgmt.sent ++ [m] } } c) c
    else mbVisible s c

/-- Delivers up to `n` messages of a channel, then looks at its timer. -/
def mbPump : Nat → State → Nat → State
  | 0, s, c => mbClock s c
  | n + 1, s, c => mbPump n (mbDeliver s c) c

/-- The channels of a receiver deliver what they can. -/
def mbPumpAll (s : State) (ident : Nat) : State :=
  (s.mail.filter (fun x => x.2.valid && x.2.receiver == ident)).foldl (fun s x => mbPump 16 s x.1) s

/-! ### Sending (R383, R384) -/

/-- R383: the two records of a message. -/
def mbMessage (c sender seq deadline mver : Nat) (payload : List Byte) : List Byte :=
  leBytes 1 1 ++ leBytes 1 0x40 ++ leBytes 1 c ++ leBytes 1 sender ++ leBytes 4 seq ++ leBytes 8 deadline ++
    fit 16 payload ++ leBytes 1 1 ++ leBytes 1 0x41 ++ leBytes 1 c ++ leBytes 1 mver ++ fit 28 (payload.drop 16)

/-- How a send ended. -/
inductive MbOut where
  | sent | timeout | full | refused
  deriving DecidableEq, Repr

/-- R44: a message of a timed channel is presented. It has no request tag and no context of its own: its broken-promise
record names tag 0 and the context for which its sender acts (DESIGN CHOICE, log 99), on ring 0 (R366). -/
def mbAdmit (s : State) (c sender deadline : Nat) : Bool × State :=
  let b := s.mbox c
  if !b.timed then (true, s)
  else if s.rxState b.receiver ≠ 0 then (false, s.refuse)
  else
    let (id, s) := admitReq s
      { id := 0, qkind := 4, ctx := masterCtx sender, queue := c, tag := 0, cplRing := 0, deadline := deadline,
        allow := s.allowance 0 false false, res := [(resMail c, 1)], broken := false }
    (id.isSome, s)

/-- A message joins the queue of its channel. -/
def mbEnqueue (s : State) (c sender deadline mver : Nat) (payload : List Byte) : State :=
  let b := s.mbox c
  let m := mbMessage c sender b.seq (if b.timed then deadline else 0) mver payload
  mbPump 16 (s.setMbox c { b with queue := b.queue ++ [m], seq := (b.seq + 1) % 2 ^ 32 }) c

/-- A send by the channel's sender (R386). -/
def mbSendBy (s : State) (c sender deadline mver : Nat) (payload : List Byte) : MbOut × State :=
  let b := s.mbox c
  if b.timeout then (.timeout, s)
  else if 16 ≤ b.queue.length then (.full, s)
  else
    let (ok, s) := mbAdmit s c sender deadline
    if ok then (.sent, mbEnqueue s c sender deadline mver payload) else (.refused, s)

/-- The payload that function `fn` has written to MB_TX_DATA. -/
def mbStaged (s : State) (fn : Nat) : List Byte := (List.range 11).flatMap (fun i => leBytes 4 (s.reg (0x100100 + 4 * i) fn))

/-- R384, R386: a host send. -/
def mbHostSend (s : State) (fn v : Nat) : State :=
  let c := bits v 0 6
  let mver := bits v 8 8
  let b := s.mbox c
  if !b.valid || b.sender != fn || decide (b.mverMax < mver) then s.bump 0x1F06C 0 1
  else
    match mbSendBy s c fn (s.reg 0x100134 fn + 2 ^ 32 * s.reg 0x100138 fn) mver (mbStaged s fn) with
    | (.timeout, s) => s.bump 0x1F070 0 1
    | (.full, s) => (s.orReg (0x100148 + 4 * (c / 32)) fn (2 ^ (c % 32))).bump 0x1F070 0 1
    | (_, s) => s

/-- R384: MB_TX_SEND. -/
def execMbTxSend (fn : Nat) (value : Word) (s : State) : Host.Outcome State Fault Refusal :=
  .next (if (s.ctx fn).fnEn then inDomain s fn (fun s => mbHostSend s fn value.toNat) else s)

/-! ### The words of a tile (R387) -/

def mwChan (w : CWord) : Nat := cwf w 90 6
def mwAddr (x : Tile) (w : CWord) : Nat := x.byteAt (cwf w 78 12) (cwf w 70 4)
def mwDst (w : CWord) : Nat := cwf w 74 4

/-- R387: MBSEND. The result of a send that was neither made nor refused under R386 is a free value. -/
def mbsendWord (s : State) (t : Nat) (w : CWord) : WOut :=
  let x := s.tile t
  let c := mwChan w
  let b := s.mbox c
  let put := fun (s : State) (v : Nat) => s.modTile t (fun x => x.setS (mwDst w) v)
  let (n, s') := s.draw
  if !b.valid || b.sender != 0x40 + x.ctx then .fault (s.bump 0x1F06C 0 1) 0x17
  else if !x.fits (mwAddr x w) 44 then .fault s 3
  else
    let p := s.scratch t (mwAddr x w) 44
    if b.mverMax < fld p 0 1 then .done (put (s'.bump 0x1F06C 0 1) (Config.freeDWord n).toNat) 0
    else
      match mbSendBy s c (0x40 + x.ctx) (x.sreg (cwf w 66 4)) (fld p 0 1) p with
      | (.sent, s) => .done (put s 0) 0
      | (.timeout, s) => .done (put s 2) 0
      | (.full, s) => .wait s
      | (.refused, s) => .done (put s.draw.2 (Config.freeDWord s.draw.1).toNat) 0

/-- R387: MBRECV. -/
def mbrecvWord (s : State) (t : Nat) (w : CWord) : WOut :=
  let x := s.tile t
  let c := mwChan w
  let b := s.mbox c
  if !b.valid || b.receiver != 0x40 + x.ctx then .fault s 0x17
  else if !x.fits (mwAddr x w) 64 then .fault s 3
  else
    match b.queue with
    | [] => .done (s.modTile t (fun x => x.setS (mwDst w) 0)) 0
    | m :: _ => .done (mbTake ((s.setScratch t (mwAddr x w) m).modTile t (fun x => x.setS (mwDst w) 1)) c) 0

/-! ### Timers and receivers (R385, R386) -/

/-- R386: MB_TIMEOUT, in ns. -/
def State.mbTimeout (s : State) (c : Nat) : Nat := 1000 * s.reg 0x1F068 c

/-- R386: MB_TIMEOUT_EXPIRY. -/
def execMbTimeoutExpiry (chan : Nat) (s : State) : Host.Outcome State Fault Refusal :=
  .next (match (s.mbox chan).timerFrom with
    | some from_ => if from_ + s.mbTimeout chan ≤ s.now then s.setMbox chan { s.mbox chan with timeout := true } else s
    | none => s)

/-- R385: a host function sleeps or wakes, or the CMC restarts; what tiles, KRT and management peer do shows in their
launches and sessions. -/
def rxChange (s : State) (ident state : Nat) : State :=
  let s :=
    if ident < 0x40 then (if state < 2 then { s with trust := { s.trust with fnState := tset state s.trust.fnState ident } } else s)
    else if ident = 0x80 then
      (if state = 1 ∨ 3 < state ∨ s.trust.cmcFailed = true then s else { s with trust := { s.trust with cmcState := state } })
    else s
  mbPumpAll s ident

/-- R385: MB_RECEIVER_STATE_CHANGE. -/
def execMbReceiverStateChange (ident state : Nat) (s : State) : Host.Outcome State Fault Refusal :=
  .next (rxChange s ident state)

end Sys2Proof.Machine
end

