-- ==== Sys2Proof/Machine/Joints.lean ====
section
/-! DEFINITION. Joints (R377 to R381): the words of a tile, the waits and their release, joint signals. -/

namespace Sys2Proof.Machine

/-- The condition of a wait holds. -/
def Joint.ready (j : Joint) (n : JNeed) : Bool :=
  match n with
  | .ge v => decide (v ≤ j.value.toNat)
  | .order ticket _ => j.ticket.toNat == ticket

/-- A wait joins a joint's list. -/
def addWait (s : State) (j : Nat) (who : JWho) (n : JNeed) : State :=
  let x := s.joint j
  s.setJoint j { x with waits := x.waits ++ [(who, n)] }

/-! ### The words of R380; `j`, `v`, `d` are the fields JOINT, VAL_REG and DST_REG of the word -/

def jwJoint (w : CWord) : Nat := cwf w 82 14
def jwVal (w : CWord) : Nat := cwf w 78 4
def jwDst (w : CWord) : Nat := cwf w 74 4
def jwSeq (w : CWord) : Nat := cwf w 70 4
def jwRoute (w : CWord) : Nat := cwf w 58 12
def jwRJoint (w : CWord) : Nat := cwf w 44 14

/-- R378: a tile's operation on a joint that its context may use, or fault 0x17. -/
def withJoint (s : State) (t : Nat) (w : CWord) (k : Joint → WOut) : WOut :=
  if s.jointOk (s.tile t).ctx (jwJoint w) then k (s.joint (jwJoint w)) else .fault s 0x17

/-- R380: JADD. -/
def jaddWord (s : State) (t : Nat) (w : CWord) : WOut :=
  withJoint s t w fun j =>
    let n := (s.tile t).sreg (jwVal w)
    let s := s.modTile t (fun x => x.setS (jwDst w) j.value.toNat)
    .done (jointAdd s (jwJoint w) n 4) 0

/-- R380: JTRY. -/
def jtryWord (s : State) (t : Nat) (w : CWord) : WOut :=
  withJoint s t w fun j =>
    let n := (s.tile t).sreg (jwVal w)
    if n ≤ j.value.toNat then
      .done (contWatch ((s.setJointValue (jwJoint w) (j.value.toNat - n) none).modTile t (fun x => x.setS (jwDst w) 1))) 0
    else .done (s.modTile t (fun x => x.setS (jwDst w) 0)) 0

/-- R380: JTICKET. -/
def jticketWord (s : State) (t : Nat) (w : CWord) : WOut :=
  withJoint s t w fun j =>
    .done ((s.setJoint (jwJoint w) { j with ticket := j.ticket + 1 }).modTile t
      (fun x => x.setS (jwDst w) j.ticket.toNat)) 0

/-- R380: an ordered add whose ticket has come. -/
def orderedAdd (s : State) (j n : Nat) : State :=
  let x := s.joint j
  jointAdd (s.setJoint j { x with ticket := x.ticket + 1 }) j n 4

/-- R380: JORDER. -/
def jorderWord (s : State) (t : Nat) (w : CWord) : WOut :=
  withJoint s t w fun j =>
    let x := s.tile t
    if j.ticket.toNat = x.sreg (jwSeq w) then .done (orderedAdd s (jwJoint w) (x.sreg (jwVal w))) 0
    else .wait (addWait s (jwJoint w) (.tile t) (.order (x.sreg (jwSeq w)) (x.sreg (jwVal w))))

/-- R380: JARRIVE. -/
def jarriveWord (s : State) (t : Nat) (w : CWord) : WOut :=
  withJoint s t w fun j =>
    let v := (s.tile t).sreg (jwVal w)
    let own := (j.value + 1).toNat
    let s := (jointAdd s (jwJoint w) 1 4).modTile t (fun x => x.setS (jwDst w) own)
    if v ≤ own then .done s 0 else .wait (addWait s (jwJoint w) (.tile t) (.ge v))

/-- R380: JREAD. -/
def jreadWord (s : State) (t : Nat) (w : CWord) : WOut :=
  withJoint s t w fun j => .done (s.modTile t (fun x => x.setS (jwDst w) j.value.toNat)) 0

/-! ### Joint signals (R381) -/

/-- R381: the joint-signal message. -/
def signalMsg (s : State) (ctx tag rjoint n : Nat) : List Byte :=
  msgHeader 5 0 ctx tag rjoint 8 s.coord ++ leBytes 8 n

/-- R352: the entry that a signal takes: a stand-in replaces the entry of a port code. -/
def State.signalEntry (s : State) (e : Nat) : Nat := if e < 8 then s.portEntry e else e

/-- R381: the event record of a signal that failed on its way. -/
def signalFailed (s : State) (i : Issued) : State :=
  postEvent s i.ctx 0 (eventRecord 0x24 0 0 0 i.ctx 0 i.tag (i.entry + 65536 * i.rjoint) 0 s.now)

/-- Sends a joint signal and keeps what a notice about it needs. -/
def sendSignal (s : State) (ctx entry rjoint n tag cls : Nat) : Sent × State :=
  let (r, s) := sendOn s (s.signalEntry entry) cls (signalMsg s ctx tag rjoint n) ctx tag
  let i : Issued := { tag := tag, ctx := ctx, entry := entry, rjoint := rjoint, engine := none, ofs := 0 }
  (r, if r = .sent then { s with links := { s.links with issued := dropEq i s.links.issued ++ [i] } } else s)

/-- R380, R381: JSIGNAL; a failure of its route gives the event record. -/
def jsignalWord (s : State) (t : Nat) (w : CWord) : WOut :=
  let x := s.tile t
  let (r, s) := sendSignal s x.ctx (jwRoute w) (jwRJoint w) (x.sreg (jwVal w)) (65536 * t) 1
  if r = .sent then .done s 0
  else .done (signalFailed s { tag := 65536 * t, ctx := x.ctx, entry := jwRoute w, rjoint := jwRJoint w,
                               engine := none, ofs := 0 }) 0

/-! ### Release (R379) -/

/-- A wait that holds ends: the tile's word or the descriptor is done. -/
def releaseWait (s : State) (j : Nat) (who : JWho) (n : JNeed) : State :=
  let s := match n with | .ge _ => s | .order _ add => orderedAdd s j add
  match who with
  | .tile t => s.modTile t (fun x => x.finish 6 0)
  | .desc ctx ring abs => finishDesc s ctx ring abs 0 0

/-- R379: the oldest wait of a joint whose condition holds is released. -/
def releaseOldest (s : State) (j : Nat) : State :=
  let x := s.joint j
  match x.waits.find? (fun w => x.ready w.2) with
  | none => s
  | some w => releaseWait (s.setJoint j { x with waits := dropFirst (fun y => x.ready y.2) x.waits }) j w.1 w.2

/-- R379: JOINT_WAIT_RELEASE. -/
def execJointWaitRelease (joint : Nat) (s : State) : Host.Outcome State Fault Refusal := .next (releaseOldest s joint)

/-! ### Messages (R381) -/

/-- R381: a joint signal arrives: it adds, or it is rejected with a notice. -/
def takeSignal (s : State) (port : Nat) (m : RxMsg) : State :=
  let s := s.consume port m
  let j := msgAddr m.bytes % 2 ^ 14
  let x := s.joint j
  if x.valid && x.remoteOk then jointAdd s j (fld m.bytes 32 8) (port / 2)
  else noticeFor (s.bump 0x1F058 0 1) m 1

/-- R381: JOINT_SIGNAL_MSG. -/
def execJointSignalMsg (port : Nat) (s : State) : Host.Outcome State Fault Refusal :=
  .next (match s.inMsg port (fun m => msgOp m.bytes == 5) with
    | some m => takeSignal s port m
    | none => s)

/-! ### Descriptors (R374) -/

/-- The next descriptor of the ring, if it is a joint operation `op`. -/
def nextJointDesc (s : State) (ctx q op : Nat) : Option Desc :=
  (s.nextOf ctx q 6).filter (fun d => fld d.bytes 16 1 == op)

def Desc.joint (d : Desc) : Nat := fldBits d.bytes 18 2 0 14
def Desc.value (d : Desc) : Nat := fld d.bytes 24 8
def Desc.resultAddr (d : Desc) : Nat := fld d.bytes 32 6

/-- R374, R378: a joint operation runs if the context may use the joint. -/
def jointDesc (s : State) (ctx q op : Nat) (k : State → Desc → State) : State :=
  match nextJointDesc s ctx q op with
  | none => s
  | some d =>
    if s.jointOk ctx d.joint then k (s.startDesc ctx q d.abs) d else finishDesc s ctx q d.abs 7 0

/-- R374: ADD. -/
def execJointDescAdd (ctx ring : Nat) (s : State) : Host.Outcome State Fault Refusal :=
  .next (jointDesc s ctx ring 1 (fun s d => finishDesc (jointAdd s d.joint d.value 4) ctx ring d.abs 0 0))

/-- R374: SET. -/
def execJointDescSet (ctx ring : Nat) (s : State) : Host.Outcome State Fault Refusal :=
  .next (jointDesc s ctx ring 2 (fun s d =>
    finishDesc (contWatch (s.setJointValue d.joint d.value none)) ctx ring d.abs 0 0))

/-- R374: an 8-byte result goes to RESULT_ADDR, if there is one, and to DETAIL. -/
def jointResult (s : State) (ctx q : Nat) (d : Desc) (v : Nat) : State :=
  if d.resultAddr = 0 then finishDesc s ctx q d.abs 0 v
  else
    let (ok, s) := agentWriteAll s ctx d.resultAddr (leBytes 8 v) []
    finishDesc s ctx q d.abs (if ok then 0 else 2) v

/-- R374: READ. -/
def execJointDescRead (ctx ring : Nat) (s : State) : Host.Outcome State Fault Refusal :=
  .next (jointDesc s ctx ring 3 (fun s d => jointResult s ctx ring d (s.joint d.joint).value.toNat))

/-- R374: WAITGE, which a timed ring rejects. -/
def waitgeDesc (s : State) (ctx q : Nat) (d : Desc) : State :=
  if ((s.ctx ctx).ring q).timed then finishDesc s ctx q d.abs 1 0
  else if d.value ≤ (s.joint d.joint).value.toNat then finishDesc s ctx q d.abs 0 0
  else addWait (s.modDesc ctx q d.abs (fun d => { d with phase := .waiting })) d.joint (.desc ctx q d.abs) (.ge d.value)

/-- R374: WAITGE. -/
def execJointDescWaitge (ctx ring : Nat) (s : State) : Host.Outcome State Fault Refusal :=
  .next (jointDesc s ctx ring 4 (fun s d => waitgeDesc s ctx ring d))

/-- R374: TICKET. -/
def execJointDescTicket (ctx ring : Nat) (s : State) : Host.Outcome State Fault Refusal :=
  .next (jointDesc s ctx ring 5 (fun s d =>
    let j := s.joint d.joint
    jointResult (s.setJoint d.joint { j with ticket := j.ticket + 1 }) ctx ring d j.ticket.toNat))

/-- R374: SETTICKET. -/
def execJointDescSetticket (ctx ring : Nat) (s : State) : Host.Outcome State Fault Refusal :=
  .next (jointDesc s ctx ring 7 (fun s d =>
    let j := s.joint d.joint
    finishDesc (s.setJoint d.joint { j with ticket := BitVec.ofNat 64 d.value }) ctx ring d.abs 0 0))

/-- R381: a descriptor SIGNAL: DONE when the first port accepts the message, ADDRESS or LINK_LOSS at once. -/
def signalDesc (s : State) (ctx q : Nat) (d : Desc) : State :=
  let e := fldBits d.bytes 20 2 0 12
  let s := s.startDesc ctx q d.abs
  let (r, s) := sendSignal s ctx e (fldBits d.bytes 22 2 0 14) d.value d.tag (if d.treq.isSome then 0 else 1)
  finishDesc s ctx q d.abs (match r with | .sent => 0 | .invalid => 2 | .down => 6) 0

/-- R381: SIGNAL. -/
def execJointDescSignal (ctx ring : Nat) (s : State) : Host.Outcome State Fault Refusal :=
  .next (match nextJointDesc s ctx ring 6 with
    | some d => signalDesc s ctx ring d
    | none => s)

/-! ### Configuration (R377) -/

/-- R377: a write of JNT_CFG; a pending wait keeps the old configuration. -/
def jntCfg (s : State) (j v : Nat) (off master : Nat) : State :=
  let x := s.joint j
  if !x.waits.isEmpty then s.clampEvent off master 2
  else
    let valid := bitAt v 0
    let owner := bits v 1 6
    let y := { x with valid := valid, owner := owner, remoteOk := bitAt v 7 }
    s.setJoint j (if (valid && !x.valid) || owner != x.owner then { y with value := 0, ticket := 0 } else y)

end Sys2Proof.Machine
end

