-- ==== Sys2Proof/Machine/TileCache.lean ====
section
/-! DEFINITION. The tile cache (R221 to R225) and the split of the scratchpad banks (R81, R82). -/

namespace Sys2Proof.Machine

/-- R221: the line that holds an address. -/
def lineOf (a : Nat) : Nat := a / 128 * 128

/-- R221: the set of a line. -/
def setOf (a : Nat) : Nat := a / 128 % 16

/-- The line is present. -/
def Tile.line? (t : Tile) (a : Nat) : Option CLine := t.cache.find? (fun l => l.addr == lineOf a)

/-- Changes the line that holds an address; it becomes the most recently used. -/
def Tile.touch (t : Tile) (a : Nat) (g : CLine → CLine) : Tile :=
  { t with cacheClock := t.cacheClock + 1,
           cache := t.cache.map (fun l => if l.addr = lineOf a then { g l with lru := t.cacheClock } else l) }

/-- R222: a tagged line at count 0. -/
def CLine.exhausted (l : CLine) : Bool := l.tagged && l.count == 0

/-- The least recently used of some lines. -/
def lruOf (ls : List CLine) : Option CLine :=
  ls.foldl (fun b l => match b with | none => some l | some x => if l.lru < x.lru then some l else some x) none

/-- R222: the victim of a full set. -/
def victim (ls : List CLine) : Option CLine :=
  let ex := ls.filter CLine.exhausted
  let un := ls.filter (fun l => !l.tagged)
  let low := ls.foldl (fun k l => min k l.count) 256
  if !ex.isEmpty then lruOf ex else if !un.isEmpty then lruOf un else lruOf (ls.filter (fun l => l.count == low))

/-- A dirty line of tile `t` returns to the bricks. -/
def writeBack (s : State) (t ctx : Nat) (l : CLine) : State :=
  if !l.dirty then s
  else if s.brickOk l.addr then (s.sendFlits t (endOf l.addr) 4).storeBrick l.addr l.data l.poison
  else s.addrError ctx

/-- R371 item 1: every dirty line is written back and every line invalidated. -/
def flushCache (s : State) (t : Nat) : State :=
  let x := s.tile t
  (x.cache.foldl (fun s l => writeBack s t x.ctx l) s).modTile t (fun x => { x with cache := [] })

/-- R222: a line enters the cache; the victim of a full set is written back first. -/
def fillLine (s : State) (t : Nat) (l : CLine) : State :=
  let x := s.tile t
  let inSet := x.cache.filter (fun y => setOf y.addr == setOf l.addr)
  if x.split = 0 then s
  else
    let s := if inSet.length < 8 * x.split then s
      else match victim inSet with
        | none => s
        | some v =>
          let s := if v.exhausted then s.bump 0x13034 t 1 else s
          (writeBack s t x.ctx v).modTile t (fun x => { x with cache := x.cache.filter (fun y => y.addr != v.addr) })
    s.modTile t (fun x => { x with cacheClock := x.cacheClock + 1,
                                   cache := x.cache.filter (fun y => y.addr != l.addr) ++
                                     [{ l with lru := x.cacheClock }] })

/-- R222: a hit; the count of a tagged line falls, stopping at 0. -/
def hitLine (s : State) (t a : Nat) : State :=
  (s.bump 0x1302C t 1).modTile t (fun x => x.touch a (fun l => { l with count := l.count - 1 }))

/-- The part of [a, a + n) in each line: address and length. -/
def linePieces (a n : Nat) : List (Nat × Nat) :=
  if n = 0 then []
  else (List.range ((a + n - 1) / 128 - a / 128 + 1)).map (fun i =>
    let lo := max a (lineOf a + 128 * i)
    (lo, min (a + n) (lineOf a + 128 * i + 128) - lo))

/-- The whole line that holds an address, as the bricks hold it now. -/
def brickLine (s : State) (a reuse tensor : Nat) : CLine × State :=
  let (bad, s) := s.decodeClean (lineOf a) 128
  ({ addr := lineOf a, data := s.mem.readBytes (lineOf a) 128, poison := bad, dirty := false,
     tagged := decide (reuse ≠ 0), count := reuse, tensor := tensor, lru := 0 }, s)

/-- A read through the cache of bytes within one line, a hit or a fill; the codewords among them that carry the mark. -/
def cacheReadPiece (s : State) (t a n reuse tensor : Nat) : (List Byte × List Nat) × State :=
  let out := fun (l : CLine) => (slice l.data (a - l.addr) n, l.poison.filter (fun c => (codewords a n).contains c))
  match (s.tile t).line? a with
  | some l => (out l, hitLine s t a)
  | none =>
    let (l, s) := brickLine s a reuse tensor
    (out l, fillLine (s.bump 0x13030 t 1) t l)

/-- New bytes in a line from address `a`, with the codewords among them that carry the mark. -/
def CLine.put (l : CLine) (a : Nat) (d : List Byte) (bad : List Nat) : CLine :=
  let keep := l.poison.filter (fun c => !(decide (a ≤ 32 * c) && decide (32 * c + 32 ≤ a + d.length)))
  let data := l.data.take (a - l.addr) ++ d ++ l.data.drop (a - l.addr + d.length)
  { l with dirty := true, data := data, poison := keep ++ (codewords a d.length).filter (fun c => bad.contains c) }

/-- A write with CACHE set: it updates a line that is present, and goes to the bricks otherwise. -/
def cacheWrite (s : State) (t a : Nat) (bs : List Byte) (bad : List Nat) : State :=
  (linePieces a bs.length).foldl (fun s p =>
    let d := slice bs (p.1 - a) p.2
    match (s.tile t).line? p.1 with
    | none => s.storeBrick p.1 d bad
    | some _ => s.modTile t (fun x => x.touch p.1 (fun l => l.put p.1 d bad))) s

/-- R223: the lines of a byte range; an empty range has none. -/
def CLine.touches (l : CLine) (lo hi : Nat) : Bool :=
  decide (lo < hi) && decide (l.addr < hi) && decide (lo < l.addr + 128)

/-- R223, OP 3: the line is exhausted if it is of the tensor. -/
def CLine.exhaust (l : CLine) (tensor : Nat) : CLine :=
  if l.tensor = tensor then { l with tagged := true, count := 0 } else l

/-- R223: HODCMO's four actions. -/
def cacheMaintain (s : State) (t op lo hi tensor : Nat) : State :=
  let x := s.tile t
  let hit := fun (l : CLine) => l.touches lo hi
  if op = 3 then s.modTile t (fun x => { x with cache := x.cache.map (fun l => l.exhaust tensor) })
  else if op = 0 then
    ((x.cache.filter hit).foldl (fun s l => writeBack s t x.ctx l) s).modTile t
      (fun x => { x with cache := x.cache.map (fun l => if hit l then { l with dirty := false } else l) })
  else
    (if op = 2 then s else (x.cache.filter hit).foldl (fun s l => writeBack s t x.ctx l) s).modTile t
      (fun x => { x with cache := x.cache.filter (fun l => !hit l) })

/-- R82: the split changes: cache lines go, banks that join the scratchpad hold undefined bytes. Every line is written
back and invalidated when banks leave the cache; banks that join it bring invalid lines and leave the others. -/
def convertSplit (s : State) (t cache : Nat) : State :=
  let old := (s.tile t).split
  let s := if cache < old then flushCache s t else s
  let s := s.modTile t (fun x => { x with split := cache })
  if cache < old then s.undefine (scratchAddr t (98304 - 16384 * old)) (16384 * (old - cache)) else s

end Sys2Proof.Machine
end

