-- ==== Sys2Proof/Machine/Rings.lean ====
section
/-! DEFINITION. Doorbells, held records, launches, copies and fences (R361 to R376). -/

namespace Sys2Proof.Machine

/-! ### Doorbells (R362, R364) -/

/-- R359, R362, R438: the master reaches the doorbell page of a context. -/
def reachesPage (master ctx : Nat) : Bool :=
  master == 0 || master == ctx || master == 0x40 || master == 0x40 + ctx || decide (0x80 ≤ master)

/-- The absolute index nearest above `base` that a ring index names. -/
def ringIndex (base k v : Nat) : Nat := base + (v + 2 ^ k - base % 2 ^ k) % 2 ^ k

/-- The oldest entry of a submission ring that has not completed. -/
def SRing.oldest (r : SRing) : Nat :=
  match r.out.find? (fun d => decide (r.start ≤ d.abs)) with | some d => d.abs | none => r.head

/-- R364: the accepted doorbell: the new tail, and the order of the entries it covers. -/
def acceptDoor (s : State) (ctx q tail : Nat) : State :=
  let c := s.ctx ctx
  let r := c.ring q
  let doors := (tail, c.doorOrder) :: r.doors.filter (fun d => decide (d.1 < tail) && decide (r.head < d.1))
  (s.setRing ctx q { r with tail := tail, doors := doors }).setCtx ctx
    { (s.setRing ctx q { r with tail := tail, doors := doors }).ctx ctx with doorOrder := c.doorOrder + 1 }

/-- R362, R364: a write of SQ_DB. -/
def sqDoor (s : State) (master ctx q v : Nat) : State :=
  let r := (s.ctx ctx).ring q
  let bad := s.clampEvent (0x100000 + (0x1000 * ctx + 4 * q)) master 2
  if !(s.ctx ctx).live || !r.en then s
  else if 2 ^ r.log2 ≤ v then bad
  else
    let tail := ringIndex r.oldest r.log2 v
    if tail < r.head then bad else acceptDoor s ctx q tail

/-- R362: SQ_DOORBELL. -/
def execSqDoorbell (master ctx ring : Nat) (value : Word) (s : State) : Host.Outcome State Fault Refusal :=
  .next (if reachesPage master ctx then inDomain s ctx (fun s => sqDoor s master ctx ring (value.toNat % 65536)) else s)

/-- R364: a write of CQ_DB. -/
def cqDoor (s : State) (master ctx q v : Nat) : State :=
  let r := (s.ctx ctx).cring q
  let bad := s.clampEvent (0x100040 + (0x1000 * ctx + 4 * q)) master 2
  if !(s.ctx ctx).live || !r.en then s
  else if 2 ^ r.log2 ≤ v then bad
  else
    let db := ringIndex r.db r.log2 v
    if r.head < db then bad else mbPumpAll (s.setCRing ctx q { r with db := db }) ctx

/-- R362: CQ_DOORBELL. -/
def execCqDoorbell (master ctx ring : Nat) (value : Word) (s : State) : Host.Outcome State Fault Refusal :=
  .next (if reachesPage master ctx then inDomain s ctx (fun s => cqDoor s master ctx ring (value.toNat % 65536)) else s)

/-- R365: HELD_RECORD_WRITE. -/
def execHeldRecordWrite (ctx : Nat) (s : State) : Host.Outcome State Fault Refusal := .next (mbPumpAll (writeHeld s ctx) ctx)

/-- R361: a descriptor of a real-time ring that has not completed by its need-by time. -/
def ringMiss (s : State) (ctx q idx : Nat) : State :=
  let r := (s.ctx ctx).ring q
  match r.out.find? (fun d => d.abs % 2 ^ r.log2 == idx && !d.missed) with
  | none => s
  | some d =>
    if r.rtm && decide (d.deadline ≤ s.now) && (r.timed || d.deadline != 0) then
      missRecord (s.modDesc ctx q d.abs (fun d => { d with missed := true })) ctx d.cpl 0 q d.tag d.deadline 0xFFFFFF
    else s

/-- R361: RING_NEEDBY_MISS. -/
def execRingNeedbyMiss (ctx ring idx : Nat) (s : State) : Host.Outcome State Fault Refusal :=
  .next (ringMiss s ctx ring idx)

/-- R48: an admitted request of a ring is delivered: its ledger entries go and its record may be written. -/
def deliverRing (s : State) (r : TReq) : State :=
  let q := r.queue
  let ring := (s.ctx r.ctx).ring q
  match ring.out.head? with
  | none => s
  | some d =>
    if d.treq == some r.id && d.phase == .finished then
      (let adm := s.admCode r.id
       let s := (s.deliver r.id).modDesc r.ctx q d.abs (fun d => { d with treq := none, adm := adm })
       sweepRing (ring.out.length + 1) s r.ctx q)
    else s

/-- R48: TIMED_REQUEST_DELIVERED. The requests of hod streams, mailboxes and links are delivered where they finish. -/
def execTimedRequestDelivered (req : Nat) (s : State) : Host.Outcome State Fault Refusal :=
  .next (match s.treq? req with
    | some r => if r.qkind = 0 then deliverRing s r else s
    | none => s)

/-- R51, R52: uncorrectable data breaks the admitted request that reads it. -/
def breakForData (s : State) (treq : Option Nat) (res : Nat) : State :=
  match treq with | some id => breakReq s id 2 0 res | none => s

/-- R51, R471: the channels of poisoned codewords that an admitted request has read break it. -/
def breakForWords (s : State) (treq : Option Nat) (bad : List Nat) : State :=
  match bad with
  | cw :: _ => breakForData s treq (resChan (cw / 0x100000))
  | [] => s

/-! ### Launches (R370, R371) -/

def lX0 (b : List Byte) : Nat := fld b 16 1
def lY0 (b : List Byte) : Nat := fld b 17 1
def lWm1 (b : List Byte) : Nat := fld b 18 1
def lHm1 (b : List Byte) : Nat := fld b 19 1
def lImage (b : List Byte) : Nat := fld b 20 6
def lStart (b : List Byte) : Nat := fldBits b 26 3 0 20
def lCache (b : List Byte) : Nat := fldBits b 29 1 0 2
def lTableEn (b : List Byte) : Bool := fldBit b 29 2
def lTileOfs (b : List Byte) : Nat := fldBits b 32 4 0 25
def lPreOfs (b : List Byte) : Nat := fldBits b 36 4 0 25
def lPreLen (b : List Byte) : Nat := fld b 40 4
def lArg (b : List Byte) : Nat := fld b 44 6
def lAdpDir (b : List Byte) : Nat := fld b 50 6
def lSteps (b : List Byte) : Nat := fld b 56 6
def lTiles (b : List Byte) : List Nat := rectTiles (lX0 b) (lY0 b) (lWm1 b) (lHm1 b)

/-- R371, R456: a tile that a launch skips; a fence that waits for an earlier launch only comes before this one. -/
def Tile.skipped (t : Tile) : Bool := t.run == .spalled || t.run == .fenced || t.fencePending && t.run != .running

/-- R370: the limits of a launch descriptor. -/
def launchOk (c : Ctx) (b : List Byte) : Bool :=
  decide (c.x0 ≤ lX0 b) && decide (lX0 b + lWm1 b ≤ c.x0 + c.wm1) && decide (c.y0 ≤ lY0 b) &&
    decide (lY0 b + lHm1 b ≤ c.y0 + c.hm1) &&
    (!(lTableEn b || lAdpDir b != 0) || decide (lTileOfs b + 0x900 ≤ 0x2000000)) &&
    lTileOfs b % 32 == 0 && lPreOfs b % 32 == 0 && lPreLen b % 32 == 0 &&
    decide (lPreLen b ≤ 98304 - 16384 * lCache b)

/-- A running launch of the context holds a tile of the rectangle. -/
def launchBlocked (s : State) (ctx : Nat) (tiles : List Nat) : Bool :=
  s.launches.any (fun l => l.ctx == ctx && l.running && l.left.any (fun t => tiles.contains t))

/-- R371: the launch is taken and waits for its tiles. -/
def takeLaunch (s : State) (ctx q : Nat) (d : Desc) : State :=
  if s.launches.any (fun l => l.ctx == ctx && l.ring == q && l.abs == d.abs) then s
  else
    let (id, s) := s.fresh
    { s with launches := s.launches ++
      [{ id := id, ctx := ctx, ring := q, abs := d.abs, bytes := d.bytes, running := false, skipped := 0, faulted := 0,
         stopped := false, left := [] }] }

/-- R371: LAUNCH. -/
def execLaunch (ctx ring : Nat) (s : State) : Host.Outcome State Fault Refusal :=
  .next (match s.nextOf ctx ring 1 with
    | some d => takeLaunch s ctx ring d
    | none => s)

/-- The first byte of a tile's near channel. -/
def nearBase (t : Nat) : Nat := 0x2000000 * t

/-- R371 item 2: another context's launch held the scratchpad, or a test returned the tile (R461). -/
def Tile.foreign (x : Tile) (ctx : Nat) : Bool :=
  x.zeroNext || match x.lastCtx with | some c => c != ctx | none => false

/-- R371 item 3: the split, with undefined bytes in the banks that join a scratchpad that was not zeroed. -/
def launchSplit (s : State) (t cache : Nat) (zeroed : Bool) : State :=
  let old := (s.tile t).split
  let s := s.modTile t (fun x => { x with split := cache })
  if cache < old && !zeroed then s.undefine (scratchAddr t (98304 - 16384 * old)) (16384 * (old - cache)) else s

/-- R371 item 7: what a launch latches and sets in a tile. -/
def Tile.begin (x : Tile) (s : State) (l : Launch) (t image start targ : Nat) : Tile :=
  let b := l.bytes
  let x := { x with
    run := .running, stall := .none, ctx := l.ctx, launch := l.id, pc := start, image := image,
    tokens := List.replicate 16 0, cmdCache := [], units := List.replicate 8 UnitQ.reset, loops := [],
    vregs := [], vmasks := [], scanChain := none, redChain := none, sta := [], bank0 := [], bank1 := [],
    activeBank := false, gen := 0, store := [], dir := [],
    e4m3Ovf := (s.arithConv l.ctx).e4m3Ovf, e5m2Ovf := (s.arithConv l.ctx).e5m2Ovf,
    seed := BitVec.ofNat 64 (s.reg 0x14008 l.ctx + 2 ^ 32 * s.reg 0x1400C l.ctx), zeroNext := false,
    hod := { x.hod with streams := [] } }
  ((((x.setS 1 (lArg b)).setS 2 ((tileY t - lY0 b) * (lWm1 b + 1) + (tileX t - lX0 b))).setS 3 t).setS 4
    (lWm1 b + 1 + 65536 * (lHm1 b + 1))).setS 5 targ

/-- The admitted request of a launch. -/
def launchReq (s : State) (l : Launch) : Option Nat := (s.desc? l.ctx l.ring l.abs).bind (·.treq)

/-- Tile `t` reads for a context where `c` says so. -/
def readIf (c : Bool) (s : State) (ctx a n t : Nat) : RdOut × State :=
  if c then agentReadAll s ctx a n t else ({ ok := true, data := [], bad := [] }, s)

/-- R371: the adapter directory of the launch, as the snapshot of it was read, goes behind the tile's table entry. -/
def putAdapter (s : State) (l : Launch) (snap : Option (List Byte × Bool)) (t : Nat) : Bool × State :=
  if lAdpDir l.bytes = 0 then (true, s)
  else match snap with
    | none => (false, s)
    | some (d, bad) =>
      let a := nearBase t + lTileOfs l.bytes + 0x100
      agentWriteAll s l.ctx a d (if bad then codewords a 2048 else [])

/-- R371: one tile starts; `snap` is the adapter directory, none where its read failed. A read that fails stops the
tile with fault 0x16. -/
def startTile (l : Launch) (snap : Option (List Byte × Bool)) (s : State) (t : Nat) : State :=
  let b := l.bytes
  let zeroed := (s.tile t).foreign l.ctx
  let s := flushCache s t
  let s := launchSplit (if zeroed then s.zeroScratch t else s) t (lCache b) zeroed
  let (e, s) := readIf (lTableEn b) s l.ctx (nearBase t + lTileOfs b) 16 t
  let (adpOk, s) := putAdapter s l snap t
  let ((pOk, pBad, _), s) := agentMove s l.ctx (nearBase t + lPreOfs b) (scratchAddr t 0) (lPreLen b) t
  let image := if lTableEn b then fld e.data 0 6 else lImage b
  let start := if lTableEn b then fldBits e.data 6 3 0 20 else lStart b
  let targ := if lTableEn b then fld e.data 10 6 else 0
  let s := (s.modTile t (fun x => x.begin s l t image start targ)).endQueues
    (fun k => k.1 == 1 && k.2.2 / 16 == t)
  let s := breakForWords s (launchReq s l) (e.bad ++ pBad)
  if !e.ok || !e.bad.isEmpty || !adpOk || !pOk || !pBad.isEmpty then tileFault s t 0x16 start else s

/-- R371, R372: the launch starts on the tiles that are not skipped. -/
def startLaunch (s : State) (l : Launch) : State :=
  let all := lTiles l.bytes
  let tiles := all.filter (fun t => !(s.tile t).skipped)
  let l := { l with running := true, left := tiles, skipped := all.length - tiles.length }
  let s := { s with launches := s.launches.map (fun (x : Launch) => if x.id = l.id then l else x),
                    links := { s.links with startedCtx := true } }
  let s := s.startDesc l.ctx l.ring l.abs
  let (snap, s) := if lAdpDir l.bytes = 0 then (none, s)
    else
      let (d, s) := agentReadAll s l.ctx (lAdpDir l.bytes) 2048
      (if d.ok then some (d.data, !d.bad.isEmpty) else none, s)
  launchEnd (tiles.foldl (startTile l snap) s) l.id

/-- R48: another launch that waits for some of the tiles and could start now goes first. -/
def launchOutranked (s : State) (l : Launch) : Bool :=
  s.launches.any (fun e => !e.running && e.id != l.id && (lTiles e.bytes).any (fun t => (lTiles l.bytes).contains t) &&
    s.before (launchReq s e) (launchReq s l) && !launchBlocked s e.ctx (lTiles e.bytes))

/-- R371: LAUNCH_START; none starts once stage 5 is declared (R409). -/
def execLaunchStart (id : Nat) (s : State) : Host.Outcome State Fault Refusal :=
  .next (match s.launches.find? (fun l => l.id == id && !l.running) with
    | some l => if launchBlocked s l.ctx (lTiles l.bytes) || s.power.stage5 || launchOutranked s l then s else startLaunch s l
    | none => s)

/-! ### The pool of the KV page manager (R172) -/

def State.kvEn (s : State) : Bool := bitAt (s.reg 0x15000 0) 0
def State.kvPageBytes (s : State) : Nat := 2 ^ s.regFld 0x15000 0 1 5
def State.kvPages (s : State) : Nat := s.reg 0x15008 0
def State.kvBase (s : State) : Nat := 4096 * s.reg 0x15004 0 / s.kvPageBytes * s.kvPageBytes
def State.kvPageAddr (s : State) (p : Nat) : Nat := s.kvBase + p * s.kvPageBytes

/-- R172: [lo, hi) overlaps the pool of a manager that is enabled. -/
def State.overPool (s : State) (lo hi : Nat) : Bool :=
  s.kvEn && decide (lo < s.kvPageAddr s.kvPages) && decide (s.kvBase < hi)

/-- R172: a descriptor over the pool is counted against the epoch in which it is issued. -/
def kvUse (s : State) (inPool : Bool) : Option Nat × State :=
  if !inPool then (none, s)
  else
    let (id, s) := s.fresh
    (some id, { s with kv := { s.kv with users := tset s.kv.epoch.toNat s.kv.users id } })

/-- The count falls when the descriptor completes. -/
def kvDone (s : State) (user : Option Nat) : State :=
  match user with
  | none => s
  | some id => { s with kv := { s.kv with users := tdel s.kv.users id } }

/-! ### Copies (R373) -/

def cpSrc (b : List Byte) : Nat := fld b 16 6
def cpDst (b : List Byte) : Nat := fld b 22 6
def cpLen (b : List Byte) : Nat := fld b 28 8

/-- R248: bytes of a failed host read arrive as poisoned; the model gives them free values. -/
def freeBytes (s : State) (n : Nat) : List Byte × State :=
  let (g, s) := s.draw
  ((List.range n).map (fun i => Config.freeByte (g + 1) i), s)

/-- R247: a host read of an agent leaves the host port. -/
def State.askHost (s : State) (ctx a n : Nat) (who : HostWho) (treq : Option Nat) : State :=
  let (id, s) := s.fresh
  let r : HostRead := { tag := id, ctx := ctx, who := who, addr := a, len := n, sentAt := s.now, treq := treq,
                        abandoned := false }
  { s with hostReads := s.hostReads ++ [r] }

/-- R247: outstanding host reads of the module. -/
def hostTags : Nat := 2048

/-- Host tags free for a context: none once its reset has begun (R389). -/
def State.freeTags (s : State) (ctx : Nat) : Nat :=
  if (s.ctx ctx).inReset then 0 else hostTags - s.hostReads.length

/-- R373: the copy ends with its joint and its record. -/
def endCopy (s : State) (ctx q : Nat) (d : Desc) (ok bad : Bool) (n : Nat) : State :=
  let b := d.bytes
  let s := if fldBit b 36 0 then jointAddFor s ctx (fldBits b 38 2 0 14) 1 4 else s
  finishDesc s ctx q d.abs (if !ok then 2 else if bad then 3 else 0) n

/-- R373: a copy whose source is not host memory. -/
def runCopy (s : State) (ctx q : Nat) (d : Desc) : State :=
  let b := d.bytes
  let ((ok, bad, n), s) := agentMove (s.startDesc ctx q d.abs) ctx (cpSrc b) (cpDst b) (cpLen b)
  endCopy (breakForWords s d.treq bad) ctx q d ok (!bad.isEmpty) n

def CopyJob.isOf (j : CopyJob) (ctx q abs : Nat) : Bool := j.ctx == ctx && j.ring == q && j.abs == abs

/-- Changes the job of a copy. -/
def State.modCopy (s : State) (ctx q abs : Nat) (g : CopyJob → CopyJob) : State :=
  { s with copies := s.copies.map (fun j => if j.isOf ctx q abs then g j else j) }

/-- R24, R373: one more request of a copy from host memory: its read leaves, or it fails. -/
def askCopyPart (ctx q : Nat) (d : Desc) (s : State) (p : Nat × Nat) : State :=
  let a := cpSrc d.bytes + p.1
  let s := s.modCopy ctx q d.abs (fun j => { j with asked := j.asked + 1 })
  if s.reaches ctx a p.2 false then s.askHost ctx a p.2 (.copy ctx q d.abs p.1) d.treq
  else (s.addrError ctx).modCopy ctx q d.abs (fun j => { j with landed := j.landed + 1, ok := false })

/-- R247, R373: the copy asks for as many of its requests as host tags are free, and ends once all have landed. -/
def pumpCopy (s : State) (ctx q : Nat) (d : Desc) : State :=
  match s.copies.find? (fun j => j.isOf ctx q d.abs) with
  | none => s
  | some j =>
    let all := requests (cpSrc d.bytes) (cpDst d.bytes) (cpLen d.bytes)
    let s := ((all.drop j.asked).take (s.freeTags ctx)).foldl (askCopyPart ctx q d) s
    match s.copies.find? (fun j => j.isOf ctx q d.abs) with
    | some j =>
      if j.landed = all.length then
        endCopy (kvDone { s with copies := s.copies.filter (fun x => !x.isOf ctx q d.abs) } j.kvUser) ctx q d
          j.ok j.bad j.moved
      else s
    | none => s

/-- R248, R373: a host read of a copy has ended: its bytes go to the destination, as poisoned ones where it failed. -/
def landCopyPart (s : State) (ctx q abs off : Nat) (data : List Byte) (failed : Bool) : State :=
  match s.desc? ctx q abs with
  | none => s
  | some d =>
    let a := cpDst d.bytes + off
    let (ok, s) := agentWrite s ctx a data (if failed then codewords a data.length else [])
    let s := s.modCopy ctx q abs (fun j => { j with
      landed := j.landed + 1, ok := j.ok && ok, bad := j.bad || failed, moved := j.moved + (if ok then data.length else 0) })
    pumpCopy (if failed then breakForData s d.treq (resHost true) else s) ctx q d

/-- R48: among the descriptors that the same unit could start now, another ring's goes first. -/
def State.unitOutranked (s : State) (d : Desc) : Bool :=
  s.ctxs.any (fun c => c.2.sq.any (fun r => match s.nextOf c.1 r.1 d.type with
    | some e => s.before e.treq d.treq
    | none => false))

/-- R190: a copy waits while a channel of its source or destination is being trained. -/
def copyStalled (s : State) (b : List Byte) : Bool :=
  s.stalled (cpSrc b) (cpLen b) || (requests (cpDst b) (cpDst b) (cpLen b)).any (fun r => s.stalled (cpDst b + r.1) r.2 true)

/-- R373: a copy starts; one from host memory holds one of the four copy engines until its reads have landed, and counts
in the epoch of the KV pool if it writes there (R172). -/
def startCopy (s : State) (ctx q : Nat) (d : Desc) : State :=
  let b := d.bytes
  if copyStalled s b then s
  else if addrKind (cpSrc b) ≠ .host then runCopy s ctx q d
  else if 4 ≤ s.copies.length then s
  else
    let (u, s) := kvUse s (s.overPool (cpDst b) (cpDst b + cpLen b))
    let j : CopyJob := { ctx := ctx, ring := q, abs := d.abs, asked := 0, landed := 0, ok := true, bad := false, moved := 0,
                         kvUser := u }
    pumpCopy { s.startDesc ctx q d.abs with copies := s.copies ++ [j] } ctx q d

/-- R373: COPY. -/
def execCopy (ctx ring : Nat) (s : State) : Host.Outcome State Fault Refusal :=
  .next (match s.nextOf ctx ring 2 with
    | some d => if s.unitOutranked d then s else startCopy s ctx ring d
    | none => s)

/-! ### Fences (R375, R376) -/

def Desc.allRings (d : Desc) : Bool := fldBit d.bytes 16 0
def Desc.stop (d : Desc) : Bool := fldBit d.bytes 16 1

/-- R375: FENCE_DESC: the fence is taken and waits; DETAIL holds 1 while its STOP is still to come. -/
def execFenceDesc (ctx ring : Nat) (s : State) : Host.Outcome State Fault Refusal :=
  .next (match s.nextOf ctx ring 7 with
    | some d => s.modDesc ctx ring d.abs (fun d => { d with phase := .waiting, detail := b2n d.stop })
    | none => s)

/-- The oldest fence of a ring that waits. -/
def State.fence? (s : State) (ctx q : Nat) : Option Desc :=
  ((s.ctx ctx).ring q).out.find? (fun d => d.type == 7 && d.phase == .waiting)

/-- R376: the context's launches stop: the tiles of those that run, and those that wait to start. -/
def stopLaunches (s : State) (ctx : Nat) : State :=
  let waiting := s.launches.filter (fun l => l.ctx == ctx && !l.running)
  let s := { s with launches := s.launches.filter (fun l => !(l.ctx == ctx && !l.running)) }
  let s := waiting.foldl (fun s l => finishDesc s ctx l.ring l.abs 5 0) s
  let tiles := (s.launches.filter (fun l => l.ctx == ctx)).flatMap (fun l => l.left)
  tiles.foldl tileStop s

/-- R376: FENCE_STOP. -/
def execFenceStop (ctx ring : Nat) (s : State) : Host.Outcome State Fault Refusal :=
  .next (match s.fence? ctx ring with
    | some d => if d.detail = 1 then
        stopLaunches (s.modDesc ctx ring d.abs (fun d => { d with detail := 0 })) ctx else s
    | none => s)

/-- Some descriptor whose doorbell preceded order `o` has not completed, entries not yet read among them. -/
def ringPending (r : SRing) (o : Nat) : Bool :=
  r.out.any (fun d => decide (d.order < o)) || r.doors.any (fun d => decide (d.2 < o) && decide (r.head < d.1))

/-- R375: what the fence waits for has completed. -/
def fenceReady (s : State) (ctx q : Nat) (d : Desc) : Bool :=
  d.detail == 0 && !((s.ctx ctx).ring q).out.any (fun e => decide (e.abs < d.abs)) &&
    (!d.allRings || (List.range 16).all (fun i => i == q || !ringPending ((s.ctx ctx).ring i) d.order))

/-- R375: the fence's own effects. -/
def releaseFence (s : State) (ctx q : Nat) (d : Desc) : State :=
  let b := d.bytes
  let (ok, s) := if fldBit b 16 2 then agentWriteAll s ctx (fld b 32 6) (slice b 24 8) [] else (true, s)
  let s := if fldBit b 16 3 then jointAddFor s ctx (fldBits b 18 2 0 14) 1 4 else s
  finishDesc s ctx q d.abs (if ok then 0 else 2) 0

/-- R375: FENCE_DESC_RELEASE. -/
def execFenceDescRelease (ctx ring : Nat) (s : State) : Host.Outcome State Fault Refusal :=
  .next (match s.fence? ctx ring with
    | some d => if fenceReady s ctx ring d then releaseFence s ctx ring d else s
    | none => s)

end Sys2Proof.Machine
end

