-- ==== Sys2Proof/Machine/Kv.lean ====
section
/-! DEFINITION. The KV page manager (R168 to R175). -/

namespace Sys2Proof.Machine

/-! ### Commands (R173) -/

def KvCmd.op (c : KvCmd) : Nat := fld c.bytes 0 1
def KvCmd.flag (c : KvCmd) (i : Nat) : Bool := fldBit c.bytes 1 i
def KvCmd.field (c : KvCmd) : Nat := fldBits c.bytes 2 1 0 6
def KvCmd.lgrp (c : KvCmd) : Nat := fld c.bytes 3 1
def KvCmd.page (c : KvCmd) : Nat := fld c.bytes 4 4
def KvCmd.tokAddr (c : KvCmd) : Nat := fld c.bytes 8 6
def KvCmd.respAddr (c : KvCmd) : Nat := fld c.bytes 14 6
def KvCmd.joint (c : KvCmd) : Nat := fldBits c.bytes 20 2 0 14
def KvCmd.tag (c : KvCmd) : Nat := fld c.bytes 22 2

/-- What a response says: status, page, counts, key (R174). -/
structure KvResp where
  status : Nat
  page : Nat
  refs : Nat
  pins : Nat
  key : List Byte
  deriving DecidableEq, Repr

/-- A response that names no page. -/
def KvResp.fail (status : Nat) : KvResp := { status := status, page := 0xFFFFFFFF, refs := 0, pins := 0, key := zeros 16 }

/-- A response with a page's counts. -/
def KvResp.of (status page : Nat) (p : Page) (key : List Byte) : KvResp :=
  { status := status, page := page, refs := p.refs, pins := p.pins, key := key }

/-- R174: the 32 bytes of a response. -/
def KvResp.bytes (r : KvResp) (tag : Nat) : List Byte :=
  leBytes 1 1 ++ leBytes 1 r.status ++ leBytes 2 tag ++ leBytes 4 r.page ++ leBytes 4 r.refs ++ leBytes 4 r.pins ++
    fit 16 r.key

/-- R22: the end at which the manager's traffic meets the mortar. -/
def kvEnd : Nat := unitEnd 11

/-- R174: a failed command's response: of an OP that names a page (3 to 8), with the counts of that page if it is LIVE. -/
def kvFail (s : State) (c : KvCmd) (status : Nat) : KvResp :=
  if decide (3 ≤ c.op) && decide (c.page < s.kvPages) && (s.page c.page).st == .live then
    KvResp.of status 0xFFFFFFFF (s.page c.page) (zeros 16)
  else KvResp.fail status

/-- R174: the response, then the joint add. -/
def kvRespond (s : State) (c : KvCmd) (r : KvResp) : State :=
  let (ok, s) := agentWriteAll s c.ctx c.respAddr (r.bytes c.tag) [] kvEnd
  if ok && c.flag 3 then jointAddFor s c.ctx c.joint 1 4 else s

/-- R174, 0x0B: the response can be written. -/
def kvRespOk (s : State) (c : KvCmd) : Bool :=
  (requests c.respAddr c.respAddr 32).all (fun p => s.reaches c.ctx (c.respAddr + p.1) p.2 true)

/-- Runs a command: nothing but the address error when its response has nowhere to go. -/
def kvRun (s : State) (c : KvCmd) (k : State → KvResp × State) : State :=
  if !kvRespOk s c then s.addrError c.ctx
  else if c.field ≠ c.ctx then kvRespond s c (kvFail s c 8)
  else
    let (r, s) := k s
    kvRespond s c r

/-- A command on one page: in the pool, LIVE, and of the context. -/
def kvOnPage (c : KvCmd) (k : State → Page → KvResp × State) (s : State) : KvResp × State :=
  let p := s.page c.page
  if s.kvPages ≤ c.page ∨ p.st ≠ .live then (KvResp.fail 7, s)
  else if p.ctx ≠ c.ctx then (kvFail s c 8, s)
  else k s p

/-- R175: the metadata area holds 128 bytes of records for every page, whose form the manual does not give: where page
records change they are undefined (DESIGN CHOICE, log 102). -/
def State.undefineMeta (s : State) (first n : Nat) : State :=
  let a := 4096 * s.reg 0x1500C 0 + 128 * first
  if n = 0 ∨ brickTop < a + 128 * n then s else s.undefine a (128 * n)

/-- R175: a page's record changes. -/
def State.kvSetPage (s : State) (i : Nat) (p : Page) : State := (s.setPage i p).undefineMeta i 1

/-- R172: a page whose counts are both 0 retires; R171: a copy of it that runs has lost its page. -/
def State.putPage (s : State) (i : Nat) (p : Page) : State :=
  if p.refs = 0 && p.pins = 0 then
    (let s := s.kvSetPage i { p with st := .retiring, inDir := false, epoch := s.kv.epoch.toNat }
     { s with kv := { s.kv with copies := s.kv.copies.map (fun (k : KvCopy) =>
         if k.page = i then { k with gone := true } else k) } })
  else s.kvSetPage i (if p.refs = 0 then { p with inDir := false } else p)

/-- Writes a page and answers with its counts. -/
def kvStore (s : State) (c : KvCmd) (p : Page) : KvResp × State :=
  (KvResp.of 0 c.page p (zeros 16), s.putPage c.page p)

/-- PIN. -/
def kvPinOp (s : State) (c : KvCmd) (p : Page) : KvResp × State :=
  if 2 ^ 16 - 1 ≤ p.pins then (kvFail s c 0xC, s) else kvStore s c { p with pins := p.pins + 1 }

/-- UNPIN. -/
def kvUnpinOp (s : State) (c : KvCmd) (p : Page) : KvResp × State :=
  if p.pins = 0 then (kvFail s c 6, s) else kvStore s c { p with pins := p.pins - 1 }

/-- REF. -/
def kvRefOp (s : State) (c : KvCmd) (p : Page) : KvResp × State :=
  if 2 ^ 24 - 1 ≤ p.refs then (kvFail s c 0xC, s) else kvStore s c { p with refs := p.refs + 1 }

/-- UNREF. -/
def kvUnrefOp (s : State) (c : KvCmd) (p : Page) : KvResp × State :=
  if p.refs = 0 then (kvFail s c 6, s) else kvStore s c { p with refs := p.refs - 1 }

/-- The lowest-numbered FREE page that no copy has taken. -/
def State.freePage (s : State) : Option Nat :=
  (List.range (min s.kvPages (s.kv.pages.length + s.kv.copies.length + 1))).find? (fun i =>
    decide ((s.page i).st = .free) && !s.kv.copies.any (fun c => c.newPage == i))

/-- ALLOC. -/
def kvAllocOp (c : KvCmd) (s : State) : KvResp × State :=
  match s.freePage with
  | none => (KvResp.fail 4, s)
  | some i =>
    let p : Page := { Page.reset with st := .live, refs := 1, ring := c.flag 2, ctx := c.ctx, lgrp := c.lgrp }
    (KvResp.of 0 i p (zeros 16), s.kvSetPage i p)

/-- R169: the directory key of 528 bytes. -/
def kvKey (bs : List Byte) : List Byte := (sha3_256 bs).take 16

/-- R169: the page of a triple. -/
def State.kvFind (s : State) (ctx lgrp key : Nat) : Option (Nat × Page) :=
  s.kv.pages.find? (fun p => p.2.inDir && p.2.ctx == ctx && p.2.lgrp == lgrp && p.2.key == key)

/-- Reads the token block and goes on with its key. -/
def kvWithKey (c : KvCmd) (s : State) (k : State → List Byte → KvResp × State) : Option KvResp × State :=
  let (d, s) := agentReadAll s c.ctx c.tokAddr 528 kvEnd
  if !d.ok then (none, s)
  else if !d.bad.isEmpty then (some (kvFail s c 0xA), s)
  else
    let (r, s) := k s (kvKey d.data)
    (some r, s)

/-- LOOKUP. -/
def kvLookupOp (c : KvCmd) (s : State) (key : List Byte) : KvResp × State :=
  match s.kvFind c.ctx c.lgrp (leNat key) with
  | none => ({ KvResp.fail 1 with key := key }, s.bump 0x15020 0 1)
  | some (i, p) =>
    let q := { p with pins := p.pins + b2n (c.flag 0), refs := p.refs + b2n (c.flag 1) }
    if 2 ^ 16 ≤ q.pins ∨ 2 ^ 24 ≤ q.refs then (KvResp.of 0xC 0xFFFFFFFF p key, s.bump 0x1501C 0 1)
    else (KvResp.of 0 i q key, (s.bump 0x1501C 0 1).kvSetPage i q)

/-- PUBLISH; every answer carries the key (R174). The directory holds only pages with references: a page that only pins
hold is NOT_HELD (DEDUCED, log 102). -/
def kvPublishOp (c : KvCmd) (s : State) (key : List Byte) : KvResp × State :=
  let (r, s) := kvOnPage c (fun s p =>
    if p.ring then (kvFail s c 9, s)
    else match s.kvFind c.ctx c.lgrp (leNat key) with
      | some (i, q) => (KvResp.of 2 i q key, s)
      | none =>
        if p.refs = 0 then (kvFail s c 6, s)
        else
          let q := { p with published := true, inDir := true, lgrp := c.lgrp, key := leNat key }
          (KvResp.of 0 c.page q key, s.kvSetPage c.page q)) s
  ({ r with key := key }, s)

/-- A command that reads a token block. A block that cannot be reached ends it with no response. -/
def kvKeyed (s : State) (c : KvCmd) (k : State → List Byte → KvResp × State) : State :=
  if !kvRespOk s c then s.addrError c.ctx
  else if c.field ≠ c.ctx then kvRespond s c (kvFail s c 8)
  else match kvWithKey c s k with
    | (none, s) => s
    | (some r, s) => kvRespond s c r

/-- R171: WPREP; none where a copy starts, whose response comes later. -/
def kvWprepOp (s : State) (c : KvCmd) (p : Page) : Option KvResp × State :=
  if p.ring then
    (if 0 < p.pins then (some (KvResp.of 3 c.page p (zeros 16)), s.bump 0x1502C 0 1)
     else (some (KvResp.of 0 c.page p (zeros 16)), s))
  else if !p.published && p.refs == 1 && p.pins == 0 then (some (KvResp.of 0 c.page p (zeros 16)), s)
  else match s.freePage with
    | none => (some (kvFail s c 4), s)
    | some i => (none, { s with kv := { s.kv with copies :=
        s.kv.copies ++ [{ page := c.page, newPage := i, cmd := c, gone := false }] } })

/-- A WPREP command. -/
def kvWprepCmd (s : State) (c : KvCmd) : State :=
  let p := s.page c.page
  if !kvRespOk s c then s.addrError c.ctx
  else if c.field ≠ c.ctx then kvRespond s c (kvFail s c 8)
  else if s.kvPages ≤ c.page ∨ p.st ≠ .live then kvRespond s c (KvResp.fail 7)
  else if p.ctx ≠ c.ctx then kvRespond s c (kvFail s c 8)
  else match kvWprepOp s c p with
    | (none, s) => s
    | (some r, s) => kvRespond s c r

/-! ### The commands' processing -/

/-- R190: a command waits while a channel that it reads or answers to is being trained. -/
def kvStalled (s : State) (c : KvCmd) : Bool :=
  s.stalled c.respAddr 32 true || (c.op == 1 || c.op == 3) && s.stalled c.tokAddr 528

/-- The `n`-th accepted command, if it is of operation `op`, leaves the list and runs. -/
def kvTake (s : State) (n op : Nat) (k : State → KvCmd → State) : State :=
  match s.kv.accepted[n]? with
  | none => s
  | some c =>
    if c.op = op && !kvStalled s c then k { s with kv := { s.kv with accepted := s.kv.accepted.eraseIdx n } } c else s

/-- R170: KV_LOOKUP. -/
def execKvLookup (n : Nat) (s : State) : Host.Outcome State Fault Refusal :=
  .next (kvTake s n 1 (fun s c => kvKeyed s c (kvLookupOp c)))

/-- R170: KV_ALLOC. -/
def execKvAlloc (n : Nat) (s : State) : Host.Outcome State Fault Refusal :=
  .next (kvTake s n 2 (fun s c => kvRun s c (kvAllocOp c)))

/-- R170: KV_PUBLISH. -/
def execKvPublish (n : Nat) (s : State) : Host.Outcome State Fault Refusal :=
  .next (kvTake s n 3 (fun s c => kvKeyed s c (kvPublishOp c)))

/-- R170: KV_PIN. -/
def execKvPin (n : Nat) (s : State) : Host.Outcome State Fault Refusal :=
  .next (kvTake s n 4 (fun s c => kvRun s c (kvOnPage c (fun s p => kvPinOp s c p))))

/-- R170: KV_UNPIN. -/
def execKvUnpin (n : Nat) (s : State) : Host.Outcome State Fault Refusal :=
  .next (kvTake s n 5 (fun s c => kvRun s c (kvOnPage c (fun s p => kvUnpinOp s c p))))

/-- R170: KV_REF. -/
def execKvRef (n : Nat) (s : State) : Host.Outcome State Fault Refusal :=
  .next (kvTake s n 6 (fun s c => kvRun s c (kvOnPage c (fun s p => kvRefOp s c p))))

/-- R170: KV_UNREF. -/
def execKvUnref (n : Nat) (s : State) : Host.Outcome State Fault Refusal :=
  .next (kvTake s n 7 (fun s c => kvRun s c (kvOnPage c (fun s p => kvUnrefOp s c p))))

/-- R171: KV_WPREP. -/
def execKvWprep (n : Nat) (s : State) : Host.Outcome State Fault Refusal :=
  .next (kvTake s n 8 kvWprepCmd)

/-- R171: P is read and P′ is written: whether every codeword of P decoded, and the state with P′ filled. A channel that
serves neither read nor write leaves the copy as a read that is uncorrectable does (DESIGN CHOICE, log 102). -/
def kvMovePage (s : State) (src dst n : Nat) : Bool × State :=
  if !s.brickOk src || !s.brickOk dst then (false, s)
  else
    let s := (s.sendFlits kvEnd (endOf src) (ceilDiv n 512)).sendFlits (endOf src) kvEnd (flitsOf n)
    let (bad, s) := s.decodeClean src n
    if !bad.isEmpty then (false, s)
    else (true, (s.sendFlits kvEnd (endOf dst) (flitsOf n)).storeBrick dst (s.mem.readBytes src n) [])

/-- R171: the atomic action at the end of a copy. -/
def kvCopyEnd (s : State) (k : KvCopy) (ue : Bool) : State :=
  let s := { s with kv := { s.kv with copies := dropEq k s.kv.copies } }
  let (ok, s) := kvMovePage s (s.kvPageAddr k.page) (s.kvPageAddr k.newPage) s.kvPageBytes
  let p := s.page k.page
  if k.gone then kvRespond s k.cmd (KvResp.fail 6)
  else if ue || !ok then kvRespond s k.cmd (kvFail s k.cmd 0xA)
  else if p.refs = 0 then kvRespond s k.cmd (kvFail s k.cmd 6)
  else
    let q : Page := { Page.reset with st := .live, refs := 1, ctx := p.ctx, lgrp := p.lgrp }
    let s := (s.putPage k.page { p with refs := p.refs - 1 }).kvSetPage k.newPage q
    kvRespond (s.bump 0x15024 0 1) k.cmd (KvResp.of 0 k.newPage q (zeros 16))

/-- R190: the copy waits for a channel that is being trained. -/
def kvCopyStalled (s : State) (k : KvCopy) : Bool :=
  s.stalled k.cmd.respAddr 32 true || s.stalled (s.kvPageAddr k.page) s.kvPageBytes ||
    s.stalled (s.kvPageAddr k.newPage) s.kvPageBytes

/-- R171: KV_WPREP_COPY_DONE. -/
def execKvWprepCopyDone (page : Nat) (ue : Bool) (s : State) : Host.Outcome State Fault Refusal :=
  .next (match s.kv.copies.find? (fun k => k.page == page) with
    | some k => if kvCopyStalled s k then s else kvCopyEnd s k ue
    | none => s)

/-- R172: the epoch advances, and pages that retired two epochs ago are FREE. -/
def kvAdvance (s : State) : State :=
  let e := (s.kv.epoch + 1).toNat
  let back := s.kv.pages.filter (fun p => p.2.st == PageState.retiring && (p.2.epoch + 2) % 2 ^ 32 == e)
  let s := { s with kv := { s.kv with
      epoch := s.kv.epoch + 1, advancedAt := s.now,
      pages := s.kv.pages.filter (fun p => !(p.2.st == PageState.retiring && (p.2.epoch + 2) % 2 ^ 32 == e)) } }
  (back.foldl (fun (s : State) p => s.undefineMeta p.1 1) s).bump 0x15028 0 back.length

/-- R172: KV_EPOCH_ADVANCE. -/
def execKvEpochAdvance (s : State) : Host.Outcome State Fault Refusal :=
  .next (if s.kv.users.any (fun u => u.2 == (s.kv.epoch - 1).toNat) || decide (s.now < 10000 + s.kv.advancedAt) then s
    else kvAdvance s)

/-! ### The command window (R173) -/

/-- R175: a submitted command is accepted, or answered DISABLED. A reserved OP has no effect. -/
def kvSubmit (s : State) (master : Nat) (bs : List Byte) : State :=
  let c : KvCmd := { bytes := bs, ctx := masterCtx master }
  if !s.kvEn then (if kvRespOk s c then kvRespond s c (KvResp.fail 0xD) else s.addrError c.ctx)
  else if c.op = 0 ∨ 8 < c.op then s
  else { s with kv := { s.kv with accepted := s.kv.accepted ++ [c] } }

/-- R173: a discard, counted; a run it interrupts goes too. -/
def kvDiscard (s : State) (master : Nat) : State :=
  (s.setMaster master { s.master master with run := none }).bump 0x15030 0 1

/-- R173: a write that continues a run, or begins one. -/
def kvRunWrite (s : State) (master slot : Nat) (bs : List Byte) : State :=
  if bs.length < 32 then
    s.setMaster master { s.master master with run := some { slot := slot, bytes := bs, at_ := s.now } }
  else kvSubmit (s.setMaster master { s.master master with run := none }) master bs

/-- R173: a write to the command window. -/
def kvWindow (s : State) (master off : Nat) (data : List Byte) (full : Bool) : State :=
  let n := data.length
  if n = 32 && off % 32 = 0 && full then kvSubmit s master data
  else if !full || !(n == 4 || n == 8) || off % n != 0 then kvDiscard s master
  else match (s.master master).run with
    | none => if off % 32 = 0 then kvRunWrite s master (off / 32) data else kvDiscard s master
    | some r =>
      if off = 32 * r.slot + r.bytes.length then kvRunWrite s master r.slot (r.bytes ++ data) else kvDiscard s master

/-- R173: KV_CMD_WINDOW_WRITE; a device agent's write (R23) acts now. -/
def execKvCmdWindowWrite (master off : Nat) (data : List Byte) (full : Bool) (s : State) :
    Host.Outcome State Fault Refusal :=
  .next (if off < 4096 then
    kvWindow { s with regPosted := dropEq (master, 0x16000 + off, data) s.regPosted } master off data full else s)

/-- R173: KV_RUN_TIMEOUT. -/
def execKvRunTimeout (master : Nat) (s : State) : Host.Outcome State Fault Refusal :=
  .next (match (s.master master).run with
    | some r => if r.at_ + 10000 ≤ s.now then kvDiscard s master else s
    | none => s)

/-- R175: a write of KV_CTRL; setting EN makes every page FREE and empties the directory. -/
def kvCtrl (s : State) (v : Nat) : State :=
  if s.kvEn then s.setRegFld 0x15000 0 0 1 v
  else
    let s := s.setReg 0x15000 0 v
    if bitAt v 0 then
      { s with kv := { s.kv with
          pages := [], copies := s.kv.copies.map (fun (k : KvCopy) => { k with gone := true }) } }.undefineMeta 0 s.kvPages
    else s

end Sys2Proof.Machine
end

