-- ==== Sys2Proof/Machine/Hod.lean ====
section
/-! DEFINITION. The hod and gather engine (R208 to R220), weight relay and multicast (R226 to R228), HODCMO (R223), and
the scratchpad window (R25). -/

namespace Sys2Proof.Machine

/-! ### Descriptor fields (R210) -/

def hdVersion (b : List Byte) : Nat := fld b 0 1
def hdKind (b : List Byte) : Nat := fldBits b 1 1 0 3
def hdGenRel (b : List Byte) : Bool := fldBit b 1 3
def hdCache (b : List Byte) : Bool := fldBit b 1 4
def hdJointEn (b : List Byte) : Bool := fldBit b 1 5
def hdDir (b : List Byte) : Bool := fldBit b 1 6
def hdReuse (b : List Byte) : Nat := fld b 3 1
def hdTag (b : List Byte) : Nat := fld b 4 2
def hdTensor (b : List Byte) : Nat := fld b 6 2
def hdSrc (b : List Byte) : Nat := fld b 8 6
def hdDst (b : List Byte) : Nat := fld b 14 6
def hdExt (b : List Byte) : Nat := fld b 20 4
def hdLen (b : List Byte) : Nat := fld b 24 3
/-- A count of 0 reads as 1. -/
def hdCnt (b : List Byte) (o : Nat) : Nat := max 1 (fld b o 2)
def hdJoint (b : List Byte) : Nat := fldBits b 34 2 0 14
def hdStr (b : List Byte) (o : Nat) : Int := signed 32 (fld b o 4)
def hdIdxAddr (b : List Byte) : Nat := fld b 36 6
def hdIdxBytes (b : List Byte) : Nat := if fldBit b 42 0 then 4 else 2
/-- R221: reads of copies and gathers, and writes of copies and scatters, go through the cache with CACHE set. -/
def hdCacheRd (b : List Byte) : Bool := hdCache b && (hdKind b == 0 || hdKind b == 1)
def hdCacheWr (b : List Byte) : Bool := hdCache b && (hdKind b == 0 || hdKind b == 2)
/-- Gather or scatter; relay or multicast. -/
def hdRows (b : List Byte) : Bool := hdKind b == 1 || hdKind b == 2
def hdSpread (b : List Byte) : Bool := hdKind b == 4 || hdKind b == 5

/-- A 48-bit address moved by a signed offset. -/
def moveAddr (a : Nat) (d : Int) : Nat := unsignedOf 48 ((a : Int) + d)

/-- The dimensions of the pattern of a copy, a prefetch, a relay or a multicast: count, source stride, destination
stride; innermost first. A relay keeps CNT3 for its chain; the destination of a multicast, whose DSTR fields hold its
rectangle, is packed. -/
def hdDims (b : List Byte) : List (Nat × Int × Int) :=
  let n1 := hdCnt b 28
  let n2 := hdCnt b 30
  if hdKind b = 0 || hdKind b = 3 then
    [(n1, hdStr b 36, hdStr b 48), (n2, hdStr b 40, hdStr b 52), (hdCnt b 32, hdStr b 44, hdStr b 56)]
  else if hdKind b = 4 then [(n1, hdStr b 36, hdStr b 48), (n2, hdStr b 40, hdStr b 52)]
  else [(n1, hdStr b 36, hdLen b), (n2, hdStr b 40, hdLen b * n1),
    (hdCnt b 32, hdStr b 44, hdLen b * n1 * n2)]

/-- The offsets of the runs, in order: source, destination. -/
def runOffsets : List (Nat × Int × Int) → List (Int × Int)
  | [] => [(0, 0)]
  | (n, sa, da) :: r =>
    (runOffsets r).flatMap (fun o => (List.range n).map (fun (i : Nat) => (o.1 + (i : Int) * sa, o.2 + (i : Int) * da)))

/-- Least and greatest source offset of a run. -/
def runBounds (ds : List (Nat × Int × Int)) : Int × Int :=
  ds.foldl (fun (a : Int × Int) d => (a.1 + min 0 (((d.1 : Int) - 1) * d.2.1), a.2 + max 0 (((d.1 : Int) - 1) * d.2.1)))
    (0, 0)

/-- The tiles that follow a relay's tile (R226), none where the chain leaves the field. -/
def relayMembers (s : State) (b : List Byte) (t : Nat) : Option (List Nat) :=
  let n := fld b 32 2
  let course := if hdDir b then (List.range (tileX t)).map (fun i => t - 1 - i)
    else (List.range (159 - tileX t)).map (fun i => t + 1 + i)
  let live := course.filter (fun m => decide ((s.tile m).run ≠ .spalled))
  if n < 2 ∨ 160 < n ∨ live.length < n - 1 then none else some (live.take (n - 1))

/-- The tiles of a multicast (R227), none where its rectangle is wrong. -/
def multicastMembers (s : State) (b : List Byte) : Option (List Nat) :=
  let (x0, y0, x1, y1) := (fld b 48 2, fld b 50 2, fld b 52 2, fld b 54 2)
  if x1 < x0 ∨ y1 < y0 ∨ 159 < x1 ∨ 159 < y1 then none
  else some ((rectTiles x0 y0 (x1 - x0) (y1 - y0)).filter (fun m => decide ((s.tile m).run ≠ .spalled)))

/-- The members of a relay or multicast; none where R211 rejects the descriptor for them. -/
def hodMembers (s : State) (b : List Byte) (t : Nat) : Option (List Nat) :=
  if hdKind b = 4 then relayMembers s b t else if hdKind b = 5 then multicastMembers s b else some []

/-- R211: the descriptor is rejected. -/
def hodRejects (s : State) (b : List Byte) (t : Nat) : Bool :=
  let (lo, hi) := runBounds (hdDims b)
  hdVersion b != 1 || decide (5 < hdKind b) || hdLen b == 0 ||
    ((hdKind b == 0 || hdKind b == 4 || hdKind b == 5) && (decide (lo < 0) || decide ((hdExt b : Int) < hi + hdLen b))) ||
    (hodMembers s b t).isNone

/-! ### Requests (R212, R213) -/

/-- Cuts `len` bytes at multiples of `g` of `a` and `h` of `b`. -/
def cutAt : Nat → Nat → Nat → Nat → Nat → Nat → Nat → List (Nat × Nat)
  | 0, _, _, _, _, _, _ => []
  | fuel + 1, g, h, a, b, o, len =>
    if len = 0 then []
    else
      let n := min len (min (g - (a + o) % g) (h - (b + o) % h))
      (o, n) :: cutAt fuel g h a b (o + n) (len - n)

/-- The unit in which one end is cut: lines where the cache may take part, 512 B elsewhere. -/
def cutUnit (cache : Bool) (a : Nat) : Nat := if cache && addrKind a == .brick then 128 else 512

/-- The requests of one run; `cr` and `cw` say whether the cache takes part in the reads and in the writes. -/
def runReqs (id : Nat) (kind : HKind) (cr cw : Bool) (src dst len row : Nat) : List HReq :=
  let g := cutUnit cr src
  let h := cutUnit cw dst
  (cutAt (len / g + len / h + 4) g h src dst 0 len).map (fun p =>
    { desc := id, kind := kind, src := src + p.1, dst := dst + p.1, len := p.2, row := row })

/-- The zeros of a padding row. -/
def zeroReqs (id dst len row : Nat) : List HReq :=
  (cutAt (len / 512 + 4) 512 512 dst dst 0 len).map (fun p =>
    { desc := id, kind := .zero, src := dst + p.1, dst := dst + p.1, len := p.2, row := row })

/-- R213: the requests of a prefetched run: its lines, four to a request from the first one on, so that one may cross a
page boundary. -/
def fetchReqs (id src len : Nat) : List HReq :=
  let lo := lineOf src
  let n := lineOf (src + len - 1) + 128 - lo
  (List.range (ceilDiv n 512)).map (fun i =>
    { desc := id, kind := .prefetch, src := lo + 512 * i, dst := 0, len := min 512 (n - 512 * i), row := 0 })

/-- R226, R227: the requests of a relay or a multicast; their destinations are offsets in every member's scratchpad. -/
def spreadReqs (id : Nat) (b : List Byte) (ofs : Nat) : List HReq :=
  (runOffsets (hdDims b)).flatMap (fun o =>
    runReqs id .spread false false (moveAddr (hdSrc b + ofs) o.1) (moveAddr (hdDst b) o.2) (hdLen b) 0)

/-- The requests of a copy or a prefetch. -/
def descReqs (d : HDesc) : List HReq :=
  let b := d.bytes
  (runOffsets (hdDims b)).flatMap (fun o =>
    let src := moveAddr (hdSrc b + d.genOfs) o.1
    if hdKind b = 3 then fetchReqs d.id src (hdLen b)
    else runReqs d.id .copy (hdCacheRd b) (hdCacheWr b) src (moveAddr (hdDst b) o.2) (hdLen b) 0)

/-! ### Streams, descriptors and tags of a tile -/

def Hod.stream? (h : Hod) (n : Nat) : Option Stream := tfind? h.streams n
def State.modHod (s : State) (t : Nat) (g : Hod → Hod) : State := s.modTile t (fun x => { x with hod := g x.hod })
def State.modStream (s : State) (t n : Nat) (g : Stream → Stream) : State :=
  s.modHod t (fun h => match h.stream? n with
    | some x => { h with streams := tset (g x) h.streams n }
    | none => h)
def State.modHDesc (s : State) (t id : Nat) (g : HDesc → HDesc) : State :=
  s.modHod t (fun h => { h with descs := h.descs.map (fun d => if d.id = id then g d else d) })
def Hod.desc? (h : Hod) (id : Nat) : Option HDesc := h.descs.find? (fun d => d.id == id)

/-- The tag of R208 that records name. -/
def hodTag (t : Nat) (b : List Byte) : Nat := 65536 * t + hdTag b

/-! ### Command words (R209) -/

def hwStream (w : CWord) : Nat := cwf w 92 4

/-- R208: HODSTREAM. -/
def hodstreamWord (s : State) (t : Nat) (w : CWord) : WOut :=
  let n := hwStream w
  if ((s.tile t).hod.stream? n).isSome then .fault s 0x14
  else
    let x : Stream := { timed := cwb w 91, rt := cwb w 90, recv := cwb w 89, credits := 0, delivered := 0 }
    .done (s.modHod t (fun h => { h with streams := tset x h.streams n })) 0

/-- R209: HODRUN; the descriptor is copied out of the scratchpad. Its token is signalled at delivery. -/
def hodrunWord (pc : Nat) (s : State) (t : Nat) (w : CWord) : WOut :=
  let x := s.tile t
  match x.hod.stream? (hwStream w) with
  | none => .fault s 0x14
  | some st =>
    let a := x.byteAt (cwf w 80 12) (cwf w 76 4)
    if st.recv then .fault s 0x14
    else if !x.fits a 64 then .fault s 3
    else
      let (id, s) := s.fresh
      let d : HDesc := {
        id := id, stream := hwStream w, ctx := x.ctx, bytes := s.scratch t a 64, pc := pc,
        sig := (if cwSigEn w then some (cwSigTok w) else none), deadline := x.sreg (cwf w 72 4), timed := st.timed,
        adm := 0, treq := none, taken := false, genOfs := 0, waiting := [], issued := 0, rowNext := 0,
        idxAsked := 0, idxNext := 0, idxRest := [], idxBad := false, members := [], dropped := [], sent := false,
        landed := false, replay := false, status := 0, done := false, late := false, cancel := false, kvUser := none }
      .done (s.modHod t (fun h => { h with descs := h.descs ++ [d] })) 0

/-- R209: HODRECV. -/
def hodrecvWord (s : State) (t : Nat) (w : CWord) : WOut :=
  match (s.tile t).hod.stream? (hwStream w) with
  | none => .fault s 0x14
  | some st =>
    if !st.recv || decide (65535 < st.credits + cwf w 84 8) then .fault s 0x14
    else .done (s.modStream t (hwStream w) (fun x => { x with credits := x.credits + cwf w 84 8 })) 0

/-- Every earlier hod request of the tile has completed. -/
def Hod.idle (h : Hod) : Bool := h.tags.isEmpty && h.descs.all (fun d => d.done && d.waiting.isEmpty)

/-- R223: HODCMO. -/
def hodcmoWord (s : State) (t : Nat) (w : CWord) : WOut :=
  let x := s.tile t
  if !x.hod.idle then .wait s
  else
    let base := x.sreg (cwf w 90 4)
    .done (cacheMaintain s t (cwf w 94 2) base (base + x.sreg (cwf w 86 4)) (cwf w 70 16)) 0

/-! ### Delivery -/

/-- No request of the descriptor waits or is in flight. -/
def Hod.quiet (h : Hod) (d : HDesc) : Bool := d.waiting.isEmpty && !h.tags.any (fun g => g.req.desc == d.id)

/-- R213: the descriptor has nothing left to do; a prefetch once its last request is issued or dropped. -/
def Hod.complete (h : Hod) (d : HDesc) : Bool :=
  !d.done && (d.cancel || d.taken) && (if hdKind d.bytes = 3 then d.waiting.isEmpty else h.quiet d) &&
    (d.cancel || (!(hdRows d.bytes && decide (d.rowNext < hdCnt d.bytes 28)) && (!hdSpread d.bytes || d.landed)))

/-- The oldest undelivered descriptor of each stream that is complete: the next to be delivered (R208). -/
def Hod.nextDelivery (h : Hod) : Option HDesc :=
  h.descs.find? (fun d => h.complete d &&
    (h.descs.find? (fun e => e.stream == d.stream && !e.done)).map (·.id) == some d.id)

/-- R226, R227: a member counts the descriptor on its stream. -/
def countMember (stream : Nat) (s : State) (m : Nat) : State :=
  s.modStream m stream (fun x => { x with delivered := x.delivered + 1 })

/-- R226 to R228: the members of a relay, a multicast or a replay all of whose data has landed count it. -/
def countSpread (s : State) (t : Nat) (d : HDesc) : State :=
  if d.sent && !d.landed && !d.cancel && (s.tile t).hod.quiet d then
    d.members.foldl (countMember d.stream) (s.modHDesc t d.id (fun x => { x with landed := true }))
  else s

/-- R172, R228: a delivered descriptor goes once its requests in flight have completed and no member is still to be
replayed to; it then leaves the count of its KV epoch. -/
def sweepDesc (s : State) (t : Nat) (d : HDesc) : State :=
  let h := (s.tile t).hod
  if d.done && h.quiet d && d.dropped.isEmpty then
    (kvDone s d.kvUser).modHod t (fun h => { h with descs := h.descs.filter (fun e => e.id != d.id) })
  else s

/-- R208, R212, R230: a descriptor is delivered: its stream counts it, its joint is added to, its token signalled. A
refused one is not counted; one that a miss has marked late ends cancelled, is counted and adds to no joint (R56). -/
def deliverDesc (s : State) (t : Nat) (d : HDesc) : State :=
  let status := if d.late then 3 else d.status
  let s := match d.treq with | some id => s.deliver id | none => s
  let s := s.modHDesc t d.id (fun e => { e with done := true, treq := none })
  let s := if status = 4 then s else s.modStream t d.stream (fun x => { x with delivered := x.delivered + 1 })
  let s := if status = 2 then (s.orReg 0x13020 t 0x10000).modHod t (fun h => { h with lastStream := d.stream }) else s
  let s := if hdJointEn d.bytes && decide (status ≤ 2) then jointAddFor s d.ctx (hdJoint d.bytes) 1 4 else s
  let s := sweepDesc s t { d with done := true }
  match d.sig with
  | some k => signalToken s t k d.pc
  | none => s

/-- Delivers what can be delivered, `n` descriptors at most. -/
def hodSettleN : Nat → State → Nat → State
  | 0, s, _ => s
  | n + 1, s, t =>
    match (s.tile t).hod.nextDelivery with
    | none => s
    | some d => if (s.tile t).run ≠ .running then s else hodSettleN n (deliverDesc s t d) t

def hodSettle (s : State) (t : Nat) : State := hodSettleN ((s.tile t).hod.descs.length) s t

/-- A request of a descriptor has ended: members count it, what is complete is delivered, what is over goes. -/
def hodAfter (s : State) (t id : Nat) : State :=
  let s := match (s.tile t).hod.desc? id with | some d => countSpread s t d | none => s
  let s := hodSettle s t
  match (s.tile t).hod.desc? id with
  | some d => sweepDesc s t (if d.replay && d.landed then { d with done := true } else d)
  | none => s

/-- R24, R212: a request fails: it is counted, the descriptor completes with "address error" and the program stops at its
HODRUN. A descriptor whose program has ended stops no other. -/
def hodAddrError (s : State) (t : Nat) (d : HDesc) : State :=
  let s := ((s.addrError d.ctx).orReg 0x13020 t 0x20000).modHod t (fun h => { h with lastStream := d.stream })
  if d.done then
    hodAfter (s.modHDesc t d.id (fun x => { x with waiting := [], dropped := [], cancel := true })) t d.id
  else tileFault s t 0x13 d.pc

/-- R51, R212: data of a descriptor reads as poisoned: its status says so, and an admitted request is broken. -/
def hodPoison (s : State) (t : Nat) (d : HDesc) (host : Bool) (bad : List Nat) : State :=
  if bad.isEmpty then s
  else
    let s := if host then breakForData s d.treq (resHost true) else breakForWords s d.treq bad
    s.modHDesc t d.id (fun x => { x with status := 2 })

/-! ### Taking a descriptor (R211) -/

/-- The bytes of whole flits of a descriptor's runs. -/
def runFlits (b : List Byte) : Nat :=
  (runOffsets (hdDims b)).length * (reqCosts (hdSrc b) (hdSrc b) (hdLen b)).2.2

/-- R226: the legs of a relay: from the issuing tile to its first member, and from each member to the next. -/
def chainLegs (s : State) : Nat → List Nat → List (Nat × Nat)
  | _, [] => []
  | t, m :: r => s.legs t m ++ chainLegs s m r

/-- R227: the legs of a multicast: to course Y0 in the sender's column, which the rule leaves to a sender that stands on
the course (DEDUCED, log 91), along the course both ways, and along each column of the rectangle. -/
def treeLegs (t x0 y0 x1 y1 : Nat) : List (Nat × Nat) :=
  let r := tileAt (tileX t) y0
  [(t, r)] ++ (if x0 < tileX t then [(r, tileAt x0 y0)] else []) ++ (if tileX t < x1 then [(r, tileAt x1 y0)] else []) ++
    (List.range (x1 + 1 - x0)).map (fun i => (tileAt (x0 + i) y0, tileAt (x0 + i) y1))

/-- A leg meets a tile that the detour tables avoid. -/
def State.legMeets (s : State) (l : Nat × Nat) : Bool := ([l.1, l.2] ++ pathTiles l.1 l.2).any (fun t => s.detourAvoid.contains t)

/-- R203, R226, R227: the legs on which a relay or multicast of a tile reaches its members; where the tree of a multicast
meets a spalled tile, each member is reached on the route of its pair. -/
def State.spreadLegs (s : State) (t : Nat) (b : List Byte) (members : List Nat) : List (Nat × Nat) :=
  if hdKind b = 4 then chainLegs s t members
  else
    let tree := treeLegs t (fld b 48 2) (fld b 50 2) (fld b 52 2) (fld b 54 2)
    if tree.any s.legMeets then (members.flatMap (s.legs t)).eraseDups else tree

/-- The hops to the farthest member. -/
def State.spreadHops (s : State) (t : Nat) (b : List Byte) (members : List Nat) : Nat :=
  if hdKind b = 4 then hopsOf ((chainLegs s t members).flatMap linksOfLeg)
  else
    let y0 := fld b 50 2
    members.foldl (fun n m => max n (max (hopsOf (s.path t m))
      (dist (tileY t) y0 + dist (tileX t) (tileX m) + dist y0 (tileY m)))) 0

/-- R211, R218: the charges of a gather or scatter: its index list, its packed rows one by one, and for the rows that the
list will name, which is not read yet, all their bytes on every channel of the declared extent (DESIGN CHOICE, log 92). -/
def rowCharges (s : State) (t : Nat) (b : List Byte) (ofs : Nat) : Charges :=
  let n := hdCnt b 28
  let gather := hdKind b == 1
  let near := if gather then hdDst b else hdSrc b + ofs
  let far := if gather then hdSrc b + ofs else hdDst b
  let acc := s.chargeRange t (hdIdxAddr b) (n * hdIdxBytes b) false ([], 0)
  let acc := (List.range n).foldl (fun acc (r : Nat) =>
    s.chargeRange t (moveAddr near ((r : Int) * hdStr b 48)) (hdLen b) gather acc) acc
  (regionPieces (hdExt b / 0x2000000 + 2) far far 0 (hdExt b)).foldl (fun (acc : Charges) p =>
    let c := reqCosts (far + p.1) (far + p.1) (hdLen b)
    let r := if gather then s.path (endOf (far + p.1)) t else s.path t (endOf (far + p.1))
    (chargeLinks (chargeEnd acc.1 (far + p.1) (n * (if gather then c.1 else c.2.1)) (n * hdLen b) !gather) r (n * c.2.2),
      max acc.2 (hopsOf r))) acc

/-- R211: the charges of a timed descriptor, and its longest path in hops. -/
def hodCharges (s : State) (t : Nat) (b : List Byte) (ofs : Nat) (members : List Nat) : Charges :=
  if hdRows b then rowCharges s t b ofs
  else
    let acc := (runOffsets (hdDims b)).foldl (fun acc o =>
      let src := moveAddr (hdSrc b + ofs) o.1
      if hdKind b = 0 then s.chargeMove t src (moveAddr (hdDst b) o.2) (hdLen b) acc
      else s.chargeRange t src (hdLen b) false acc) ([], 0)
    if hdSpread b then
      (chargeLinks acc.1 ((s.spreadLegs t b members).flatMap linksOfLeg) (runFlits b), acc.2 + s.spreadHops t b members)
    else acc

/-- The descriptor reads or writes beyond the mortar: in host memory or register space. -/
def hodCrosses (b : List Byte) : Bool :=
  let out := fun a => addrKind a == .host || addrKind a == .regs
  out (hdSrc b) || ((hdKind b == 0 || hdRows b) && out (hdDst b)) || (hdRows b && out (hdIdxAddr b))

/-- R46: the path allowance of a descriptor over `hops`. -/
def hodAllow (s : State) (b : List Byte) (hops : Nat) : Nat :=
  s.allowance hops (hodCrosses b) (addrKind (hdSrc b) == .host || (hdRows b && addrKind (hdIdxAddr b) == .host))

/-- R44, R211: a timed stream presents its descriptor. A refused one completes and has no other effect (R47). -/
def hodAdmit (s : State) (t : Nat) (d : HDesc) (members : List Nat) : HDesc × State :=
  if !d.timed then (d, s)
  else
    let b := d.bytes
    let (res, hops) := hodCharges s t b d.genOfs members
    let (a, s) := admitReq s
      { id := 0, qkind := 1, ctx := d.ctx, queue := t * 16 + d.stream, tag := hodTag t b, cplRing := 0,
        deadline := d.deadline, allow := hodAllow s b hops, res := res, broken := false }
    match a with
    | some id => ({ d with adm := 1, treq := some id }, s)
    | none => ({ d with cancel := true, status := 4 }, s)

/-- R172: the declared extent of a descriptor overlaps the pool. -/
def hodOverPool (s : State) (b : List Byte) (ofs : Nat) : Bool :=
  let base := if hdKind b = 2 then hdDst b else hdSrc b + ofs
  s.overPool base (base + hdExt b)

/-- R211: the hod takes a descriptor: it is rejected, refused, or its requests wait. -/
def hodTake (s : State) (t : Nat) (d : HDesc) : State :=
  let b := d.bytes
  if hodRejects s b t then tileFault s t 0x12 d.pc
  else
    let members := (hodMembers s b t).getD []
    let d := { d with taken := true, members := members,
                      genOfs := if hdGenRel b then s.genOfs d.ctx else 0 }
    let (d, s) := hodAdmit s t d members
    let (u, s) := if d.cancel then (none, s) else kvUse s (hodOverPool s b d.genOfs)
    let d := { d with kvUser := u, waiting := if d.cancel || !(hdKind b == 0 || hdKind b == 3) then [] else descReqs d }
    hodSettle (s.modHDesc t d.id (fun _ => d)) t

/-- R211: HOD_DESCRIPTOR_TAKE. -/
def execHodDescriptorTake (tile stream : Nat) (s : State) : Host.Outcome State Fault Refusal :=
  .next (match (s.tile tile).hod.descs.find? (fun d => d.stream == stream && !d.taken && !d.cancel) with
    | some d => if (s.tile tile).run = .running then hodTake s tile d else s
    | none => s)

/-! ### Issuing requests (R213, R214) -/

/-- The destination that a tag waits on, if it is not the tile itself: a channel, another scratchpad, the periphery. -/
def farEnd (t a : Nat) : Option Nat :=
  match addrKind a with
  | .brick => some (chanOf a)
  | .scratch => if slotTile a = t then none else some (0x10000 + slotTile a)
  | _ => some 0x20000

/-- The destination of a request. -/
def HReq.dest (r : HReq) (t : Nat) : Option Nat :=
  match r.kind with
  | .zero => farEnd t r.dst
  | .copy => match farEnd t r.src with | some d => some d | none => farEnd t r.dst
  | _ => farEnd t r.src

/-- The request reads host memory. -/
def HReq.ofHost (r : HReq) : Bool := (r.kind == .copy || r.kind == .spread || r.kind == .index) && addrKind r.src == .host

/-- R214: fewer than 16 of the 64 tags wait on a destination. -/
def Hod.room (h : Hod) (d : Nat) : Bool :=
  decide ((h.tags.filter (fun g => g.dest == d && decide (g.tag < 64))).length < 16)

/-- Tags held of the 64 of R214, and of the gather engine's four (R220). -/
def Hod.held (h : Hod) (index : Bool) : Nat := (h.tags.filter (fun g => decide (64 ≤ g.tag) == index)).length

/-- R214, R220, R247: a tag, a place at the destination and, for a host read, a host tag are free. -/
def issuable (s : State) (t : Nat) (r : HReq) : Bool :=
  let h := (s.tile t).hod
  (if r.kind = .index then decide (h.held true < 4)
   else decide (h.held false < 64) && (match r.dest t with | some d => h.room d | none => true)) &&
    !(r.ofHost && decide (hostTags ≤ s.hostReads.length))

/-- R220: the next piece of the index list to be asked for, while it is no more than 8 requests ahead of the rows
issued. -/
def nextIndex (d : HDesc) : Option HReq :=
  let b := d.bytes
  let total := hdCnt b 28 * hdIdxBytes b
  let rows := match d.waiting with | r :: _ => r.row | [] => d.rowNext
  let a := hdIdxAddr b + d.idxAsked
  if hdRows b && d.taken && !d.cancel && decide (d.idxAsked < total) && decide (d.idxAsked < rows * hdIdxBytes b + 8 * 512) then
    some { desc := d.id, kind := .index, src := a, dst := 0, len := min (512 - a % 512) (total - d.idxAsked), row := 0 }
  else none

/-- R48, R53, R214, R218: the requests that wait: admitted ones first in order of deadline, then those of broken
requests; rows issue in ascending order. -/
def candidates (s : State) (h : Hod) : List (HDesc × HReq) :=
  (sortBy (fun a b => !s.before b.treq a.treq) h.descs).flatMap (fun d =>
    ((nextIndex d).toList ++ (if hdRows d.bytes then d.waiting.take 1 else d.waiting)).map (fun r => (d, r)))

/-- R214: a request that goes first and could be issued comes before the `n`-th. -/
def outranked (s : State) (t n : Nat) (c : List (HDesc × HReq)) (d : HDesc) : Bool :=
  (c.take n).any (fun e => s.before e.1.treq d.treq && issuable s t e.2)

/-- The lowest free tag of the 64, or of the gather engine's four. -/
def Hod.freeTag (h : Hod) (index : Bool) : Nat :=
  let lo := if index then 64 else 0
  (((List.range (if index then 4 else 64)).map (· + lo)).find? (fun k => !h.tags.any (fun g => g.tag == k))).getD 68

/-- A tag is taken by a request. -/
def takeTag (s : State) (t : Nat) (d : HDesc) (r : HReq) (answered : Bool) (data : List Byte) (bad : List Nat) : Nat × State :=
  let k := (s.tile t).hod.freeTag (r.kind == .index)
  let g : HTag := { tag := k, req := r, dest := (r.dest t).getD ownEnd, ctx := d.ctx, answered := answered, arrival := 0,
                    origin := none, failed := false, writing := false, marked := false,
                    cacheRd := hdCacheRd d.bytes && r.kind == .copy, cacheWr := hdCacheWr d.bytes,
                    reuse := hdReuse d.bytes, tensor := hdTensor d.bytes, data := data, poison := bad }
  (k, s.modHod t (fun h => { h with tags := h.tags ++ [g] }))

/-- R202: a request of a tag at a channel, on the virtual channel of its class. -/
def chanReq (s : State) (t tag : Nat) (treq : Option Nat) (write : Bool) (a : Nat) (n : Nat) (data : List Byte)
    (bad : List Nat) : State :=
  let (id, s) := s.fresh
  enterChan s (chanOf a) { id := id, tile := t, tag := tag, treq := treq,
                           vc := s.vcOf t (chanOf a) (b2n (s.rank treq != 0)), write := write, addr := a, len := n,
                           next := a, data := data, poison := bad }

/-- The lines of [a, a + n). -/
def linesOf (a n : Nat) : List Nat := (linePieces a n).map (fun p => lineOf p.1)

/-- R213: the lines of a prefetch request that it may read. -/
def fetchLines (d : HDesc) (r : HReq) : List Nat :=
  let lo := hdSrc d.bytes + d.genOfs
  (linesOf r.src r.len).filter (fun l =>
    addrKind l == .brick && decide (lo ≤ l) && decide (l + 128 ≤ lo + hdExt d.bytes))

/-- R213: a prefetch request is issued, or dropped in whole or in part. -/
def issueFetch (s : State) (t : Nat) (d : HDesc) (r : HReq) : State :=
  let s := if addrKind r.src = .brick then s.noteProt d.ctx (r.src / 0x200000) else s
  let cross := decide (r.src / 0x200000 ≠ (r.src + r.len - 1) / 0x200000)
  let all := linesOf r.src r.len
  let keep := fetchLines d r
  if cross || (addrKind r.src == .brick && !s.reaches d.ctx r.src r.len false) then s.bump 0x13024 t 1
  else
    let s := s.bump 0x13024 t (all.length - keep.length)
    match keep with
    | [] => s
    | l :: _ =>
      let r' := { r with src := l, len := 128 * keep.length }
      if keep.all (fun l => ((s.tile t).line? l).isSome) then (takeTag s t d r' true [] []).2
      else
        let (k, s) := takeTag s t d r' false [] []
        chanReq s t k d.treq false l (128 * keep.length) [] []

/-- The read leg of a request: from the cache, a channel, host memory, or at once. -/
def issueRead (s : State) (t : Nat) (d : HDesc) (r : HReq) : State :=
  match addrKind r.src with
  | .brick =>
    let cached := hdCacheRd d.bytes && r.kind == .copy
    if cached && ((s.tile t).line? r.src).isSome then (takeTag s t d r true [] []).2
    else
      let (k, s) := takeTag s t d r false [] []
      if cached then chanReq s t k d.treq false (lineOf r.src) 128 [] []
      else chanReq s t k d.treq false r.src r.len [] []
  | .host =>
    let (k, s) := takeTag s t d r false [] []
    (s.sendFlits t (unitEnd 8) 1).askHost d.ctx r.src r.len (.hod t k) d.treq
  | _ =>
    let (o, s) := agentRead s d.ctx r.src r.len t
    (takeTag s t d r true o.data []).2

/-- R212, R214: a request leaves the hod. -/
def issueReq (s : State) (t : Nat) (d : HDesc) (r : HReq) : State :=
  let note := fun (s : State) a => if addrKind a = .brick then s.noteProt d.ctx (a / 0x200000) else s
  let s := s.modHDesc t d.id (fun x =>
    if r.kind = .index then { x with idxAsked := x.idxAsked + r.len }
    else { x with waiting := dropEq r x.waiting, issued := x.issued + 1 })
  match r.kind with
  | .prefetch => issueFetch s t d r
  | .zero =>
    let s := note s r.dst
    if s.reaches d.ctx r.dst r.len true then (takeTag s t d r true (zeros r.len) []).2 else hodAddrError s t d
  | .copy =>
    let s := note (note s r.src) r.dst
    if s.reaches d.ctx r.src r.len false && s.reaches d.ctx r.dst r.len true then issueRead s t d r else hodAddrError s t d
  | _ =>
    let s := note s r.src
    if s.reaches d.ctx r.src r.len false then issueRead s t d r else hodAddrError s t d

/-- R214: HOD_REQUEST_ISSUE: the `n`-th of the requests that wait; a replay goes on after its program has ended. -/
def execHodRequestIssue (tile n : Nat) (s : State) : Host.Outcome State Fault Refusal :=
  .next (
    let x := s.tile tile
    let c := candidates s x.hod
    match (c.drop n).head? with
    | none => s
    | some (d, r) =>
      if !(x.run == .running || d.replay) ∨ !issuable s tile r ∨ outranked s tile n c d then s
      else hodAfter (issueReq s tile d r) tile d.id)

/-! ### Landing (R204, R205, R212, R214, R221, R222) -/

/-- The charges that a request of a timed descriptor has used up. -/
def reqProgress (s : State) (t : Nat) (d : HDesc) (r : HReq) : State :=
  match d.treq with
  | none => s
  | some id =>
    let acc : Charges := match r.kind with
      | .zero => s.chargeRange t r.dst r.len true ([], 0)
      | .copy => s.chargeMove t r.src r.dst r.len ([], 0)
      | _ => s.chargeRange t r.src r.len false ([], 0)
    let l := if r.kind = .spread then
        chargeLinks acc.1 ((s.spreadLegs t d.bytes d.members).flatMap linksOfLeg) (32 * flitsOf r.len) else acc.1
    l.foldl (fun s c => s.progress id c.1 c.2) s

/-- One line of a cached read or a prefetch: a hit, or a fill from the data of the tag. -/
def landLine (s : State) (t : Nat) (g : HTag) (a n : Nat) : (List Byte × List Nat) × State :=
  if ((s.tile t).line? a).isSome || g.data.isEmpty then
    cacheReadPiece s t a n g.reuse g.tensor
  else
    let o := lineOf a - lineOf g.req.src
    let l : CLine := {
      addr := lineOf a, data := slice g.data o 128,
      poison := g.poison.filter (fun c => (codewords (lineOf a) 128).contains c), dirty := false,
      tagged := decide (g.reuse ≠ 0), count := g.reuse, tensor := g.tensor, lru := 0 }
    ((slice l.data (a - l.addr) n, l.poison.filter (fun c => (codewords a n).contains c)),
      fillLine (s.bump 0x13030 t 1) t l)

/-- The data that a read leg brings, with its marked codewords. -/
def landData (s : State) (t : Nat) (g : HTag) : (List Byte × List Nat) × State :=
  if g.cacheRd && addrKind g.req.src == .brick then landLine s t g g.req.src g.req.len
  else ((g.data, g.poison), s)

/-- The tag is free again. -/
def freeTag (s : State) (t tag : Nat) : State :=
  s.modHod t (fun h => { h with tags := h.tags.filter (fun g => g.tag != tag) })

/-- The request is done: its tag is free, its charges are used up, and its descriptor goes on. -/
def reqDone (s : State) (t : Nat) (d : Option HDesc) (g : HTag) : State :=
  let s := freeTag s t g.tag
  match d with
  | none => s
  | some d => hodAfter (reqProgress s t d g.req) t d.id

/-- A request has failed with "address error"; a prefetch is dropped (R213). -/
def reqFails (s : State) (t : Nat) (d : Option HDesc) (g : HTag) : State :=
  let s := freeTag s t g.tag
  if g.req.kind = .prefetch then
    (let s := s.bump 0x13024 t 1
     match d with | some d => hodAfter s t d.id | none => s)
  else match d with
    | some d => hodAddrError s t d
    | none => s.addrError g.ctx

/-- R214, R221: the write leg: into the cache, to a channel, on which the tag waits from then on, or at once. -/
def landWrite (s : State) (t : Nat) (d : Option HDesc) (g : HTag) (data : List Byte) (bad : List Nat) : State :=
  let r := g.req
  if addrKind r.dst = .brick then
    (if g.cacheWr && ((s.tile t).line? r.dst).isSome then reqDone (cacheWrite s t r.dst data bad) t d g
     else
       let s := s.modHod t (fun h => { h with tags := h.tags.map (fun (x : HTag) =>
         if x.tag = g.tag then { x with
           writing := true, answered := false, data := [], poison := [], dest := chanOf r.dst } else x) })
       chanReq s t g.tag (d.bind (·.treq)) true r.dst r.len data bad)
  else if s.reaches g.ctx r.dst data.length true then reqDone (agentWrite s g.ctx r.dst data bad t).2 t d g
  else reqFails s t d g

/-- R226, R227: a piece of a relay or multicast lands in every member's scratchpad, and of a relay in the sender's own. -/
def landSpread (s : State) (t : Nat) (d : HDesc) (g : HTag) : State :=
  let own := if hdKind d.bytes = 4 && !d.replay then [t] else []
  let s := s.sendLegs (s.spreadLegs t d.bytes d.members) (flitsOf g.data.length)
  let (ok, s) := (own ++ d.members).foldl (fun (acc : Bool × State) m =>
    let (ok, s) := agentWrite acc.2 g.ctx (scratchAddr m g.req.dst) g.data [] m
    (acc.1 && ok, s)) (true, s)
  if ok then reqDone s t (some d) g else hodAddrError (freeTag s t g.tag) t d

/-- A tag that has answered lands. -/
def landTag (s : State) (t : Nat) (g : HTag) : State :=
  let d := (s.tile t).hod.desc? g.req.desc
  let poison := fun (s : State) bad => match d with
    | some d => hodPoison s t d g.req.ofHost bad
    | none => s
  if g.failed then reqFails s t d g
  else if g.writing then reqDone s t d g
  else match g.req.kind with
    | .prefetch =>
      reqDone ((linesOf g.req.src g.req.len).foldl (fun s l => (landLine s t g l 128).2)
        (match d with | some d => breakForWords s d.treq g.poison | none => s)) t d g
    | .spread =>
      (match d with
       | some d => landSpread (poison s g.poison) t d g
       | none => freeTag s t g.tag)
    | _ =>
      let ((data, bad), s) := landData s t g
      landWrite (poison s bad) t d g data (moveBad bad g.req.src g.req.dst g.req.len)

/-- R214, R219: the write leg of a tag can leave: fewer than 16 tags wait on its channel, and of a scatter every earlier
row has left. -/
def Hod.canLand (h : Hod) (g : HTag) : Bool :=
  let write := !g.failed && !g.writing && (g.req.kind == .copy || g.req.kind == .zero) && addrKind g.req.dst == .brick
  let earlier := (h.tags.takeWhile (fun x => x.tag != g.tag)).any (fun x => x.req.desc == g.req.desc && !x.writing && !x.failed)
  let scatter := match h.desc? g.req.desc with | some d => hdKind d.bytes == 2 | none => false
  !(write && g.dest != chanOf g.req.dst && !h.room (chanOf g.req.dst)) &&
    !(scatter && g.req.kind != .index && !g.writing && earlier)

/-- The order in which responses wait at a tile's local port. -/
def tagPkt (s : State) (t : Nat) (g : HTag) : Pkt :=
  let treq := ((s.tile t).hod.desc? g.req.desc).bind (·.treq)
  let timed := s.rank treq == 0
  let e := g.origin.getD t
  { key := g.tag, input := s.inputOf e t, vc := s.vcOf e t (if timed then 2 else 3), timed := timed,
    flits := max 1 (flitsOf g.data.length) }

/-- R204, R205: the response of a tag is the next that the router passes to the tile; one that crosses no mortar waits for
none. Whether it passes, which it does not where another goes first, and the state after it has. -/
def passResponse (s : State) (t : Nat) (g : HTag) : Bool × State :=
  if g.origin.isNone then (true, s)
  else
    let h := (s.tile t).hod
    let wait := sortBy (fun (a b : HTag) => decide (a.arrival ≤ b.arrival))
      (h.tags.filter (fun x => x.answered && x.origin.isSome && h.canLand x))
    match (s.router (2 * t + 1)).grant (wait.map (tagPkt s t)) with
    | some (k, o) => if k = g.tag then (true, s.setRouter (2 * t + 1) o) else (false, s)
    | none => (false, s)

/-- R212, R214: HOD_RESPONSE_LAND. -/
def execHodResponseLand (tile tag : Nat) (s : State) : Host.Outcome State Fault Refusal :=
  .next (let h := (s.tile tile).hod
    match h.tags.find? (fun g => g.tag == tag && g.answered && g.req.kind != .index && h.canLand g) with
    | some g => (let (passes, s) := passResponse s tile g
      if passes then landTag s tile g else s)
    | none => s)

/-! ### Gather and scatter (R218 to R220) -/

/-- The row of an index: requests, and whether it counts in GATHER_OOB. -/
def rowReqs (d : HDesc) (row idx : Nat) (unusable : Bool) : List HReq × Bool :=
  let b := d.bytes
  let gather := hdKind b == 1
  let src0 := hdSrc b + d.genOfs
  let near := (row : Int) * hdStr b 48
  let far := (idx : Int) * hdStr b 44
  let ones := idx == 2 ^ (8 * hdIdxBytes b) - 1
  let oob := decide (far < 0) || decide ((hdExt b : Int) < far + hdLen b)
  let pad := unusable || ones || oob
  let dst := if gather then moveAddr (hdDst b) near else moveAddr (hdDst b) far
  let src := if gather then moveAddr src0 far else moveAddr src0 near
  (if pad then (if gather then zeroReqs d.id dst (hdLen b) row else [])
   else runReqs d.id .copy (hdCacheRd b) (hdCacheWr b) src dst (hdLen b) row, !unusable && !ones && oob)

/-- R219, R220: the rows of one index-list read, the bytes of an index that the read before it began coming first. `bad`
names its unusable codewords. -/
def indexRows (s : State) (t : Nat) (d : HDesc) (data : List Byte) (bad : List Nat) : State :=
  let w := hdIdxBytes d.bytes
  let all := d.idxRest ++ data
  let n := all.length / w
  let at_ := fun (i : Nat) => hdIdxAddr d.bytes + (d.rowNext + i) * w
  let spoilt := fun (i k : Nat) => (codewords (at_ i) k).any (fun c => bad.contains c) || (i == 0 && d.idxBad)
  let rs := (List.range n).map (fun i => rowReqs d (d.rowNext + i) (fld all (i * w) w) (spoilt i w))
  let rest := all.drop (n * w)
  let s := s.bump 0x13028 t (rs.filter (fun r => r.2)).length
  s.modHDesc t d.id (fun x => { x with
    waiting := x.waiting ++ rs.flatMap (fun r => r.1), rowNext := d.rowNext + n, idxNext := d.idxNext + data.length,
    idxRest := rest, idxBad := spoilt n rest.length })

/-- R220: an index-list read lands. -/
def landIndex (s : State) (t : Nat) (d : HDesc) (g : HTag) : State :=
  let s := freeTag s t g.tag
  if g.failed then hodAddrError s t d
  else hodAfter (indexRows (hodPoison s t d g.req.ofHost g.poison) t d g.data g.poison) t d.id

/-- R220: GATHER_INDEX_READ: the oldest index-list read of the descriptor has returned. -/
def execGatherIndexRead (tile desc : Nat) (s : State) : Host.Outcome State Fault Refusal :=
  .next (let h := (s.tile tile).hod
    match h.desc? desc, h.tags.find? (fun g => g.req.kind == .index && g.req.desc == desc) with
    | some d, some g =>
      if g.answered then (let (passes, s) := passResponse s tile g
        if passes then landIndex s tile d g else s) else s
    | _, _ => s)

/-! ### Relay and multicast (R226 to R228) -/

/-- The member holds a credit on its receiving stream. -/
def holdsCredit (s : State) (stream m : Nat) : Bool :=
  match (s.tile m).hod.stream? stream with | some x => x.recv && decide (0 < x.credits) | none => false

/-- One credit of a member is taken. -/
def takeCredit (stream : Nat) (s : State) (m : Nat) : State :=
  s.modStream m stream (fun x => { x with credits := x.credits - 1 })

/-- R226, R227: the transfer to `to_` starts, the members `late` being dropped: a credit of each is taken, and its
requests wait. -/
def spread (s : State) (t : Nat) (d : HDesc) (to_ late : List Nat) : State :=
  let s := to_.foldl (takeCredit d.stream) s
  hodAfter (s.modHDesc t d.id (fun x => { x with
    sent := true, members := to_, dropped := late,
    waiting := if hdKind d.bytes = 5 && to_.isEmpty then [] else spreadReqs d.id d.bytes d.genOfs })) t d.id

/-- A relay or multicast starts once every member holds a credit. -/
def spreadStart (s : State) (t desc kind : Nat) : State :=
  match (s.tile t).hod.desc? desc with
  | none => s
  | some d =>
    if (s.tile t).run = .running && d.taken && !d.cancel && !d.sent && hdKind d.bytes == kind &&
      d.members.all (holdsCredit s d.stream) then spread s t d d.members [] else s

/-- R226: RELAY_START. -/
def execRelayStart (tile desc : Nat) (s : State) : Host.Outcome State Fault Refusal := .next (spreadStart s tile desc 4)

/-- R227: MULTICAST_START. -/
def execMulticastStart (tile desc : Nat) (s : State) : Host.Outcome State Fault Refusal :=
  .next (spreadStart s tile desc 5)

/-- R228: the drop instant: deadline less the largest allowance of a member less the time of the bytes on a link. -/
def dropInstant (s : State) (t : Nat) (d : HDesc) : Nat :=
  let hops := (hodCharges s t d.bytes d.genOfs d.members).2
  let bytes := hdLen d.bytes * (hdDims d.bytes).foldl (fun n x => n * x.1) 1
  d.deadline - hodAllow s d.bytes hops - ceilDiv (bytes * 900 * 1000) (28800 * floorRate s.time.pp)

/-- R228: the record of a dropped member. -/
def dropMember (t : Nat) (d : HDesc) (s : State) (m : Nat) : State :=
  (postEvent s d.ctx 0 (eventRecord 0x23 0 0 1 d.ctx d.stream (hodTag t d.bytes) m d.deadline s.now)).bump 0x13038 t 1

/-- R228: members without a credit are dropped, and the others are served at once. -/
def dropLate (s : State) (t : Nat) (d : HDesc) : State :=
  let late := d.members.filter (fun m => !holdsCredit s d.stream m)
  spread (late.foldl (dropMember t d) s) t d (d.members.filter (holdsCredit s d.stream)) late

/-- R228: MULTICAST_DROP_INSTANT. -/
def execMulticastDropInstant (tile desc : Nat) (s : State) : Host.Outcome State Fault Refusal :=
  .next (match (s.tile tile).hod.desc? desc with
    | some d => if (s.tile tile).run = .running && d.taken && !d.cancel && !d.sent && d.timed &&
        hdKind d.bytes == 5 && decide (dropInstant s tile d ≤ s.now) then dropLate s tile d else s
    | none => s)

/-- R228: a dropped member has posted its credit: the descriptor is sent to it alone, as a bulk request. -/
def replayTo (s : State) (t m : Nat) (d : HDesc) : State :=
  let (id, s) := (takeCredit d.stream s m).fresh
  let r : HDesc := { d with
    id := id, sig := none, timed := false, adm := 0, treq := none, members := [m], dropped := [], sent := true,
    landed := false, replay := true, status := 0, done := true, late := false, cancel := false, kvUser := none,
    waiting := spreadReqs id d.bytes d.genOfs }
  hodAfter ((s.modHDesc t d.id (fun e => { e with dropped := d.dropped.filter (· != m) })).modHod t
    (fun h => { h with descs := h.descs ++ [r] })) t d.id

/-- R228: MULTICAST_REPLAY. -/
def execMulticastReplay (tile desc member : Nat) (s : State) : Host.Outcome State Fault Refusal :=
  .next (match (s.tile tile).hod.desc? desc with
    | some d => if d.dropped.contains member && holdsCredit s d.stream member then replayTo s tile member d else s
    | none => s)

/-! ### Cancelling after a miss (R56) -/

/-- R56: the late requests of a stream: what has not been issued goes, and the descriptor ends cancelled. -/
def cancelLate (s : State) (t stream : Nat) : State :=
  hodSettle (s.modHod t (fun h => { h with descs := h.descs.map (fun d =>
    if d.stream = stream && d.late && !d.done && d.status != 4 then
      { d with waiting := [], taken := true, cancel := true, status := 3 } else d) })) t

/-- R56: HOD_MISS_CANCEL. -/
def execHodMissCancel (tile stream : Nat) (s : State) : Host.Outcome State Fault Refusal :=
  .next (cancelLate s tile stream)

/-! ### The scratchpad window (R25) -/

/-- R25: an access of a context; what a read gives is kept as the last read of its tile programs' master. -/
def windowAccess (s : State) (ctx addr len : Nat) (write : Bool) (data : List Byte) : State :=
  if write && (requests addr addr (data.take len).length).any (fun r => s.stalled (addr + r.1) r.2 true) then s
  else if write then (agentWriteAll s ctx addr (data.take len) []).2
  else
    let (r, s) := agentReadAll s ctx addr len
    s.setMaster (0x40 + ctx) { s.master (0x40 + ctx) with
      lastRead := if r.ok then some (BitVec.ofNat 32 (leNat (r.data.take 4))) else none }

/-- R25: SCRATCHPAD_WINDOW_ACCESS. -/
def execScratchpadWindowAccess (ctx addr len : Nat) (write : Bool) (data : List Byte) (s : State) :
    Host.Outcome State Fault Refusal :=
  .next (if addrKind addr = .scratch then windowAccess s ctx addr len write data else s)

end Sys2Proof.Machine
end

