-- ==== Sys2Proof/Machine/Flash.lean ====
section
/-! DEFINITION. The flash tier (R233 to R246) and the hold-up check of its programs (R249). -/

namespace Sys2Proof.Machine

/-! ### Fields of a flash operation (R235) -/

def flOp (b : List Byte) : Nat := fld b 16 1
def flObj (b : List Byte) : Nat := fld b 24 4
def flOff (b : List Byte) : Nat := fld b 28 4
def flLen (b : List Byte) : Nat := fld b 32 4
def flAddr (b : List Byte) : Nat := fld b 36 6
def flTile (b : List Byte) : Nat := fldBits b 18 2 0 15
def flStream (b : List Byte) : Nat := fldBits b 20 1 0 4

/-- Key of byte `o` of an object. -/
def flashKey (obj o : Nat) : Nat := obj * 2 ^ 44 + o

def State.modFlash (s : State) (g : Flash → Flash) : State := { s with flash := g s.flash }
def State.fobj? (s : State) (obj : Nat) : Option FObj := tfind? s.flash.objs obj
def State.fcmd? (s : State) (id : Nat) : Option FCmd := s.flash.cmds.find? (fun c => c.id == id)
def State.modFCmd (s : State) (id : Nat) (g : FCmd → FCmd) : State :=
  s.modFlash (fun f => { f with cmds := f.cmds.map (fun c => if c.id = id then g c else c) })

/-- R234: user capacity of the tier in units of 4 KiB: 12.8 TB. -/
def flashUnits : Nat := 3125000000

/-- R241: pages hold four units. -/
def pageOf (u : Nat) : Nat := u / 4
def FCmd.pages (c : FCmd) : Nat := (c.units.map pageOf).eraseDups.length

/-! ### NAND (R241, R242, R246)
The manual gives a block no size and names no die for a data page. Here the blocks at one block address of the 16 dies
fill, move and are erased together, since the pages of a stripe stand at one page address; the data slots of a row are
counted from its first stripe (DESIGN CHOICE, log 93). -/

/-- R241: number of stripe `k` of a row. -/
def stripeNo (row k : Nat) : Nat := Config.flashBlockPages * row + k

/-- R241: the die of a data slot of a row: stripe n keeps its parity on die n mod 16. -/
def dieOf (row slot : Nat) : Nat := (stripeNo row (slot / 15) + 1 + slot % 15) % 16

/-- Where a page of an object stands. -/
def Flash.placeOf (f : Flash) (obj p : Nat) : Option (Nat × Nat) := (f.place.find? (fun x => x.1 == (obj, p))).map (·.2)

/-- R246: the die of a slot has failed. -/
def Flash.slotDown (f : Flash) (row slot : Nat) : Bool := f.dieFailed != 0 && f.dieFailed.getLsbD (dieOf row slot)

/-- R246: pages that stripe `k` of a row has lost with the dies that failed. -/
def Flash.lostPages (f : Flash) (row k : Nat) : Nat :=
  if f.dieFailed = 0 then 0
  else ((List.range 16).filter (fun d => f.dieFailed.getLsbD d && (d == stripeNo row k % 16 ||
    f.place.any (fun x => x.2.1 == row && x.2.2 / 15 == k && dieOf row x.2.2 == d)))).length

/-- R246: the page stands on a die that has failed. -/
def Flash.pageDown (f : Flash) (obj p : Nat) : Bool :=
  match f.placeOf obj p with | some (r, k) => f.slotDown r k | none => false

/-- R246: the page's stripe has lost two pages. -/
def Flash.pageLost (f : Flash) (obj p : Nat) : Bool :=
  match f.placeOf obj p with | some (r, k) => decide (2 ≤ f.lostPages r (k / 15)) | none => false

/-- R242: a NAND read of a page counts for its block. -/
def Flash.countRead (f : Flash) (obj p : Nat) : Flash :=
  match f.placeOf obj p with
  | some (r, k) => { f with reads := tset (tget 0 f.reads (16 * r + dieOf r k) + 1) f.reads (16 * r + dieOf r k) }
  | none => f

/-- R242: the reads of a page's block needed read-retry. -/
def Flash.noteRetry (f : Flash) (obj p : Nat) : Flash :=
  match f.placeOf obj p with
  | some (r, _) => { f with retried := if f.retried.contains r then f.retried else f.retried ++ [r] }
  | none => f

/-- R242: a free row may be opened: no free row that the tier has erased less often waits. -/
def Flash.opens (f : Flash) (row : Nat) : Bool :=
  f.erases.all (fun x => tget 0 f.fill x.1 != 0 || decide (tget 0 f.erases row ≤ x.2))

/-- R241, R242: a page can be programmed at a slot: the next one of its row that stands on a die in service. -/
def Flash.canPlace (f : Flash) (row slot : Nat) : Bool :=
  let n := tget 0 f.fill row
  decide (n ≤ slot) && (List.range (slot - n)).all (fun i => f.slotDown row (n + i)) && !f.slotDown row slot &&
    (n != 0 || f.opens row)

/-- The pages of an object for which `q` holds leave NAND. -/
def Flash.unplace (f : Flash) (obj : Nat) (q : Nat → Bool) : Flash :=
  { f with place := f.place.filter (fun x => !(x.1.1 == obj && q x.1.2)),
           recover := f.recover.filter (fun x => !(x.1.1 == obj && q x.1.2)) }

/-- A page is programmed at a slot. -/
def Flash.put (f : Flash) (obj p row slot : Nat) : Flash :=
  let f := f.unplace obj (· == p)
  { f with place := f.place ++ [((obj, p), (row, slot))], fill := tset (slot + 1) f.fill row }

/-! ### Charges (R43, R240) -/

/-- Charges of `n` bytes moved between the tier and a device address, and the hops. -/
def flashCharges (s : State) (op addr n : Nat) : Charges :=
  s.chargeRange (unitEnd 12) addr n (op == 3) ([(if op = 3 then resFlashRd else resFlashWr, n)], 0)

/-- The admitted request for which a command runs. -/
def flashReq (s : State) (c : FCmd) : Option Nat :=
  match c.origin with
  | .ring q abs => (s.desc? c.ctx q abs).bind (·.treq)
  | .keep g => (s.colls.find? (fun x => x.ctx == c.ctx && x.group == g)).bind (fun x =>
      (s.desc? x.ctx x.ring x.abs).bind (·.treq))
  | .kiln e => (s.kiln.batches.find? (fun b => b.id == (tget Engine.reset s.kiln.engines e).batch)).bind (fun b =>
      (s.desc? b.ctx b.ring b.abs).bind (·.treq))

/-- Lowers an admitted request's remaining sizes. -/
def State.progressAll (s : State) (treq : Option Nat) (l : List (Nat × Nat)) : State :=
  match treq with
  | some id => l.foldl (fun s x => s.progress id x.1 x.2) s
  | none => s

/-- R48: part of a timed command of a ring has moved. -/
def flashProgress (s : State) (c : FCmd) (addr : Nat) : State :=
  match c.origin with
  | .ring _ _ => s.progressAll (flashReq s c) (flashCharges s c.op addr 4096).1
  | _ => s

/-- R245: the admitted request of a command is broken by uncorrectable flash data. -/
def flashBreak (s : State) (c : FCmd) : State := breakForData s (flashReq s c) resFlashRd

/-! ### Completion -/

/-- R238: a DELETE that waited for the commands in flight on its object. -/
def flashDeletes (s : State) : State :=
  (s.flash.cmds.filter (fun c => c.op == 2)).foldl (fun s c =>
    if s.flash.cmds.any (fun x => x.obj == c.obj && x.op != 2) then s
    else
      let s := s.modFlash (fun f => { f.unplace c.obj (fun _ => true) with
        objs := tdel f.objs c.obj, cmds := f.cmds.filter (fun x => x.id != c.id),
        data := f.data.fill (flashKey c.obj 0) (2 ^ 44) .zero })
      let s := match c.joint with | some j => jointAddFor s c.ctx j 1 4 | none => s
      match c.origin with | .ring q abs => finishDesc s c.ctx q abs 0 0 | _ => s) s

/-- R244: the recovery of a page ends with the last READ that waits on it. -/
def Flash.prune (f : Flash) : Flash :=
  { f with recover := f.recover.filter (fun x => f.cmds.any (fun c =>
      c.op == 3 && c.started && c.obj == x.1.1 && c.units.any (fun u => pageOf u == x.1.2))) }

/-- Notes in a kiln engine that a read of its source has ended without its data. -/
def State.engineFails (s : State) (e : Nat) : State :=
  { s with kiln := { s.kiln with
      engines := tset { tget Engine.reset s.kiln.engines e with failed := true } s.kiln.engines e } }

/-- R262: bytes of a kiln engine's sample have arrived, from offset `ofs` of the sample on. -/
def State.engineLand (s : State) (e ofs : Nat) (bs : List Byte) : State :=
  let g := tget Engine.reset s.kiln.engines e
  { s with kiln := { s.kiln with
      engines := tset { g with landed := g.landed + bs.length, parts := tset bs g.parts ofs } s.kiln.engines e } }

/-- A flash command completes: its stream counts it if its last unit has landed (R239), or if it was cancelled after a
miss (R56); its joint is added to, its record goes. -/
def flashEnd (s : State) (c : FCmd) (status : Nat) : State :=
  let s := s.modFlash (fun f => Flash.prune { f with cmds := f.cmds.filter (fun x => x.id != c.id) })
  let s := match c.stream with
    | some (t, n) => if status = 0 || status = 9 then
        s.modStream t n (fun x => { x with delivered := x.delivered + 1 }) else s
    | none => s
  let s := match c.joint with | some j => jointAddFor s c.ctx j 1 4 | none => s
  let s := match c.origin with
    | .ring q abs => finishDesc s c.ctx q abs status 0
    | .keep g => { s with colls := s.colls.map (fun (x : Coll) => if x.ctx = c.ctx ∧ x.group = g then
        { x with keepLeft := x.keepLeft - 1, keepBad := x.keepBad || status != 0 } else x) }
    | .kiln e => if status = 0 then s else s.engineFails e
  flashDeletes s

/-! ### Page programs (R238, R249) -/

/-- R249: half-millijoules that the stores in progress need: page programs, and 30 mJ for a retained-store commit. -/
def storesCost (s : State) : Nat :=
  (s.flash.cmds.foldl (fun n c => n + c.programs) 0) + (if s.trust.writing.isSome then 60 else 0)

/-- R249: the bank can carry one more store of this cost, in half-millijoules. -/
def holdupAllows (s : State) (cost : Nat) : Bool := decide (400 + storesCost s + cost ≤ 2 * s.holdup.energy)

/-- R249: a store is deferred. -/
def deferStore (s : State) : State :=
  { s with holdup := { s.holdup with deferring := true } }.bump 0x19004 0 1

/-- R235: a WRITE whose data comes from host memory. -/
def FCmd.fromHost (c : FCmd) : Bool :=
  c.op == 4 && addrKind c.addr == .host && (match c.origin with | .ring _ _ => true | _ => false)

/-- The host reads of a WRITE from host memory. -/
def FCmd.hostParts (c : FCmd) : List (Nat × Nat) := requests c.addr c.addr (4096 * c.len)

/-- R238: a WRITE that has a page, or a parity page, to program and none of its programs in flight for it. -/
def FCmd.programmable (c : FCmd) : Bool :=
  c.op == 4 && c.started && !c.deferred && decide (c.programs < c.pages + c.parity.length) &&
    (!c.fromHost || c.landed == c.hostParts.length)

/-- R48: the WRITE whose page is programmed next. -/
def nextProgram (s : State) : Option FCmd :=
  let l := s.flash.cmds.filter FCmd.programmable
  l.find? (fun c => !l.any (fun x => s.before (flashReq s x) (flashReq s c)))

/-- R249, R250: programs start while 64 at most are in flight and the bank allows them, and none once the module stops or
has lost its input. -/
def startPrograms : Nat → State → State
  | 0, s => s
  | n + 1, s =>
    match nextProgram s with
    | none => s
    | some c =>
      if 64 ≤ s.flash.cmds.foldl (fun n c => n + c.programs) 0 ∨ s.power.stage5 then s
      else if holdupAllows s 1 then
        startPrograms n (s.modFCmd c.id (fun c => { c with programs := c.programs + 1, steppedAt := s.now }))
      else startPrograms n ((deferStore s).modFCmd c.id (fun c => { c with deferred := true }))

/-- R249: at a measurement the deferred programs are tried again. -/
def retryPrograms (s : State) : State :=
  startPrograms 64 (s.modFlash (fun f => { f with cmds := f.cmds.map (fun c => { c with deferred := false }) }))

/-- Changes an object's poisoned units. -/
def setUnitPoison (s : State) (obj u : Nat) (bad : Bool) : State :=
  match s.fobj? obj with
  | none => s
  | some o => s.modFlash (fun f => { f with objs := tset { o with poisoned := poisonSet o.poisoned u bad } f.objs obj })

/-- The bytes of one 4 KiB unit of a WRITE from host memory, and whether a read of them failed. -/
def FCmd.hostUnit (c : FCmd) (o : Nat) : List Byte × Bool :=
  ((List.range 8).flatMap (fun i => tget [] c.parts (o + 512 * i)), c.badParts.any (fun p => p / 4096 == o / 4096))

/-- One unit is programmed: its data from device memory or from a KEEP. A unit whose data carries the poison mark is
poisoned. -/
def programUnit (s : State) (c : FCmd) (u : Nat) : Nat × State :=
  let o := 4096 * (u - c.off)
  let (d, s) : RdOut × State := match c.origin with
    | .ring _ _ =>
      if c.fromHost then ({ ok := true, data := (c.hostUnit o).1, bad := if (c.hostUnit o).2 then [0] else [] }, s)
      else
        let (d, s) := agentReadAll s c.ctx (c.addr + o) 4096 (unitEnd 12)
        (d, breakForWords s (flashReq s c) d.bad)
    | _ =>
      let old := s.flash.data.readBytes (flashKey c.obj (4096 * u)) 4096
      let new := slice c.data o 4096
      ({ ok := true, data := new ++ old.drop new.length, bad := [] }, s)
  if !d.ok then (6, s)
  else
    let s := s.modFlash (fun f => { f with data := f.data.writeBytes (flashKey c.obj (4096 * u)) d.data })
    let s := flashProgress (setUnitPoison s c.obj u (!d.bad.isEmpty)) c (c.addr + o)
    (if d.bad.isEmpty then 0 else 5, s)

/-- R243: pages of the object that an extent touches. -/
def extentPages (off len : Nat) : Nat := if len = 0 then 0 else (off + len - 1) / 4 - off / 4 + 1

/-- The first page of a WRITE that waits is programmed at a slot of a row. -/
def programPage (s : State) (c : FCmd) (u row slot : Nat) : State :=
  let here := c.units.filter (fun v => pageOf v == pageOf u)
  let (st, s) := here.foldl (fun (acc : Nat × State) v =>
    if acc.1 = 6 then acc
    else
      let (r, s) := programUnit acc.2 c v
      (if r = 0 then acc.1 else r, s)) (c.status, s)
  let s := s.modFlash (fun f => f.put c.obj (pageOf u) row slot)
  s.modFCmd c.id (fun c => { c with
    status := st, programs := c.programs - 1, steppedAt := s.now,
    parity := if c.parity.contains (row, slot / 15) then c.parity else c.parity ++ [(row, slot / 15)],
    units := if st = 6 then [] else c.units.filter (fun v => pageOf v != pageOf u) })

/-- R238: the parity page of a stripe is programmed, for every WRITE with a page in it. -/
def programParity (s : State) (c : FCmd) (x : Nat × Nat) : State :=
  (s.modFCmd c.id (fun c => { c with programs := c.programs - 1 })).modFlash (fun f => { f with
    fill := tset (max (tget 0 f.fill x.1) (15 * (x.2 + 1))) f.fill x.1,
    cmds := f.cmds.map (fun c => { c with parity := c.parity.filter (· != x) }) })

/-- R238, R243: the WRITEs whose pages and parity have all been programmed complete. -/
def endWrites (s : State) : State :=
  (s.flash.cmds.filter (fun c => c.op == 4 && c.started && c.units.isEmpty && c.parity.isEmpty)).foldl (fun s c =>
    flashEnd (s.modFlash (fun f => { f with writtenPages := f.writtenPages + extentPages c.off c.len })) c c.status) s

/-- R238: a page program of a WRITE finishes; one that fails is made again on another block. -/
def programDone (s : State) (id : Nat) (ok : Bool) (row slot : Nat) : State :=
  match s.fcmd? id with
  | none => s
  | some c =>
    if c.op ≠ 4 ∨ c.programs = 0 then s
    else if !ok then startPrograms 64 (s.modFCmd id (fun c => { c with programs := c.programs - 1 }))
    else match c.units, c.parity with
      | u :: _, _ => if s.flash.canPlace row slot then startPrograms 64 (programPage s c u row slot) else s
      | [], x :: _ => startPrograms 64 (endWrites (programParity s c x))
      | [], [] => s

/-- R247: one more host read of a WRITE leaves, or its request fails. -/
def askUnitPart (id : Nat) (s : State) (p : Nat × Nat) : State :=
  match s.fcmd? id with
  | none => s
  | some c =>
    let s := s.modFCmd id (fun c => { c with asked := c.asked + 1 })
    if s.reaches c.ctx (c.addr + p.1) p.2 false then s.askHost c.ctx (c.addr + p.1) p.2 (.unit id p.1) (flashReq s c)
    else (s.addrError c.ctx).modFCmd id (fun c => { c with landed := c.landed + 1, status := 6 })

/-- R247: a WRITE from host memory asks for as many of its requests as host tags are free, and starts its programs, or
ends, once all have landed. -/
def pumpUnits (s : State) (id : Nat) : State :=
  match s.fcmd? id with
  | none => s
  | some c =>
    let s := ((c.hostParts.drop c.asked).take (s.freeTags c.ctx)).foldl (askUnitPart id) s
    match s.fcmd? id with
    | some c =>
      if c.landed < c.hostParts.length then s
      else if c.status = 6 then flashEnd s c 6
      else startPrograms 64 s
    | none => s

/-- R248: a host read of a WRITE has ended. -/
def landUnitPart (s : State) (id ofs : Nat) (data : List Byte) (failed : Bool) : State :=
  match s.fcmd? id with
  | none => s
  | some c =>
    let s := if failed then breakForData s (flashReq s c) (resHost true) else s
    pumpUnits (s.modFCmd id (fun c => { c with
      landed := c.landed + 1, parts := tset data c.parts ofs,
      badParts := if failed then c.badParts ++ [ofs] else c.badParts })) id

/-! ### Reads (R239, R244, R245) -/

/-- R262: a unit of a kiln engine's READ: the bytes of it that the engine asked for. -/
def landSample (s : State) (e : Nat) (c : FCmd) (u : Nat) : State :=
  let g := tget Engine.reset s.kiln.engines e
  let from_ := max (4096 * u) (c.addr + g.lo)
  let to_ := min (4096 * u + 4096) (c.addr + g.hi)
  (s.engineLand e (from_ - c.addr) (s.flash.data.readBytes (flashKey c.obj from_) (to_ - from_))).progressAll
    (flashReq s c) [(resFlashRd, to_ - from_)]

/-- A unit of a READ lands, good or poisoned; the READ's status. For a kiln engine, `addr` is the sample's offset in the
object. -/
def landUnit (s : State) (c : FCmd) (u : Nat) (good : Bool) : Nat × State :=
  let a := c.addr + 4096 * (u - c.off)
  match c.origin with
  | .kiln e => if good then (c.status, landSample s e c u) else (5, s)
  | _ =>
    if good then
      (let (ok, s) := agentWriteAll s c.ctx a (s.flash.data.readBytes (flashKey c.obj (4096 * u)) 4096) [] (unitEnd 12)
       (if ok then c.status else 6, flashProgress s c a))
    else if addrKind a = .brick then
      (let (bs, s) := freeBytes s 4096
       let (ok, s) := agentWriteAll s c.ctx a bs (codewords a 4096) (unitEnd 12)
       (if ok then 5 else 6, s))
    else (5, s)

/-- The units `us` of a READ land; the READ ends with its last unit, or at an address error. -/
def landUnits (s : State) (c : FCmd) (us : List Nat) (good : Bool) : State :=
  let here := us.filter (fun u => c.units.contains u)
  let (c, s) := here.foldl (fun (acc : FCmd × State) u =>
    if acc.1.status = 6 then acc
    else
      let (st, s) := landUnit acc.2 acc.1 u good
      ({ acc.1 with status := st }, s)) (c, s)
  let c := { c with units := if c.status = 6 then [] else c.units.filter (fun u => !here.contains u) }
  let s := if good || here.isEmpty then s else flashBreak s c
  let s := (s.modFCmd c.id (fun _ => { c with steppedAt := s.now })).modFlash Flash.prune
  if c.units.isEmpty then flashEnd s c c.status else s

/-- R244: READs of one page share its reading: units land at every READ in flight that waits on them. -/
def landShared (s : State) (obj : Nat) (us : List Nat) (good : Bool) : State :=
  (s.flash.cmds.filter (fun c => c.op == 3 && c.started && c.obj == obj && c.units.any (fun u => us.contains u))).foldl
    (fun s c => match s.fcmd? c.id with | some c => landUnits s c us good | none => s) s

/-- The units of a page. -/
def pageUnits (p : Nat) : List Nat := (List.range 4).map (fun i => 4 * p + i)

/-- The read-retries made of a page whose decode failed. -/
def Flash.tries (f : Flash) (obj p : Nat) : Option Nat := (f.recover.find? (fun x => x.1 == (obj, p))).map (·.2)

/-- Notes the recovery of a page, or its end. -/
def setTries (s : State) (obj p : Nat) (n : Option Nat) : State :=
  s.modFlash (fun f =>
    let r := f.recover.filter (fun x => x.1 != (obj, p))
    { f with recover := match n with | some k => r ++ [((obj, p), k)] | none => r })

/-- R244: a decode failure repeats the test of R45 for an admitted request that waits on the page, with its deadline
660 µs nearer. -/
def recheckRead (s : State) (c : FCmd) : State :=
  match (flashReq s c).bind s.treq? with
  | none => s
  | some r =>
    let near := fun (e : LEntry) => if e.id = r.id then { e with deadline := e.deadline - 660000 } else e
    if r.res.all (fun x => ledgerPasses (s.capacity s.time.pp s.admShare x.1) s.resvPct s.now 0
        (sortLedger ((s.ledger x.1).map near))) then s
    else breakReq s r.id 2 0 resFlashRd

/-- The command and the unit name a page that a READ waits on. -/
def readWaits (s : State) (cmd unit : Nat) : Option FCmd :=
  (s.fcmd? cmd).filter (fun c => c.op == 3 && c.started && c.units.contains unit)

/-- R245: a unit is poisoned, for every READ that waits on it. -/
def poisonUnit (s : State) (obj unit : Nat) : State :=
  landShared (setUnitPoison (s.bump 0x18014 0 1) obj unit true) obj [unit] false

/-- The READs that wait on a page. -/
def pageWaiters (s : State) (obj p : Nat) : List FCmd :=
  s.flash.cmds.filter (fun x => x.op == 3 && x.started && x.obj == obj && x.units.any (fun u => pageOf u == p))

/-- R244, R246: the first read of a page, which a die that has failed does not serve. A page of a stripe that has lost two
pages is poisoned. -/
def pageRead (s : State) (cmd unit : Nat) (ok : Bool) : State :=
  match readWaits s cmd unit with
  | none => s
  | some c =>
    let p := pageOf unit
    if s.flash.pageLost c.obj p then poisonUnit s c.obj unit
    else if (s.flash.tries c.obj p).isSome || s.flash.pageDown c.obj p then s
    else
      let s := s.modFlash (fun f => f.countRead c.obj p)
      if ok then landShared s c.obj (pageUnits p) true
      else (pageWaiters s c.obj p).foldl recheckRead (setTries s c.obj p (some 0))

/-- R242, R244: a read-retry, of seven at most. -/
def pageRetry (s : State) (cmd unit : Nat) (ok : Bool) : State :=
  match readWaits s cmd unit with
  | none => s
  | some c =>
    let p := pageOf unit
    match s.flash.tries c.obj p with
    | none => s
    | some n =>
      if 7 ≤ n ∨ s.flash.pageDown c.obj p then s
      else
        let s := s.modFlash (fun f => (f.countRead c.obj p).noteRetry c.obj p)
        if ok then landShared ((setTries s c.obj p none).bump 0x1800C 0 1) c.obj (pageUnits p) true
        else setTries s c.obj p (some (n + 1))

/-- R244 to R246: the parity rebuild of a page, after seven retries or for a die that has failed; a failed one poisons
the unit. -/
def pageRebuild (s : State) (cmd unit : Nat) (ok : Bool) : State :=
  match readWaits s cmd unit with
  | none => s
  | some c =>
    let p := pageOf unit
    if s.flash.pageLost c.obj p then poisonUnit s c.obj unit
    else if decide ((s.flash.tries c.obj p).getD 0 < 7) && !s.flash.pageDown c.obj p then s
    else if ok then landShared ((setTries s c.obj p none).bump 0x18010 0 1) c.obj (pageUnits p) true
    else poisonUnit s c.obj unit

/-! ### Commands (R234 to R238) -/

/-- The tier takes commands. -/
def flashOn (s : State) : Bool := s.variant == .kv1a && s.flash.ready && s.power.units.getD 3 0 == 1

/-- The joint of a command. -/
def flJoint (d : Desc) : Option Nat := if fldBit d.bytes 17 0 then some (fldBits d.bytes 42 2 0 14) else none

/-- A command that completes at once. -/
def flashDone (s : State) (ctx ring : Nat) (d : Desc) (status : Nat) : State :=
  let s := match flJoint d with | some j => jointAddFor s ctx j 1 4 | none => s
  finishDesc s ctx ring d.abs status 0

/-- R236: a flash command of the ring starts: `op` with its meaning `k`, a reserved OP whichever command meets it. None
starts once stage 5 is declared (R250), or while another ring's goes first (R48). -/
def flashCmd (s : State) (ctx ring op : Nat) (k : State → Desc → State) : State :=
  match s.nextOf ctx ring 3 with
  | none => s
  | some d =>
    if s.variant = .kv1s then finishDesc s ctx ring d.abs 8 0
    else if s.power.stage5 then flashDone s ctx ring d 0xB
    else if !flashOn s || s.unitOutranked d then s
    else if flOp d.bytes = 0 ∨ 6 < flOp d.bytes then flashDone s ctx ring d 0xA
    else if flOp d.bytes ≠ op then s
    else k (s.startDesc ctx ring d.abs) d

/-- R234, R237, R238: why a command of a context on a live object fails; `ext` is the extent it names, if it names one. -/
def objFaultAt (s : State) (ctx obj : Nat) (ext : Option (Nat × Nat)) : Option Nat :=
  match s.fobj? obj with
  | none => some 1
  | some o =>
    if s.flash.cmds.any (fun c => c.op == 2 && c.obj == obj) then some 1
    else if o.ctx ≠ ctx then some 7
    else match ext with
      | some (off, len) => if len = 0 ∨ o.size < off + len then some 3 else none
      | none => none

/-- Why the command of a descriptor fails. -/
def objFault (s : State) (ctx : Nat) (b : List Byte) (extent : Bool) : Option Nat :=
  objFaultAt s ctx (flObj b) (if extent then some (flOff b, flLen b) else none)

/-- R234, R236: CREATE. -/
def flashMake (s : State) (ctx ring : Nat) (d : Desc) : State :=
  let b := d.bytes
  let total := s.flash.objs.foldl (fun n o => n + o.2.size) 0
  if flObj b = 0xFFFFFFFF then flashDone s ctx ring d 1
  else if (s.fobj? (flObj b)).isSome then flashDone s ctx ring d 2
  else if flLen b = 0 then flashDone s ctx ring d 3
  else if 1048576 ≤ s.flash.objs.length ∨ flashUnits < total + flLen b ∨ s.flash.readOnly then flashDone s ctx ring d 4
  else
    let o : FObj := { ctx := ctx, size := flLen b, poisoned := [] }
    flashDone (s.modFlash (fun f => { f with objs := tset o f.objs (flObj b),
                                             data := f.data.fill (flashKey (flObj b) 0) (4096 * flLen b) .zero })) ctx ring d 0

/-- R236: FLASH_CREATE. -/
def execFlashCreate (ctx ring : Nat) (s : State) : Host.Outcome State Fault Refusal :=
  .next (flashCmd s ctx ring 1 (fun s d => flashMake s ctx ring d))

/-- A command that goes into flight. -/
def flashFly (s : State) (ctx ring : Nat) (d : Desc) (stream : Option (Nat × Nat)) : FCmd × State :=
  let b := d.bytes
  let (id, s) := s.fresh
  let c : FCmd := {
    id := id, origin := .ring ring d.abs, ctx := ctx, op := flOp b, obj := flObj b, off := flOff b, len := flLen b,
    addr := flAddr b, stream := stream, joint := flJoint d, started := stream.isNone,
    units := (if flOp b = 2 then [] else (List.range (flLen b)).map (· + flOff b)), status := 0, programs := 0,
    parity := [], deferred := false, late := false, steppedAt := s.now, data := [], asked := 0, landed := 0, parts := [],
    badParts := [] }
  (c, s.modFlash (fun f => { f with cmds := f.cmds ++ [c] }))

/-- R238: DELETE. -/
def execFlashDelete (ctx ring : Nat) (s : State) : Host.Outcome State Fault Refusal :=
  .next (flashCmd s ctx ring 2 (fun s d =>
    match objFault s ctx d.bytes false with
    | some c => flashDone s ctx ring d c
    | none => flashDeletes (flashFly s ctx ring d none).2))

/-- R235: the device address is aligned and lies in bricks, a scratchpad or host memory. -/
def flashAddrOk (a align : Nat) : Bool :=
  a % align == 0 && (addrKind a == .brick || addrKind a == .scratch || addrKind a == .host)

/-- Some unit of an extent is poisoned. -/
def poisonedAt (s : State) (obj off len : Nat) : Bool :=
  match s.fobj? obj with
  | some o => o.poisoned.any (fun u => decide (off ≤ u) && decide (u < off + len))
  | none => false

/-- Some unit of the extent of a descriptor is poisoned. -/
def extentPoisoned (s : State) (b : List Byte) : Bool := poisonedAt s (flObj b) (flOff b) (flLen b)

/-- R15, R236, R239, R245: READ. A tile id that no tile has ends it with "address error" and no other effect. -/
def flashReadStart (s : State) (ctx ring : Nat) (d : Desc) : State :=
  let b := d.bytes
  let se := fldBit b 17 1
  match objFault s ctx b true with
  | some c => flashDone s ctx ring d c
  | none =>
    if se && decide (tileCount ≤ flTile b) then finishDesc s ctx ring d.abs 6 0
    else if se && !(s.ctx ctx).owns (flTile b) then flashDone s ctx ring d 7
    else if !flashAddrOk (flAddr b) 4096 then flashDone s ctx ring d 6
    else if extentPoisoned s b then flashDone (breakForData s d.treq resFlashRd) ctx ring d 5
    else (flashFly s ctx ring d (if se then some (flTile b, flStream b) else none)).2

/-- R236: FLASH_READ. -/
def execFlashRead (ctx ring : Nat) (s : State) : Host.Outcome State Fault Refusal :=
  .next (flashCmd s ctx ring 3 (fun s d => flashReadStart s ctx ring d))

/-- R239: the READ takes its credit. -/
def streamCredit (s : State) (c : FCmd) : State :=
  match c.stream with
  | none => s
  | some (t, n) =>
    match (s.tile t).hod.stream? n with
    | some x => if x.recv && decide (0 < x.credits) then
        (s.modStream t n (fun x => { x with credits := x.credits - 1 })).modFCmd c.id (fun c =>
          { c with started := true, steppedAt := s.now })
        else s
    | none => s

/-- R239: FLASH_READ_STREAM_START. -/
def execFlashReadStreamStart (cmd : Nat) (s : State) : Host.Outcome State Fault Refusal :=
  .next (match s.fcmd? cmd with
    | some c => if c.op = 3 && !c.started && !c.late then streamCredit s c else s
    | none => s)

/-- R239: FLASH_READ_CANCEL: a READ whose wait missed ends at a page boundary. -/
def execFlashReadCancel (cmd : Nat) (s : State) : Host.Outcome State Fault Refusal :=
  .next (match s.fcmd? cmd with
    | some c => if c.op = 3 && c.late then flashEnd s c 9 else s
    | none => s)

/-- R236, R238: WRITE. -/
def flashWriteStart (s : State) (ctx ring : Nat) (d : Desc) : State :=
  match objFault s ctx d.bytes true with
  | some c => flashDone s ctx ring d c
  | none =>
    if !flashAddrOk (flAddr d.bytes) 4096 then flashDone s ctx ring d 6
    else if s.flash.readOnly then flashDone s ctx ring d 4
    else
      let (c, s) := flashFly s ctx ring d none
      if c.fromHost then pumpUnits s c.id else startPrograms 64 s

/-- R238: FLASH_WRITE. -/
def execFlashWrite (ctx ring : Nat) (s : State) : Host.Outcome State Fault Refusal :=
  .next (flashCmd s ctx ring 4 (fun s d => flashWriteStart s ctx ring d))

/-- R236, R245: TRIM: the extent reads as zero and its poison goes. -/
def flashTrimRun (s : State) (ctx ring : Nat) (d : Desc) : State :=
  let b := d.bytes
  match objFault s ctx b true with
  | some c => flashDone s ctx ring d c
  | none =>
    let inExt := fun u => decide (flOff b ≤ u) && decide (u < flOff b + flLen b)
    let s := s.modFlash (fun f => { f.unplace (flObj b) (fun p => inExt (4 * p) && inExt (4 * p + 3)) with
      data := f.data.fill (flashKey (flObj b) (4096 * flOff b)) (4096 * flLen b) .zero })
    let s := match s.fobj? (flObj b) with
      | some o =>
        let o : FObj := { o with poisoned := o.poisoned.filter (fun u => !inExt u) }
        s.modFlash (fun f => { f with objs := tset o f.objs (flObj b) })
      | none => s
    flashDone s ctx ring d 0

/-- R236: FLASH_TRIM. -/
def execFlashTrim (ctx ring : Nat) (s : State) : Host.Outcome State Fault Refusal :=
  .next (flashCmd s ctx ring 5 (fun s d => flashTrimRun s ctx ring d))

/-- R237: the object record. -/
def statRecord (o : FObj) : List Byte :=
  leBytes 1 1 ++ leBytes 1 (b2n (!o.poisoned.isEmpty)) ++ leBytes 2 o.ctx ++ leBytes 4 o.size ++
    leBytes 4 o.poisoned.length ++ leBytes 4 (o.poisoned.headD 0xFFFFFFFF) ++ zeros 16

/-- R237: STAT. -/
def flashStatRun (s : State) (ctx ring : Nat) (d : Desc) : State :=
  match objFault s ctx d.bytes false, s.fobj? (flObj d.bytes) with
  | none, some o =>
    if !flashAddrOk (flAddr d.bytes) 32 then flashDone s ctx ring d 6
    else
      let (ok, s) := agentWriteAll s ctx (flAddr d.bytes) (statRecord o) [] (unitEnd 12)
      flashDone s ctx ring d (if ok then 0 else 6)
  | some c, _ => flashDone s ctx ring d c
  | none, none => flashDone s ctx ring d 1

/-- R237: FLASH_STAT. -/
def execFlashStat (ctx ring : Nat) (s : State) : Host.Outcome State Fault Refusal :=
  .next (flashCmd s ctx ring 6 (fun s d => flashStatRun s ctx ring d))

/-! ### Events of the tier -/

/-- R244: FLASH_PAGE_READ_DONE. -/
def execFlashPageReadDone (cmd unit : Nat) (ok : Bool) (s : State) : Host.Outcome State Fault Refusal :=
  .next (pageRead s cmd unit ok)

/-- R244: FLASH_READ_RETRY. -/
def execFlashReadRetry (cmd unit : Nat) (ok : Bool) (s : State) : Host.Outcome State Fault Refusal :=
  .next (pageRetry s cmd unit ok)

/-- R245: FLASH_REBUILD_DONE. -/
def execFlashRebuildDone (cmd unit : Nat) (ok : Bool) (s : State) : Host.Outcome State Fault Refusal :=
  .next (pageRebuild s cmd unit ok)

/-- R246: a command that the die should have answered has waited for FL_TIMEOUT: a READ of a page that stands on it, or a
program, of which the translation layer alone knows the die. -/
def dieOverdue (s : State) (die : Nat) : Bool :=
  s.flash.cmds.any (fun c => c.started && decide (c.steppedAt + 1000000 * s.regFld 0x18008 0 16 8 ≤ s.now) &&
    (c.op == 4 && decide (0 < c.programs) || c.op == 3 && c.units.any (fun u =>
      match s.flash.placeOf c.obj (pageOf u) with | some (r, k) => dieOf r k == die | none => false)))

/-- R246, R465: FLASH_DIE_TIMEOUT: the die has failed, and enters the pointing map. -/
def execFlashDieTimeout (die : Nat) (s : State) : Host.Outcome State Fault Refusal :=
  .next (if s.variant = .kv1s ∨ 16 ≤ die ∨ !dieOverdue s die then s
    else (pointPut s 4 die 1).modFlash (fun f =>
      let m := f.dieFailed ||| BitVec.ofNat 16 (2 ^ die)
      { f with dieFailed := m, readOnly := f.readOnly ||
          decide (2 ≤ ((List.range 16).filter (fun i => m.getLsbD i)).length) }))

/-- R242: a block of the row has been read to RD_LIMIT, or its reads needed read-retry. -/
def rowWorn (s : State) (row : Nat) : Bool :=
  s.flash.retried.contains row ||
    (List.range 16).any (fun d => decide (1000 * s.regFld 0x18008 0 0 16 ≤ tget 0 s.flash.reads (16 * row + d)))

/-- R242, R246: the row may be relocated without that: it holds slots without a valid page, another row has been erased
more than 256 times oftener, or a die of it has failed. -/
def rowStale (f : Flash) (row : Nat) : Bool :=
  decide ((f.place.filter (fun x => x.2.1 == row)).length < tget 0 f.fill row) ||
    f.erases.any (fun x => decide (tget 0 f.erases row + 256 < x.2)) || f.dieFailed != 0

/-- The first `n` slots of a free row that stand on dies in service. -/
def Flash.freeSlots (f : Flash) (row n : Nat) : List Nat :=
  ((List.range (2 * n + 32)).filter (fun k => !f.slotDown row k)).take n

/-- R242: the pages of a row move to the free row `dst`, and the row is erased. -/
def Flash.relocate (f : Flash) (row dst : Nat) : Flash :=
  let moved := (f.place.filter (fun x => x.2.1 == row)).zip (f.freeSlots dst ((f.place.filter (fun x => x.2.1 == row)).length))
  let e := tget 0 f.erases row + 1
  let top := f.erases.foldl (fun n x => max n x.2) e
  { f with
    place := f.place.filter (fun x => x.2.1 != row) ++ moved.map (fun x => (x.1.1, (dst, x.2))),
    fill := tdel (tset (moved.foldl (fun n x => max n (15 * (x.2 / 15 + 1))) 0) f.fill dst) row,
    erases := tset e f.erases row, reads := f.reads.filter (fun x => x.1 / 16 != row),
    retried := f.retried.filter (· != row), wearPct := min 255 (Config.flashWear top) }

/-- R242, R243: a row is relocated; for read disturb or retries the relocation is counted. -/
def relocateRow (s : State) (row dst : Nat) : State :=
  let f := s.flash
  if s.variant = .kv1s ∨ tget 0 f.fill row = 0 ∨ tget 0 f.fill dst ≠ 0 ∨ row = dst ∨ !f.opens dst ∨
    f.cmds.any (fun c => c.parity.any (fun x => x.1 == row)) ∨ !(rowWorn s row || rowStale f row) then s
  else
    (if rowWorn s row then s.bump 0x18018 0 1 else s).modFlash (fun f => f.relocate row dst)

/-- R242: FLASH_RELOCATE: no object changes. -/
def execFlashRelocate (row dst : Nat) (s : State) : Host.Outcome State Fault Refusal := .next (relocateRow s row dst)

/-- R388: TRANSLATION_LAYER_LOADED. -/
def execTranslationLayerLoaded (s : State) : Host.Outcome State Fault Refusal :=
  .next (if s.variant = .kv1a then s.modFlash (fun f => { f with ready := true }) else s)

/-- R250: at a safe stop every flash command that has not started ends; those whose descriptors still wait in their
rings end with them. A KV1-S answers UNIT_ABSENT instead (R2). -/
def flashStop (s : State) : State :=
  let s := (s.flash.cmds.filter (fun c => !c.started || c.op == 2 ||
    (c.op == 4 && c.programs == 0 && c.units.length == c.len))).foldl (fun s c => flashEnd s c 0xB) s
  s.ctxs.foldl (fun s c => c.2.sq.foldl (fun s q =>
    (q.2.out.filter (fun d => d.type == 3 && d.phase == .ready)).foldl (fun s d =>
      if s.variant = .kv1s then finishDesc s c.1 q.1 d.abs 8 0 else flashDone s c.1 q.1 d 0xB) s) s) s

/-! ### Host reads (R247, R248, R472) -/

/-- R247, R248: a host read has ended: its bytes go to what waits on it. Those of a failed read are poisoned. -/
def hostLand (s : State) (h : HostRead) (data : List Byte) (failed : Bool) : State :=
  match h.who with
  | .hod t tag => answerTag s t tag false data (if failed then codewords h.addr h.len else []) (unitEnd 8)
  | .copy ctx q abs ofs => landCopyPart s ctx q abs ofs data failed
  | .unit id ofs => landUnitPart s id ofs data failed
  | .engine e ofs =>
    if failed then breakForData (s.engineFails e) h.treq (resHost true)
    else (s.engineLand e ofs data).progressAll h.treq [(resHost true, h.len)]

/-- A host read ends without data: its bytes are free and poisoned. -/
def hostReadFails (s : State) (h : HostRead) : State :=
  let (bs, s) := freeBytes s h.len
  hostLand s h bs true

/-- The host tag is free again. -/
def dropHostRead (s : State) (tag : Nat) : State :=
  { s with hostReads := s.hostReads.filter (fun h => h.tag != tag) }

/-- R247, R248, R389: a completion arrives; one of an abandoned read is discarded. -/
def hostComplete (s : State) (h : HostRead) (status : Nat) (data : List Byte) : State :=
  let s := dropHostRead s h.tag
  if h.abandoned then s
  else if status = 0 then hostLand s h (fit h.len data) false
  else hostReadFails (s.bump 0x1900C 0 1) h

/-- R190: what a host read brings waits for a channel of its destination that is being trained. -/
def hostWaits (s : State) (h : HostRead) : Bool :=
  match h.who with
  | .copy ctx q abs ofs => (match s.desc? ctx q abs with
    | some d => s.stalled (cpDst d.bytes + ofs) h.len true
    | none => false)
  | _ => false

/-- R247: HOST_READ_COMPLETION. -/
def execHostReadCompletion (tag status : Nat) (data : List Byte) (s : State) : Host.Outcome State Fault Refusal :=
  .next (match s.hostReads.find? (fun h => h.tag == tag) with
    | some h => if hostWaits s h then s else hostComplete s h status data
    | none => s)

/-- R248: HOST_CPL_TIMEOUT. -/
def execHostCplTimeout (tag : Nat) (s : State) : Host.Outcome State Fault Refusal :=
  .next (match s.hostReads.find? (fun h => h.tag == tag) with
    | some h =>
      if h.sentAt + 1000000 * s.regFld 0x19008 0 0 6 ≤ s.now then
        (let s := dropHostRead s tag
         if h.abandoned then s else hostReadFails (s.bump 0x1900C 0 1) h)
      else s
    | none => s)

/-- R472: LATE_HOST_READ. -/
def execLateHostRead (tag : Nat) (s : State) : Host.Outcome State Fault Refusal :=
  .next (match s.hostReads.find? (fun h => h.tag == tag) with
    | some h => match h.treq with
      | some id => if h.sentAt + 1000 * s.regFld 0x19008 0 8 8 ≤ s.now && !h.abandoned then
          breakReq s id 4 0 (resHost true) else s
      | none => s
    | none => s)

end Sys2Proof.Machine
end

