-- ==== Sys2Proof/Machine/Coll.lean ====
section
/-! DEFINITION. The collective engine (R302 to R324): descriptors, setup laps, exact reductions, gathers, all-to-all,
permutes, votes and landings. The manual leaves the engine's use of the two ports open (R312, R116): here piece i of a
shard travels in the + direction when i is even. -/

namespace Sys2Proof.Machine

/-! ### Fields (R307, R309, R322) -/

def cdOp (b : List Byte) : Nat := fld b 16 1
def cdGroup (b : List Byte) : Nat := fldBits b 17 1 0 4
def cdPar (b : List Byte) : Nat := fldBits b 17 1 4 1
def cdJointEn (b : List Byte) : Bool := fldBit b 17 5
def cdStats (b : List Byte) : Bool := fldBit b 17 6
def cdKeep (b : List Byte) : Bool := fldBit b 17 7
def cdIn (b : List Byte) : Nat := fldBits b 18 1 0 4
def cdWire (b : List Byte) : Nat := fldBits b 18 1 4 4
def cdOut (b : List Byte) : Nat := fldBits b 19 1 0 4
def cdDiv (b : List Byte) : Nat := fldBits b 19 1 4 4
def cdContrib (b : List Byte) : Nat := fldBits b 20 1 0 7
def cdJoint (b : List Byte) : Nat := fldBits b 22 2 0 14
def cdSrc (b : List Byte) : Nat := fld b 24 6
def cdDst (b : List Byte) : Nat := fld b 30 6
def cdShard (b : List Byte) : Nat := fld b 36 4
def cdBase (b : List Byte) : Nat := fld b 40 8
def cdAux (b : List Byte) : Nat := fld b 48 6
def cdAuxCnt (b : List Byte) : Nat := fld b 54 2
def cdKeepObj (b : List Byte) : Nat := fld b 56 4
def cdKeepOff (b : List Byte) : Nat := fld b 60 4

/-- R309: bytes of an element in memory, and of 32 elements on the wire. -/
def collElem (f : Nat) : Nat := [4, 2, 2, 1, 1, 1, 1, 5, 4, 1].getD f 1
def collWire (f : Nat) : Nat := [128, 64, 64, 32, 32, 33, 33, 152, 120, 32].getD f 32

/-- The float format of a code. -/
def collFmt (f : Nat) : Fmt := if f = 0 then .fp32 else if f = 1 then .bf16 else if f = 2 then .fp16
  else if f = 3 || f = 5 then .e4m3 else .e5m2

def Coll.op (c : Coll) : Nat := cdOp c.bytes
def Coll.reduces (c : Coll) : Bool := c.op == 1 || c.op == 3
def Coll.narrow (c : Coll) : Bool := cdWire c.bytes == 8
/-- Blocks of a shard, and the number of the tensor's first block. -/
def Coll.shard (c : Coll) : Nat := cdShard c.bytes / 32
def Coll.first (c : Coll) : Nat := cdBase c.bytes / 32
/-- R308: bytes of one full tensor in IN_FMT. -/
def Coll.tensor (c : Coll) (len : Nat) : Nat := len * cdShard c.bytes * collElem (cdIn c.bytes)

/-- An entry of a permutation table. -/
structure PermEntry where
  off : Nat
  len : Nat
  peerOff : Nat
  peer : Nat
  round : Nat
  incoming : Bool
  deriving DecidableEq, Repr

/-- R322: the entries of a table. -/
def permEntries (t : List Byte) : List PermEntry :=
  (List.range (t.length / 16)).map (fun i =>
    { off := fld t (16 * i) 4, len := fld t (16 * i + 4) 4, peerOff := fld t (16 * i + 8) 4,
      peer := fld t (16 * i + 12) 2, round := fld t (16 * i + 14) 1, incoming := fldBit t (16 * i + 15) 0 })

/-- Two extents overlap. -/
def PermEntry.meets (a b : PermEntry) : Bool := decide (a.off < b.off + b.len) && decide (b.off < a.off + a.len)

/-- The rounds of a table are in ascending order. -/
def permSorted : List PermEntry → Bool
  | [] => true
  | [_] => true
  | a :: b :: r => decide (a.round ≤ b.round) && permSorted (b :: r)

/-- Incoming extents do not overlap one another. -/
def permDisjoint : List PermEntry → Bool
  | [] => true
  | a :: r => !r.any a.meets && permDisjoint r

/-- R322: the check of a member's own table, with its region and its staging area in bytes. -/
def permOk (es : List PermEntry) (region staging : Nat) : Bool :=
  permSorted es && es.all (fun e => decide (e.off + e.len ≤ region) && e.off % 32 == 0 && e.len % 32 == 0 &&
    e.peerOff % 32 == 0 && decide (32 ≤ e.len) && decide (e.len ≤ 2 ^ 31)) &&
  es.all (fun e => decide (((es.filter (fun x => !x.incoming && x.round == e.round)).map (·.len)).sum ≤ staging)) &&
  permDisjoint (es.filter (·.incoming)) &&
  es.all (fun e => !e.incoming || es.all (fun x => x.incoming || decide (x.round ≤ e.round) || !e.meets x))

/-! ### Validation (R308 to R310) -/

/-- R309: the legal combinations of formats, and R308: the limits of the fields. -/
def collFieldsOk (s : State) (ctx : Nat) (b : List Byte) : Bool :=
  let i := cdIn b
  let w := cdWire b
  let o := cdOut b
  let whole := cdShard b % 32 == 0 && cdBase b % 32 == 0
  if cdOp b = 1 || cdOp b = 3 then
    decide (i < 3) && (w == 7 || w == 8) && decide (o < 2) && decide (cdDiv b ≤ 12) && decide (1 ≤ cdContrib b) &&
      decide (cdContrib b ≤ 64) && whole
  else if cdOp b = 2 then
    whole && (i == 9 && w == 9 && o == 9 ||
      decide (i < 3) && decide (w < 7) && decide (o < 3) && (w == i || decide (1 ≤ w) && decide (collWire w < collWire i)) &&
        decide (collWire w ≤ 32 * collElem o))
  else if cdOp b = 4 then i == 9 && w == 9 && o == 9 && cdAuxCnt b % 32 == 0
  else if cdOp b = 5 then i == 9 && w == 9 && o == 9
  else if cdOp b = 6 then
    ((List.range 4).all (fun a => decide (((List.range 16).filter (fun g =>
      bitAt (cdAuxCnt b) g && (s.group ctx g).axis == a)).length ≤ 1)))
  else true

/-- R310: the status with which a descriptor ends before its setup lap. -/
def collFault (s : State) (ctx : Nat) (b : List Byte) : Option Nat :=
  if cdOp b = 0 || 7 < cdOp b then some 1
  else if !(s.group ctx (cdGroup b)).en ||
      cdOp b == 6 && (List.range 16).any (fun g => bitAt (cdAuxCnt b) g && !(s.group ctx g).en) then some 0xB
  else if !collFieldsOk s ctx b then some 1
  else if cdOp b = 2 && cdKeep b && s.variant = .kv1s then some 0xA
  else none

/-- R308: the fields that the setup lap compares. -/
def compared (b : List Byte) : List Nat :=
  if cdOp b = 1 || cdOp b = 2 || cdOp b = 3 then
    [cdOp b, cdPar b, cdShard b, cdBase b, cdIn b, cdWire b, cdOut b, cdDiv b, b2n (cdStats b)]
  else [cdOp b, cdPar b]

/-! ### Charges (R305, R311) -/

/-- Bytes of the flits that carry `n` bytes of collective data. -/
def collFlits (n : Nat) : Nat :=
  256 * (256 * (n / 65472) + (if n % 65472 = 0 then 0 else ceilDiv (n % 65472 + 64) 256))

/-- R308: the buffers that a descriptor names, with the bytes read of them or written to them: an exact reduction reads
its contributions once for each pass, and once more for the statistics of R324. -/
def collAreas (s : State) (ctx : Nat) (b : List Byte) : List (Nat × Nat × Bool) :=
  let len := (s.group ctx (cdGroup b)).len
  let e := collElem (cdIn b)
  let o := collElem (cdOut b)
  let k := cdShard b
  if cdOp b = 1 || cdOp b = 3 then
    List.replicate (if cdStats b then 3 else 2) (cdSrc b, cdContrib b * (len * k * e), false) ++
      [(cdDst b, (if cdOp b = 1 then 1 else len) * k * o, true)] ++ (if cdStats b then [(cdAux b, 32, true)] else [])
  else if cdOp b = 2 then [(cdSrc b, k * e, false), (cdDst b, len * k * o, true)]
  else if cdOp b = 4 then
    [(cdSrc b, k, false), (cdDst b, k, true), (cdAux b, 4 * len, false), (cdAux b + 4 * len, 8 * len, true)]
  else if cdOp b = 5 then
    [(cdDst b, 32 * k, false), (cdSrc b, cdBase b % 2 ^ 32, true), (cdSrc b, cdBase b % 2 ^ 32, false),
     (cdDst b, 32 * k, true), (cdAux b, 16 * cdAuxCnt b, false)]
  else if cdOp b = 7 then [(cdDst b, 32 * k, true)]
  else []

/-- R21: the slices of an axis at which a collective's reads and its writes meet the mortar: the + port's and the − port's.
DESIGN CHOICE (log entry 103). -/
def collRdEnd (s : State) (ctx group : Nat) : Nat := unitEnd (2 * (s.group ctx group).axis)
def collWrEnd (s : State) (ctx group : Nat) : Nat := unitEnd (2 * (s.group ctx group).axis + 1)

/-- R311: data that a member sends on each port of its ring: of a VOTE one flit for each member. -/
def collPortBytes (s : State) (ctx : Nat) (b : List Byte) : Nat :=
  let len := (s.group ctx (cdGroup b)).len
  let blocks := (len - 1) * (cdShard b / 32)
  let bb := collWire (cdWire b)
  if cdOp b = 1 then ceilDiv (4 * blocks + bb * blocks) 2
  else if cdOp b = 3 then ceilDiv (4 * blocks + 2 * bb * blocks) 2
  else if cdOp b = 2 then ceilDiv (bb * blocks) 2
  else if cdOp b = 4 then cdShard b
  else if cdOp b = 5 then 32 * cdShard b
  else 256 * len

/-- The ports that a collective's rings use. -/
def collPorts (s : State) (ctx : Nat) (b : List Byte) : List Nat :=
  let axes := if cdOp b = 7 then [] else (s.group ctx (cdGroup b)).axis :: (if cdOp b = 6 then
    ((List.range 16).filter (fun g => bitAt (cdAuxCnt b) g)).map (fun g => (s.group ctx g).axis) else [])
  (axes.flatMap (fun a => [2 * a, 2 * a + 1])).eraseDups

/-- R322: the table that a PERMUTE descriptor names. -/
def tableOf (s : State) (ctx : Nat) (b : List Byte) : List PermEntry :=
  if cdOp b = 5 then permEntries (s.bytesAt ctx (cdAux b) (16 * cdAuxCnt b)) else []

/-- The first port of the route to an entry's peer. -/
def PermEntry.port (s : State) (e : PermEntry) : Nat := hopPort (rtRoute (s.routeWord e.peer)) 0

/-- R311: the bytes, in whole flits, that a timed collective sends and receives at its ports. A PERMUTE's extents use the
ports of their peers, and each of its rounds has one barrier message of every member. -/
def collPortCharges (s : State) (ctx : Nat) (b : List Byte) : List (Nat × Nat) :=
  let ring := if cdOp b = 5 then
      256 * (s.group ctx (cdGroup b)).len * ((tableOf s ctx b).map (·.round)).eraseDups.length
    else if cdOp b = 6 then collPortBytes s ctx b
    else collFlits (collPortBytes s ctx b)
  ((tableOf s ctx b).filter (fun e => e.peer != 0xFFFF)).foldl
    (fun l e => addRes l (resPort (e.port s) e.incoming) (collFlits e.len))
    ((collPorts s ctx b).foldl (fun l p => addRes (addRes l (resPort p false) ring) (resPort p true) ring) [])

/-- R305, R311: the charges of a timed collective, and the hops of its longest path: its ports, the channels that it reads
and writes, and the links between these and the slices of the axis. -/
def collCharges (s : State) (ctx : Nat) (b : List Byte) : Charges :=
  (collAreas s ctx b).foldl (fun acc x =>
    s.chargeRange (if x.2.2 then collWrEnd s ctx (cdGroup b) else collRdEnd s ctx (cdGroup b)) x.1 x.2.1 x.2.2 acc)
    (collPortCharges s ctx b, 0)

/-! ### The parts of the state -/

def State.coll? (s : State) (ctx group : Nat) : Option Coll :=
  s.colls.find? (fun c => c.ctx == ctx && c.group == group && c.phase != .ended)

/-- Stores a collective over the one of the same group and sequence number. -/
def State.setColl (s : State) (c : Coll) : State :=
  { s with colls := s.colls.map (fun (x : Coll) => if x.ctx = c.ctx ∧ x.group = c.group ∧ x.seq = c.seq then c else x) }

def State.dropColl (s : State) (c : Coll) : State :=
  { s with colls := s.colls.filter (fun (x : Coll) => !(x.ctx == c.ctx && x.group == c.group && x.seq == c.seq)) }

def State.collGroup (s : State) (c : Coll) : Group := s.group c.ctx c.group

/-- The rank after `r`, in the + or the − direction. -/
def nextRank (len r : Nat) (plus : Bool) : Nat := if plus then (r + 1) % len else (r + len - 1) % len

def State.collDesc (s : State) (c : Coll) : Option Desc := s.desc? c.ctx c.ring c.abs

/-- The timed request of a collective. -/
def State.collReq (s : State) (c : Coll) : Option Nat := (s.collDesc c).bind (·.treq)

/-- R283: timed collectives use the timed class. -/
def State.collCls (s : State) (c : Coll) : Nat := if (s.collReq c).isSome then 0 else 1

/-- R190: a buffer of the descriptor lies in a channel whose accesses wait. -/
def collStalled (s : State) (ctx : Nat) (b : List Byte) : Bool :=
  (collAreas s ctx b).any (fun x => s.stalled x.1 x.2.1 x.2.2)

/-- R48: a collective's message of `n` bytes has passed a port: the remaining size there falls. -/
def State.portProgress (s : State) (c : Option Coll) (port : Nat) (rx : Bool) (n : Nat) : State :=
  s.progressAll (c.bind s.collReq) [(resPort port rx, max 256 (collFlits n))]

/-- A read of a collective, by the + port's slice: its timed request falls by what was read, and breaks where the data is
uncorrectable (R51). -/
def collRead (s : State) (c : Coll) (a n : Nat) : RdOut × State :=
  let e := collRdEnd s c.ctx c.group
  let (d, s) := agentReadAll s c.ctx a n e
  (d, breakForWords (s.progressAll (s.collReq c) (s.chargeRange e a n false ([], 0)).1) (s.collReq c) d.bad)

/-- A write of a collective, by the − port's slice. -/
def collWrite (s : State) (c : Coll) (a : Nat) (data : List Byte) (bad : List Nat) : Bool × State :=
  let e := collWrEnd s c.ctx c.group
  let (ok, s) := agentWriteAll s c.ctx a data bad e
  (ok, s.progressAll (s.collReq c) (s.chargeRange e a data.length true ([], 0)).1)

/-- Sends a collective message on a port of the axis. -/
def collSend (s : State) (ctx group port cls status : Nat) (sub data : List Byte) : Sent × State :=
  let (r, s) := sendOn s (s.portEntry port) cls (msgHeader 4 status ctx group 0 (32 + data.length) s.coord ++ sub ++ data)
    ctx group
  (r, if r = .sent then s.portProgress (s.coll? ctx group) port false data.length else s)

/-- The data of a collective message. -/
def collData (bs : List Byte) : List Byte := slice bs 64 (msgLen bs - 32)

/-- The sub-header of a collective's message. -/
def collSub (s : State) (c : Coll) (kind origin first count total : Nat) : List Byte :=
  subHeader kind c.op (s.collGroup c).axis (cdPar c.bytes) origin c.seq first count total

/-- Sends a message of a collective in one direction of its ring. -/
def Coll.send (c : Coll) (s : State) (plus : Bool) (kind status origin first count total : Nat) (data : List Byte) : State :=
  (collSend s c.ctx c.group ((s.collGroup c).port plus) (s.collCls c) status (collSub s c kind origin first count total) data).2

/-- A message came from the module at the end of a route entry: the way back is the entry's route. -/
def fromPeer (s : State) (m : RxMsg) (e : Nat) : Bool :=
  let w := s.routeWord e
  let n := m.vc % 8 + 1
  rtValid w && rtHopsM1 w + 1 == n && bits (rtRoute w) 0 (3 * n) == reverseRoute m.route n

/-- The message travels in the + direction of its axis: it came in at the − port, or by that port's stand-in (R352). -/
def movesPlus (s : State) (port : Nat) (m : RxMsg) : Bool :=
  if port / 2 = subAxis m.bytes then port % 2 == 1 else fromPeer s m (s.portEntry (2 * subAxis m.bytes + 1))

/-- A message goes on in its direction, as a new one-hop message (R321). -/
def collForward (s : State) (port : Nat) (m : RxMsg) (origin total : Nat) (data : List Byte) : State :=
  let b := m.bytes
  (collSend s (msgCtx b) (msgTag b) (2 * subAxis b + b2n (!movesPlus s port m)) (m.vc / 8) (msgStatus b)
    (subHeader (subKind b) (subOp b) (subAxis b) (subPar b) origin (subSeq b) (subFirst b) (subCount b) total) data).2

/-- A collective message of a kind. -/
def isColl (kind : Nat) (m : RxMsg) : Bool := msgOp m.bytes == 4 && subKind m.bytes == kind

/-- The collective in progress to which a message belongs; its TAG is the group's number, the same on every member. -/
def collOf (s : State) (b : List Byte) : Option Coll :=
  s.colls.find? (fun c => c.ctx == msgCtx b && c.group == msgTag b && (s.collGroup c).axis == subAxis b &&
    c.op == subOp b && c.seq == subSeq b)

/-- The group of a message, if it is enabled here on the message's axis. -/
def axisGroup (s : State) (b : List Byte) : Option Nat :=
  (List.range 16).find? (fun g => g == msgTag b && (s.group (msgCtx b) g).en && (s.group (msgCtx b) g).axis == subAxis b)

/-- The collective of a message has ended here, or was never to start: its sequence number has passed. -/
def collStale (s : State) (b : List Byte) : Bool :=
  (collOf s b).isNone && (match axisGroup s b with
    | some g => decide (subSeq b < (s.group (msgCtx b) g).seq.toNat)
    | none => false)

/-! ### Completion (R310, R314, R315) -/

/-- Contents that a failed collective leaves undefined, within what the context reaches. -/
def undefRange (s : State) (ctx a n : Nat) : State :=
  (requests a a n).foldl (fun s p =>
    if !s.reaches ctx (a + p.1) p.2 true then s
    else if addrKind a = .host then
      (let (g, s) := s.draw
       { s with hostMem := s.hostMem.fill (s.hostAddr ctx (a + p.1)) p.2 (.undef (g + 1)) })
    else if addrKind a = .regs then s
    else s.undefine (a + p.1) p.2) s

/-- The table of a PERMUTE, kept as it was checked. -/
def Coll.perm (c : Coll) : List PermEntry := permEntries (tget [] c.wire 0)

/-- The extents of memory that the operation targets. -/
def collTargets (s : State) (c : Coll) : List (Nat × Nat) :=
  let b := c.bytes
  let len := (s.collGroup c).len
  if c.op = 1 then [(cdDst b, cdShard b * collElem (cdOut b))]
  else if c.op = 2 || c.op = 3 then [(cdDst b, len * cdShard b * collElem (cdOut b))]
  else if c.op = 4 then [(cdDst b, cdShard b)]
  else if c.op = 5 then (c.perm.filter (·.incoming)).map (fun e => (cdDst b + e.off, e.len))
  else []

/-- R304: an abort message, sent in both directions. -/
def collAbort (s : State) (c : Coll) : State :=
  let g := s.collGroup c
  let s := c.send s true 9 0 g.rank 0 0 0 []
  if g.len = 2 then s else c.send s false 9 0 g.rank 0 0 0 []

/-- A collective ends with a status. -/
def collFinish (s : State) (c : Coll) (status : Nat) : State :=
  let bad := status == 4 || status == 5 || status == 6 || status == 7
  let s := if bad then s.setStepPoison c.ctx (cdPar c.bytes) true else s
  let s := if status == 2 || status == 4 || status == 5 then s.bump 0x1C020 0 1 else s
  let s := if bad && c.wrote || status == 2 && c.mismatch then
    (collTargets s c).foldl (fun s r => undefRange s c.ctx r.1 r.2) s else s
  let s := if status == 4 || status == 6 || status == 7 then collAbort s c else s
  let s := kvDone s c.kvUser
  let s := if (status == 2 || status == 3) && decide (c.seen.length + 1 < (s.collGroup c).len) then
    s.setColl { c with phase := .ended } else s.dropColl c
  let s := if cdJointEn c.bytes then jointAddFor s c.ctx (cdJoint c.bytes) 1 (s.collGroup c).axis else s
  finishDesc s c.ctx c.ring c.abs status 0

/-! ### Starting (R303, R304) -/

/-- The waiting collectives of a group. -/
def waitingColls (s : State) (ctx group : Nat) : List (Nat × Desc) :=
  (s.ctx ctx).sq.flatMap (fun q => (q.2.out.filter (fun d =>
    d.type == 5 && d.phase == .waiting && cdGroup d.bytes == group)).map (fun d => (q.1, d)))

/-- R303: the collective submitted first. -/
def firstColl : List (Nat × Desc) → Option (Nat × Desc)
  | [] => none
  | x :: r => match firstColl r with
    | none => some x
    | some y => if x.2.order ≤ y.2.order then some x else some y

/-- The setup message of a member: the descriptor from byte 16 on, the rank that sent it on, whether a mismatch was
found, and the last round of a PERMUTE. -/
def setupData (b : List Byte) (rank : Nat) (bad : Bool) (rounds : Nat) : List Byte :=
  slice b 16 48 ++ leBytes 1 rank ++ leBytes 1 (b2n bad) ++ leBytes 1 rounds

/-- R304: the collective starts: its group's sequence number rises, and its setup message leaves. A link of its ring
that is already down is LINK_LOSS. -/
def collLaunch (s : State) (c : Coll) : State :=
  let b := c.bytes
  let g := s.collGroup c
  if c.op = 7 then
    (if cdShard b = 0 then collFinish s c 0
     else s.setColl { c with phase := .land, missing := [(cdDst b, 32 * cdShard b)] })
  else if !(collPorts s c.ctx b).all s.portUp then collFinish s c 6
  else
    let (r, s) := collSend s c.ctx c.group (g.port true) (s.collCls c) 0
      (collSub s c 1 g.rank c.first (cdShard b) (if c.reduces then cdContrib b else 0)) (setupData b g.rank false c.rounds)
    if r = .sent then s else collFinish s c 6

/-- The extents of the pool that a collective's buffers overlap (R172). -/
def collOverPool (s : State) (c : Coll) : Bool :=
  (collAreas s c.ctx c.bytes).any (fun x => s.overPool x.1 (x.1 + x.2.1))

/-- R303, R322: a descriptor starts, or ends before its setup lap. -/
def collStart (s : State) (ctx ring : Nat) (d : Desc) : State :=
  let b := d.bytes
  let s := s.startDesc ctx ring d.abs
  match collFault s ctx b with
  | some st => finishDesc s ctx ring d.abs st 0
  | none =>
    let (t, s) := if cdOp b = 5 then agentReadAll s ctx (cdAux b) (16 * cdAuxCnt b) (collRdEnd s ctx (cdGroup b))
      else (({ ok := true, data := [], bad := [] } : RdOut), s)
    let es := permEntries t.data
    let s := breakForWords (s.progressAll d.treq (if cdOp b = 5 then
        (s.chargeRange (collRdEnd s ctx (cdGroup b)) (cdAux b) (16 * cdAuxCnt b) false ([], 0)).1 else [])) d.treq t.bad
    if !t.ok || !t.bad.isEmpty then finishDesc (s.setStepPoison ctx (cdPar b) true) ctx ring d.abs 7 0
    else if cdOp b = 5 && !permOk es (32 * cdShard b) (cdBase b % 2 ^ 32) then finishDesc s ctx ring d.abs 1 0
    else
      let g := s.group ctx (cdGroup b)
      let c : Coll := {
        ctx := ctx, group := cdGroup b, ring := ring, abs := d.abs, bytes := b, phase := .setup, seq := g.seq.toNat,
        startedAt := s.now, seen := [], own := false, total := 0, heads := [], headLeft := 0, sums := [], left := 0,
        counts := [], stats := [], mismatch := false, round := 0, rounds := es.foldl (fun n e => max n e.round) 0,
        lapBack := false, lapSeen := 0, missing := [], wire := (if cdOp b = 5 then [(0, t.data)] else []),
        wrote := false, keepLeft := 0, keepBad := false, kvUser := none }
      let (u, s) := kvUse s (collOverPool s c)
      let c := { c with kvUser := u }
      let s := s.setGroup ctx (cdGroup b) { g with seq := g.seq + 1 }
      collLaunch { s with colls := s.colls ++ [c] } c

/-- R303: a group that is free takes its next collective; one that ends at once makes way for the next. -/
def collKick : Nat → State → Nat → Nat → State
  | 0, s, _, _ => s
  | n + 1, s, ctx, group =>
    if (s.coll? ctx group).isSome then s
    else match firstColl (waitingColls s ctx group) with
      | none => s
      | some (q, d) => collKick n (collStart s ctx q d) ctx group

/-- Enough turns for all that wait. -/
def collNext (s : State) (ctx group : Nat) : State := collKick ((waitingColls s ctx group).length + 1) s ctx group

/-- A collective ends, and its group goes on. -/
def collEnd (s : State) (c : Coll) (status : Nat) : State := collNext (collFinish s c status) c.ctx c.group

/-- A collective descriptor is taken. `op` is the row's; a reserved OP completes whichever command meets it. One with a
buffer in a channel that trains waits for the channel (R190). -/
def collTake (s : State) (ctx ring op : Nat) : State :=
  match s.nextOf ctx ring 5 with
  | none => s
  | some d =>
    let o := cdOp d.bytes
    if o != op && o != 0 && decide (o ≤ 7) || collStalled s ctx d.bytes then s
    else collNext (s.modDesc ctx ring d.abs (fun d => { d with phase := .waiting })) ctx (cdGroup d.bytes)

/-- R306, R312: COLL_REDUCE_SCATTER. -/
def execCollReduceScatter (ctx ring : Nat) (s : State) : Host.Outcome State Fault Refusal := .next (collTake s ctx ring 1)

/-- R306, R318: COLL_ALL_GATHER. -/
def execCollAllGather (ctx ring : Nat) (s : State) : Host.Outcome State Fault Refusal := .next (collTake s ctx ring 2)

/-- R306, R313: COLL_ALL_REDUCE. -/
def execCollAllReduce (ctx ring : Nat) (s : State) : Host.Outcome State Fault Refusal := .next (collTake s ctx ring 3)

/-- R306, R320: COLL_ALL_TO_ALL. -/
def execCollAllToAll (ctx ring : Nat) (s : State) : Host.Outcome State Fault Refusal := .next (collTake s ctx ring 4)

/-- R306, R322: COLL_PERMUTE. -/
def execCollPermute (ctx ring : Nat) (s : State) : Host.Outcome State Fault Refusal := .next (collTake s ctx ring 5)

/-- R306, R317: COLL_VOTE. -/
def execCollVote (ctx ring : Nat) (s : State) : Host.Outcome State Fault Refusal := .next (collTake s ctx ring 6)

/-- R305, R306: COLL_LAND. -/
def execCollLand (ctx ring : Nat) (s : State) : Host.Outcome State Fault Refusal := .next (collTake s ctx ring 7)

/-! ### LAND (R305) -/

/-- What is left of ranges once [a, a + n) has landed. -/
def rangesMinus (rs : List (Nat × Nat)) (a n : Nat) : List (Nat × Nat) :=
  rs.flatMap (fun r =>
    (if r.1 < a then [(r.1, min r.2 (a - r.1))] else []) ++
    (if a + n < r.1 + r.2 then [(max r.1 (a + n), r.1 + r.2 - max r.1 (a + n))] else [])) |>.filter (fun r => 0 < r.2)

/-- R305: bytes of an incoming write have landed. -/
def collLanded (s : State) (ctx a n : Nat) : State :=
  (s.colls.filter (fun c => c.ctx == ctx && c.phase == .land)).foldl (fun s c =>
    let rest := rangesMinus c.missing a n
    if rest == c.missing then s
    else
      let s := s.progressAll (s.collReq c) (s.chargeRange (collWrEnd s c.ctx c.group) a n true ([], 0)).1
      if rest.isEmpty then collEnd s c 0 else s.setColl { c with missing := rest }) s

/-! ### Sources and pieces -/

/-- Elements `e` bytes wide of a read at `a`, each with its poison mark. -/
def elemsOf (f : Fmt) (e a : Nat) (d : RdOut) : List (Val × Bool) :=
  (List.range (d.data.length / e)).map (fun i =>
    (f.decode (fld d.data (e * i) e), d.bad.contains ((a + e * i) / 32) || d.bad.contains ((a + e * i + e - 1) / 32)))

/-- A list cut in runs of `n`. -/
def cutRuns {α : Type} (n : Nat) (l : List α) : List (List α) :=
  (List.range (ceilDiv l.length n)).map (fun i => (l.drop (n * i)).take n)

/-- Blocks [first, first + count) of every contribution of this member. -/
def readBlocks (s : State) (c : Coll) (first count : Nat) : Option (List (List (List (Val × Bool)))) × State :=
  let e := collElem (cdIn c.bytes)
  (List.range (cdContrib c.bytes)).foldl (fun (acc : Option (List (List (List (Val × Bool)))) × State) i =>
    match acc.1 with
    | none => acc
    | some l =>
      let a := cdSrc c.bytes + i * c.tensor (s.collGroup c).len + first * 32 * e
      let (d, s) := collRead acc.2 c a (count * 32 * e)
      (if d.ok then some (l ++ [cutRuns 32 (elemsOf (collFmt (cdIn c.bytes)) e a d)]) else none, s)) (some [], s)

/-- Pieces of `m` blocks of a shard: index, first block, blocks. -/
def pieces (n m : Nat) : List (Nat × Nat × Nat) :=
  (List.range (ceilDiv n m)).map (fun i => (i, i * m, min m (n - i * m)))

/-- The pieces that travel in a direction. -/
def piecesOf (n m : Nat) (plus : Bool) : List (Nat × Nat × Nat) :=
  (pieces n m).filter (fun p => (p.1 % 2 == 0) == plus)

/-- R311: blocks of `w` bytes that one message carries. -/
def pieceBlocks (w : Nat) : Nat := min 2048 (65472 / w)

/-! ### Exact reduction (R312 to R314) -/

/-- Part of a list. -/
def part {α : Type} (l : List α) (o n : Nat) : List α := (l.drop o).take n

/-- A list with `x` laid over it from `o` on. -/
def overlay {α : Type} (l : List α) (o : Nat) (x : List α) : List α := l.take o ++ x ++ l.drop (o + x.length)

/-- Header bytes of blocks. -/
def headBytes (hs : List (Nat × Nat)) : List Byte := hs.flatMap (fun h => leBytes 1 h.1 ++ leBytes 1 h.2)
def bytesHeads (bs : List Byte) : List (Nat × Nat) :=
  (List.range (bs.length / 2)).map (fun i => (fld bs (2 * i) 1, fld bs (2 * i + 1) 1 % 8))

/-- R113: the own headers of blocks, and the flags of rounding at the local exponents. -/
def ownHeads (c : Coll) (count : Nat) (bs : List (List (List (Val × Bool)))) : List (Nat × Nat) × Nat :=
  (bs.foldl (fun h k => List.zipWith bbfJoin h (k.map (bbfHead c.narrow))) (List.replicate count (0, 0)),
   bs.foldl (fun g k => k.foldl (fun g v => g ||| (bbfEncode c.narrow (bbfHead c.narrow v).1 v).2) g) 0)

/-- R312: the own contributions to blocks, encoded at the agreed exponents and added; none where a source lies out of
reach. -/
def ownSums (s : State) (c : Coll) (first count : Nat) : Option (List (List Int)) × State :=
  let hs := part c.heads first count
  let (r, s) := readBlocks s c first count
  match r with
  | none => (none, s)
  | some bs =>
    let enc := bs.map (fun k => List.zipWith (fun (h : Nat × Nat) v => bbfEncode c.narrow h.1 v) hs k)
    (some (enc.foldl (fun a k => List.zipWith addInts a (k.map (·.1))) (List.replicate count (List.replicate 32 0))),
     raiseCtx s c.ctx (enc.foldl (fun g k => k.foldl (fun g x => g ||| x.2) g) 0))

/-- Packed blocks. -/
def packBlocks (c : Coll) (first count : Nat) (ms : List (List Int)) : List Byte :=
  (List.zipWith (fun (x : Nat × (Nat × Nat)) m => bbfPack c.narrow x.2 count (c.first + first + x.1) m)
    ((part c.heads first ms.length).zipIdx.map (fun x => (x.2, x.1))) ms).flatten

/-- Unpacked blocks: the contributions that the first counts, and the mantissas. -/
def unpackBlocks (c : Coll) (bs : List Byte) : Nat × List (List Int) :=
  let w := bbfBytes c.narrow
  let l := (List.range (bs.length / w)).map (fun i => bbfUnpack c.narrow (slice bs (w * i) w))
  ((l.headD (0, [])).1, l.map (·.2))

/-- R324: LOCAL_SQ, and the own shard's part of GLOBAL_SQ, with their flags; none where a source lies out of reach. -/
def collNorms (s : State) (c : Coll) : Option ((Word × Word) × Nat) × State :=
  let n := (s.collGroup c).len * c.shard
  let (r, s) := readBlocks s c 0 n
  match r with
  | none => (none, s)
  | some bs =>
    let norm := fun k => sumSquares (List.zipWith (fun (h : Nat × Nat) v => bbfSquare 0 h.1 (bbfEncode c.narrow h.1 v).1) c.heads k)
    let norms := bs.map norm
    let all := sumWords (norms.map (·.1))
    let own := part c.heads ((s.collGroup c).rank * c.shard) c.shard
    let sums := (List.range c.shard).map (fun i => tget [] c.sums i)
    let mine := sumSquares (List.zipWith (fun (h : Nat × Nat) m => bbfSquare (cdDiv c.bytes) h.1 m) own sums)
    (some ((all.1, mine.1), norms.foldl (fun g x => g ||| x.2) (all.2 ||| mine.2)), s)

/-- R324: the header pass has found POISON: the norms are NaN. -/
def Coll.poisoned (c : Coll) : Bool := c.heads.any (fun h => bitAt h.2 0)

/-- R324: the statistics record, once every member's values are here. -/
def statsEnd (s : State) (c : Coll) : State :=
  let g := s.collGroup c
  let poi := c.poisoned
  let val := fun (w : Word) => leBytes 4 (if poi then Fmt.fp32.nan else w.toNat)
  let loc := sumWords (c.stats.map (fun x => x.2.1))
  let glob := sumWords (c.stats.map (fun x => x.2.2))
  let rec_ := leBytes 1 1 ++ leBytes 1 (b2n poi) ++ leBytes 2 g.len ++ leBytes 4 c.total ++
    val (tget (0, 0) c.stats g.rank).1 ++ val loc.1 ++ val glob.1 ++ zeros 4 ++ leBytes 8 s.now
  let s := raiseCtx s c.ctx (if poi then 0 else loc.2 ||| glob.2)
  let (ok, s) := collWrite s c (cdAux c.bytes) rec_ []
  collEnd s c (if ok then 0 else 7)

/-- R324: the own values go round the ring. -/
def statsStart (s : State) (c : Coll) : State :=
  let g := s.collGroup c
  let (r, s) := collNorms s c
  match r with
  | none => collEnd s c 7
  | some ((l, p), fl) =>
    let s := raiseCtx s c.ctx (if c.poisoned then 0 else fl)
    let c := { c with phase := .stats, stats := tset (l, p) c.stats g.rank }
    let s := c.send (s.setColl c) true 10 0 g.rank 0 16 0 (leBytes 8 l.toNat ++ leBytes 8 p.toNat)
    if c.stats.length = g.len then statsEnd s c else s

/-- All blocks of this member have been decoded. -/
def reduceDone (s : State) (c : Coll) : State := if cdStats c.bytes then statsStart s c else collEnd s c 0

/-- R115, R312, R313: summed blocks from local block `first` on are decoded and written. -/
def landSums (s : State) (c : Coll) (first : Nat) (ms : List (List Int)) : Bool × State :=
  let o := collElem (cdOut c.bytes)
  let base := if c.op = 1 then (s.collGroup c).rank * c.shard else 0
  let ds := List.zipWith (fun (h : Nat × Nat) m => bbfDecode c.narrow (collFmt (cdOut c.bytes)) (cdDiv c.bytes) h m)
    (part c.heads first ms.length) ms
  let s := raiseCtx (s.bump 0x1C018 0 ms.length) c.ctx (ds.foldl (fun g d => g ||| d.2) 0)
  collWrite s c (cdDst c.bytes + (first - base) * 32 * o) ((ds.flatMap (·.1)).flatMap (fun v => leBytes o v)) []

/-- Blocks have landed: the collective goes on when none is left. -/
def blocksLanded (s : State) (c : Coll) (ok : Bool) (n : Nat) (done : State → Coll → State) : State :=
  let c := { c with wrote := true, left := c.left - n }
  let s := s.setColl c
  if !ok then collEnd s c 7 else if c.left = 0 then done s c else s

/-- R312: the mantissa pass begins: the shards that start here leave. -/
def mantissaStart (s : State) (c : Coll) : State :=
  let g := s.collGroup c
  let bad := (c.heads.filter (fun h => bitAt h.2 0)).length
  let s := s.bump 0x1C01C 0 bad
  let s := if bad = 0 then s else s.setStepPoison c.ctx (cdPar c.bytes) true
  let c := { c with phase := .mantissa, left := if c.op = 1 then c.shard else g.len * c.shard }
  let s := s.setColl c
  let m := pieceBlocks (bbfBytes c.narrow)
  let (ok, s) := [true, false].foldl (fun (acc : Bool × State) plus =>
    let k := nextRank g.len g.rank (!plus)
    (piecesOf c.shard m plus).foldl (fun (acc : Bool × State) p =>
      if !acc.1 then acc
      else
        let first := k * c.shard + p.2.1
        let (r, s) := ownSums acc.2 c first p.2.2
        match r with
        | none => (false, s)
        | some ms => (true, c.send s plus 3 0 g.rank (c.first + first) p.2.2 0 (packBlocks c first (cdContrib c.bytes) ms)))
      acc) (true, s)
  if !ok then collEnd s c 7 else if c.left = 0 then reduceDone s c else s

/-- R312: the header pass begins. -/
def headerStart (s : State) (c : Coll) : State :=
  let g := s.collGroup c
  let n := g.len * c.shard
  let (r, s) := readBlocks s c 0 n
  match r with
  | none => collEnd s c 7
  | some bs =>
    let (hs, fl) := ownHeads c n bs
    let s := raiseCtx s c.ctx fl
    let c := { c with phase := .header, heads := hs, headLeft := n }
    let s := s.setColl c
    let s := [true, false].foldl (fun s plus =>
      let k := nextRank g.len g.rank (!plus)
      (piecesOf c.shard 2048 plus).foldl (fun s p =>
        let first := k * c.shard + p.2.1
        c.send s plus 2 0 g.rank (c.first + first) p.2.2 0 (headBytes (part hs first p.2.2))) s) s
    if n = 0 then mantissaStart s c else s

/-- R312: a header message: a shard's headers on their way to its owner, or the agreed ones on their way to all. -/
def headerPass (s : State) (port : Nat) (m : RxMsg) (c : Coll) : State :=
  let g := s.collGroup c
  let first := subFirst m.bytes - c.first
  let k := first / max 1 c.shard
  let hs := bytesHeads (collData m.bytes)
  let both := List.zipWith bbfJoin (part c.heads first hs.length) hs
  let agreed := fun (x : List (Nat × Nat)) =>
    { c with heads := overlay c.heads first x, headLeft := c.headLeft - x.length }
  let done := fun (s : State) (c : Coll) => if c.headLeft = 0 then mantissaStart s c else s
  if k = g.rank then
    done (collForward (s.setColl (agreed both)) port m g.rank 0 (headBytes both)) (agreed both)
  else if subOrigin m.bytes = k then
    (let s := s.setColl (agreed hs)
     done (if nextRank g.len g.rank (movesPlus s port m) = k then s else collForward s port m k 0 (headBytes hs)) (agreed hs))
  else collForward s port m g.rank 0 (headBytes both)

/-- R312, R313: a mantissa message: added and passed on, or complete at the shard's owner. -/
def mantissaPass (s : State) (port : Nat) (m : RxMsg) (c : Coll) : State :=
  let g := s.collGroup c
  let first := subFirst m.bytes - c.first
  let (cnt, ms) := unpackBlocks c (collData m.bytes)
  let (r, s) := ownSums s c first ms.length
  match r with
  | none => collEnd s c 7
  | some own =>
    let sum := List.zipWith addInts ms own
    let data := packBlocks c first (cnt + cdContrib c.bytes) sum
    if first / max 1 c.shard ≠ g.rank then collForward s port m g.rank 0 data
    else
      let (ok, s) := landSums s c first sum
      let s := if c.op = 3 then c.send s (movesPlus s port m) 4 0 g.rank (c.first + first) sum.length 0 data else s
      let sums := (sum.zipIdx (first - g.rank * c.shard)).foldl (fun t x => tset x.1 t x.2) c.sums
      let c := if cdStats c.bytes then { c with sums := sums } else c
      blocksLanded s c ok sum.length reduceDone

/-! ### Gathers (R318, R319) -/

/-- R86: elements of one format carried as they are, but for NaNs, which are canonical. -/
def carryBytes (f : Nat) (bs : List Byte) : List Byte :=
  if f = 9 then bs
  else (List.range 32).flatMap (fun k =>
    let v := fld bs (collElem f * k) (collElem f)
    leBytes (collElem f) (if (collFmt f).decode v = .nan then (collFmt f).nan else v))

/-- R318: 32 elements converted to the wire, with flags. `raw` are their bytes. -/
def toWire (cv : Conv) (i w : Nat) (raw : List Byte) : List Byte × Nat :=
  let e := collElem i
  let vs := (List.range 32).map (fun k => (collFmt i).decode (fld raw (e * k) e))
  if w = i then (carryBytes i raw, 0)
  else if w = 5 || w = 6 then
    (let (x, es, fl) := mxBlock (.float (collFmt w)) vs
     (leBytes 1 x ++ es.flatMap (fun v => leBytes 1 v), fl))
  else
    let rs := vs.map ((collFmt w).encode cv .rne)
    (rs.flatMap (fun r => leBytes (collElem w) r.1), rs.foldl (fun g r => g ||| r.2) 0)

/-- The values of 32 elements on the wire. -/
def wireVals (w : Nat) (bs : List Byte) : List Val :=
  if w = 5 || w = 6 then
    let x := fld bs 0 1
    (List.range 32).map (fun k =>
      if x = 0xFF then .nan
      else match (collFmt w).decode (fld bs (k + 1) 1) with
        | .fin n m e => .fin n m (e + x - 127)
        | v => v)
  else (List.range 32).map (fun k => (collFmt w).decode (fld bs (collElem w * k) (collElem w)))

/-- R318: 32 elements converted from the wire. -/
def fromWire (w o : Nat) (bs : List Byte) : List Byte × Nat :=
  if w = o then (carryBytes o bs, 0)
  else
    let rs := (wireVals w bs).map ((collFmt o).encode Conv.plain .rne)
    (rs.flatMap (fun r => leBytes (collElem o) r.1), rs.foldl (fun g r => g ||| r.2) 0)

/-- R318, R315: wire blocks from local block `first` on are converted and written; poisoned ones poison the step. -/
def landWire (s : State) (c : Coll) (first : Nat) (bad : Bool) (ws : List (List Byte)) : Bool × State :=
  let rs := ws.map (fromWire (cdWire c.bytes) (cdOut c.bytes))
  let s := raiseCtx s c.ctx (rs.foldl (fun g r => g ||| r.2) 0)
  let s := if bad then s.setStepPoison c.ctx (cdPar c.bytes) true else s
  let a := cdDst c.bytes + first * 32 * collElem (cdOut c.bytes)
  let data := rs.flatMap (·.1)
  collWrite s c a data (if bad then codewords a data.length else [])

/-- The runs of equal marks in a list: index of the first, mark, elements. -/
def markRuns {α : Type} : Nat → List (α × Bool) → List (Nat × Bool × List α)
  | _, [] => []
  | i, (x, b) :: r =>
    match markRuns (i + 1) r with
    | (j, b', l) :: t => if b = b' && j = i + 1 then (i, b, x :: l) :: t else (i, b, [x]) :: (j, b', l) :: t
    | [] => [(i, b, [x])]

/-- The KEEP writes that have all finished end their collective (R319). -/
def keepSweep (s : State) : State :=
  (s.colls.filter (fun c => c.phase == .keepWait && c.keepLeft == 0)).foldl (fun s c => collEnd s c (if c.keepBad then 9 else 0)) s

/-- R319: the gathered wire bytes go to flash as a WRITE of the context. -/
def keepStart (s : State) (c : Coll) : State :=
  let data := c.wire.flatMap (·.2)
  let n := ceilDiv data.length 4096
  let good := flashOn s && !s.flash.readOnly && (match s.fobj? (cdKeepObj c.bytes) with
    | some o => o.ctx == c.ctx && decide (cdKeepOff c.bytes + n ≤ o.size) &&
        !s.flash.cmds.any (fun x => x.op == 2 && x.obj == cdKeepObj c.bytes)
    | none => false)
  if n = 0 then collEnd s c 0
  else if !good then collEnd s c 9
  else
    let (id, s) := s.fresh
    let f : FCmd := {
      id := id, origin := .keep c.group, ctx := c.ctx, op := 4, obj := cdKeepObj c.bytes, off := cdKeepOff c.bytes,
      len := n, addr := 0, stream := none, joint := none, started := true,
      units := (List.range n).map (· + cdKeepOff c.bytes), status := 0, programs := 0, parity := [], deferred := false, late := false,
      steppedAt := s.now, data := data, asked := 0, landed := 0, parts := [], badParts := [] }
    let s := s.setColl { c with phase := .keepWait, keepLeft := 1, wire := [] }
    startPrograms 64 (s.modFlash (fun x => { x with cmds := x.cmds ++ [f] }))

/-- R238, R319: FLASH_PROGRAM_DONE. -/
def execFlashProgramDone (cmd : Nat) (ok : Bool) (row slot : Nat) (s : State) : Host.Outcome State Fault Refusal :=
  .next (keepSweep (programDone s cmd ok row slot))

/-- Every block of the gather has landed. -/
def gatherDone (s : State) (c : Coll) : State := if cdKeep c.bytes then keepStart s c else collEnd s c 0

/-- Blocks kept for flash. -/
def Coll.keepBlocks (c : Coll) (first : Nat) (ws : List (List Byte)) : Coll :=
  if cdKeep c.bytes then { c with wire := (ws.zipIdx first).foldl (fun t x => tset x.1 t x.2) c.wire } else c

/-- R318: the own shard is converted, lands, and leaves in pieces of equal marks. -/
def gatherStart (s : State) (c : Coll) : State :=
  let g := s.collGroup c
  let b := c.bytes
  let e := collElem (cdIn b)
  let (d, s) := collRead s c (cdSrc b) (cdShard b * e)
  if !d.ok then collEnd s c 7
  else
    let cv := s.arithConv c.ctx
    let blocks := (cutRuns (32 * e) d.data).map (toWire cv (cdIn b) (cdWire b))
    let marked := blocks.zipIdx.map (fun x =>
      (x.1.1, (List.range (32 * e)).any (fun k => d.bad.contains ((cdSrc b + 32 * e * x.2 + k) / 32))))
    let s := raiseCtx s c.ctx (blocks.foldl (fun g r => g ||| r.2) 0)
    let base := g.rank * c.shard
    let c := { (c.keepBlocks base (blocks.map (·.1))) with phase := .gather, left := g.len * c.shard }
    let s := s.setColl c
    let m := pieceBlocks (collWire (cdWire b))
    let s := (pieces c.shard m).foldl (fun s p => (markRuns p.2.1 (part marked p.2.1 p.2.2)).foldl (fun s r =>
      c.send s (p.1 % 2 == 0) 4 (if r.2.1 then 2 else 0) g.rank (c.first + base + r.1) r.2.2.length 0 r.2.2.flatten) s) s
    let (ok, s) := (markRuns 0 marked).foldl (fun (acc : Bool × State) r =>
      if acc.1 then landWire acc.2 c (base + r.1) r.2.1 r.2.2 else acc) (true, s)
    blocksLanded s c ok c.shard gatherDone

/-- R313, R318: gather data: lands and goes on to the next member, if that is not its origin. -/
def gatherPass (s : State) (port : Nat) (m : RxMsg) (c : Coll) : State :=
  let g := s.collGroup c
  let first := subFirst m.bytes - c.first
  let data := collData m.bytes
  let s := if nextRank g.len g.rank (movesPlus s port m) = subOrigin m.bytes then s
    else collForward s port m (subOrigin m.bytes) 0 data
  if c.op = 3 then
    (let ms := (unpackBlocks c data).2
     let (ok, s) := landSums s c first ms
     blocksLanded s c ok ms.length reduceDone)
  else
    let ws := cutRuns (collWire (cdWire c.bytes)) data
    let (ok, s) := landWire s c first (msgStatus m.bytes == 2) ws
    blocksLanded s (c.keepBlocks first ws) ok ws.length gatherDone

/-! ### All-to-all (R320, R321) -/

/-- R320: what a receiver of capacity `cap` accepts of buckets in ascending source rank: whole buckets, then the whole
rows of the first that does not fit, then nothing. -/
def acceptBuckets (row : Nat) : Nat → Bool → List Nat → List Nat
  | _, _, [] => []
  | cap, cut, n :: r =>
    if cut then 0 :: acceptBuckets row cap true r
    else if n ≤ cap then n :: acceptBuckets row (cap - n) false r
    else cap / max 1 row * row :: acceptBuckets row 0 true r

/-- S[j] of source `i`. -/
def Coll.sent (c : Coll) (i j : Nat) : Nat := (tget [] c.counts i).getD j 0

/-- Bytes that rank `j` accepts from every rank. -/
def Coll.accepted (c : Coll) (len j : Nat) : List Nat :=
  acceptBuckets (cdAuxCnt c.bytes) ((tget [] c.counts j).getD len 0) false ((List.range len).map (fun i => c.sent i j))

/-- R321: the direction of the bucket from rank `r` to rank `j`. -/
def bucketPlus (len r j : Nat) : Bool :=
  let d := (j + len - r) % len
  decide (2 * d < len) || (2 * d == len && r % 2 == 0)

/-- R320: every bucket is here: the table's outputs are written. -/
def allToAllEnd (s : State) (c : Coll) : State :=
  let g := s.collGroup c
  let ranks := List.range g.len
  let got := c.accepted g.len g.rank
  let out := ranks.map (fun j => (c.accepted g.len j).getD g.rank 0)
  let lostIn := (ranks.map (fun i => c.sent i g.rank - got.getD i 0)).sum
  let lostOut := ((ranks.filter (· != g.rank)).map (fun j => c.sent g.rank j - out.getD j 0)).sum
  let s := s.bump 0x1C024 0 ((lostIn + lostOut) / 32)
  let (ok, s) := collWrite s c (cdAux c.bytes + 4 * g.len)
    (got.flatMap (fun n => leBytes 4 n) ++ out.flatMap (fun n => leBytes 4 n)) []
  collEnd s c (if !ok then 7 else if lostIn + lostOut = 0 then 0 else 8)

/-- Where the bucket of rank `i` lands at this member. -/
def Coll.bucketAddr (c : Coll) (len rank i : Nat) : Nat := cdDst c.bytes + ((c.accepted len rank).take i).sum

/-- Bytes of a bucket land. -/
def landBucket (s : State) (c : Coll) (i o : Nat) (bad : Bool) (data : List Byte) : Bool × State :=
  let g := s.collGroup c
  let a := c.bucketAddr g.len g.rank i + o
  let s := if bad then s.setStepPoison c.ctx (cdPar c.bytes) true else s
  collWrite s c a data (if bad then codewords a data.length else [])

/-- Bytes in units of 32, each with its mark. -/
def markedUnits (a : Nat) (d : RdOut) : List (List Byte × Bool) :=
  (cutRuns 32 d.data).zipIdx.map (fun x =>
    (x.1, d.bad.contains ((a + 32 * x.2) / 32) || d.bad.contains ((a + 32 * x.2 + 31) / 32)))

/-- R320: every count is here: the buckets leave, the own one is copied. -/
def bucketsStart (s : State) (c : Coll) : State :=
  let g := s.collGroup c
  let got := c.accepted g.len g.rank
  let c := { c with phase := .buckets, left := got.sum, wrote := true }
  let s := s.setColl c
  let (ok, s) := (List.range g.len).foldl (fun (acc : Bool × State) j =>
    if !acc.1 then acc
    else
      let n := (c.accepted g.len j).getD g.rank 0
      let a := cdSrc c.bytes + ((List.range j).map (c.sent g.rank)).sum
      let (d, s) := collRead acc.2 c a n
      let s := if d.bad.isEmpty then s else s.setStepPoison c.ctx (cdPar c.bytes) true
      if !d.ok then (false, s)
      else if j = g.rank then
        (markRuns 0 (markedUnits a d)).foldl (fun (acc : Bool × State) r =>
          if acc.1 then landBucket acc.2 c j (32 * r.1) r.2.1 r.2.2.flatten else acc) (true, s)
      else (true, (cutRuns 2046 (markedUnits a d)).zipIdx.foldl (fun s p =>
        (markRuns (2046 * p.2) p.1).foldl (fun s r =>
          let data := r.2.2.flatten
          c.send s (bucketPlus g.len g.rank j) 6 (if r.2.1 then 2 else 0) g.rank (32 * r.1) data.length j data) s) s)) (true, s)
  blocksLanded s c ok (got.getD g.rank 0) allToAllEnd

/-- R320: the own counts go round the ring. -/
def countsStart (s : State) (c : Coll) : State :=
  let g := s.collGroup c
  let (d, s) := collRead s c (cdAux c.bytes) (4 * g.len)
  if !d.ok || !d.bad.isEmpty then collEnd s c 7
  else
    let ns := (List.range g.len).map (fun i => fld d.data (4 * i) 4)
    let c := { c with phase := .counts, counts := tset (ns ++ [cdShard c.bytes]) c.counts g.rank }
    let s := c.send (s.setColl c) true 5 0 g.rank 0 (4 * g.len) (cdShard c.bytes) d.data
    if c.counts.length = g.len then bucketsStart s c else s

/-- R320: another member's counts. -/
def countsPass (s : State) (port : Nat) (m : RxMsg) (c : Coll) : State :=
  let g := s.collGroup c
  let o := subOrigin m.bytes
  let data := collData m.bytes
  let ns := (List.range g.len).map (fun i => fld data (4 * i) 4)
  let c := { c with counts := tset (ns ++ [subTotal m.bytes]) c.counts o }
  let s := s.setColl c
  let s := if nextRank g.len g.rank (movesPlus s port m) = o then s else collForward s port m o (subTotal m.bytes) data
  if c.phase = .counts && c.counts.length = g.len then bucketsStart s c else s

/-! ### Permutes (R322, R323) -/

/-- Bytes of [o, o + n) in an extent. -/
def within (o n : Nat) (e : PermEntry) : Nat := min (o + n) (e.off + e.len) - max o e.off

/-- R323: data for [o, o + n) of the region: what lies in an incoming extent of the round and the peer is written, the
rest discarded and counted. -/
def permLand (s : State) (c : Coll) (round o : Nat) (bad : Bool) (data : List Byte) (peer : Nat → Bool) : Bool × Coll × State :=
  let mine := c.perm.filter (fun e => e.incoming && e.round == round && peer e.peer)
  let s := if bad then s.setStepPoison c.ctx (cdPar c.bytes) true else s
  let good := if round = c.round then mine else []
  let taken := (good.map (within o data.length)).sum
  let (ok, s) := good.foldl (fun (acc : Bool × State) e =>
    let n := within o data.length e
    let lo := max o e.off
    if n = 0 || !acc.1 then acc
    else
      let a := cdDst c.bytes + lo
      collWrite acc.2 c a (slice data (lo - o) n) (if bad then codewords a n else [])) (true, s)
  let lost := data.length - taken
  let s := if lost = 0 then s else s.bump 0x1C028 0 (lost / 32)
  (ok, { c with wrote := true, mismatch := c.mismatch || lost != 0,
                left := if round = c.round then c.left - data.length else c.left }, s)

/-- The outgoing extents of a round, with their places in the staging area. -/
def stagePlaces : Nat → List PermEntry → List (Nat × PermEntry)
  | _, [] => []
  | o, e :: r => (o, e) :: stagePlaces (o + e.len) r

def Coll.outgoing (c : Coll) : List (Nat × PermEntry) :=
  stagePlaces (cdSrc c.bytes) (c.perm.filter (fun e => !e.incoming && e.round == c.round))

/-- R322: a round begins: its outgoing extents are copied to the staging area, and its barrier lap starts. -/
def roundStart (s : State) (c : Coll) : State :=
  let g := s.collGroup c
  let n := ((c.perm.filter (fun (e : PermEntry) => e.incoming && e.round == c.round)).map (fun (e : PermEntry) => e.len)).sum
  let c : Coll := { c with phase := .permute, lapBack := false, left := n }
  let (ok, bad, s) := c.outgoing.foldl (fun (acc : Bool × Bool × State) x =>
    if !acc.1 then acc
    else
      let a := cdDst c.bytes + x.2.off
      let (d, s) := collRead acc.2.2 c a x.2.len
      let (ok, s) := if d.ok then collWrite s c x.1 d.data (moveBad d.bad a x.1 x.2.len) else (false, s)
      (ok, acc.2.1 || !d.bad.isEmpty, s)) (true, false, s)
  let s := s.setColl c
  let s := if bad then s.setStepPoison c.ctx (cdPar c.bytes) true else s
  if !ok then collEnd s c 7 else c.send s true 7 0 g.rank 0 0 c.round []

/-- R322, R323: the round is over once the barrier has returned and its incoming bytes are here; after the last round
the permute completes. -/
def roundEnd (s : State) (c : Coll) : State :=
  if !c.lapBack || c.left ≠ 0 then s
  else if c.round < c.rounds then roundStart s { c with round := c.round + 1 }
  else collEnd s c (if c.mismatch then 2 else 0)

/-- R322: after the barrier the staged extents leave; one of this member lands here. -/
def roundSend (s : State) (c : Coll) : State :=
  let c := { c with lapBack := true }
  let cls := s.collCls c
  let (st, c, s) := c.outgoing.foldl (fun (acc : Nat × Coll × State) x =>
    if acc.1 ≠ 0 then acc
    else
      let c := acc.2.1
      let (d, s) := collRead acc.2.2 c x.1 x.2.len
      if !d.ok then (7, c, s)
      else (cutRuns 2046 (markedUnits x.1 d)).zipIdx.foldl (fun (acc : Nat × Coll × State) p =>
        (markRuns (2046 * p.2) p.1).foldl (fun (acc : Nat × Coll × State) r =>
          let c := acc.2.1
          let data := r.2.2.flatten
          let o := x.2.peerOff + 32 * r.1
          if acc.1 ≠ 0 then acc
          else if x.2.peer = 0xFFFF then
            (let (ok, c, s) := permLand acc.2.2 c c.round o r.2.1 data (· == 0xFFFF)
             (if ok then 0 else 7, c, s))
          else
            let (r2, s) := sendOn acc.2.2 x.2.peer cls (msgHeader 4 (if r.2.1 then 2 else 0) c.ctx c.group 0 (32 + data.length)
              acc.2.2.coord ++ collSub acc.2.2 c 7 (acc.2.2.collGroup c).rank o data.length c.round ++ data) c.ctx c.group
            (if r2 = .sent then 0 else if r2 = .invalid then 7 else 6, c,
             if r2 = .sent then s.portProgress (some c) (x.2.port s) false data.length else s)) acc) (0, c, s)) (0, c, s)
  let s := s.setColl c
  if st ≠ 0 then collEnd s c st else roundEnd s c

/-- R322: a barrier message goes on from a member that has staged its round. -/
def barrierPass (s : State) (port : Nat) (m : RxMsg) (c : Coll) : State :=
  let g := s.collGroup c
  if subOrigin m.bytes = g.rank then (if subTotal m.bytes = c.round && !c.lapBack then roundSend s c else s)
  else collForward s port m (subOrigin m.bytes) (subTotal m.bytes) []

/-- R323: permute data arrives. -/
def permPass (s : State) (m : RxMsg) (c : Coll) : State :=
  let (ok, c, s) := permLand s c (subTotal m.bytes) (subFirst m.bytes) (msgStatus m.bytes == 2) (collData m.bytes)
    (fun e => e != 0xFFFF && fromPeer s m e)
  let s := s.setColl c
  if ok then roundEnd s c else collEnd s c 7

/-! ### Votes (R317) -/

/-- The groups of a vote from `g` on. -/
def voteGroups (c : Coll) (g : Nat) : List Nat :=
  (List.range 16).filter (fun i => decide (g ≤ i) && bitAt (cdAuxCnt c.bytes) i)

/-- R317: the vote goes on with its next group from `g` on, or completes. -/
def voteFrom (s : State) (c : Coll) (g : Nat) : State :=
  match voteGroups c g with
  | [] => collEnd s c 0
  | i :: _ =>
    let x := s.group c.ctx i
    let c := { c with phase := .vote, round := i, lapBack := false, lapSeen := 0 }
    let flag := b2n ((s.ctx c.ctx).stepPoison (cdPar c.bytes))
    (collSend (s.setColl c) c.ctx c.group (x.port true) (s.collCls c) 0
      (subHeader 8 6 x.axis (cdPar c.bytes) x.rank c.seq 0 0 flag) []).2

/-- R317: a vote message: ORed with the own flag and passed on, or back with the result. -/
def votePass (s : State) (port : Nat) (m : RxMsg) (c : Coll) : State :=
  let x := s.group c.ctx c.round
  let go := fun (s : State) (c : Coll) =>
    if c.lapBack && c.lapSeen + 1 = x.len then voteFrom s c (c.round + 1) else s.setColl c
  if subOrigin m.bytes = x.rank then
    go (if bitAt (subTotal m.bytes) 0 then s.setStepPoison c.ctx (cdPar c.bytes) true else s) { c with lapBack := true }
  else
    let flag := b2n (bitAt (subTotal m.bytes) 0 || (s.ctx c.ctx).stepPoison (cdPar c.bytes))
    go (collForward s port m (subOrigin m.bytes) flag []) { c with lapSeen := c.lapSeen + 1 }

/-! ### The setup lap (R304) -/

/-- The setup lap has returned with every check passed. -/
def collBegin (s : State) (c : Coll) : State :=
  if c.reduces then headerStart s c
  else if c.op = 2 then gatherStart s c
  else if c.op = 4 then countsStart s c
  else if c.op = 5 then roundStart s c
  else voteFrom s c 0

/-- The collective against which a setup message is checked: its own, or the one in its lap that this origin's message
has not passed. -/
def setupOf (s : State) (b : List Byte) : Option Coll :=
  match collOf s b with
  | some c => some c
  | none => s.colls.find? (fun c => c.ctx == msgCtx b && c.group == msgTag b && (s.collGroup c).axis == subAxis b && c.op != 7 &&
      (c.phase == .setup || c.phase == .ended) && !c.seen.contains (subOrigin b))

/-- The own setup message is back. -/
def setupBack (s : State) (c : Coll) (b : List Byte) (bad : Bool) : State :=
  let c := { c with own := true, total := subTotal b, rounds := fld (collData b) 50 1 }
  let s := s.setColl c
  if bad then collEnd s c 2
  else if c.reduces && decide (4096 < c.total) then collEnd s c 3
  else collBegin s c

/-- R304: a setup message passes. -/
def setupPass (s : State) (port : Nat) (m : RxMsg) (c : Coll) : State :=
  let b := m.bytes
  let g := s.collGroup c
  let d := collData b
  let other := zeros 16 ++ slice d 0 48
  let bad := fld d 49 1 != 0 || fld d 48 1 != nextRank g.len g.rank false
  if subOrigin b = g.rank then
    (if c.phase = .setup && c.seq = subSeq b && c.op = subOp b then setupBack s c b bad else s)
  else
    let bad := bad || compared other != compared c.bytes || subSeq b != c.seq
    let total := subTotal b + (if c.reduces then cdContrib c.bytes else 0)
    let c := { c with seen := subOrigin b :: c.seen }
    let s := if c.phase = .ended && g.len ≤ c.seen.length + 1 then s.dropColl c else s.setColl c
    collForward s port m (subOrigin b) total (slice d 0 48 ++ leBytes 1 g.rank ++ leBytes 1 (b2n bad) ++
      leBytes 1 (max (fld d 50 1) c.rounds))

/-- R190: the collective of a message has a buffer in a channel whose accesses wait. -/
def msgStalled (s : State) (b : List Byte) : Bool :=
  match collOf s b with | some c => collStalled s c.ctx c.bytes | none => false

/-- Consumes the oldest message at a port that a kind's meaning can take now. All but an abort wait with the channels of
their collective (R190). -/
def onColl (s : State) (port kind : Nat) (ok : State → RxMsg → Bool) (k : State → RxMsg → State) : State :=
  match s.inMsg port (fun m => isColl kind m && ok s m && (kind == 9 || !msgStalled s m.bytes)) with
  | none => s
  | some m => k ((s.consume port m).portProgress (collOf s m.bytes) port true (msgLen m.bytes - 32)) m

/-- A message of a collective in one of `ps`; one whose collective has ended here is dropped. -/
def onPhase (s : State) (port kind : Nat) (ps : List CollPhase) (k : State → RxMsg → Coll → State) : State :=
  onColl s port kind (fun s m => collStale s m.bytes || (match collOf s m.bytes with
      | some c => ps.contains c.phase | none => false))
    (fun s m => match collOf s m.bytes with | some c => k s m c | none => s)

/-- R304: COLL_SETUP_MSG. -/
def execCollSetupMsg (port : Nat) (s : State) : Host.Outcome State Fault Refusal :=
  .next (onColl s port 1 (fun s m => (setupOf s m.bytes).isSome || collStale s m.bytes)
    (fun s m => match setupOf s m.bytes with | some c => setupPass s port m c | none => s))

/-- R304, R327: TIMEOUT_MS in ns. -/
def State.collTimeout (s : State) : Nat := 1000000 * s.regFld 0x1C014 0 0 8

/-- R304: COLL_SETUP_TIMEOUT. -/
def execCollSetupTimeout (ctx group : Nat) (s : State) : Host.Outcome State Fault Refusal :=
  .next (match s.coll? ctx group with
    | some c => if c.phase = .setup && c.startedAt + s.collTimeout ≤ s.now then collEnd s c 4 else s
    | none => s)

/-- R304: an abort message: it goes on round the ring, and the collective that has started here ends. -/
def abortPass (s : State) (port : Nat) (m : RxMsg) : State :=
  let b := m.bytes
  let s := match axisGroup s b with
    | some g =>
      let x := s.group (msgCtx b) g
      if subOrigin b = x.rank || nextRank x.len x.rank (movesPlus s port m) = subOrigin b then s
      else collForward s port m (subOrigin b) 0 []
    | none => s
  match collOf s b with
  | some c => if c.phase = .ended then s else collEnd s c 5
  | none => s

/-- R304: COLL_ABORT_MSG. -/
def execCollAbortMsg (port : Nat) (s : State) : Host.Outcome State Fault Refusal :=
  .next (onColl s port 9 (fun _ _ => true) (fun s m => abortPass s port m))

/-- R312: COLL_HEADER_PASS_MSG. -/
def execCollHeaderPassMsg (port : Nat) (s : State) : Host.Outcome State Fault Refusal :=
  .next (onPhase s port 2 [.header] (fun s m c => headerPass s port m c))

/-- R312, R314: COLL_MANTISSA_PASS_MSG. -/
def execCollMantissaPassMsg (port : Nat) (s : State) : Host.Outcome State Fault Refusal :=
  .next (onPhase s port 3 [.mantissa] (fun s m c => mantissaPass s port m c))

/-- R313, R318: COLL_GATHER_DATA_MSG. -/
def execCollGatherDataMsg (port : Nat) (s : State) : Host.Outcome State Fault Refusal :=
  .next (onPhase s port 4 [.mantissa, .gather] (fun s m c => gatherPass s port m c))

/-- R320: COLL_COUNTS_MSG. -/
def execCollCountsMsg (port : Nat) (s : State) : Host.Outcome State Fault Refusal :=
  .next (onPhase s port 5 [.setup, .counts] (fun s m c => countsPass s port m c))

/-- R321: a bucket for another rank goes on whatever stands here; the own ones wait for every count. -/
def bucketPass (s : State) (port : Nat) (m : RxMsg) : State :=
  let b := m.bytes
  match axisGroup s b with
  | none => s
  | some g =>
    if subTotal b ≠ (s.group (msgCtx b) g).rank then collForward s port m (subOrigin b) (subTotal b) (collData b)
    else match collOf s b with
      | none => s
      | some c =>
        let (ok, s) := landBucket s c (subOrigin b) (subFirst b) (msgStatus b == 2) (collData b)
        blocksLanded s c ok (collData b).length allToAllEnd

/-- R320, R321: COLL_BUCKET_MSG. -/
def execCollBucketMsg (port : Nat) (s : State) : Host.Outcome State Fault Refusal :=
  .next (onColl s port 6 (fun s m => collStale s m.bytes ||
      (match axisGroup s m.bytes with
        | some g => subTotal m.bytes != (s.group (msgCtx m.bytes) g).rank
        | none => false) ||
      (match collOf s m.bytes with | some c => c.phase == .buckets | none => false))
    (fun s m => bucketPass s port m))

/-- R322: the permute may take a message now: a barrier of a round that is staged here, data of a round begun, or a
barrier that passes a member already through. -/
def permTakes (s : State) (m : RxMsg) : Bool :=
  match collOf s m.bytes with
  | some c => c.phase == .permute && decide (subTotal m.bytes ≤ c.round)
  | none => collStale s m.bytes

/-- R322, R323: COLL_PERMUTE_DATA_MSG. -/
def execCollPermuteDataMsg (port : Nat) (s : State) : Host.Outcome State Fault Refusal :=
  .next (onColl s port 7 permTakes (fun s m =>
    match collOf s m.bytes with
    | some c => if subCount m.bytes = 0 then barrierPass s port m c else permPass s m c
    | none => if subCount m.bytes = 0 then collForward s port m (subOrigin m.bytes) (subTotal m.bytes) [] else s))

/-- R317: the vote in progress on the axis of a message; a lap message of R339 is none of it. -/
def voteOf (s : State) (b : List Byte) : Option Coll :=
  if bitAt (subTotal b) 1 then none
  else s.colls.find? (fun c => c.ctx == msgCtx b && c.group == msgTag b && c.phase == .vote &&
    (s.group c.ctx c.round).axis == subAxis b)

/-- R317: COLL_VOTE_MSG. -/
def execCollVoteMsg (port : Nat) (s : State) : Host.Outcome State Fault Refusal :=
  .next (onColl s port 8 (fun s m => (voteOf s m.bytes).isSome) (fun s m =>
    match voteOf s m.bytes with | some c => votePass s port m c | none => s))

/-- R324: another member's values: kept and passed on. -/
def statsPass (s : State) (port : Nat) (m : RxMsg) (c : Coll) : State :=
  let g := s.collGroup c
  let d := collData m.bytes
  let o := subOrigin m.bytes
  let c := { c with stats := tset (BitVec.ofNat 32 (fld d 0 4), BitVec.ofNat 32 (fld d 8 4)) c.stats o }
  let s := s.setColl c
  let s := if nextRank g.len g.rank (movesPlus s port m) = o then s else collForward s port m o 0 d
  if c.phase = .stats && c.stats.length = g.len then statsEnd s c else s

/-- R324: COLL_STATISTICS_MSG. -/
def execCollStatisticsMsg (port : Nat) (s : State) : Host.Outcome State Fault Refusal :=
  .next (onPhase s port 10 [.header, .mantissa, .stats] (fun s m c => statsPass s port m c))

/-- R310: a link of a ring has gone down: the collectives that use it end. -/
def collLinkLost (s : State) (port : Nat) : State :=
  (s.colls.filter (fun c => c.phase != .ended && c.phase != .land && c.phase != .keepWait &&
    ((collPorts s c.ctx c.bytes).contains port ||
      c.op == 5 && c.perm.any (fun e => e.peer != 0xFFFF && hopPort (rtRoute (s.routeWord e.peer)) 0 == port)))).foldl
    (fun s c => match s.coll? c.ctx c.group with
      | some x => if x.seq = c.seq then collEnd s x 6 else s
      | none => s) s

/-! ### The group table (R303, R327) -/

/-- R327: a write of COLL_GROUP; RANK is held below LEN. A group that is disabled forgets the messages that wait for
it. -/
def collGroupSet (s : State) (ctx group v : Nat) : State :=
  let g := s.group ctx group
  let len := clampTo 2 64 (bits v 3 7)
  let en := bitAt v 0
  let x : Group := { en := en, axis := bits v 1 2, len := len, rank := min (bits v 10 6) (len - 1),
                     seq := if en && !g.en then 0 else g.seq }
  let s := s.setGroup ctx group x
  if en || !g.en then s
  else
    let s := { s with colls := s.colls.filter (fun (c : Coll) => !(c.ctx == ctx && c.group == group && c.phase == .ended)) }
    [2 * g.axis, 2 * g.axis + 1].foldl (fun s p =>
      ((s.port p).inbox.filter (fun m => msgOp m.bytes == 4 && msgCtx m.bytes == ctx)).foldl (fun s m => s.consume p m) s) s

end Sys2Proof.Machine
end

