-- ==== Sys2Proof/Machine/Pixel.lean ====
section
/-! DEFINITION. The kiln's pixel pipeline (R266 to R268): chroma upsampling, crop, resize, flip, rotation, colour,
normalisation and conversion. Every operation is an FP32 one that rounds once to nearest even, and the flags of all of them
are gathered. Where R267 leaves the order of the operations open, the order of its words is taken (DESIGN CHOICE, log 94). -/

namespace Sys2Proof.Machine

/-! ### FP32 values with the flags raised on the way -/

/-- An FP32 value with flags. -/
abbrev FV := Word × Nat

/-- An operation on values with flags. -/
def FV.op (f : Word → Word → Word × Nat) (a b : FV) : FV :=
  let r := f a.1 b.1
  (r.1, a.2 ||| b.2 ||| r.2)

/-- The rational n/d as FP32. -/
def ratio (n : Int) (d : Nat) : FV := toFp32 ((Val.ofInt n).div (Val.ofInt d))

/-- The sum of weighted values, in order. -/
def blend : List (FV × FV) → FV
  | [] => (0, 0)
  | x :: r => r.foldl (fun acc y => FV.op fAdd acc (FV.op fMul y.1 y.2)) (FV.op fMul x.1 x.2)

/-! ### Angles -/

/-- π times 2^96. -/
def piScaled : Int := 248902613312231085230521944622

/-- Terms of the series of a sine or cosine, at weight 2^-96: `n` more of them, the next divided by (k + 1)(k + 2). -/
def hueSeries : Nat → Nat → Int → Int → Int → Int
  | 0, _, _, _, sum => sum
  | n + 1, k, x2, term, sum =>
    hueSeries n (k + 2) x2 (-(term * x2 / 2 ^ 96 / (((k + 1) * (k + 2) : Nat) : Int))) (sum + term)

/-- Cosine and sine of `k` units of 1/256 degree, `k` at most 90 degrees, at weight 2^-96. -/
def trigQuarter (k : Nat) : Int × Int :=
  if k = 0 then (2 ^ 96, 0)
  else
    let x := piScaled * k / 46080
    let x2 := x * x / 2 ^ 96
    (hueSeries 40 0 x2 (2 ^ 96) 0, hueSeries 40 1 x2 x 0)

/-- Cosine and sine of a signed angle in 1/256 degree, each rounded once to FP32. -/
def trig (a : Int) : FV × FV :=
  let k := (a % 92160).toNat
  let (c, s) := trigQuarter (k % 23040)
  let (c, s) : Int × Int := if k / 23040 = 0 then (c, s) else if k / 23040 = 1 then (-s, c)
    else if k / 23040 = 2 then (-c, -s) else (s, -c)
  (toFp32 (Val.ofScaled c (-96), 0), toFp32 (Val.ofScaled s (-96), 0))

/-! ### The fields that the pipeline reads (R257, R259) -/

def kbFmt (b : List Byte) : Nat := fldBits b 1 1 0 4
def kbP (b : List Byte) : Nat := fld b 2 1
def kbT (b : List Byte) : Nat := fld b 3 1
def kbW (b : List Byte) : Nat := fld b 4 2
def kbH (b : List Byte) : Nat := fld b 6 2
def kbFrames (b : List Byte) : Nat := fld b 8 2
def kbFilter (b : List Byte) : Nat := fldBits b 10 1 0 2
def paX0 (p : List Byte) : Nat := fld p 4 4
def paY0 (p : List Byte) : Nat := fld p 8 4
def paW (p : List Byte) : Nat := fld p 12 4
def paH (p : List Byte) : Nat := fld p 16 4
def paRot (p : List Byte) : Int := signed 32 (fld p 20 4)
def paBright (p : List Byte) : Int := signed 16 (fld p 24 2)
def paContrast (p : List Byte) : Nat := fld p 26 2
def paSat (p : List Byte) : Nat := fld p 28 2
def paHue (p : List Byte) : Int := signed 32 (fld p 44 4)

/-- Bytes of an element of TOKFMT. -/
def kbElem (b : List Byte) : Nat := if kbFmt b = 9 then 2 else 1

/-! ### Decoded pictures -/

/-- One decoded frame as the sequence header describes it: its size, bit depth, chroma code and siting type, and its
samples by plane, column and row. -/
structure Picture where
  w : Nat
  h : Nat
  depth : Nat
  chroma : Nat
  siting : Nat
  at_ : Nat → Nat → Nat → Nat

/-- Holds an index to a range. -/
def holdTo (lo hi : Nat) (i : Int) : Nat := max lo (min hi i.toNat)

/-- A sample as FP32, before scaling. -/
def Picture.px (p : Picture) (plane x y : Nat) : FV := toFp32 (Val.ofInt (p.at_ plane x y % 2 ^ p.depth), 0)

/-- R267, stage 1: where a chroma column or row of a subsampled plane is taken for luma position `x`: the sample at or
before it, and quarters to the next. `o2` is twice the offset of the chroma samples (PRESUMED from the siting types of
ITU-T H.273, log 94). -/
def chromaTap (sub : Bool) (o2 x : Nat) : Int × Nat :=
  if sub then (((2 * x : Nat) - (o2 : Int)) / 4, (((2 * x : Nat) - (o2 : Int)) % 4).toNat) else (x, 0)

/-- R267, stage 1: linear interpolation at `q` quarters. -/
def quarter (q : Nat) (a b : FV) : FV := if q = 0 then a else blend [(ratio (4 - q) 4, a), (ratio q 4, b)]

/-- R253, R267, stage 1: a component at luma position (x, y), scaled to [0, 1]. One-component pictures have neutral
chroma. Taps beyond the picture read its edge. -/
def Picture.comp (p : Picture) (c x y : Nat) : FV :=
  let v := if c = 0 then p.px 0 x y
    else if p.chroma = 0 then toFp32 (Val.ofInt (2 ^ (p.depth - 1)), 0)
    else
      let subX := p.chroma != 3
      let subY := p.chroma == 1
      let w := if subX then (p.w + 1) / 2 else p.w
      let h := if subY then (p.h + 1) / 2 else p.h
      let (ix, qx) := chromaTap subX ([0, 1, 0, 1, 0, 1].getD p.siting 0) x
      let (iy, qy) := chromaTap subY ([1, 1, 0, 0, 2, 2].getD p.siting 1) y
      let row := fun (j : Int) => quarter qx (p.px c (holdTo 0 (w - 1) ix) (holdTo 0 (h - 1) j))
        (p.px c (holdTo 0 (w - 1) (ix + 1)) (holdTo 0 (h - 1) j))
      quarter qy (row iy) (row (iy + 1))
  FV.op fDiv v (ratio (2 ^ p.depth - 1) 1)

/-! ### Crop and resize (stages 2 and 3) -/

/-- The taps at n/d past a sample: offsets with their weights; FILTER 0 bilinear, 1 cubic with a = -0.5. -/
def resizeTaps (filter : Nat) (n d : Int) : List (Int × FV) :=
  if n = 0 then []
  else if filter = 0 then [(0, ratio (d - n) d.toNat), (1, ratio n d.toNat)]
  else
    let q := (2 * d * d * d).toNat
    [(-1, ratio (2 * n * n * d - n * n * n - n * d * d) q),
     (0, ratio (3 * n * n * n - 5 * n * n * d + 2 * d * d * d) q),
     (1, ratio (4 * n * n * d - 3 * n * n * n + n * d * d) q),
     (2, ratio (n * n * n - n * n * d) q)]

/-- One axis of an interpolation: the values at the taps, or the sample itself where the position falls on it. -/
def tapped (taps : List (Int × FV)) (i : Int) (get : Int → FV) : FV :=
  if taps.isEmpty then get i else blend (taps.map (fun t => (t.2, get (i + t.1))))

/-- Stages 2 and 3: the source position of output index `u`: its sample and the fraction past it, over a denominator. The
crop's edges are exact fractions of the source size. -/
def sourcePos (x0 cw w out u : Nat) : Int × Int × Int :=
  let d : Int := ((131072 * out : Nat) : Int)
  let n : Int := ((2 * out * x0 * w + (2 * u + 1) * cw * w : Nat) : Int) - ((65536 * out : Nat) : Int)
  (n / d, n % d, d)

/-- The first and last sample of a crop: those of which some part lies in it. -/
def cropEdges (x0 cw w : Nat) : Nat × Nat := (x0 * w / 65536, (x0 * w + cw * w + 65535) / 65536 - 1)

/-- R267, stages 2 and 3: a component of pixel (u, v) of the resized crop. -/
def Picture.resized (p : Picture) (b par : List Byte) (c u v : Nat) : FV :=
  let (ix, nx, dx) := sourcePos (paX0 par) (paW par) p.w (kbW b) u
  let (iy, ny, dy) := sourcePos (paY0 par) (paH par) p.h (kbH b) v
  let ex := cropEdges (paX0 par) (paW par) p.w
  let ey := cropEdges (paY0 par) (paH par) p.h
  tapped (resizeTaps (kbFilter b) ny dy) iy (fun j =>
    tapped (resizeTaps (kbFilter b) nx dx) ix (fun i => p.comp c (holdTo ex.1 ex.2 i) (holdTo ey.1 ey.2 j)))

/-! ### Flip and rotate (stages 4 and 5) -/

/-- R267, stage 4. -/
def Picture.flipped (p : Picture) (b par : List Byte) (c u v : Nat) : FV :=
  p.resized b par c (if fldBit par 30 0 then kbW b - 1 - u else u) (if fldBit par 30 1 then kbH b - 1 - v else v)

/-- A finite FP32 value as a fraction. -/
def asFraction (x : Word) : Int × Int :=
  match fp32 x with
  | .fin neg m e => if 0 ≤ e then (Val.scaled (.fin neg m e) 0, 1) else (Val.scaled (.fin neg m e) e, 2 ^ (-e).toNat)
  | _ => (0, 1)

/-- R267, stage 5: the position that the rotation carries onto output pixel (u, v), whose centre lies half a pixel past
its index as in stage 3; counter-clockwise as the picture is seen. -/
def rotatedPos (rot : Int) (w h u v : Nat) : FV × FV :=
  let (c, s) := trig rot
  let dx := FV.op fSub (ratio (2 * u + 1) 2) (ratio w 2)
  let dy := FV.op fSub (ratio (2 * v + 1) 2) (ratio h 2)
  (FV.op fAdd (FV.op fSub (FV.op fMul dx c) (FV.op fMul dy s)) (ratio w 2),
   FV.op fAdd (FV.op fAdd (FV.op fMul dx s) (FV.op fMul dy c)) (ratio h 2))

/-- A position lies within the image. -/
def inside (x : Word) (w : Nat) : Bool :=
  let (n, d) := asFraction x
  decide (0 ≤ n) && decide (n < (w : Int) * d)

/-- R267, stage 5: a component of pixel (u, v); none where FILL takes its place. -/
def Picture.rotated (p : Picture) (b par : List Byte) (u v : Nat) : Option (Nat → FV) :=
  if paRot par = 0 then some (fun c => p.flipped b par c u v)
  else
    let (x, y) := rotatedPos (paRot par) (kbW b) (kbH b) u v
    if !inside x.1 (kbW b) || !inside y.1 (kbH b) then none
    else
      let px := FV.op fSub x (ratio 1 2)
      let py := FV.op fSub y (ratio 1 2)
      let (nx, dx) := asFraction px.1
      let (ny, dy) := asFraction py.1
      some (fun c =>
        let r := tapped (resizeTaps 0 (ny % dy) dy) (ny / dy) (fun j =>
          tapped (resizeTaps 0 (nx % dx) dx) (nx / dx) (fun i =>
            p.flipped b par c (holdTo 0 (kbW b - 1) i) (holdTo 0 (kbH b - 1) j)))
        (r.1, r.2 ||| px.2 ||| py.2))

/-! ### Colour (stage 6) -/

/-- The number 2⁻¹² `v` as FP32. -/
def fix12 (v : Int) : FV := toFp32 (Val.ofScaled v (-12), 0)

/-- A pixel component held to [0, 1]. -/
def clamp01 (x : Word) : Word :=
  if (fp32 x).lt (.fin false 0 0) then 0 else if (Val.fin false 1 0).lt (fp32 x) then 0x3F800000 else x

/-- BRIGHT, CONTRAST, clamp. A stage at its identity setting changes nothing. -/
def jitter (bright : Int) (contrast : Nat) (x : FV) : FV :=
  let x := if bright = 0 then x else FV.op fAdd x (fix12 bright)
  let x := if contrast = 4096 then x
    else FV.op fAdd (FV.op fMul (FV.op fSub x (ratio 1 2)) (fix12 contrast)) (ratio 1 2)
  (clamp01 x.1, x.2)

/-- A component off its range: luma to [0, 1], chroma about zero (PRESUMED from ITU-R BT.601, BT.709 and BT.2020, log
94). -/
def unrange (full : Bool) (depth c : Nat) (x : FV) : FV :=
  let top := 2 ^ depth - 1
  let k := 2 ^ (depth - 8)
  if full then (if c = 0 then x else FV.op fSub x (ratio (128 * k) top))
  else FV.op fDiv (FV.op fSub (FV.op fMul x (ratio top 1)) (ratio ((if c = 0 then 16 else 128) * k) 1))
    (ratio ((if c = 0 then 219 else 224) * k) 1)

/-- The chroma pair rotated by HUE about zero and scaled by SAT. -/
def chromaTurn (hue : Int) (sat : Nat) (cb cr : FV) : FV × FV :=
  let (cb, cr) := if hue = 0 then (cb, cr)
    else
      let (c, s) := trig hue
      (FV.op fSub (FV.op fMul cb c) (FV.op fMul cr s), FV.op fAdd (FV.op fMul cb s) (FV.op fMul cr c))
  if sat = 4096 then (cb, cr) else (FV.op fMul cb (fix12 sat), FV.op fMul cr (fix12 sat))

/-- The weights of red and blue in luma, in ten-thousandths, of MATRIX 1 BT.601, 2 BT.709, 3 BT.2020 (PRESUMED from the
recommendations, log 94). -/
def lumaWeights (m : Nat) : Nat × Nat := if m = 1 then (2990, 1140) else if m = 3 then (2627, 593) else (2126, 722)

/-- Channel `c` of the conversion to R, G and B. -/
def toRgb (m c : Nat) (y cb cr : FV) : FV :=
  let (kr, kb) := lumaWeights m
  let kg := 10000 - kr - kb
  if c = 0 then FV.op fAdd y (FV.op fMul (ratio (2 * (10000 - kr : Nat)) 10000) cr)
  else if c = 2 then FV.op fAdd y (FV.op fMul (ratio (2 * (10000 - kb : Nat)) 10000) cb)
  else FV.op fSub (FV.op fSub y (FV.op fMul (ratio (2 * kb * (10000 - kb) : Nat) (10000 * kg)) cb))
    (FV.op fMul (ratio (2 * kr * (10000 - kr) : Nat) (10000 * kg)) cr)

/-- R267: the matrix and range of a sample: as the batch says, or as the stream signals (entries 8 and 9 of its header),
BT.709 if it signals none. -/
def kilnMatrixOf (b : List Byte) (h : List Nat) : Nat × Bool :=
  let m := fldBits b 10 1 2 2
  let sig := h.getD 8 0
  (if m ≠ 0 then m else if sig = 0 then 2 else sig, if fldBit b 10 4 then fldBit b 10 5 else h.getD 9 0 != 0)

/-- R267, stages 1 to 6: channel `c` of output pixel (u, v) of a frame. -/
def kilnPixel (b par : List Byte) (h : List Nat) (p : Picture) (u v c : Nat) : FV :=
  match p.rotated b par u v with
  | none => ratio (fld b (12 + c) 1) 255
  | some px =>
    let (m, full) := kilnMatrixOf b h
    let (cb, cr) := chromaTurn (paHue par) (paSat par) (unrange full p.depth 1 (px 1)) (unrange full p.depth 2 (px 2))
    jitter (paBright par) (paContrast par) (toRgb m c (unrange full p.depth 0 (px 0)) cb cr)

/-! ### Normalise and convert (stages 7 and 8) -/

/-- R267, stages 7 and 8: one element, with its flags. -/
def kilnElem (b : List Byte) (cv : Conv) (x : FV) (c : Nat) : List Byte × Nat :=
  let f : Fmt := if kbFmt b = 9 then .bf16 else if kbFmt b = 1 then .e4m3 else .e5m2
  let y := FV.op fMul (FV.op fSub x (BitVec.ofNat 32 (fld b (16 + 4 * c) 4), 0)) (BitVec.ofNat 32 (fld b (28 + 4 * c) 4), 0)
  let (v, g) := f.encode cv .rne (fp32 y.1)
  (leBytes (kbElem b) v, y.2 ||| g)

/-- R268: token `i` of a sample whose output frames are `frames`. -/
def kilnToken (b par : List Byte) (h : List Nat) (cv : Conv) (frames : Nat → Picture) (i : Nat) : List Byte × Nat :=
  let cols := kbW b / kbP b
  let rows := kbH b / kbP b
  let p := kbP b
  let es := (List.range (3 * kbT b * p * p)).map (fun n =>
    let c := n % 3
    let m := n / 3
    kilnElem b cv (kilnPixel b par h (frames (i / cols / rows * kbT b + m / p / p))
      (i % cols * p + m % p) (i / cols % rows * p + m / p % p) c) c)
  (es.flatMap (·.1), es.foldl (fun f e => f ||| e.2) 0)

end Sys2Proof.Machine
end

