-- ==== Sys2Proof/Machine/Kiln.lean ====
section
/-! DEFINITION. The kiln (R253 to R275): validation, the order of checks, the pixel pipeline, backfill, delivery. -/

namespace Sys2Proof.Machine

/-! ### Fields (R256 to R259) -/

def kdBlock (d : List Byte) : Nat := fld d 16 6
def kdBatch (d : List Byte) : Nat := fld d 22 2
def kdPos (d : List Byte) : Nat := fld d 24 4
def kdStream (d : List Byte) : Nat := fldBits d 28 1 0 6
def kdJoint (d : List Byte) : Option Nat := if fldBit d 28 6 then some (fldBits d 30 2 0 14) else none
def kdPixels (d : List Byte) : Nat := fld d 32 8
def kdBytes (d : List Byte) : Nat := fld d 40 8
def kdMaxSample (d : List Byte) : Nat := fld d 48 8
def kdReport (d : List Byte) : Nat := fld d 56 6

def kbCatalog (b : List Byte) : Nat := fld b 40 6
def kbCatalogCount (b : List Byte) : Nat := fld b 48 4
def kbPerm (b : List Byte) : Nat := fld b 52 6
def kbParam (b : List Byte) : Nat := fld b 60 6
def kbBackfill (b : List Byte) : Nat := fld b 66 6
def kbBackfills (b : List Byte) : Nat := fld b 72 2
def kbDst (b : List Byte) : Nat := fld b 76 6
def kbNdst (b : List Byte) : Nat := fld b 82 2
def kbChunk (b : List Byte) : Nat := fld b 84 4
def kbSeg (b : List Byte) : Nat := fld b 88 6
def kbSegEn (b : List Byte) : Bool := fldBit b 94 0
def kbSegBase (b : List Byte) : Nat := fld b 96 4

/-- R268: bytes of a token, and tokens of a sample. -/
def kbToken (b : List Byte) : Nat := 3 * kbT b * kbP b * kbP b * kbElem b
def kbTokens (b : List Byte) : Nat := kbFrames b / kbT b * (kbH b / kbP b) * (kbW b / kbP b)

def crCodec (r : List Byte) : Nat := fld r 0 1
def crSrc (r : List Byte) : Nat := fld r 1 1
def crPeer (r : List Byte) : Nat := fld r 2 2
def crFrames (r : List Byte) : Nat := fld r 4 4
def crObj (r : List Byte) : Nat := fld r 8 4
def crAddr (r : List Byte) : Nat := fld r 16 6
def crLength (r : List Byte) : Nat := fld r 24 4

/-! ### Validation (R260) -/

/-- R257: the fields of the batch block, and of the descriptor (R256), that are not a slot's. -/
def kilnFieldsOk (d b : List Byte) : Bool :=
  let edge := fun n => decide (0 < n) && decide (n ≤ 4096) && n % kbP b == 0
  fld b 0 1 == 1 && (kbFmt b == 9 || kbFmt b == 1 || kbFmt b == 2) && kbP b % 2 == 0 && decide (4 ≤ kbP b) &&
    decide (kbP b ≤ 32) && decide (1 ≤ kbT b) && decide (kbT b ≤ 8) && edge (kbW b) && edge (kbH b) &&
    decide (1 ≤ kbFrames b) && decide (kbFrames b ≤ 1024) && kbFrames b % kbT b == 0 && decide (kbFilter b < 2) &&
    decide (1 ≤ kbNdst b) && decide (kbNdst b ≤ 1024) && decide (1 ≤ kbChunk b) && decide (kbChunk b ≤ 65535) &&
    decide (1 ≤ kdBatch d) && decide (kdBatch d ≤ 4096) && kdBlock d % 64 == 0 && kdReport d % 64 == 0

/-- R259: one parameter record. -/
def paramOk (p : List Byte) : Bool :=
  let frac := fun x w => decide (1 ≤ w) && decide (x + w ≤ 0x10000)
  decide (1 ≤ fld p 2 2) && frac (paX0 p) (paW p) && frac (paY0 p) (paH p) &&
    decide ((paRot p).natAbs ≤ 46080) && decide ((paHue p).natAbs ≤ 46080)

/-- R268: where token `g` of the pallet goes, with the destination table `t`. -/
def tokenAddr (b t : List Byte) (g : Nat) : Nat :=
  let q := g / kbChunk b
  (fldBits t (8 * (q % kbNdst b)) 8 0 48 + q / kbNdst b * kbChunk b * kbToken b + g % kbChunk b * kbToken b) % 2 ^ 48

/-- R260: [a, a + n) lies within the context's ranges. -/
def kilnReach (s : State) (ctx a n : Nat) : Bool := (requests a a n).all (fun p => s.reaches ctx (a + p.1) p.2 true)

/-- R260: every token and segment id has a place. -/
def kilnDstOk (s : State) (ctx : Nat) (d b t : List Byte) : Bool :=
  let n := kdBatch d * kbTokens b
  (List.range (ceilDiv n (kbChunk b))).all (fun q =>
    kilnReach s ctx (tokenAddr b t (q * kbChunk b)) (min (kbChunk b) (n - q * kbChunk b) * kbToken b)) &&
    (!kbSegEn b || kilnReach s ctx (kbSeg b) (4 * n))

/-- The tables of a batch: permutation, parameters, backfill list, destinations; none where one cannot be read. -/
def kilnTables (s : State) (ctx : Nat) (d b : List Byte) : Option (List (List Byte)) × State :=
  [(kbPerm b + 4 * kdPos d, 4 * kdBatch d), (kbParam b, 48 * kdBatch d), (kbBackfill b, 4 * kbBackfills b),
    (kbDst b, 8 * kbNdst b)].foldl (fun (acc : Option (List (List Byte)) × State) x =>
      match acc.1 with
      | none => acc
      | some l =>
        let (r, s) := agentReadAll acc.2 ctx x.1 x.2 (unitEnd 10)
        (if r.ok && r.bad.isEmpty then some (l ++ [r.data]) else none, s)) (some [], s)

/-- R260: the first slot that fails. -/
def firstBadSlot (d b perm par : List Byte) : Option Nat :=
  (List.range (kdBatch d)).find? (fun i =>
    decide (kbCatalogCount b ≤ fld perm (4 * i) 4) || !paramOk (slice par (48 * i) 48))

/-- R260: what validation finds: good, BAD_BATCH with its slot, or ADDRESS. -/
inductive KilnCheck where
  | good | bad (slot : Nat) | address
  deriving DecidableEq, Repr

/-- R260: the checks in order: the block, the tables, the batch's own fields, the slots. -/
def kilnCheck (s : State) (ctx : Nat) (d : List Byte) : KilnCheck × List Byte × State :=
  let (r, s) := agentReadAll s ctx (kdBlock d) 128 (unitEnd 10)
  if !r.ok || !r.bad.isEmpty then (.address, r.data, s)
  else
    let b := r.data
    if !kilnFieldsOk d b then (.bad 0xFFFF, b, s)
    else
      match kilnTables s ctx d b with
      | (some [perm, par, bf, dst], s) =>
        if (List.range (kbBackfills b)).any (fun i => decide (kbCatalogCount b ≤ fld bf (4 * i) 4)) ||
          !kilnDstOk s ctx d b dst then (.bad 0xFFFF, b, s)
        else (match firstBadSlot d b perm par with | some i => .bad i | none => .good, b, s)
      | (_, s) => (.address, b, s)

/-! ### Batches and engines -/

def State.modKiln (s : State) (g : Kiln → Kiln) : State := { s with kiln := g s.kiln }
def State.batch? (s : State) (id : Nat) : Option Batch := s.kiln.batches.find? (fun b => b.id == id)
def State.modBatch (s : State) (id : Nat) (g : Batch → Batch) : State :=
  s.modKiln (fun k => { k with batches := k.batches.map (fun b => if b.id = id then g b else b) })
def State.engine (s : State) (e : Nat) : Engine := tget Engine.reset s.kiln.engines e
def State.setEngine (s : State) (e : Nat) (x : Engine) : State :=
  s.modKiln (fun k => { k with engines := tset x k.engines e })
def Batch.slot (b : Batch) (i : Nat) : Slot :=
  b.slots.getD i { st := .todo, cause := 0, cand := none, catalog := 0, clamped := false }
def Batch.setSlot (b : Batch) (i : Nat) (x : Slot) : Batch := { b with slots := b.slots.set i x }
def Slot.final (x : Slot) : Bool := x.st == .done || x.st == .padding

/-- R459: an engine leaves service: its bit clears, and the test request that fenced it is answered. -/
def engineOut (s : State) (e : Nat) : State :=
  let s := s.modKiln (fun k => { k with fencing := k.fencing &&& ~~~ (BitVec.ofNat 16 (2 ^ e)), up := k.up &&& ~~~ (BitVec.ofNat 16 (2 ^ e)) })
  testDone (pointPut s 3 e 1) 1 3 e 0 0 0 0

/-- R275: a draining kiln with no admitted timed batch left, and no sample in an engine, is suspended, or runs again if a
re-enable is queued. -/
def kilnDrained (s : State) : State :=
  let waiting := s.ctxs.any (fun c => c.2.sq.any (fun r => r.2.out.any (fun d =>
    d.type == 4 && d.phase == .ready && d.treq.isSome)))
  if s.kiln.kstate = 1 && !waiting && !s.kiln.batches.any (fun b => b.timed) && s.kiln.engines.all (fun e => e.2.st == .free) then
    s.modKiln (fun k => if k.queuedEnable then { k with kstate := 0, queuedEnable := false } else { k with kstate := 2 })
  else s

/-- What an engine still reads of its source is given up: its flash READs, host reads and remote reads. -/
def dropSource (s : State) (e : Nat) : State :=
  { s with
    flash := { s.flash with cmds := s.flash.cmds.filter (fun c => c.origin != .kiln e) },
    hostReads := s.hostReads.map (fun h => match h.who with
      | .engine k _ => if k = e then { h with abandoned := true } else h
      | _ => h),
    links := { s.links with issued := s.links.issued.filter (fun i => i.engine != some e) } }

/-- R275: an engine is free again; one that is to be fenced leaves service. -/
def freeEngine (s : State) (e : Nat) : State :=
  let s := (dropSource s e).setEngine e Engine.reset
  kilnDrained (if s.kiln.fencing.getLsbD e then engineOut s e else s)

/-- The report's summary (R270). -/
def kilnSummary (b : Batch) (status bad now : Nat) : List Byte :=
  let back := (b.slots.filter (fun x => x.st == .done && x.cand.isSome)).length
  let pad := (b.slots.filter (fun x => x.st == .padding)).length
  leBytes 1 1 ++ leBytes 1 status ++ leBytes 2 bad ++ leBytes 2 b.corrupt ++ leBytes 2 back ++ leBytes 2 pad ++
    leBytes 2 b.bfUsed ++ leBytes 4 b.clamped ++ leBytes 8 (b.pixels / 5) ++ leBytes 8 now

/-- R260: a batch that fails validation completes; its report holds the summary. -/
def kilnReject (s : State) (ctx ring : Nat) (d : Desc) (status bad : Nat) : State :=
  let b : Batch := { id := 0, ctx := ctx, ring := ring, abs := d.abs, bytes := d.bytes, block := [], timed := false,
                     deadline := 0, slots := [], corrupt := 0, bfUsed := 0, clamped := 0, pixels := 0, excess := false }
  let (_, s) := agentWriteAll s ctx (kdReport d.bytes) (kilnSummary b status bad s.now) [] (unitEnd 10)
  finishDesc s ctx ring d.abs status 0

/-- A valid batch goes into progress. -/
def kilnAccept (s : State) (ctx ring : Nat) (d : Desc) (block : List Byte) : State :=
  let (id, s) := s.fresh
  let x : Slot := { st := .todo, cause := 0, cand := none, catalog := 0, clamped := false }
  s.modKiln (fun k => { k with batches := k.batches ++ [{
    id := id, ctx := ctx, ring := ring, abs := d.abs, bytes := d.bytes, block := block, timed := d.treq.isSome,
    deadline := d.deadline, slots := List.replicate (kdBatch d.bytes) x, corrupt := 0, bfUsed := 0, clamped := 0,
    pixels := 0, excess := false }] })

/-- R260, R275: a batch is taken; a draining kiln takes the timed ones that are admitted already. -/
def kilnTake (s : State) (ctx ring : Nat) (d : Desc) : State :=
  if s.variant = .kv1s then finishDesc s ctx ring d.abs 4 0
  else if s.kiln.kstate ≠ 0 ∧ d.treq.isNone then finishDesc s ctx ring d.abs 0xF0 0
  else if !s.kilnOn || s.unitOutranked d || s.stalled (kdBlock d.bytes) 128 then s
  else
    let s := s.startDesc ctx ring d.abs
    match kilnCheck s ctx d.bytes with
    | (.good, b, s) => kilnAccept s ctx ring d b
    | (.bad i, _, s) => kilnReject s ctx ring d 1 i
    | (.address, _, s) => kilnReject s ctx ring d 2 0

/-- R260: KILN_BATCH. -/
def execKilnBatch (ctx ring : Nat) (s : State) : Host.Outcome State Fault Refusal :=
  .next (match s.nextOf ctx ring 4 with
    | some d => kilnTake s ctx ring d
    | none => s)

/-! ### Slots (R261 to R265) -/

/-- The admitted request of a batch. -/
def batchReq (s : State) (b : Batch) : Option Nat := (s.desc? b.ctx b.ring b.abs).bind (·.treq)

/-- A sample is corrupt: the slot, the counters, the engine. -/
def kilnCorrupt (s : State) (e cause : Nat) : State :=
  let g := s.engine e
  let s := s.modBatch g.batch (fun b =>
    let x := b.slot g.slot
    { b.setSlot g.slot { x with st := .corrupt, cause := if x.cand.isNone then cause else x.cause } with
        corrupt := b.corrupt + 1 })
  freeEngine ((s.bump 0x1A01C 0 1).bump 0x1A034 cause 1) e

/-- R263, steps 1 to 3. -/
def recordCause (s : State) (r : List Byte) : Option Nat :=
  if 5 ≤ crCodec r ∨ 3 ≤ crSrc r then some 1
  else if crLength r = 0 ∨ 268435456 < crLength r then some 2
  else if crFrames r = 0 ∨ s.regFld 0x1A010 0 0 20 < crFrames r ∨ (crCodec r = 4 ∧ crFrames r ≠ 1) then some 9
  else none

/-- Bytes of the header window. -/
def headerBytes (r : List Byte) : Nat := min (crLength r) 65536

/-- R262, SRC 0: the flash READ of what the engine wants of its object. One that a command on the batch's context could
not make fails. -/
def askFlashSource (s : State) (e ctx : Nat) : State :=
  let g := s.engine e
  let a := crAddr g.record
  let off := (a + g.lo) / 4096
  let len := (a + g.hi - 1) / 4096 - off + 1
  let s := s.setEngine e { g with asked := 1 }
  if poisonedAt s (crObj g.record) off len then
    (match s.batch? g.batch with
     | some b => (breakForData s (batchReq s b) resFlashRd).engineFails e
     | none => s)
  else if (objFaultAt s ctx (crObj g.record) (some (off, len))).isSome || s.power.stage5 then s.engineFails e
  else
    let (id, s) := s.fresh
    let c : FCmd := {
      id := id, origin := .kiln e, ctx := ctx, op := 3, obj := crObj g.record, off := off, len := len, addr := a,
      stream := none, joint := none, started := true, units := (List.range len).map (· + off), status := 0, programs := 0,
      parity := [], deferred := false, late := false, steppedAt := s.now, data := [], asked := 0, landed := 0, parts := [],
      badParts := [] }
    s.modFlash (fun f => { f with cmds := f.cmds ++ [c] })

/-- R262, SRC 1: one more host read of a sample, or its failure. -/
def askHostPiece (e ctx : Nat) (treq : Option Nat) (s : State) (p : Nat × Nat) : State :=
  let g := s.engine e
  let a := crAddr g.record + g.lo + p.1
  let s := s.setEngine e { g with asked := g.asked + 1 }
  if addrKind a == .host && s.reaches ctx a p.2 false then s.askHost ctx a p.2 (.engine e (g.lo + p.1)) treq
  else (s.addrError ctx).engineFails e

/-- R262, SRC 1: as many host reads as host tags are free. -/
def askHostSource (s : State) (e ctx : Nat) (treq : Option Nat) : State :=
  let g := s.engine e
  let a := crAddr g.record + g.lo
  (((requests a a (g.hi - g.lo)).drop g.asked).take (s.freeTags ctx)).foldl (askHostPiece e ctx treq) s

/-- R288: the peer is a neighbour that implements version 1 only, which serves no reads. -/
def oldPartner (s : State) (e : Nat) : Bool :=
  rtHopsM1 (s.routeWord e) == 0 && (s.port (hopPort (rtRoute (s.routeWord e)) 0)).version == 1

/-- Pieces of a remote read: a message carries at most 65,504 data bytes. -/
def peerPieces : Nat → Nat → Nat → List (Nat × Nat)
  | 0, _, _ => []
  | fuel + 1, o, n => if n = 0 then [] else (o, min n 65504) :: peerPieces fuel (o + min n 65504) (n - min n 65504)

/-- R262, SRC 2: one remote read of a sample. -/
def askPeerPiece (e ctx : Nat) (timed : Bool) (s : State) (p : Nat × Nat) : State :=
  let r := (s.engine e).record
  let (tag, s) := s.fresh
  let (o, s) := sendOn s (crPeer r) (if timed then 0 else 1)
    (msgHeader 2 0 ctx tag ((crAddr r + p.1) % 2 ^ 48) p.2 s.coord) ctx tag
  let i : Issued := { tag := tag, ctx := ctx, entry := crPeer r, rjoint := 0, engine := some e, ofs := p.1 }
  if o = .sent then { s with links := { s.links with issued := s.links.issued ++ [i] } } else s.engineFails e

/-- R262, SRC 2: the remote reads of what the engine wants of its sample. -/
def askPeerSource (s : State) (e ctx : Nat) (timed : Bool) : State :=
  let g := s.engine e
  let s := s.setEngine e { g with asked := 1 }
  if oldPartner s (crPeer g.record) then s.engineFails e
  else (peerPieces ((g.hi - g.lo) / 65504 + 1) g.lo (g.hi - g.lo)).foldl (askPeerPiece e ctx timed) s

/-- R262: the engine asks for what it has not yet asked for of its range. -/
def askSource (s : State) (b : Batch) (e : Nat) : State :=
  let g := s.engine e
  if g.hi ≤ g.lo then s
  else if crSrc g.record = 0 then (if g.asked = 0 && flashOn s then askFlashSource s e b.ctx else s)
  else if crSrc g.record = 1 then askHostSource s e b.ctx (batchReq s b)
  else if g.asked = 0 then askPeerSource s e b.ctx b.timed else s

/-- The engine holds all of the range it wants. -/
def Engine.whole (g : Engine) : Bool := decide (g.hi - g.lo ≤ g.landed)

/-- The stream's bytes that the engine holds, from offset `o` on. -/
def Engine.bytesFrom (g : Engine) (o : Nat) : List Byte := g.parts.flatMap (fun p => p.2.drop (o - p.1))

/-- The catalogue index of the sample that a slot takes now: its own, or a backfill entry's. -/
def slotIndex (s : State) (b : Batch) (i : Nat) : Option Nat × State :=
  let a := match (b.slot i).cand with | none => kbPerm b.block + 4 * (kdPos b.bytes + i) | some k => kbBackfill b.block + 4 * k
  let (r, s) := agentReadAll s b.ctx a 4 (unitEnd 10)
  let s := breakForWords s (batchReq s b) r.bad
  (if r.ok && r.bad.isEmpty then some (fld r.data 0 4) else none, s)

/-- R261, R263: a slot starts on an engine: steps 1 to 3, then the reads of step 4. -/
def slotStart (s : State) (b : Batch) (i e : Nat) : State :=
  let s := s.modBatch b.id (fun b => b.setSlot i { b.slot i with st := .busy })
  let s := s.setEngine e { Engine.reset with st := .header, batch := b.id, slot := i }
  match slotIndex s b i with
  | (none, s) => kilnCorrupt s e 3
  | (some c, s) =>
    let (r, s) := agentReadAll s b.ctx (kbCatalog b.block + 32 * c) 32 (unitEnd 10)
    let s := breakForWords s (batchReq s b) r.bad
    let s := s.setEngine e { s.engine e with catalog := c, record := r.data }
    if !r.ok || !r.bad.isEmpty then kilnCorrupt s e 3
    else match recordCause s r.data with
      | some cause => kilnCorrupt s e cause
      | none => askSource (s.setEngine e { s.engine e with hi := headerBytes r.data }) b e

/-- The lowest slot that waits for an engine. -/
def Batch.nextSlot (b : Batch) : Option Nat := (List.range b.slots.length).find? (fun i => (b.slot i).st == .todo)

/-- R53, R261, R273: where a batch stands: 0 timed, 1 at the head of the bulk ones, being broken or beyond its
declaration, 2 bulk. -/
def State.batchRank (s : State) (b : Batch) : Nat :=
  if !b.timed then 2 else if b.excess then 1 else s.rank (batchReq s b)

/-- R261: one batch takes an engine before another: by rank, timed ones by deadline. -/
def State.batchBefore (s : State) (b c : Batch) : Bool :=
  decide (s.batchRank b < s.batchRank c) ||
    (s.batchRank b == 0 && s.batchRank c == 0 && decide (b.deadline < c.deadline))

/-- R261: no batch that waits for an engine comes before this one; of timed ones with one deadline, the oldest. -/
def batchTurn (s : State) (b : Batch) : Bool :=
  let l := s.kiln.batches.filter (fun c => c.nextSlot.isSome && (c.timed || s.kiln.kstate == 0))
  let first := l.filter (fun c => !l.any (fun x => s.batchBefore x c))
  if s.batchRank b = 0 then (first.head?.map (·.id)) == some b.id else first.any (fun c => c.id == b.id)

/-- R261, R275: the next slot of a batch starts, if an engine is free and no other batch comes first. -/
def kilnNext (s : State) (id : Nat) : State :=
  match s.batch? id with
  | none => s
  | some b =>
    let free := (List.range 16).find? (fun e => s.kiln.up.getLsbD e && !s.kiln.fencing.getLsbD e && (s.engine e).st == .free)
    if !batchTurn s b then s
    else match free, b.nextSlot with
      | some e, some i => slotStart s b i e
      | _, _ => s

/-- R261: KILN_SLOT_START. -/
def execKilnSlotStart (batch : Nat) (s : State) : Host.Outcome State Fault Refusal := .next (kilnNext s batch)

/-- R264: bytes of one engine's share of the work region. -/
def kilnShare (s : State) : Nat := s.reg 0x1A008 0 / 16 * 4096

/-- R264: twice the bytes of a sample's frame buffers. -/
def frameBytes2 (codec w h depth : Nat) : Nat :=
  3 * w * h * (if depth = 10 then 2 else 1) * (if codec = 0 || codec = 3 then 10 else if codec = 4 then 1 else 18)

/-- R253, R263 step 6: the profile and level that the kiln decodes, as kilnParse gives them; no field-coded picture. The
codes of the profiles are the standards' (PRESUMED, log 30). -/
def profileOk (codec : Nat) (h : List Nat) : Bool :=
  let p := h.getD 0 0
  let level := h.getD 1 0
  h.getD 2 0 == 0 &&
    (if codec = 0 then p == 0 && decide (level ≤ 60)
     else if codec = 1 then (p == 1 || p == 2) && decide (level ≤ 61)
     else if codec = 2 then p == 100 && decide (level ≤ 52)
     else if codec = 3 then p == 0 || p == 2
     else p == 0 || p == 1)

/-- R263, steps 5 to 11, on what the first sequence header says. -/
def headerCause (s : State) (r : List Byte) (h : List Nat) : Option Nat :=
  let codec := crCodec r
  let w := h.getD 3 0
  let ht := h.getD 4 0
  let depth := h.getD 5 0
  let chroma := h.getD 6 0
  if h.isEmpty then some 4
  else if !profileOk codec h ∨ (codec = 3 ∧ h.getD 7 0 < crFrames r) then some 5
  else if w < 16 ∨ s.regFld 0x1A00C 0 0 14 < w ∨ ht < 16 ∨ s.regFld 0x1A00C 0 16 14 < ht ∨ 35651584 < w * ht ∨
    (codec = 2 ∧ 9437184 < w * ht) then some 6
  else if !(depth = 8 ∨ (depth = 10 ∧ (codec = 0 ∨ codec = 1 ∨ codec = 3))) then some 7
  else if !(chroma = 1 ∨ (codec = 4 ∧ chroma ≤ 3)) then some 8
  else if crLength r * s.regFld 0x1A014 0 0 16 < w * ht * crFrames r then some 0xA
  else if 2 * kilnShare s < frameBytes2 codec w ht depth then some 0xF
  else none

/-! ### Temporal sampling (R266) -/

/-- R266: the source frame of output frame `j` before the minimum. -/
def frameWanted (par : List Byte) (frames j : Nat) : Nat := fld par 0 2 * frames / 65536 + j * fld par 2 2

/-- R266: the source frame of output frame `j`. -/
def frameAt (par : List Byte) (frames j : Nat) : Nat := min (frameWanted par frames j) (frames - 1)

/-- R266: frames of a sample that the minimum clamps. A frame that already is FRAMES − 1 is not clamped. -/
def clampedFrames (par : List Byte) (frames count : Nat) : Nat :=
  ((List.range count).filter (fun j => decide (frames ≤ frameWanted par frames j))).length

def paSeekFrame (p : List Byte) : Nat := fld p 32 4
def paSeekByte (p : List Byte) : Nat := fld p 36 8

/-- R266: decoding starts at SEEK_BYTE. -/
def seeks (par : List Byte) (frames : Nat) (own : Bool) : Bool :=
  let f := paSeekFrame par
  own && f != 0xFFFFFFFF && decide (f ≤ frameAt par frames 0)

/-- The frame at which decoding begins, and its offset in the stream. -/
def decodeStart (par : List Byte) (frames : Nat) (own : Bool) : Nat × Nat :=
  if seeks par frames own then (paSeekFrame par, paSeekByte par) else (0, 0)

/-! ### The header window (R263) -/

/-- The slot's parameter record (R259). -/
def slotParam (s : State) (b : Batch) (i : Nat) : RdOut × State :=
  let (r, s) := agentReadAll s b.ctx (kbParam b.block + 48 * i) 48 (unitEnd 10)
  (r, breakForWords s (batchReq s b) r.bad)

/-- R263, step 12: the sample takes its share, and the rest of its stream is read, from SEEK_BYTE if it starts there. -/
def allocate (s : State) (b : Batch) (e : Nat) (parse : List Nat) : State :=
  let g := s.engine e
  let r := g.record
  let (par, s) := slotParam s b g.slot
  let n := frameBytes2 (crCodec r) (parse.getD 3 0) (parse.getD 4 0) (parse.getD 5 0) / 2
  let lo := max (headerBytes r) (decodeStart par.data (crFrames r) (b.slot g.slot).cand.isNone).2
  askSource (s.setEngine e { g with st := .decode, head := parse, share := n, lo := lo, hi := crLength r, asked := 0,
                                    landed := 0 }) b e

/-- R263: the header window has landed; what has not been asked for of it is asked for. -/
def headerDone (s : State) (e : Nat) : State :=
  let g := s.engine e
  match s.batch? g.batch with
  | none => s
  | some b =>
    if g.st ≠ .header then s
    else if g.failed then kilnCorrupt s e 3
    else if !g.whole then askSource s b e
    else
      let parse := Config.kilnParse (crCodec g.record) (g.bytesFrom 0)
      match headerCause s g.record parse with
      | some c => kilnCorrupt s e c
      | none => allocate s b e parse

/-- R263: KILN_HEADER_READ_DONE. -/
def execKilnHeaderReadDone (engine : Nat) (s : State) : Host.Outcome State Fault Refusal := .next (headerDone s engine)

/-! ### Decoding (R265) -/

/-- R265: the cause with which decoding ends: 0 where every frame needed decodes. -/
def decodeCause (g : Engine) (par : List Byte) (own : Bool) (count : Nat) : Nat :=
  let r := g.record
  let (first, at_) := decodeStart par (crFrames r) own
  let bytes := g.bytesFrom at_
  if seeks par (crFrames r) own && !Config.kilnSeekPoint (crCodec r) bytes first then 0xE
  else
    let v := Config.kilnVerdict (crCodec r) bytes first (frameAt par (crFrames r) (count - 1)) % 4
    if v = 0 then 0 else 0xA + v

/-- R253, R266: the decoded picture of output frame `j`. -/
def sourcePicture (g : Engine) (par : List Byte) (own : Bool) (j : Nat) : Picture :=
  let r := g.record
  let (first, at_) := decodeStart par (crFrames r) own
  { w := g.head.getD 3 0, h := g.head.getD 4 0, depth := g.head.getD 5 0, chroma := g.head.getD 6 0,
    siting := g.head.getD 10 0,
    at_ := Config.kilnSample (crCodec r) (g.bytesFrom at_) first (frameAt par (crFrames r) j) }

/-- R255: kiln size of a sample, in fifths of a pixel. -/
def sampleSize (b par r : List Byte) (h : List Nat) (own : Bool) : Nat :=
  let frames := crFrames r
  let last := frameAt par frames (kbFrames b - 1)
  let n := last + 1 - (decodeStart par frames own).1
  let dec := h.getD 3 0 * h.getD 4 0 * n
  let out := kbW b * kbH b * kbFrames b
  if dec < out then 5 * out else if crCodec r = 4 then 2 * dec else 5 * dec

/-! ### Writing a slot (R268, R269) -/

/-- Bytes of a timed batch have gone to a place: the remaining sizes of its path fall (R48). -/
def kilnWrote (s : State) (b : Batch) (a n : Nat) : State :=
  s.progressAll (batchReq s b) (s.chargeRange (unitEnd 10) a n true ([], 0)).1

/-- The tokens of a slot go to their places, and its segment ids. -/
def writeSlot (s : State) (b : Batch) (i seg : Nat) (tok : Nat → List Byte) : State :=
  let n := kbTokens b.block
  let (t, s) := agentReadAll s b.ctx (kbDst b.block) (8 * kbNdst b.block) (unitEnd 10)
  (List.range n).foldl (fun s k =>
    let a := tokenAddr b.block t.data (i * n + k)
    let s := kilnWrote (agentWriteAll s b.ctx a (tok k) [] (unitEnd 10)).2 b a (kbToken b.block)
    if kbSegEn b.block then
      (let a := kbSeg b.block + 4 * (i * n + k)
       kilnWrote (agentWriteAll s b.ctx a (leBytes 4 seg) [] (unitEnd 10)).2 b a 4)
    else s) s

/-- R190: a place that the slot's tokens go to is in a channel that is being trained. -/
def slotStalled (s : State) (b : Batch) (i : Nat) : Bool :=
  let n := kbTokens b.block
  let t := s.bytesAt b.ctx (kbDst b.block) (8 * kbNdst b.block)
  (List.range n).any (fun k => s.stalled (tokenAddr b.block t (i * n + k)) (kbToken b.block))

/-- R267, R268: a sample has decoded: its tokens are written. R48, R273: a timed batch has consumed kiln size. -/
def sampleDone (s : State) (b : Batch) (e : Nat) (par : List Byte) : State :=
  let g := s.engine e
  let x := b.slot g.slot
  let blk := b.block
  let toks := (List.range (kbTokens blk)).map
    (kilnToken blk par g.head (s.arithConv b.ctx) (sourcePicture g par x.cand.isNone))
  let s := writeSlot s b g.slot ((kbSegBase blk + g.slot) % 2 ^ 32) (fun i => (toks.getD i ([], 0)).1)
  let s := raiseCtx s b.ctx (toks.foldl (fun f t => f ||| t.2) 0)
  let cl := clampedFrames par (crFrames g.record) (kbFrames blk)
  let size := sampleSize blk par g.record g.head x.cand.isNone
  let s := (s.bump 0x1A018 0 1).bump 0x1A028 0 cl
  let s := if x.cand.isSome then s.bump 0x1A020 0 1 else s
  let s := s.modBatch b.id (fun b =>
    { b.setSlot g.slot { x with st := .done, catalog := g.catalog, clamped := decide (0 < cl) } with
        clamped := b.clamped + cl, pixels := b.pixels + size,
        excess := b.timed && decide (5 * kdPixels b.bytes < b.pixels + size) })
  freeEngine (s.progressAll (batchReq s b) [(resKiln, ceilDiv size 5)]) e

/-- R265: an engine ends its sample: decoded, or corrupt. What has not been asked for of the stream is asked for. -/
def sampleEnd (s : State) (e : Nat) : State :=
  let g := s.engine e
  match s.batch? g.batch with
  | none => s
  | some b =>
    if g.st ≠ .decode then s
    else if g.failed then kilnCorrupt s e 3
    else if !g.whole then askSource s b e
    else if slotStalled s b g.slot then s
    else
      let (par, s) := slotParam s b g.slot
      let cause := decodeCause g par.data (b.slot g.slot).cand.isNone (kbFrames b.block)
      if cause = 0 then sampleDone s b e par.data else kilnCorrupt s e cause

/-- R265: KILN_SAMPLE_DECODED. -/
def execKilnSampleDecoded (engine : Nat) (s : State) : Host.Outcome State Fault Refusal := .next (sampleEnd s engine)

/-- R269: the lowest corrupt slot takes the next backfill entry once every lower slot is final, or becomes padding. -/
def backfill (s : State) (id : Nat) : State :=
  match s.batch? id with
  | none => s
  | some b =>
    match (List.range b.slots.length).find? (fun i => !(b.slot i).final) with
    | none => s
    | some i =>
      let x := b.slot i
      if x.st ≠ .corrupt || slotStalled s b i then s
      else if b.bfUsed < kbBackfills b.block then
        s.modBatch id (fun b => { b.setSlot i { x with st := .todo, cand := some b.bfUsed } with bfUsed := b.bfUsed + 1 })
      else
        let s := (writeSlot s b i 0xFFFFFFFF (fun _ => zeros (kbToken b.block))).bump 0x1A024 0 1
        s.modBatch id (fun b => b.setSlot i { x with st := .padding, catalog := 0xFFFFFFFF })

/-- R269: KILN_BACKFILL_ASSIGN. -/
def execKilnBackfillAssign (batch : Nat) (s : State) : Host.Outcome State Fault Refusal := .next (backfill s batch)

/-! ### Delivery (R270, R272, R273) -/

/-- R270: the entry of one slot. A padded slot names no backfill entry. -/
def slotEntry (x : Slot) : List Byte :=
  let o := if x.st = .padding then 2 else if x.cand.isSome then 1 else 0
  leBytes 1 (o + 4 * b2n x.clamped) ++ leBytes 1 x.cause ++
    leBytes 2 (if o = 1 then x.cand.getD 0xFFFF else 0xFFFF) ++ leBytes 4 x.catalog

/-- R272: a pallet is delivered. -/
def palletDone (s : State) (b : Batch) : State :=
  let st := if b.excess then 3 else 0
  let report := kilnSummary b st 0 s.now ++ b.slots.flatMap slotEntry
  let (_, s) := agentWriteAll s b.ctx (kdReport b.bytes) report [] (unitEnd 10)
  let s := if b.excess then s.bump 0x1A02C 0 1 else s
  let s := s.modKiln (fun k => { k with batches := k.batches.filter (fun x => x.id != b.id) })
  let c := s.ctx b.ctx
  let n := kdStream b.bytes
  let s := s.setCtx b.ctx { c with pallets := tset (tget 0 c.pallets n + 1) c.pallets n }
  let s := finishDesc s b.ctx b.ring b.abs st 0
  match kdJoint b.bytes with | some j => jointAddFor s b.ctx j 1 4 | none => s

/-- R272: KILN_PALLET_DELIVERED: every slot is final, and no older batch of the stream waits. -/
def execKilnPalletDelivered (batch : Nat) (s : State) : Host.Outcome State Fault Refusal :=
  .next (match s.batch? batch with
    | none => s
    | some b =>
      if b.slots.all Slot.final && (s.kiln.batches.find? (fun x => x.ctx == b.ctx && kdStream x.bytes == kdStream b.bytes)).map
        (fun x => x.id) == some b.id then kilnDrained (palletDone s b) else s)

/-! ### Charges (R273) -/

/-- The catalogue records that a batch's slots name, as they stand. -/
def batchRecords (s : State) (ctx : Nat) (d b : List Byte) : List (List Byte) :=
  (List.range (kdBatch d)).map (fun i =>
    s.bytesAt ctx (kbCatalog b + 32 * fld (s.bytesAt ctx (kbPerm b + 4 * (kdPos d + i)) 4) 0 4) 32)

/-- R273: the charges of a timed batch, its allowance, with the 933 pixels per µs at VP8 that R273 states, and whether its peers can be read in time (R295, R297). -/
def kilnCharges (s : State) (ctx : Nat) (d : List Byte) : List (Nat × Nat) × Nat × Bool :=
  let b := s.bytesAt ctx (kdBlock d) 128
  let rs := batchRecords s ctx d b
  let t := s.bytesAt ctx (kbDst b) (8 * kbNdst b)
  let n := kdBatch d * kbTokens b
  let src := fun k => rs.any (fun r => crSrc r == k)
  let peers := (rs.filter (fun r => crSrc r == 2)).map crPeer
  let l := addRes [] resKiln (kdPixels d)
  let l := if src 0 then addRes l resFlashRd (kdBytes d) else l
  let l := if src 1 then addRes l (resHost true) (kdBytes d) else l
  let l := ((peers.map (fun e => hopPort (rtRoute (s.routeWord e)) 0)).eraseDups).foldl
    (fun l p => addRes l (resPort p true) (256 * ceilDiv (kdBytes d) 256)) l
  let put := fun (acc : Charges) (a k : Nat) => s.chargeRange (unitEnd 10) a k true acc
  let (l, hops) := (List.range (ceilDiv n (kbChunk b))).foldl (fun acc q =>
    put acc (tokenAddr b t (q * kbChunk b)) (min (kbChunk b) (n - q * kbChunk b) * kbToken b)) (l, 0)
  let (l, hops) := if kbSegEn b then put (l, hops) (kbSeg b) (4 * n) else (l, hops)
  let far := peers.foldl (fun n e => max n (linkNs (hopPort (rtRoute (s.routeWord e)) 0))) 0
  let peerNs := if peers.isEmpty then 0 else 2 * far + 50
  let decode := ceilDiv (kdMaxSample d * 1000 * 900) (933 * floorRate s.time.pp)
  (l, s.allowance hops true (src 1) + decode + (if src 0 then 80000 else 0) + peerNs,
    peers.all s.timedEntry)

end Sys2Proof.Machine
end

