-- ==== Sys2Proof/Machine/Arkel.lean ====
section
/-! DEFINITION. The Arkel links (R277 to R301): bring-up, lanes and fibres, flits, messages that others' operations do
not take, route tables, time exchange, the laser supply, and removal (R353). Port 8 is the host port, of which only the
optical layer is modelled (R299). -/

namespace Sys2Proof.Machine

/-! ### Capacity lost (R290, R291) -/

/-- R51, R52: a port's ledger is re-checked at the capacity that remains, with `ns` of the port's time gone. -/
def recheckPort (s : State) (p dir ns : Nat) : State :=
  let res := resPort p (dir == 1)
  let less := (s.ledger res).map (fun e => { e with deadline := e.deadline - ns })
  (ledgerFailures (s.capacity s.time.pp s.admShare res) s.resvPct s.now 0 (sortLedger less)).foldl
    (fun s id => breakReq s id 3 0 res) s

def Port.fibres (p : Port) (dir : Nat) : BitVec 4 := if dir = 0 then p.txFibres else p.rxFibres

def Port.setFibres (p : Port) (dir : Nat) (v : BitVec 4) : Port :=
  if dir = 0 then { p with txFibres := v } else { p with rxFibres := v }

def Port.fibreOn (p : Port) (dir f : Nat) : Bool := (p.fibres dir).getLsbD f

def Port.spare (p : Port) (dir f : Nat) : Nat := (if dir = 0 then p.spareTx else p.spareRx).getD f 15

def Port.setSpare (p : Port) (dir f v : Nat) : Port :=
  if dir = 0 then { p with spareTx := p.spareTx.set f v } else { p with spareRx := p.spareRx.set f v }

/-- R291: a fibre goes out of service. -/
def fibreOut (s : State) (p dir f : Nat) : State :=
  let x := s.port p
  if !x.fibreOn dir f then s
  else
    let x := x.setFibres dir (x.fibres dir &&& ~~~(1#4 <<< f))
    let x := { x with swapping := x.swapping.filter (fun w => w != (dir, f)) }
    let s := (s.setPort p x).bump 0x1B02C p 1
    if p < 8 then recheckPort s p dir 0 else s

/-! ### A link goes down (R291) -/

/-- Own joint signals whose message the partner has not acknowledged fail with their event record (R381). -/
def signalsLost (s : State) (heads : List (List Byte)) : State :=
  heads.foldl (fun s b =>
    if msgOp b = 5 && msgSrc b = s.coord then
      match s.links.issued.find? (fun i =>
          i.engine.isNone && i.tag == msgTag b && i.ctx == msgCtx b && i.rjoint == msgAddr b % 2 ^ 14) with
      | some i => signalFailed { s with links := { s.links with issued := dropEq i s.links.issued } } i
      | none => s
    else s) s

/-- R262, R291: the kiln reads that wait over a port fail: the engines' samples have no source. -/
def readsLost (s : State) (p : Nat) : State :=
  let lost := s.links.issued.filter (fun i => i.engine.isSome && hopPort (rtRoute (s.routeWord i.entry)) 0 == p)
  let s := { s with links := { s.links with issued := s.links.issued.filter (fun i => !lost.contains i) } }
  ((lost.filterMap (·.engine)).eraseDups).foldl State.engineFails s

/-- A forwarded message that cannot go on is reported to its source (R293); a notice itself is not. -/
def dropForwarded (s : State) (m : TxMsg) : State :=
  if m.vc % 8 = 0 || msgOp m.bytes == 6 then s
  else noticeFor s { bytes := m.bytes, vc := m.vc - 1, route := m.route, hopsM1 := m.hopsM1, rev := m.rev } 0

/-! ### The way to the root (R296) -/

/-- R296: the port towards the root, the greatest device time that a port in step with its partner knows of: the fewest
hops, then the lower code. Ports' roots within 100 ns of each other are one root (DEDUCED, log entry 104). -/
def timeParent (s : State) : Option Nat :=
  let follows := fun p => (s.port p).phase == .up && (s.port p).exchanged && !(s.port p).timeSplit &&
    decide (0 < (s.port p).rootAhead)
  let most := (List.range 8).foldl (fun (m : Int) p => if follows p then max m (s.port p).rootAhead else m) 0
  (List.range 8).foldl (fun best p =>
    if !follows p || decide ((s.port p).rootAhead + 100 < most) then best
    else match best with
      | none => some p
      | some q => if (s.port p).rootHops < (s.port q).rootHops then some p else best) none

/-- R296: the module follows the port towards the root; one that follows none runs free. -/
def reparent (s : State) : State :=
  let par := timeParent s
  if par = s.links.parent then s
  else { s with links := { s.links with parent := par },
                time := { s.time with slewLeft := match par with | some q => (s.port q).offsetPs | none => 0 } }

/-- R291: the port's link goes down, to a phase and cause. A port that was not UP only changes phase, and the host
port has no route, no message and no collective of the module's. -/
def portDown (s : State) (p : Nat) (phase : PortPhase) (cause : Nat) : State :=
  let x := s.port p
  let y := { x with phase := phase, cause := cause, txFibres := 0, rxFibres := 0, version := 0, exchanged := false,
                    timeSplit := false, swapping := [], replay := [], txQ := [], wire := [], asm := [], owed := [],
                    credits := [], nakDue := false, symErrs := [] }
  let s := s.setPort p y
  if x.phase ≠ .up then s
  else if 8 ≤ p then s.bump 0x1B02C p 1
  else
    let s := reparent ((s.markDown p).bump 0x1B02C p 1)
    let s := recheckPort (recheckPort s p 0 0) p 1 0
    let s := signalsLost s ((x.replay.map (fun r => slice r.2 12 256)) ++ x.txQ.map (fun m => m.bytes))
    let s := x.txQ.foldl dropForwarded s
    collLinkLost (readsLost s p) p

/-- R291: ARKEL_LINK_DOWN. -/
def execArkelLinkDown (port dir : Nat) (s : State) : Host.Outcome State Fault Refusal :=
  .next (if s.portUp port && (s.port port).fibres dir == 0 then portDown s port .off (if dir = 1 then 5 else 0) else s)

/-! ### Bring-up (R287 to R289) -/

def State.linkEnabled (s : State) (p : Nat) : Bool := bitAt (s.reg 0x1B00C p) 0
def State.linkAuto (s : State) (p : Nat) : Bool := bitAt (s.reg 0x1B00C p) 1
def State.anyPort (s : State) (p : Nat) : Bool := bitAt (s.reg 0x1B00C p) 2

/-- R287 E1: ARKEL_LIGHT_DETECT. -/
def execArkelLightDetect (port : Nat) (s : State) : Host.Outcome State Fault Refusal :=
  .next (if s.linkEnabled port && (s.port port).phase == .dark then s.setPort port { s.port port with phase := .lanes, cause := 0 }
    else s)

/-- R298: wavelengths that neither input supplies. -/
def State.darkLanes (s : State) : List Nat :=
  (List.range 9).filter (fun l => !s.links.ls0.getLsbD l && !s.links.ls1.getLsbD l)

/-- The lanes of a fibre that cannot carry data: those that failed training, those without light, those fenced. -/
def badLanes (s : State) (p : Nat) (failed : List (Nat × Nat × Nat)) (dir f : Nat) : List Nat :=
  (List.range 9).filter (fun l => failed.contains (dir, f, l) || (dir == 0 && s.darkLanes.contains l) ||
    (dir == 1 && (s.port p).fencedLane.contains (f, l)))

/-- R287 E3: the spare map of a fibre with these bad lanes; none where it cannot place eight good lanes. -/
def placeSpare (bad : List Nat) : Option Nat :=
  match bad with
  | [] => some 15
  | [8] => some 14
  | [l] => some l
  | _ => none

/-- R287 E4: the payload of a link-control flit: the version range, the torus coordinates, the port code and the fibres
in service. Its layout is a DESIGN CHOICE (log entry 95). -/
def controlPayload (s : State) (p : Nat) (fibres : BitVec 4) : List Byte :=
  leBytes 1 1 ++ leBytes 1 2 ++ leBytes 3 s.coord ++ leBytes 1 p ++ leBytes 1 fibres.toNat

/-- R465: the spares of a port that were put to another use enter the pointing map. -/
def pointSpares (s : State) (p : Nat) (old : Port) : State :=
  if 8 ≤ p then s
  else (List.range 8).foldl (fun s k =>
    let v := (s.port p).spare (k / 4) (k % 4)
    if v = old.spare (k / 4) (k % 4) then s else pointPut s 5 (p + 8 * k) v) s

/-- R287 E2, E3: lanes are placed and the fibre groups gain lock. The port then sends its link-control flit, which stands
before the sequence of R281; the host port's link trains on as PCIe does (R299). -/
def lanesTrained (s : State) (p : Nat) (failed : List (Nat × Nat × Nat)) : State :=
  let x := s.port p
  if x.phase ≠ .lanes then s
  else
    let place := fun (dir : Nat) =>
      (List.range (portFibres p)).map (fun f => placeSpare (badLanes s p failed dir f))
    let fib := fun (l : List (Option Nat)) => BitVec.ofNat 4 (l.zipIdx.foldl (fun n o => n + b2n o.1.isSome * 2 ^ o.2) 0)
    let map_ := fun (l : List (Option Nat)) => (l.map (fun (o : Option Nat) => o.getD 15) ++ List.replicate 4 15).take 4
    let tx := place 0
    let rx := place 1
    let y := { x with txFibres := fib tx, rxFibres := fib rx, spareTx := map_ tx, spareRx := map_ rx,
                      failRun := List.replicate 4 0, swapping := [], txFlit := 0, symErrs := [] }
    if fib tx = 0 ∨ fib rx = 0 then s.setPort p { y with phase := .off, cause := 0, txFibres := 0, rxFibres := 0 }
    else if 8 ≤ p then s.setPort p { y with phase := .up, cause := 0 }
    else pointSpares (s.setPort p ({ y with phase := .fec }.send
      [flitBytes 2 true true false 0 0 0 0 false 0 0 0 (controlPayload s p (fib tx))])) p x

/-- R287: ARKEL_LANE_TRAIN_DONE. -/
def execArkelLaneTrainDone (port : Nat) (failed : List (Nat × Nat × Nat)) (s : State) : Host.Outcome State Fault Refusal :=
  .next (lanesTrained s port failed)

/-- R284: the credits that the partner grants at link-up. -/
def firstCredits : Tbl Nat := (List.range 32).map (fun v => (v, if v % 8 = 0 then 3072 else 96))

/-- R287 E6, R292: the link is UP: the one-hop route is written. -/
def linkUp (s : State) (p version : Nat) : State :=
  let x := s.port p
  let s := s.setPort p ({ x with
    phase := .up, cause := 0, version := version, txSeq := 0, rxSeq := 0, ackedSeq := 0, nakDue := false, replay := [],
    credits := firstCredits, owed := [], asm := [], lastVc := [], exchanged := false, timeSplit := false,
    ackAt := s.now }).drain
  s.setRoute p (x.coord + p * 2 ^ 24 + 2 ^ 51)

/-- R287 E4, E5, R288, R289: the partner's link-control flit. -/
def linkControl (s : State) (p verMin verMax coord code fibres : Nat) : State :=
  let x := s.port p
  if x.phase ≠ .fec then s
  else
    let v := min 2 verMax
    let y := { x with coord := coord % 2 ^ 24, code := code % 8, rxFibres := x.rxFibres &&& BitVec.ofNat 4 fibres }
    let s := s.setPort p y
    if v < max 1 verMin then portDown s p .off 4
    else if code % 8 ≠ p ^^^ 1 && !s.anyPort p then portDown s p .off 3
    else if y.rxFibres = 0 then portDown s p .off 0
    else linkUp s p v

/-- R287, R289: ARKEL_LINK_CONTROL_FLIT. -/
def execArkelLinkControlFlit (port verMin verMax coord code fibres : Nat) (s : State) : Host.Outcome State Fault Refusal :=
  .next (linkControl s port verMin verMax coord code fibres)

/-- R287: a port that is down with AUTO set tries again. -/
def execArkelBringupRetry (port : Nat) (s : State) : Host.Outcome State Fault Refusal :=
  .next (if (s.port port).phase == .off && s.linkEnabled port && s.linkAuto port then
    s.setPort port { s.port port with phase := .dark } else s)

/-- R287, R301: LINK_CTRL has been written: ENABLE starts bring-up or takes the port down, RETRAIN restarts it at E1. -/
def linkCtrl (s : State) (p : Nat) (wasOn retrain : Bool) : State :=
  if !s.linkEnabled p then (if (s.port p).phase = .off then s else portDown s p .off 0)
  else if retrain || !wasOn then portDown s p .dark 0
  else s

/-! ### Lanes (R290, R291) -/

/-- R454: the ID of a lane. -/
def laneId (p f lane : Nat) : Nat := p + 8 * f + 32 * lane

/-- R465: a failed lane enters the pointing map; one that receives has an event record and a notice too. -/
def laneNote (s : State) (p dir f lane : Nat) : State :=
  let s := pointPut s 2 (laneId p f lane + 256 * dir) 1
  if dir = 1 then repairEvent s 0 5 (laneId p f lane) 1 0 0 else s

/-- R290, R299: a lane of a fibre in service fails. On version 1 the spare takes over by retraining the fibre group, 150 µs
of a quarter of the port's rate; a lane of the host port is swapped as on version 2. -/
def laneFail (s : State) (p dir f lane : Nat) : State :=
  let x := s.port p
  let note := fun (s : State) => if p < 8 then laneNote s p dir f lane else s
  if x.phase ≠ .up ∨ !x.fibreOn dir f then s
  else if lane = 8 then
    (if x.spare dir f = 15 then pointSpares (s.setPort p (x.setSpare dir f 14)) p x
     else if x.spare dir f = 14 then s else fibreOut s p dir f)
  else if x.spare dir f = lane then s
  else if x.swapping.contains (dir, f) || x.spare dir f != 15 then fibreOut (note s) p dir f
  else
    let y := x.setSpare dir f lane
    let s := (note s).setPort p { y with swapping := y.swapping ++ [(dir, f)] }
    let s := (pointSpares s p x).bump 0x1B028 p 1
    if p < 8 then recheckPort s p dir (if x.version = 1 then 37500 else 2500) else s

/-- R290: ARKEL_LANE_FAIL. -/
def execArkelLaneFail (port dir fibre lane : Nat) (s : State) : Host.Outcome State Fault Refusal :=
  .next (laneFail s port dir fibre lane)

/-- R290: ARKEL_SPARE_SWAP_DONE. -/
def execArkelSpareSwapDone (port dir fibre : Nat) (s : State) : Host.Outcome State Fault Refusal :=
  .next (s.setPort port { s.port port with swapping := (s.port port).swapping.filter (fun w => w != (dir, fibre)) })

/-- R291: ARKEL_FIBRE_REJOIN: the fibre has eight good lanes again. -/
def fibreRejoin (s : State) (p dir f : Nat) : State :=
  let x := s.port p
  match placeSpare (badLanes s p [] dir f) with
  | some v => if x.phase = .up && (x.version == 2 || decide (8 ≤ p)) && !x.fibreOn dir f then
      pointSpares (s.setPort p
        (({ x with failRun := x.failRun.set f 0 }.setFibres dir (x.fibres dir ||| (1#4 <<< f))).setSpare dir f v)) p x
    else s
  | none => s

/-- R291: ARKEL_FIBRE_REJOIN; R407 stage 4 keeps one fibre in service per direction. -/
def execArkelFibreRejoin (port dir fibre : Nat) (s : State) : Host.Outcome State Fault Refusal :=
  .next (if 4 ≤ s.time.shedStage then s else fibreRejoin s port dir fibre)

/-! ### Flits (R279, R281 to R284) -/

/-- R281: the sender replays every unacknowledged flit. -/
def replayAll (s : State) (p : Nat) : State :=
  let x := s.port p
  (s.setPort p (x.send (x.replay.map (·.2)))).bump 0x1B024 p x.replay.length

/-- R278: symbols of a codeword that were wrong, from the lanes and their numbers. -/
def wrongSymbols (cw : List (Nat × Nat)) : Nat := (cw.map (·.2)).sum

/-- R278: the code corrects no more than 15 symbols of a codeword. -/
def uncorrectable (cw : List (Nat × Nat)) : Bool := decide (15 < wrongSymbols cw)

/-- R278, R290: codewords of a fibre are corrected, or cannot be: they are counted, and each lane's corrected symbols of
the last ms too. -/
def fecCount (s : State) (p f : Nat) (fec : List (List (Nat × Nat))) : State :=
  let good := fec.filter (fun cw => !uncorrectable cw && decide (0 < wrongSymbols cw))
  let s := (s.bump 0x1B018 p good.length).bump 0x1B01C p (fec.filter uncorrectable).length
  let x := s.port p
  let new := good.flatMap (fun cw => cw.map (fun c => (s.now, 16 * f + c.1, c.2)))
  s.setPort p { x with symErrs := x.symErrs.filter (fun e => decide (s.now < e.1 + 1000000)) ++ new }

/-- R290: symbols corrected on a lane in the last ms. -/
def Port.laneErrs (x : Port) (f lane : Nat) : Nat :=
  ((x.symErrs.filter (fun e => e.2.1 == 16 * f + lane)).map (·.2.2)).sum

/-- R290: the lanes of a fibre that exceed LANE_SER × 1,000 symbols in 1 ms fail. -/
def fecLanes (s : State) (p f : Nat) : State :=
  (List.range 9).foldl (fun s l =>
    if 1000 * s.regFld 0x1B00C p 8 8 < (s.port p).laneErrs f l then
      (let x := s.port p
       laneFail (s.setPort p { x with symErrs := x.symErrs.filter (fun e => e.2.1 != 16 * f + l) }) p 1 f l)
    else s) s

/-- R281: flits up to `ack` are acknowledged, if it names one of the window. -/
def Port.acked (x : Port) (ack now : Nat) : Port :=
  if x.replay.any (fun r => r.1 == ack) then
    { x with replay := (x.replay.dropWhile (fun r => r.1 != ack)).drop 1, ackedSeq := ack, ackAt := now }
  else x

/-- R278 to R281: what ACK_SEQ, NAK and the credits of a good flit do. -/
def flitHeader (s : State) (p : Nat) (b : List Byte) : State :=
  let x := (s.port p).acked (fld b 4 2) s.now
  let v := fldBits b 6 1 0 5
  let s := s.setPort p { x with credits := tset (tget 0 x.credits v + fldBits b 7 1 0 4) x.credits v }
  if fldBit b 6 5 then replayAll s p else s

/-- R293: the longest route that a partner forwards (R288). -/
def State.hopLimit (s : State) (p : Nat) : Nat := if (s.port p).version = 1 then 4 else 8

/-- R282, R293: a whole message: it is delivered here or sent on, on the next hop. -/
def messageIn (s : State) (p : Nat) (m : RxMsg) : State :=
  let hop := m.vc % 8
  if m.hopsM1 ≤ hop then s.setPort p { s.port p with inbox := (s.port p).inbox ++ [m] }
  else
    let x := s.port p
    let s := s.setPort p { x with owed := tset (tget 0 x.owed m.vc + ceilDiv m.bytes.length 256) x.owed m.vc }
    let q := hopPort m.route (hop + 1)
    if s.portUp q && decide (m.hopsM1 + 1 ≤ s.hopLimit q) then
      s.queueMsg q { bytes := m.bytes, vc := m.vc + 1, route := m.route, hopsM1 := m.hopsM1, rev := m.rev, entry := none,
                     ctx := msgCtx m.bytes, tag := msgTag m.bytes, sent := 0 }
    else if msgOp m.bytes = 6 then s
    else noticeFor s m 0

/-- R279, R282: the payload of a message flit joins its message; the last one makes it whole. -/
def payloadIn (s : State) (p : Nat) (b : List Byte) : State :=
  let x := s.port p
  let v := fldBits b 1 1 0 5
  let so := (if fldBit b 0 4 then [] else tget [] x.asm v) ++ slice b 12 256
  if fldBit b 0 5 then
    messageIn (s.setPort p { x with asm := tdel x.asm v }) p
      { bytes := so.take (32 + msgLen so), vc := v, route := fldBits b 8 4 0 24, hopsM1 := fldBits b 8 4 24 3,
        rev := fldBit b 0 6 }
  else s.setPort p { x with asm := tset so x.asm v }

/-- R279, R281: an idle flit carries what a header has to carry, when no message flit has and the window allows one. -/
def idleAfter (s : State) (p sent : Nat) : State :=
  let x := (s.port p).drain
  s.setPort p (if x.wire.length = sent && x.window then x.emit 0 false false false 0 0 0 [] else x)

/-- R281: a flit arrives on a fibre: it is taken in order, or discarded and NAKed. The receiver knows a flit by its CRC and
its SEQ alone (DEDUCED, log entry 95). -/
def flitIn (s : State) (p f : Nat) (b : List Byte) (good : Bool) : State :=
  let x := s.port p
  if x.phase ≠ .up ∨ !x.fibreOn 1 f ∨ x.swapping.contains (1, f) then s
  else
    let sent := x.wire.length
    if !good || fld b 2 2 != x.rxSeq then
      let run := if good then x.failRun.getD f 0 else x.failRun.getD f 0 + 1
      let s := (s.setPort p { x with failRun := x.failRun.set f run, nakDue := true }).bump 0x1B020 p 1
      let s := idleAfter s p sent
      if 16 ≤ run then fibreOut s p 1 f else s
    else
      let s := s.setPort p { x with failRun := x.failRun.set f 0, rxSeq := (x.rxSeq + 1) % 65536 }
      let s := flitHeader s p b
      let s := if fldBits b 0 1 0 4 = 1 then payloadIn s p b else s
      idleAfter s p sent

/-- R278, R281, R287 E4: a flit arrives: its codewords are corrected and its CRC is checked, and it goes to the link, or,
before the link is UP, to the port's bring-up if it is a link-control flit. -/
def flitArrives (s : State) (p f : Nat) (b : List Byte) (fec : List (List (Nat × Nat))) : State :=
  let good := crc32c (b.take 268) == fld b 268 4 && !fec.any uncorrectable
  let x := s.port p
  if x.phase ≠ .up && x.phase ≠ .fec || !x.fibreOn 1 f then s
  else
    let s := fecCount s p f fec
    let s := if x.phase = .up then flitIn s p f b good
      else if good && fldBits b 0 1 0 4 == 2 then
        linkControl s p (fld b 12 1) (fld b 13 1) (fld b 14 3) (fld b 17 1) (fld b 18 1)
      else s
    fecLanes s p f

/-- R281: ARKEL_FLIT_RECEIVE. -/
def execArkelFlitReceive (port fibre : Nat) (flit : List Byte) (fec : List (List (Nat × Nat))) (s : State) :
    Host.Outcome State Fault Refusal :=
  .next (flitArrives s port fibre flit fec)

/-- R281: ARKEL_REPLAY_TIMEOUT. -/
def execArkelReplayTimeout (port : Nat) (s : State) : Host.Outcome State Fault Refusal :=
  .next (if s.portUp port && !(s.port port).replay.isEmpty && decide (10000 + (s.port port).ackAt ≤ s.now) then
    replayAll (s.setPort port { s.port port with ackAt := s.now }) port else s)

/-! ### Messages (R280, R288, R293) -/

/-- The oldest takeable message of an OP at a port is consumed, if `ready` holds for it. -/
def onMsg (s : State) (port op : Nat) (ready : RxMsg → Bool) (k : State → RxMsg → State) : State :=
  match s.inMsg port (fun m => msgOp m.bytes == op && ready m) with
  | none => s
  | some m => k (s.consume port m) m

/-- R190: what a message reads or writes lies in channels whose accesses do not wait. -/
def accessReady (s : State) (wr : Bool) (m : RxMsg) : Bool := !s.stalled (msgAddr m.bytes) (msgLen m.bytes) wr

/-- R280, R305: a write for a context that is live here, request by request; what is done of it may be what a LAND
waits for. -/
def writeMsg (port : Nat) (s : State) (m : RxMsg) : State :=
  let b := m.bytes
  let c := msgCtx b
  let a := msgAddr b
  if !(s.ctx c).live then s.addrError c
  else (requests a a (msgLen b)).foldl (fun s p =>
    let (ok, s) := agentWrite s c (a + p.1) (slice (msgData b) p.1 p.2) [] (unitEnd port)
    if ok then collLanded s c (a + p.1) p.2 else s) s

/-- R280: ARKEL_WRITE_MSG. -/
def execArkelWriteMsg (port : Nat) (s : State) : Host.Outcome State Fault Refusal :=
  .next (onMsg s port 1 (accessReady s true) (writeMsg port))

/-- R280, R288, R293: a read request is answered along the reversed route: done, address error, poisoned, or
unsupported over a version 1 link. -/
def readMsg (port : Nat) (s : State) (m : RxMsg) : State :=
  let b := m.bytes
  let answer := fun (s : State) (status : Nat) (data : List Byte) =>
    sendBack s m (msgHeader 3 status (msgCtx b) (msgTag b) (msgAddr b) data.length s.coord ++ data)
  if (s.port port).version < 2 then answer s 3 []
  else if !(s.ctx (msgCtx b)).live then answer (s.addrError (msgCtx b)) 1 []
  else
    let (d, s) := agentReadAll s (msgCtx b) (msgAddr b) (msgLen b) (unitEnd port)
    if !d.ok then answer s 1 [] else answer s (if d.bad.isEmpty then 0 else 2) d.data

/-- R288: ARKEL_READ_REQUEST_MSG. -/
def execArkelReadRequestMsg (port : Nat) (s : State) : Host.Outcome State Fault Refusal :=
  .next (onMsg s port 2 (accessReady s false) (readMsg port))

/-- The admitted request of the batch that an engine works for. -/
def engineReq (s : State) (e : Nat) : Option Nat := (s.batch? (s.engine e).batch).bind (batchReq s)

/-- R280, R262: a read response: its data lands in the engine; an error leaves the sample without a source, and poisoned
data breaks an admitted batch (R51). -/
def responseMsg (port : Nat) (s : State) (m : RxMsg) : State :=
  match s.links.issued.find? (fun i => i.engine.isSome && i.tag == msgTag m.bytes && i.ctx == msgCtx m.bytes) with
  | none => s
  | some i =>
    let e := i.engine.getD 0
    let r := engineReq s e
    let s := ({ s with links := { s.links with issued := dropEq i s.links.issued } }).progressAll r
      [(resPort port true, 256 * ceilDiv m.bytes.length 256)]
    if msgStatus m.bytes = 0 then s.engineLand e i.ofs (msgData m.bytes)
    else (if msgStatus m.bytes = 2 then breakForData s r (resPort port true) else s).engineFails e

/-- R280: ARKEL_READ_RESPONSE_MSG. -/
def execArkelReadResponseMsg (port : Nat) (s : State) : Host.Outcome State Fault Refusal :=
  .next (onMsg s port 3 (fun _ => true) (responseMsg port))

/-- R293: the message of a notice was lost, or rejected, on the way that a route entry now holds, `n` modules on. -/
def wayOf (s : State) (m : RxMsg) (e : Nat) : Bool :=
  let n := m.vc % 8 + 1
  rtValid (s.routeWord e) && decide (n ≤ rtHopsM1 (s.routeWord e) + 1) &&
    bits (rtRoute (s.routeWord e)) 0 (3 * n) == reverseRoute m.route n

/-- R293, R310: a collective's message could not be delivered: its entries on the way to where it was lost are down. -/
def collNotice (s : State) (m : RxMsg) : State :=
  match s.coll? (msgCtx m.bytes) (msgTag m.bytes) with
  | none => s
  | some c =>
    let used := ((collPorts s c.ctx c.bytes).map s.portEntry ++ (if c.op = 5 then c.perm.map (·.peer) else [])).eraseDups
    let lost := used.filter (fun e => wayOf s m e && decide (m.vc % 8 < rtHopsM1 (s.routeWord e)))
    if lost.isEmpty then s else collEnd (lost.foldl State.markDown s) c 6

/-- R293, R381: an unreachable notice: the route is marked down unless the notice is a rejection, and the message's
operation fails. -/
def noticeMsg (s : State) (m : RxMsg) : State :=
  match s.links.issued.find? (fun i => i.tag == msgTag m.bytes && i.ctx == msgCtx m.bytes &&
      (i.engine.isSome || i.rjoint == msgAddr m.bytes % 2 ^ 14)) with
  | none => collNotice s m
  | some i =>
    let s := { s with links := { s.links with issued := dropEq i s.links.issued } }
    let e := if i.engine.isNone then s.signalEntry i.entry else i.entry
    let s := if msgStatus m.bytes = 1 || !wayOf s m e then s else s.markDown e
    match i.engine with
    | none => signalFailed s i
    | some e => s.engineFails e

/-- R293: UNREACHABLE_NOTICE. -/
def execUnreachableNotice (port : Nat) (s : State) : Host.Outcome State Fault Refusal := .next (onMsg s port 6 (fun _ => true) noticeMsg)

/-! ### Time exchange (R296, R297) -/

/-- R296: the time of the root that the module follows, and its hops to it: its own time and 0 for the root itself. -/
def State.rootSeen (s : State) : Nat × Nat :=
  match s.links.parent with
  | some p => ((s.now + (s.port p).rootAhead).toNat, (s.port p).rootHops + 1)
  | none => (s.now, 0)

/-- R296: TIME_EXCHANGE_SEND: the flit carries the module's device time, its root's and its hops to it (log entry 104);
it leaves while the window of R281 allows. -/
def execTimeExchangeSend (port : Nat) (s : State) : Host.Outcome State Fault Refusal :=
  .next (if s.portUp port && (s.port port).window then s.setPort port ((s.port port).emit 3 true true false 0 0 0
      (leBytes 8 s.now ++ leBytes 8 s.rootSeen.1 ++ leBytes 1 s.rootSeen.2)) else s)

/-- R297: the one forward step to the parent's time; every port's root lies that much less ahead. What is less than a ns
is slewed. -/
def acquireTime (s : State) (ofs : Int) : State :=
  let step := (ofs / 1000).toNat
  { s with
    time := { s.time with devTime := (s.now + step) % 2 ^ 64, slewLeft := ofs - 1000 * step },
    links := { s.links with ports := s.links.ports.map (fun x => (x.1, { x.2 with rootAhead := x.2.rootAhead - step })) } }

/-- R296, R297: an exchange: the one step before a context has started, a split, or slewing after the parent. -/
def timeExchange (s : State) (p root : Nat) (ofs : Int) (hops : Nat) : State :=
  if !s.portUp p then s
  else
    let ahead : Int := root - s.now
    let s := s.setPort p { s.port p with
      exchanged := true, offsetPs := ofs, rootAhead := ahead, rootHops := hops,
      timeSplit := s.links.startedCtx && decide (1000000 < ahead) }
    let s := reparent s
    let s :=
      if s.links.parent ≠ some p then s
      else if !s.links.acquired && !s.links.startedCtx then acquireTime s ofs
      else { s with time := { s.time with slewLeft := ofs } }
    { s with links := { s.links with acquired := true } }

/-- R296: TIME_EXCHANGE_FLIT. -/
def execTimeExchangeFlit (port : Nat) (rootTime : DWord) (offsetPs : Int) (rootHops : Nat) (s : State) :
    Host.Outcome State Fault Refusal := .next (timeExchange s port rootTime.toNat offsetPs rootHops)

/-! ### The laser supply (R298) -/

/-- R298: wavelengths of an input are gone: LS_FAULT, and what neither input supplies now fails everywhere. -/
def supplyLoss (s : State) (input : Nat) (ls : BitVec 9) (mm : Bool) : State :=
  let before := s.darkLanes
  let s := { s with links := if input = 0 then
      { s.links with ls0 := s.links.ls0 &&& ~~~ls, ls0mm := s.links.ls0mm && !mm }
    else { s.links with ls1 := s.links.ls1 &&& ~~~ls, ls1mm := s.links.ls1mm && !mm } }
  let s := if ls = 0 && !mm then s else s.orReg 0x1B038 0 0x100000
  let lost := s.darkLanes.filter (fun l => !before.contains l)
  if s.links.ls0 = 0 && s.links.ls1 = 0 then
    (List.range 9).foldl (fun s p => if s.portUp p then portDown s p .off 0 else s) s
  else (List.range 9).foldl (fun s p => (List.range (portFibres p)).foldl (fun s f =>
    lost.foldl (fun s l => laneFail s p 0 f l) s) s) s

/-- R298: LASER_SUPPLY_LOSS. -/
def execLaserSupplyLoss (input : Nat) (lambdas : BitVec 9) (mm : Bool) (s : State) : Host.Outcome State Fault Refusal :=
  .next (supplyLoss s input lambdas mm)

/-- R298: LASER_SUPPLY_LIGHT_RETURN. -/
def execLaserSupplyLightReturn (input : Nat) (lambdas : BitVec 9) (mm : Bool) (s : State) :
    Host.Outcome State Fault Refusal :=
  .next { s with links := if input = 0 then
      { s.links with ls0 := s.links.ls0 ||| lambdas, ls0mm := s.links.ls0mm || mm }
    else { s.links with ls1 := s.links.ls1 ||| lambdas, ls1mm := s.links.ls1mm || mm } }

/-! ### Routes (R292, R294) -/

/-- R294: a write of RT_HI commits the entry with the low half that the master holds; entries 0 to 7 are the device's. -/
def routeCommit (s : State) (master entry lo hi : Nat) : State :=
  if entry < 8 then s.clampEvent 0x1B048 master 2 else s.setRoute entry (lo + bits hi 0 20 * 2 ^ 32)

/-! ### Removal (R353) -/

/-- R353: the rack manager announces a removal: nothing more is admitted, and a port with no admitted request on it
is disabled. -/
def removal (s : State) : State :=
  let s := { s with time := { s.time with removed := true } }
  (List.range 8).foldl (fun s p =>
    if s.time.treqs.any (fun r => r.res.any (fun c => c.1 == resPort p false || c.1 == resPort p true)) then s
    else
      let was := s.linkEnabled p
      linkCtrl (s.setRegFld 0x1B00C p 0 1 0) p was false) s

/-- R353: REMOVAL_ANNOUNCE. -/
def execRemovalAnnounce (s : State) : Host.Outcome State Fault Refusal := .next (removal s)

end Sys2Proof.Machine
end

