-- ==== Sys2Proof/Machine/Matrix.lean ====
section
/-! DEFINITION. The matrix array: MMA, MDRAIN, MLOAD and MZERO (R68 to R79, R89 to R97). -/

namespace Sys2Proof.Machine

/-! ### Formats (R68) -/

/-- Bits of an element of a format code. -/
def fmtBits (c : Nat) : Nat := [8, 8, 8, 8, 8, 6, 6, 4, 8, 16, 16].getD c 0

/-- The value of an element of a format code, before its scale. -/
def fmtVal (c w : Nat) : Val :=
  if c = 0 then Val.ofInt (signed 8 w)
  else if c = 1 || c = 3 then Fmt.e4m3.decode w
  else if c = 2 || c = 4 then Fmt.e5m2.decode w
  else if c = 5 then Fmt.e3m2.decode w
  else if c = 6 then Fmt.e2m3.decode w
  else if c = 7 then Fmt.e2m1.decode w
  else if c = 8 then MxFmt.int8.decode w
  else if c = 9 then Fmt.bf16.decode w
  else Fmt.fp16.decode w

/-- R85, R92: the base-2 exponent of the weight of a format's last bit. -/
def fmtLsb (c : Nat) : Int := [0, -9, -16, -9, -16, -4, -3, -1, -6].getD c 0

def fmtMx (c : Nat) : Bool := decide (3 ≤ c) && decide (c ≤ 8)
def fmtFp32Path (c : Nat) : Bool := c == 9 || c == 10

/-- R68: the pair is one that the array accepts. -/
def pairOk (a b : Nat) : Bool :=
  (a == 0 && b == 0) || ((a == 1 || a == 2) && (b == 1 || b == 2)) ||
    (decide (3 ≤ a) && decide (a ≤ 7) && decide (3 ≤ b) && decide (b ≤ 7)) || (a == 8 && b == 8) ||
    (a == 9 && b == 9) || (a == 10 && b == 10)

/-! ### Blocks and panels (R70, R71) -/

/-- Bytes of a block of 256 elements. -/
def blockBytes (c : Nat) : Nat := 32 * fmtBits c

/-- R70: each of `n` consecutive blocks begins on a 64 B boundary and lies within one bank. -/
def blocksOk (a n size : Nat) : Bool :=
  (List.range n).all (fun i => (a + i * size) % 64 == 0 && (a + i * size) / 8192 == (a + i * size + size - 1) / 8192)

/-- The bits of element (r, c) of the block at scratchpad offset `a`. -/
def elemAt (s : State) (t a f r c : Nat) : Nat :=
  let o := (16 * r + c) * fmtBits f
  bits (leNat (s.scratch t (a + o / 8) (if fmtBits f = 16 then 2 else if o % 8 + fmtBits f ≤ 8 then 1 else 2))) (o % 8)
    (fmtBits f)

/-- R71: element `i` of the line of step κ: `axis` false for a column of the block, true for a row. -/
def lineElem (s : State) (t a f : Nat) (rows : Bool) (k i : Nat) : Nat :=
  let b := a + k / 16 * blockBytes f
  if rows then elemAt s t b f (k % 16) i else elemAt s t b f i (k % 16)

/-! ### Exact cells (R89 to R94) -/

def ExactCell.fresh : ExactCell := { anchor := none, acc := 0, guardCnt := 0, nan := false, pinf := false, ninf := false }

/-- R94: the special bits that a product sets, with IV. -/
def specialBits (a b : Val) : (Bool × Bool × Bool) × Nat :=
  match a, b with
  | .nan, _ => ((true, false, false), 0)
  | _, .nan => ((true, false, false), 0)
  | .inf s, .inf u => ((false, s == u, s != u), 0)
  | .inf s, .fin u m _ => if m = 0 then ((true, false, false), flagIV) else ((false, s == u, s != u), 0)
  | .fin s m _, .inf u => if m = 0 then ((true, false, false), flagIV) else ((false, s == u, s != u), 0)
  | .fin .., .fin .. => ((false, false, false), 0)

/-- R92, R93: a contribution of exact value `n` * 2^e with exponent `c`, and the flags it raises. -/
def ExactCell.add (x : ExactCell) (c n e : Int) : ExactCell × Nat :=
  let a := x.anchor.getD c
  let sh := e - (a - 50)
  let v : Int := if 0 ≤ sh then n * 2 ^ sh.toNat else n / 2 ^ (-sh).toNat
  let loss := decide (sh < 0) && n % 2 ^ (-sh).toNat != 0
  let g := e - (a + 21)
  let m : Nat := if 0 ≤ g then n.natAbs * 2 ^ g.toNat else ceilDiv n.natAbs (2 ^ (-g).toNat)
  let cnt := min (x.guardCnt + m) (2 ^ 24 - 1)
  ({ x with anchor := some a, acc := x.acc + BitVec.ofInt 96 v, guardCnt := cnt },
    (if loss then flagALOSS else 0) ||| (if x.guardCnt < 2 ^ 24 - 1 && cnt == 2 ^ 24 - 1 then flagAOVF else 0))

/-- R90, R94: a contribution from the products of some element pairs with exponent `c`. `e` is the exponent of the
weight of a product's last bit. -/
def ExactCell.contribute (x : ExactCell) (ps : List (Val × Val)) (c e : Int) : ExactCell × Nat :=
  let sp := ps.map (fun p => specialBits p.1 p.2)
  let nan := sp.any (fun b => b.1.1)
  let pinf := sp.any (fun b => b.1.2.1)
  let ninf := sp.any (fun b => b.1.2.2)
  if nan || pinf || ninf then
    ({ x with nan := x.nan || nan, pinf := x.pinf || pinf, ninf := x.ninf || ninf },
      sp.foldl (fun f b => f ||| b.2) 0)
  else x.add c (ps.foldl (fun (n : Int) p => n + (p.1.mul p.2).1.scaled e) 0) (e + c)

/-! ### The MMA word (R78) -/

/-- The fields of an MMA. -/
structure Mma where
  a : Nat
  b : Nat
  scale : Nat
  k : Nat
  fa : Nat
  fb : Nat
  shape : Nat
  aRows : Bool
  bRows : Bool
  set_ : Nat
  accumulate : Bool
  deriving DecidableEq, Repr

/-- R78: the fields, with the scalar registers added. -/
def mmaOf (x : Tile) (w : CWord) : Mma :=
  { a := x.byteAt (cwf w 84 12) (cwf w 26 4), b := x.byteAt (cwf w 72 12) (cwf w 22 4),
    scale := x.byteAt (cwf w 60 12) (cwf w 26 4), k := cwf w 47 13 + 1, fa := cwf w 43 4, fb := cwf w 39 4,
    shape := cwf w 36 3, aRows := cwb w 35, bRows := !cwb w 34, set_ := cwf w 31 3, accumulate := cwb w 30 }

/-- R72, R76: output rows and columns of a shape. -/
def shapeRows (n : Nat) : Nat := [16, 32, 16, 8, 8].getD n 0
def shapeCols (n : Nat) : Nat := [16, 32, 8, 16, 8].getD n 0

/-- R76: array steps. -/
def Mma.steps (m : Mma) : Nat :=
  let n := if m.shape = 1 then 65 * m.k / 16 else m.k
  if fmtFp32Path m.fa then 2 * n else if m.fa = 7 && m.fb = 7 then n / 2 else n

/-- Blocks of one panel. -/
def Mma.panelBlocks (m : Mma) : Nat := ceilDiv m.k 16

/-- The sets that the word writes. -/
def Mma.sets (m : Mma) : List Nat := if m.shape = 1 then (List.range 4).map (· + m.set_) else [m.set_]

/-- R72: bytes of the scale panel. -/
def Mma.scaleBytes (m : Mma) : Nat := if fmtMx m.fa then (shapeRows m.shape + shapeCols m.shape) * m.k / 32 else 0

/-- R80: the blocks of the A and B panels, each pair that one quadrant multiplies, that lie in one bank: the values of κ
that they hold. -/
def Mma.shared (m : Mma) : Nat :=
  let n := m.panelBlocks
  (List.range (if m.shape = 1 then 4 else 1)).foldl (fun acc q => (List.range n).foldl (fun acc i =>
    if (m.a + (q / 2 * n + i) * blockBytes m.fa) / 8192 = (m.b + (q % 2 * n + i) * blockBytes m.fb) / 8192
    then acc + min 16 (m.k - 16 * i) else acc) acc) 0

/-- R80: a bank of the scale panel holds part of the A or B panel. -/
def Mma.scaleShares (m : Mma) : Bool :=
  let n := m.panelBlocks * (if m.shape = 1 then 2 else 1)
  let meets := fun (a len : Nat) => decide (a / 8192 ≤ (m.scale + m.scaleBytes - 1) / 8192) &&
    decide (m.scale / 8192 ≤ (a + len - 1) / 8192)
  fmtMx m.fa && (meets m.a (n * blockBytes m.fa) || meets m.b (n * blockBytes m.fb))

/-- R80: the steps that the word takes: those of R76, as many again for the values of κ whose blocks share a bank, and one
per 32 values of κ for scales in a bank of A or B (DEDUCED for panels of several banks, log 98). -/
def Mma.stepsTaken (m : Mma) : Nat :=
  m.steps + (if fmtFp32Path m.fa then 2 * m.shared else if m.fa = 7 && m.fb = 7 then m.shared / 2 else m.shared) +
    (if m.scaleShares then m.k / 32 else 0)

/-- R68, R70, R76, R78: the fault of the word's fields, if one breaks its limits. -/
def Mma.fault (m : Mma) (x : Tile) : Option Nat :=
  let panels := if m.shape = 1 then 2 else 1
  let na := m.panelBlocks * panels
  if !pairOk m.fa m.fb || decide (4 < m.shape) then some 2
  else if decide (8192 < m.k) || (fmtMx m.fa && m.k % 32 != 0) || (m.shape == 1 && m.k % 16 != 0) then some 5
  else if m.shape == 1 && m.set_ % 4 != 0 then some 7
  else if !x.fits m.a (na * blockBytes m.fa) || !x.fits m.b (na * blockBytes m.fb) ||
    (fmtMx m.fa && !x.fits m.scale m.scaleBytes) then some 3
  else if !blocksOk m.a na (blockBytes m.fa) || !blocksOk m.b na (blockBytes m.fb) then some 4
  else none

/-- R73: the set's path differs from the word's. -/
def AccSet.clash (a : AccSet) (fp : Bool) : Bool :=
  match a with | .empty => false | .exact .. => fp | .fp32 _ => !fp

/-- R72: the exponent of the scales of row `i` and column `j` for group `g`; none where a scale is 0xFF. -/
def Mma.scaleExp (m : Mma) (s : State) (t i j g : Nat) : Option Int :=
  let rows := shapeRows m.shape
  let cols := shapeCols m.shape
  let sa := (s.mem.read (scratchAddr t (m.scale + rows * g + i))).toNat
  let sb := (s.mem.read (scratchAddr t (m.scale + rows * m.k / 32 + cols * g + j))).toNat
  if sa = 255 || sb = 255 then none else some ((sa : Int) + sb - 254)

/-- The element pairs of quadrant (qi, qj), cell (i, j), for κ from `lo`, `n` of them. -/
def Mma.pairs (m : Mma) (s : State) (t qi qj i j lo n : Nat) : List (Val × Val) :=
  let a := m.a + qi * m.panelBlocks * blockBytes m.fa
  let b := m.b + qj * m.panelBlocks * blockBytes m.fb
  (List.range n).map (fun d =>
    (fmtVal m.fa (lineElem s t a m.fa m.aRows (lo + d) i), fmtVal m.fb (lineElem s t b m.fb m.bRows (lo + d) j)))

/-- One exact cell through the whole word: contributions in ascending κ. -/
def Mma.exactCell (m : Mma) (s : State) (t qi qj i j : Nat) (x : ExactCell) : ExactCell × Nat :=
  let e := fmtLsb m.fa + fmtLsb m.fb
  if fmtMx m.fa then
    (List.range (m.k / 32)).foldl (fun (acc : ExactCell × Nat) g =>
      match m.scaleExp s t (16 * qi + i) (16 * qj + j) g with
      | none => ({ acc.1 with nan := true }, acc.2)
      | some c =>
        let (y, f) := acc.1.contribute (m.pairs s t qi qj i j (32 * g) 32) c e
        (y, acc.2 ||| f)) (x, 0)
  else
    (m.pairs s t qi qj i j 0 m.k).foldl (fun (acc : ExactCell × Nat) p =>
      let (y, f) := acc.1.contribute [p] 0 e
      (y, acc.2 ||| f)) (x, 0)

/-- R69, R97: one FP32 cell through the whole word. -/
def Mma.fpCell (m : Mma) (s : State) (t qi qj i j : Nat) (x : Word) : Word × Nat :=
  (m.pairs s t qi qj i j 0 m.k).foldl (fun (acc : Word × Nat) p =>
    let (v, f) := p.1.mul p.2
    let (r, g) := v.add (fp32 acc.1)
    let (y, h) := toFp32 (r, f ||| g)
    (y, acc.2 ||| h)) (x, 0)

/-- The cells that the shape uses. -/
def Mma.live (m : Mma) (i j : Nat) : Bool :=
  decide (i < (if m.shape = 1 then 16 else shapeRows m.shape)) &&
    decide (j < (if m.shape = 1 then 16 else shapeCols m.shape))

/-- Applies `g i j` to the cells of a set that the shape uses, gathering flags. -/
def Mma.mapCells {α : Type} (m : Mma) (g : Nat → Nat → α → α × Nat) (cells : List α) : List α × Nat :=
  let r := cells.mapIdx (fun n x => if m.live (n / 16) (n % 16) then g (n / 16) (n % 16) x else (x, 0))
  (r.map (·.1), r.foldl (fun f y => f ||| y.2) 0)

/-- R73: one quadrant of the word on its set. -/
def Mma.quadrant (m : Mma) (s : State) (t qi qj : Nat) (a : AccSet) : AccSet × Nat :=
  let a := if m.accumulate then a else .empty
  if fmtFp32Path m.fa then
    let cells := match a with | .fp32 c => c | _ => List.replicate 256 (0 : Word)
    let (c, f) := m.mapCells (fun i j x => m.fpCell s t qi qj i j x) cells
    (.fp32 c, f)
  else
    let (cells, only) := match a with | .exact c o => (c, o) | _ => (List.replicate 256 ExactCell.fresh, true)
    let (c, f) := m.mapCells (fun i j x => m.exactCell s t qi qj i j x) cells
    (.exact c (only && m.fa == 0), f)

/-- An accumulator set. -/
def Tile.accSet (x : Tile) (n : Nat) : AccSet := tget .empty x.acc n

/-- Stores an accumulator set; an EMPTY one is not listed. -/
def Tile.setAcc (x : Tile) (n : Nat) (a : AccSet) : Tile :=
  { x with acc := if a = .empty then tdel x.acc n else tset a x.acc n }

/-- R48, R76: the launch's admitted request has used array steps. -/
def chargeSteps (s : State) (t n : Nat) : State :=
  let x := s.tile t
  match s.launches.find? (fun l => l.id == x.launch) with
  | none => s
  | some l => match (s.desc? l.ctx l.ring l.abs).bind (fun d => d.treq) with
    | some r => s.progress r (resArray t) n
    | none => s

/-- R78: MMA. -/
def mmaWord (s : State) (t : Nat) (w : CWord) : WOut :=
  let x := s.tile t
  let m := mmaOf x w
  match m.fault x with
  | some code => .fault s code
  | none =>
    if m.accumulate && m.sets.any (fun n => (x.accSet n).clash (fmtFp32Path m.fa)) then .fault s 6
    else
      let r := m.sets.mapIdx (fun q n => (n, m.quadrant s t (q / 2) (q % 2) (x.accSet n)))
      let s := s.modTile t (fun x => r.foldl (fun x y => x.setAcc y.1 y.2.1) x)
      .done (chargeSteps (s.bump 0x13010 t m.stepsTaken) t m.steps) (r.foldl (fun f y => f ||| y.2.2) 0)

/-! ### Drains (R74, R79, R95, R96) -/

/-- OUT_FMT. -/
inductive OutFmt where
  | float (f : Fmt)
  | int32
  deriving DecidableEq, Repr

def outFmt (n : Nat) : Option OutFmt :=
  [some (.float .fp32), some (.float .bf16), some (.float .fp16), some (.float .e4m3), some (.float .e5m2),
    some .int32].getD n none

def OutFmt.bytes : OutFmt → Nat
  | .float f => f.width / 8
  | .int32 => 4

/-- The canonical NaN of an output format; 0x8000_0000 for INT32 (R95). -/
def OutFmt.nan : OutFmt → Nat
  | .float f => f.nan
  | .int32 => 0x80000000

/-- A conversion to an output format. -/
def OutFmt.convert (o : OutFmt) (cv : Conv) (r : Rnd) (v : Val) : Nat × Nat :=
  match o with
  | .float f => f.encode cv r v
  | .int32 => toIntFmt 32 v

/-- R95: the output of an exact cell. -/
def ExactCell.out (x : ExactCell) (o : OutFmt) (cv : Conv) (r : Rnd) : Nat × Nat :=
  if x.nan || (x.pinf && x.ninf) then (o.nan, if x.pinf && x.ninf then flagIV else 0)
  else if x.pinf || x.ninf then ((o.convert cv r (.inf x.ninf)).1, 0)
  else if x.guardCnt = 2 ^ 24 - 1 then (o.nan, flagIV)
  else if x.acc = 0 then (0, 0)
  else o.convert cv r (Val.ofScaled x.acc.toInt (x.anchor.getD 0 - 50))

/-- The output of cell `n` of a set. -/
def AccSet.out (a : AccSet) (n : Nat) (o : OutFmt) (cv : Conv) (r : Rnd) : Nat × Nat :=
  match a with
  | .empty => (0, 0)
  | .exact c _ => (c.getD n ExactCell.fresh).out o cv r
  | .fp32 c =>
    let v := c.getD n 0
    if o = .float .fp32 then (v.toNat, 0) else o.convert cv r (Sys2Proof.Machine.fp32 v)

/-- R74: OUT_FMT 5 is legal from the set. -/
def AccSet.intOk (a : AccSet) : Bool := match a with | .empty => true | .exact _ only => only | .fp32 _ => false

/-- The fields that MDRAIN, MLOAD and MZERO share. -/
def mdSet (w : CWord) : Nat := cwf w 81 3
def mdAxis (w : CWord) : Bool := cwb w 80
def mdGroup (w : CWord) : Bool := cwb w 74
def mdSets (w : CWord) : List Nat := if mdGroup w then (List.range 4).map (· + mdSet w) else [mdSet w]
def mdAddr (x : Tile) (w : CWord) : Nat := x.byteAt (cwf w 84 12) (cwf w 66 4)
/-- R79: a group begins at set 0 or 4. -/
def mdGroupBad (w : CWord) : Bool := mdGroup w && mdSet w % 4 != 0

/-- R74: the block that one set drains to, with flags; `idx` is the element index of its first element (R103). -/
def drainBlock (x : Tile) (a : AccSet) (o : OutFmt) (axis sr : Bool) (idx : Nat) : List Byte × Nat :=
  let r := (List.range 256).map (fun p =>
    let n := if axis then p % 16 * 16 + p / 16 else p
    a.out n o x.conv (srRnd sr x.seed.toNat (idx + n)))
  (r.flatMap (fun y => leBytes o.bytes y.1), r.foldl (fun f y => f ||| y.2) 0)

/-- R74, R108: MDRAIN; its flags are raised with its writes. -/
def mdrainWord (s : State) (t : Nat) (w : CWord) : WOut :=
  let x := s.tile t
  let a := mdAddr x w
  let sr := cwb w 76
  match outFmt (cwf w 77 3) with
  | none => .fault s 0xC
  | some o =>
    let sets := mdSets w
    if mdGroupBad w then .fault s 7
    else if (o == .int32 && sets.any (fun n => !(x.accSet n).intOk)) ||
      (sr && (o == .int32 || o == .float .fp32 || o == .float .fp16)) then .fault s 0xC
    else if !x.fits a (256 * o.bytes * sets.length) then .fault s 3
    else if !blocksOk a sets.length (256 * o.bytes) then .fault s 4
    else
      let r := sets.mapIdx (fun q n => drainBlock x (x.accSet n) o (mdAxis w) sr (x.sreg (cwf w 70 4) + 256 * q))
      let s := s.setScratch t a (r.flatMap (·.1))
      let s := if cwb w 75 then s else s.modTile t (fun x => sets.foldl (fun x n => x.setAcc n .empty) x)
      .done (raiseTile s t x.ctx (r.foldl (fun f y => f ||| y.2) 0)) 0

/-- R79: MLOAD. -/
def mloadWord (s : State) (t : Nat) (w : CWord) : WOut :=
  let x := s.tile t
  let a := mdAddr x w
  let sets := mdSets w
  if mdGroupBad w then .fault s 7
  else if !x.fits a (1024 * sets.length) then .fault s 3
  else if !blocksOk a sets.length 1024 then .fault s 4
  else
    let cells := fun q => (List.range 256).map (fun n =>
      let p := if mdAxis w then n % 16 * 16 + n / 16 else n
      BitVec.ofNat 32 (leNat (s.scratch t (a + 1024 * q + 4 * p) 4)))
    .done (s.modTile t (fun x => (sets.mapIdx (fun q n => (n, AccSet.fp32 (cells q)))).foldl
      (fun x y => x.setAcc y.1 y.2) x)) 0

/-! ### The array and the drain port (R75) -/

/-- Where the words of the matrix unit run: an MMA on the array, any other on the drain port. -/
def matSlot (w : CWord) : Nat := if cwOp w = 0x10 then 1 else 7

/-- R75: what a word of the matrix unit uses: its sets as a mask, then first and last + 1 of the ranges of the scratchpad
that an MMA reads, or that an MDRAIN writes. -/
def matUse (x : Tile) (w : CWord) : List Nat :=
  let mask := fun (l : List Nat) => l.foldl (fun v n => v ||| 2 ^ n) 0
  if cwOp w = 0x10 then
    (let m := mmaOf x w
     let n := m.panelBlocks * (if m.shape = 1 then 2 else 1)
     [mask m.sets, m.a, m.a + n * blockBytes m.fa, m.b, m.b + n * blockBytes m.fb, m.scale, m.scale + m.scaleBytes])
  else if cwOp w = 0x11 then
    (let n := match outFmt (cwf w 77 3) with | some o => 256 * o.bytes * (mdSets w).length | none => 0
     [mask (mdSets w), mdAddr x w, mdAddr x w + n])
  else [mask (mdSets w)]

/-- The ranges of a list of first and last + 1. -/
def rangesOf : List Nat → List (Nat × Nat)
  | lo :: hi :: r => (lo, hi) :: rangesOf r
  | _ => []

/-- R75: the word that the other half of the matrix unit has not finished holds this one back: they share a set, or the
operand panels of one overlap the destination of the other. -/
def matHazard (x : Tile) (w : CWord) : Bool :=
  match (x.unit (if cwOp w = 0x10 then 7 else 1)).active with
  | none => false
  | some a =>
    let u := matUse x w
    a.latch.headD 0 &&& u.headD 0 != 0 || (rangesOf a.latch.tail).any (fun p => (rangesOf u.tail).any (fun q =>
      decide (p.1 < p.2) && decide (q.1 < q.2) && decide (p.1 < q.2) && decide (q.1 < p.2)))

/-- R79: MZERO. -/
def mzeroWord (s : State) (t : Nat) (w : CWord) : WOut :=
  if mdGroupBad w then .fault s 7
  else .done (s.modTile t (fun x => (mdSets w).foldl (fun x n => x.setAcc n .empty) x)) 0

end Sys2Proof.Machine
end

