-- ==== Sys2Proof/Machine/Sfu.lean ====
section
/-! DEFINITION. The special-function unit (R132 to R142): built-in and user functions, fused forms, table banks. -/

namespace Sys2Proof.Machine

/-! ### Fields (R142) -/

def fVD (w : CWord) : Nat := cwf w 91 5
def fVA (w : CWord) : Nat := cwf w 86 5
def fVB (w : CWord) : Nat := cwf w 81 5
def fVC (w : CWord) : Nat := cwf w 76 5
def fMask (w : CWord) : Nat := cwf w 73 3
def fFunc (w : CWord) : Nat := cwf w 68 5
def fOut (w : CWord) : Bool := cwb w 67
def fSR (w : CWord) : Bool := cwb w 66
def fIdx (x : Tile) (w : CWord) : Nat := x.sreg (cwf w 62 4)
def fSReg (w : CWord) : Nat := cwf w 58 4
def fSta (w : CWord) : Nat := cwf w 56 2
def fPat (w : CWord) : Nat := cwf w 54 2
def fSel (w : CWord) : Nat := cwf w 51 3
def fScaleSrc (w : CWord) : Bool := cwb w 50
def fGenEn (w : CWord) : Bool := cwb w 49
def fGen (w : CWord) : Nat := cwf w 41 8
def fAddr (x : Tile) (w : CWord) : Nat := x.byteAt (cwf w 29 12) (cwf w 25 4)
def fFirst (w : CWord) : Nat := cwf w 15 10
def fCount (w : CWord) : Nat := cwf w 4 11
def fUfn (w : CWord) : Nat := cwf w 0 4

/-! ### User functions (R138, R139) -/

/-- The state of one lane: U0 to U3, K and the input; the flags raised so far. -/
structure Lane where
  u : List Word
  k : Int
  x : Word
  flags : Nat
  deriving DecidableEq, Repr

def Lane.reg (a : Lane) (i : Nat) : Word := a.u.getD i 0
def Lane.put (a : Lane) (i : Nat) (r : Word × Nat) : Lane := { a with u := a.u.set i r.1, flags := a.flags ||| r.2 }

/-- T[i]. -/
abbrev Table := Nat → Word

/-- RRED: K is the product rounded to the nearest integer; of a product that is not finite the manual gives no K:
it is a free value, the same for the same operands (R117). -/
def stepRred (tab : Table) (a : Lane) (dst sa tidx n : Nat) : Lane :=
  let (p, g) := (fp32 (a.reg sa)).mul (fp32 (tab tidx))
  let (k, g) := match p with
    | .fin neg m e =>
      (let (q, ex) := if 0 ≤ e then (m * 2 ^ e.toNat, true) else roundShift .rne m (-e).toNat
       ((if neg then -(q : Int) else q), if ex then g else g ||| flagNX))
    | _ => (Config.rredOpen (a.reg sa) (tab tidx), g)
  let r := (List.range n).foldl (fun (acc : Word × Nat) i =>
    let (v, h) := toFp32 (Val.fma (Val.ofInt (-k)) (fp32 (tab (tidx + 1 + i))) (fp32 acc.1))
    (v, acc.2 ||| h)) (a.reg sa, g)
  { a.put dst r with k := k }

/-- TLU: the table index; of a zero, an infinity or a NaN the manual gives no leading 1: the index is a free value,
the same for the same operand (R117). -/
def tluIndex (a : Lane) (sa isrc n : Nat) : Nat :=
  if isrc = 0 then unsignedOf n a.k
  else match fp32 (a.reg sa) with
    | .fin _ m _ => if m = 0 then Config.tluOpen (a.reg sa) n % 2 ^ n else m * 2 ^ n / 2 ^ Nat.log2 m % 2 ^ n
    | _ => Config.tluOpen (a.reg sa) n % 2 ^ n

/-- POLY: Horner, one fused step per degree, from the coefficient of the highest degree. -/
def stepPoly (tab : Table) (a : Lane) (dst sa tidx n : Nat) : Lane :=
  a.put dst ((List.range n).foldl (fun (acc : Word × Nat) i =>
    let (v, h) := fFma acc.1 (a.reg sa) (tab (tidx + (n - 1 - i)))
    (v, acc.2 ||| h)) (tab (tidx + n), 0))

/-- RECON: one rounding of U[SA] U[SB] 2^K. Beyond ±2000 a power of two changes no rounded result. -/
def stepRecon (a : Lane) (dst sa sb : Nat) : Lane :=
  let (v, g) := (fp32 (a.reg sa)).mul (fp32 (a.reg sb))
  let k := max (-2000) (min 2000 a.k)
  a.put dst (toFp32 (match v with | .fin s m e => .fin s m (e + k) | v => v, g))

/-- SPECIAL: the class of the input, if it has one. -/
def specialClass (x : Word) : Option Nat :=
  match fp32 x with
  | .inf s => some (b2n s)
  | .fin _ m _ => if m = 0 then some 2 else none
  | .nan => none

/-- R86: a table value that becomes a result: a NaN becomes the canonical one. -/
def quiet (v : Word) : Word := if (fp32 v).isNan then 0x7FC00000 else v

/-- One micro-step; none where it stops the program with fault 0x0F. -/
def microStep (tab : Table) (a : Lane) (m : BitVec 64) : Option Lane :=
  let f := fun lo n => bits m.toNat lo n
  let (kind, dst, sa, sb, sc) := (f 60 4, f 58 2, f 56 2, f 54 2, f 52 2)
  let (tidx, n, isrc) := (f 42 10, f 38 4, f 36 2)
  if kind = 0 then
    if 1 ≤ n ∧ n ≤ 3 ∧ tidx + n < 1024 then some (stepRred tab a dst sa tidx n) else none
  else if kind = 1 then
    (let i := tidx + tluIndex a sa isrc n
     if 1 ≤ n ∧ n ≤ 10 ∧ isrc < 2 ∧ i < 1024 then some (a.put dst (quiet (tab i), 0)) else none)
  else if kind = 2 then
    if 1 ≤ n ∧ n ≤ 8 ∧ tidx + n < 1024 then some (stepPoly tab a dst sa tidx n) else none
  else if kind = 3 then some (stepRecon a dst sa sb)
  else if kind = 4 then some (a.put dst (fFma (a.reg sa) (a.reg sb) (a.reg sc)))
  else if kind = 5 then some (a.put dst (fAdd (a.reg sa) (a.reg sb)))
  else if kind = 6 then some (a.put dst (fMul (a.reg sa) (a.reg sb)))
  else if kind = 7 then
    match specialClass a.x with
    | some c => if bitAt n c then (if tidx + c < 1024 then some (a.put dst (quiet (tab (tidx + c)), 0)) else none) else some a
    | none => some a
  else if kind = 8 then some a
  else none

/-- Micro-steps in order. -/
def runMicro (tab : Table) : List (BitVec 64) → Lane → Option Lane
  | [], a => some a
  | m :: r, a => (microStep tab a m).bind (runMicro tab r)

/-- R138: a user function on one input. -/
def runUser (tab : Table) (prog : List (BitVec 64)) (v : Word) : Option (Word × Nat) :=
  if (fp32 v).isNan then some (0x7FC00000, 0)
  else (runMicro tab prog { u := [v, 0, 0, 0], k := 0, x := v, flags := 0 }).map (fun a => (a.reg 0, a.flags))

/-! ### Evaluation -/

/-- R140: the active bank as a table. -/
def Tile.table (x : Tile) : Table := fun i => tget 0 (if x.activeBank then x.bank1 else x.bank0) i

/-- The micro-steps of a directory slot, if it is defined. -/
def Tile.program (x : Tile) (slot : Nat) : Option (List (BitVec 64)) :=
  (tfind? x.dir slot).map (fun d => (List.range d.2).map (fun i => tget 0 x.store (d.1 + i)))

/-- FUNC of one FP32 value: none where it stops the program with fault 0x0F. -/
def Tile.func (x : Tile) (func : Nat) (v : Word) : Option (Word × Nat) :=
  if func < 16 then sfWord func v else (x.program (func - 16)).bind (fun p => runUser x.table p v)

/-- FUNC can be run at all. -/
def Tile.funcOk (x : Tile) (func : Nat) : Bool := if func < 16 then func != 15 else thas x.dir (func - 16)

/-- R141: the generation check fails. -/
def genBad (x : Tile) (w : CWord) : Bool := fGenEn w && x.gen.toNat != fGen w

/-- The result of one lane in the form OUT asks for. -/
def outLane (x : Tile) (w : CWord) (l : Nat) (r : Word × Nat) : Nat × Nat :=
  if fOut w then
    (let (v, g) := Fmt.bf16.encode Conv.plain (srRnd (fSR w) x.seed.toNat (fIdx x w + l)) (fp32 r.1)
     (v, r.2 ||| g))
  else (r.1.toNat, r.2)

/-- Writes the results of the active lanes of 32 to a register: FP32 lanes, or BF16 packed into lanes 0 to 31. -/
def putLanes (x : Tile) (w : CWord) (vd : Nat) (rs : List (Word × Nat)) : Tile × Nat :=
  let act := x.vmask (fMask w) % 2 ^ 32
  let (r, f) := mapLanes (x.vreg vd) (if fOut w then 16 else 32) act
    (fun l => outLane x w l (rs.getD l (0, 0)))
  (x.setV vd r, f)

/-- The results of the 32 lanes, a fault in an active lane; inactive lanes run nothing. -/
def evalLanes (act : Nat) (g : Nat → Option (Word × Nat)) : Option (List (Word × Nat)) :=
  (List.range 32).mapM (fun l => if bitAt act l then g l else some (0, 0))

/-- Lane `l` of a register as an FP32 word. -/
def Tile.lane32 (x : Tile) (i l : Nat) : Word := BitVec.ofNat 32 (lane (x.vreg i) 32 l)

/-- Lane `l` of P(V[i]). -/
def Tile.patOf (x : Tile) (w : CWord) (i l : Nat) : Word := BitVec.ofNat 32 (patLane (fPat w) (fSel w) (x.vreg i) l)

/-- A word that evaluates FUNC in each lane with `g`. -/
def funcWord (s : State) (t : Nat) (w : CWord) (g : Tile → Nat → Option (Word × Nat)) : WOut :=
  let x := s.tile t
  if genBad x w then .fault s 0x0E
  else if !x.funcOk (fFunc w) then .fault s 0x0F
  else match evalLanes (x.vmask (fMask w)) (g x) with
    | none => .fault s 0x0F
    | some rs =>
      let (y, f) := putLanes x w (fVD w) rs
      .done (s.setTile t y) f

/-- R133: SFEVAL. -/
def sfevalWord (s : State) (t : Nat) (w : CWord) : WOut :=
  funcWord s t w (fun x l => x.func (fFunc w) (x.lane32 (fVA w) l))

/-- R136: one lane of SFBAS. -/
def basLane (x : Tile) (w : CWord) (l : Nat) : Option (Word × Nat) :=
  let (u, f) := fAdd (x.lane32 (fVA w) l) (x.patOf w (fVB w) l)
  let g := if fScaleSrc w then BitVec.ofNat 32 (x.sreg (fSReg w)) else x.lane32 (fVC w) l
  (x.func (fFunc w) u).map (fun r =>
    let (v, h) := fMul r.1 g
    (v, f ||| r.2 ||| h))

/-- R136: SFBAS. -/
def sfbasWord (s : State) (t : Nat) (w : CWord) : WOut :=
  if fPat w = 3 then .fault s 2 else funcWord s t w (fun x l => basLane x w l)

/-- R135: sine and cosine of the exact p·ω. -/
def sincosLane (p omega : Word) : (Word × Nat) × (Word × Nat) :=
  if p.toInt < -(2 ^ 24) ∨ 2 ^ 24 < p.toInt then ((0x7FC00000, flagIV), (0x7FC00000, flagIV))
  else
    match fp32 omega with
    | .nan => ((0x7FC00000, 0), (0x7FC00000, 0))
    | .inf _ => ((0x7FC00000, flagIV), (0x7FC00000, flagIV))
    | v => let (q, _) := (Val.ofInt p.toInt).mul v; (toFp32 (sfTrig false q), toFp32 (sfTrig true q))

/-- R135: SFSINCOS. -/
def sfsincosWord (s : State) (t : Nat) (w : CWord) : WOut :=
  let x := s.tile t
  if genBad x w then .fault s 0x0E
  else if fVD w = 31 then .fault s 0x11
  else
    let rs := (List.range 32).map (fun l => sincosLane (x.lane32 (fVA w) l) (x.lane32 (fVB w) l))
    let (y, f) := putLanes x w (fVD w) (rs.map (·.1))
    let (y, g) := putLanes y w (fVD w + 1) (rs.map (·.2))
    .done (s.setTile t y) (f ||| g)

/-- R137: one lane of SFNSS. -/
def nssLane (x : Tile) (w : CWord) (a : StatAcc) (l : Nat) : Word × Nat :=
  let (u, f) := fSub (x.lane32 (fVA w) l) (if a.rms then 0 else a.mean)
  let (v, g) := fMul u a.rstd
  let (r, h) := fFma v (x.patOf w (fVB w) l) (x.patOf w (fVC w) l)
  (r, f ||| g ||| h)

/-- R137: SFNSS. -/
def sfnssWord (s : State) (t : Nat) (w : CWord) : WOut :=
  let x := s.tile t
  let a := x.stat (fSta w)
  if genBad x w then .fault s 0x0E
  else if fPat w = 3 then .fault s 2
  else if !a.started || !a.finalised then .fault s 0x10
  else
    let (y, f) := putLanes x w (fVD w) ((List.range 32).map (nssLane x w a))
    .done (s.setTile t y) f

/-! ### Table banks and micro-programs (R140, R141) -/

/-- R140: SFLOAD writes the idle bank. -/
def sfloadWord (s : State) (t : Nat) (w : CWord) : WOut :=
  let x := s.tile t
  let (a, n) := (fAddr x w, fCount w)
  if n = 0 || decide (1024 < n) || decide (1024 < fFirst w + n) then .fault s 0x0F
  else if !x.fits a (4 * n) then .fault s 3
  else
    let put := fun (b : Tbl Word) =>
      (List.range n).foldl (fun b i => tset (BitVec.ofNat 32 (leNat (s.scratch t (a + 4 * i) 4))) b (fFirst w + i)) b
    .done (s.modTile t (fun x => if x.activeBank then { x with bank0 := put x.bank0 } else { x with bank1 := put x.bank1 })) 0

/-- R140: SFSWAP. -/
def sfswapWord (s : State) (t : Nat) (_ : CWord) : WOut :=
  .done (s.modTile t (fun x => { x with activeBank := !x.activeBank, gen := x.gen + 1 })) 0

/-- R141: SFPROG. -/
def sfprogWord (s : State) (t : Nat) (w : CWord) : WOut :=
  let x := s.tile t
  let (a, n) := (fAddr x w, fCount w)
  if n = 0 || decide (32 < n) || decide (256 < fFirst w + n) then .fault s 0x0F
  else if !x.fits a (8 * n) then .fault s 3
  else
    let put := (List.range n).foldl (fun b i =>
      tset (BitVec.ofNat 64 (leNat (s.scratch t (a + 8 * i) 8))) b (fFirst w + i)) x.store
    .done (s.modTile t (fun x => { x with store := put, dir := tset (fFirst w, n) x.dir (fUfn w) })) 0

/-! ### Dependencies (R121), numbered as in Vector.lean -/

/-- What a word of unit 3 reads. -/
def fReads (w : CWord) : List Nat :=
  let m := 32 + fMask w
  let op := cwOp w
  if op = 0x40 then [m, fVA w] else if op = 0x41 then [m, fVA w, fVB w] else if op = 0x42 then [m, fVA w, fVB w, fVC w]
  else if op = 0x43 then [m, fVA w, fVB w, fVC w, 40 + fSta w] else []

/-- What a word of unit 3 writes. -/
def fWrites (w : CWord) : List Nat :=
  let op := cwOp w
  if op = 0x41 then [fVD w, fVD w + 1]
  else if op = 0x40 || op = 0x42 || op = 0x43 then [fVD w] else []

end Sys2Proof.Machine
end

