-- ==== Sys2Proof/Machine/Trowel.lean ====
section
/-! DEFINITION. The trowel's TUPDATE (R329 to R336). -/

namespace Sys2Proof.Machine

/-! ### What the trowel takes (R330, R331) -/

/-- A TUPDATE as the trowel took it: the parameter block, element offset, count and first element index. -/
structure Upd where
  block : List Byte
  ofs : Nat
  cnt : Nat
  idx : Nat

def Upd.algo (u : Upd) : Nat := fldBits u.block 1 1 0 2
def Upd.sgd (u : Upd) : Bool := u.algo == 2
def Upd.wc (u : Upd) : Bool := fldBit u.block 1 5
def Upd.gradBytes (u : Upd) : Nat := if fldBit u.block 1 4 then 4 else 2
/-- An FP32 coefficient of the block. -/
def Upd.coef (u : Upd) (o : Nat) : Word := BitVec.ofNat 32 (fld u.block o 4)
/-- Where the array of an offset field starts, in bytes of the channel. -/
def Upd.array (u : Upd) (o size : Nat) : Nat := fldBits u.block o 4 0 25 + u.ofs * size

/-- What is kept of a word that waits, and its reading. -/
def Upd.latch (u : Upd) : List Nat := [leNat u.block, u.ofs, u.cnt, u.idx]
def Upd.ofLatch (l : List Nat) : Upd :=
  { block := leBytes 64 (l.getD 0 0), ofs := l.getD 1 0, cnt := l.getD 2 0, idx := l.getD 3 0 }

/-- The generational arrays of a word: start and bytes. -/
def Upd.generational (u : Upd) : List (Nat × Nat) :=
  [(u.array 4 4, 4 * u.cnt), (u.array 8 4, 4 * u.cnt)] ++ (if u.sgd then [] else [(u.array 12 4, 4 * u.cnt)]) ++
    (if u.wc then [(u.array 16 2, 2 * u.cnt)] else [])

/-- R336: the word is rejected with fault 0x15. -/
def Upd.bad (u : Upd) (s : State) (ctx : Nat) : Bool :=
  let lo := 4096 * s.genLo ctx
  let hi := lo + 4096 * s.genLen ctx
  let g := u.array 20 u.gradBytes
  let ge := g + u.gradBytes * u.cnt
  fld u.block 0 1 != 1 || u.algo == 3 || decide (u.cnt < 16) || decide (2 ^ 20 < u.cnt) || u.cnt % 16 != 0 ||
    g % 32 != 0 || decide (0x2000000 < ge) || (decide (g < hi) && decide (lo < ge)) ||
    u.generational.any (fun a => a.1 % 32 != 0 || decide (a.1 < lo) || decide (hi < a.1 + a.2)) ||
    (s.cont ctx).st == .disabled

/-! ### One element (R332, R333) -/

/-- R332: sqrt, correctly rounded; a negative operand is invalid. -/
def fSqrt (x : Word) : Word × Nat :=
  toFp32 (match fp32 x with
    | .nan => (.nan, 0)
    | .inf neg => if neg then (.nan, flagIV) else (.inf false, 0)
    | .fin neg m e =>
      if m = 0 then (.fin neg 0 e, 0)
      else if neg then (.nan, flagIV)
      else
        let k : Nat := 80 + (e % 2).toNat
        let n := m * 2 ^ k
        let r := isqrt n
        (stickyVal false r ((e - k) / 2) (r * r != n), 0))

/-- What one element becomes: parameter, first moment, second moment, working copy, flags. -/
structure UpdElem where
  p : Word
  m : Word
  v : Word
  w : Nat
  flags : Nat

/-- R108: DZ is raised by the vector and special units only. -/
def dropDz (f : Nat) : Nat := f - (f &&& flagDZ)

/-- R332, R333: the arithmetic of element `i`. -/
def Upd.elem (u : Upd) (cv : Conv) (seed i : Nat) (p m v grad : Word) : UpdElem :=
  let k := u.coef
  let (g0, f0) := fMul grad (k 60)
  let (g, f1) := if u.algo = 0 then (g0, 0) else fFma (k 48) p g0
  let (og, f2) := fMul (k 32) g
  let (m1, f3) := fFma (k 28) m og
  let (gg, f4) := if u.sgd then (0, 0) else fMul g g
  let (og2, f5) := if u.sgd then (0, 0) else fMul (k 40) gg
  let (v1, f6) := if u.sgd then (v, 0) else fFma (k 36) v og2
  let (d, f7) :=
    if u.sgd then (if fldBit u.block 1 2 then fFma (k 28) m1 g else (m1, 0))
    else
      let (a, e0) := fMul m1 (k 52)
      let (b, e1) := fMul v1 (k 56)
      let (c, e2) := fSqrt b
      let (den, e3) := fAdd c (k 44)
      let (q, e4) := fDiv a den
      let (d, e5) := if u.algo = 0 then fFma (k 48) p q else (q, 0)
      (d, e0 ||| e1 ||| e2 ||| e3 ||| dropDz e4 ||| e5)
  let (p1, f8) := fFma (k 24 ^^^ 0x80000000) d p
  let (w, f9) := if u.wc then Fmt.bf16.encode cv (srRnd (fldBit u.block 1 3) seed (u.idx + i)) (fp32 p1) else (0, 0)
  { p := p1, m := m1, v := v1, w := w,
    flags := f0 ||| f1 ||| f2 ||| f3 ||| f4 ||| f5 ||| f6 ||| f7 ||| f8 ||| f9 }

/-! ### The word -/

/-- Bytes of the tile's near channel, and the codewords that decode as uncorrectable; free values where the channel does
not serve. -/
def nearRead (s : State) (a n fr : Nat) : (List Byte × List Nat) × State :=
  if s.brickOk a then
    (let (bad, s) := s.decodeClean a n
     ((s.mem.readBytes a n, bad), s))
  else (((List.range n).map (fun i => Config.freeByte (fr + 1) (a + i)), codewords a n), s)

/-- Stores an output array where the channel serves; `bad` are the elements that take the poison mark. -/
def nearWrite (s : State) (a size : Nat) (vals : List Nat) (bad : List Nat) : State :=
  if s.brickOk a then s.writeBrick a (vals.flatMap (leBytes size)) (bad.map (fun i => (a + size * i) / 32)) else s

/-- R334: the results of every element go to their arrays; `bad` are the elements that take the poison mark. -/
def storeUpd (s : State) (u : Upd) (dst : Nat) (es : List UpdElem) (bad : List Nat) : State :=
  let s := nearWrite s (dst + u.array 4 4) 4 (es.map (fun e => e.p.toNat)) bad
  let s := nearWrite s (dst + u.array 8 4) 4 (es.map (fun e => e.m.toNat)) bad
  let s := if u.sgd then s else nearWrite s (dst + u.array 12 4) 4 (es.map (fun e => e.v.toNat)) bad
  if u.wc then nearWrite s (dst + u.array 16 2) 2 (es.map (fun e => e.w)) bad else s

/-- R337, R355: updated elements are counted in units of 65,536, and a poisoned one is noted. -/
def countUpd (s : State) (ctx cnt : Nat) (poisoned : Bool) : State :=
  let c := s.cont ctx
  let n := c.elems + cnt
  (s.setCont ctx { c with elems := n % 65536, trUe := c.trUe || poisoned }).bump 0x1E038 ctx (n / 65536)

/-- R334, R337: the update of every element, from the current generation to the alternate, or in place. -/
def runUpdate (s : State) (t : Nat) (u : Upd) : WOut :=
  let x := s.tile t
  let ctx := x.ctx
  let c := s.cont ctx
  let base := 0x2000000 * t
  let delta := 4096 * s.genDelta ctx
  let src := base + (if c.curGen then delta else 0)
  let dst := if s.contSingle ctx then src else if c.curGen then base else base + delta
  let (fr, s) := s.draw
  let rd := fun (s : State) (b o size : Nat) => nearRead s (b + u.array o size) (size * u.cnt) fr
  let ((ps, bp), s) := rd s src 4 4
  let ((ms, bm), s) := rd s src 8 4
  let ((vs, bv), s) := if u.sgd then (([], []), s) else rd s src 12 4
  let ((gs, bg), s) := rd s base 20 u.gradBytes
  let word := fun (l : List Byte) (i : Nat) => BitVec.ofNat 32 (fld l (4 * i) 4)
  let grad := fun (i : Nat) => if u.gradBytes = 4 then word gs i else BitVec.ofNat 32 (65536 * fld gs (2 * i) 2)
  let es := (List.range u.cnt).map (fun i =>
    u.elem x.conv x.seed.toNat i (word ps i) (word ms i) (word vs i) (grad i))
  let hit := fun (b o size : Nat) (l : List Nat) (i : Nat) => l.contains ((b + u.array o size + size * i) / 32)
  let bad := (List.range u.cnt).filter (fun i =>
    hit src 4 4 bp i || hit src 8 4 bm i || hit src 12 4 bv i || hit base 20 u.gradBytes bg i)
  let s := countUpd (storeUpd s u dst es bad) ctx u.cnt (!bad.isEmpty)
  .done s (es.foldl (fun f e => f ||| e.flags) 0)

/-- R345, R347: the word waits: before GO in single-generation mode, or while it would write the held generation. -/
def updWaits (s : State) (ctx : Nat) : Bool :=
  let c := s.cont ctx
  if s.contSingle ctx then c.st != .go || c.held == some c.curGen else c.held == some (!c.curGen)

/-- A taken word runs or waits, for its context's continuity unit or for the near channel's training (R190). -/
def updGo (s : State) (t : Nat) (u : Upd) : WOut :=
  if updWaits s (s.tile t).ctx || s.stalled (0x2000000 * t) 1 then .wait (s.modTile t (fun x => x.modActive 5 (fun a => { a with latch := u.latch })))
  else runUpdate s t u

/-- R334: the trowel takes the word: rejected, skipped for a poisoned step, or run. -/
def updTake (s : State) (t : Nat) (u : Upd) (par : Nat) : WOut :=
  let ctx := (s.tile t).ctx
  if u.bad s ctx then .fault s 0x15
  else if (s.ctx ctx).stepPoison par then .done (s.bump 0x1E034 ctx 1) 0
  else updGo s t u

/-- R329 to R336: TUPDATE. -/
def tupdateWord (s : State) (t : Nat) (w : CWord) : WOut :=
  let x := s.tile t
  let a := x.byteAt (cwf w 84 12) (cwf w 80 4)
  match (x.unit 5).active with
  | some { latch := n :: l, .. } => updGo s t (Upd.ofLatch (n :: l))
  | _ =>
    if !x.fits a 64 then .fault s 3
    else updTake s t { block := s.scratch t a 64, ofs := x.sreg (cwf w 76 4), cnt := x.sreg (cwf w 72 4),
                       idx := x.sreg (cwf w 68 4) } (cwf w 67 1)

end Sys2Proof.Machine
end

