-- ==== Sys2Proof/Machine/Seq.lean ====
section
/-! DEFINITION. The tile sequencer and the units' queues (R60 to R67): issue, start, completion, WAIT and its miss. -/

namespace Sys2Proof.Machine

/-! ### WAIT (R66, R67) -/

def waKind (w : CWord) : Nat := cwf w 92 4
def waObject (w : CWord) : Nat := cwf w 78 14
def waFallback (w : CWord) : Option Nat := if cwb w 69 then some (cwf w 49 20) else none

/-- The condition of a WAIT for value `v`. -/
def waitHolds (s : State) (t : Nat) (w : CWord) (v : Nat) : Bool :=
  let x := s.tile t
  let k := waKind w
  if k = 0 then decide (v ≤ (s.joint (waObject w)).value.toNat)
  else if k = 1 then (match x.hod.stream? (waObject w) with | some st => decide (v ≤ st.delivered) | none => false)
  else if k = 2 then decide (v ≤ tget 0 (s.ctx x.ctx).pallets (waObject w))
  else !(s.mbox (waObject w)).queue.isEmpty

/-- R67: the object belongs to a real-time queue. A pallet stream has no mode of its own: a WAIT on it is real-time
when it names a need-by time. -/
def waitRt (s : State) (t : Nat) (w : CWord) : Bool :=
  let k := waKind w
  if k = 1 then (match (s.tile t).hod.stream? (waObject w) with | some st => st.rt | none => false)
  else if k = 2 then cwf w 70 4 != 0
  else if k = 3 then (s.mbox (waObject w)).rt
  else false

/-- R67: why a WAIT stops the program. A WAIT on a mailbox channel that is not bound to the tile's context stops nothing:
its queue is what counts (DESIGN CHOICE, log 100). -/
def waitFault (s : State) (t : Nat) (w : CWord) : Option Nat :=
  let k := waKind w
  if decide (3 < k) || (k == 2 && s.variant == .kv1s) then some 1
  else if k == 0 && !s.jointOk (s.tile t).ctx (waObject w) then some 0x17
  else if k == 1 && ((s.tile t).hod.stream? (waObject w)).isNone then some 0x14
  else if waitRt s t w && cwf w 70 4 == 0 then some 9
  else none

/-- R66: WAIT; the value and the need-by time are taken as the word starts. -/
def waitWord (s : State) (t : Nat) (w : CWord) : WOut :=
  let x := s.tile t
  let v := x.sreg (cwf w 74 4)
  match waitFault s t w with
  | some c => .fault s c
  | none =>
    if waitHolds s t w v then .done s 0
    else
      let s := s.modTile t (fun x => x.modActive 6 (fun a => { a with latch := [v, x.sreg (cwf w 70 4)] }))
      .wait (if waKind w = 0 then addWait s (waObject w) (.tile t) (.ge v) else s)

/-! ### Words of the units -/

/-- What a unit does with a word of its opcodes. -/
def runWord (s : State) (t : Nat) (a : Active) : WOut :=
  let w := a.word
  let op := cwOp w
  if op = 0x10 then mmaWord s t w else if op = 0x11 then mdrainWord s t w
  else if op = 0x12 then mloadWord s t w else if op = 0x13 then mzeroWord s t w
  else if op = 0x20 then vldWord s t w else if op = 0x21 then vstWord s t w
  else if op ≤ 0x28 then elementWord op s t w
  else if op = 0x29 then vcmpWord s t w else if op = 0x2A then vselWord s t w
  else if op = 0x2B then vscanWord s t w else if op = 0x2C then vredWord s t w
  else if op = 0x2D then vbrcWord s t w else if op = 0x2E then vstatWord s t w
  else if op = 0x2F then vstatfWord s t w else if op = 0x30 then vmovsWord s t w
  else if op = 0x40 then sfevalWord s t w else if op = 0x41 then sfsincosWord s t w
  else if op = 0x42 then sfbasWord s t w else if op = 0x43 then sfnssWord s t w
  else if op = 0x44 then sfloadWord s t w else if op = 0x45 then sfswapWord s t w
  else if op = 0x46 then sfprogWord s t w
  else if op = 0x50 then hodstreamWord s t w else if op = 0x51 then hodrunWord a.addr s t w
  else if op = 0x52 then hodrecvWord s t w else if op = 0x53 then hodcmoWord s t w
  else if op = 0x60 then waitWord s t w else if op = 0x61 then jaddWord s t w
  else if op = 0x62 then jtryWord s t w else if op = 0x63 then jticketWord s t w
  else if op = 0x64 then jorderWord s t w else if op = 0x65 then jarriveWord s t w
  else if op = 0x66 then jsignalWord s t w else if op = 0x67 then jreadWord s t w
  else if op = 0x68 then mbsendWord s t w else if op = 0x69 then mbrecvWord s t w
  else tupdateWord s t w

/-- The outcome of a unit's word takes effect. -/
def settle (t u pc : Nat) : WOut → State
  | .done s f => s.modTile t (fun x => x.finish u f)
  | .fault s c => tileFault s t c pc
  | .wait s => s

/-! ### Starting a word (R61, R63, R121) -/

/-- What a word of unit 2 or 3 reads, and what it writes. -/
def unitReads (u : Nat) (w : CWord) : List Nat := if u = 2 then vReads w else if u = 3 then fReads w else []
def unitWrites (u : Nat) (w : CWord) : List Nat := if u = 2 then vWrites w else if u = 3 then fWrites w else []

/-- Words issued to a unit that have not completed: word and issue number. -/
def Tile.unfinished (x : Tile) (u : Nat) : List (CWord × Nat) :=
  ((x.unit u).active.toList.map (fun a => (a.word, a.seq))) ++ (x.unit u).queue.map (fun q => (q.word, q.seq))

/-- R121: an earlier-issued word of unit 2 or 3 holds the word back. -/
def Tile.hazard (x : Tile) (u : Nat) (q : QWord) : Bool :=
  (u == 2 || u == 3) && [2, 3].any (fun v => (x.unfinished v).any (fun e => decide (e.2 < q.seq) &&
    ((unitWrites v e.1).any (fun r => (unitReads u q.word).contains r || (unitWrites u q.word).contains r) ||
      (unitReads v e.1).any (fun r => (unitWrites u q.word).contains r))))

/-- R63: the token that the word waits on is above 0. -/
def Tile.tokenReady (x : Tile) (w : CWord) : Bool := !cwWaitEn w || decide (0 < x.token (cwWaitTok w))

/-- The unit takes the token of a word that starts. -/
def Tile.takeToken (x : Tile) (w : CWord) : Tile :=
  if cwWaitEn w then x.setToken (cwWaitTok w) (x.token (cwWaitTok w) - 1) else x

/-- Where the word of a unit runs: the matrix unit has an array and a drain port (R75). -/
def slotOf (u : Nat) (w : CWord) : Nat := if u = 1 then matSlot w else u

/-- The head of a unit's queue starts, if what runs it is idle, its token is above 0, no dependency holds it back and no
closed quantum of R399 does. -/
def startHead (s : State) (t u : Nat) : State :=
  let x := s.tile t
  match (x.unit u).queue with
  | [] => s
  | q :: rest =>
    let v := slotOf u q.word
    if x.run ≠ .running ∨ s.power.issueOpen = false ∨ (x.unit v).active.isSome ∨ !x.tokenReady q.word ∨ x.hazard u q ∨
        (u = 1 ∧ matHazard x q.word) then s
    else
      let a : Active := { addr := q.addr, word := q.word, seq := q.seq, flags := 0, finished := false,
                          latch := if u = 1 then matUse x q.word else [] }
      let y := (x.takeToken q.word).setUnit u { x.unit u with queue := rest }
      settle t v q.addr (runWord (s.setTile t (y.setUnit v { y.unit v with active := some a })) t a)

/-- R61, R75: what can start at a unit starts; at the matrix unit that may be two words, one after the other. -/
def startUnit (s : State) (t u : Nat) : State :=
  let s := startHead s t u
  if u = 1 then startHead s t u else s

/-- The word that a unit runs and that waits is tried again. -/
def retryUnit (s : State) (t u op : Nat) : State :=
  let x := s.tile t
  match (x.unit u).active with
  | some a => if x.run = .running && !a.finished && cwOp a.word == op then settle t u a.addr (runWord s t a) else s
  | none => s

/-! ### Issue (R60, R61) -/

/-- The word at the program counter of a tile that issues, once its opcode is known to be `op` of `unit`. A word that
the cache lacks stalls the sequencer; a reserved one stops the program as it is issued (DESIGN CHOICE, log 100). -/
def issue (s : State) (t unit op : Nat) (k : State → CWord → State) : State :=
  let x := s.tile t
  if x.run ≠ .running ∨ x.stall ≠ .none then s
  else
    match tfind? x.cmdCache x.pc with
    | none => s.modTile t (fun x => { x with stall := .fetch })
    | some w =>
      if !opKnown (cwUnit w) (cwOp w) then tileFault s t 1 x.pc
      else if cwUnit w = unit ∧ cwOp w = op then k s w else s

/-- A word of another unit joins its queue, or stalls the sequencer. -/
def place (t u : Nat) (s : State) (w : CWord) : State :=
  let x := s.tile t
  let q := x.unit u
  if 16 ≤ q.queue.length then s.modTile t (fun x => { x with stall := .queueFull })
  else
    let e : QWord := { addr := x.pc, word := w, seq := x.issueSeq }
    let x : Tile := { x with stall := .none, issueSeq := x.issueSeq + 1 }
    let x := x.setUnit u { q with queue := q.queue ++ [e] }
    startUnit (s.setTile t x.advance) t u

/-- Issues the word `op` of a unit, or tries again one that the unit holds. -/
def issueUnit (s : State) (t u op : Nat) : State := issue s t u op (place t u)

/-- A word of unit 0 that waits on a token starts when it is above 0 and issue is open (R399), and signals as it
completes. -/
def seqStart (t : Nat) (k : State → CWord → State) (s : State) (w : CWord) : State :=
  let x := s.tile t
  if x.tokenReady w && s.power.issueOpen then k (s.setTile t (x.takeToken w)) w else s

/-- The signal of a completed word of unit 0 at `pc`. -/
def seqSignal (s : State) (t pc : Nat) (w : CWord) : State :=
  if cwSigEn w && decide ((s.tile t).run = .running) then signalToken s t (cwSigTok w) pc else s

/-- A word of unit 0 that completes at once: `g` gives the tile after it. -/
def seqWord (s : State) (t op : Nat) (g : Tile → CWord → Tile) : State :=
  let pc := (s.tile t).pc
  issue s t 0 op (seqStart t (fun s w => seqSignal (s.modTile t (fun x => g x w)) t pc w))

/-- A word of unit 0 that holds the sequencer until the units have drained. -/
def seqHold (s : State) (t op : Nat) (st : CWord → Stall) : State :=
  issue s t 0 op (seqStart t (fun s w => s.modTile t (fun x => { x with stall := st w })))

/-- The word that holds the sequencer is over: the program goes on. -/
def seqRelease (s : State) (t : Nat) : State :=
  let x := s.tile t
  let y : Tile := { x with stall := .none }
  let s := s.setTile t y.advance
  match tfind? x.cmdCache x.pc with
  | some w => seqSignal s t x.pc w
  | none => s

/-! ### Fetch, release, completion -/

/-- R60: the command cache holds 1,024 words; a word displaces the one whose address agrees in its low 10 bits. -/
def cacheWord (c : Tbl CWord) (a : Nat) (w : CWord) : Tbl CWord :=
  tset w (c.filter (fun e => e.1 % 1024 != a % 1024)) a

/-- R60: the fetch returns; it waits for a channel that is being trained (R190). -/
def fetchFill (s : State) (t : Nat) (fail : Bool) : State :=
  let x := s.tile t
  let n := min 8 (2 ^ 20 - x.pc)
  let a := x.image + 16 * x.pc
  if x.run ≠ .running ∨ !(x.stall == .fetch || (x.stall == .none && !thas x.cmdCache x.pc)) ∨ s.stalled a (16 * n) then s
  else
    let (d, s) := agentReadAll s x.ctx a (16 * n) t
    if fail || !d.ok || !d.bad.isEmpty then tileFault s t 0xB x.pc
    else s.modTile t (fun x => { x with stall := .none, cmdCache := (List.range n).foldl (fun c i =>
      cacheWord c (x.pc + i) (BitVec.ofNat 128 (fld d.data (16 * i) 16))) x.cmdCache })

/-- R61: the stalled word is placed. -/
def stallRelease (s : State) (t : Nat) : State :=
  let x := s.tile t
  match tfind? x.cmdCache x.pc with
  | some w => if x.run = .running && x.stall == .queueFull && decide ((x.unit (cwUnit w)).queue.length < 16) then
      place t (cwUnit w) s w else s
  | none => s

/-- R63, R108: the running word of a unit completes: its flags, its token, then the next word. A HODRUN signals at
delivery (R209); unit 7 is the drain port (R75). -/
def completeWord (s : State) (t u : Nat) : State :=
  let x := s.tile t
  match (x.unit u).active with
  | none => s
  | some a =>
    if x.run ≠ .running ∨ !a.finished then s
    else
      let s := raiseTile (s.setTile t (x.setUnit u { x.unit u with active := none })) t x.ctx a.flags.toNat
      let s := if cwSigEn a.word && cwOp a.word != 0x51 then signalToken s t (cwSigTok a.word) a.addr else s
      startUnit s t (if u = 7 then 1 else u)

/-! ### A WAIT that ends (R55 to R57, R66) -/

/-- The WAIT that a tile's unit 6 runs. -/
def Tile.waitActive (x : Tile) : Option Active :=
  if x.run = .running then (x.unit 6).active.filter (fun a => !a.finished && cwOp a.word == 0x60) else none

/-- R66: the condition holds and the WAIT is over. -/
def waitOver (s : State) (t : Nat) : State :=
  match (s.tile t).waitActive with
  | none => s
  | some a =>
    if waitHolds s t a.word (a.latch.getD 0 0) then (dropTileWaits s t).modTile t (fun x => x.finish 6 0) else s

/-- R56: the undelivered descriptors of a stream up to the one that a wait for `v` needs. -/
def lateDescs (x : Tile) (n v : Nat) : List HDesc :=
  match x.hod.stream? n with
  | some st => ((x.hod.descs.filter (fun d => d.stream == n && !d.done && d.status != 4)).take (v - st.delivered))
  | none => []

/-- R239: the flash READs that feed a stream, in order, up to the one that a wait for `v` needs. -/
def lateReads (s : State) (t n v : Nat) : List FCmd :=
  match (s.tile t).hod.stream? n with
  | some st => (s.flash.cmds.filter (fun c => c.stream == some (t, n))).take (v - st.delivered)
  | none => []

/-- R55: the tag of a descriptor, and its deadline in a timed ring; `nb` in a bulk one. -/
def ringNames (s : State) (ctx q : Nat) (b : List Byte) (nb : Nat) : Nat × Nat :=
  (fld b 4 4, if ((s.ctx ctx).ring q).timed then fld b 8 8 else nb)

/-- The oldest kiln batch of a pallet stream that still waits in its ring: ring and bytes. -/
def ringBatch (s : State) (ctx n : Nat) : Option (Nat × List Byte) :=
  (s.ctx ctx).sq.findSome? (fun r => (r.2.out.find? (fun d => d.type == 4 && d.phase == .ready && kdStream d.bytes == n)).map
    (fun d => (r.1, d.bytes)))

/-- R55: the tag and the deadline that the miss record names. A mailbox message has no tag, nor has a pallet wait with no
batch: 0 stands for it (DESIGN CHOICE, log 99). -/
def missNames (s : State) (t : Nat) (a : Active) : Nat × Nat :=
  let x := s.tile t
  let n := waObject a.word
  let nb := a.latch.getD 1 0
  if waKind a.word = 1 then
    (match lateDescs x n (a.latch.getD 0 0), lateReads s t n (a.latch.getD 0 0) with
     | d :: _, _ => (hodTag t d.bytes, if d.timed then d.deadline else nb)
     | [], c :: _ => (match c.origin with
       | .ring q abs => (match s.desc? c.ctx q abs with | some d => ringNames s c.ctx q d.bytes nb | none => (0, nb))
       | _ => (0, nb))
     | [], [] => (65536 * t, nb))
  else if waKind a.word = 2 then
    (match s.kiln.batches.find? (fun b => b.ctx == x.ctx && kdStream b.bytes == n) with
     | some b => ringNames s x.ctx b.ring b.bytes nb
     | none => (match ringBatch s x.ctx n with
       | some (q, b) => ringNames s x.ctx q b nb
       | none => (0, nb)))
  else (0, nb)

/-- R56, R239: the late requests of a hod stream, and the late flash READs that feed it, are marked; the hod and the flash
controller cancel them at their next boundary. -/
def markLate (s : State) (t n v : Nat) : State :=
  let late := (lateDescs (s.tile t) n v).map (fun d => d.id)
  let reads := (lateReads s t n v).map (fun c => c.id)
  let s := s.modTile t (fun x => { x with hod := { x.hod with descs := x.hod.descs.map (fun (d : HDesc) =>
    if late.contains d.id then { d with late := true } else d) } })
  { s with flash := { s.flash with cmds := s.flash.cmds.map (fun (c : FCmd) =>
    if reads.contains c.id then { c with late := true } else c) } }

/-- R67: words issued after a WAIT that have not started are discarded. -/
def Tile.discardAfter (x : Tile) (seq : Nat) : Tile :=
  { x with stall := .none, units := x.units.map (fun u => { u with queue := u.queue.filter (fun q => decide (q.seq < seq)) }) }

/-- R55, R56, R67: the miss of a real-time WAIT. Loop levels that are open stay open at FALLBACK (DESIGN CHOICE, log 100). -/
def waitMiss (s : State) (t : Nat) : State :=
  let x := s.tile t
  match x.waitActive with
  | none => s
  | some a =>
    let v := a.latch.getD 0 0
    let k := waKind a.word
    if !waitRt s t a.word ∨ s.now < a.latch.getD 1 0 ∨ waitHolds s t a.word v then s
    else
      let (tag, dl) := missNames s t a
      let s := missRecord s x.ctx 0 (if k = 1 then 1 else if k = 2 then 3 else 4) (waObject a.word) tag dl t
      let s := if k = 1 then markLate s t (waObject a.word) v else s
      match waFallback a.word with
      | some f =>
        (s.bump 0x12020 0 1).modTile t (fun x => ({ x.discardAfter a.seq with pc := f }).finish 6 0)
      | none => tileFault s t 0xA a.addr

end Sys2Proof.Machine
end

