-- ==== Sys2Proof/Machine/Cont.lean ====
section
/-! DEFINITION. The continuity unit's lap, timeout, commands and enable (R338 to R347, R355). -/

namespace Sys2Proof.Machine

/-! ### The lap (R339) -/

/-- R345, R347: the TUPDATEs of a context that waited go on. -/
def resumeUpdates (s : State) (ctx : Nat) : State :=
  (s.tiles.filter (fun t => t.2.run == .running && t.2.ctx == ctx)).foldl (fun s t => retryUnit s t.1 5 0x70) s

/-- The lap's result, and the trowels that waited for GO. -/
def lapEnd (s : State) (ctx : Nat) : State := resumeUpdates (lapResult s ctx (s.cont ctx).lapAnd) ctx

/-- The lap of the first group is over when the own message is back and every other has passed: the next group's lap
starts. -/
def lapNext (s : State) (ctx : Nat) : State :=
  let c := s.cont ctx
  match c.lapGroups with
  | [] => s
  | g :: rest =>
    if c.lapBack && decide ((s.group ctx g).len ≤ c.lapSeen + 1) then
      (let s := s.setCont ctx { c with lapGroups := rest }
       if rest.isEmpty then lapEnd s ctx else startLap s ctx)
    else s

/-- R339: a lap message at a unit whose lap is on the message's group: it returns, or it is ANDed and passed on. -/
def lapTake (s : State) (ctx g : Nat) (m : RxMsg) : State :=
  let c := s.cont ctx
  let x := s.group ctx g
  let bit := bitAt (subTotal m.bytes) 0
  if subOrigin m.bytes = x.rank then lapNext (s.setCont ctx { c with lapBack := true, lapAnd := c.lapAnd && bit }) ctx
  else
    let ok := subFirst m.bytes == s.contStep ctx
    let c := { c with lapSeen := c.lapSeen + 1, lapAnd := c.lapAnd && ok, lapCause := if ok then c.lapCause else 2 }
    let s := sendLap (s.setCont ctx c) ctx g (subOrigin m.bytes) (bit && c.lapAnd) (subFirst m.bytes)
    lapNext s ctx

/-- The context and group of a lap message, when that group's lap is on. -/
def lapOn (s : State) (m : RxMsg) : Option (Nat × Nat) :=
  let ctx := msgCtx m.bytes
  let c := s.cont ctx
  match c.lapGroups with
  | g :: _ => if c.lap && (s.group ctx g).en && (s.group ctx g).axis == subAxis m.bytes then some (ctx, g) else none
  | [] => none

/-- R339: a lap message of R311: a vote message with bit 1 of TOTAL set. -/
def isLap (m : RxMsg) : Bool := msgOp m.bytes == 4 && subKind m.bytes == 8 && bitAt (subTotal m.bytes) 1

/-- R341: the own message of a lap that is no longer on is ignored and counted. -/
def lapStale (s : State) (m : RxMsg) : Bool :=
  let ctx := msgCtx m.bytes
  !(s.cont ctx).lap && (List.range 16).any (fun g => bitAt (s.contMask ctx) g && (s.group ctx g).en &&
    (s.group ctx g).axis == subAxis m.bytes && (s.group ctx g).rank == subOrigin m.bytes)

/-- A lap message that has arrived: it takes part, is ignored as late, or is held until its lap is on. -/
def lapArrive (s : State) (port : Nat) (m : RxMsg) : State :=
  let s := s.consume port m
  match lapOn s m with
  | some (ctx, g) => lapTake s ctx g m
  | none =>
    if lapStale s m then s.clampEvent 0x1E020 0x80 2
    else
      let ctx := msgCtx m.bytes
      s.setCont ctx { s.cont ctx with heldMsgs := (s.cont ctx).heldMsgs ++ [(port, m)] }

/-- The first held message whose lap is on. -/
def heldLap (s : State) (port : Nat) : Option RxMsg :=
  ((s.conts.flatMap (fun c => c.2.heldMsgs)).find? (fun h => h.1 == port && (lapOn s h.2).isSome)).map (·.2)

/-- A held message takes part in its lap. -/
def lapHeld (s : State) (m : RxMsg) : State :=
  match lapOn s m with
  | some (ctx, g) =>
    let c := s.cont ctx
    lapTake (s.setCont ctx { c with heldMsgs := dropFirst (fun h => decide (h.2 = m)) c.heldMsgs }) ctx g m
  | none => s

/-- A lap over no group: this module is its only member. -/
def soloLap (s : State) : Option Nat := (s.conts.find? (fun c => c.2.lap && c.2.lapGroups.isEmpty)).map (·.1)

/-- R339: COMMIT_LAP_MSG: a lap with no other member ends, or a lap message held or newly arrived at the port takes
part. -/
def execCommitLapMsg (port : Nat) (s : State) : Host.Outcome State Fault Refusal :=
  .next (match soloLap s with
    | some ctx => lapEnd s ctx
    | none => match heldLap s port with
      | some m => lapHeld s m
      | none => match s.inMsg port isLap with
        | some m => lapArrive s port m
        | none => s)

/-! ### Timeout and commands (R341, R347) -/

/-- R341: CONT_TIMEOUT_EXPIRY. -/
def execContTimeoutExpiry (ctx : Nat) (s : State) : Host.Outcome State Fault Refusal :=
  .next (let c := s.cont ctx
    if c.st == .prepared && decide (c.preparedAt + 1000000 * s.regFld 0x1E024 ctx 0 16 ≤ s.now) then
      commitRecord ((s.setCont ctx { c with st := .inDoubt }).bump 0x1E030 ctx 1) ctx 3
    else s)

/-- R341: an IN_DOUBT unit is resolved. -/
def contResolve (s : State) (ctx : Nat) (commit : Bool) : State :=
  let step := s.contStep ctx
  let c := s.cont ctx
  let s := if commit then (s.setReg 0x1E01C ctx (step + 1)).bump 0x1E028 ctx 1 else s
  let s := (s.setStepPoison ctx step false).setCont ctx { c with
    st := .running, lap := false, lapGroups := [], trUe := false,
    curGen := if commit && !s.contSingle ctx then !c.curGen else c.curGen }
  contWatch (commitRecord s ctx (if commit then 5 else 6))

/-- R347: HOLD and RELEASE. -/
def contHold (s : State) (master ctx : Nat) (hold : Bool) : State :=
  let c := s.cont ctx
  if hold then
    (if c.held.isSome then s.clampEvent 0x1E020 master 2 else s.setCont ctx { c with held := some c.curGen })
  else resumeUpdates (s.setCont ctx { c with held := none }) ctx

/-- R341, R347: CONT_CMD. In IN_DOUBT only COMMIT and ABORT are accepted, and only there. -/
def contCmd (s : State) (master ctx cmd : Nat) : State :=
  let doubt := (s.cont ctx).st == .inDoubt
  if cmd = 1 ∨ cmd = 2 then
    (if doubt then contResolve s ctx (cmd == 1) else s.clampEvent 0x1E020 master 2)
  else if cmd = 3 ∨ cmd = 4 then
    (if doubt then s.clampEvent 0x1E020 master 2 else contHold s master ctx (cmd == 3))
  else s

/-! ### EN (R355) -/

/-- R337: the layout of the generations. -/
def genLayoutOk (s : State) (ctx : Nat) : Bool :=
  decide (s.genLen ctx ≤ s.genDelta ctx) && decide (s.genLo ctx + s.genDelta ctx + s.genLen ctx ≤ 8192)

/-- R355: a write of CONT_CTRL. -/
def contCtrl (s : State) (master ctx v : Nat) : State :=
  let old := s.reg 0x1E004 ctx
  let c := s.cont ctx
  let bad := fun (s : State) => s.clampEvent 0x1E004 master 2
  if !bitAt old 0 then
    (let s := s.setReg 0x1E004 ctx (setBits v 0 1 0)
     if !bitAt v 0 then s
     else if genLayoutOk s ctx then contWatch ((s.setReg 0x1E004 ctx v).setCont ctx { c with st := .running })
     else bad s)
  else
    let s := if bits v 1 17 = bits old 1 17 then s else bad s
    if bitAt v 0 then s
    else if c.st == .prepared then bad s
    else (s.setReg 0x1E004 ctx (setBits old 0 1 0)).setCont ctx { c with
      st := .disabled, lap := false, lapGroups := [], trUe := if c.st == .inDoubt then false else c.trUe }

end Sys2Proof.Machine
end

