-- ==== Sys2Proof/Machine/CtxReset.lean ====
section
/-! DEFINITION. The reset of a context (R357, R389), the unmasking of a vector (R450), and idle counting (R326). -/

namespace Sys2Proof.Machine

/-! ### Context reset (R389) -/

/-- R389: the host port abandons a context's host reads; the requests fail as under R248, uncounted. -/
def abandonReads (s : State) (ctx : Nat) : State :=
  (s.hostReads.filter (fun h => h.ctx == ctx && !h.abandoned)).foldl (fun s h =>
    hostReadFails { s with hostReads := s.hostReads.map (fun (x : HostRead) =>
      if x.tag = h.tag then { x with abandoned := true } else x) } h) s

/-- R389 E2: descriptors that have not started are dropped, with their requests. -/
def dropUnstarted (s : State) (ctx : Nat) : State :=
  (List.range 16).foldl (fun s q =>
    let r := (s.ctx ctx).ring q
    let waits := fun (d : Desc) => s.launches.any (fun l => l.ctx == ctx && l.ring == q && l.abs == d.abs && !l.running)
    let gone := r.out.filter (fun d => d.phase == .ready || d.phase == .waiting && d.type == 5 || waits d)
    let s := gone.foldl (fun s d => match d.treq with | some id => s.deliver id | none => s) s
    s.setRing ctx q { r with out := r.out.filter (fun d => !gone.contains d) }) s

/-- R389 E1, E2: the reset begins: doorbells and sends are discarded from now on, host reads are abandoned, launches
stop, descriptors that have not started are dropped. -/
def ctxReset (s : State) (ctx : Nat) : State :=
  let c := s.ctx ctx
  if c.inReset then s
  else
    let s := abandonReads (s.setCtx ctx { c with inReset := true, resetRect := rectTiles c.x0 c.y0 c.wm1 c.hm1 }) ctx
    let s := dropUnstarted s ctx
    let s := { s with launches := s.launches.filter (fun l => !(l.ctx == ctx && !l.running)) }
    stopLaunches s ctx

/-- R389 E3: the requests of the context that are still in flight end. -/
def endInFlight (s : State) (ctx : Nat) : State :=
  let s := { s with time := { s.time with treqs := s.time.treqs.filter (fun r => r.ctx != ctx || r.qkind == 5) } }
  let s := s.modFlash (fun f => Flash.prune { f with cmds := f.cmds.filter (fun c => c.ctx != ctx) })
  let s := (s.copies.filter (fun j => j.ctx == ctx)).foldl (fun s j => kvDone s j.kvUser) s
  let s := { s with copies := s.copies.filter (fun j => j.ctx != ctx) }
  let gone := (s.kiln.batches.filter (fun b => b.ctx == ctx)).map (·.id)
  let s := (List.range 16).foldl (fun (s : State) (e : Nat) =>
    if (s.engine e).st != .free && gone.contains (s.engine e).batch then freeEngine s e else s) s
  let s := s.modKiln (fun k => { k with batches := k.batches.filter (fun b => b.ctx != ctx) })
  let s := (s.colls.filter (fun c => c.ctx == ctx && c.phase != .ended && c.phase != .land)).foldl (fun s c => collAbort s c) s
  let s := (s.colls.filter (fun c => c.ctx == ctx)).foldl (fun s c => kvDone s c.kvUser) s
  let s := { s with colls := s.colls.filter (fun c => c.ctx != ctx) }
  let s := { s with joints := s.joints.map (fun j => (j.1, { j.2 with waits := j.2.waits.filter (fun w =>
    match w.1 with | .desc c _ _ => c != ctx | .tile _ => true) })) }
  (List.range 16).foldl (fun s q =>
    (((s.ctx ctx).ring q).out.filter (fun d => d.phase == .running || d.phase == .waiting || d.phase == .finished)).foldl
      (fun s d => finishDesc (s.modDesc ctx q d.abs (fun x => { x with treq := none })) ctx q d.abs
        (if d.phase = .finished then d.status else 5) d.detail) s) s

/-- R442: a master's selections, latches, held halves, assembly buffer and unlock return to their reset values. -/
def clearMaster (s : State) (m : Nat) : State :=
  { s with
    regs := s.regs.filter (fun (e : Nat × Word) =>
      let off := e.1 % 0x4000000
      let idx := e.1 / 0x4000000
      !((off == 0x14008 || off == 0x1B044) && idx == 4096 + m || (idx == m && (match wordRow off with | some r => r.bank == .master | none => false)))),
    masters := tdel s.masters m }

/-- R389: what a tile's hod still had under way ends, in its channels and in the KV pool's count too. -/
def endHod (s : State) (t : Nat) : State :=
  let s := (s.tile t).hod.descs.foldl (fun s d => kvDone s d.kvUser) s
  let s := s.modTile t (fun x => { x with hod := { x.hod with streams := [], descs := [], tags := [] } })
  { s with chans := s.chans.map (fun c => (c.1, { c.2 with
      entries := c.2.entries.filter (fun e => e.tile != t), held := c.2.held.filter (fun e => e.tile != t) })) }

/-- R389 E4: scratchpads of the rectangle are zeroed, rings disabled, flags, poison flags and joint values cleared. The
timed queues of the context end with its rings and launches. -/
def clearCtx (s : State) (ctx : Nat) : State :=
  let c := s.ctx ctx
  let s := c.resetRect.foldl (fun s t => endHod (s.zeroScratch t) t) s
  let s := s.endQueues (fun k => decide (k.1 < 4) && k.2.1 == ctx)
  let s := clearMaster (clearMaster (s.setReg 0x14010 ctx 0) ctx) (0x40 + ctx)
  let s := { s with joints := s.joints.map (fun (j : Nat × Joint) =>
    if j.2.valid && j.2.owner == ctx then (j.1, { j.2 with value := 0, ticket := 0 }) else j) }
  s.setCtx ctx { s.ctx ctx with stepPoison0 := false, stepPoison1 := false, sq := [], cq := [], held := [], resetRect := [] }

/-- R389 E3 to E5: the reset completes; the context is enabled with no ring set up. -/
def ctxResetDone (s : State) (ctx : Nat) : State :=
  if !(s.ctx ctx).inReset then s
  else
    let s := clearCtx (endInFlight s ctx) ctx
    mbPumpAll (s.setCtx ctx { s.ctx ctx with inReset := false }) ctx

/-- R389: FUNCTION_LEVEL_RESET: function n holds context n. -/
def execFunctionLevelReset (fn : Nat) (s : State) : Host.Outcome State Fault Refusal := .next (ctxReset s fn)

/-- R389: CONTEXT_RESET_COMPLETE. -/
def execContextResetComplete (ctx : Nat) (s : State) : Host.Outcome State Fault Refusal := .next (ctxResetDone s ctx)

/-- R358: the rectangles of two contexts share a tile. -/
def Ctx.overlaps (a b : Ctx) : Bool :=
  decide (a.x0 ≤ b.x0 + b.wm1) && decide (b.x0 ≤ a.x0 + a.wm1) && decide (a.y0 ≤ b.y0 + b.hm1) && decide (b.y0 ≤ a.y0 + a.hm1)

/-- R357, R451: FUNCTION_ENABLE_CHANGE: disabling the function of an enabled context resets the context first, and its
entry keeps ENABLE; enabling it clears ENABLE where the rectangle has come to overlap an enabled context's. -/
def execFunctionEnableChange (fn : Nat) (enable : Bool) (s : State) : Host.Outcome State Fault Refusal :=
  .next (let c := s.ctx fn
    let s := if !enable && c.enable && c.fnEn then ctxReset s fn else s
    let clash := enable && !c.fnEn && c.enable && s.ctxs.any (fun d => d.1 != fn && d.2.enable && d.2.fnEn && c.overlaps d.2)
    let s := s.setCtx fn { s.ctx fn with fnEn := enable, enable := c.enable && !clash }
    if clash then s.clampEvent 0x10004 fn 2 else s)

/-! ### Vectors (R450) -/

/-- R450: MSIX_UNMASK: the pending message goes. -/
def execMsixUnmask (fn vector : Nat) (s : State) : Host.Outcome State Fault Refusal :=
  .next (let k := fn * 32 + vector
    let e := tget MsixVec.reset s.msix k
    let s := { s with msix := tset { e with masked := false, pending := false } s.msix k }
    if e.pending then { s with msixSent := s.msixSent ++ [(fn, vector)] } else s)

/-! ### Idle counting (R326) -/

/-- R326: the cause of a WAIT: the joint's last add; a pallet; a stream; a mailbox channel. A stream whose next
descriptor does not read a memory tier is counted as other. -/
def waitCause (s : State) (x : Tile) (w : CWord) : Nat :=
  let k := waKind w
  if k = 0 then (s.joint (waObject w)).cause
  else if k = 2 then 5
  else if k = 1 then
    (match x.hod.descs.find? (fun d => d.stream == waObject w && !d.done) with
     | some d => if addrKind (hdSrc d.bytes) = .brick || addrKind (hdSrc d.bytes) = .host then 6 else 9
     | none => 6)
  else 9

/-- R326: the cause that a tile adds to in a microsecond; none for one that issues or runs work. -/
def idleCause (s : State) (x : Tile) : Option Nat :=
  if x.run ≠ .running then some 8
  else
    let u6 := ((x.units.getD 6 UnitQ.reset).active)
    let u5 := ((x.units.getD 5 UnitQ.reset).active)
    let held := match u5 with | some a => !a.finished && !a.latch.isEmpty | none => false
    match u6 with
    | some a =>
      if a.finished then (if x.stall = .halt then some 9 else none)
      else if cwOp a.word = 0x60 then some (waitCause s x a.word)
      else some (s.joint (jwJoint a.word)).cause
    | none =>
      if x.stall = .halt || held then some 9
      else if !s.power.issueOpen then some 7
      else none

/-- R326: one microsecond: every tile that a context owns adds 1 to at most one counter of its group. -/
def idleTick (s : State) : State :=
  (List.range tileCount).foldl (fun s t =>
    if (s.ownerOf t).isNone then s
    else match idleCause s (s.tile t) with
      | none => s
      | some c =>
        let k := brickOf t * 16 + c
        { s with idle := tset (tget 0 s.idle k + 1) s.idle k }) s

/-- R326: IDLE_TICK. -/
def execIdleTick (s : State) : Host.Outcome State Fault Refusal := .next (idleTick s)

end Sys2Proof.Machine
end

