-- ==== Sys2Proof/Machine/Power.lean ====
section
/-! DEFINITION. Promise point and caps (R50, R393 to R401), energy (R406), shedding and safe stop (R407 to R409), units
(R410), thermal control (R411), brick temperature (R196) and the hold-up bank (R249, R250). -/

namespace Sys2Proof.Machine

def State.modPower (s : State) (g : Power → Power) : State := { s with power := g s.power }
def State.modTime (s : State) (g : TimeSt → TimeSt) : State := { s with time := g s.time }

/-! ### Promise point and admission share (R50, R397, R398, R400) -/

/-- R397: the highest operating point whose full-load estimate does not exceed the cap; VP0 when none fits. -/
def State.capPoint (s : State) : Nat :=
  ((List.range 13).filter (fun v => decide (Config.fullLoadW v ≤ s.capInForce))).foldl max 0

/-- R58: PP_REQ as written. -/
def State.ppReq (s : State) : Nat := s.regFld 0x1200C 0 0 4

/-- The promise point in force changes; CUR_VP never lies below it (R397). -/
def setPp (s : State) (v : Nat) : State :=
  s.modTime (fun t => { t with pp := v, pendVp := none, curVp := max t.curVp v })

/-- R398, R400: CAP_PENDING. -/
def capMark (s : State) : State :=
  s.modPower (fun p => { p with capPending :=
    (s.time.pendVp.isSome && decide (p.capVp < s.ppReq)) || p.dutyPend.isSome })

/-- R50: a request for a promise point: a raise, or a lowering at which every ledger passes, takes effect at once; any
other waits. From stage 3 on, shedding holds VP0 (R407). -/
def requestPp (s : State) (v : Nat) : State :=
  capMark (if 3 ≤ s.time.shedStage then s
    else if s.time.pp ≤ v ∨ s.allPass v s.admShare = true then setPp s v
    else s.modTime (fun t => { t with pendVp := some v }))

/-- R397: the point that the power manager requests. -/
def wantedPp (s : State) : State := requestPp s (min s.ppReq s.power.capVp)

/-- The cap in force has changed. -/
def capChange (s : State) : State := wantedPp (s.modPower (fun p => { p with capVp := s.capPoint }))

/-- R400: a request for DUTY_ADM: a raise applies at once; a lowering when every ledger passes at the new share. -/
def requestDuty (s : State) (v : Nat) : State :=
  let p := s.power
  capMark (if p.dutyAdm ≤ v then
      s.modPower (fun p => { p with dutyAdm := v, dutyPend := none, duty := max p.duty v })
    else if s.allPass s.time.pp (s.dutyShare v) then s.modPower (fun p => { p with dutyAdm := v, dutyPend := none })
    else s.modPower (fun p => { p with dutyPend := some v }))

/-- R50, R400: PP_PENDING_APPLY: what is pending applies once the ledgers pass. -/
def execPpPendingApply (s : State) : Host.Outcome State Fault Refusal :=
  .next (
    let s := match s.time.pendVp with
      | some v => if s.allPass v s.admShare then setPp s v else s
      | none => s
    let s := match s.power.dutyPend with
      | some d => if s.allPass s.time.pp (s.dutyShare d) then
          s.modPower (fun p => { p with dutyAdm := d, dutyPend := none }) else s
      | none => s
    capMark s)

/-! ### Cap frames and reports (R393 to R395, R401) -/

/-- R395: the report. -/
def capReport (s : State) : List Byte :=
  let p := s.power
  leBytes 1 1 ++ leBytes 1 0x51 ++ leBytes 1 (s.time.curVp + 16 * p.capVp) ++
    leBytes 1 (b2n (decide (p.duty < 10)) + 2 * b2n p.capPending + 4 * b2n p.leaseExpired + 8 * b2n p.matchLost +
      16 * b2n (!p.throttle.isEmpty) + 32 * s.time.shedStage) ++
    leBytes 4 (match p.lastSeq with | some q => q.toNat | none => 0) ++ leBytes 2 s.capInForce ++
    leBytes 2 (min p.meanW 0xFFFF) ++ leBytes 2 (min p.maxW 0xFFFF) ++ leBytes 1 p.duty ++ leBytes 1 0 ++
    leBytes 8 p.energyIn.toNat ++ leBytes 8 s.now

/-- A report is sent; MAX_W starts anew. -/
def sendReport (s : State) : State :=
  if s.mgmt.up then (mgmtSend s (capReport s)).modPower (fun p => { p with maxW := 0 }) else s

/-- R395: the frame is accepted. -/
def capAccepts (s : State) (f : List Byte) : Bool :=
  decide (f.length = 16) && decide (fld f 0 1 = 1) && decide (fld f 1 1 = 0x50) && (match s.power.lastSeq with
    | none => true
    | some q => (let d := (fld f 4 4 + 2 ^ 32 - q.toNat) % 2 ^ 32; decide (1 ≤ d) && decide (d ≤ 2 ^ 31)))

/-- R401: a cap that was lowered exempts the collectives in progress. -/
def exemptColls (s : State) (old : Nat) : State :=
  let l := (s.colls.filter (fun c => c.phase != .ended)).map (fun c => (c.ctx * 16 + c.group, c.seq))
  if s.capInForce < old && !l.isEmpty then
    s.modPower (fun p => { p with collExempt := true, exemptFrom := s.now, exemptColls := l })
  else s

/-- R393, R395: an accepted frame's cap and lease. -/
def capAccept (s : State) (f : List Byte) : State :=
  let old := s.capInForce
  let s := s.modPower (fun p => { p with
    lastSeq := some (BitVec.ofNat 32 (fld f 4 4)), rackCap := some (clampTo 250 1200 (fld f 8 2)),
    leaseEnd := if fld f 10 2 = 0 then none else some (s.now + 1000000 * fld f 10 2), leaseExpired := false })
  capChange (exemptColls s old)

/-- R394, R395: CAP_FRAME: outside a session the frame is discarded; inside, it is accepted or counted, and a report
goes. -/
def execCapFrame (bytes : List Byte) (s : State) : Host.Outcome State Fault Refusal :=
  .next (if !s.mgmt.up then s
    else
      let s := { s with mgmt := { s.mgmt with lastAt := s.now } }
      sendReport (if capAccepts s bytes then capAccept s bytes else s.bump 0x2003C 0 1))

/-- R395: REPORT_TIMER. -/
def execReportTimer (s : State) : Host.Outcome State Fault Refusal :=
  .next (if s.regFld 0x2000C 0 0 8 = 0 then s else sendReport s)

/-- R393: LEASE_EXPIRY. -/
def execLeaseExpiry (s : State) : Host.Outcome State Fault Refusal :=
  .next (match s.power.leaseEnd with
    | some t => if t ≤ s.now then
        capChange (s.modPower (fun p => { p with rackCap := none, leaseEnd := none, leaseExpired := true })) else s
    | none => s)

/-- R401: COLL_EXEMPT_EXPIRY: 5 ms have passed, or no exempt collective is left. -/
def execCollExemptExpiry (s : State) : Host.Outcome State Fault Refusal :=
  .next (if 5000000 + s.power.exemptFrom ≤ s.now || !s.collsExempt then
      s.modPower (fun p => { p with collExempt := false, exemptColls := [] })
    else s)

/-! ### Windows, duty and the operating point (R396, R397, R399, R405, R406) -/

/-- A counter of R406 rises by an amount that the manual leaves to the measurement. -/
def chargeEnergy (s : State) (k : Nat) : Nat × State :=
  let (n, s) := s.draw
  let e := Config.freeNat n
  (e, s.modPower (fun p => { p with energy := tset (tget 0 p.energy k + BitVec.ofNat 64 e) p.energy k }))

/-- R406: the rings with descriptors at work, then the context's own share; its total includes both. -/
def chargeCtx (s : State) (c : Nat) : State :=
  let rings := (List.range 16).filter (fun q => ((s.ctx c).ring q).out.any (fun d => d.phase == .running))
  let (sum, s) := rings.foldl (fun (acc : Nat × State) q =>
    let (e, s) := chargeEnergy acc.2 (c * 32 + q)
    (acc.1 + e, s)) (0, s)
  let (_, s) := chargeEnergy s (c * 32 + 16)
  s.modPower (fun p => { p with energy := tset (tget 0 p.energy (c * 32 + 16) + BitVec.ofNat 64 sum) p.energy (c * 32 + 16) })

/-- R399: the power manager duty-cycles issue in the next window. -/
def State.duties (s : State) (meanW : Nat) : Bool :=
  (decide (s.capInForce < meanW) || decide (s.power.duty < 10)) && decide (s.time.curVp = 0) && decide (s.time.pp = 0)

/-- R399, R405: DUTY of the next window is the power manager's choice from DUTY_ADM to 10 while it duty-cycles, and 10
otherwise; a raise of the capacity needs no re-check. -/
def chooseDuty (s : State) (meanW : Nat) : State :=
  let (n, s1) := s.draw
  let lo := min s.power.dutyAdm 10
  let (d, s) := if s.duties meanW then (lo + Config.freeNat n % (11 - lo), s1) else (10, s)
  let lost := if bitAt (s.reg 0x20010 0) 0 && decide (s.capInForce < meanW) then true
    else if d = 10 then false else s.power.matchLost
  s.modPower (fun p => { p with duty := d, matchLost := lost, issueOpen := p.issueOpen || d == 10 })

/-- R396: POWER_WINDOW_END: 1 ms at this mean is that many mJ. -/
def execPowerWindowEnd (meanW : Nat) (s : State) : Host.Outcome State Fault Refusal :=
  .next (
    let s := s.modPower (fun p => { p with
      meanW := meanW, maxW := max p.maxW meanW, energyIn := p.energyIn + BitVec.ofNat 64 meanW })
    let s := (s.ctxs.filter (fun c => c.2.enable)).foldl (fun s c => chargeCtx s c.1) s
    chooseDuty (chargeEnergy s 31).2 meanW)

/-- R397, R405, R398, R407: where CUR_VP goes: VP0 from stage 3 on; PP while a lowering is pending; MATCH_VP in matched
mode; else what the control law asks for, from PP to VP12. -/
def State.nextVp (s : State) (want : Nat) : Nat :=
  if 3 ≤ s.time.shedStage then 0
  else if s.power.capPending then s.time.pp
  else if bitAt (s.reg 0x20010 0) 0 && !s.power.matchLost then max s.time.pp (s.regFld 0x20010 0 1 4)
  else clampTo s.time.pp 12 want

/-- R397: CUR_VP_UPDATE; `want` is the control law's choice on the measured power. The step rates of STEP_RATE are
measured anew. -/
def execCurVpUpdate (want _measuredW : Nat) (s : State) : Host.Outcome State Fault Refusal :=
  .next (
    let (a, s) := s.draw
    let (b, s) := s.draw
    s.modTime (fun t => { t with
      curVp := s.nextVp want, stepMedian := Config.freeNat a % 65536, stepSlowest := Config.freeNat b % 65536 }))

/-- The heads of the unit queues start once issue is open. -/
def startHeads (s : State) : State :=
  (s.tiles.filter (fun t => t.2.run == .running)).foldl (fun s t =>
    [1, 2, 3, 4, 5, 6].foldl (fun s u => startUnit s t.1 u) s) s

/-- R399: DUTY_QUANTUM: in a closed quantum no tile starts a command word; every quantum is open while DUTY is 10. -/
def execDutyQuantum (openQ : Bool) (s : State) : Host.Outcome State Fault Refusal :=
  .next (
    let o := openQ || decide (10 ≤ s.power.duty)
    let s := s.modPower (fun p => { p with issueOpen := o })
    if o then startHeads s else s)

/-! ### Units (R410) -/

/-- A request for a unit: off passes through DRAINING, on through POWERING; a request that arrives meanwhile waits, and
the last one stands. -/
def unitRequest (s : State) (u : Nat) (on : Bool) : State :=
  let st := s.power.units.getD u 0
  let set := fun (v : Nat) (w : Option Bool) => s.modPower (fun p => { p with
    units := p.units.set u v, unitWant := p.unitWant.set u w })
  if st = 0 then (if on then set 3 none else s)
  else if st = 1 then (if on then s else set 2 none)
  else if st = 2 then set 2 (if on then some true else none)
  else set 3 (if on then none else some false)

/-- R410: what still runs in a unit has ended: batches of the kiln, commands of the flash tier. -/
def State.unitEmpty (s : State) (u : Nat) : Bool :=
  if u = 0 then s.kiln.batches.isEmpty || s.kiln.kstate == 2 else if u = 3 then s.flash.cmds.isEmpty else true

/-- R410: UNIT_DRAIN_DONE. -/
def execUnitDrainDone (unit : Nat) (s : State) : Host.Outcome State Fault Refusal :=
  .next (if s.power.units.getD unit 0 = 2 ∧ s.unitEmpty unit = true then
      s.modPower (fun p => { p with
        units := p.units.set unit (if p.unitWant.getD unit none = some true then 3 else 0),
        unitWant := p.unitWant.set unit none })
    else s)

/-- R410: UNIT_POWER_UP_DONE. -/
def execUnitPowerUpDone (unit : Nat) (s : State) : Host.Outcome State Fault Refusal :=
  .next (if s.power.units.getD unit 0 = 3 then
      s.modPower (fun p => { p with
        units := p.units.set unit (if p.unitWant.getD unit none = some false then 2 else 1),
        unitWant := p.unitWant.set unit none })
    else s)

/-- R407, R410, R413: the units as shedding and software ask for them; KV1-S has neither kiln nor flash. -/
def applyUnits (s : State) : State :=
  let w := s.reg 0x20014 0
  let st := s.time.shedStage
  let s := if s.variant = .kv1a then
      unitRequest (unitRequest s 0 (bitAt w 0 && decide (st < 1))) 3 (bitAt w 1) else s
  unitRequest (unitRequest s 1 (decide (st < 2))) 2 (decide (st < 4))

/-! ### Shedding (R407 to R409) -/

/-- R275, R407 stage 1: the kiln drains. -/
def shedKiln (s : State) : State :=
  if s.variant = .kv1a ∧ s.kiln.kstate = 0 then kilnDrained (s.modKiln (fun k => { k with kstate := 1 })) else s

/-- R407 stage 4: a direction of a port keeps its lowest-numbered fibre in service; its ledger is re-checked. -/
def shedFibres (s : State) (p dir : Nat) : State :=
  let x := s.port p
  let live := (List.range 4).filter (fun f => x.fibreOn dir f)
  match live with
  | [] => s
  | f :: rest =>
    if rest.isEmpty then s
    else
      let s := (s.setPort p (x.setFibres dir (1#4 <<< f))).bump 0x1B02C p rest.length
      recheck s s.time.pp 1 4 (resPort p (dir == 1)) (resPort p (dir == 1))

/-- R407: the actions of one stage, entered with its stop cause. -/
def enterStage (s : State) (stage cause : Nat) : State :=
  let s := (s.modTime (fun t => { t with shedStage := stage })).bump 0x20044 0 1
  let s := if stage ≤ 4 then applyUnits s else s
  if stage = 1 then shedKiln s
  else if stage = 3 then
    (let s := s.modTime (fun t => { t with curVp := 0, pp := 0, pendVp := none })
     capMark (recheckAll s 0 3))
  else if stage = 4 then
    (let s := s.modTime (fun t => { t with admStopped := true })
     let s := (List.range 8).foldl (fun s p => shedFibres (shedFibres s p 0) p 1) s
     recheckAll s s.time.pp 4)
  else if stage = 5 then
    (let s := (s.modTime (fun t => { t with admStopped := true })).modPower (fun p => { p with
       stage5 := true, stopCause := cause })
     flashStop (recheckAll (s.tiles.foldl (fun s t => tileStop s t.1) s) s.time.pp 5))
  else s

/-- R407: a rise enters every stage up to the declared one, in ascending order. -/
def shedTo (s : State) (stage cause : Nat) : State :=
  (((List.range 6).filter (fun k => decide (s.time.shedStage < k) && decide (k ≤ stage))).foldl
    (fun s k => enterStage s k cause) s)

/-- R407: SHED_STAGE_ENTER. -/
def execShedStageEnter (stage cause : Nat) (s : State) : Host.Outcome State Fault Refusal := .next (shedTo s stage cause)

/-- R275: shedding of the kiln ends; a drain under way runs to its end first. -/
def unshedKiln (s : State) : State :=
  if s.kiln.kstate = 1 then s.modKiln (fun k => { k with queuedEnable := true })
  else s.modKiln (fun k => { k with kstate := 0 })

/-- R408: the highest stage is left; stage 5 only by a power cycle. -/
def leaveStage (s : State) : State :=
  let st := s.time.shedStage
  if st = 0 ∨ 5 ≤ st then s
  else
    let s := applyUnits (s.modTime (fun t => { t with shedStage := st - 1 }))
    if st = 1 then unshedKiln s
    else if st = 3 then wantedPp s
    else if st = 4 then s.modTime (fun t => { t with admStopped := false })
    else s

/-- R408: SHED_STAGE_EXIT. -/
def execShedStageExit (s : State) : Host.Outcome State Fault Refusal := .next (leaveStage s)

/-- R426: what the LIFETIME section holds, with its stop cause. -/
def lifetimeData (s : State) (cause : Nat) : List (Nat × Nat) :=
  [(0, cause), (1, s.flash.writtenPages), (2, s.flash.wearPct)]

/-- R409 E4, R427: the record of the stop: the LIFETIME section with the cause, and the changes of speed and pointing map
that still wait, as far as one record of 64 KiB holds them. -/
def stopRecord (s : State) : StoreRec :=
  let w := s.trust.queue.filter (fun r => r.section_ == secSpeed || r.section_ == secPointing)
  let d := (w.flatMap (fun r => r.data.map (fun x => (r.section_ * 2 ^ 40 + x.1, x.2)))).take 8000
  { section_ := secLifetime, data := lifetimeData s s.power.stopCause ++ d, bytes := 64 + 8 * (d.length + 3) }

/-- R249, R409 E4, E5: the record being written completes, then the stop's own, and the optics go off. A snapshot under
way is lost with its half (R425). -/
def safeStop (s : State) : State :=
  let t := s.trust
  let rs := t.writing.toList.filter (fun r => r.section_ != 0xFF) ++ [stopRecord s]
  let s := { s with trust := { t with
    committed := t.committed ++ rs, queue := [], writing := none, busy := false, compacting := false,
    storeGen := t.storeGen + rs.length, free := t.free - (rs.map (·.bytes)).sum } }
  let s := (List.range 9).foldl (fun s p => if (s.port p).phase = .off then s else portDown s p .off 0) s
  s.modPower (fun p => { p with safeStop := true })

/-- R409: SAFE_STOP_COMMIT, once the flash programs in flight have completed. -/
def execSafeStopCommit (s : State) : Host.Outcome State Fault Refusal :=
  .next (if s.power.stage5 && !s.power.safeStop && s.flash.cmds.all (fun c => c.programs == 0) then safeStop s else s)

/-! ### Thermal control (R196, R197, R411) -/

/-- R411: a junction sensor, numbered 100 to a brick, is above its limit; the bricks follow as 1,600 on. -/
def State.hot (s : State) (k : Nat) : Bool :=
  if k < 1600 then decide (4 * s.regFld 0x2000C 0 8 8 < tget 0 s.power.junc k) else decide (380 < (s.brick (k - 1600)).temp)

/-- R411: it reads 2 °C or more below its limit. -/
def State.cooled (s : State) (k : Nat) : Bool :=
  if k < 1600 then decide (tget 0 s.power.junc k + 8 ≤ 4 * s.regFld 0x2000C 0 8 8)
  else decide ((s.brick (k - 1600)).temp + 8 ≤ 380)

/-- R411: a hot sensor or brick begins to throttle. -/
def throttleOn (s : State) (k : Nat) : State :=
  if s.hot k && !thas s.power.throttle k then s.modPower (fun p => { p with throttle := tset 0 p.throttle k }) else s

/-- R411: JUNCTION_SENSOR_SAMPLE. -/
def execJunctionSensorSample (sensor temp : Nat) (over115 : Bool) (s : State) : Host.Outcome State Fault Refusal :=
  .next (if 1600 ≤ sensor then s
    else
      let s := throttleOn (s.modPower (fun p => { p with junc := tset temp p.junc sensor })) sensor
      if over115 then shedTo s 5 4 else s)

/-- R411: THERMAL_THROTTLE_STEP: 5 % less for what is hot, 5 % back for what has cooled; THROTTLE_MS counts ten steps. -/
def execThermalThrottleStep (s : State) : Host.Outcome State Fault Refusal :=
  .next (
    let set := !s.power.throttle.isEmpty
    let next := s.power.throttle.filterMap (fun (e : Nat × Nat) =>
      if s.hot e.1 then some (e.1, min 20 (e.2 + 1))
      else if s.cooled e.1 then (if e.2 ≤ 1 then none else some (e.1, e.2 - 1))
      else some e)
    let n := s.power.throttleSince + b2n set
    let s := s.modPower (fun p => { p with throttle := next, throttleSince := n % 10 })
    if 10 ≤ n then s.bump 0x20048 0 1 else s)

/-- R411: COOLANT_TEMPERATURE_SAMPLE; 20 K are 80 units. -/
def execCoolantTemperatureSample (coolIn coolOut : Nat) (s : State) : Host.Outcome State Fault Refusal :=
  .next (s.modPower (fun p => { p with coolIn := coolIn, coolOut := coolOut, flowLow := decide (coolIn + 80 < coolOut) }))

/-- R196: the refresh band of a temperature, given the band in force. -/
def bandOf (temp band : Nat) : Nat :=
  if 380 < temp then 2
  else if band = 2 ∧ 372 < temp then 2
  else if 340 < temp then 1
  else if 1 ≤ band ∧ 332 < temp then 1 else 0

/-- R196, R197: BRICK_TEMP_SAMPLE: the highest of the readings. -/
def execBrickTempSample (brick : Nat) (readings : List Nat) (s : State) : Host.Outcome State Fault Refusal :=
  .next (if 16 ≤ brick then s
    else
      let temp := readings.foldl max 0
      let s := s.setBrick brick { temp := temp, band := bandOf temp (s.brick brick).band }
      let s := if 380 < temp then s.orReg 0x1704C brick (2 ^ 15) else s
      let s := throttleOn s (1600 + brick)
      if 420 ≤ temp then shedTo s 5 4 else s)

/-! ### The hold-up bank (R249, R250) -/

/-- R427, R249: the next record is written, one at a time, under the hold-up check; one that fails it is deferred until the
next measurement. None starts once stage 5 has been declared, the stop's own commit apart. -/
def startCommit (s : State) : State :=
  match s.trust.queue with
  | [] => s
  | r :: rest =>
    if s.trust.writing.isSome || s.trust.deferred || decide (s.trust.stage < 6) || s.power.stage5 then s
    else if holdupAllows s 60 then
      { s with trust := { s.trust with queue := rest, writing := some r, busy := true } }
    else deferStore { s with trust := { s.trust with deferred := true } }

/-- R427, R249: STORE_RECORD_COMMIT. -/
def execStoreRecordCommit (s : State) : Host.Outcome State Fault Refusal := .next (startCommit s)

/-- R249: a commit that was deferred is tried again. -/
def retryCommit (s : State) : State :=
  if s.trust.deferred then startCommit { s with trust := { s.trust with deferred := false } } else s

/-- R249, R250: HOLDUP_MEASURE: deferred stores are tried again; a bank that falls after it was ready has failed. -/
def execHoldupMeasure (energy : Nat) (s : State) : Host.Outcome State Fault Refusal :=
  .next (
    let ok := decide (262 ≤ energy)
    let fell := s.holdup.wasOk && !ok && !s.holdup.failed
    let s := { s with holdup := { s.holdup with
      energy := energy, ok := ok, wasOk := s.holdup.wasOk || ok, failed := s.holdup.failed || fell, deferring := false } }
    let s := if fell then shedTo s 5 3 else s
    keepSweep (retryCommit (retryPrograms s)))

/-! ### Remeasuring (R403) -/

/-- R403: PWR_CMD REMEASURE, accepted while no context is enabled. -/
def remeasure (s : State) (master : Nat) : State :=
  if s.ctxs.any (fun c => c.2.enable) then s.clampEvent 0x20024 master 2
  else s.modPower (fun p => { p with remeasuring := true })

end Sys2Proof.Machine
end

