-- ==== Sys2Proof/Machine/Trust.lean ====
section
/-! DEFINITION. Boot and resets (R415 to R420, R428 to R431), measurement and the KRT's services (R421 to R423), the
retained store (R424 to R427) and the management session (R432). -/

namespace Sys2Proof.Machine

def State.modTrust (s : State) (g : Trust → Trust) : State := { s with trust := g s.trust }

/-! ### Measurement (R421) -/

/-- R421: Mi becomes SHA3-512(Mi ‖ d). -/
def extendMeas (s : State) (i : Nat) (d : List Byte) : State :=
  s.modTrust (fun t => { t with meas := t.meas.set i (sha3_512 (fit 64 (t.meas.getD i []) ++ d)) })

/-! ### What the store holds (R424 to R428) -/

/-- The entries of one section, oldest first, of the records that have been committed; the commit of a safe stop carries
entries of other sections under the section's number (R427). -/
def sectionData (t : Trust) (sec : Nat) : List (Nat × Nat) :=
  t.committed.flatMap (fun r =>
    if r.section_ == secLifetime then
      (if sec == secLifetime then r.data.filter (fun x => decide (x.1 < 2 ^ 40))
       else (r.data.filter (fun x => x.1 / 2 ^ 40 == sec)).map (fun x => (x.1 % 2 ^ 40, x.2)))
    else if r.section_ == sec then r.data else [])

/-- The last value of every key of a section. -/
def sectionTable (t : Trust) (sec : Nat) : Tbl Nat := (sectionData t sec).foldl (fun m x => tset x.2 m x.1) []

/-- Keys of the SECURITY section: the floors, the preferred slot, revoked root keys; from 16 on, the peers, 1 more than
the number that the 64 bytes spell. -/
def securityData (t : Trust) : List (Nat × Nat) :=
  [(0, t.cmcFloor), (1, t.periphFloor), (2, b2n t.preferB), (3, t.revoked.toNat)] ++
    (List.range 8).map (fun i => (16 + i, match t.peers[i]? with | some p => leNat p + 1 | none => 0))

/-- A change of the SECURITY section. -/
def putSecurity (s : State) : State := storePut s secSecurity (securityData s.trust)

/-! ### Firmware (R418, R419) -/

/-- R418: the two images of a slot are accepted together. -/
def slotOk (t : Trust) (x : FwSlot) (sig : Bool) : Bool :=
  sig && !t.revoked.getLsbD x.cmcKey && !t.revoked.getLsbD x.perKey && decide (t.cmcFloor ≤ x.cmcSvn) &&
    decide (t.periphFloor ≤ x.perSvn)

/-- The slot that runs. -/
def Trust.running (t : Trust) : FwSlot := if t.slot then t.slotB else t.slotA

/-- R419: the preferred slot, else the other one; none is recovery. -/
def bootSlot (t : Trust) : Option Bool :=
  let ok := fun (b : Bool) => if b then slotOk t t.slotB t.sigB else slotOk t t.slotA t.sigA
  if ok t.preferB then some t.preferB else if ok (!t.preferB) then some (!t.preferB) else none

/-! ### Boot from E3 on (R420) -/

/-- R433: the binding where the BINDING section is absent. -/
def defaultBinding : List (Nat × Nat × Nat) :=
  [(0, 0x00, 0x81), (1, 0x81, 0x00), (2, 0x80, 0x81), (3, 0x81, 0x80), (4, 0x00, 0x80), (5, 0x80, 0x00)]

/-- A channel of the binding table from the word of R452. -/
def bindWord (b : Mailbox) (v : Nat) : Mailbox :=
  { b with sender := bits v 0 8, receiver := bits v 8 8, timed := bitAt v 16, rt := bitAt v 17, cplRing := bits v 18 4,
           valid := bitAt v 22, mverMax := bits v 24 8 }

/-- R383, R435: the version that a channel negotiates: both ends implement 0x01 only. -/
def negotiated (b : Mailbox) : Mailbox := if b.valid then { b with mverMax := min b.mverMax 1 } else b

/-- R420 E6: the binding table, then the lock. -/
def bindTable (t : Trust) : Tbl Mailbox :=
  let tab := sectionTable t secBinding
  if tab.isEmpty then
    defaultBinding.map (fun (x : Nat × Nat × Nat) =>
      (x.1, negotiated { Mailbox.reset with sender := x.2.1, receiver := x.2.2, valid := true, mverMax := 1 }))
  else tab.map (fun (x : Nat × Nat) => (x.1, negotiated (bindWord Mailbox.reset x.2)))

/-- Key of the management port's MAC address in the CONFIG section; no word that SAVE_CONFIG captures has it. -/
def macKey : Nat := 0

/-- R428: a locally administered address, 0x02 and the first 5 bytes of ID_HASH, as a little-endian number. -/
def defaultMac : Nat := leNat (0x02 :: (sha3_512 ((List.range 2592).map Config.identityKey)).take 5)

/-- R300, R426, R428: the MAC address in force. -/
def storedMac (t : Trust) : Nat :=
  match (sectionTable t secConfig).find? (fun x => x.1 == macKey) with
  | some x => x.2
  | none => if t.storeValid then Config.mac % 2 ^ 48 else defaultMac

/-- R426: the words that SAVE_CONFIG captures, with their banks, MOD_COORD among them. -/
def configWords : List (Nat × Nat) :=
  [(0x1200C, 0), (0x12010, 0), (0x1703C, 0), (0x17040, 0), (0x18008, 0), (0x19008, 0), (0x1A004, 0), (0x1A008, 0),
   (0x1A00C, 0), (0x1A010, 0), (0x1A014, 0), (0x1B004, 0), (0x1C014, 0), (0x20008, 0), (0x2000C, 0), (0x20010, 0)] ++
  (List.range 8).map (fun p => (0x1B00C, p)) ++ (List.range 8).map (fun p => (0x1E040 + 4 * p, 0))

/-- R420 E6: the saved configuration comes back, and what it governs follows. -/
def restoreConfig (s : State) : State :=
  let s := ((sectionTable s.trust secConfig).filter (fun x => x.1 != macKey)).foldl (fun (s : State) x =>
    s.setReg (x.1 % 0x4000000) (x.1 / 0x4000000) x.2) s
  requestDuty (capChange s) (s.regFld 0x2000C 0 16 4)

/-- R402, R426: the tile speed map as stored, with its DERATED bits (R413). -/
def restoreSpeeds (s : State) : State :=
  s.modPower (fun p => { p with tsm := (sectionTable s.trust secSpeed).map (fun (x : Nat × Nat) => (x.1, speedOf x.2)) })

/-- R465: the entries of one kind of the pointing map: number and value. -/
def pointsOf (t : Trust) (kind : Nat) : List (Nat × Nat) :=
  (sectionTable t secPointing).filterMap (fun (x : Nat × Nat) =>
    if x.1 / 2 ^ 20 = kind then some (x.1 % 2 ^ 20, x.2) else none)

/-- R465: tiles, engines, dies and fenced lanes as the pointing map records them. -/
def restorePoints (s : State) : State :=
  let t := s.trust
  let run := fun (v : Nat) (r : TileRun) => if v = 1 then .fenced else if v = 2 then .spalled else r
  let s := (pointsOf t 0).foldl (fun (s : State) x => s.modTile x.1 (fun y => { y with run := run x.2 y.run })) s
  let up := (pointsOf t 3).foldl (fun (v : BitVec 16) x => if x.2 = 1 then v &&& ~~~(1#16 <<< x.1) else v) 0xFFFF
  let dies := (pointsOf t 4).foldl (fun (v : BitVec 16) x => if x.2 = 1 then v ||| (1#16 <<< x.1) else v) s.flash.dieFailed
  let s := (s.modKiln (fun k => { k with up := up })).modFlash (fun f => { f with
    dieFailed := dies, readOnly := f.readOnly || decide (2 ≤ ((List.range 16).filter (fun k => dies.getLsbD k)).length) })
  let s := (pointsOf t 2).foldl (fun (s : State) x =>
    let p := s.port (x.1 % 8)
    if x.2 = 2 then s.setPort (x.1 % 8) { p with fencedLane := p.fencedLane ++ [(x.1 / 8 % 4, x.1 / 32 % 8)] } else s) s
  { s with detourAvoid := ((pointsOf t 0).filter (fun x => x.2 == 2)).map (·.1), detourGen := s.detourGen + 1 }

/-- R188, R189: the state that a channel's record in the pointing map keeps through a training that places every lane. -/
def keptState (v : Nat) : ChState := if v % 8 = 4 then .fenced else if v % 8 = 5 then .spalled else .active

/-- R189, R465: a training at boot leaves a channel SPALLED. -/
def bootSpall (s : State) (ch : Nat) (c : Chan) : State :=
  repairEvent (s.setChan ch { c with state := .spalled, suspect := 0 }) 0 4 ch 4 0 0

/-- R189, R190: training of one channel after a cold reset: lanes left without a pin spall it. -/
def trainCold (s : State) (ch : Nat) (bad : List Nat) (was : Option Nat) : State :=
  let c := s.bootChan ch
  let c := match was with | some v => { c with state := keptState v, spare0 := v / 8 % 64, spare1 := v / 512 % 64 } | none => c
  let ((s0, s1), lost) := placeLanes c bad
  let c := { c with spare0 := s0, spare1 := s1 }
  if c.state = .spalled || lost.isEmpty then s.setChan ch c else bootSpall s ch c

/-- R189, R427: the outcome and the lane map of every channel go to the pointing map, 6,400 channels to a record; a channel
that its record does not list is ACTIVE with no spare in use. -/
def pointAll (s : State) : State :=
  (List.range 4).foldl (fun s k => { s with trust := { s.trust with queue := s.trust.queue ++ [{
    section_ := secPointing, bytes := 64 + 8 * 6400,
    data := (s.chans.filter (fun x => x.1 / 6400 == k)).map (fun x => (pointKey 1 x.1, x.2.point)) }] } }) s

/-- R190: training of all channels after a cold reset; `badPins` are the pins that R188 found bad. -/
def trainAllCold (s : State) (badPins : List (Nat × List Nat)) : State :=
  let s := { s with chans := [], chanBoot := .active, chanGen := s.chanGen + 1 }
  let kept := pointsOf s.trust 1
  let s := kept.foldl (fun (s : State) x =>
    trainCold s x.1 ((badPins.find? (fun b => b.1 == x.1)).elim [] (·.2)) (some x.2)) s
  pointAll (badPins.foldl (fun (s : State) b => if kept.any (fun x => x.1 == b.1) then s else trainCold s b.1 b.2 none) s)

/-- R189, R190: training of one channel after a warm reset, which keeps its contents: lanes left without a pin leave it
DEGRADED, more than four SPALLED. -/
def trainWarm (s : State) (ch : Nat) (x : Chan) (bad : List Nat) : State :=
  let c := { s.bootChan ch with spare0 := x.spare0, spare1 := x.spare1, needArray := x.needArray }
  if x.state = .spalled then s.setChan ch { c with state := .spalled }
  else
    let ((s0, s1), lost) := placeLanes c bad
    let c := { c with spare0 := s0, spare1 := s1 }
    if 4 < lost.length then bootSpall s ch c
    else
      let s := s.setChan ch { c with
        suspect := laneBitsOf lost,
        state := if x.state = .fenced then .fenced else if lost.isEmpty then .active else .degraded }
      if lost.isEmpty then s else logErr s ch 3 0

/-- R190: training of all channels after a warm reset. -/
def trainAllWarm (s : State) (badPins : List (Nat × List Nat)) : State :=
  let old := s.chans
  let s := { s with chans := [], chanGen := s.chanGen + 1 }
  let s := old.foldl (fun (s : State) x => trainWarm s x.1 x.2 ((badPins.find? (fun b => b.1 == x.1)).elim [] (·.2))) s
  pointAll (badPins.foldl (fun (s : State) b =>
    if thas old b.1 then s else trainWarm s b.1 (s.bootChan b.1) b.2) s)

/-- R421: what E4 and E5 measure. -/
def measureBoot (s : State) : State :=
  let t := s.trust
  let m := fun (which : Nat) (secs : List Nat) => sha3_512 (Config.sectionDigest which (secs.flatMap (fun k => sectionTable t k)))
  extendMeas (extendMeas (extendMeas (extendMeas (s.modTrust (fun t => { t with meas := List.replicate 8 (zeros 64) }))
    0 t.running.cmcDigest) 1 t.running.perDigest) 2 (m 0 [secConfig, secSecurity, secBinding])) 3 (m 1 [secPointing, secSpeed])

/-- R419: recovery: the physical function and the channels of the factory binding, nothing else. -/
def recovery (s : State) : State :=
  { s with mail := bindTable { s.trust with committed := [] } }.modTrust (fun t => { t with stage := 7 })

/-- R299, R301, R420 E7: every enabled port starts bring-up, and the host port's optics with them. -/
def startPorts (s : State) : State :=
  (List.range 9).foldl (fun s p =>
    if s.linkEnabled p then s.setPort p { s.port p with phase := .dark } else s) s

/-- R420 E4 to E7. -/
def bootOn (s : State) (train : State → State) : State :=
  match bootSlot s.trust with
  | none => recovery s
  | some b =>
    let s := s.modTrust (fun t => { t with slot := b, altSlot := b != t.preferB })
    let s := restoreConfig (restorePoints (restoreSpeeds (train (measureBoot s))))
    let s := { s with mail := bindTable s.trust }
    startPorts (s.modTrust (fun t => { t with stage := 6, bindLocked := true, cmcState := 0, cmcFailed := false, wdtAt := s.now }))

/-! ### Cold reset (R415, R420, R425, R428, R430) -/

/-- R425, R428: the SECURITY section, and the cause of the last safe stop, as restored. -/
def restoreTrust (t : Trust) : Trust :=
  let tab := sectionTable t secSecurity
  let life := sectionTable t secLifetime
  { t with
    cmcFloor := tget 0 tab 0, periphFloor := tget 0 tab 1, preferB := tget 0 tab 2 == 1,
    revoked := BitVec.ofNat 2 (tget 0 tab 3),
    peers := (List.range 8).filterMap (fun i => let v := tget 0 tab (16 + i); if v = 0 then none else some (leBytes 64 (v - 1))),
    stopCause := tget 0 life 0, mac := storedMac t }

/-- R426: what the LIFETIME section holds of the flash tier. -/
def restoreLife (s : State) : State :=
  let life := sectionTable s.trust secLifetime
  s.modFlash (fun f => { f with wearPct := tget 0 life 2, writtenPages := tget 0 life 1 })

/-- R430: the state after input power is applied: NOR contents, flash-tier data and host memory are kept. -/
def powerUp (s : State) : State :=
  let t := s.trust
  let r := State.reset
  let n := { r with
    variant := s.variant, pending := s.pending, freeCtr := s.freeCtr, nextId := s.nextId, hostMem := s.hostMem,
    chanGen := s.chanGen, detourGen := s.detourGen,
    flash := { r.flash with
      objs := s.flash.objs, data := s.flash.data, place := s.flash.place, fill := s.flash.fill, erases := s.flash.erases,
      reads := s.flash.reads, retried := s.flash.retried },
    trust := { Trust.reset with
      slotA := t.slotA, slotB := t.slotB, half := t.half, replayCut := t.writing.isSome, free := t.free,
      storeGen := t.storeGen, committed := t.committed, moduleFailed := t.moduleFailed,
      lastReset := if s.power.safeStop then 1 else 0 } }
  n.undefine 0 0x20000000000

/-- R420: COLD_RESET. -/
def coldReset (s : State) (puf0 puf1 half0 half1 sigA sigB : Bool) (badPins : List (Nat × List Nat)) : State :=
  let s := powerUp s
  let id := puf0 || puf1
  let valid := id && (if s.trust.half then half1 else half0)
  let s := s.modTrust (fun t => { t with
    identityLost := !id, helperCopy := !puf0 && puf1, sigA := sigA, sigB := sigB, storeValid := valid,
    factoryDefaults := !valid, rebuilding := !valid, committed := if valid then t.committed else [],
    replayCut := valid && t.replayCut })
  let s := restoreLife (s.modTrust restoreTrust)
  bootOn s (fun s => trainAllCold s badPins)

/-- R420: COLD_RESET. -/
def execColdReset (puf0 puf1 half0 half1 sigA sigB : Bool) (badPins : List (Nat × List Nat)) (s : State) :
    Host.Outcome State Fault Refusal := .next (coldReset s puf0 puf1 half0 half1 sigA sigB badPins)

/-! ### Warm reset and host port reset (R430) -/

/-- R430: a warm reset keeps device time, the KRT's keys, brick contents, flash-tier data, the binding table and its
lock. Scratchpads are undefined afterwards. -/
def warmReset (s : State) (badPins : List (Nat × List Nat)) : State :=
  let t := s.trust
  let r := State.reset
  let n := { r with
    variant := s.variant, pending := s.pending, freeCtr := s.freeCtr, nextId := s.nextId, hostMem := s.hostMem,
    mem := s.mem, poison := s.poison, chans := s.chans, chanBoot := s.chanBoot, chanGen := s.chanGen,
    detourAvoid := s.detourAvoid, detourGen := s.detourGen, bricks := s.bricks, holdup := s.holdup,
    time := { r.time with devTime := s.time.devTime, slewLeft := s.time.slewLeft, slewAcc := s.time.slewAcc,
                          shedStage := s.time.shedStage, admStopped := decide (4 ≤ s.time.shedStage) },
    ctxs := s.ctxs.filterMap (fun (c : Nat × Ctx) =>
      if c.2.fnEn then some (c.1, { Ctx.reset with fnEn := true }) else none),
    msix := s.msix, msixSent := s.msixSent,
    flash := { s.flash with cmds := [], recover := [] },
    links := { r.links with ls0 := s.links.ls0, ls0mm := s.links.ls0mm, ls1 := s.links.ls1, ls1mm := s.links.ls1mm,
                            acquired := s.links.acquired },
    power := { r.power with
      rackCap := s.power.rackCap, leaseEnd := s.power.leaseEnd, leaseExpired := s.power.leaseExpired,
      lastSeq := s.power.lastSeq, energy := s.power.energy, energyIn := s.power.energyIn, units := s.power.units,
      unitWant := s.power.unitWant, junc := s.power.junc, coolIn := s.power.coolIn, coolOut := s.power.coolOut },
    trust := { t with
      stage := 2, queue := t.queue, writing := none, busy := false, warmPending := false, pins := [], deferred := false, compacting := false, lastReset := 2,
      cmcState := 2, cmcFailed := false, fnState := t.fnState, factoryDefaults := t.rebuilding } }
  let s' := (n.undefine scratchBase (scratchTop - scratchBase)).modTrust restoreTrust
  let m := s.mail.map (fun (x : Nat × Mailbox) => (x.1, { Mailbox.reset with
    sender := x.2.sender, receiver := x.2.receiver, timed := x.2.timed, rt := x.2.rt, cplRing := x.2.cplRing,
    valid := x.2.valid, mverMax := x.2.mverMax }))
  let s' := bootOn s' (fun s => trainAllWarm s badPins)
  { s' with mail := m }

/-- R430: a warm-reset request: ignored and counted while a context is enabled; it waits for a record being written. -/
def warmRequest (s : State) (master : Nat) (badPins : List (Nat × List Nat)) : State :=
  if s.ctxs.any (fun c => c.2.enable) then s.clampEvent 0x2100C master 2
  else if s.trust.writing.isSome then s.modTrust (fun t => { t with warmPending := true })
  else warmReset s badPins

/-- R430: HOST_PORT_RESET: every context under R389, and PCIe configuration state. -/
def hostPortReset (s : State) : State :=
  let s := (List.range 64).foldl ctxReset s
  { s with
    ctxs := s.ctxs.map (fun (c : Nat × Ctx) => (c.1, { c.2 with fnEn := false })), msix := [] }

/-- R430: HOST_PORT_RESET. -/
def execHostPortReset (s : State) : Host.Outcome State Fault Refusal := .next (hostPortReset s)

/-! ### Requests to the store (R419, R426, R427) -/

/-- R426: SAVE_CONFIG captures the words at one instant; the section holds the MAC address too. -/
def saveConfig (s : State) : State :=
  storePut s secConfig ((macKey, s.trust.mac) :: configWords.map (fun w => (regKey w.1 w.2, s.reg w.1 w.2)))

/-- R419: COMMIT_SVN sets both floors to the SVNs of the running images. -/
def commitSvn (s : State) : State :=
  putSecurity (s.modTrust (fun t => { t with cmcFloor := t.running.cmcSvn, periphFloor := t.running.perSvn }))

/-- R419: PREFER_A and PREFER_B. -/
def prefer (s : State) (b : Bool) : State := putSecurity (s.modTrust (fun t => { t with preferB := b }))

/-- R435: STORE_CMD. The row of a warm reset says which pins its training found bad; a write of the register by another
row finds none (log entry 106). -/
def storeCmd (s : State) (master cmd : Nat) : State :=
  if cmd = 1 then saveConfig s else if cmd = 2 then commitSvn s else if cmd = 3 then prefer s false
  else if cmd = 4 then prefer s true else if cmd = 5 then warmRequest s master s.trust.pins else s

/-- The snapshot that compaction writes. -/
def snapshotRec : StoreRec := { section_ := 0xFF, data := [], bytes := 0 }

/-- R427: STORE_COMPACT: free space is below 1 MiB, and the snapshot goes to the other half. -/
def execStoreCompact (s : State) : Host.Outcome State Fault Refusal :=
  .next (if s.trust.writing.isSome || s.trust.compacting || decide (s.trust.stage < 6) || decide (0x100000 ≤ s.trust.free) ||
        s.trust.deferred || s.power.stage5 then s
    else if holdupAllows s 60 then
      s.modTrust (fun t => { t with writing := some snapshotRec, busy := true, compacting := true })
    else deferStore (s.modTrust (fun t => { t with deferred := true })))

/-- R427: the write in progress is complete; the new half rules once its SEAL has landed, with at least 1 MiB free. -/
def recordDone (s : State) (badPins : List (Nat × List Nat)) : State :=
  match s.trust.writing with
  | none => s
  | some r =>
    let (n, s1) := s.draw
    let s := if r.section_ = 0xFF then
        s1.modTrust (fun t => { t with
          writing := none, busy := false, compacting := false, half := !t.half, storeGen := t.storeGen + 8,
          free := 0x100000 + Config.freeNat n % 0x700000 })
      else s.modTrust (fun t => { t with
        writing := none, busy := false, storeGen := t.storeGen + 1, free := t.free - r.bytes, committed := t.committed ++ [r] })
    if s.trust.warmPending then warmReset s badPins else s

/-- R427: RETAINED_STORE_RECORD_DONE. -/
def execRetainedStoreRecordDone (badPins : List (Nat × List Nat)) (s : State) : Host.Outcome State Fault Refusal :=
  .next (recordDone s badPins)

/-- R426: LIFETIME_HOURLY_RECORD. -/
def execLifetimeHourlyRecord (s : State) : Host.Outcome State Fault Refusal :=
  .next (storePut s secLifetime (lifetimeData s s.trust.stopCause))

/-! ### Remeasuring (R403, R428) -/

/-- R403: REMEASURE_DONE: every entry measured anew, no DERATED bit left; R428: a rebuilt store's snapshot goes to half 0. -/
def execRemeasureDone (entries : List (Nat × Nat × Nat)) (s : State) : Host.Outcome State Fault Refusal :=
  .next (
    let d := entries.map (fun (e : Nat × Nat × Nat) => (e.1 * 16 + e.2.1, e.2.2 % 65536))
    if !s.power.remeasuring && !s.trust.rebuilding then s
    else
      let old := s.power.tsm.map (fun (e : Nat × (Nat × Bool)) => (e.1, (e.2.1, false)))
      let s := s.modPower (fun p => { p with
        remeasuring := false, tsm := d.foldl (fun m x => tset (x.2, false) m x.1) old })
      if s.trust.rebuilding then
        s.modTrust (fun t => { t with
          rebuilding := false, half := false, storeValid := true, storeGen := t.storeGen + 8, free := 0x700000,
          committed := t.committed ++ [{ section_ := secSpeed, data := d, bytes := 64 + 8 * d.length },
            { section_ := secConfig, data := [(macKey, t.mac)], bytes := 72 },
            { section_ := secSecurity, data := securityData t, bytes := 512 }] })
      else storePut s secSpeed d)

/-! ### Requests to the KRT (R421 to R423) -/

/-- The payload of a message of R383. -/
def mbPayload (m : List Byte) : List Byte := slice m 16 16 ++ slice m 36 28

/-- The oldest request on a channel of the KRT: the channel, its payload. -/
def krtRequest (s : State) (chan : Nat) : Option (List Byte) :=
  let b := s.mbox chan
  if b.valid && b.receiver == 0x81 then b.queue.head?.map mbPayload else none

/-- R422: the channel bound in the other direction. -/
def krtReply (s : State) (chan : Nat) : Option Nat :=
  (s.mail.find? (fun x => x.2.valid && x.2.sender == 0x81 && x.2.receiver == (s.mbox chan).sender)).map (·.1)

/-- R422: the request leaves its queue and the answer goes; while the answer's channel has no room the request waits. -/
def krtAnswer (s0 s : State) (chan op status len : Nat) : State :=
  match krtReply s chan with
  | none => mbTake s chan
  | some c =>
    if 16 ≤ (s.mbox c).queue.length then s0
    else (mbSendBy (mbTake s chan) c 0x81 0 1
      (leBytes 1 1 ++ leBytes 1 ((op + 0x80) % 256) ++ leBytes 1 status ++ zeros 9 ++ leBytes 4 len ++ zeros 28)).2

/-- R422: EXTEND, PEER_ADD and PEER_DEL are for the CMC and for the host's function 0. -/
def krtAllowed (s : State) (chan : Nat) : Bool := (s.mbox chan).sender == 0x80 || (s.mbox chan).sender == 0

/-- ADDR of a request. -/
def krtAddr (p : List Byte) : Nat := fld p 4 6

/-- R422: 64 bytes that the request points at, as far as the sender's context reaches them. -/
def krtDigest (s : State) (chan : Nat) (p : List Byte) : Option (List Byte) × State :=
  let (d, s) := agentReadAll s (masterCtx (s.mbox chan).sender) (krtAddr p) 64 (unitEnd 13)
  (if d.ok && d.bad.isEmpty && krtAddr p % 64 == 0 then some d.data else none, s)

/-- R422: bytes written for the sender's context: status and length. -/
def krtWrite (s : State) (chan : Nat) (p bs : List Byte) : (Nat × Nat) × State :=
  if krtAddr p % 64 ≠ 0 then ((1, 0), s)
  else
    let (ok, s) := agentWriteAll s (masterCtx (s.mbox chan).sender) (krtAddr p) bs [] (unitEnd 13)
    (if ok then (0, bs.length) else (1, 0), s)

/-- R423: bytes 0 to 647 of a report. -/
def reportBody (s : State) (nonce : List Byte) : List Byte :=
  let t := s.trust
  leBytes 1 1 ++ leBytes 1 0x60 ++ zeros 2 ++
    leBytes 4 (b2n t.factoryDefaults + 2 * b2n t.rebuilding + 4 * b2n t.cmcFailed + 8 * b2n t.altSlot) ++ leBytes 8 s.now ++
    fit 32 nonce ++ sha3_512 ((List.range 2592).map Config.identityKey) ++ leBytes 4 t.storeGen ++ leBytes 2 t.cmcFloor ++
    leBytes 2 t.periphFloor ++ leBytes 4 t.running.cmcVer ++ leBytes 4 t.running.perVer ++
    leBytes 4 ((s.view 0 0x21044 0).getD 0) ++ leBytes 4 Config.romVer ++
    (List.range 8).flatMap (fun i => fit 64 (t.meas.getD i []))

/-- R423: the report with its signature. -/
def report (s : State) (nonce : List Byte) (n : Nat) : List Byte :=
  let b := reportBody s nonce
  b ++ (List.range 4627).map (Config.mlDsaSign (sha3_512 b) n)

/-- R190: what a request reads or writes lies in a channel that trains; the request waits. -/
def krtStalled (s : State) (p : List Byte) : Bool :=
  let op := fld p 1 1
  s.stalled (krtAddr p) (if op = 1 then 5275 else if op = 3 then min Config.certLen 16384 else 64) (op == 1 || op == 3)

/-- R422: a request of the KRT, if its OP is the one named. -/
def krtRun (s : State) (chan : Nat) (takes : Nat → Bool) (k : State → List Byte → (Nat × Nat) × State) : State :=
  match krtRequest s chan with
  | none => s
  | some p =>
    let op := fld p 1 1
    if takes op && !krtStalled s p then (let (r, s') := k s p; krtAnswer s s' chan op r.1 r.2) else s

/-- R422, R423: ATTEST; an OP of no request is answered BAD_OP. -/
def execKrtAttest (chan : Nat) (s : State) : Host.Outcome State Fault Refusal :=
  .next (krtRun s chan (fun op => decide (op < 2) || decide (5 < op)) (fun s p =>
    if fld p 1 1 ≠ 1 then ((4, 0), s)
    else if s.trust.identityLost then ((2, 0), s)
    else
      let (n, s) := s.draw
      krtWrite s chan p (report s (slice p 12 32) n)))

/-- R421, R422: EXTEND of M4 to M7. -/
def execKrtExtend (chan : Nat) (s : State) : Host.Outcome State Fault Refusal :=
  .next (krtRun s chan (fun op => op == 2) (fun s p =>
    let i := fld p 2 1
    if !krtAllowed s chan || decide (i < 4) || decide (7 < i) then ((3, 0), s)
    else match krtDigest s chan p with
      | (some d, s) => ((0, 0), extendMeas s i d)
      | (none, s) => ((1, 0), s)))

/-- R422: CERT. -/
def execKrtCert (chan : Nat) (s : State) : Host.Outcome State Fault Refusal :=
  .next (krtRun s chan (fun op => op == 3) (fun s p =>
    krtWrite s chan p ((List.range (min Config.certLen 16384)).map Config.certByte)))

/-- R422: PEER_ADD. -/
def execKrtPeerAdd (chan : Nat) (s : State) : Host.Outcome State Fault Refusal :=
  .next (krtRun s chan (fun op => op == 4) (fun s p =>
    if !krtAllowed s chan then ((3, 0), s)
    else match krtDigest s chan p with
      | (none, s) => ((1, 0), s)
      | (some d, s) =>
        if s.trust.peers.contains d then ((0, 0), s)
        else if 8 ≤ s.trust.peers.length then ((5, 0), s)
        else ((0, 0), putSecurity (s.modTrust (fun t => { t with peers := t.peers ++ [d] })))))

/-- R422: PEER_DEL. -/
def execKrtPeerDel (chan : Nat) (s : State) : Host.Outcome State Fault Refusal :=
  .next (krtRun s chan (fun op => op == 5) (fun s p =>
    if !krtAllowed s chan then ((3, 0), s)
    else match krtDigest s chan p with
      | (none, s) => ((1, 0), s)
      | (some d, s) =>
        if s.trust.peers.contains d then
          ((0, 0), putSecurity (s.modTrust (fun t => { t with peers := t.peers.filter (fun x => x != d) })))
        else ((0, 0), s)))

/-! ### The watchdog and the session (R431, R432) -/

/-- R431: WDT_MS, in ns. -/
def State.wdtNs (s : State) : Nat := 1000000 * s.regFld 0x2101C 0 0 10

/-- R431: a kick by the CMC. -/
def wdtKick (s : State) (master : Nat) : State :=
  if master = 0x80 then s.modTrust (fun t => { t with wdtAt := s.now }) else s

/-- R430, R431: the CMC restarts: its image is measured again, its memory and the session are gone. -/
def restartCmc (s : State) : State :=
  let s := extendMeas s 0 s.trust.running.cmcDigest
  let times := (s.now :: s.trust.wdtExpiries).filter (fun t => decide (s.now ≤ 600000000000 + t))
  let failed := decide (3 ≤ times.length)
  let s := s.modTrust (fun t => { t with
    wdtAt := s.now, wdtExpiries := times, cmcFailed := failed, cmcState := if failed then 3 else 2 })
  let n := s.regFld 0x21024 0 8 8
  let s := s.setRegFld 0x21024 0 8 8 (min 255 (n + 1))
  mbPumpAll (mbPumpAll { s with tests := [], mgmt := { s.mgmt with up := false } } 0x82) 0x80

/-- R431: WDT_EXPIRY. -/
def execWdtExpiry (s : State) : Host.Outcome State Fault Refusal :=
  .next (if s.trust.stage = 6 ∧ s.trust.cmcFailed = false ∧ s.trust.wdtAt + s.wdtNs ≤ s.now then restartCmc s else s)

/-- R432: MGMT_HANDSHAKE: a peer of the SECURITY list; the new session replaces the old one. -/
def execMgmtHandshake (peerHash : List Byte) (s : State) : Host.Outcome State Fault Refusal :=
  .next (if s.trust.identityLost || s.trust.stage != 6 || s.trust.cmcState != 0 || !s.trust.peers.contains peerHash then s
    else mbPumpAll { s with mgmt := { s.mgmt with up := true, peer := peerHash, lastAt := s.now } } 0x82)

/-- R432: MGMT_SESSION_IDLE_TIMEOUT. -/
def execMgmtSessionIdleTimeout (s : State) : Host.Outcome State Fault Refusal :=
  .next (if s.mgmt.up && decide (10000000000 + s.mgmt.lastAt ≤ s.now) then
      mbPumpAll { s with mgmt := { s.mgmt with up := false } } 0x82
    else s)

end Sys2Proof.Machine
end

