-- ==== Sys2Proof/Machine/RegWrite.lean ====
section
/-! DEFINITION. Writing a register (R436 to R452): decoding, partial writes, the unlock, clamping, what each word does
when written, and the rows of the command list that are reads and writes of one register. -/

namespace Sys2Proof.Machine

/-! ### The unlock (R446) -/

/-- R446: the master's unlock is disarmed, for 100 µs at most. -/
def State.unlocked (s : State) (m : Nat) : Bool :=
  match (s.master m).unlockedAt with | some t => decide (s.now ≤ 100000 + t) | none => false

/-- The unlock arms. -/
def rearm (s : State) (m : Nat) : State := s.setMaster m { s.master m with unlockedAt := none }

/-- R446: a write of UNLOCK. -/
def unlockWrite (s : State) (m v : Nat) : State :=
  if v = 0xC0DE7A11 then s.setMaster m { s.master m with unlockedAt := some s.now } else rearm s m

/-- R446: a write to a word with a WK field: the unlock is consumed; under an armed one the write is counted. -/
def consumeUnlock (s : State) (m : Nat) (r : WordRow) : State :=
  if r.mask .wk = 0 then s else if s.unlocked m then rearm s m else s.bump 0x101C 0 1

/-! ### Clamping (R447) -/

/-- R447: the legal value that a field takes. -/
def FieldRow.legal (f : FieldRow) (v : Nat) : Nat :=
  match f.clamp with
  | .any => v
  | .range lo hi => clampTo lo hi v
  | .sym hi => unsignedOf f.width (max (-(hi : Int)) (min hi (signed f.width v)))

/-- The fields that a write changes; `wk`: fields of access WK too. -/
def FieldRow.taken (f : FieldRow) (wk : Bool) : Bool := f.acc == .rw || f.acc == .wo || (wk && f.acc == .wk)

/-- The word after a write of `v` over `old`. -/
def WordRow.merge (r : WordRow) (old v : Nat) (wk : Bool) : Nat :=
  r.fields.foldl (fun w f => if f.taken wk then setBits w f.lsb f.width (f.legal (bits v f.lsb f.width)) else w) old

/-- R447: a field that the write changes took another value than the one written. -/
def WordRow.clamps (r : WordRow) (v : Nat) (wk : Bool) : Bool :=
  r.fields.any (fun f => f.taken wk && f.legal (bits v f.lsb f.width) != bits v f.lsb f.width)

/-- Clamping that a field's own table states beyond a fixed range: SCRUB_PERIOD (R194), EN_SEL's ring (R413), CT_RECT
(R451), the rank of a group (R327). -/
def clampWord (off v : Nat) : Nat :=
  if off = 0x17040 then (if decide (1 ≤ v) && decide (v < 10) then 10 else v)
  else if off = 0x20028 then (if decide (17 ≤ bits v 8 5) && decide (bits v 8 5 ≤ 30) then setBits v 8 5 16 else v)
  else if off = 0x10008 then
    (let x := min 159 (bits v 0 8)
     let y := min 159 (bits v 8 8)
     x + 2 ^ 8 * y + 2 ^ 16 * min (159 - x) (bits v 16 8) + 2 ^ 24 * min (159 - y) (bits v 24 8))
  else if off = 0x1C008 then setBits v 10 6 (min (bits v 10 6) (bits v 3 7 - 1))
  else v

/-! ### Writes that a state ignores (R448) -/

/-- R382: a reserved identity. -/
def reservedIdent (i : Nat) : Bool := decide (0x83 ≤ i)

/-- A collective of the group is in progress. -/
def State.groupBusy (s : State) (idx : Nat) : Bool :=
  s.colls.any (fun c => c.ctx * 16 + c.group == idx && c.phase != .ended)

/-- The selected ring of R391 is enabled. -/
def State.ringEn (s : State) (idx : Nat) : Bool :=
  if 16 ≤ idx % 32 then ((s.ctx (idx / 32)).cring (idx % 16)).en else ((s.ctx (idx / 32)).ring (idx % 16)).en

/-- Which words ignore a write in the present state, where the chapters say that it is counted (R175, R276, R301, R327,
R355, R391, R451, R452). -/
def State.ignores (s : State) (m off idx w : Nat) : Bool :=
  if off = 0x10008 || off = 0x1000C || off = 0x10014 || off = 0x10018 || off = 0x1001C then (s.ctx idx).enable
  else if off = 0x11004 then
    m != 0x80 || s.trust.bindLocked || reservedIdent (bits w 0 8) || reservedIdent (bits w 8 8) || bits w 0 8 == bits w 8 8
  else if off = 0x15004 || off = 0x15008 || off = 0x1500C then bitAt (s.reg 0x15000 0) 0
  else if decide (0x1A004 ≤ off) && decide (off ≤ 0x1A014) then !s.kiln.batches.isEmpty
  else if off = 0x1B044 then decide (idx < 8)
  else if off = 0x1C008 then s.groupBusy idx
  else if (decide (0x1E008 ≤ off) && decide (off ≤ 0x1E014)) || off = 0x1E01C then bitAt (s.reg 0x1E004 idx) 0
  else if off = 0x1F008 || off = 0x1F00C || off = 0x1F014 || off = 0x1F018 then s.ringEn idx
  else false

/-! ### The context table (R451) -/

/-- R451: a write of ENABLE and RESET. ENABLE waits for READY and for the end of a rebuild (R420, R428). -/
def ctControl (s : State) (m at_ ctx w : Nat) : State :=
  let c := s.ctx ctx
  let s := if bitAt w 1 then ctxReset s ctx else s
  if bitAt w 0 = c.enable then s
  else if bitAt w 0 then
    (if s.trust.rebuilding || s.trust.stage != 6 || s.ctxs.any (fun d => d.1 != ctx && d.2.enable && c.overlaps d.2) then
      s.clampEvent at_ m 2
    else s.setCtx ctx { s.ctx ctx with enable := true })
  else
    let s := if c.fnEn then ctxReset s ctx else s
    s.setCtx ctx { s.ctx ctx with enable := false }

/-! ### Ring set-up (R391) -/

/-- The part of a word that holds a low or a high half of an address. -/
def putHalf (old lo hi : Nat) (low : Bool) : Nat := if low then old / 2 ^ 32 * 2 ^ 32 + lo else old % 2 ^ 32 + 2 ^ 32 * hi

/-- R391: ring base and tail write-back, taken while the ring's EN is 0. -/
def ringAddr (s : State) (off idx w : Nat) : State :=
  let ctx := idx / 32
  let q := idx % 16
  if 16 ≤ idx % 32 then
    (let r := (s.ctx ctx).cring q
     s.setCRing ctx q (if off = 0x1F008 then { r with base := putHalf r.base (w / 4096 * 4096) 0 true }
       else if off = 0x1F00C then { r with base := putHalf r.base 0 w false }
       else if off = 0x1F014 then { r with wb := putHalf r.wb (w / 4 * 4) 0 true }
       else { r with wb := putHalf r.wb 0 w false }))
  else
    let r := (s.ctx ctx).ring q
    s.setRing ctx q (if off = 0x1F008 then { r with base := putHalf r.base (w / 4096 * 4096) 0 true }
      else if off = 0x1F00C then { r with base := putHalf r.base 0 w false } else r)

/-- R391: EN and the set-up of a submission ring; a ring enabled again is a new queue (R42). -/
def sqControl (s : State) (m at_ ctx q w : Nat) : State :=
  let r := (s.ctx ctx).ring q
  let k := 4 + bits w 1 4
  if r.en then
    (let s := if k = r.log2 && bitAt w 5 = r.timed && bitAt w 6 = r.rtm then s else s.clampEvent at_ m 2
     s.setRing ctx q { r with en := bitAt w 0 })
  else
    let h := ceilDiv r.head (2 ^ k) * 2 ^ k
    let r := { r with log2 := k, timed := bitAt w 5, rtm := bitAt w 6 }
    if bitAt w 0 then (s.setRing ctx q { r with en := true, start := h, head := h, tail := h, doors := [] }).endQueues
      (fun k => k == (0, ctx, q))
    else s.setRing ctx q r

/-- R391: EN and the set-up of a completion ring. -/
def cqControl (s : State) (m at_ ctx q w : Nat) : State :=
  let c := s.ctx ctx
  let r := c.cring q
  let k := 4 + bits w 1 4
  if r.en then
    (let used := c.sq.any (fun x => x.2.out.any (fun d => d.cpl == q)) || c.held.any (fun h => h.ring == q)
     if (k = r.log2 && bits w 7 5 = r.vector) && (bitAt w 0 || !used) then s.setCRing ctx q { r with en := bitAt w 0 }
     else
       let s := s.clampEvent at_ m 2
       s.setCRing ctx q { r with en := bitAt w 0 || used })
  else
    let r := { r with log2 := k, vector := bits w 7 5 }
    mbPumpAll (s.setCRing ctx q (if bitAt w 0 then { r with en := true, head := 0, db := 0 } else r)) ctx

/-! ### What a word does when it is written -/

/-- The key of a held lower half (R442). -/
def heldIdx (m : Nat) : Nat := 4096 + m

/-- R435, R413, R449 and the chapters' tables: the new word `w` takes effect; `at_` is the offset written. -/
def commitWord (s : State) (m at_ off idx w : Nat) : State :=
  if off = 0x1008 then unlockWrite s m w
  else if off = 0x10004 then ctControl s m at_ idx w
  else if off = 0x10008 then
    s.setCtx idx { s.ctx idx with x0 := bits w 0 8, y0 := bits w 8 8, wm1 := bits w 16 8, hm1 := bits w 24 8 }
  else if off = 0x1000C then s.setCtx idx { s.ctx idx with protBase := w }
  else if off = 0x10010 then s.setCtx idx { s.ctx idx with protCache := [] }
  else if off = 0x10014 then s.setCtx idx { s.ctx idx with hostBase := putHalf (s.ctx idx).hostBase (w / 4096 * 4096) 0 true }
  else if off = 0x10018 then s.setCtx idx { s.ctx idx with hostBase := putHalf (s.ctx idx).hostBase 0 w false }
  else if off = 0x1001C then s.setCtx idx { s.ctx idx with hostLimit := w }
  else if off = 0x11004 then s.setMbox idx (bindWord (s.mbox idx) w)
  else if off = 0x1200C then wantedPp (s.setReg off 0 w)
  else if off = 0x14008 then s.setReg off (heldIdx m) w
  else if off = 0x1400C then (s.setReg off idx w).setReg 0x14008 idx (s.reg 0x14008 (heldIdx m))
  else if off = 0x15000 then kvCtrl s w
  else if off = 0x17034 then chCmd s m idx w
  else if off = 0x17050 then supplyWrite s m idx w
  else if off = 0x1A008 then s.setReg off idx (w / 16 * 16)
  else if off = 0x1B00C then
    (if 8 ≤ idx then s
     else linkCtrl (s.setReg off idx (setBits w 3 1 0)) idx (s.linkEnabled idx) (bitAt w 3))
  else if off = 0x1B044 then s.setReg off (heldIdx m) w
  else if off = 0x1B048 then routeCommit s m idx (s.reg 0x1B044 (heldIdx m)) w
  else if off = 0x1C008 then collGroupSet s (idx / 16) (idx % 16) w
  else if off = 0x1E004 then contCtrl s m idx w
  else if off = 0x1E020 then contCmd s m idx w
  else if off = 0x1F010 then
    (if 16 ≤ idx % 32 then cqControl s m at_ (idx / 32) (idx % 16) w else sqControl s m at_ (idx / 32) (idx % 16) w)
  else if decide (0x1F008 ≤ off) && decide (off ≤ 0x1F018) then ringAddr s off idx w
  else if off = 0x1F044 then jntCfg s idx w at_ m
  else if off = 0x20008 then capChange (s.setReg off 0 w)
  else if off = 0x2000C then requestDuty (s.setReg off 0 w) (bits w 16 4)
  else if off = 0x20010 then s.setReg off 0 (w % 2 ^ 9)
  else if off = 0x20014 then applyUnits (s.setReg off 0 w)
  else if off = 0x20024 then (if w = 1 then remeasure s m else s)
  else if off = 0x2100C then storeCmd s m w
  else if off = 0x21020 then wdtKick s m
  else s.setReg off idx w

/-- A write whose clamping is counted for the fields it takes: KV_CTRL takes only EN while EN is 1 (R175), BRICK_SUPPLY
nothing while a channel of the brick serves (R199). -/
def State.countsClamp (s : State) (off idx : Nat) : Bool :=
  if off = 0x15000 then !bitAt (s.reg 0x15000 0) 0
  else if off = 0x17050 then
    (brickChans idx).all (fun c => decide ((s.chan c).state = .fenced) || decide ((s.chan c).state = .spalled))
  else true

/-- R446 to R448: a write of a word, of its bank `idx`, over what it shows. -/
def writeWord (s : State) (m at_ : Nat) (r : WordRow) (v : Nat) : State :=
  let idx := s.bankOf m r.bank
  let wk := s.unlocked m
  let w0 := r.merge (s.wordValue m r) v wk
  let w := clampWord r.off w0
  let s := consumeUnlock s m r
  if s.unitAbsent r.off || (r.mask .rw + r.mask .wo = 0 && (!wk || r.mask .wk = 0)) then s
  else if s.ignores m r.off idx w then s.clampEvent at_ m 2
  else
    let t := commitWord s m at_ r.off idx w
    if (r.clamps v wk || w != w0) && s.countsClamp r.off idx then t.clampEvent at_ m 1 else t

/-! ### Other targets -/

/-- R390: a write to a doorbell page. -/
def writeDoorbell (s : State) (m n o v : Nat) : State :=
  if !reachesPage m n then s
  else inDomain s n (fun s =>
    if o < 0x40 then sqDoor s m n (o / 4) (v % 65536)
    else if o < 0x80 then cqDoor s m n ((o - 0x40) / 4) (v % 65536)
    else if (decide (0x100 ≤ o) && decide (o ≤ 0x128)) || o = 0x134 || o = 0x138 then s.setReg (0x100000 + o) n v
    else if o = 0x130 && (s.ctx n).fnEn then mbHostSend s n v
    else s)

/-- R450: a write to the MSI-X table of a function, in the layout of the PCIe specification. -/
def writeMsix (s : State) (fn o v : Nat) : State :=
  if 0x200 ≤ o then s
  else
    let k := fn * 32 + o / 16
    let e := tget MsixVec.reset s.msix k
    let e' : MsixVec :=
      if o % 16 = 0 then { e with addr := putHalf e.addr v 0 true }
      else if o % 16 = 4 then { e with addr := putHalf e.addr 0 v false }
      else if o % 16 = 8 then { e with data := BitVec.ofNat 32 v }
      else { e with masked := bitAt v 0 }
    if e'.pending && !e'.masked then
      { s with msix := tset { e' with pending := false } s.msix k, msixSent := s.msixSent ++ [(fn, o / 16)] }
    else { s with msix := tset e' s.msix k }

/-- R444: a write of a bit-alias word. -/
def writeAlias (s : State) (m at_ slot bit v : Nat) : State :=
  match wordRow (aliasTarget slot) with
  | none => s
  | some r => writeWord s m at_ r (setBits (s.wordValue m r) bit 1 (v % 2))

/-- R388: a write to a register whose domain is in reset is discarded: a host's is counted, a device agent's completes
with "address error". -/
def domainAbort (s : State) (m : Nat) : State :=
  if decide (0x40 ≤ m) && decide (m < 0x80) then s.addrError (m - 0x40) else s.bump 0x1F02C 0 1

/-- The offset as CLAMP_LAST_ADDR names it: a virtual function's doorbell page is also one of function 0's. -/
def seenAt (m off : Nat) : Nat :=
  if decide (1 ≤ m) && decide (m < 0x40) then canon (0x100000 + (0x1000 * m + off % 0x1000)) else canon off

/-- R359: a tile program or engine of a context other than 0 that names a register outside its reach. -/
def outOfReach (m off : Nat) : Bool := decide (0x40 < m) && decide (m < 0x80) && !regReach (m - 0x40) off

/-- R439, R440: a write of one word at an offset of the master's BAR0. -/
def writeReg (s : State) (m off v : Nat) (full : Bool) : State :=
  if outOfReach m off then s.addrError (m - 0x40)
  else if !full && decodeFor m off != .kvWindow then s.bump 0x1024 0 1
  else if s.domainOff m off then domainAbort s m
  else match decodeFor m off with
    | .hole => s.bump 0x1020 0 1
    | .nothing => s
    | .word r => writeWord s m (seenAt m off) r v
    | .doorbell n o => writeDoorbell s m n o v
    | .alias_ slot bit => writeAlias s m (seenAt m off) slot bit v
    | .msix fn o => writeMsix s fn o v
    | .kvWindow => kvWindow s m (off % 0x400) (leBytes 4 v) full

/-- A read by a master, returned to it. -/
def readFor (s : State) (m off : Nat) : State :=
  if outOfReach m off then s.addrError (m - 0x40) else State.returnRead (readReg s m off) m

/-- R436: a virtual function has no way to the register blocks of function 0. -/
def noWay (m : Nat) : Bool := decide (1 ≤ m) && decide (m < 0x40)

/-- A whole write of the register of function 0's map at `off`. -/
def namedWrite (s : State) (m off v : Nat) : State := if noWay m then s else writeReg s m off v true

/-- A read of the register of function 0's map at `off`. -/
def namedRead (s : State) (m off : Nat) : State := if noWay m then s else readFor s m off

/-! ### Rows that name one register -/

/-- R39: DEVTIME_LO_READ. -/
def execDevtimeLoRead (master : Nat) (s : State) : Host.Outcome State Fault Refusal := .next (namedRead s master 0x12000)

/-- R50: PP_REQ_WRITE. -/
def execPpReqWrite (master : Nat) (value : Word) (s : State) : Host.Outcome State Fault Refusal :=
  .next (namedWrite s master 0x1200C value.toNat)

/-- R118: SR_SEED_LO_WRITE. -/
def execSrSeedLoWrite (master : Nat) (value : Word) (s : State) : Host.Outcome State Fault Refusal :=
  .next (namedWrite s master 0x14008 value.toNat)

/-- R118: SR_SEED_HI_WRITE. -/
def execSrSeedHiWrite (master : Nat) (value : Word) (s : State) : Host.Outcome State Fault Refusal :=
  .next (namedWrite s master 0x1400C value.toNat)

/-- R175: KV_CTRL_WRITE. -/
def execKvCtrlWrite (master : Nat) (value : Word) (s : State) : Host.Outcome State Fault Refusal :=
  .next (namedWrite s master 0x15000 value.toNat)

/-- R191: CH_CMD_RETRAIN. -/
def execChCmdRetrain (master : Nat) (s : State) : Host.Outcome State Fault Refusal := .next (namedWrite s master 0x17034 1)

/-- R457: CH_CMD_FENCE. -/
def execChCmdFence (master : Nat) (s : State) : Host.Outcome State Fault Refusal := .next (namedWrite s master 0x17034 2)

/-- R461: CH_CMD_UNFENCE. -/
def execChCmdUnfence (master : Nat) (s : State) : Host.Outcome State Fault Refusal := .next (namedWrite s master 0x17034 3)

/-- R193: CH_CMD_SPALL. -/
def execChCmdSpall (master : Nat) (s : State) : Host.Outcome State Fault Refusal := .next (namedWrite s master 0x17034 4)

/-- R198: CH_CMD_MARGIN_STB. -/
def execChCmdMarginStb (master : Nat) (s : State) : Host.Outcome State Fault Refusal := .next (namedWrite s master 0x17034 5)

/-- R198: CH_CMD_MARGIN_VREF. -/
def execChCmdMarginVref (master : Nat) (s : State) : Host.Outcome State Fault Refusal := .next (namedWrite s master 0x17034 6)

/-- R199: BRICK_SUPPLY_WRITE. -/
def execBrickSupplyWrite (master : Nat) (value : Word) (s : State) : Host.Outcome State Fault Refusal :=
  .next (namedWrite s master 0x17050 value.toNat)

/-- R194: SCRUB_PERIOD_WRITE. -/
def execScrubPeriodWrite (master : Nat) (value : Word) (s : State) : Host.Outcome State Fault Refusal :=
  .next (namedWrite s master 0x17040 value.toNat)

/-- R200: ERRLOG_POP_READ. -/
def execErrlogPopRead (master : Nat) (s : State) : Host.Outcome State Fault Refusal := .next (namedRead s master 0x1706C)

/-- R301: LINK_ENABLE_WRITE. -/
def execLinkEnableWrite (master : Nat) (value : Word) (s : State) : Host.Outcome State Fault Refusal :=
  .next (namedWrite s master 0x1B00C value.toNat)

/-- R301: LINK_RETRAIN: a write of LINK_CTRL with RETRAIN set. -/
def execLinkRetrain (master : Nat) (value : Word) (s : State) : Host.Outcome State Fault Refusal :=
  .next (namedWrite s master 0x1B00C (setBits value.toNat 3 1 1))

/-- R294: RT_LO_WRITE. -/
def execRtLoWrite (master : Nat) (value : Word) (s : State) : Host.Outcome State Fault Refusal :=
  .next (namedWrite s master 0x1B044 value.toNat)

/-- R294: RT_HI_WRITE. -/
def execRtHiWrite (master : Nat) (value : Word) (s : State) : Host.Outcome State Fault Refusal :=
  .next (namedWrite s master 0x1B048 value.toNat)

/-- R327: COLL_GROUP_WRITE. -/
def execCollGroupWrite (master : Nat) (value : Word) (s : State) : Host.Outcome State Fault Refusal :=
  .next (namedWrite s master 0x1C008 value.toNat)

/-- R328: IDLE_LO_READ. -/
def execIdleLoRead (master : Nat) (s : State) : Host.Outcome State Fault Refusal := .next (namedRead s master 0x1D004)

/-- R341: CONT_CMD_COMMIT. -/
def execContCmdCommit (master : Nat) (s : State) : Host.Outcome State Fault Refusal := .next (namedWrite s master 0x1E020 1)

/-- R341: CONT_CMD_ABORT. -/
def execContCmdAbort (master : Nat) (s : State) : Host.Outcome State Fault Refusal := .next (namedWrite s master 0x1E020 2)

/-- R347: CONT_CMD_HOLD. -/
def execContCmdHold (master : Nat) (s : State) : Host.Outcome State Fault Refusal := .next (namedWrite s master 0x1E020 3)

/-- R347: CONT_CMD_RELEASE. -/
def execContCmdRelease (master : Nat) (s : State) : Host.Outcome State Fault Refusal := .next (namedWrite s master 0x1E020 4)

/-- R355: CONT_EN_WRITE. -/
def execContEnWrite (master : Nat) (value : Word) (s : State) : Host.Outcome State Fault Refusal :=
  .next (namedWrite s master 0x1E004 value.toNat)

/-- R377: JNT_CFG_WRITE. -/
def execJntCfgWrite (master : Nat) (value : Word) (s : State) : Host.Outcome State Fault Refusal :=
  .next (namedWrite s master 0x1F044 value.toNat)

/-- R391: JOINT_VALUE_LO_READ. -/
def execJointValueLoRead (master : Nat) (s : State) : Host.Outcome State Fault Refusal := .next (namedRead s master 0x1F048)

/-- R391: JOINT_TICKET_LO_READ. -/
def execJointTicketLoRead (master : Nat) (s : State) : Host.Outcome State Fault Refusal := .next (namedRead s master 0x1F050)

/-- R360: PROT_SYNC: any write applies the table. -/
def execProtSync (master : Nat) (s : State) : Host.Outcome State Fault Refusal := .next (namedWrite s master 0x10010 0)

/-- R391: RING_EN_WRITE. -/
def execRingEnWrite (master : Nat) (value : Word) (s : State) : Host.Outcome State Fault Refusal :=
  .next (namedWrite s master 0x1F010 value.toNat)

/-- R400: DUTY_ADM_WRITE. -/
def execDutyAdmWrite (master : Nat) (value : Word) (s : State) : Host.Outcome State Fault Refusal :=
  .next (namedWrite s master 0x2000C value.toNat)

/-- R403: PWR_CMD_REMEASURE. -/
def execPwrCmdRemeasure (master : Nat) (s : State) : Host.Outcome State Fault Refusal := .next (namedWrite s master 0x20024 1)

/-- R410: KILN_ON_WRITE. -/
def execKilnOnWrite (master : Nat) (value : Word) (s : State) : Host.Outcome State Fault Refusal :=
  .next (namedWrite s master 0x20014 value.toNat)

/-- R410: FLASH_ON_WRITE: a write of the word that KILN_ON shares. -/
def execFlashOnWrite (master : Nat) (value : Word) (s : State) : Host.Outcome State Fault Refusal :=
  .next (namedWrite s master 0x20014 value.toNat)

/-- R413: EN_LO_READ. -/
def execEnLoRead (master : Nat) (s : State) : Host.Outcome State Fault Refusal := .next (namedRead s master 0x2002C)

/-- R430: STORE_CMD_WARM_RESET, by STORE_CMD, or by a request of the management peer in its session. -/
def execStoreCmdWarmReset (master : Nat) (badPins : List (Nat × List Nat)) (s : State) : Host.Outcome State Fault Refusal :=
  .next (if master = 0x82 then
      (if s.mgmt.up then warmRequest { s with mgmt := { s.mgmt with lastAt := s.now } } master badPins else s)
    else (namedWrite (s.modTrust (fun t => { t with pins := badPins })) master 0x2100C 5).modTrust (fun t => { t with pins := [] }))

/-- R426: STORE_CMD_SAVE_CONFIG. -/
def execStoreCmdSaveConfig (master : Nat) (s : State) : Host.Outcome State Fault Refusal := .next (namedWrite s master 0x2100C 1)

/-- R419: STORE_CMD_COMMIT_SVN. -/
def execStoreCmdCommitSvn (master : Nat) (s : State) : Host.Outcome State Fault Refusal := .next (namedWrite s master 0x2100C 2)

/-- R419: STORE_CMD_PREFER_A. -/
def execStoreCmdPreferA (master : Nat) (s : State) : Host.Outcome State Fault Refusal := .next (namedWrite s master 0x2100C 3)

/-- R419: STORE_CMD_PREFER_B. -/
def execStoreCmdPreferB (master : Nat) (s : State) : Host.Outcome State Fault Refusal := .next (namedWrite s master 0x2100C 4)

/-- R431: WDT_KICK. -/
def execWdtKick (master : Nat) (s : State) : Host.Outcome State Fault Refusal := .next (namedWrite s master 0x21020 0)

/-- R446: UNLOCK_KEY_WRITE. -/
def execUnlockKeyWrite (master : Nat) (value : Word) (s : State) : Host.Outcome State Fault Refusal :=
  .next (namedWrite s master 0x1008 value.toNat)

/-- R446: UNLOCK_EXPIRY. -/
def execUnlockExpiry (master : Nat) (s : State) : Host.Outcome State Fault Refusal :=
  .next (match (s.master master).unlockedAt with
    | some t => if 100000 + t < s.now then rearm s master else s
    | none => s)

/-- R447: REGISTER_WRITE; a write that a device agent has posted leaves its queue. -/
def execRegisterWrite (master off : Nat) (value : Word) (full : Bool) (s : State) : Host.Outcome State Fault Refusal :=
  .next (writeReg { s with regPosted := dropFirst (fun p => p == (master, off, leBytes 4 value.toNat)) s.regPosted } master off
    value.toNat full)

/-- R443: REGISTER_READ_CLEAR. -/
def execRegisterReadClear (master off : Nat) (s : State) : Host.Outcome State Fault Refusal := .next (readFor s master off)

/-- R439: HOLE_ACCESS. -/
def execHoleAccess (master off : Nat) (write : Bool) (s : State) : Host.Outcome State Fault Refusal :=
  .next (if decodeFor master off = .hole then (if write then s.bump 0x1020 0 1 else readFor s master off) else s)

/-- R444: the place of a bit-alias word. -/
def aliasOff (slot bit : Nat) : Nat := 0x2000 + slot / 8 * 0x1000 + slot % 8 * 0x80 + 4 * bit

/-- R444: BIT_ALIAS_READ. -/
def execBitAliasRead (master slot bit : Nat) (s : State) : Host.Outcome State Fault Refusal :=
  .next (namedRead s master (aliasOff slot bit))

/-- R444: BIT_ALIAS_WRITE. -/
def execBitAliasWrite (master slot bit : Nat) (value : Word) (s : State) : Host.Outcome State Fault Refusal :=
  .next (namedWrite s master (aliasOff slot bit) value.toNat)

/-- R451: CT_ENABLE_WRITE. -/
def execCtEnableWrite (master : Nat) (value : Word) (s : State) : Host.Outcome State Fault Refusal :=
  .next (namedWrite s master 0x10004 value.toNat)

/-- R451: CT_RESET_WRITE: a write of that word with RESET set. -/
def execCtResetWrite (master : Nat) (value : Word) (s : State) : Host.Outcome State Fault Refusal :=
  .next (namedWrite s master 0x10004 (setBits value.toNat 1 1 1))

/-- R452: BIND_ENTRY_WRITE. -/
def execBindEntryWrite (master : Nat) (value : Word) (s : State) : Host.Outcome State Fault Refusal :=
  .next (namedWrite s master 0x11004 value.toNat)

end Sys2Proof.Machine
end

