-- ==== Sys2Proof/Machine/RingRead.lean ====
section
/-! DEFINITION. Reading submission entries (R361, R363, R367): failed reads, header checks, and the presentation of the
timed requests of a ring to the admission controller (R44 to R47, R295, R297). -/

namespace Sys2Proof.Machine

/-! ### What may be read -/

/-- R363: the oldest descriptor of the ring that has not started. -/
def SRing.oldestReady (r : SRing) : Nat :=
  match r.out.find? (fun d => d.phase == .ready) with | some d => d.abs | none => r.head

/-- R362, R363: a doorbell covers the next entry, and it lies at most 16 entries ahead of that descriptor. -/
def SRing.readable (r : SRing) : Bool := r.en && decide (r.head < r.tail) && decide (r.head ≤ r.oldestReady + 16)

/-- R375: the order number of the doorbell that covered an entry, the first whose tail lies beyond it. -/
def SRing.doorOf (r : SRing) (abs : Nat) : Nat :=
  match r.doors.reverse.find? (fun d => decide (abs < d.1)) with | some d => d.2 | none => 0

/-- R363: the bytes under which a failed entry read completes: TYPE 0, IRQ, completion ring 0, TAG all ones. -/
def failedEntry : List Byte := leBytes 1 1 ++ leBytes 1 0 ++ leBytes 1 4 ++ leBytes 1 0 ++ leBytes 4 0xFFFFFFFF ++ zeros 56

/-- A descriptor as it is read. -/
def newDesc (r : SRing) (bytes : List Byte) : Desc :=
  { abs := r.head, bytes := bytes, phase := .ready, adm := 0, treq := none, status := 0, detail := 0, missed := false,
    order := r.doorOf r.head }

/-- The entry enters the ring's list and the read index moves on. -/
def takeEntry (s : State) (ctx q : Nat) (bytes : List Byte) : State :=
  let r := (s.ctx ctx).ring q
  s.setRing ctx q { r with head := r.head + 1, out := r.out ++ [newDesc r bytes] }

/-! ### Header checks (R367, R370, R373, R374) -/

/-- R374: the joint operations that a ring takes. -/
def jointOpOk (timed : Bool) (op : Nat) : Bool := decide (1 ≤ op) && decide (op ≤ 7) && !(timed && op == 4)

/-- R367, R368: the status with which an entry completes before anything is done, if it breaks its limits. -/
def headerFault (c : Ctx) (timed : Bool) (d : Desc) : Option Nat :=
  if fld d.bytes 0 1 ≠ 1 then some 0xF1
  else if d.type = 0 ∨ 7 < d.type then some 0xF2
  else if d.timed ≠ timed then some 1
  else if d.type = 1 ∧ !launchOk c d.bytes then some 1
  else if d.type = 2 ∧ (cpLen d.bytes = 0 ∨ 2 ^ 40 < cpLen d.bytes) then some 1
  else if d.type = 6 ∧ !jointOpOk timed (fld d.bytes 16 1) then some 1
  else none

/-! ### Charges of a timed descriptor -/

/-- What a timed descriptor asks of the admission controller: its charges, its path allowance, and whether the links it
crosses take timed requests. -/
structure Ask where
  res : List (Nat × Nat)
  allow : Nat
  links : Bool
  deriving DecidableEq, Repr

/-- R371: DECL_STEPS on every tile that is not skipped. -/
def askLaunch (s : State) (b : List Byte) : Ask :=
  { res := ((lTiles b).filter (fun t => !(s.tile t).skipped)).map (fun t => (resArray t, lSteps b)),
    allow := s.marginNs, links := true }

/-- R373: every resource on the path of a copy. -/
def askCopy (s : State) (b : List Byte) : Ask :=
  let (res, hops) := s.copyCharges (cpSrc b) (cpDst b) (cpLen b)
  { res := res, allow := s.allowance hops true (addrKind (cpSrc b) == .host), links := true }

/-- R43, R240: a flash READ or WRITE, of which a WRITE may read host memory (R46); the other operations move nothing. -/
def askFlash (s : State) (b : List Byte) : Ask :=
  if flOp b = 3 ∨ flOp b = 4 then
    (let (res, hops) := flashCharges s (flOp b) (flAddr b) (4096 * flLen b)
     { res := res, allow := 80000 + s.allowance hops true (flOp b == 4 && addrKind (flAddr b) == .host), links := true })
  else { res := [], allow := s.marginNs, links := true }

/-- R273: a kiln batch. -/
def askKiln (s : State) (ctx : Nat) (b : List Byte) : Ask :=
  let (res, allow, ok) := kilnCharges s ctx b
  { res := res, allow := allow, links := ok }

/-- R305, R311, R322: a collective over the ports of its rings, one hop or their stand-ins (R352), and for a PERMUTE over
the routes to its peers; a LAND crosses none. -/
def askColl (s : State) (ctx : Nat) (b : List Byte) : Ask :=
  let (res, hops) := collCharges s ctx b
  let near := s.allowance hops true ((collAreas s ctx b).any (fun x => !x.2.2 && addrKind x.1 == .host))
  let ports := collPorts s ctx b
  let peers := ((tableOf s ctx b).map (·.peer)).filter (· != 0xFFFF)
  let far := (peers.map (fun e => hopPort (rtRoute (s.routeWord e)) 0) ++ ports).foldl (fun n p => max n (linkNs p)) 0
  { res := res, allow := near + (if ports.isEmpty then 0 else far + 50),
    links := ports.all (fun p => s.timedEntry (s.portEntry p)) && peers.all s.timedEntry }

/-- R374: a joint operation declares no size; a SIGNAL crosses a link. -/
def askJoint (s : State) (b : List Byte) : Ask :=
  let e := s.signalEntry (fldBits b 20 2 0 12)
  if fld b 16 1 = 6 ∧ rtValid (s.routeWord e) then
    { res := [], allow := s.marginNs + linkNs (hopPort (rtRoute (s.routeWord e)) 0) + 50, links := s.timedEntry e }
  else { res := [], allow := s.marginNs, links := true }

/-- What a timed descriptor asks. -/
def ask (s : State) (ctx : Nat) (d : Desc) : Ask :=
  let b := d.bytes
  if d.type = 1 then askLaunch s b
  else if d.type = 2 then askCopy s b
  else if d.type = 3 then askFlash s b
  else if d.type = 4 then askKiln s ctx b
  else if d.type = 5 then askColl s ctx b
  else if d.type = 6 then askJoint s b
  else { res := [], allow := s.marginNs, links := true }

/-- R2: on KV1-S a flash or kiln descriptor completes as unit absent whatever else it asks. -/
def State.absentDesc (s : State) (d : Desc) : Bool := s.variant == .kv1s && (d.type == 3 || d.type == 4)

/-- R44, R47: a timed descriptor is presented: admitted, run as bulk, or completed as refused. -/
def presentDesc (s : State) (ctx q : Nat) (d : Desc) : State :=
  let a := ask s ctx d
  let r : TReq := { id := 0, qkind := 0, ctx := ctx, queue := q, tag := d.tag, cplRing := d.cpl, deadline := d.deadline,
                    allow := a.allow, res := a.res, broken := false }
  let (out, s) := if a.links then present s r d.demote
    else (if d.demote then .demoted else .refused, s.refuse)
  match out with
  | .admitted id => s.modDesc ctx q d.abs (fun d => { d with adm := 1, treq := some id })
  | .demoted => s.modDesc ctx q d.abs (fun d => { d with adm := 2 })
  | .refused => finishDesc s ctx q d.abs 0xF0 0

/-- R367: an entry that was read whole: its header checks, then, in a timed ring, its presentation. -/
def enterDesc (s : State) (ctx q : Nat) (bytes : List Byte) : State :=
  let r := (s.ctx ctx).ring q
  let d := newDesc r bytes
  let s := takeEntry s ctx q bytes
  match headerFault (s.ctx ctx) r.timed d with
  | some st => finishDesc s ctx q d.abs st 0
  | none => if r.timed && !s.absentDesc d then presentDesc s ctx q d else s

/-- R363: an entry that could not be read. -/
def failRead (s : State) (ctx q status : Nat) : State :=
  let r := (s.ctx ctx).ring q
  finishDesc (takeEntry s ctx q failedEntry) ctx q r.head status (r.head % 2 ^ r.log2)

/-- R363: one entry is read; a failed host read delivers poisoned bytes (R248). -/
def readEntry (s : State) (ctx q : Nat) (hostFail : Bool) : State :=
  let r := (s.ctx ctx).ring q
  let a := r.base + 64 * (r.head % 2 ^ r.log2)
  let (o, s) := agentRead s ctx a 64
  if !o.ok then failRead s ctx q 2
  else if hostFail && addrKind a == .host then failRead (s.bump 0x1900C 0 1) ctx q 3
  else if !o.bad.isEmpty then failRead s ctx q 3
  else enterDesc s ctx q o.data

/-- R363: SUBMISSION_ENTRY_READ; an entry in a channel that trains waits for it (R190). -/
def execSubmissionEntryRead (ctx ring : Nat) (hostFail : Bool) (s : State) : Host.Outcome State Fault Refusal :=
  .next (
    let r := (s.ctx ctx).ring ring
    if (s.ctx ctx).live && r.readable && !s.stalled (r.base + 64 * (r.head % 2 ^ r.log2)) 64 then readEntry s ctx ring hostFail
    else s)

end Sys2Proof.Machine
end

