-- ==== Sys2Proof/Machine/Test.lean ====
section
/-! DEFINITION. Test access and repair (R453 to R465, R467), and the replica rates of R403. -/

namespace Sys2Proof.Machine

/-! ### Requests (R453 to R455) -/

def tfOp (b : List Byte) : Nat := fld b 2 1
def tfKind (b : List Byte) : Nat := fldBits b 3 1 0 3
def tfTag (b : List Byte) : Nat := fld b 4 4
def tfId (b : List Byte) : Nat := fld b 8 4
def tfDepth (b : List Byte) : Bool := fldBit b 12 0

/-- R453, R454: a request that the module takes: 32 bytes of this format, inside the session. -/
def testTakes (s : State) (b : List Byte) : Bool :=
  s.mgmt.up && b.length == 32 && fld b 0 1 == 1 && fld b 1 1 == 0x70

/-- Sends the response to a request that ends at once. -/
def testAnswer (s : State) (b : List Byte) (status result : Nat) : State :=
  mgmtSend s (testFrame 0x71 (tfOp b) status (tfTag b) result 0 0 s.now)

/-- R454: the ID lies in the range of its KIND, which SPALL and RESTORE limit to tiles and channels. -/
def testIdOk (op kind id : Nat) : Bool :=
  if kind = 0 ∨ kind = 1 then decide (id < tileCount)
  else if 4 ≤ op then false
  else if kind = 2 then decide (id < 256)
  else if kind = 3 then decide (id < 16)
  else false

/-- R455: an element that has a command in progress, or 64 commands at once. -/
def testBusy (s : State) (kind id : Nat) : Bool :=
  s.tests.any (fun c => c.kind == kind && c.id == id) || decide (64 ≤ (s.tests.filter (fun c => !c.auto)).length)

/-- A command in progress that a request begins. -/
def testBegin (s : State) (b : List Byte) : State :=
  { s with tests := s.tests ++ [{ op := tfOp b, kind := tfKind b, id := tfId b, tag := tfTag b, depth := tfDepth b,
                                  auto := false }] }

/-- R454, R455: a request of operation `op`; the reserved operations are answered with those of `op` 1. -/
def testRequest (s : State) (op : Nat) (b : List Byte) (k : State → State) : State :=
  if !testTakes s b then s
  else
    let s := { s with mgmt := { s.mgmt with lastAt := s.now } }
    let o := tfOp b
    if o = 0 ∨ 5 < o then (if op = 1 then testAnswer s b 6 0 else s)
    else if o ≠ op then s
    else if !testIdOk o (tfKind b) (tfId b) then testAnswer s b 6 0
    else if tfKind b = 3 ∧ s.variant = .kv1s then testAnswer s b 7 0
    else if testBusy s (tfKind b) (tfId b) then testAnswer s b 3 0
    else k s

/-! ### The elements -/

def lanePort (id : Nat) : Nat := id % 8
def laneFibre (id : Nat) : Nat := id / 8 % 4
def laneWave (id : Nat) : Nat := id / 32 % 8

/-- A lane is fenced. -/
def State.laneFenced (s : State) (id : Nat) : Bool :=
  (s.port (lanePort id)).fencedLane.contains (laneFibre id, laneWave id)

/-- The element is fenced. -/
def elementFenced (s : State) (kind id : Nat) : Bool :=
  if kind = 0 then (s.tile id).run == .fenced
  else if kind = 1 then (s.chan id).state == .fenced
  else if kind = 2 then s.laneFenced id
  else !s.kiln.up.getLsbD id

/-- The element is spalled. -/
def elementSpalled (s : State) (kind id : Nat) : Bool :=
  if kind = 0 then (s.tile id).run == .spalled else kind == 1 && (s.chan id).state == .spalled

/-- The context whose ring 0 takes the records about an element (R465). -/
def elementOwner (s : State) (kind id : Nat) : Nat := if kind = 0 ∨ kind = 1 then s.ownerOr0 id else 0

/-! ### Fencing (R456 to R459) -/

/-- A launch holds the tile. -/
def State.tileHeld (s : State) (t : Nat) : Bool := s.launches.any (fun l => l.running && l.left.contains t)

/-- R456, R462: the fence of a tile takes effect; the CMC's own fence has its record and is followed by the self-test. -/
def tileFenced (s : State) (t : Nat) : State :=
  let auto := s.tests.any (fun c => c.op == 1 && c.kind == 0 && c.id == t && c.auto)
  let s := pointPut (s.modTile t (fun x => { x with run := .fenced, stall := .none, fencePending := false })) 0 t 1
  let s := testDone s 1 0 t 0 0 0 0
  if auto then
    repairEvent { s with tests := s.tests ++ [{ op := 3, kind := 0, id := t, tag := 0, depth := false, auto := true }] }
      (s.ownerOr0 t) 1 t 1 0 0
  else s

/-- R456: a fence is requested: at once if no launch holds the tile. -/
def tileFence (s : State) (t : Nat) : State :=
  let s := s.modTile t (fun x => { x with fencePending := true })
  if s.tileHeld t then s else tileFenced s t

/-- R290, R458: the data of a receiving lane moves to or from λ8 by a swap. -/
def laneSwap (s : State) (p f spare : Nat) : State :=
  let x := s.port p
  let y := x.setSpare 1 f spare
  recheckPort ((s.setPort p { y with swapping := y.swapping.filter (fun w => w != (1, f)) ++ [(1, f)] }).bump 0x1B028 p 1) p 1 2500

/-- R458: a lane FENCE. -/
def laneFence (s : State) (b : List Byte) : State :=
  let id := tfId b
  let (p, f, l) := (lanePort id, laneFibre id, laneWave id)
  let x := s.port p
  if x.phase ≠ .up ∨ x.version ≠ 2 ∨ x.spare 0 f ≠ 15 ∨ x.spare 1 f ≠ 15 ∨ !x.fibreOn 1 f then testAnswer s b 5 0
  else
    let s := laneSwap s p f l
    let s := s.setPort p (let y := s.port p; { y with fencedLane := y.fencedLane ++ [(f, l)] })
    testAnswer (repairEvent (pointPut s 2 id 2) 0 5 id 1 0 0) b 0 0

/-- R459: a kiln engine FENCE: at once if it holds no sample. -/
def engineFence (s : State) (e : Nat) : State :=
  let s := s.modKiln (fun k => { k with fencing := k.fencing ||| BitVec.ofNat 16 (2 ^ e) })
  if (s.engine e).st = .free then engineOut s e else s

/-- R456 to R459: FENCE by kind. An element that is fenced already stays so; a spalled one cannot be fenced. -/
def fenceElement (s : State) (b : List Byte) : State :=
  let kind := tfKind b
  let id := tfId b
  if elementFenced s kind id then testAnswer s b 0 0
  else if elementSpalled s kind id then testAnswer s b 2 0
  else if kind = 0 then tileFence (testBegin s b) id
  else if kind = 1 then fenceChan (testBegin s b) id
  else if kind = 2 then laneFence s b
  else engineFence (testBegin s b) id

/-- R456: TEST_FENCE. -/
def execTestFence (frame : List Byte) (s : State) : Host.Outcome State Fault Refusal :=
  .next (testRequest s 1 frame (fun s => fenceElement s frame))

/-- R456: TILE_FENCE_EFFECT. -/
def execTileFenceEffect (tile : Nat) (s : State) : Host.Outcome State Fault Refusal :=
  .next (if (s.tile tile).fencePending && !s.tileHeld tile then tileFenced s tile else s)

/-! ### Unfencing (R461) -/

/-- R458, R461: a lane's data moves back; a port that is down has nothing to move. -/
def laneUnfence (s : State) (id : Nat) : State :=
  let (p, f, l) := (lanePort id, laneFibre id, laneWave id)
  let s := if (s.port p).phase = .up && (s.port p).spare 1 f == l then laneSwap s p f 15 else s
  let s := s.setPort p (let y := s.port p; { y with fencedLane := y.fencedLane.filter (fun w => w != (f, l)) })
  pointPut s 2 id 0

/-- R199, R461: UNFENCE by kind; a channel whose re-train after a supply offset still runs is not unfenced. -/
def unfenceElement (s : State) (b : List Byte) : State :=
  let kind := tfKind b
  let id := tfId b
  if !elementFenced s kind id then testAnswer s b 2 0
  else if kind = 0 then
    testAnswer (pointPut (s.modTile id (fun x => { x with run := .idle, cache := [], zeroNext := true })) 0 id 0) b 0 0
  else if kind = 1 then
    (if (s.chan id).selftestPassed && !(s.chan id).needArray && (s.chan id).retrain == .none then
      testAnswer (pointChan (s.modChan id Chan.unfenced) id) b 0 0
     else testAnswer s b 1 1)
  else if kind = 2 then testAnswer (laneUnfence s id) b 0 0
  else testAnswer (pointPut (s.modKiln (fun k => { k with up := k.up ||| BitVec.ofNat 16 (2 ^ id) })) 3 id 0) b 0 0

/-- R461: TEST_UNFENCE. -/
def execTestUnfence (frame : List Byte) (s : State) : Host.Outcome State Fault Refusal :=
  .next (testRequest s 2 frame (fun s => unfenceElement s frame))

/-! ### Self-tests (R460, R462) -/

/-- R460: SELFTEST of a fenced element begins. -/
def selftestElement (s : State) (b : List Byte) : State :=
  if elementFenced s (tfKind b) (tfId b) then testBegin s b else testAnswer s b 2 0

/-- R460: TEST_SELFTEST. -/
def execTestSelftest (frame : List Byte) (s : State) : Host.Outcome State Fault Refusal :=
  .next (testRequest s 3 frame (fun s => selftestElement s frame))

/-- R460: the failure bits: those that the module computes from RATE and BER_EXP, and those that the tests find. -/
def selftestBits (s : State) (kind id result rate ber : Nat) (sweep : PinSweep) (readback depth : Bool) : Nat :=
  if kind = 0 then result % 128 + 128 * b2n (decide (97 * rate < 100 * floorRate s.time.curVp))
  else if kind = 1 then
    b2n (!(trained (s.chan id) s.minEyeNow sweep).2.isEmpty || !readback) + 2 * (result / 2 % (if depth then 8 else 2))
  else if kind = 2 then result % 2 + 2 * b2n (decide (ber < 8))
  else result % 32

/-- R464: the entry of a restored tile at CUR_VP after a self-test that passes: at most 10 % above the floor. -/
def restoredEntry (s : State) (t rate : Nat) : State :=
  let vp := s.time.curVp
  let v := min (97 * rate / 100) (110 * floorRate vp / 100)
  let s := (s.modTile t (fun x => { x with restored := false })).modPower (fun p => { p with
    tsm := tset (v, false) p.tsm (t * 16 + vp) })
  storePut s secSpeed [(t * 16 + vp, speedWord v false)]

/-- R188, R189, R192, R460: what the training of a channel's self-test leaves: its windows, trims and lane map, its
unplaced lanes SUSPECT with their entry in the error log, and the count of its lanes at its start; the margins that the
sweeps found are free values. The channel stays fenced whatever the outcome. -/
def testTrained (s : State) (ch : Nat) (sweep : PinSweep) : State :=
  let (c, lost) := trained (s.chan ch) s.minEyeNow sweep
  let (h, s) := s.draw
  let m := Config.freeNat h
  let s := s.setChan ch { c with
    suspect := laneBitsOf lost, passCnt := [],
    marginLow := m % 64, marginHigh := m / 64 % 64, marginLane := m / 4096 % 36, marginValid := true,
    marginNone := bitAt m 24 }
  pointChan (if lost.isEmpty then s else logErr s ch 3 0) ch

/-- R460: a channel's self-test: with the array test every line reads zero afterwards. A test passed at a supply offset
does not let the channel be unfenced (R461). -/
def channelTested (s : State) (ch : Nat) (sweep : PinSweep) (depth pass : Bool) : State :=
  let s := testTrained s ch sweep
  let s := if depth then
      { s with mem := s.mem.fill (0x2000000 * ch) 0x2000000 .zero,
               poison := s.poison.filter (fun c => !(decide (0x100000 * ch ≤ c) && decide (c < 0x100000 + 0x100000 * ch))) }
    else s
  if pass && s.regFld 0x17050 (brickOf ch) 0 6 == 0 then
    s.modChan ch (fun c => { c with selftestPassed := true, needArray := c.needArray && !depth })
  else s

/-- R460: what a self-test leaves in its element. -/
def selftestEffect (s : State) (kind id rate : Nat) (sweep : PinSweep) (depth pass : Bool) : State :=
  if kind = 0 then
    (let s := s.undefine (scratchAddr id 0) 98304
     if pass && (s.tile id).restored then restoredEntry s id rate else s)
  else if kind = 1 then channelTested s id sweep depth pass
  else s

/-- R460, R465: the self-test in progress on an element ends. -/
def selftestEnd (s : State) (kind id result rate ber : Nat) (sweep : PinSweep) (readback : Bool) : State :=
  match s.tests.find? (fun c => c.op == 3 && c.kind == kind && c.id == id) with
  | none => s
  | some c =>
    let bits := selftestBits s kind id result rate ber sweep readback c.depth
    let live := elementFenced s kind id
    let s := if live then selftestEffect s kind id rate sweep c.depth (bits == 0) else s
    let s := if bits = 0 then s else repairEvent s (elementOwner s kind id) 2 id 3 1 bits
    testDone s 3 kind id (b2n (bits != 0)) bits (if kind = 0 then rate % 65536 else 0) (if kind = 2 then ber % 256 else 0)

/-- R460: SELFTEST_DONE. -/
def execSelftestDone (kind id result rate berExp : Nat) (sweep : PinSweep) (readback : Bool) (s : State) :
    Host.Outcome State Fault Refusal := .next (selftestEnd s kind id result rate berExp sweep readback)

/-- R403: a replica reads a lower rate: the map entry falls, and R462 follows at the floor. -/
def replicaSample (s : State) (t rate : Nat) : State :=
  let vp := s.time.curVp
  if tileCount ≤ t ∨ 100 * s.speedEntry t vp ≤ 97 * rate ∨ (s.tile t).run = .spalled then s
  else
    let v := 97 * rate / 100
    let s := (s.modPower (fun p => { p with tsm := tset (v, true) p.tsm (t * 16 + vp) })).bump 0x20040 0 1
    let s := storePut s secSpeed [(t * 16 + vp, speedWord v true)]
    if floorRate vp ≤ v ∨ (s.tile t).run = .fenced ∨ s.tests.any (fun c => c.kind == 0 && c.id == t) then s
    else tileFence { s with tests := s.tests ++ [{ op := 1, kind := 0, id := t, tag := 0, depth := false, auto := true }] } t

/-- R403, R462: TILE_REPLICA_SAMPLE. -/
def execTileReplicaSample (tile rate : Nat) (s : State) : Host.Outcome State Fault Refusal := .next (replicaSample s tile rate)

/-! ### Spalling (R203, R463) -/

/-- The tiles of a row that can be reached from `x` within its open tiles: bits spread left and right. -/
def spreadRow : Nat → BitVec 160 → BitVec 160 → BitVec 160
  | 0, _, x => x
  | n + 1, open_, x =>
    let y := (x ||| x <<< 1 ||| x >>> 1) &&& open_
    if y = x then x else spreadRow n open_ y

/-- One sweep over rows of (open, reached), each taking over what the row before it has reached. -/
def sweepRows : BitVec 160 → List (BitVec 160 × BitVec 160) → List (BitVec 160 × BitVec 160)
  | _, [] => []
  | up, (o, x) :: r =>
    let y := spreadRow 160 o (x ||| (up &&& o))
    (o, y) :: sweepRows y r

/-- Sweeps up and down until nothing changes. -/
def floodRows : Nat → List (BitVec 160 × BitVec 160) → List (BitVec 160 × BitVec 160)
  | 0, l => l
  | n + 1, l =>
    let m := (sweepRows 0 (sweepRows 0 l).reverse).reverse
    if m == l then l else floodRows n m

/-- The first open tile of the rows is reached. -/
def seedRows : List (BitVec 160) → List (BitVec 160 × BitVec 160)
  | [] => []
  | o :: r => if o = 0 then (o, 0) :: seedRows r else (o, o &&& -o) :: r.map (fun x => (x, 0))

/-- R203: the open tiles, as rows of columns, fall into parts that cannot reach one another. -/
def rowsSplit (rows : List (BitVec 160)) : Bool := (floodRows 25600 (seedRows rows)).any (fun x => x.1 != x.2)

/-- R203: retiring tile `t` would split the non-spalled tiles. -/
def wouldSplit (s : State) (t : Nat) : Bool :=
  rowsSplit ((List.range 160).map (fun y => (List.range 160).foldl (fun (v : BitVec 160) x =>
    if tileAt x y = t || (s.tile (tileAt x y)).run == .spalled then v else v ||| BitVec.twoPow 160 x) 0))

/-- R203, R463: SPALL by kind: the split test and the detour tables first; where a spalling would split the tiles, the
module is marked failed instead. -/
def spallElement (s : State) (b : List Byte) : State :=
  let kind := tfKind b
  let id := tfId b
  if !elementFenced s kind id then testAnswer s b 2 0
  else if kind = 1 then testAnswer (spallChan s id) b 0 0
  else if wouldSplit s id then testAnswer { s with trust := { s.trust with moduleFailed := true } } b 4 0
  else testBegin { s with detourAvoid := s.detourAvoid.filter (· != id) ++ [id], detourGen := s.detourGen + 1 } b

/-- R463: TEST_SPALL. -/
def execTestSpall (frame : List Byte) (s : State) : Host.Outcome State Fault Refusal :=
  .next (testRequest s 4 frame (fun s => spallElement s frame))

/-- R463: the tile stops, and its channel with it. -/
def spallTile (s : State) (t : Nat) : State :=
  let s := if (s.chan t).state = .spalled then s else dropChan s t
  let s := pointPut (s.modTile t (fun x => { x with run := .spalled, cache := [], restored := false })) 0 t 2
  testDone (repairEvent s (s.ownerOr0 t) 3 t 4 0 0) 4 0 t 0 0 0 0

/-- R463: SPALL_TILE_STOP. -/
def execSpallTileStop (tile : Nat) (s : State) : Host.Outcome State Fault Refusal :=
  .next (if s.tests.any (fun c => c.op == 4 && c.kind == 0 && c.id == tile) then spallTile s tile else s)

/-! ### Restoring (R464) -/

/-- R464: a spalled channel is trained and fenced; its bricks were not refreshed, so what they hold is undefined. -/
def restoreChan (s : State) (ch : Nat) : State :=
  let (g, s) := s.draw
  let n := Config.freeNat g
  let s := s.modChan ch (fun c => { c with
    state := .fenced, needArray := true, selftestPassed := false, retrain := .none, suspect := 0, passCnt := [],
    stb := n % 64, vref := n / 64 % 64, eyeStb := max s.minEyeNow (n / 4096 % 64),
    eyeVref := max s.minEyeNow (n / 262144 % 64),
    dsk := (List.range 38).map (fun i => n / 2 ^ (24 + 4 * i) % 16) })
  pointChan (s.undefine (0x2000000 * ch) 0x2000000) ch

/-- R464: a spalled tile is fenced, with the floors as its map entries. -/
def restoreTile (s : State) (t : Nat) : State :=
  let s := s.modTile t (fun x => { x with run := .fenced, fencePending := false, restored := true })
  let s := s.modPower (fun p => { p with
    tsm := (List.range 13).foldl (fun m vp => tset (floorRate vp, false) m (t * 16 + vp)) p.tsm })
  let s := storePut s secSpeed ((List.range 13).map (fun vp => (t * 16 + vp, speedWord (floorRate vp) false)))
  restoreChan (pointPut s 0 t 1) t

/-- R464: RESTORE by kind. The channel of a spalled tile comes back with its tile (R26). -/
def restoreElement (s : State) (b : List Byte) : State :=
  let kind := tfKind b
  let id := tfId b
  if !elementSpalled s kind id || (kind == 1 && (s.tile id).run == .spalled) then testAnswer s b 2 0
  else testAnswer (if kind = 0 then restoreTile s id else restoreChan s id) b 0 0

/-- R464: TEST_RESTORE. -/
def execTestRestore (frame : List Byte) (s : State) : Host.Outcome State Fault Refusal :=
  .next (testRequest s 5 frame (fun s => restoreElement s frame))

/-! ### Hot plug (R467) -/

/-- R467: PRESENT_RELEASE: loss of input, shedding stage 5 under R407. -/
def execPresentRelease (s : State) : Host.Outcome State Fault Refusal := .next (shedTo s 5 2)

end Sys2Proof.Machine
end

