-- ==== Sys2Proof/Machine/Words.lean ====
section
/-! DEFINITION. The command words as commands: what each does when the tile's sequencer meets it (R65, R78, R124, R132,
R209, R330, R380, R387), and the events of the sequencer and the units (R60 to R67). -/

namespace Sys2Proof.Machine

/-! ### Unit 0 (R65) -/

/-- R65: NOP. -/
def execNop (tile : Nat) (s : State) : Host.Outcome State Fault Refusal := .next (seqWord s tile 0x00 (fun x _ => x.advance))

/-- R65: SETI. -/
def execSeti (tile : Nat) (s : State) : Host.Outcome State Fault Refusal :=
  .next (seqWord s tile 0x01 (fun x w => (x.setS (cwf w 92 4) (cwf w 0 64)).advance))

/-- R65: ADDI. -/
def execAddi (tile : Nat) (s : State) : Host.Outcome State Fault Refusal :=
  .next (seqWord s tile 0x02 (fun x w => (x.setS (cwf w 92 4) (x.sreg (cwf w 88 4) + cwf w 0 64)).advance))

/-- R65: ADD. -/
def execAdd (tile : Nat) (s : State) : Host.Outcome State Fault Refusal :=
  .next (seqWord s tile 0x03 (fun x w => (x.setS (cwf w 92 4) (x.sreg (cwf w 88 4) + x.sreg (cwf w 84 4))).advance))

/-- R65: a LOOP whose count is not 0 begins; one whose count is 0 skips its body. -/
def Tile.loop (x : Tile) (w : CWord) : Tile :=
  let n := x.sreg (cwf w 92 4)
  let last := cwf w 0 20
  let next := (x.pc + 1) % 2 ^ 20
  if n = 0 then
    (let (pc, l) := afterWord x.loops last
     { x with pc := pc, loops := l })
  else { x with pc := next, loops := { first := next, last := last, left := n } :: x.loops }

/-- R65: LOOP; a fifth level stops the program, unless its count is 0 and its body is skipped (DESIGN CHOICE, log 100). -/
def execLoop (tile : Nat) (s : State) : Host.Outcome State Fault Refusal :=
  .next (let pc := (s.tile tile).pc
    issue s tile 0 0x04 (seqStart tile (fun s w =>
      let x := s.tile tile
      if 4 ≤ x.loops.length ∧ x.sreg (cwf w 92 4) ≠ 0 then tileFault s tile 0xD pc
      else seqSignal (s.modTile tile (fun x => x.loop w)) tile pc w)))

/-- R65: the program goes on at TGT, or after the word. A branch that is taken leaves its loops as they are: out of a body,
or at its END word, it counts no turn and the level stays (DESIGN CHOICE, log 100). -/
def Tile.branch (x : Tile) (w : CWord) (taken : Bool) : Tile := if taken then { x with pc := cwf w 0 20 } else x.advance

/-- R65: BR. -/
def execBr (tile : Nat) (s : State) : Host.Outcome State Fault Refusal :=
  .next (seqWord s tile 0x05 (fun x w => x.branch w true))

/-- R65: BRZ. -/
def execBrz (tile : Nat) (s : State) : Host.Outcome State Fault Refusal :=
  .next (seqWord s tile 0x06 (fun x w => x.branch w (x.sreg (cwf w 92 4) == 0)))

/-- R65: BRNZ. -/
def execBrnz (tile : Nat) (s : State) : Host.Outcome State Fault Refusal :=
  .next (seqWord s tile 0x07 (fun x w => x.branch w (x.sreg (cwf w 92 4) != 0)))

/-- R65: HALT. -/
def execHalt (tile : Nat) (s : State) : Host.Outcome State Fault Refusal := .next (seqHold s tile 0x08 (fun _ => .halt))

/-- R65: HALT_COMPLETE. -/
def execHaltComplete (tile : Nat) (s : State) : Host.Outcome State Fault Refusal :=
  .next (let x := s.tile tile
    if x.run = .running && x.stall == .halt && x.drained then tileHalt s tile else s)

/-- R65: FENCE. -/
def execFence (tile : Nat) (s : State) : Host.Outcome State Fault Refusal := .next (seqHold s tile 0x09 (fun _ => .fence))

/-- R65: FENCE_RELEASE. -/
def execFenceRelease (tile : Nat) (s : State) : Host.Outcome State Fault Refusal :=
  .next (let x := s.tile tile
    if x.run = .running && x.stall == .fence && x.drained then seqRelease s tile else s)

/-- R65: RDTIME. -/
def execRdtime (tile : Nat) (s : State) : Host.Outcome State Fault Refusal :=
  .next (seqWord s tile 0x0A (fun x w => (x.setS (cwf w 92 4) s.now).advance))

/-- R82: SPLIT. -/
def execSplit (tile : Nat) (s : State) : Host.Outcome State Fault Refusal :=
  .next (seqHold s tile 0x0C (fun w => .split (cwf w 94 2)))

/-- R82: SPLIT_COMPLETE. -/
def execSplitComplete (tile : Nat) (s : State) : Host.Outcome State Fault Refusal :=
  .next (let x := s.tile tile
    match x.stall with
    | .split c => if x.run = .running && x.drained then seqRelease (convertSplit s tile c) tile else s
    | _ => s)

/-! ### Events of the sequencer and the units -/

/-- R60: COMMAND_FETCH_FILL. -/
def execCommandFetchFill (tile : Nat) (fail : Bool) (s : State) : Host.Outcome State Fault Refusal :=
  .next (fetchFill s tile fail)

/-- R61: ISSUE_STALL_RELEASE. -/
def execIssueStallRelease (tile : Nat) (s : State) : Host.Outcome State Fault Refusal := .next (stallRelease s tile)

/-- R63, R121: TOKEN_WAIT_START. -/
def execTokenWaitStart (tile unit : Nat) (s : State) : Host.Outcome State Fault Refusal := .next (startUnit s tile unit)

/-- R63: UNIT_WORD_COMPLETE. -/
def execUnitWordComplete (tile unit : Nat) (s : State) : Host.Outcome State Fault Refusal :=
  .next (completeWord s tile unit)

/-- R66: WAIT_SATISFIED. -/
def execWaitSatisfied (tile : Nat) (s : State) : Host.Outcome State Fault Refusal := .next (waitOver s tile)

/-- R55: DEADLINE_MISS. -/
def execDeadlineMiss (tile : Nat) (s : State) : Host.Outcome State Fault Refusal := .next (waitMiss s tile)

/-! ### Unit 1 (R74, R78, R79) -/

/-- R78: MMA. -/
def execMma (tile : Nat) (s : State) : Host.Outcome State Fault Refusal := .next (issueUnit s tile 1 0x10)

/-- R74: MDRAIN. -/
def execMdrain (tile : Nat) (s : State) : Host.Outcome State Fault Refusal := .next (issueUnit s tile 1 0x11)

/-- R79: MLOAD. -/
def execMload (tile : Nat) (s : State) : Host.Outcome State Fault Refusal := .next (issueUnit s tile 1 0x12)

/-- R79: MZERO. -/
def execMzero (tile : Nat) (s : State) : Host.Outcome State Fault Refusal := .next (issueUnit s tile 1 0x13)

/-! ### Unit 2 (R124 to R131) -/

/-- R124: VLD. -/
def execVld (tile : Nat) (s : State) : Host.Outcome State Fault Refusal := .next (issueUnit s tile 2 0x20)

/-- R124: VST. -/
def execVst (tile : Nat) (s : State) : Host.Outcome State Fault Refusal := .next (issueUnit s tile 2 0x21)

/-- R124: VFMA. -/
def execVfma (tile : Nat) (s : State) : Host.Outcome State Fault Refusal := .next (issueUnit s tile 2 0x22)

/-- R124: VADD. -/
def execVadd (tile : Nat) (s : State) : Host.Outcome State Fault Refusal := .next (issueUnit s tile 2 0x23)

/-- R124: VSUB. -/
def execVsub (tile : Nat) (s : State) : Host.Outcome State Fault Refusal := .next (issueUnit s tile 2 0x24)

/-- R124: VMUL. -/
def execVmul (tile : Nat) (s : State) : Host.Outcome State Fault Refusal := .next (issueUnit s tile 2 0x25)

/-- R125: VMAX. -/
def execVmax (tile : Nat) (s : State) : Host.Outcome State Fault Refusal := .next (issueUnit s tile 2 0x26)

/-- R125: VMIN. -/
def execVmin (tile : Nat) (s : State) : Host.Outcome State Fault Refusal := .next (issueUnit s tile 2 0x27)

/-- R125: VDIV. -/
def execVdiv (tile : Nat) (s : State) : Host.Outcome State Fault Refusal := .next (issueUnit s tile 2 0x28)

/-- R124: VCMP. -/
def execVcmp (tile : Nat) (s : State) : Host.Outcome State Fault Refusal := .next (issueUnit s tile 2 0x29)

/-- R124: VSEL. -/
def execVsel (tile : Nat) (s : State) : Host.Outcome State Fault Refusal := .next (issueUnit s tile 2 0x2A)

/-- R126: VSCAN. -/
def execVscan (tile : Nat) (s : State) : Host.Outcome State Fault Refusal := .next (issueUnit s tile 2 0x2B)

/-- R127: VRED. -/
def execVred (tile : Nat) (s : State) : Host.Outcome State Fault Refusal := .next (issueUnit s tile 2 0x2C)

/-- R128: VBRC. -/
def execVbrc (tile : Nat) (s : State) : Host.Outcome State Fault Refusal := .next (issueUnit s tile 2 0x2D)

/-- R130: VSTAT. -/
def execVstat (tile : Nat) (s : State) : Host.Outcome State Fault Refusal := .next (issueUnit s tile 2 0x2E)

/-- R131: VSTATF. -/
def execVstatf (tile : Nat) (s : State) : Host.Outcome State Fault Refusal := .next (issueUnit s tile 2 0x2F)

/-- R124: VMOVS. -/
def execVmovs (tile : Nat) (s : State) : Host.Outcome State Fault Refusal := .next (issueUnit s tile 2 0x30)

/-! ### Unit 3 (R133 to R141) -/

/-- R133: SFEVAL. -/
def execSfeval (tile : Nat) (s : State) : Host.Outcome State Fault Refusal := .next (issueUnit s tile 3 0x40)

/-- R135: SFSINCOS. -/
def execSfsincos (tile : Nat) (s : State) : Host.Outcome State Fault Refusal := .next (issueUnit s tile 3 0x41)

/-- R136: SFBAS. -/
def execSfbas (tile : Nat) (s : State) : Host.Outcome State Fault Refusal := .next (issueUnit s tile 3 0x42)

/-- R137: SFNSS. -/
def execSfnss (tile : Nat) (s : State) : Host.Outcome State Fault Refusal := .next (issueUnit s tile 3 0x43)

/-- R140: SFLOAD. -/
def execSfload (tile : Nat) (s : State) : Host.Outcome State Fault Refusal := .next (issueUnit s tile 3 0x44)

/-- R140: SFSWAP. -/
def execSfswap (tile : Nat) (s : State) : Host.Outcome State Fault Refusal := .next (issueUnit s tile 3 0x45)

/-- R141: SFPROG. -/
def execSfprog (tile : Nat) (s : State) : Host.Outcome State Fault Refusal := .next (issueUnit s tile 3 0x46)

/-! ### Unit 4 (R208, R209, R223) -/

/-- R208: HODSTREAM. -/
def execHodstream (tile : Nat) (s : State) : Host.Outcome State Fault Refusal := .next (issueUnit s tile 4 0x50)

/-- R209: HODRUN. -/
def execHodrun (tile : Nat) (s : State) : Host.Outcome State Fault Refusal := .next (issueUnit s tile 4 0x51)

/-- R209: HODRECV. -/
def execHodrecv (tile : Nat) (s : State) : Host.Outcome State Fault Refusal := .next (issueUnit s tile 4 0x52)

/-! ### Unit 6 (R66, R380, R381, R387) -/

/-- R66: WAIT. -/
def execWait (tile : Nat) (s : State) : Host.Outcome State Fault Refusal := .next (issueUnit s tile 6 0x60)

/-- R380: JADD. -/
def execJadd (tile : Nat) (s : State) : Host.Outcome State Fault Refusal := .next (issueUnit s tile 6 0x61)

/-- R380: JTRY. -/
def execJtry (tile : Nat) (s : State) : Host.Outcome State Fault Refusal := .next (issueUnit s tile 6 0x62)

/-- R380: JTICKET. -/
def execJticket (tile : Nat) (s : State) : Host.Outcome State Fault Refusal := .next (issueUnit s tile 6 0x63)

/-- R380: JORDER. -/
def execJorder (tile : Nat) (s : State) : Host.Outcome State Fault Refusal := .next (issueUnit s tile 6 0x64)

/-- R380: JARRIVE. -/
def execJarrive (tile : Nat) (s : State) : Host.Outcome State Fault Refusal := .next (issueUnit s tile 6 0x65)

/-- R381: JSIGNAL. -/
def execJsignal (tile : Nat) (s : State) : Host.Outcome State Fault Refusal := .next (issueUnit s tile 6 0x66)

/-- R380: JREAD. -/
def execJread (tile : Nat) (s : State) : Host.Outcome State Fault Refusal := .next (issueUnit s tile 6 0x67)

/-- R387: MBRECV. -/
def execMbrecv (tile : Nat) (s : State) : Host.Outcome State Fault Refusal := .next (issueUnit s tile 6 0x69)

/-! ### Words that wait in their unit: the same command tries a waiting one again -/

/-- The sequencer is about to issue a word that is neither known nor another than `op` of unit `u`. -/
def Tile.issues (x : Tile) (u op : Nat) : Bool :=
  x.stall == .none && (match tfind? x.cmdCache x.pc with
    | none => true
    | some w => !opKnown (cwUnit w) (cwOp w) || (cwUnit w == u && cwOp w == op))

/-- Issues the word, or, with none to issue, tries again the one that waits. -/
def issueOrRetry (s : State) (t u op : Nat) : State :=
  if (s.tile t).issues u op then issueUnit s t u op else retryUnit s t u op

/-- R223: HODCMO. -/
def execHodcmo (tile : Nat) (s : State) : Host.Outcome State Fault Refusal := .next (issueOrRetry s tile 4 0x53)

/-- R332: TUPDATE. -/
def execTupdate (tile : Nat) (s : State) : Host.Outcome State Fault Refusal := .next (issueOrRetry s tile 5 0x70)

/-- R387: MBSEND. -/
def execMbsend (tile : Nat) (s : State) : Host.Outcome State Fault Refusal := .next (issueOrRetry s tile 6 0x68)

end Sys2Proof.Machine
end

