-- ==== Sys2Proof/Machine/Dispatch.lean ====
section
/-! DEFINITION. One arm per command: its meaning. -/

namespace Sys2Proof.Machine

/-- R447 and the opcode table: the effect of a command on everything but the queue. -/
def exec (i : Instr) (s : State) : Host.Outcome State Fault Refusal :=
  match i with
  | .sqDoorbell master ctx ring value => Sys2Proof.Machine.execSqDoorbell master ctx ring value s
  | .cqDoorbell master ctx ring value => Sys2Proof.Machine.execCqDoorbell master ctx ring value s
  | .submissionEntryRead ctx ring hostFail => Sys2Proof.Machine.execSubmissionEntryRead ctx ring hostFail s
  | .launch ctx ring => Sys2Proof.Machine.execLaunch ctx ring s
  | .launchStart id => Sys2Proof.Machine.execLaunchStart id s
  | .copy ctx ring => Sys2Proof.Machine.execCopy ctx ring s
  | .jointDescAdd ctx ring => Sys2Proof.Machine.execJointDescAdd ctx ring s
  | .jointDescSet ctx ring => Sys2Proof.Machine.execJointDescSet ctx ring s
  | .jointDescRead ctx ring => Sys2Proof.Machine.execJointDescRead ctx ring s
  | .jointDescWaitge ctx ring => Sys2Proof.Machine.execJointDescWaitge ctx ring s
  | .jointDescTicket ctx ring => Sys2Proof.Machine.execJointDescTicket ctx ring s
  | .jointDescSignal ctx ring => Sys2Proof.Machine.execJointDescSignal ctx ring s
  | .jointDescSetticket ctx ring => Sys2Proof.Machine.execJointDescSetticket ctx ring s
  | .fenceDesc ctx ring => Sys2Proof.Machine.execFenceDesc ctx ring s
  | .fenceStop ctx ring => Sys2Proof.Machine.execFenceStop ctx ring s
  | .fenceDescRelease ctx ring => Sys2Proof.Machine.execFenceDescRelease ctx ring s
  | .heldRecordWrite ctx => Sys2Proof.Machine.execHeldRecordWrite ctx s
  | .ringNeedbyMiss ctx ring idx => Sys2Proof.Machine.execRingNeedbyMiss ctx ring idx s
  | .timedRequestDelivered req => Sys2Proof.Machine.execTimedRequestDelivered req s
  | .devtimeLoRead master => Sys2Proof.Machine.execDevtimeLoRead master s
  | .ppReqWrite master value => Sys2Proof.Machine.execPpReqWrite master value s
  | .ppPendingApply => Sys2Proof.Machine.execPpPendingApply s
  | .lateHostRead tag => Sys2Proof.Machine.execLateHostRead tag s
  | .deadlineMiss tile => Sys2Proof.Machine.execDeadlineMiss tile s
  | .hodMissCancel tile stream => Sys2Proof.Machine.execHodMissCancel tile stream s
  | .nop tile => Sys2Proof.Machine.execNop tile s
  | .seti tile => Sys2Proof.Machine.execSeti tile s
  | .addi tile => Sys2Proof.Machine.execAddi tile s
  | .add tile => Sys2Proof.Machine.execAdd tile s
  | .loop tile => Sys2Proof.Machine.execLoop tile s
  | .br tile => Sys2Proof.Machine.execBr tile s
  | .brz tile => Sys2Proof.Machine.execBrz tile s
  | .brnz tile => Sys2Proof.Machine.execBrnz tile s
  | .halt tile => Sys2Proof.Machine.execHalt tile s
  | .haltComplete tile => Sys2Proof.Machine.execHaltComplete tile s
  | .fence tile => Sys2Proof.Machine.execFence tile s
  | .fenceRelease tile => Sys2Proof.Machine.execFenceRelease tile s
  | .rdtime tile => Sys2Proof.Machine.execRdtime tile s
  | .split tile => Sys2Proof.Machine.execSplit tile s
  | .splitComplete tile => Sys2Proof.Machine.execSplitComplete tile s
  | .commandFetchFill tile fail => Sys2Proof.Machine.execCommandFetchFill tile fail s
  | .issueStallRelease tile => Sys2Proof.Machine.execIssueStallRelease tile s
  | .tokenWaitStart tile unit => Sys2Proof.Machine.execTokenWaitStart tile unit s
  | .unitWordComplete tile unit => Sys2Proof.Machine.execUnitWordComplete tile unit s
  | .wait tile => Sys2Proof.Machine.execWait tile s
  | .waitSatisfied tile => Sys2Proof.Machine.execWaitSatisfied tile s
  | .mma tile => Sys2Proof.Machine.execMma tile s
  | .mdrain tile => Sys2Proof.Machine.execMdrain tile s
  | .mload tile => Sys2Proof.Machine.execMload tile s
  | .mzero tile => Sys2Proof.Machine.execMzero tile s
  | .srSeedLoWrite master value => Sys2Proof.Machine.execSrSeedLoWrite master value s
  | .srSeedHiWrite master value => Sys2Proof.Machine.execSrSeedHiWrite master value s
  | .vld tile => Sys2Proof.Machine.execVld tile s
  | .vst tile => Sys2Proof.Machine.execVst tile s
  | .vfma tile => Sys2Proof.Machine.execVfma tile s
  | .vadd tile => Sys2Proof.Machine.execVadd tile s
  | .vsub tile => Sys2Proof.Machine.execVsub tile s
  | .vmul tile => Sys2Proof.Machine.execVmul tile s
  | .vmax tile => Sys2Proof.Machine.execVmax tile s
  | .vmin tile => Sys2Proof.Machine.execVmin tile s
  | .vdiv tile => Sys2Proof.Machine.execVdiv tile s
  | .vcmp tile => Sys2Proof.Machine.execVcmp tile s
  | .vsel tile => Sys2Proof.Machine.execVsel tile s
  | .vscan tile => Sys2Proof.Machine.execVscan tile s
  | .vred tile => Sys2Proof.Machine.execVred tile s
  | .vbrc tile => Sys2Proof.Machine.execVbrc tile s
  | .vstat tile => Sys2Proof.Machine.execVstat tile s
  | .vstatf tile => Sys2Proof.Machine.execVstatf tile s
  | .vmovs tile => Sys2Proof.Machine.execVmovs tile s
  | .sfeval tile => Sys2Proof.Machine.execSfeval tile s
  | .sfsincos tile => Sys2Proof.Machine.execSfsincos tile s
  | .sfbas tile => Sys2Proof.Machine.execSfbas tile s
  | .sfnss tile => Sys2Proof.Machine.execSfnss tile s
  | .sfload tile => Sys2Proof.Machine.execSfload tile s
  | .sfswap tile => Sys2Proof.Machine.execSfswap tile s
  | .sfprog tile => Sys2Proof.Machine.execSfprog tile s
  | .hodstream tile => Sys2Proof.Machine.execHodstream tile s
  | .hodrun tile => Sys2Proof.Machine.execHodrun tile s
  | .hodrecv tile => Sys2Proof.Machine.execHodrecv tile s
  | .hodcmo tile => Sys2Proof.Machine.execHodcmo tile s
  | .hodDescriptorTake tile stream => Sys2Proof.Machine.execHodDescriptorTake tile stream s
  | .hodRequestIssue tile n => Sys2Proof.Machine.execHodRequestIssue tile n s
  | .hodResponseLand tile tag => Sys2Proof.Machine.execHodResponseLand tile tag s
  | .gatherIndexRead tile desc => Sys2Proof.Machine.execGatherIndexRead tile desc s
  | .relayStart tile desc => Sys2Proof.Machine.execRelayStart tile desc s
  | .multicastStart tile desc => Sys2Proof.Machine.execMulticastStart tile desc s
  | .multicastDropInstant tile desc => Sys2Proof.Machine.execMulticastDropInstant tile desc s
  | .multicastReplay tile desc member => Sys2Proof.Machine.execMulticastReplay tile desc member s
  | .scratchpadWindowAccess ctx addr len write data => Sys2Proof.Machine.execScratchpadWindowAccess ctx addr len write data s
  | .channelRequest ch entry => Sys2Proof.Machine.execChannelRequest ch entry s
  | .channelLineDone ch errs => Sys2Proof.Machine.execChannelLineDone ch errs s
  | .refreshDue ch bank => Sys2Proof.Machine.execRefreshDue ch bank s
  | .scrubLine ch errs => Sys2Proof.Machine.execScrubLine ch errs s
  | .brickTempSample brick readings => Sys2Proof.Machine.execBrickTempSample brick readings s
  | .chCmdRetrain master => Sys2Proof.Machine.execChCmdRetrain master s
  | .retrainResubmit ch => Sys2Proof.Machine.execRetrainResubmit ch s
  | .retrainStart ch => Sys2Proof.Machine.execRetrainStart ch s
  | .retrainDone ch sweep readback => Sys2Proof.Machine.execRetrainDone ch sweep readback s
  | .chCmdFence master => Sys2Proof.Machine.execChCmdFence master s
  | .channelFenceComplete ch => Sys2Proof.Machine.execChannelFenceComplete ch s
  | .chCmdUnfence master => Sys2Proof.Machine.execChCmdUnfence master s
  | .chCmdSpall master => Sys2Proof.Machine.execChCmdSpall master s
  | .chCmdMarginStb master => Sys2Proof.Machine.execChCmdMarginStb master s
  | .chCmdMarginVref master => Sys2Proof.Machine.execChCmdMarginVref master s
  | .marginDone ch low high lane nonePassed => Sys2Proof.Machine.execMarginDone ch low high lane nonePassed s
  | .brickSupplyWrite master value => Sys2Proof.Machine.execBrickSupplyWrite master value s
  | .scrubPeriodWrite master value => Sys2Proof.Machine.execScrubPeriodWrite master value s
  | .errlogPopRead master => Sys2Proof.Machine.execErrlogPopRead master s
  | .flashCreate ctx ring => Sys2Proof.Machine.execFlashCreate ctx ring s
  | .flashDelete ctx ring => Sys2Proof.Machine.execFlashDelete ctx ring s
  | .flashRead ctx ring => Sys2Proof.Machine.execFlashRead ctx ring s
  | .flashReadStreamStart cmd => Sys2Proof.Machine.execFlashReadStreamStart cmd s
  | .flashReadCancel cmd => Sys2Proof.Machine.execFlashReadCancel cmd s
  | .flashWrite ctx ring => Sys2Proof.Machine.execFlashWrite ctx ring s
  | .flashTrim ctx ring => Sys2Proof.Machine.execFlashTrim ctx ring s
  | .flashStat ctx ring => Sys2Proof.Machine.execFlashStat ctx ring s
  | .flashPageReadDone cmd unit ok => Sys2Proof.Machine.execFlashPageReadDone cmd unit ok s
  | .flashReadRetry cmd unit ok => Sys2Proof.Machine.execFlashReadRetry cmd unit ok s
  | .flashRebuildDone cmd unit ok => Sys2Proof.Machine.execFlashRebuildDone cmd unit ok s
  | .flashProgramDone cmd ok row slot => Sys2Proof.Machine.execFlashProgramDone cmd ok row slot s
  | .flashDieTimeout die => Sys2Proof.Machine.execFlashDieTimeout die s
  | .flashRelocate row dst => Sys2Proof.Machine.execFlashRelocate row dst s
  | .hostReadCompletion tag status data => Sys2Proof.Machine.execHostReadCompletion tag status data s
  | .hostCplTimeout tag => Sys2Proof.Machine.execHostCplTimeout tag s
  | .holdupMeasure energy => Sys2Proof.Machine.execHoldupMeasure energy s
  | .kilnBatch ctx ring => Sys2Proof.Machine.execKilnBatch ctx ring s
  | .kilnSlotStart batch => Sys2Proof.Machine.execKilnSlotStart batch s
  | .kilnHeaderReadDone engine => Sys2Proof.Machine.execKilnHeaderReadDone engine s
  | .kilnSampleDecoded engine => Sys2Proof.Machine.execKilnSampleDecoded engine s
  | .kilnBackfillAssign batch => Sys2Proof.Machine.execKilnBackfillAssign batch s
  | .kilnPalletDelivered batch => Sys2Proof.Machine.execKilnPalletDelivered batch s
  | .arkelFlitReceive port fibre flit fec => Sys2Proof.Machine.execArkelFlitReceive port fibre flit fec s
  | .arkelReplayTimeout port => Sys2Proof.Machine.execArkelReplayTimeout port s
  | .arkelWriteMsg port => Sys2Proof.Machine.execArkelWriteMsg port s
  | .arkelReadRequestMsg port => Sys2Proof.Machine.execArkelReadRequestMsg port s
  | .arkelReadResponseMsg port => Sys2Proof.Machine.execArkelReadResponseMsg port s
  | .jointSignalMsg port => Sys2Proof.Machine.execJointSignalMsg port s
  | .unreachableNotice port => Sys2Proof.Machine.execUnreachableNotice port s
  | .arkelLightDetect port => Sys2Proof.Machine.execArkelLightDetect port s
  | .arkelLaneTrainDone port failed => Sys2Proof.Machine.execArkelLaneTrainDone port failed s
  | .arkelLinkControlFlit port verMin verMax coord code fibres => Sys2Proof.Machine.execArkelLinkControlFlit port verMin verMax coord code fibres s
  | .arkelBringupRetry port => Sys2Proof.Machine.execArkelBringupRetry port s
  | .linkEnableWrite master value => Sys2Proof.Machine.execLinkEnableWrite master value s
  | .linkRetrain master value => Sys2Proof.Machine.execLinkRetrain master value s
  | .arkelLaneFail port dir fibre lane => Sys2Proof.Machine.execArkelLaneFail port dir fibre lane s
  | .arkelSpareSwapDone port dir fibre => Sys2Proof.Machine.execArkelSpareSwapDone port dir fibre s
  | .arkelLinkDown port dir => Sys2Proof.Machine.execArkelLinkDown port dir s
  | .arkelFibreRejoin port dir fibre => Sys2Proof.Machine.execArkelFibreRejoin port dir fibre s
  | .timeExchangeSend port => Sys2Proof.Machine.execTimeExchangeSend port s
  | .timeExchangeFlit port rootTime offsetPs rootHops => Sys2Proof.Machine.execTimeExchangeFlit port rootTime offsetPs rootHops s
  | .laserSupplyLoss input lambdas mm => Sys2Proof.Machine.execLaserSupplyLoss input lambdas mm s
  | .rtLoWrite master value => Sys2Proof.Machine.execRtLoWrite master value s
  | .rtHiWrite master value => Sys2Proof.Machine.execRtHiWrite master value s
  | .collReduceScatter ctx ring => Sys2Proof.Machine.execCollReduceScatter ctx ring s
  | .collAllReduce ctx ring => Sys2Proof.Machine.execCollAllReduce ctx ring s
  | .collAllGather ctx ring => Sys2Proof.Machine.execCollAllGather ctx ring s
  | .collAllToAll ctx ring => Sys2Proof.Machine.execCollAllToAll ctx ring s
  | .collPermute ctx ring => Sys2Proof.Machine.execCollPermute ctx ring s
  | .collVote ctx ring => Sys2Proof.Machine.execCollVote ctx ring s
  | .collLand ctx ring => Sys2Proof.Machine.execCollLand ctx ring s
  | .collSetupMsg port => Sys2Proof.Machine.execCollSetupMsg port s
  | .collSetupTimeout ctx group => Sys2Proof.Machine.execCollSetupTimeout ctx group s
  | .collAbortMsg port => Sys2Proof.Machine.execCollAbortMsg port s
  | .collHeaderPassMsg port => Sys2Proof.Machine.execCollHeaderPassMsg port s
  | .collMantissaPassMsg port => Sys2Proof.Machine.execCollMantissaPassMsg port s
  | .collGatherDataMsg port => Sys2Proof.Machine.execCollGatherDataMsg port s
  | .collCountsMsg port => Sys2Proof.Machine.execCollCountsMsg port s
  | .collBucketMsg port => Sys2Proof.Machine.execCollBucketMsg port s
  | .collPermuteDataMsg port => Sys2Proof.Machine.execCollPermuteDataMsg port s
  | .collVoteMsg port => Sys2Proof.Machine.execCollVoteMsg port s
  | .collStatisticsMsg port => Sys2Proof.Machine.execCollStatisticsMsg port s
  | .collGroupWrite master value => Sys2Proof.Machine.execCollGroupWrite master value s
  | .idleTick => Sys2Proof.Machine.execIdleTick s
  | .idleLoRead master => Sys2Proof.Machine.execIdleLoRead master s
  | .tupdate tile => Sys2Proof.Machine.execTupdate tile s
  | .commitLapMsg port => Sys2Proof.Machine.execCommitLapMsg port s
  | .contTimeoutExpiry ctx => Sys2Proof.Machine.execContTimeoutExpiry ctx s
  | .contCmdCommit master => Sys2Proof.Machine.execContCmdCommit master s
  | .contCmdAbort master => Sys2Proof.Machine.execContCmdAbort master s
  | .contCmdHold master => Sys2Proof.Machine.execContCmdHold master s
  | .contCmdRelease master => Sys2Proof.Machine.execContCmdRelease master s
  | .contEnWrite master value => Sys2Proof.Machine.execContEnWrite master value s
  | .removalAnnounce => Sys2Proof.Machine.execRemovalAnnounce s
  | .jadd tile => Sys2Proof.Machine.execJadd tile s
  | .jtry tile => Sys2Proof.Machine.execJtry tile s
  | .jticket tile => Sys2Proof.Machine.execJticket tile s
  | .jorder tile => Sys2Proof.Machine.execJorder tile s
  | .jarrive tile => Sys2Proof.Machine.execJarrive tile s
  | .jsignal tile => Sys2Proof.Machine.execJsignal tile s
  | .jread tile => Sys2Proof.Machine.execJread tile s
  | .jointWaitRelease joint => Sys2Proof.Machine.execJointWaitRelease joint s
  | .jntCfgWrite master value => Sys2Proof.Machine.execJntCfgWrite master value s
  | .jointValueLoRead master => Sys2Proof.Machine.execJointValueLoRead master s
  | .jointTicketLoRead master => Sys2Proof.Machine.execJointTicketLoRead master s
  | .mbTxSend fn value => Sys2Proof.Machine.execMbTxSend fn value s
  | .mbsend tile => Sys2Proof.Machine.execMbsend tile s
  | .mbrecv tile => Sys2Proof.Machine.execMbrecv tile s
  | .mbTimeoutExpiry chan => Sys2Proof.Machine.execMbTimeoutExpiry chan s
  | .mbReceiverStateChange ident state => Sys2Proof.Machine.execMbReceiverStateChange ident state s
  | .functionLevelReset fn => Sys2Proof.Machine.execFunctionLevelReset fn s
  | .contextResetComplete ctx => Sys2Proof.Machine.execContextResetComplete ctx s
  | .functionEnableChange fn enable => Sys2Proof.Machine.execFunctionEnableChange fn enable s
  | .protSync master => Sys2Proof.Machine.execProtSync master s
  | .ringEnWrite master value => Sys2Proof.Machine.execRingEnWrite master value s
  | .msixUnmask fn vector => Sys2Proof.Machine.execMsixUnmask fn vector s
  | .kvCmdWindowWrite master off data full => Sys2Proof.Machine.execKvCmdWindowWrite master off data full s
  | .kvRunTimeout master => Sys2Proof.Machine.execKvRunTimeout master s
  | .kvLookup n => Sys2Proof.Machine.execKvLookup n s
  | .kvAlloc n => Sys2Proof.Machine.execKvAlloc n s
  | .kvPublish n => Sys2Proof.Machine.execKvPublish n s
  | .kvPin n => Sys2Proof.Machine.execKvPin n s
  | .kvUnpin n => Sys2Proof.Machine.execKvUnpin n s
  | .kvRef n => Sys2Proof.Machine.execKvRef n s
  | .kvUnref n => Sys2Proof.Machine.execKvUnref n s
  | .kvWprep n => Sys2Proof.Machine.execKvWprep n s
  | .kvWprepCopyDone page ue => Sys2Proof.Machine.execKvWprepCopyDone page ue s
  | .kvEpochAdvance => Sys2Proof.Machine.execKvEpochAdvance s
  | .kvCtrlWrite master value => Sys2Proof.Machine.execKvCtrlWrite master value s
  | .capFrame bytes => Sys2Proof.Machine.execCapFrame bytes s
  | .reportTimer => Sys2Proof.Machine.execReportTimer s
  | .leaseExpiry => Sys2Proof.Machine.execLeaseExpiry s
  | .powerWindowEnd meanW => Sys2Proof.Machine.execPowerWindowEnd meanW s
  | .curVpUpdate want measuredW => Sys2Proof.Machine.execCurVpUpdate want measuredW s
  | .dutyQuantum openQ => Sys2Proof.Machine.execDutyQuantum openQ s
  | .dutyAdmWrite master value => Sys2Proof.Machine.execDutyAdmWrite master value s
  | .collExemptExpiry => Sys2Proof.Machine.execCollExemptExpiry s
  | .shedStageEnter stage cause => Sys2Proof.Machine.execShedStageEnter stage cause s
  | .shedStageExit => Sys2Proof.Machine.execShedStageExit s
  | .safeStopCommit => Sys2Proof.Machine.execSafeStopCommit s
  | .tileReplicaSample tile rate => Sys2Proof.Machine.execTileReplicaSample tile rate s
  | .pwrCmdRemeasure master => Sys2Proof.Machine.execPwrCmdRemeasure master s
  | .remeasureDone entries => Sys2Proof.Machine.execRemeasureDone entries s
  | .junctionSensorSample sensor temp over115 => Sys2Proof.Machine.execJunctionSensorSample sensor temp over115 s
  | .thermalThrottleStep => Sys2Proof.Machine.execThermalThrottleStep s
  | .kilnOnWrite master value => Sys2Proof.Machine.execKilnOnWrite master value s
  | .flashOnWrite master value => Sys2Proof.Machine.execFlashOnWrite master value s
  | .unitDrainDone unit => Sys2Proof.Machine.execUnitDrainDone unit s
  | .unitPowerUpDone unit => Sys2Proof.Machine.execUnitPowerUpDone unit s
  | .enLoRead master => Sys2Proof.Machine.execEnLoRead master s
  | .coldReset puf0 puf1 half0 half1 sigA sigB badPins => Sys2Proof.Machine.execColdReset puf0 puf1 half0 half1 sigA sigB badPins s
  | .storeCmdWarmReset master badPins => Sys2Proof.Machine.execStoreCmdWarmReset master badPins s
  | .hostPortReset => Sys2Proof.Machine.execHostPortReset s
  | .storeCmdSaveConfig master => Sys2Proof.Machine.execStoreCmdSaveConfig master s
  | .storeCmdCommitSvn master => Sys2Proof.Machine.execStoreCmdCommitSvn master s
  | .storeCmdPreferA master => Sys2Proof.Machine.execStoreCmdPreferA master s
  | .storeCmdPreferB master => Sys2Proof.Machine.execStoreCmdPreferB master s
  | .storeRecordCommit => Sys2Proof.Machine.execStoreRecordCommit s
  | .storeCompact => Sys2Proof.Machine.execStoreCompact s
  | .krtAttest chan => Sys2Proof.Machine.execKrtAttest chan s
  | .krtExtend chan => Sys2Proof.Machine.execKrtExtend chan s
  | .krtCert chan => Sys2Proof.Machine.execKrtCert chan s
  | .krtPeerAdd chan => Sys2Proof.Machine.execKrtPeerAdd chan s
  | .krtPeerDel chan => Sys2Proof.Machine.execKrtPeerDel chan s
  | .wdtKick master => Sys2Proof.Machine.execWdtKick master s
  | .wdtExpiry => Sys2Proof.Machine.execWdtExpiry s
  | .mgmtHandshake peerHash => Sys2Proof.Machine.execMgmtHandshake peerHash s
  | .mgmtSessionIdleTimeout => Sys2Proof.Machine.execMgmtSessionIdleTimeout s
  | .unlockKeyWrite master value => Sys2Proof.Machine.execUnlockKeyWrite master value s
  | .unlockExpiry master => Sys2Proof.Machine.execUnlockExpiry master s
  | .registerWrite master off value full => Sys2Proof.Machine.execRegisterWrite master off value full s
  | .registerReadClear master off => Sys2Proof.Machine.execRegisterReadClear master off s
  | .holeAccess master off write => Sys2Proof.Machine.execHoleAccess master off write s
  | .bitAliasRead master slot bit => Sys2Proof.Machine.execBitAliasRead master slot bit s
  | .bitAliasWrite master slot bit value => Sys2Proof.Machine.execBitAliasWrite master slot bit value s
  | .ctEnableWrite master value => Sys2Proof.Machine.execCtEnableWrite master value s
  | .ctResetWrite master value => Sys2Proof.Machine.execCtResetWrite master value s
  | .bindEntryWrite master value => Sys2Proof.Machine.execBindEntryWrite master value s
  | .testFence frame => Sys2Proof.Machine.execTestFence frame s
  | .tileFenceEffect tile => Sys2Proof.Machine.execTileFenceEffect tile s
  | .testUnfence frame => Sys2Proof.Machine.execTestUnfence frame s
  | .testSelftest frame => Sys2Proof.Machine.execTestSelftest frame s
  | .selftestDone kind id result rate berExp sweep readback => Sys2Proof.Machine.execSelftestDone kind id result rate berExp sweep readback s
  | .testSpall frame => Sys2Proof.Machine.execTestSpall frame s
  | .spallTileStop tile => Sys2Proof.Machine.execSpallTileStop tile s
  | .testRestore frame => Sys2Proof.Machine.execTestRestore frame s
  | .presentRelease => Sys2Proof.Machine.execPresentRelease s
  | .laserSupplyLightReturn input lambdas mm => Sys2Proof.Machine.execLaserSupplyLightReturn input lambdas mm s
  | .translationLayerLoaded => Sys2Proof.Machine.execTranslationLayerLoaded s
  | .lifetimeHourlyRecord => Sys2Proof.Machine.execLifetimeHourlyRecord s
  | .retainedStoreRecordDone badPins => Sys2Proof.Machine.execRetainedStoreRecordDone badPins s
  | .coolantTemperatureSample coolIn coolOut => Sys2Proof.Machine.execCoolantTemperatureSample coolIn coolOut s

end Sys2Proof.Machine
end

