-- ==== Sys2Proof/Machine/Time.lean ====
section
/-! DEFINITION. Device time (R37, R38): one period of the 100 MHz reference oscillator. -/

namespace Sys2Proof.Machine

/-- R38: the part of a correction that one period applies, at most 10 ps either way (1 ns in a microsecond). -/
def slewStep (left : Int) : Int := max (-10) (min 10 left)

/-- R37, R38: device time advances by 10 ns and by what slewing adds, in whole ns. -/
def tick (s : State) : State :=
  let d := slewStep s.time.slewLeft
  let acc := s.time.slewAcc + d
  { s with time := { s.time with
      devTime := (Int.toNat (s.time.devTime + 10 + acc / 1000)) % 2 ^ 64,
      slewLeft := s.time.slewLeft - d,
      slewAcc := acc % 1000 } }

end Sys2Proof.Machine
end

