-- ==== Sys2Proof/Safety.lean ====
section
/-! DEFINITION. What counts as a safe state, and what a frame says: the memories and tables in canonical form, and the parts of the state that a command may change. -/

namespace Sys2Proof.Machine

/-- Device memory, host memory and flash contents are in canonical form. -/
def State.MemOk (s : State) : Prop := s.mem.wf = true ∧ s.hostMem.wf = true ∧ s.flash.data.wf = true

/-- Numbers in strictly rising order. -/
def rising : List Nat → Bool
  | [] => true
  | [_] => true
  | a :: b :: r => decide (a < b) && rising (b :: r)

/-- The canonical form of a state: the three memories; each poisoned codeword marked once (R187), in rising order; each
stored register word listed once, in rising order. -/
structure State.Canon (s : State) : Prop where
  mem : s.MemOk
  poison : rising s.poison = true
  regs : rising (s.regs.map (fun e => e.1)) = true

/-- The parts of State, one for each of its fields. -/
inductive Part where
  | variant | pending | freeCtr | nextId | regs | mem | poison | hostMem | masters | time | tiles | chans
  | chanBoot | chanGen | mortar | bricks | errLog | errOverflow | scrubDone | ctxs | launches | joints | mail | kv
  | flash | hostReads | copies | holdup | kiln | links | groups | colls | idle | conts | power | trust
  | mgmt | tests | detourAvoid | detourGen | msix | msixSent | regPosted
  deriving DecidableEq, Repr

/-- The part holds the same in both states. -/
def Part.same (p : Part) (s t : State) : Prop :=
  match p with
  | .variant => t.variant = s.variant
  | .pending => t.pending = s.pending
  | .freeCtr => t.freeCtr = s.freeCtr
  | .nextId => t.nextId = s.nextId
  | .regs => t.regs = s.regs
  | .mem => t.mem = s.mem
  | .poison => t.poison = s.poison
  | .hostMem => t.hostMem = s.hostMem
  | .masters => t.masters = s.masters
  | .time => t.time = s.time
  | .tiles => t.tiles = s.tiles
  | .chans => t.chans = s.chans
  | .chanBoot => t.chanBoot = s.chanBoot
  | .chanGen => t.chanGen = s.chanGen
  | .mortar => t.mortar = s.mortar
  | .bricks => t.bricks = s.bricks
  | .errLog => t.errLog = s.errLog
  | .errOverflow => t.errOverflow = s.errOverflow
  | .scrubDone => t.scrubDone = s.scrubDone
  | .ctxs => t.ctxs = s.ctxs
  | .launches => t.launches = s.launches
  | .joints => t.joints = s.joints
  | .mail => t.mail = s.mail
  | .kv => t.kv = s.kv
  | .flash => t.flash = s.flash
  | .hostReads => t.hostReads = s.hostReads
  | .copies => t.copies = s.copies
  | .holdup => t.holdup = s.holdup
  | .kiln => t.kiln = s.kiln
  | .links => t.links = s.links
  | .groups => t.groups = s.groups
  | .colls => t.colls = s.colls
  | .idle => t.idle = s.idle
  | .conts => t.conts = s.conts
  | .power => t.power = s.power
  | .trust => t.trust = s.trust
  | .mgmt => t.mgmt = s.mgmt
  | .tests => t.tests = s.tests
  | .detourAvoid => t.detourAvoid = s.detourAvoid
  | .detourGen => t.detourGen = s.detourGen
  | .msix => t.msix = s.msix
  | .msixSent => t.msixSent = s.msixSent
  | .regPosted => t.regPosted = s.regPosted

/-- The states differ in no part but those listed. -/
def State.sameBut (s t : State) (ps : List Part) : Prop := ∀ p : Part, p ∈ ps ∨ p.same s t

end Sys2Proof.Machine
end

