-- ==== Sys2Proof/Certificates/Slice0/Obligations.lean ====
section
/-! DEFINITION. The statements about the model, each a proposition, with the notions they are stated in. -/

namespace Sys2Proof.Machine

/-! ### Notions -/

/-- Command `i` completes on `s` with a next state of which `P` holds. -/
def completes (i : Instr) (s : State) (P : State → Prop) : Prop := ∃ t, exec i s = .next t ∧ P t

/-- Of the tiles none but `t` differs. -/
def otherTiles (s s' : State) (t : Nat) : Prop := ∀ k, k ≠ t → s'.tile k = s.tile k

/-- The states differ in nothing but tile `t`. -/
def onlyTile (s s' : State) (t : Nat) : Prop := s.sameBut s' [.tiles] ∧ otherTiles s s' t

/-! ### Command words -/

/-- The word `w`, opcode `op` of unit `u`, stands at the program counter of the running tile `t`, whose sequencer is
free; the token it waits on is above 0, and no closed quantum holds it (R60, R61, R63, R399). -/
abbrev wordAt (s : State) (t u op : Nat) (w : CWord) : Prop :=
  (s.tile t).run = .running ∧ (s.tile t).stall = .none ∧ tfind? (s.tile t).cmdCache (s.tile t).pc = some w ∧
  cwUnit w = u ∧ cwOp w = op ∧ (s.tile t).tokenReady w = true ∧ s.power.issueOpen = true

/-- The tile with the signal of the word's token (R63). -/
def Tile.signalled (x : Tile) (w : CWord) : Tile :=
  if cwSigEn w then x.setToken (cwSigTok w) (x.token (cwSigTok w) + 1) else x

/-- The signal of the word finds its token below 255. -/
abbrev tokenRoom (x : Tile) (w : CWord) : Prop := cwSigEn w = true → (x.takeToken w).token (cwSigTok w) < 255

/-- Word `op` of unit 0, met by the sequencer, does `g` to the tile and to nothing else. -/
def scalarWord (i : Nat → Instr) (op : Nat) (g : State → CWord → Tile → Tile) : Prop :=
  ∀ s t w, wordAt s t 0 op w → tokenRoom (s.tile t) w →
    completes (i t) s fun s' => onlyTile s s' t ∧ s'.tile t = (g s w ((s.tile t).takeToken w)).signalled w

/-- The tile's hold of the sequencer has ended: the word `w` at the program counter is over, and the program goes on. -/
def Tile.released (x : Tile) (w : CWord) : Tile := Tile.signalled (Tile.advance { x with stall := .none }) w

/-- Tile `t` runs, its sequencer is held by word `w` for `st`, and every word and descriptor before it is over. -/
abbrev heldAt (s : State) (t : Nat) (st : Stall) (w : CWord) : Prop :=
  (s.tile t).run = .running ∧ (s.tile t).stall = st ∧ (s.tile t).drained = true ∧
  tfind? (s.tile t).cmdCache (s.tile t).pc = some w ∧
  (cwSigEn w = true → (s.tile t).token (cwSigTok w) < 255)

/-- Tile `t` has left its launch: idle, its queues and loops empty, its streams closed; the launch waits for it no
more. -/
def leftLaunch (s s' : State) (t : Nat) (run : TileRun) : Prop :=
  (s'.tile t).run = run ∧ (s'.tile t).stall = .none ∧ (s'.tile t).units = List.replicate 8 UnitQ.reset ∧
  (s'.tile t).loops = [] ∧ (s'.tile t).hod.streams = [] ∧ (s'.tile t).sregs = (s.tile t).sregs ∧
  (s'.tile t).vregs = (s.tile t).vregs ∧ (s'.tile t).acc = (s.tile t).acc ∧
  (∀ l ∈ s'.launches, l.id = (s.tile t).launch → t ∉ l.left) ∧ otherTiles s s' t

/-! ### Words of the units -/

/-- The queue entry of a word issued at the program counter (R61). -/
def Tile.entryOf (x : Tile) (w : CWord) : QWord := { addr := x.pc, word := w, seq := x.issueSeq }

/-- The tile with the word `w` at its program counter issued to the queue of unit `u`. -/
def Tile.placed (x : Tile) (u : Nat) (w : CWord) : Tile :=
  { x.advance with stall := .none, issueSeq := x.issueSeq + 1,
                   units := x.units.set u { x.unit u with queue := (x.unit u).queue ++ [x.entryOf w] } }

/-- A word as it starts: no flags, not finished; a matrix word holds what it uses (R75). -/
def QWord.running (q : QWord) (latch : List Nat) : Active :=
  { addr := q.addr, word := q.word, seq := q.seq, flags := 0, finished := false, latch := latch }

/-- What the word of a unit holds as it starts. -/
def Tile.latchOf (x : Tile) (u : Nat) (w : CWord) : List Nat := if u = 1 then matUse x w else []

/-- The tile as word `w`, issued to the empty queue of unit `u`, starts at once: the program has gone on, the token is
taken, and the word runs on the unit or, a matrix word, on the array or the drain port (R75). -/
def Tile.started (x : Tile) (u : Nat) (w : CWord) : Tile :=
  let y : Tile := { (x.takeToken w).advance with stall := .none, issueSeq := x.issueSeq + 1 }
  y.setUnit (slotOf u w) { y.unit (slotOf u w) with active := some ((x.entryOf w).running (x.latchOf u w)) }

def State.started (s : State) (t u : Nat) (w : CWord) : State := s.setTile t ((s.tile t).started u w)

/-- The word `w` of unit `u` is met by a free sequencer, its unit's queue is empty, what runs it is idle, and no earlier
word holds it back (R75, R121). -/
abbrev startsAt (s : State) (t u op : Nat) (w : CWord) : Prop :=
  wordAt s t u op w ∧ ((s.tile t).unit u).queue = [] ∧ ((s.tile t).unit (slotOf u w)).active = none ∧
  u < (s.tile t).units.length ∧ slotOf u w < (s.tile t).units.length ∧
  ((s.tile t).placed u w).hazard u ((s.tile t).entryOf w) = false ∧
  (u = 1 → matHazard ((s.tile t).placed u w) w = false)

/-- Word `op` of unit `u`, met where it can start and where `ok` holds, runs up to its completion (R63): from the state
in which it has started, `g` gives the state it leaves and the flags it raises. -/
def unitWord (i : Nat → Instr) (u op : Nat) (ok : State → Nat → CWord → Prop)
    (g : State → Nat → CWord → State × Nat) : Prop :=
  ∀ s t w, startsAt s t u op w → ok (s.started t u w) t w →
    completes (i t) s fun s' =>
      s' = (g (s.started t u w) t w).1.modTile t (fun x => x.finish (slotOf u w) (g (s.started t u w) t w).2)

/-- Word `op` of unit `u`, met where it can start and where `ok` holds, starts and waits in its unit: `g` gives the
state. -/
def unitWaits (i : Nat → Instr) (u op : Nat) (ok : State → Nat → CWord → Prop) (g : State → Nat → CWord → State) :
    Prop :=
  ∀ s t w, startsAt s t u op w → ok (s.started t u w) t w →
    completes (i t) s fun s' => s' = g (s.started t u w) t w

/-- The tile's scalar register `r` takes `v` modulo 2^64 (R62). -/
def State.putS (s : State) (t r v : Nat) : State := s.modTile t (fun x => x.setS r v)

/-! ### Registers -/

/-- The row of the register map for the word at `off`. -/
def mapWord (off : Nat) : WordRow := (wordRow off).getD (row off .module [])

/-- Master `m` reaches the word at `off` of function 0's map, the word's domain is on, and the variant has its unit
(R2, R359, R388, R436). -/
abbrev wayTo (s : State) (m off : Nat) : Prop :=
  noWay m = false ∧ outOfReach m off = false ∧ s.domainOff m off = false ∧ s.unitAbsent off = false

/-- The bank that the master's selections give the word at `off` (R442). -/
def State.bankAt (s : State) (m off : Nat) : Nat := s.bankOf m (mapWord off).bank

/-- The word at `off` after a write of `v` by master `m` (R446, R447). -/
def State.written (s : State) (m off v : Nat) : Nat :=
  clampWord off ((mapWord off).merge (s.wordValue m (mapWord off)) v (s.unlocked m))

/-- Every field that the write changes takes the value written. -/
abbrev legalWrite (s : State) (m off v : Nat) : Prop :=
  (mapWord off).clamps v (s.unlocked m) = false ∧
  clampWord off ((mapWord off).merge (s.wordValue m (mapWord off)) v (s.unlocked m)) =
    (mapWord off).merge (s.wordValue m (mapWord off)) v (s.unlocked m)

/-- Row `i` writes the word at `off`, with legal values and in a state that takes them: then `g` of the state, the
master and the word as written is what results. `key`: the write needs the unlock, which it consumes. -/
def writesWord (i : Nat → Word → Instr) (off : Nat) (key : Bool) (ok : State → Nat → Nat → Prop)
    (g : State → Nat → Nat → State) : Prop :=
  ∀ s m (v : Word), wayTo s m off → (key = true → s.unlocked m = true) → legalWrite s m off v.toNat →
    s.ignores m off (s.bankAt m off) (s.written m off v.toNat) = false → ok s m (s.written m off v.toNat) →
    completes (i m v) s fun s' => s' = g (if key then rearm s m else s) m (s.written m off v.toNat)

/-- Row `i` writes the command `c` to the word at `off`, which holds no command, under the unlock. -/
def writesCommand (i : Nat → Instr) (off c : Nat) (ok : State → Nat → Prop) (g : State → Nat → State) : Prop :=
  ∀ s m, wayTo s m off → s.unlocked m = true → s.reg off (s.bankAt m off) = 0 →
    s.ignores m off (s.bankAt m off) c = false → ok s m → completes (i m) s fun s' => s' = g (rearm s m) m

/-- R443: the read returns `v` to master `m`. -/
abbrev returned (s : State) (m v : Nat) : State := s.setMaster m { s.master m with lastRead := some (BitVec.ofNat 32 v) }

/-- R436, R446: master `m` reaches every register of function 0: the function itself, context 0's agents, or one that acts
for no context. -/
abbrev wholeMap (m : Nat) : Prop := m = 0 ∨ m = 0x40 ∨ 0x80 ≤ m

/-- Row `i` reads the word at `off`: the master gets `value`, the upper half stands latched for it, and but for
registers and masters nothing differs. -/
def readsLow (i : Nat → Instr) (off latch : Nat) (value : State → Nat → Nat) : Prop :=
  ∀ s m, wayTo s m off → s.Canon → value s (s.bankAt m off) < 2 ^ 64 → completes (i m) s fun s' =>
    (s'.master m).lastRead = some (BitVec.ofNat 32 (value s (s.bankAt m off))) ∧
    s'.reg latch m = value s (s.bankAt m off) / 2 ^ 32 ∧ s.sameBut s' [.regs, .masters] ∧
    (∀ k, k ≠ m → s'.master k = s.master k)

/-! ### Descriptors and commands of the memory side -/

/-- The next descriptor of the ring is the flash operation `op` of KV1-A, the tier takes commands (R234, R236), and no other
ring's goes first (R48). -/
abbrev flashAt (s : State) (ctx q op : Nat) (d : Desc) : Prop :=
  s.nextOf ctx q 3 = some d ∧ s.variant = .kv1a ∧ flashOn s = true ∧ flOp d.bytes = op ∧ 1 ≤ op ∧ op ≤ 6 ∧
  s.power.stage5 = false ∧ s.unitOutranked d = false

/-- The state once command `n` has left the list of accepted ones. -/
def State.kvTaken (s : State) (n : Nat) : State :=
  { s with kv := { s.kv with accepted := s.kv.accepted.eraseIdx n } }

/-- Accepted command `n` of the KV page manager is `c`, of operation `op` and of its own context; its response can be
written (R170, R174). -/
abbrev kvAt (s : State) (n op : Nat) (c : KvCmd) : Prop :=
  s.kv.accepted[n]? = some c ∧ c.op = op ∧ c.field = c.ctx ∧
  kvRespOk (s.kvTaken n) c = true ∧ kvStalled s c = false

/-- The command names the live page `p` of its context (R170). -/
abbrev kvLive (s : State) (c : KvCmd) : Prop :=
  c.page < s.kvPages ∧ (s.page c.page).st = .live ∧ (s.page c.page).ctx = c.ctx

/-! ### Messages -/

/-- The oldest message at port `p` that may be taken has OP `op` (R280, R282): it is `m`. -/
abbrev msgAt (s : State) (p op : Nat) (m : RxMsg) : Prop := s.inMsg p (fun m => msgOp m.bytes == op) = some m

/-- The message of kind `kind` with `ok` that a collective takes next at port `p` is `m`; all but an abort wait for the
channels of their collective (R190). -/
abbrev collTakes (s : State) (p kind : Nat) (ok : RxMsg → Bool) (m : RxMsg) : Prop :=
  s.inMsg p (fun m => isColl kind m && ok m && (kind == 9 || !msgStalled s m.bytes)) = some m

/-- The state once `m` is taken from port `p`: it has passed the port, on which its collective's remaining size falls
(R48). -/
abbrev collTaken (s : State) (p : Nat) (m : RxMsg) : State :=
  (s.consume p m).portProgress (collOf s m.bytes) p true (msgLen m.bytes - 32)

/-- The message that a collective of kind `kind` takes at port `p` next is `m`, of the collective `c`, which is in one
of the phases `ps` (R304, R311). -/
abbrev collAt (s : State) (p kind : Nat) (ps : List CollPhase) (m : RxMsg) (c : Coll) : Prop :=
  collTakes s p kind (fun m => collStale s m.bytes ||
    (match collOf s m.bytes with | some c => ps.contains c.phase | none => false)) m ∧
  collOf (collTaken s p m) m.bytes = some c

/-- The member that a message of the collective, which came in at port `p`, reaches next. -/
def nextStop (s : State) (p : Nat) (m : RxMsg) (c : Coll) : Nat :=
  nextRank (s.collGroup c).len (s.collGroup c).rank (movesPlus s p m)

/-- A row that starts a collective takes the ring's next descriptor of its operation. -/
def collRow (i : Nat → Nat → Instr) (op : Nat) : Prop :=
  ∀ s ctx q d, s.nextOf ctx q 5 = some d → cdOp d.bytes = op → collStalled s ctx d.bytes = false →
    completes (i ctx q) s fun s' =>
      s' = collNext (s.modDesc ctx q d.abs (fun d => { d with phase := .waiting })) ctx (cdGroup d.bytes)

/-! ### Test access and the KRT -/

/-- The request `f` of operation `op` passes the checks of R453 to R455 (format, session, element, capacity). -/
abbrev testGood (s : State) (op : Nat) (f : List Byte) : Prop :=
  testTakes s f = true ∧ tfOp f = op ∧ testIdOk op (tfKind f) (tfId f) = true ∧ (tfKind f = 3 → s.variant = .kv1a) ∧
  testBusy s (tfKind f) (tfId f) = false

/-- A datagram of the peer keeps the session up (R432). -/
def State.heard (s : State) : State := { s with mgmt := { s.mgmt with lastAt := s.now } }

/-- A row of test access: a request that passes every check acts on its element; an ID outside the range of its KIND is
BAD_ID, a kiln engine of a KV1-S is ABSENT, an element with a command in progress is BUSY (R454, R455). -/
def testRow (i : List Byte → Instr) (op : Nat) (g : State → List Byte → State) : Prop :=
  (∀ s f, testGood s op f → completes (i f) s fun s' => s' = g s.heard f) ∧
  (∀ s f, testTakes s f = true → tfOp f = op → testIdOk op (tfKind f) (tfId f) = false →
    completes (i f) s fun s' => s' = testAnswer s.heard f 6 0) ∧
  (∀ s f, testTakes s f = true → tfOp f = op → testIdOk op (tfKind f) (tfId f) = true → tfKind f = 3 →
    s.variant = .kv1s → completes (i f) s fun s' => s' = testAnswer s.heard f 7 0) ∧
  (∀ s f, testTakes s f = true → tfOp f = op → testIdOk op (tfKind f) (tfId f) = true →
    (tfKind f = 3 → s.variant = .kv1a) → testBusy s (tfKind f) (tfId f) = true →
    completes (i f) s fun s' => s' = testAnswer s.heard f 3 0)

/-- The oldest request on channel `ch` of the KRT is `p`, of operation `op` (R422), on memory whose channels do not train
(R190). -/
abbrev krtAt (s : State) (ch op : Nat) (p : List Byte) : Prop :=
  krtRequest s ch = some p ∧ fld p 1 1 = op ∧ krtStalled s p = false

/-- For each command, the parts of the state that it may change; every other part stays as it is. -/
def frameOf : Instr → List Part
  | .sqDoorbell .. =>
    [.regs, .ctxs]
  | .cqDoorbell .. | .heldRecordWrite .. | .mgmtHandshake .. | .mgmtSessionIdleTimeout =>
    [.regs, .mem, .poison, .hostMem, .time, .mortar, .errLog, .errOverflow, .ctxs, .mail, .mgmt, .msix, .msixSent,
     .regPosted]
  | .submissionEntryRead .. =>
    [.nextId, .regs, .mem, .poison, .hostMem, .time, .mortar, .errLog, .errOverflow, .ctxs, .msix, .msixSent,
     .regPosted]
  | .launch .. =>
    [.nextId, .launches]
  | .launchStart .. | .splitComplete .. =>
    [.freeCtr, .regs, .mem, .poison, .hostMem, .time, .tiles, .mortar, .errLog, .errOverflow, .ctxs, .launches,
     .joints, .kv, .links, .conts, .msix, .msixSent, .regPosted]
  | .copy .. =>
    [.nextId, .regs, .mem, .poison, .hostMem, .time, .mortar, .errLog, .errOverflow, .ctxs, .joints, .kv,
     .hostReads, .copies, .links, .conts, .msix, .msixSent, .regPosted]
  | .jointDescAdd .. | .jointDescSet .. | .fenceDescRelease .. | .flashStat .. =>
    [.regs, .mem, .poison, .hostMem, .mortar, .errLog, .errOverflow, .ctxs, .joints, .links, .conts, .msix,
     .msixSent, .regPosted]
  | .jointDescRead .. | .ringNeedbyMiss .. =>
    [.regs, .mem, .poison, .hostMem, .mortar, .errLog, .errOverflow, .ctxs, .msix, .msixSent, .regPosted]
  | .jointDescWaitge .. | .jointDescTicket .. | .jointDescSetticket .. =>
    [.regs, .mem, .poison, .hostMem, .mortar, .errLog, .errOverflow, .ctxs, .joints, .msix, .msixSent, .regPosted]
  | .jointDescSignal .. =>
    [.regs, .mem, .poison, .hostMem, .mortar, .errLog, .errOverflow, .ctxs, .links, .msix, .msixSent, .regPosted]
  | .fenceDesc .. =>
    [.ctxs]
  | .fenceStop .. | .hodMissCancel .. | .nop .. | .seti .. | .addi .. | .add .. | .loop .. | .br ..
  | .brz .. | .brnz .. | .halt .. | .haltComplete .. | .fence .. | .fenceRelease .. | .rdtime ..
  | .split .. | .commandFetchFill .. | .gatherIndexRead .. | .relayStart .. | .multicastStart ..
  | .multicastDropInstant .. =>
    [.regs, .mem, .poison, .hostMem, .time, .tiles, .mortar, .errLog, .errOverflow, .ctxs, .launches, .joints, .kv,
     .links, .conts, .msix, .msixSent, .regPosted]
  | .timedRequestDelivered .. | .lateHostRead .. =>
    [.regs, .mem, .poison, .hostMem, .time, .mortar, .errLog, .errOverflow, .ctxs, .msix, .msixSent, .regPosted]
  | .devtimeLoRead .. | .errlogPopRead .. | .idleLoRead .. | .jointValueLoRead .. | .jointTicketLoRead ..
  | .enLoRead .. | .registerReadClear .. | .holeAccess .. | .bitAliasRead .. =>
    [.regs, .masters, .mortar, .errLog, .errOverflow]
  | .ppReqWrite .. | .srSeedLoWrite .. | .srSeedHiWrite .. | .chCmdRetrain .. | .chCmdFence ..
  | .chCmdUnfence .. | .chCmdSpall .. | .chCmdMarginStb .. | .chCmdMarginVref .. | .brickSupplyWrite ..
  | .scrubPeriodWrite .. | .linkEnableWrite .. | .linkRetrain .. | .rtLoWrite .. | .rtHiWrite ..
  | .collGroupWrite .. | .contCmdCommit .. | .contCmdAbort .. | .contCmdHold .. | .contCmdRelease ..
  | .contEnWrite .. | .jntCfgWrite .. | .protSync .. | .ringEnWrite .. | .kvCtrlWrite .. | .dutyAdmWrite ..
  | .pwrCmdRemeasure .. | .kilnOnWrite .. | .flashOnWrite .. | .storeCmdWarmReset ..
  | .storeCmdSaveConfig .. | .storeCmdCommitSvn .. | .storeCmdPreferA .. | .storeCmdPreferB ..
  | .wdtKick .. | .unlockKeyWrite .. | .registerWrite .. | .bitAliasWrite .. | .ctEnableWrite ..
  | .ctResetWrite .. | .bindEntryWrite .. =>
    [.freeCtr, .nextId, .regs, .mem, .poison, .hostMem, .masters, .time, .tiles, .chans, .chanGen, .mortar,
     .errLog, .errOverflow, .scrubDone, .ctxs, .launches, .joints, .mail, .kv, .flash, .hostReads, .copies,
     .holdup, .kiln, .links, .groups, .colls, .idle, .conts, .power, .trust, .mgmt, .tests, .detourAvoid,
     .detourGen, .msix, .msixSent, .regPosted]
  | .ppPendingApply | .leaseExpiry =>
    [.time, .power]
  | .deadlineMiss .. =>
    [.regs, .mem, .poison, .hostMem, .time, .tiles, .mortar, .errLog, .errOverflow, .ctxs, .launches, .joints, .kv,
     .flash, .links, .conts, .msix, .msixSent, .regPosted]
  | .issueStallRelease .. | .tokenWaitStart .. | .unitWordComplete .. | .wait .. | .mma .. | .mdrain ..
  | .mload .. | .mzero .. | .vld .. | .vst .. | .vfma .. | .vadd .. | .vsub .. | .vmul .. | .vmax ..
  | .vmin .. | .vdiv .. | .vcmp .. | .vsel .. | .vscan .. | .vred .. | .vbrc .. | .vstat .. | .vstatf ..
  | .vmovs .. | .sfeval .. | .sfsincos .. | .sfbas .. | .sfnss .. | .sfload .. | .sfswap .. | .sfprog ..
  | .hodstream .. | .hodrun .. | .hodrecv .. | .hodcmo .. | .tupdate .. | .commitLapMsg .. | .jadd ..
  | .jtry .. | .jticket .. | .jorder .. | .jarrive .. | .jsignal .. | .jread .. | .mbsend .. | .mbrecv .. =>
    [.freeCtr, .nextId, .regs, .mem, .poison, .hostMem, .time, .tiles, .mortar, .errLog, .errOverflow, .ctxs,
     .launches, .joints, .mail, .kv, .links, .conts, .mgmt, .msix, .msixSent, .regPosted]
  | .waitSatisfied .. =>
    [.tiles, .joints]
  | .hodDescriptorTake .. | .multicastReplay .. =>
    [.nextId, .regs, .mem, .poison, .hostMem, .time, .tiles, .mortar, .errLog, .errOverflow, .ctxs, .launches,
     .joints, .kv, .links, .conts, .msix, .msixSent, .regPosted]
  | .hodRequestIssue .. =>
    [.nextId, .regs, .mem, .poison, .hostMem, .time, .tiles, .chans, .mortar, .errLog, .errOverflow, .ctxs,
     .launches, .joints, .kv, .hostReads, .links, .conts, .msix, .msixSent, .regPosted]
  | .hodResponseLand .. =>
    [.nextId, .regs, .mem, .poison, .hostMem, .time, .tiles, .chans, .mortar, .errLog, .errOverflow, .ctxs,
     .launches, .joints, .kv, .links, .conts, .msix, .msixSent, .regPosted]
  | .scratchpadWindowAccess .. =>
    [.regs, .mem, .poison, .hostMem, .masters, .mortar, .errLog, .errOverflow, .ctxs, .regPosted]
  | .channelRequest .. | .refreshDue .. | .retrainStart .. | .marginDone .. =>
    [.chans]
  | .channelLineDone .. =>
    [.nextId, .regs, .mem, .poison, .time, .tiles, .chans, .mortar, .errLog, .errOverflow]
  | .scrubLine .. =>
    [.nextId, .regs, .mem, .poison, .time, .chans, .errLog, .errOverflow, .scrubDone]
  | .brickTempSample .. =>
    [.regs, .mem, .poison, .hostMem, .time, .tiles, .mortar, .bricks, .errLog, .errOverflow, .ctxs, .launches,
     .joints, .kv, .flash, .kiln, .links, .colls, .conts, .power, .msix, .msixSent, .regPosted]
  | .retrainResubmit .. =>
    [.nextId, .regs, .time, .chans]
  | .retrainDone .. =>
    [.nextId, .regs, .mem, .poison, .hostMem, .time, .tiles, .chans, .mortar, .errLog, .errOverflow, .ctxs, .trust,
     .mgmt, .tests, .msix, .msixSent, .regPosted]
  | .channelFenceComplete .. =>
    [.nextId, .time, .tiles, .chans, .mortar, .trust, .mgmt, .tests]
  | .flashCreate .. | .flashTrim .. =>
    [.regs, .mem, .poison, .hostMem, .mortar, .errLog, .errOverflow, .ctxs, .joints, .flash, .links, .conts, .msix,
     .msixSent, .regPosted]
  | .flashDelete .. =>
    [.nextId, .regs, .mem, .poison, .hostMem, .mortar, .errLog, .errOverflow, .ctxs, .joints, .flash, .links,
     .conts, .msix, .msixSent, .regPosted]
  | .flashRead .. =>
    [.nextId, .regs, .mem, .poison, .hostMem, .time, .mortar, .errLog, .errOverflow, .ctxs, .joints, .flash,
     .links, .conts, .msix, .msixSent, .regPosted]
  | .flashReadStreamStart .. =>
    [.tiles, .flash]
  | .flashReadCancel .. =>
    [.regs, .mem, .poison, .hostMem, .tiles, .mortar, .errLog, .errOverflow, .ctxs, .joints, .flash, .kiln, .links,
     .colls, .conts, .msix, .msixSent, .regPosted]
  | .flashWrite .. =>
    [.nextId, .regs, .mem, .poison, .hostMem, .tiles, .mortar, .errLog, .errOverflow, .ctxs, .joints, .flash,
     .hostReads, .holdup, .kiln, .links, .colls, .conts, .msix, .msixSent, .regPosted]
  | .flashPageReadDone .. | .flashReadRetry .. | .flashRebuildDone .. =>
    [.freeCtr, .regs, .mem, .poison, .hostMem, .time, .tiles, .mortar, .errLog, .errOverflow, .ctxs, .joints,
     .flash, .kiln, .links, .colls, .conts, .msix, .msixSent, .regPosted]
  | .flashProgramDone .. =>
    [.freeCtr, .nextId, .regs, .mem, .poison, .hostMem, .time, .tiles, .mortar, .errLog, .errOverflow, .ctxs,
     .joints, .kv, .flash, .holdup, .kiln, .links, .groups, .colls, .conts, .msix, .msixSent, .regPosted]
  | .flashDieTimeout .. =>
    [.flash, .trust]
  | .flashRelocate .. =>
    [.regs, .flash]
  | .hostReadCompletion .. | .hostCplTimeout .. =>
    [.freeCtr, .nextId, .regs, .mem, .poison, .hostMem, .time, .tiles, .mortar, .errLog, .errOverflow, .ctxs,
     .joints, .kv, .flash, .hostReads, .copies, .holdup, .kiln, .links, .colls, .conts, .msix, .msixSent,
     .regPosted]
  | .holdupMeasure .. =>
    [.freeCtr, .nextId, .regs, .mem, .poison, .hostMem, .time, .tiles, .mortar, .errLog, .errOverflow, .ctxs,
     .launches, .joints, .kv, .flash, .holdup, .kiln, .links, .groups, .colls, .conts, .power, .trust, .msix,
     .msixSent, .regPosted]
  | .kilnBatch .. =>
    [.nextId, .regs, .mem, .poison, .hostMem, .mortar, .errLog, .errOverflow, .ctxs, .kiln, .msix, .msixSent,
     .regPosted]
  | .kilnSlotStart .. | .kilnHeaderReadDone .. | .kilnSampleDecoded .. =>
    [.nextId, .regs, .mem, .poison, .hostMem, .time, .mortar, .errLog, .errOverflow, .ctxs, .flash, .hostReads,
     .kiln, .links, .trust, .mgmt, .tests, .msix, .msixSent, .regPosted]
  | .kilnBackfillAssign .. =>
    [.regs, .mem, .poison, .hostMem, .time, .mortar, .errLog, .errOverflow, .ctxs, .kiln, .regPosted]
  | .kilnPalletDelivered .. =>
    [.regs, .mem, .poison, .hostMem, .mortar, .errLog, .errOverflow, .ctxs, .joints, .kiln, .links, .conts, .msix,
     .msixSent, .regPosted]
  | .arkelFlitReceive .. | .laserSupplyLoss .. =>
    [.freeCtr, .nextId, .regs, .mem, .poison, .hostMem, .time, .mortar, .errLog, .errOverflow, .ctxs, .joints, .kv,
     .kiln, .links, .groups, .colls, .conts, .trust, .mgmt, .msix, .msixSent, .regPosted]
  | .arkelReplayTimeout .. =>
    [.regs, .links]
  | .arkelWriteMsg .. | .collReduceScatter .. | .collAllReduce .. | .collAllGather .. | .collAllToAll ..
  | .collPermute .. | .collVote .. | .collLand .. | .collSetupTimeout .. | .collAbortMsg ..
  | .collHeaderPassMsg .. | .collMantissaPassMsg .. | .collCountsMsg .. | .collBucketMsg ..
  | .collPermuteDataMsg .. | .collVoteMsg .. | .collStatisticsMsg .. =>
    [.freeCtr, .nextId, .regs, .mem, .poison, .hostMem, .time, .mortar, .errLog, .errOverflow, .ctxs, .joints, .kv,
     .links, .groups, .colls, .conts, .msix, .msixSent, .regPosted]
  | .arkelReadRequestMsg .. =>
    [.regs, .mortar, .errLog, .errOverflow, .ctxs, .links]
  | .arkelReadResponseMsg .. =>
    [.regs, .mem, .poison, .hostMem, .time, .mortar, .errLog, .errOverflow, .ctxs, .kiln, .links, .msix, .msixSent,
     .regPosted]
  | .jointSignalMsg .. =>
    [.regs, .ctxs, .joints, .links, .conts]
  | .unreachableNotice .. | .arkelLinkControlFlit .. | .arkelLinkDown .. | .removalAnnounce =>
    [.freeCtr, .nextId, .regs, .mem, .poison, .hostMem, .time, .mortar, .errLog, .errOverflow, .ctxs, .joints, .kv,
     .kiln, .links, .groups, .colls, .conts, .msix, .msixSent, .regPosted]
  | .arkelLightDetect .. | .arkelBringupRetry .. | .arkelSpareSwapDone .. | .timeExchangeSend ..
  | .laserSupplyLightReturn .. =>
    [.links]
  | .arkelLaneTrainDone .. | .arkelFibreRejoin .. =>
    [.links, .trust]
  | .arkelLaneFail .. =>
    [.regs, .mem, .poison, .hostMem, .time, .mortar, .errLog, .errOverflow, .ctxs, .links, .trust, .mgmt, .msix,
     .msixSent, .regPosted]
  | .timeExchangeFlit .. =>
    [.time, .links]
  | .collSetupMsg .. | .collGatherDataMsg .. =>
    [.freeCtr, .nextId, .regs, .mem, .poison, .hostMem, .time, .mortar, .errLog, .errOverflow, .ctxs, .joints, .kv,
     .flash, .holdup, .links, .groups, .colls, .conts, .msix, .msixSent, .regPosted]
  | .idleTick =>
    [.idle]
  | .contTimeoutExpiry .. =>
    [.regs, .mem, .poison, .hostMem, .mortar, .errLog, .errOverflow, .ctxs, .conts, .msix, .msixSent, .regPosted]
  | .jointWaitRelease .. =>
    [.regs, .mem, .poison, .hostMem, .tiles, .mortar, .errLog, .errOverflow, .ctxs, .joints, .links, .conts, .msix,
     .msixSent, .regPosted]
  | .mbTxSend .. | .krtCert .. =>
    [.nextId, .regs, .mem, .poison, .hostMem, .time, .mortar, .errLog, .errOverflow, .ctxs, .mail, .mgmt, .msix,
     .msixSent, .regPosted]
  | .mbTimeoutExpiry .. =>
    [.mail]
  | .mbReceiverStateChange .. =>
    [.regs, .mem, .poison, .hostMem, .time, .mortar, .errLog, .errOverflow, .ctxs, .mail, .trust, .mgmt, .msix,
     .msixSent, .regPosted]
  | .functionLevelReset .. | .functionEnableChange .. | .hostPortReset =>
    [.freeCtr, .nextId, .regs, .mem, .poison, .hostMem, .time, .tiles, .mortar, .errLog, .errOverflow, .ctxs,
     .launches, .joints, .kv, .flash, .hostReads, .copies, .holdup, .kiln, .links, .colls, .conts, .msix,
     .msixSent, .regPosted]
  | .contextResetComplete .. =>
    [.regs, .mem, .poison, .hostMem, .masters, .time, .tiles, .chans, .mortar, .errLog, .errOverflow, .ctxs,
     .joints, .mail, .kv, .flash, .hostReads, .copies, .kiln, .links, .colls, .trust, .mgmt, .tests, .msix,
     .msixSent, .regPosted]
  | .msixUnmask .. =>
    [.msix, .msixSent]
  | .kvCmdWindowWrite .. =>
    [.regs, .mem, .poison, .hostMem, .masters, .mortar, .errLog, .errOverflow, .ctxs, .joints, .kv, .links, .conts,
     .regPosted]
  | .kvRunTimeout .. =>
    [.regs, .masters]
  | .kvLookup .. | .kvAlloc .. | .kvPublish .. | .kvPin .. | .kvUnpin .. | .kvRef .. | .kvUnref ..
  | .kvWprepCopyDone .. =>
    [.freeCtr, .regs, .mem, .poison, .hostMem, .mortar, .errLog, .errOverflow, .ctxs, .joints, .kv, .links, .conts,
     .regPosted]
  | .kvWprep .. =>
    [.regs, .mem, .poison, .hostMem, .mortar, .errLog, .errOverflow, .ctxs, .joints, .kv, .links, .conts,
     .regPosted]
  | .kvEpochAdvance =>
    [.freeCtr, .regs, .mem, .poison, .kv]
  | .capFrame .. =>
    [.regs, .time, .power, .mgmt]
  | .reportTimer =>
    [.power, .mgmt]
  | .powerWindowEnd .. =>
    [.freeCtr, .power]
  | .curVpUpdate .. =>
    [.freeCtr, .time]
  | .dutyQuantum .. =>
    [.freeCtr, .nextId, .regs, .mem, .poison, .hostMem, .time, .tiles, .mortar, .errLog, .errOverflow, .ctxs,
     .launches, .joints, .mail, .kv, .links, .conts, .power, .mgmt, .msix, .msixSent, .regPosted]
  | .collExemptExpiry | .unitDrainDone .. | .unitPowerUpDone .. | .coolantTemperatureSample .. =>
    [.power]
  | .shedStageEnter .. | .junctionSensorSample .. | .presentRelease =>
    [.regs, .mem, .poison, .hostMem, .time, .tiles, .mortar, .errLog, .errOverflow, .ctxs, .launches, .joints, .kv,
     .flash, .kiln, .links, .colls, .conts, .power, .msix, .msixSent, .regPosted]
  | .shedStageExit =>
    [.time, .kiln, .power]
  | .safeStopCommit =>
    [.freeCtr, .nextId, .regs, .mem, .poison, .hostMem, .time, .mortar, .errLog, .errOverflow, .ctxs, .joints, .kv,
     .kiln, .links, .groups, .colls, .conts, .power, .trust, .msix, .msixSent, .regPosted]
  | .tileReplicaSample .. =>
    [.regs, .mem, .poison, .hostMem, .tiles, .mortar, .errLog, .errOverflow, .ctxs, .power, .trust, .mgmt, .tests,
     .msix, .msixSent, .regPosted]
  | .remeasureDone .. =>
    [.power, .trust]
  | .thermalThrottleStep =>
    [.regs, .power]
  | .coldReset .. =>
    [.freeCtr, .regs, .mem, .poison, .hostMem, .masters, .time, .tiles, .chans, .chanBoot, .chanGen, .mortar,
     .bricks, .errLog, .errOverflow, .scrubDone, .ctxs, .launches, .joints, .mail, .kv, .flash, .hostReads,
     .copies, .holdup, .kiln, .links, .groups, .colls, .idle, .conts, .power, .trust, .mgmt, .tests, .detourAvoid,
     .detourGen, .msix, .msixSent, .regPosted]
  | .storeRecordCommit | .storeCompact =>
    [.regs, .holdup, .trust]
  | .krtAttest .. =>
    [.freeCtr, .nextId, .regs, .mem, .poison, .hostMem, .time, .mortar, .errLog, .errOverflow, .ctxs, .mail, .mgmt,
     .msix, .msixSent, .regPosted]
  | .krtExtend .. | .krtPeerAdd .. | .krtPeerDel .. =>
    [.nextId, .regs, .mem, .poison, .hostMem, .time, .mortar, .errLog, .errOverflow, .ctxs, .mail, .trust, .mgmt,
     .msix, .msixSent, .regPosted]
  | .wdtExpiry =>
    [.regs, .mem, .poison, .hostMem, .time, .mortar, .errLog, .errOverflow, .ctxs, .mail, .trust, .mgmt, .tests,
     .msix, .msixSent, .regPosted]
  | .unlockExpiry .. =>
    [.masters]
  | .testFence .. =>
    [.regs, .mem, .poison, .hostMem, .time, .tiles, .chans, .mortar, .errLog, .errOverflow, .ctxs, .kiln, .links,
     .trust, .mgmt, .tests, .msix, .msixSent, .regPosted]
  | .tileFenceEffect .. =>
    [.regs, .mem, .poison, .hostMem, .tiles, .mortar, .errLog, .errOverflow, .ctxs, .trust, .mgmt, .tests, .msix,
     .msixSent, .regPosted]
  | .testUnfence .. =>
    [.regs, .mem, .poison, .hostMem, .time, .tiles, .chans, .mortar, .errLog, .errOverflow, .ctxs, .kiln, .links,
     .trust, .mgmt, .msix, .msixSent, .regPosted]
  | .testSelftest .. =>
    [.mgmt, .tests]
  | .selftestDone .. =>
    [.freeCtr, .regs, .mem, .poison, .hostMem, .tiles, .chans, .mortar, .errLog, .errOverflow, .ctxs, .power,
     .trust, .mgmt, .tests, .msix, .msixSent, .regPosted]
  | .testSpall .. =>
    [.nextId, .regs, .mem, .poison, .hostMem, .time, .tiles, .chans, .mortar, .errLog, .errOverflow, .ctxs, .trust,
     .mgmt, .tests, .detourAvoid, .detourGen, .msix, .msixSent, .regPosted]
  | .spallTileStop .. =>
    [.regs, .mem, .poison, .hostMem, .time, .tiles, .chans, .mortar, .errLog, .errOverflow, .ctxs, .trust, .mgmt,
     .tests, .msix, .msixSent, .regPosted]
  | .testRestore .. =>
    [.freeCtr, .mem, .poison, .tiles, .chans, .power, .trust, .mgmt]
  | .translationLayerLoaded =>
    [.flash]
  | .lifetimeHourlyRecord =>
    [.trust]
  | .retainedStoreRecordDone .. =>
    [.freeCtr, .regs, .mem, .poison, .hostMem, .masters, .time, .tiles, .chans, .chanGen, .mortar, .errLog,
     .errOverflow, .scrubDone, .ctxs, .launches, .joints, .mail, .kv, .flash, .hostReads, .copies, .kiln, .links,
     .groups, .colls, .idle, .conts, .power, .trust, .mgmt, .tests, .detourAvoid, .detourGen, .msix, .msixSent,
     .regPosted]

/-- The sum of blocks of mantissas (R112 to R114): one list after another is added. -/
def sumBlocks (n : Nat) (bs : List (List Int)) : List Int := bs.foldl addInts (List.replicate n 0)

end Sys2Proof.Machine

open Sys2Proof Sys2Proof.Machine

/-- R65: NOP, SETI, ADDI, ADD and RDTIME complete: the scalar register DST holds the result modulo 2^64, S0 stays 0
(R62), the word's tokens are taken and signalled, and the program goes on after the word. (Readings: log entry 11.) -/
def Obligations.ScalarWordsComplete : Prop :=
  scalarWord .nop 0x00 (fun _ _ x => x.advance) ∧
  scalarWord .seti 0x01 (fun _ w x => (x.setS (cwf w 92 4) (cwf w 0 64)).advance) ∧
  scalarWord .addi 0x02 (fun _ w x => (x.setS (cwf w 92 4) (x.sreg (cwf w 88 4) + cwf w 0 64)).advance) ∧
  scalarWord .add 0x03 (fun _ w x => (x.setS (cwf w 92 4) (x.sreg (cwf w 88 4) + x.sreg (cwf w 84 4))).advance) ∧
  scalarWord .rdtime 0x0A (fun s w x => (x.setS (cwf w 92 4) s.time.devTime).advance)

/-- R65: LOOP begins a level of COUNT turns over the words up to LAST, or skips its body when COUNT is 0; BR goes to
TGT, BRZ and BRNZ go there when their register is, or is not, 0; a word at the end of a loop goes back to its first
word while turns are left. (Readings: log entries 11, 13.) -/
def Obligations.LoopsAndBranchesComplete : Prop :=
  (∀ s t w, wordAt s t 0 0x04 w → tokenRoom (s.tile t) w →
    ((s.tile t).sreg (cwf w 92 4) = 0 ∨ (s.tile t).loops.length < 4) →
    completes (.loop t) s fun s' => onlyTile s s' t ∧
      (let x := (s.tile t).takeToken w
       let n := x.sreg (cwf w 92 4)
       let next := (x.pc + 1) % 2 ^ 20
       s'.tile t = Tile.signalled
         (if n = 0 then { x with pc := (afterWord x.loops (cwf w 0 20)).1, loops := (afterWord x.loops (cwf w 0 20)).2 }
          else { x with pc := next, loops := { first := next, last := cwf w 0 20, left := n } :: x.loops }) w)) ∧
  scalarWord .br 0x05 (fun _ w x => { x with pc := cwf w 0 20 }) ∧
  scalarWord .brz 0x06 (fun _ w x => if x.sreg (cwf w 92 4) = 0 then { x with pc := cwf w 0 20 } else x.advance) ∧
  scalarWord .brnz 0x07 (fun _ w x => if x.sreg (cwf w 92 4) = 0 then x.advance else { x with pc := cwf w 0 20 }) ∧
  (∀ (x : Tile), x.loops = [] → (x.advance.pc = (x.pc + 1) % 2 ^ 20 ∧ x.advance.loops = [])) ∧
  (∀ (x : Tile) l r, x.loops = l :: r → l.last ≠ x.pc → (x.advance.pc = (x.pc + 1) % 2 ^ 20 ∧ x.advance.loops = l :: r)) ∧
  (∀ (x : Tile) l r, x.loops = l :: r → l.last = x.pc → 1 < l.left →
    (x.advance.pc = l.first ∧ x.advance.loops = { l with left := l.left - 1 } :: r)) ∧
  (∀ (x : Tile) l r, x.loops = l :: r → l.last = x.pc → l.left ≤ 1 →
    (x.advance.pc, x.advance.loops) = afterWord r x.pc)

/-- R65, R82: HALT, FENCE and SPLIT hold the sequencer; once every earlier word and hod descriptor is over, the tile
leaves its launch, goes on after the FENCE, or goes on with the new split. (Readings: log entries 11, 81.) -/
def Obligations.SequencerHoldsComplete : Prop :=
  (∀ s t w, wordAt s t 0 0x08 w → completes (.halt t) s fun s' => onlyTile s s' t ∧
    s'.tile t = { (s.tile t).takeToken w with stall := .halt }) ∧
  (∀ s t w, wordAt s t 0 0x09 w → completes (.fence t) s fun s' => onlyTile s s' t ∧
    s'.tile t = { (s.tile t).takeToken w with stall := .fence }) ∧
  (∀ s t w, wordAt s t 0 0x0C w → completes (.split t) s fun s' => onlyTile s s' t ∧
    s'.tile t = { (s.tile t).takeToken w with stall := .split (cwf w 94 2) }) ∧
  (∀ s t, (s.tile t).run = .running → (s.tile t).stall = .halt → (s.tile t).drained = true →
    completes (.haltComplete t) s fun s' => leftLaunch s s' t .idle) ∧
  (∀ s t w, heldAt s t .fence w → completes (.fenceRelease t) s fun s' => onlyTile s s' t ∧
    s'.tile t = (s.tile t).released w) ∧
  (∀ s t c w, heldAt s t (.split c) w → completes (.splitComplete t) s fun s' => otherTiles s s' t ∧
    (s'.tile t).split = c ∧ (s'.tile t).stall = .none ∧ (s'.tile t).pc = ((s.tile t).released w).pc ∧
    (s'.tile t).loops = ((s.tile t).released w).loops ∧ (s'.tile t).tokens = ((s.tile t).released w).tokens ∧
    (s'.tile t).scratchBytes = 98304 - 16384 * c ∧
    (c < (s.tile t).split → (s'.tile t).cache = []) ∧
    ((s.tile t).split ≤ c → (s'.tile t).cache = (s.tile t).cache ∧ s'.mem = s.mem))

/-- The command words of units 1 to 6, with unit and opcode. -/
def unitCommands (t : Nat) : List (Instr × Nat × Nat) :=
  [(.mma t, 1, 0x10), (.mdrain t, 1, 0x11), (.mload t, 1, 0x12), (.mzero t, 1, 0x13),
   (.vld t, 2, 0x20), (.vst t, 2, 0x21), (.vfma t, 2, 0x22), (.vadd t, 2, 0x23), (.vsub t, 2, 0x24),
   (.vmul t, 2, 0x25), (.vmax t, 2, 0x26), (.vmin t, 2, 0x27), (.vdiv t, 2, 0x28), (.vcmp t, 2, 0x29),
   (.vsel t, 2, 0x2A), (.vscan t, 2, 0x2B), (.vred t, 2, 0x2C), (.vbrc t, 2, 0x2D), (.vstat t, 2, 0x2E),
   (.vstatf t, 2, 0x2F), (.vmovs t, 2, 0x30),
   (.sfeval t, 3, 0x40), (.sfsincos t, 3, 0x41), (.sfbas t, 3, 0x42), (.sfnss t, 3, 0x43), (.sfload t, 3, 0x44),
   (.sfswap t, 3, 0x45), (.sfprog t, 3, 0x46),
   (.hodstream t, 4, 0x50), (.hodrun t, 4, 0x51), (.hodrecv t, 4, 0x52), (.hodcmo t, 4, 0x53),
   (.tupdate t, 5, 0x70),
   (.wait t, 6, 0x60), (.jadd t, 6, 0x61), (.jtry t, 6, 0x62), (.jticket t, 6, 0x63), (.jorder t, 6, 0x64),
   (.jarrive t, 6, 0x65), (.jsignal t, 6, 0x66), (.jread t, 6, 0x67), (.mbsend t, 6, 0x68), (.mbrecv t, 6, 0x69)]

/-- R60, R61, R63: a word of a unit that the sequencer meets joins the unit's queue of 16 and the program goes on;
the queue's head then starts if it may. A full queue, and a word that the command cache lacks, stall the sequencer.
(Readings: log entries 11, 12.) -/
def Obligations.UnitWordsJoinTheirQueue : Prop :=
  (∀ s t w, ∀ c ∈ unitCommands t, (s.tile t).run = .running → (s.tile t).stall = .none →
    tfind? (s.tile t).cmdCache (s.tile t).pc = some w → cwUnit w = c.2.1 → cwOp w = c.2.2 →
    completes c.1 s fun s' => s' =
      (if ((s.tile t).unit c.2.1).queue.length < 16 then startUnit (s.setTile t ((s.tile t).placed c.2.1 w)) t c.2.1
       else s.setTile t { s.tile t with stall := .queueFull })) ∧
  (∀ s t, ∀ c ∈ unitCommands t, (s.tile t).run = .running → (s.tile t).stall = .none →
    tfind? (s.tile t).cmdCache (s.tile t).pc = none →
    completes c.1 s fun s' => s' = s.setTile t { s.tile t with stall := .fetch })

/-- R60, R61, R63, R75, R108, R121: the events of the sequencer and of the units: a fetch fills the command cache, a
stalled word is placed, the head of a queue starts, and a word that is over gives its flags to the tile's and the
context's sticky words and its token, and lets the next word start. (Readings: log entries 2, 10, 12.) -/
def Obligations.UnitEventsComplete : Prop :=
  (∀ s t, (s.tile t).run = .running → ((s.tile t).stall = .fetch ∨
      ((s.tile t).stall = .none ∧ tfind? (s.tile t).cmdCache (s.tile t).pc = none)) →
    (let x := s.tile t
     let n := min 8 (2 ^ 20 - x.pc)
     let r := agentReadAll s x.ctx (x.image + 16 * x.pc) (16 * n) t
     s.stalled (x.image + 16 * x.pc) (16 * n) = false → r.1.ok = true → r.1.bad = [] → completes (.commandFetchFill t false) s fun s' =>
       s' = r.2.modTile t (fun x => { x with stall := .none, cmdCache := (List.range n).foldl (fun c i =>
         cacheWord c (x.pc + i) (BitVec.ofNat 128 (fld r.1.data (16 * i) 16))) x.cmdCache }))) ∧
  (∀ s t w, (s.tile t).run = .running → (s.tile t).stall = .queueFull →
    tfind? (s.tile t).cmdCache (s.tile t).pc = some w → ((s.tile t).unit (cwUnit w)).queue.length < 16 →
    completes (.issueStallRelease t) s fun s' =>
      s' = startUnit (s.setTile t ((s.tile t).placed (cwUnit w) w)) t (cwUnit w)) ∧
  (∀ s t u q rest, (s.tile t).run = .running → ((s.tile t).unit u).queue = q :: rest →
    ((s.tile t).unit (slotOf u q.word)).active = none → (s.tile t).tokenReady q.word = true →
    (s.tile t).hazard u q = false → (u = 1 → matHazard (s.tile t) q.word = false) → s.power.issueOpen = true →
    completes (.tokenWaitStart t u) s fun s' =>
      ∀ v a y s1, v = slotOf u q.word → a = q.running ((s.tile t).latchOf u q.word) →
        y = ((s.tile t).takeToken q.word).setUnit u { (s.tile t).unit u with queue := rest } →
        s1 = settle t v q.addr (runWord (s.setTile t (y.setUnit v { y.unit v with active := some a })) t a) →
        s' = if u = 1 then startHead s1 t 1 else s1) ∧
  (∀ s t u a, (s.tile t).run = .running → ((s.tile t).unit u).active = some a → a.finished = true →
    completes (.unitWordComplete t u) s fun s' => ∃ s1,
      s1 = raiseTile (s.setTile t ((s.tile t).setUnit u { (s.tile t).unit u with active := none })) t (s.tile t).ctx
        a.flags.toNat ∧
      s' = startUnit (if cwSigEn a.word && cwOp a.word != 0x51 then signalToken s1 t (cwSigTok a.word) a.addr else s1)
        t (if u = 7 then 1 else u)) ∧
  (∀ s t ctx f, s.Canon → (raiseTile s t ctx f).reg 0x13014 t = s.reg 0x13014 t ||| f % 2 ^ 32 ∧
    (raiseTile s t ctx f).reg 0x14010 ctx = s.reg 0x14010 ctx ||| f % 2 ^ 32) ∧
  (∀ (c : Tbl CWord) a w, rising (c.map (fun e => e.1)) = true → tfind? (cacheWord c a w) a = some w ∧
    ∀ b, b % 1024 ≠ a % 1024 → tfind? (cacheWord c a w) b = tfind? c b)

/-- R66, R67, R55: a WAIT whose condition holds is over at once, one whose condition does not hold keeps its value
and need-by time and waits; it ends when the condition holds; a real-time WAIT that misses its need-by time ends in
its fallback program, or stops the program with fault 0x0A. (Readings: log entries 13, 14.) -/
def Obligations.WaitWordsComplete : Prop :=
  unitWord .wait 6 0x60
    (fun s t w => waitFault s t w = none ∧ waitHolds s t w ((s.tile t).sreg (cwf w 74 4)) = true)
    (fun s _ _ => (s, 0)) ∧
  unitWaits .wait 6 0x60
    (fun s t w => waitFault s t w = none ∧ waitHolds s t w ((s.tile t).sreg (cwf w 74 4)) = false)
    (fun s t w =>
      let v := (s.tile t).sreg (cwf w 74 4)
      let s1 := s.modTile t (fun x => x.modActive 6 (fun a => { a with latch := [v, x.sreg (cwf w 70 4)] }))
      if waKind w = 0 then addWait s1 (waObject w) (.tile t) (.ge v) else s1) ∧
  (∀ s t a, (s.tile t).waitActive = some a → waitHolds s t a.word (a.latch.getD 0 0) = true →
    completes (.waitSatisfied t) s fun s' =>
      s'.tile t = (s.tile t).finish 6 0 ∧ otherTiles s s' t ∧
      s.sameBut s' [.tiles, .joints] ∧
      (∀ e ∈ s'.joints, ∀ p ∈ e.2.waits, p.1 ≠ JWho.tile t)) ∧
  (∀ s t a f, (s.tile t).waitActive = some a → waitRt s t a.word = true → a.latch.getD 1 0 ≤ s.now →
    waitHolds s t a.word (a.latch.getD 0 0) = false → waFallback a.word = some f →
    completes (.deadlineMiss t) s fun s' =>
      (s'.tile t).pc = f ∧ (s'.tile t).stall = .none ∧ (s'.tile t).run = .running ∧ otherTiles s s' t ∧
      (s'.tile t).sregs = (s.tile t).sregs ∧
      (∀ u q, q ∈ ((s'.tile t).unit u).queue → q.seq < a.seq) ∧
      s'.reg 0x12020 0 = satAdd32 (s.reg 0x12020 0) 1 ∧ s'.reg 0x1201C 0 = satAdd32 (s.reg 0x1201C 0) 1) ∧
  (∀ s t a, (s.tile t).waitActive = some a → waitRt s t a.word = true → a.latch.getD 1 0 ≤ s.now →
    waitHolds s t a.word (a.latch.getD 0 0) = false → waFallback a.word = none →
    completes (.deadlineMiss t) s fun s' =>
      (s'.tile t).run = .faulted ∧ (s'.tile t).pc = a.addr ∧ s'.reg 0x1300C t = 0x0A ∧ otherTiles s s' t)

/-- R377 to R381: the joint words of a tile. JADD, JTICKET, JREAD and JARRIVE write the joint's old value, its old
ticket, its value and the value of the arrival to DST_REG; JTRY subtracts only what the joint has; JORDER adds when
its ticket has come, and JARRIVE and JORDER wait otherwise; JSIGNAL sends its message. (Readings: log entries 10,
11.) -/
def Obligations.JointWordsComplete : Prop :=
  let ok := fun (s : State) (t : Nat) (w : CWord) => s.jointOk (s.tile t).ctx (jwJoint w) = true
  let val := fun (s : State) (t : Nat) (w : CWord) => (s.tile t).sreg (jwVal w)
  unitWord .jadd 6 0x61 ok (fun s t w =>
    (jointAdd (s.putS t (jwDst w) (s.joint (jwJoint w)).value.toNat) (jwJoint w) (val s t w) 4, 0)) ∧
  unitWord .jtry 6 0x62 (fun s t w => ok s t w ∧ val s t w ≤ (s.joint (jwJoint w)).value.toNat) (fun s t w =>
    (contWatch ((s.setJointValue (jwJoint w) ((s.joint (jwJoint w)).value.toNat - val s t w) none).putS t (jwDst w) 1),
      0)) ∧
  unitWord .jtry 6 0x62 (fun s t w => ok s t w ∧ (s.joint (jwJoint w)).value.toNat < val s t w) (fun s t w =>
    (s.putS t (jwDst w) 0, 0)) ∧
  unitWord .jticket 6 0x63 ok (fun s t w =>
    let j := s.joint (jwJoint w)
    ((s.setJoint (jwJoint w) { j with ticket := j.ticket + 1 }).putS t (jwDst w) j.ticket.toNat, 0)) ∧
  unitWord .jorder 6 0x64 (fun s t w => ok s t w ∧ (s.joint (jwJoint w)).ticket.toNat = (s.tile t).sreg (jwSeq w))
    (fun s t w =>
      let j := s.joint (jwJoint w)
      (jointAdd (s.setJoint (jwJoint w) { j with ticket := j.ticket + 1 }) (jwJoint w) (val s t w) 4, 0)) ∧
  unitWaits .jorder 6 0x64 (fun s t w => ok s t w ∧ (s.joint (jwJoint w)).ticket.toNat ≠ (s.tile t).sreg (jwSeq w))
    (fun s t w => addWait s (jwJoint w) (.tile t) (.order ((s.tile t).sreg (jwSeq w)) (val s t w))) ∧
  unitWord .jarrive 6 0x65 (fun s t w => ok s t w ∧ val s t w ≤ ((s.joint (jwJoint w)).value + 1).toNat) (fun s t w =>
    ((jointAdd s (jwJoint w) 1 4).putS t (jwDst w) ((s.joint (jwJoint w)).value + 1).toNat, 0)) ∧
  unitWaits .jarrive 6 0x65 (fun s t w => ok s t w ∧ ((s.joint (jwJoint w)).value + 1).toNat < val s t w) (fun s t w =>
    addWait ((jointAdd s (jwJoint w) 1 4).putS t (jwDst w) ((s.joint (jwJoint w)).value + 1).toNat) (jwJoint w) (.tile t)
      (.ge (val s t w))) ∧
  unitWord .jread 6 0x67 ok (fun s t w => (s.putS t (jwDst w) (s.joint (jwJoint w)).value.toNat, 0)) ∧
  unitWord .jsignal 6 0x66
    (fun s t w => (sendSignal s (s.tile t).ctx (jwRoute w) (jwRJoint w) (val s t w) (65536 * t) 1).1 = .sent)
    (fun s t w => ((sendSignal s (s.tile t).ctx (jwRoute w) (jwRJoint w) (val s t w) (65536 * t) 1).2, 0))

/-- R68 to R80, R89 to R97, R108: the matrix words. MMA runs each quadrant on its accumulator set, counts the array steps
that it takes and charges those of R76 to the launch's admitted request; MDRAIN stores the sets in the output format,
raising its flags as it writes, and empties them unless KEEP is set; MLOAD makes FP32 sets of 256 words each; MZERO
empties its sets. (Readings: log entries 10, 20,
79, 98.) -/
def Obligations.MatrixWordsComplete : Prop :=
  unitWord .mma 1 0x10
    (fun s t w => (mmaOf (s.tile t) w).fault (s.tile t) = none ∧ ((mmaOf (s.tile t) w).accumulate = true →
      ∀ n ∈ (mmaOf (s.tile t) w).sets, ((s.tile t).accSet n).clash (fmtFp32Path (mmaOf (s.tile t) w).fa) = false))
    (fun s t w =>
      let x := s.tile t
      let m := mmaOf x w
      let r := m.sets.mapIdx (fun q n => (n, m.quadrant s t (q / 2) (q % 2) (x.accSet n)))
      (chargeSteps ((s.modTile t (fun x => r.foldl (fun x y => x.setAcc y.1 y.2.1) x)).bump 0x13010 t m.stepsTaken) t
          m.steps,
        r.foldl (fun f y => f ||| y.2.2) 0)) ∧
  (∀ o, unitWord .mdrain 1 0x11
    (fun s t w =>
      let x := s.tile t
      let sets := mdSets w
      outFmt (cwf w 77 3) = some o ∧ mdGroupBad w = false ∧
      (o = .int32 → ∀ n ∈ sets, (x.accSet n).intOk = true) ∧
      (cwb w 76 = true → o ≠ .int32 ∧ o ≠ .float .fp32 ∧ o ≠ .float .fp16) ∧
      x.fits (mdAddr x w) (256 * o.bytes * sets.length) = true ∧
      blocksOk (mdAddr x w) sets.length (256 * o.bytes) = true)
    (fun s t w =>
      let x := s.tile t
      let sets := mdSets w
      let r := sets.mapIdx (fun q n =>
        drainBlock x (x.accSet n) o (mdAxis w) (cwb w 76) (x.sreg (cwf w 70 4) + 256 * q))
      let s := s.setScratch t (mdAddr x w) (r.flatMap (fun y => y.1))
      let s := if cwb w 75 then s else s.modTile t (fun x => sets.foldl (fun x n => x.setAcc n .empty) x)
      (raiseTile s t x.ctx (r.foldl (fun f y => f ||| y.2) 0), 0))) ∧
  unitWord .mload 1 0x12
    (fun s t w =>
      let x := s.tile t
      mdGroupBad w = false ∧ x.fits (mdAddr x w) (1024 * (mdSets w).length) = true ∧
      blocksOk (mdAddr x w) (mdSets w).length 1024 = true)
    (fun s t w =>
      let a := mdAddr (s.tile t) w
      (s.modTile t (fun x => ((mdSets w).mapIdx (fun q n => (n, AccSet.fp32 ((List.range 256).map (fun n =>
        BitVec.ofNat 32 (leNat (s.scratch t
          (a + 1024 * q + 4 * (if mdAxis w then n % 16 * 16 + n / 16 else n)) 4))))))).foldl
          (fun x y => x.setAcc y.1 y.2) x), 0)) ∧
  unitWord .mzero 1 0x13 (fun _ _ w => mdGroupBad w = false)
    (fun s t w => (s.modTile t (fun x => (mdSets w).foldl (fun x n => x.setAcc n .empty) x), 0))

/-- R122 to R125: the elementwise vector words. In each active lane of VD stands the result on the same lanes of VA,
VB and VC, an inactive lane keeps its value and raises no flag. (Readings: log entries 10, 11.) -/
def Obligations.ElementWordsComplete : Prop :=
  let ok := fun (_ : State) (_ : Nat) (w : CWord) => vType w ≠ 3
  let res := fun (op : Nat) (s : State) (t : Nat) (w : CWord) =>
    let x := s.tile t
    let n := laneBits (vType w)
    let r := mapLanes (x.vreg (vVD w)) n (x.vmask (vMask w)) (fun l => laneOp (vType w) op
      (lane (x.vreg (vVA w)) n l) (lane (x.vreg (vVB w)) n l) (lane (x.vreg (vVC w)) n l))
    (s.modTile t (fun x => x.setV (vVD w) r.1), r.2)
  unitWord .vfma 2 0x22 ok (res 0x22) ∧ unitWord .vadd 2 0x23 ok (res 0x23) ∧ unitWord .vsub 2 0x24 ok (res 0x24) ∧
  unitWord .vmul 2 0x25 ok (res 0x25) ∧ unitWord .vmax 2 0x26 ok (res 0x26) ∧ unitWord .vmin 2 0x27 ok (res 0x27) ∧
  unitWord .vdiv 2 0x28 ok (res 0x28)

/-- R120, R125: lane `l` of a register that a word writes under a mask holds the low bits of the lane's result when the
lane is active and what it held before when it is not; a register holds 1,024 bits. -/
def Obligations.LanesWrittenUnderMask : Prop :=
  (∀ old n mask l (f : Nat → Nat × Nat), (n = 1 ∨ n = 16 ∨ n = 32) → l < 1024 / n →
    lane (mapLanes old n mask f).1 n l = if bitAt mask l then (f l).1 % 2 ^ n else lane old n l) ∧
  (∀ old n mask (f : Nat → Nat × Nat), (n = 1 ∨ n = 16 ∨ n = 32) → (mapLanes old n mask f).1 < 2 ^ 1024) ∧
  (∀ (x : Tile) i v, v < 2 ^ 1024 → (x.setV i v).vreg i = v ∧ ∀ j, j ≠ i → (x.setV i v).vreg j = x.vreg j)

/-- R122: INT32 lanes wrap, raise no flag, and a quotient is cut towards zero, 0 for a divisor of 0. -/
def Obligations.IntegerLanes : Prop :=
  ∀ a b c : BitVec 32,
    laneOp 2 0x22 a.toNat b.toNat c.toNat = ((a * b + c).toNat, 0) ∧
    laneOp 2 0x23 a.toNat b.toNat c.toNat = ((a + b).toNat, 0) ∧
    laneOp 2 0x24 a.toNat b.toNat c.toNat = ((a - b).toNat, 0) ∧
    laneOp 2 0x25 a.toNat b.toNat c.toNat = ((a * b).toNat, 0) ∧
    laneOp 2 0x26 a.toNat b.toNat c.toNat = ((if b.toInt ≤ a.toInt then a else b).toNat, 0) ∧
    laneOp 2 0x27 a.toNat b.toNat c.toNat = ((if a.toInt ≤ b.toInt then a else b).toNat, 0) ∧
    laneOp 2 0x28 a.toNat b.toNat c.toNat = ((if b = 0 then 0 else a.sdiv b).toNat, 0)

/-- R124 to R131: the other vector words: VLD, VST, VCMP, VSEL, VSCAN, VRED, VBRC, VSTAT, VSTATF and VMOVS complete,
with the register, mask, scratchpad, scalar or statistics result that their rules give. (Readings: log entries 10,
19, 21.) -/
def Obligations.VectorWordsComplete : Prop :=
  unitWord .vld 2 0x20 (fun s t w => memFault (s.tile t) w = none)
    (fun s t w =>
      let x := s.tile t
      let k := memBytes (vMemFmt w)
      let r := mapLanes (x.vreg (vVD w)) (laneBits (vType w)) (x.vmask (vMask w)) (fun l =>
        toLane (vType w) x.conv (memVal (vMemFmt w) (leNat (s.scratch t (vAddr x w + k * l) k))))
      (s.modTile t (fun x => x.setV (vVD w) r.1), r.2)) ∧
  unitWord .vst 2 0x21 (fun s t w => memFault (s.tile t) w = none)
    (fun s t w =>
      let x := s.tile t
      let n := laneBits (vType w)
      let k := memBytes (vMemFmt w)
      (List.range (1024 / n)).foldl (fun acc l =>
        if bitAt (x.vmask (vMask w)) l then
          (acc.1.setScratch t (vAddr x w + k * l) (leBytes k (storeLane x w l (lane (x.vreg (vVA w)) n l)).1),
            acc.2 ||| (storeLane x w l (lane (x.vreg (vVA w)) n l)).2)
        else acc) (s, 0)) ∧
  unitWord .vcmp 2 0x29 (fun _ _ w => vSub w ≤ 5 ∧ vType w ≠ 3)
    (fun s t w =>
      let x := s.tile t
      let n := laneBits (vType w)
      (s.modTile t (fun x' => x'.setMask (vMD w) (packLanes 1 ((List.range 64).map (fun l =>
        if decide (l < 1024 / n) && bitAt (x.vmask (vMask w)) l then
          b2n (laneRel (vType w) (vSub w) (lane (x.vreg (vVA w)) n l) (lane (x.vreg (vVB w)) n l))
        else bits (x.vmask (vMD w)) l 1)))), 0)) ∧
  unitWord .vsel 2 0x2A (fun _ _ w => vType w ≠ 3)
    (fun s t w =>
      let x := s.tile t
      let n := laneBits (vType w)
      let r := mapLanes (x.vreg (vVD w)) n (x.vmask (vMask w)) (fun l =>
        (lane (x.vreg (if bitAt (x.vmask (vMD w)) l then vVA w else vVB w)) n l, 0))
      (s.modTile t (fun x => x.setV (vVD w) r.1), r.2)) ∧
  unitWord .vscan 2 0x2B (fun _ _ w => vSub w ≤ 2 ∧ (vType w = 0 ∨ vType w = 2))
    (fun s t w =>
      let x := s.tile t
      let (ty, sub) := (vType w, vSub w)
      let act := x.vmask (vMask w)
      let seg := x.vmask (vMD w)
      let cv := (x.scanChain.map (·.toNat)).getD (redIdent ty sub)
      let y := scanLanes ty sub (lanes32 (x.vreg (vVA w))) act seg (if vChain w then some cv else none)
      let before := fun l => if bitAt act l && bitAt seg l then redIdent ty sub
        else if l = 0 then (if vChain w then cv else redIdent ty sub) else y.1.getD (l - 1) 0
      let r := mapLanes (x.vreg (vVD w)) 32 act (fun l => (if vExcl w then before l else y.1.getD l 0, 0))
      (s.modTile t (fun x => { x.setV (vVD w) r.1 with scanChain := some (BitVec.ofNat 32 (y.1.getD 31 0)) }), y.2)) ∧
  unitWord .vred 2 0x2C (fun _ _ w => vSub w = 3 ∧ (vType w = 0 ∨ vType w = 2))
    (fun s t w =>
      let x := s.tile t
      (s.modTile t (fun x' => x'.setV (vVD w) (mapLanes (x.vreg (vVD w)) 32 (x.vmask (vMask w) % 2) (fun _ =>
        (argmax (vType w) (x.vmask (vMask w)) (lanes32 (x.vreg (vVA w))), 0))).1), 0)) ∧
  unitWord .vred 2 0x2C (fun _ _ w => vSub w ≤ 2 ∧ (vType w = 0 ∨ vType w = 2))
    (fun s t w =>
      let x := s.tile t
      let (ty, sub) := (vType w, vSub w)
      let v := treeOf (redOp ty sub) ((lanes32 (x.vreg (vVA w))).mapIdx (fun l v =>
        if bitAt (x.vmask (vMask w)) l then v else redIdent ty sub))
      let u := redOp ty sub ((x.redChain.map (·.toNat)).getD (redIdent ty sub)) v.1
      let r := if vChain w then (u.1, v.2 ||| u.2) else v
      (s.modTile t (fun x' => { x'.setV (vVD w)
        (mapLanes (x.vreg (vVD w)) 32 (x.vmask (vMask w) % 2) (fun _ => (r.1, 0))).1 with redChain := some (BitVec.ofNat 32 r.1) }), r.2)) ∧
  unitWord .vbrc 2 0x2D (fun _ _ w => vSub w ≤ 3 ∧ vType w = 0 ∧ vPat w ≠ 3 ∧
      vVA w + (if vBlock w then 8 else 1) ≤ 32 ∧ vVD w + (if vBlock w then 8 else 1) ≤ 32)
    (fun s t w =>
      let x := s.tile t
      let r := (List.range (if vBlock w then 8 else 1)).map (fun i =>
        mapLanes (x.vreg (vVD w + i)) 32 (x.vmask (vMask w)) (fun l =>
          fpOp .fp32 ([0x23, 0x24, 0x25, 0x26].getD (vSub w) 0x23) (lane (x.vreg (vVA w + i)) 32 l)
            (patLane (vPat w) (if vBlock w then i else vSel w) (x.vreg (vVB w)) l) 0))
      (s.modTile t (fun x => (r.mapIdx (fun i y => (i, y.1))).foldl (fun x y => x.setV (vVD w + y.1) y.2) x),
        r.foldl (fun g y => g ||| y.2) 0)) ∧
  unitWord .vstat 2 0x2E
    (fun s t w =>
      let x := s.tile t
      let n := ((List.range 32).filter (bitAt (x.vmask (vMask w)))).length
      vSub w ≤ 3 ∧ (vType w = 0 ∨ vType w = 2) ∧ (bitAt (vSub w) 1 = true ∨
        (bitAt (vSub w) 1 = false ∧ (x.stat (vMD w % 4)).started = true ∧ (x.stat (vMD w % 4)).n + n ≤ 2 ^ 24)))
    (fun s t w =>
      let x := s.tile t
      let a := if bitAt (vSub w) 1 then { StatAcc.reset with started := true, rms := bitAt (vSub w) 0 }
        else x.stat (vMD w % 4)
      let ls := (List.range 32).filter (bitAt (x.vmask (vMask w)))
      let el := fun l => laneVal (vType w) (lane (x.vreg (vVA w)) 32 l)
      let b := match ls with
        | l :: _ => if a.n = 0 && !a.rms then { a with shift := (toFp32 (el l, 0)).1 } else a
        | [] => a
      let r := ls.foldl (fun acc l => ((acc.1.add l (el l)).1, acc.2 ||| (acc.1.add l (el l)).2)) (b, 0)
      (s.modTile t (fun x => x.setStat (vMD w % 4) r.1), r.2)) ∧
  unitWord .vstatf 2 0x2F
    (fun s t w => (vType w = 0 ∨ vType w = 2) ∧ ((s.tile t).stat (vMD w % 4)).started = true)
    (fun s t w =>
      let x := s.tile t
      let a := x.stat (vMD w % 4)
      let o := a.final (BitVec.ofNat 32 (x.sreg (vSReg w)))
      let r := mapLanes (x.vreg (vVD w)) 32 (x.vmask (vMask w) % 64) (fun l => ((o.lanes.getD l 0).toNat, 0))
      let s := if o.clamped then s.bump 0x1301C t 1 else s
      (s.modTile t (fun x => (x.setV (vVD w) r.1).setStat (vMD w % 4)
        { a with finalised := true, mean := o.lanes.getD 0 0, rstd := o.lanes.getD 2 0 }), o.flags)) ∧
  unitWord .vmovs 2 0x30 (fun _ _ w => vSub w = 0 ∧ vType w ≠ 3)
    (fun s t w =>
      (s.putS t (vSReg w) (lane ((s.tile t).vreg (vVA w)) (laneBits (vType w)) (cwf w 52 5)), 0)) ∧
  unitWord .vmovs 2 0x30 (fun _ _ w => vSub w = 1 ∧ vType w ≠ 3)
    (fun s t w =>
      let x := s.tile t
      let n := laneBits (vType w)
      let r := mapLanes (x.vreg (vVD w)) n (x.vmask (vMask w)) (fun _ => (x.sreg (vSReg w) % 2 ^ n, 0))
      (s.modTile t (fun x => x.setV (vVD w) r.1), r.2))

/-- R133 to R142: the words of the special-function unit. (Readings: log entries 10, 17 to 19.) -/
def Obligations.FunctionWordsComplete : Prop :=
  let func := fun (g : State → Nat → CWord → Nat → Option (Word × Nat)) (s : State) (t : Nat) (w : CWord)
      (rs : List (Word × Nat)) =>
    genBad (s.tile t) w = false ∧ (s.tile t).funcOk (fFunc w) = true ∧
    evalLanes ((s.tile t).vmask (fMask w)) (g s t w) = some rs
  let put := fun (s : State) (t : Nat) (w : CWord) (rs : List (Word × Nat)) =>
    (s.setTile t (putLanes (s.tile t) w (fVD w) rs).1, (putLanes (s.tile t) w (fVD w) rs).2)
  (∀ rs, unitWord .sfeval 3 0x40
    (fun s t w => func (fun s t w l => (s.tile t).func (fFunc w) ((s.tile t).lane32 (fVA w) l)) s t w rs)
    (fun s t w => put s t w rs)) ∧
  (∀ rs, unitWord .sfbas 3 0x42
    (fun s t w => fPat w ≠ 3 ∧ func (fun s t w l => basLane (s.tile t) w l) s t w rs)
    (fun s t w => put s t w rs)) ∧
  unitWord .sfsincos 3 0x41 (fun s t w => genBad (s.tile t) w = false ∧ fVD w ≠ 31)
    (fun s t w =>
      let x := s.tile t
      let rs := (List.range 32).map (fun l => sincosLane (x.lane32 (fVA w) l) (x.lane32 (fVB w) l))
      let y := putLanes x w (fVD w) (rs.map (·.1))
      let z := putLanes y.1 w (fVD w + 1) (rs.map (·.2))
      (s.setTile t z.1, y.2 ||| z.2)) ∧
  unitWord .sfnss 3 0x43
    (fun s t w => genBad (s.tile t) w = false ∧ fPat w ≠ 3 ∧ ((s.tile t).stat (fSta w)).started = true ∧
      ((s.tile t).stat (fSta w)).finalised = true)
    (fun s t w =>
      let x := s.tile t
      let y := putLanes x w (fVD w) ((List.range 32).map (nssLane x w (x.stat (fSta w))))
      (s.setTile t y.1, y.2)) ∧
  unitWord .sfload 3 0x44
    (fun s t w => 0 < fCount w ∧ fCount w ≤ 1024 ∧ fFirst w + fCount w ≤ 1024 ∧
      (s.tile t).fits (fAddr (s.tile t) w) (4 * fCount w) = true)
    (fun s t w =>
      let a := fAddr (s.tile t) w
      let put := fun (b : Tbl Word) => (List.range (fCount w)).foldl (fun b i =>
        tset (BitVec.ofNat 32 (leNat (s.scratch t (a + 4 * i) 4))) b (fFirst w + i)) b
      (s.modTile t (fun x =>
        if x.activeBank then { x with bank0 := put x.bank0 } else { x with bank1 := put x.bank1 }), 0)) ∧
  unitWord .sfswap 3 0x45 (fun _ _ _ => True)
    (fun s t _ => (s.modTile t (fun x => { x with activeBank := !x.activeBank, gen := x.gen + 1 }), 0)) ∧
  unitWord .sfprog 3 0x46
    (fun s t w => 0 < fCount w ∧ fCount w ≤ 32 ∧ fFirst w + fCount w ≤ 256 ∧
      (s.tile t).fits (fAddr (s.tile t) w) (8 * fCount w) = true)
    (fun s t w =>
      let a := fAddr (s.tile t) w
      (s.modTile t (fun x => { x with
        store := (List.range (fCount w)).foldl (fun b i =>
          tset (BitVec.ofNat 64 (leNat (s.scratch t (a + 8 * i) 8))) b (fFirst w + i)) x.store,
        dir := tset (fFirst w, fCount w) x.dir (fUfn w) }), 0))

/-- R208, R209, R223: the words of the hod: HODSTREAM opens a stream, HODRUN appends the descriptor that it copies
out of the scratchpad, HODRECV adds credits, HODCMO maintains the cache once every earlier request has completed.
(Readings: log entries 10, 15, 26.) -/
def Obligations.HodWordsComplete : Prop :=
  unitWord .hodstream 4 0x50 (fun s t w => (s.tile t).hod.stream? (hwStream w) = none)
    (fun s t w =>
      let x : Stream := { timed := cwb w 91, rt := cwb w 90, recv := cwb w 89, credits := 0, delivered := 0 }
      (s.modHod t (fun h => { h with streams := tset x h.streams (hwStream w) }), 0)) ∧
  (∀ st, unitWord .hodrun 4 0x51
    (fun s t w => (s.tile t).hod.stream? (hwStream w) = some st ∧ st.recv = false ∧
      (s.tile t).fits ((s.tile t).byteAt (cwf w 80 12) (cwf w 76 4)) 64 = true)
    (fun s t w =>
      let x := s.tile t
      let pc := (match (x.unit 4).active with | some a => a.addr | none => 0)
      let d : HDesc := {
        id := s.nextId, stream := hwStream w, ctx := x.ctx,
        bytes := s.scratch t (x.byteAt (cwf w 80 12) (cwf w 76 4)) 64, pc := pc,
        sig := if cwSigEn w then some (cwSigTok w) else none, deadline := x.sreg (cwf w 72 4), timed := st.timed,
        adm := 0, treq := none, taken := false, genOfs := 0, waiting := [], issued := 0, rowNext := 0,
        idxAsked := 0, idxNext := 0, idxRest := [], idxBad := false, members := [], dropped := [], sent := false,
        landed := false, replay := false, status := 0, done := false, late := false, cancel := false, kvUser := none }
      (s.fresh.2.modHod t (fun h => { h with descs := h.descs ++ [d] }), 0))) ∧
  (∀ st, unitWord .hodrecv 4 0x52
    (fun s t w => (s.tile t).hod.stream? (hwStream w) = some st ∧ st.recv = true ∧ st.credits + cwf w 84 8 ≤ 65535)
    (fun s t w => (s.modStream t (hwStream w) (fun x => { x with credits := x.credits + cwf w 84 8 }), 0))) ∧
  unitWord .hodcmo 4 0x53
    (fun s t _ => (s.tile t).hod.tags = [] ∧ ∀ d ∈ (s.tile t).hod.descs, d.done = true ∧ d.waiting = [])
    (fun s t w =>
      let x := s.tile t
      (cacheMaintain s t (cwf w 94 2) (x.sreg (cwf w 90 4)) (x.sreg (cwf w 90 4) + x.sreg (cwf w 86 4)) (cwf w 70 16), 0))

/-- R211, R212, R214, R218 to R220, R226 to R228, R56, R25: what the hod does on its own: it takes a descriptor,
issues a request under a tag, lands a response, turns an index list into rows, relays and multicasts to members that
hold credits, drops and replays members, cancels late requests; and accesses to the scratchpad window. (Readings:
log entries 2, 26, 27.) -/
def Obligations.HodEventsComplete : Prop :=
  (∀ s t n d, (s.tile t).run = .running → (s.tile t).hod.descs.find?
      (fun d => d.stream == n && !d.taken && !d.cancel) = some d → hodRejects s d.bytes t = false →
    (let mem := (hodMembers s d.bytes t).getD []
     let g := if hdGenRel d.bytes then s.genOfs d.ctx else 0
     let a := hodAdmit s t { d with taken := true, members := mem, genOfs := g } mem
     a.1.cancel = false → completes (.hodDescriptorTake t n) s fun s' => ∃ e u s1,
       kvUse a.2 (hodOverPool a.2 d.bytes a.1.genOfs) = (u, s1) ∧
       e = { a.1 with kvUser := u, waiting := (if hdKind d.bytes = 0 ∨ hdKind d.bytes = 3 then descReqs a.1 else []) } ∧
       s' = hodSettle (s1.modHDesc t d.id (fun _ => e)) t)) ∧
  (∀ s t n d r, (s.tile t).run = .running → ((candidates s (s.tile t).hod).drop n).head? = some (d, r) →
    issuable s t r = true → outranked s t n (candidates s (s.tile t).hod) d = false →
    s.reaches d.ctx r.src r.len false = true →
    ((r.kind = .copy ∧ s.reaches d.ctx r.dst r.len true = true) ∨ r.kind = .spread ∨ r.kind = .index) →
    completes (.hodRequestIssue t n) s fun s' => ∃ s1 g, s' = hodAfter s1 t d.id ∧
      (s1.tile t).hod.tags = (s.tile t).hod.tags ++ [g] ∧ g.req = r ∧
      g.tag = (s.tile t).hod.freeTag (r.kind == .index)) ∧
  (∀ s t k g s1, (s.tile t).hod.tags.find? (fun g => g.tag == k && g.answered && g.req.kind != .index &&
      (s.tile t).hod.canLand g) = some g → g.failed = false → passResponse s t g = (true, s1) →
    (g.writing = true → completes (.hodResponseLand t k) s fun s' =>
      s' = reqDone s1 t ((s1.tile t).hod.desc? g.req.desc) g) ∧
    (∀ d, g.writing = false → g.req.kind = .copy → g.cacheRd = false → addrKind g.req.dst = .scratch →
      (s1.tile t).hod.desc? g.req.desc = some d →
      (let s2 := hodPoison s1 t d g.req.ofHost g.poison
       s2.reaches g.ctx g.req.dst g.data.length true = true → completes (.hodResponseLand t k) s fun s' =>
         s' = reqDone ((s2.sendFlits t (endOf g.req.dst) (flitsOf g.data.length)).putBytes g.ctx g.req.dst g.data
           (moveBad g.poison g.req.src g.req.dst g.req.len)) t (some d) g)) ∧
    (∀ d, g.writing = false → g.req.kind = .spread → (s1.tile t).hod.desc? g.req.desc = some d →
      completes (.hodResponseLand t k) s fun s' =>
        s' = landSpread (hodPoison s1 t d g.req.ofHost g.poison) t d g)) ∧
  (∀ s t id d g s1, (s.tile t).hod.desc? id = some d →
    (s.tile t).hod.tags.find? (fun g => g.req.kind == .index && g.req.desc == id) = some g → g.answered = true →
    g.failed = false → passResponse s t g = (true, s1) →
    completes (.gatherIndexRead t id) s fun s' =>
      s' = hodAfter (indexRows (hodPoison (freeTag s1 t g.tag) t d g.req.ofHost g.poison) t d g.data g.poison) t d.id) ∧
  (∀ s t id d, (s.tile t).run = .running → (s.tile t).hod.desc? id = some d → d.taken = true → d.cancel = false →
    d.sent = false → d.members.all (holdsCredit s d.stream) = true →
    (let s1 := hodAfter ((d.members.foldl (takeCredit d.stream) s).modHDesc t d.id (fun x => { x with
       sent := true, members := d.members, dropped := [],
       waiting := if hdKind d.bytes = 5 && d.members.isEmpty then [] else spreadReqs d.id d.bytes d.genOfs })) t d.id
     (hdKind d.bytes = 4 → completes (.relayStart t id) s fun s' => s' = s1) ∧
     (hdKind d.bytes = 5 → completes (.multicastStart t id) s fun s' => s' = s1))) ∧
  (∀ s t id d, (s.tile t).run = .running → (s.tile t).hod.desc? id = some d → d.taken = true → d.cancel = false →
    d.sent = false → d.timed = true → hdKind d.bytes = 5 → dropInstant s t d ≤ s.now →
    completes (.multicastDropInstant t id) s fun s' =>
      s' = spread ((d.members.filter (fun m => !holdsCredit s d.stream m)).foldl (dropMember t d) s) t d
        (d.members.filter (holdsCredit s d.stream)) (d.members.filter (fun m => !holdsCredit s d.stream m))) ∧
  (∀ s t id m d, (s.tile t).hod.desc? id = some d → d.dropped.contains m = true → holdsCredit s d.stream m = true →
    completes (.multicastReplay t id m) s fun s' => ∃ s1 r,
      s1 = (takeCredit d.stream s m).fresh.2 ∧ r.members = [m] ∧ r.timed = false ∧ r.treq = none ∧ r.replay = true ∧
      r.id = s.nextId ∧ r.waiting = spreadReqs s.nextId d.bytes d.genOfs ∧
      s' = hodAfter ((s1.modHDesc t d.id (fun e => { e with dropped := d.dropped.filter (· != m) })).modHod t
        (fun h => { h with descs := h.descs ++ [r] })) t d.id) ∧
  (∀ s t n, completes (.hodMissCancel t n) s fun s' =>
    s' = hodSettle (s.modHod t (fun h =>
      let ends := fun (d : HDesc) =>
        if d.stream = n ∧ d.late = true ∧ d.done = false ∧ d.status ≠ 4 then
          { d with waiting := [], taken := true, cancel := true, status := 3 } else d
      { h with descs := h.descs.map ends })) t) ∧
  (∀ s ctx a data, addrKind a = .scratch → 0 < data.length → a % 512 + data.length ≤ 512 →
    s.reaches ctx a data.length true = true → s.stalled a data.length true = false →
    completes (.scratchpadWindowAccess ctx a data.length true data) s fun s' =>
      s' = { s.sendFlits (unitEnd 8) (endOf a) (flitsOf data.length) with mem := s.mem.writeBytes a data }) ∧
  (∀ s ctx a len data, addrKind a = .scratch → 0 < len → a % 512 + len ≤ 512 → s.reaches ctx a len false = true →
    completes (.scratchpadWindowAccess ctx a len false data) s fun s' =>
      s.sameBut s' [.masters, .mortar] ∧
      (s'.master (0x40 + ctx)).lastRead = some (BitVec.ofNat 32 (leNat ((s.mem.readBytes a len).take 4))))

/-- R329 to R337: a TUPDATE that the trowel takes and that need not wait reads its arrays in the current generation,
writes the updated elements in the generation the continuity unit's mode asks for, marks the elements whose inputs
were poisoned, and counts its elements; before GO, or while a generation is held, it waits. (Readings: log entries
15, 22.) -/
def Obligations.TupdateCompletes : Prop :=
  let upd := fun (s : State) (t : Nat) (w : CWord) =>
    let x := s.tile t
    { block := s.scratch t (x.byteAt (cwf w 84 12) (cwf w 80 4)) 64, ofs := x.sreg (cwf w 76 4),
      cnt := x.sreg (cwf w 72 4), idx := x.sreg (cwf w 68 4) : Upd }
  let ok := fun (s : State) (t : Nat) (w : CWord) =>
    (s.tile t).fits ((s.tile t).byteAt (cwf w 84 12) (cwf w 80 4)) 64 = true ∧ (upd s t w).bad s (s.tile t).ctx = false ∧
    (s.ctx (s.tile t).ctx).stepPoison (cwf w 67 1) = false
  unitWord .tupdate 5 0x70
    (fun s t w => ok s t w ∧ updWaits s (s.tile t).ctx = false ∧ s.stalled (0x2000000 * t) 1 = false)
    (fun s t w =>
      let x := s.tile t
      let u := upd s t w
      let c := s.cont x.ctx
      let base := 0x2000000 * t
      let src := base + s.genOfs x.ctx
      let dst := if s.contSingle x.ctx then src else if c.curGen then base else base + 4096 * s.genDelta x.ctx
      let rd := fun (s1 : State) b o size => nearRead s1 (b + u.array o size) (size * u.cnt) s.freeCtr
      let p := rd s.draw.2 src 4 4
      let m := rd p.2 src 8 4
      let v := if u.sgd then (([], []), m.2) else rd m.2 src 12 4
      let g := rd v.2 base 20 u.gradBytes
      let word := fun (l : List Byte) i => BitVec.ofNat 32 (fld l (4 * i) 4)
      let es := (List.range u.cnt).map (fun i => u.elem x.conv x.seed.toNat i (word p.1.1 i) (word m.1.1 i)
        (word v.1.1 i) (if u.gradBytes = 4 then word g.1.1 i else BitVec.ofNat 32 (65536 * fld g.1.1 (2 * i) 2)))
      let hit := fun b o size (l : List Nat) i => l.contains ((b + u.array o size + size * i) / 32)
      let bad := (List.range u.cnt).filter (fun i => hit src 4 4 p.1.2 i || hit src 8 4 m.1.2 i ||
        hit src 12 4 v.1.2 i || hit base 20 u.gradBytes g.1.2 i)
      (countUpd (storeUpd g.2 u dst es bad) x.ctx u.cnt (!bad.isEmpty), es.foldl (fun f e => f ||| e.flags) 0)) ∧
  unitWaits .tupdate 5 0x70 (fun s t w => ok s t w ∧
      (updWaits s (s.tile t).ctx || s.stalled (0x2000000 * t) 1) = true)
    (fun s t w => s.modTile t (fun x => x.modActive 5 (fun a => { a with latch := (upd s t w).latch }))) ∧
  unitWord .tupdate 5 0x70
    (fun s t w => (s.tile t).fits ((s.tile t).byteAt (cwf w 84 12) (cwf w 80 4)) 64 = true ∧
      (upd s t w).bad s (s.tile t).ctx = false ∧ (s.ctx (s.tile t).ctx).stepPoison (cwf w 67 1) = true)
    (fun s t _ => (s.bump 0x1E034 (s.tile t).ctx 1, 0))

/-- R383 to R387: a message sent by the channel's sender joins the channel's queue with the next sequence number,
and goes on to a receiver that is awake; MBSEND and MBRECV write how they ended to DST_REG; a channel whose timer
reaches MB_TIMEOUT shows TIMEOUT; a receiver that wakes is served. (Readings: log entries 15, 23.) -/
def Obligations.MailboxCommandsComplete : Prop :=
  (∀ s fn (v : Word), (s.ctx fn).fnEn = true → (s.ctx fn).inReset = false →
    (let c := bits v.toNat 0 6
     let mver := bits v.toNat 8 8
     let b := s.mbox c
     b.valid = true → b.sender = fn → mver ≤ b.mverMax → b.timeout = false → b.queue.length < 16 → b.timed = false →
     completes (.mbTxSend fn v) s fun s' =>
       s' = mbPump 16 (s.setMbox c { b with queue := b.queue ++ [mbMessage c fn b.seq 0 mver (mbStaged s fn)],
                                            seq := (b.seq + 1) % 2 ^ 32 }) c ∧
       (s.rxState b.receiver ≠ 0 → (s'.mbox c).queue = b.queue ++ [mbMessage c fn b.seq 0 mver (mbStaged s fn)]))) ∧
  unitWord .mbsend 6 0x68
    (fun s t w =>
      let x := s.tile t
      let b := s.mbox (mwChan w)
      b.valid = true ∧ b.sender = 0x40 + x.ctx ∧ x.fits (mwAddr x w) 44 = true ∧
      fld (s.scratch t (mwAddr x w) 44) 0 1 ≤ b.mverMax ∧ b.timeout = false ∧ b.queue.length < 16 ∧ b.timed = false)
    (fun s t w =>
      let x := s.tile t
      let p := s.scratch t (mwAddr x w) 44
      ((mbEnqueue s (mwChan w) (0x40 + x.ctx) (x.sreg (cwf w 66 4)) (fld p 0 1) p).putS t (mwDst w) 0, 0)) ∧
  unitWord .mbsend 6 0x68
    (fun s t w =>
      let x := s.tile t
      let b := s.mbox (mwChan w)
      b.valid = true ∧ b.sender = 0x40 + x.ctx ∧ x.fits (mwAddr x w) 44 = true ∧
      fld (s.scratch t (mwAddr x w) 44) 0 1 ≤ b.mverMax ∧ b.timeout = true)
    (fun s t w => (s.putS t (mwDst w) 2, 0)) ∧
  (∀ m r, unitWord .mbrecv 6 0x69
    (fun s t w =>
      let x := s.tile t
      let b := s.mbox (mwChan w)
      b.valid = true ∧ b.receiver = 0x40 + x.ctx ∧ x.fits (mwAddr x w) 64 = true ∧ b.queue = m :: r)
    (fun s t w => (mbTake ((s.setScratch t (mwAddr (s.tile t) w) m).putS t (mwDst w) 1) (mwChan w), 0))) ∧
  unitWord .mbrecv 6 0x69
    (fun s t w =>
      let x := s.tile t
      let b := s.mbox (mwChan w)
      b.valid = true ∧ b.receiver = 0x40 + x.ctx ∧ x.fits (mwAddr x w) 64 = true ∧ b.queue = [])
    (fun s t w => (s.putS t (mwDst w) 0, 0)) ∧
  (∀ s c at_, (s.mbox c).timerFrom = some at_ → at_ + 1000 * s.reg 0x1F068 c ≤ s.now →
    completes (.mbTimeoutExpiry c) s fun s' => s' = s.setMbox c { s.mbox c with timeout := true }) ∧
  (∀ s ident st, ident < 0x40 → st < 2 → completes (.mbReceiverStateChange ident st) s fun s' =>
    s' = mbPumpAll { s with trust := { s.trust with fnState := tset st s.trust.fnState ident } } ident) ∧
  (∀ s st, st = 0 ∨ st = 2 ∨ st = 3 → s.trust.cmcFailed = false →
    completes (.mbReceiverStateChange 0x80 st) s fun s' =>
      s' = mbPumpAll { s with trust := { s.trust with cmcState := st } } 0x80)

/-- R361 to R365, R48: doorbells move the tail of a submission ring and free records of a completion ring; a covered
entry is read and, once its header passes, stands ready, or is presented to the admission controller; a held record
is written when its ring can take it; a real-time ring records a miss once; a delivered timed request leaves the
ledgers. (Readings: log entries 2, 51.) -/
def Obligations.RingCommandsComplete : Prop :=
  (∀ s m ctx q (v : Word), reachesPage m ctx = true → (s.ctx ctx).live = true → ((s.ctx ctx).ring q).en = true →
    v.toNat % 65536 < 2 ^ ((s.ctx ctx).ring q).log2 →
    (let r := (s.ctx ctx).ring q
     let tail := ringIndex r.oldest r.log2 (v.toNat % 65536)
     r.head ≤ tail → completes (.sqDoorbell m ctx q v) s fun s' => s.sameBut s' [.ctxs] ∧
       ((s'.ctx ctx).ring q).tail = tail ∧ ((s'.ctx ctx).ring q).head = r.head ∧
       ((s'.ctx ctx).ring q).out = r.out ∧ ((s'.ctx ctx).ring q).doors.head? = some (tail, (s.ctx ctx).doorOrder) ∧
       (s'.ctx ctx).doorOrder = (s.ctx ctx).doorOrder + 1 ∧ tail % 2 ^ r.log2 = v.toNat % 65536 ∧
       (∀ q', q' ≠ q → (s'.ctx ctx).ring q' = (s.ctx ctx).ring q') ∧ ∀ c, c ≠ ctx → s'.ctx c = s.ctx c)) ∧
  (∀ s m ctx q (v : Word), reachesPage m ctx = true → (s.ctx ctx).live = true → ((s.ctx ctx).cring q).en = true →
    v.toNat % 65536 < 2 ^ ((s.ctx ctx).cring q).log2 →
    (let r := (s.ctx ctx).cring q
     let db := ringIndex r.db r.log2 (v.toNat % 65536)
     db ≤ r.head → completes (.cqDoorbell m ctx q v) s fun s' =>
       s' = mbPumpAll (s.setCRing ctx q { r with db := db }) ctx)) ∧
  (∀ s ctx q, (s.ctx ctx).live = true → ((s.ctx ctx).ring q).readable = true →
    (let r := (s.ctx ctx).ring q
     let o := agentRead s ctx (r.base + 64 * (r.head % 2 ^ r.log2)) 64
     let d := newDesc ((o.2.ctx ctx).ring q) o.1.data
     let s1 := takeEntry o.2 ctx q o.1.data
     s.stalled (r.base + 64 * (r.head % 2 ^ r.log2)) 64 = false → o.1.ok = true → o.1.bad = [] →
     headerFault (s1.ctx ctx) ((o.2.ctx ctx).ring q).timed d = none →
     (((o.2.ctx ctx).ring q).timed = false ∨ s1.absentDesc d = true → completes (.submissionEntryRead ctx q false) s fun s' => s' = s1) ∧
     (((o.2.ctx ctx).ring q).timed = true → s1.absentDesc d = false → completes (.submissionEntryRead ctx q false) s fun s' =>
       s' = presentDesc s1 ctx q d))) ∧
  (∀ s ctx q d id, (ask s ctx d).links = true →
    (let a := ask s ctx d
     let r : TReq := { id := s.nextId, qkind := 0, ctx := ctx, queue := q, tag := d.tag, cplRing := d.cpl,
                       deadline := d.deadline, allow := a.allow, res := a.res, broken := false }
     s.fresh.2.admits r = true → id = s.nextId →
     presentDesc s ctx q d =
       (s.fresh.2.enter r).modDesc ctx q d.abs (fun d => { d with adm := 1, treq := some id }))) ∧
  (∀ s ctx h, (s.ctx ctx).nextHeld = some h → completes (.heldRecordWrite ctx) s fun s' =>
    ∃ rest s1, rest = dropFirst
        (fun x => ((s.ctx ctx).cring x.ring).en && !((s.ctx ctx).cring x.ring).full) (s.ctx ctx).held ∧
      s1 = writeRecord (s.setCtx ctx { s.ctx ctx with held := rest }) ctx h.ring h.bytes (h.event || h.irq) ∧
      s' = mbPumpAll (sweepCtx (match h.desc with | some (q, abs) => s1.dropDesc ctx q abs | none => s1) ctx) ctx) ∧
  (∀ s ctx q idx d, ((s.ctx ctx).ring q).out.find? (fun d => d.abs % 2 ^ ((s.ctx ctx).ring q).log2 == idx && !d.missed) =
      some d → ((s.ctx ctx).ring q).rtm = true → d.deadline ≤ s.now →
    (((s.ctx ctx).ring q).timed = true ∨ d.deadline ≠ 0) → completes (.ringNeedbyMiss ctx q idx) s fun s' =>
      s' = missRecord (s.modDesc ctx q d.abs (fun d => { d with missed := true })) ctx d.cpl 0 q d.tag d.deadline
        0xFFFFFF ∧ s'.reg 0x1201C 0 = satAdd32 (s.reg 0x1201C 0) 1) ∧
  (∀ s id r d, s.treq? id = some r → r.qkind = 0 → ((s.ctx r.ctx).ring r.queue).out.head? = some d →
    d.treq = some r.id → d.phase = .finished → completes (.timedRequestDelivered id) s fun s' =>
      s' = sweepRing (((s.ctx r.ctx).ring r.queue).out.length + 1) ((s.deliver r.id).modDesc r.ctx r.queue d.abs
        (fun d => { d with treq := none, adm := s.admCode r.id })) r.ctx r.queue)

/-- R365, R366, R368: a bulk descriptor that is done and whose completion ring can take its record has the record of
R368 written and leaves the ring; the record stands at the ring's next entry, the write-back word holds the new
tail, and the ring has gone on by one. (Readings: log entry 82.) -/
def Obligations.CompletionRecordWritten : Prop :=
  (∀ s ctx q d st det, ((s.ctx ctx).ring q).timed = false → ((s.ctx ctx).ring q).out = [d] → d.treq = none →
    (s.ctx ctx).canTake d.cpl = true →
    (let e := { d with phase := .finished, status := st, detail := det }
     let s1 := s.setRing ctx q { (s.ctx ctx).ring q with out := [e] }
     finishDesc s ctx q d.abs st det = (writeRecord s1 ctx d.cpl (e.record ctx q s.now) d.irq).dropDesc ctx q d.abs)) ∧
  (∀ s ctx q bs raise, s.Canon → ctx < 64 → bs.length = 32 →
    (let r := (s.ctx ctx).cring q
     let a := r.base + 32 * (r.head % 2 ^ r.log2)
     addrKind a = .host → addrKind r.wb = .host → (s.ctx ctx).inReset = false → (s.ctx ctx).hostBase + 65536 *
       (s.ctx ctx).hostLimit ≤ 2 ^ 64 →
     a - hostBase + 32 ≤ 65536 * (s.ctx ctx).hostLimit → r.wb - hostBase + 4 ≤ 65536 * (s.ctx ctx).hostLimit →
     (r.wb + 4 ≤ a ∨ a + 32 ≤ r.wb) →
     (let s' := writeRecord s ctx q bs raise
      s'.hostMem.readBytes (s.hostAddr ctx a) 32 = bs ∧
      s'.hostMem.readBytes (s.hostAddr ctx r.wb) 4 = leBytes 4 ((r.head + 1) % 2 ^ r.log2) ∧
      ((s'.ctx ctx).cring q).head = r.head + 1 ∧
      (∀ x, (x < s.hostAddr ctx a ∨ s.hostAddr ctx a + 32 ≤ x) →
        (x < s.hostAddr ctx r.wb ∨ s.hostAddr ctx r.wb + 4 ≤ x) → s'.hostMem.read x = s.hostMem.read x) ∧
      s'.msixSent = (if raise = true ∧ (tget MsixVec.reset s.msix (ctx * 32 + r.vector)).masked = false then
        s.msixSent ++ [(ctx, r.vector)] else s.msixSent))))

/-- R370 to R376: launches, copies and fences. (Readings: log entries 2, 16, 32.) -/
def Obligations.LaunchCopyFenceComplete : Prop :=
  (∀ s ctx q d, s.nextOf ctx q 1 = some d →
    (∀ l ∈ s.launches, ¬ (l.ctx = ctx ∧ l.ring = q ∧ l.abs = d.abs)) → completes (.launch ctx q) s fun s' =>
      s.sameBut s' [.nextId, .launches] ∧ s'.nextId = s.nextId + 1 ∧
      s'.launches = s.launches ++
        [{ id := s.nextId, ctx := ctx, ring := q, abs := d.abs, bytes := d.bytes, running := false, skipped := 0,
           faulted := 0, stopped := false, left := [] }]) ∧
  (∀ s id l, s.launches.find? (fun l => l.id == id && !l.running) = some l →
    launchBlocked s l.ctx (lTiles l.bytes) = false → s.power.stage5 = false → launchOutranked s l = false →
    lAdpDir l.bytes = 0 → completes (.launchStart id) s fun s' => ∃ s1 k, s' = launchEnd (k.left.foldl (startTile k none) s1) k.id ∧
      k.id = l.id ∧ k.bytes = l.bytes ∧ k.ctx = l.ctx ∧ k.running = true ∧
      k.left = (lTiles l.bytes).filter (fun t => !(s.tile t).skipped) ∧
      k.skipped = (lTiles l.bytes).length - k.left.length ∧ (∀ t, s1.tile t = s.tile t) ∧
      s1.links.startedCtx = true ∧ s1.launches = s.launches.map (fun (x : Launch) => if x.id = l.id then k else x)) ∧
  (∀ s l t, lAdpDir l.bytes = 0 → lTableEn l.bytes = false → lPreLen l.bytes = 0 → (s.tile t).sregs.length = 16 →
    (let s' := startTile l none s t
     otherTiles s s' t ∧ (s'.tile t).run = .running ∧ (s'.tile t).ctx = l.ctx ∧ (s'.tile t).launch = l.id ∧
     (s'.tile t).pc = lStart l.bytes ∧ (s'.tile t).image = lImage l.bytes ∧ (s'.tile t).split = lCache l.bytes ∧
     (s'.tile t).cache = [] ∧ (s'.tile t).loops = [] ∧ (s'.tile t).tokens = List.replicate 16 0 ∧
     (s'.tile t).sreg 1 = lArg l.bytes ∧
     (s'.tile t).sreg 2 = ((tileY t - lY0 l.bytes) * (lWm1 l.bytes + 1) + (tileX t - lX0 l.bytes)) % 2 ^ 64 ∧
     (s'.tile t).sreg 3 = t % 2 ^ 64 ∧
     (s'.tile t).sreg 4 = lWm1 l.bytes + 1 + 65536 * (lHm1 l.bytes + 1) ∧ (s'.tile t).sreg 5 = 0 ∧
     (∀ i, 6 ≤ i → (s'.tile t).sreg i = (s.tile t).sreg i) ∧ (s'.tile t).acc = (s.tile t).acc)) ∧
  (∀ s ctx q d n, s.nextOf ctx q 2 = some d → s.unitOutranked d = false → copyStalled s d.bytes = false →
    addrKind (cpSrc d.bytes) ≠ .host →
    (let m := agentMove (s.startDesc ctx q d.abs) ctx (cpSrc d.bytes) (cpDst d.bytes) (cpLen d.bytes)
     m.1 = (true, [], n) → completes (.copy ctx q) s fun s' =>
       s' = finishDesc (if fldBit d.bytes 36 0 then jointAddFor m.2 ctx (fldBits d.bytes 38 2 0 14) 1 4 else m.2) ctx q
         d.abs 0 n)) ∧
  (∀ s ctx q d, s.nextOf ctx q 2 = some d → s.unitOutranked d = false → copyStalled s d.bytes = false →
    addrKind (cpSrc d.bytes) = .host → s.copies.length < 4 →
    (let k := kvUse s (s.overPool (cpDst d.bytes) (cpDst d.bytes + cpLen d.bytes))
     let j : CopyJob := { ctx := ctx, ring := q, abs := d.abs, asked := 0, landed := 0, ok := true, bad := false,
                          moved := 0, kvUser := k.1 }
     completes (.copy ctx q) s fun s' =>
       s' = pumpCopy { k.2.startDesc ctx q d.abs with copies := s.copies ++ [j] } ctx q d)) ∧
  (∀ s ctx q d, s.nextOf ctx q 7 = some d → completes (.fenceDesc ctx q) s fun s' =>
    s' = s.modDesc ctx q d.abs (fun d => { d with phase := .waiting, detail := b2n d.stop })) ∧
  (∀ s ctx q d, s.fence? ctx q = some d → d.detail = 1 → completes (.fenceStop ctx q) s fun s' =>
    s' = stopLaunches (s.modDesc ctx q d.abs (fun d => { d with detail := 0 })) ctx) ∧
  (∀ s ctx q d, s.fence? ctx q = some d → fenceReady s ctx q d = true → completes (.fenceDescRelease ctx q) s fun s' =>
    ∃ s1 s2 ok, (ok, s1) = (if fldBit d.bytes 16 2 then
        agentWriteAll s ctx (fld d.bytes 32 6) (slice d.bytes 24 8) [] else (true, s)) ∧
      s2 = (if fldBit d.bytes 16 3 then jointAddFor s1 ctx (fldBits d.bytes 18 2 0 14) 1 4 else s1) ∧
      s' = finishDesc s2 ctx q d.abs (if ok then 0 else 2) 0)

/-- R374, R378, R379, R381: joint operation descriptors on a joint that the context may use, the release of waits,
and joint signals. (Readings: log entries 2, 42.) -/
def Obligations.JointDescriptorsComplete : Prop :=
  (∀ s ctx q d op, nextJointDesc s ctx q op = some d → s.jointOk ctx d.joint = true →
    (let s1 := s.startDesc ctx q d.abs
     let j := s1.joint d.joint
     let up : Joint := { j with ticket := j.ticket + 1 }
     let put : Joint := { j with ticket := BitVec.ofNat 64 d.value }
     (op = 1 → completes (.jointDescAdd ctx q) s fun s' =>
       s' = finishDesc (jointAdd s1 d.joint d.value 4) ctx q d.abs 0 0) ∧
     (op = 2 → completes (.jointDescSet ctx q) s fun s' =>
       s' = finishDesc (contWatch (s1.setJointValue d.joint d.value none)) ctx q d.abs 0 0) ∧
     (op = 3 → completes (.jointDescRead ctx q) s fun s' => s' = jointResult s1 ctx q d j.value.toNat) ∧
     (op = 4 → ((s1.ctx ctx).ring q).timed = false → d.value ≤ j.value.toNat →
       completes (.jointDescWaitge ctx q) s fun s' => s' = finishDesc s1 ctx q d.abs 0 0) ∧
     (op = 4 → ((s1.ctx ctx).ring q).timed = false → j.value.toNat < d.value →
       completes (.jointDescWaitge ctx q) s fun s' =>
         s' = addWait (s1.modDesc ctx q d.abs (fun d => { d with phase := .waiting })) d.joint (.desc ctx q d.abs)
           (.ge d.value)) ∧
     (op = 5 → completes (.jointDescTicket ctx q) s fun s' =>
       s' = jointResult (s1.setJoint d.joint up) ctx q d j.ticket.toNat) ∧
     (op = 7 → completes (.jointDescSetticket ctx q) s fun s' =>
       s' = finishDesc (s1.setJoint d.joint put) ctx q d.abs 0 0))) ∧
  (∀ s ctx q d v, d.resultAddr = 0 → jointResult s ctx q d v = finishDesc s ctx q d.abs 0 v) ∧
  (∀ s ctx q d v s1, d.resultAddr ≠ 0 → agentWriteAll s ctx d.resultAddr (leBytes 8 v) [] = (true, s1) →
    jointResult s ctx q d v = finishDesc s1 ctx q d.abs 0 v) ∧
  (∀ s ctx q d s1, nextJointDesc s ctx q 6 = some d →
    sendSignal (s.startDesc ctx q d.abs) ctx (fldBits d.bytes 20 2 0 12) (fldBits d.bytes 22 2 0 14) d.value d.tag
      (if d.treq.isSome then 0 else 1) = (.sent, s1) →
    completes (.jointDescSignal ctx q) s fun s' => s' = finishDesc s1 ctx q d.abs 0 0) ∧
  (∀ s j who n, (s.joint j).waits.find? (fun w => (s.joint j).ready w.2) = some (who, n) →
    (let s1 := s.setJoint j { s.joint j with waits := dropFirst (fun w => (s.joint j).ready w.2) (s.joint j).waits }
     let s2 := match n with
       | .ge _ => s1
       | .order _ add => jointAdd (s1.setJoint j { s1.joint j with ticket := (s1.joint j).ticket + 1 }) j add 4
     completes (.jointWaitRelease j) s fun s' => s' = (match who with
       | .tile t => s2.modTile t (fun x => x.finish 6 0)
       | .desc ctx ring abs => finishDesc s2 ctx ring abs 0 0))) ∧
  (∀ s p m, s.inMsg p (fun m => msgOp m.bytes == 5) = some m →
    (s.joint (msgAddr m.bytes % 2 ^ 14)).valid = true → (s.joint (msgAddr m.bytes % 2 ^ 14)).remoteOk = true →
    completes (.jointSignalMsg p) s fun s' =>
      s' = jointAdd (s.consume p m) (msgAddr m.bytes % 2 ^ 14) (fld m.bytes 32 8) (p / 2))

/-- R50, R118, R194, R199, R294, R301, R327, R355, R377, R391, R400, R410, R446, R451, R452: each row that is a
write of one register. (Readings: log entries 49, 50.) -/
def Obligations.RegisterWritesComplete : Prop :=
  writesWord .ppReqWrite 0x1200C true (fun _ _ _ => True) (fun s _ w => wantedPp (s.setReg 0x1200C 0 w)) ∧
  writesWord .srSeedLoWrite 0x14008 false (fun _ _ _ => True) (fun s m w => s.setReg 0x14008 (heldIdx m) w) ∧
  writesWord .srSeedHiWrite 0x1400C false (fun _ _ _ => True) (fun s m w =>
    (s.setReg 0x1400C (s.bankAt m 0x1400C) w).setReg 0x14008 (s.bankAt m 0x1400C) (s.reg 0x14008 (heldIdx m))) ∧
  writesWord .kvCtrlWrite 0x15000 true (fun s _ w => s.kvEn = false ∧ bitAt w 0 = true) (fun s _ w =>
    State.undefineMeta { s.setReg 0x15000 0 w with kv := { s.kv with
      pages := [], copies := s.kv.copies.map (fun (k : KvCopy) => { k with gone := true }) } } 0 s.kvPages) ∧
  writesWord .kvCtrlWrite 0x15000 true (fun s _ w => s.kvEn = true ∨ bitAt w 0 = false) (fun s _ w =>
    if s.kvEn then s.setRegFld 0x15000 0 0 1 w else s.setReg 0x15000 0 w) ∧
  writesWord .scrubPeriodWrite 0x17040 false (fun _ _ _ => True) (fun s _ w => s.setReg 0x17040 0 w) ∧
  writesWord .brickSupplyWrite 0x17050 true (fun s m w =>
      (∀ c ∈ brickChans (s.bankAt m 0x17050), (s.chan c).state = .fenced ∨ (s.chan c).state = .spalled) ∧ w ≠ 0)
    (fun s m w => ((brickChans (s.bankAt m 0x17050)).filter (fun c => decide ((s.chan c).state = .fenced))).foldl
      (fun s c => (s.modChan c (fun x => { x with selftestPassed := false })).undefine (0x2000000 * c) 0x2000000)
      (s.setReg 0x17050 (s.bankAt m 0x17050) w)) ∧
  writesWord .linkEnableWrite 0x1B00C true (fun s m w => s.Canon ∧ s.bankAt m 0x1B00C < 8 ∧ bitAt w 0 = true ∧
      s.linkEnabled (s.bankAt m 0x1B00C) = false) (fun s m w =>
    portDown (s.setReg 0x1B00C (s.bankAt m 0x1B00C) (setBits w 3 1 0)) (s.bankAt m 0x1B00C) .dark 0) ∧
  writesWord .linkEnableWrite 0x1B00C true (fun s m w => s.Canon ∧ s.bankAt m 0x1B00C < 8 ∧ bitAt w 0 = false ∧
      (s.port (s.bankAt m 0x1B00C)).phase ≠ .off) (fun s m w =>
    portDown (s.setReg 0x1B00C (s.bankAt m 0x1B00C) (setBits w 3 1 0)) (s.bankAt m 0x1B00C) .off 0) ∧
  writesWord .rtLoWrite 0x1B044 true (fun _ _ _ => True) (fun s m w => s.setReg 0x1B044 (heldIdx m) w) ∧
  writesWord .rtHiWrite 0x1B048 true (fun s m _ => 8 ≤ s.bankAt m 0x1B048) (fun s m w =>
    s.setRoute (s.bankAt m 0x1B048) (s.reg 0x1B044 (heldIdx m) + bits w 0 20 * 2 ^ 32)) ∧
  writesWord .collGroupWrite 0x1C008 false (fun s m w => bitAt w 0 = true ∧
      (s.group (s.bankAt m 0x1C008 / 16) (s.bankAt m 0x1C008 % 16)).en = false) (fun s m w =>
    let x : Group := { en := true, axis := bits w 1 2, len := clampTo 2 64 (bits w 3 7),
                       rank := min (bits w 10 6) (clampTo 2 64 (bits w 3 7) - 1), seq := 0 }
    s.setGroup (s.bankAt m 0x1C008 / 16) (s.bankAt m 0x1C008 % 16) x) ∧
  writesWord .contEnWrite 0x1E004 true (fun s m w => bitAt (s.reg 0x1E004 (s.bankAt m 0x1E004)) 0 = false ∧
      bitAt w 0 = true ∧ genLayoutOk (s.setReg 0x1E004 (s.bankAt m 0x1E004) (setBits w 0 1 0)) (s.bankAt m 0x1E004) =
        true) (fun s m w =>
    contWatch (((s.setReg 0x1E004 (s.bankAt m 0x1E004) (setBits w 0 1 0)).setReg 0x1E004 (s.bankAt m 0x1E004) w).setCont
      (s.bankAt m 0x1E004) { s.cont (s.bankAt m 0x1E004) with st := .running })) ∧
  writesWord .jntCfgWrite 0x1F044 true (fun s m w => (s.joint (s.bankAt m 0x1F044)).waits = [] ∧ bitAt w 0 = true ∧
      (s.joint (s.bankAt m 0x1F044)).valid = false) (fun s m w =>
    s.setJoint (s.bankAt m 0x1F044) { s.joint (s.bankAt m 0x1F044) with
      valid := true, owner := bits w 1 6, remoteOk := bitAt w 7, value := 0, ticket := 0 }) ∧
  writesWord .ringEnWrite 0x1F010 false (fun s m w => s.bankAt m 0x1F010 % 32 < 16 ∧ bitAt w 0 = true ∧
      ((s.ctx (s.bankAt m 0x1F010 / 32)).ring (s.bankAt m 0x1F010 % 16)).en = false) (fun s m w =>
    let r := (s.ctx (s.bankAt m 0x1F010 / 32)).ring (s.bankAt m 0x1F010 % 16)
    let h := ceilDiv r.head (2 ^ (4 + bits w 1 4)) * 2 ^ (4 + bits w 1 4)
    (s.setRing (s.bankAt m 0x1F010 / 32) (s.bankAt m 0x1F010 % 16)
      { r with log2 := 4 + bits w 1 4, timed := bitAt w 5, rtm := bitAt w 6, en := true, start := h, head := h,
               tail := h, doors := [] }).endQueues
      (fun k => k == (0, s.bankAt m 0x1F010 / 32, s.bankAt m 0x1F010 % 16))) ∧
  writesWord .ringEnWrite 0x1F010 false (fun s m w => 16 ≤ s.bankAt m 0x1F010 % 32 ∧ bitAt w 0 = true ∧
      ((s.ctx (s.bankAt m 0x1F010 / 32)).cring (s.bankAt m 0x1F010 % 16)).en = false) (fun s m w =>
    let r := (s.ctx (s.bankAt m 0x1F010 / 32)).cring (s.bankAt m 0x1F010 % 16)
    mbPumpAll (s.setCRing (s.bankAt m 0x1F010 / 32) (s.bankAt m 0x1F010 % 16)
      { r with log2 := 4 + bits w 1 4, vector := bits w 7 5, en := true, head := 0, db := 0 })
      (s.bankAt m 0x1F010 / 32)) ∧
  writesWord .dutyAdmWrite 0x2000C true (fun s _ w => s.power.dutyAdm ≤ bits w 16 4) (fun s _ w =>
    capMark ((s.setReg 0x2000C 0 w).modPower (fun p =>
      { p with dutyAdm := bits w 16 4, dutyPend := none, duty := max p.duty (bits w 16 4) }))) ∧
  writesWord .dutyAdmWrite 0x2000C true (fun s _ w => bits w 16 4 < s.power.dutyAdm) (fun s _ w =>
    let s1 := s.setReg 0x2000C 0 w
    capMark (if s1.allPass s1.time.pp (s1.dutyShare (bits w 16 4)) then
      s1.modPower (fun p => { p with dutyAdm := bits w 16 4, dutyPend := none })
      else s1.modPower (fun p => { p with dutyPend := some (bits w 16 4) }))) ∧
  writesWord .kilnOnWrite 0x20014 false (fun _ _ _ => True) (fun s _ w => applyUnits (s.setReg 0x20014 0 w)) ∧
  writesWord .flashOnWrite 0x20014 false (fun _ _ _ => True) (fun s _ w => applyUnits (s.setReg 0x20014 0 w)) ∧
  writesWord .unlockKeyWrite 0x1008 false (fun _ _ w => w = 0xC0DE7A11) (fun s m _ =>
    s.setMaster m { s.master m with unlockedAt := some s.now }) ∧
  writesWord .unlockKeyWrite 0x1008 false (fun _ _ w => w ≠ 0xC0DE7A11) (fun s m _ =>
    s.setMaster m { s.master m with unlockedAt := none }) ∧
  writesWord .ctEnableWrite 0x10004 false (fun s m w => bitAt w 0 = true ∧ bitAt w 1 = false ∧
      (s.ctx (s.bankAt m 0x10004)).enable = false ∧ s.trust.rebuilding = false ∧ s.trust.stage = 6 ∧
      (∀ d ∈ s.ctxs, d.1 ≠ s.bankAt m 0x10004 → d.2.enable = true →
        (s.ctx (s.bankAt m 0x10004)).overlaps d.2 = false)) (fun s m _ =>
    s.setCtx (s.bankAt m 0x10004) { s.ctx (s.bankAt m 0x10004) with enable := true }) ∧
  writesWord .ctEnableWrite 0x10004 false (fun s m w => bitAt w 0 = false ∧ bitAt w 1 = false ∧
      (s.ctx (s.bankAt m 0x10004)).enable = true) (fun s m _ =>
    let s1 := if (s.ctx (s.bankAt m 0x10004)).fnEn then ctxReset s (s.bankAt m 0x10004) else s
    s1.setCtx (s.bankAt m 0x10004) { s1.ctx (s.bankAt m 0x10004) with enable := false }) ∧
  writesWord .bindEntryWrite 0x11004 false (fun _ _ _ => True) (fun s m w =>
    s.setMbox (s.bankAt m 0x11004) { s.mbox (s.bankAt m 0x11004) with
      sender := bits w 0 8, receiver := bits w 8 8, timed := bitAt w 16, rt := bitAt w 17, cplRing := bits w 18 4,
      valid := bitAt w 22, mverMax := bits w 24 8 })

/-- R191, R193, R198, R301, R341, R347, R360, R403, R419, R426, R430, R431, R446, R451, R457, R461: each row that is
a command written to one register. (Readings: log entries 48, 49.) -/
def Obligations.RegisterCommandsComplete : Prop :=
  writesCommand .chCmdRetrain 0x17034 1 (fun s m => let c := s.chan (s.bankAt m 0x17034)
      c.state ≠ .spalled ∧ c.retrain = .none) (fun s m => let ch := s.bankAt m 0x17034
    if (s.chan ch).state = .fenced then s.modChan ch (fun c => { c with retrain := .running })
    else retrainSubmit s ch) ∧
  writesCommand .chCmdFence 0x17034 2 (fun s m => let c := s.chan (s.bankAt m 0x17034)
      c.state ≠ .spalled ∧ c.state ≠ .fenced) (fun s m =>
    s.modChan (s.bankAt m 0x17034) (fun c => { c with fencing := true })) ∧
  writesCommand .chCmdUnfence 0x17034 3 (fun s m => (s.chan (s.bankAt m 0x17034)).state = .fenced ∧
      s.regFld 0x17050 (brickOf (s.bankAt m 0x17034)) 0 6 = 0) (fun s m => let ch := s.bankAt m 0x17034
    let c := s.chan ch
    if c.selftestPassed && !c.needArray && c.retrain == .none then pointChan (s.setChan ch c.unfenced) ch
    else s.setChan ch { c with unfenceAfter := true, retrain := .running }) ∧
  writesCommand .chCmdSpall 0x17034 4 (fun s m => (s.chan (s.bankAt m 0x17034)).state ≠ .spalled)
    (fun s m => spallChan s (s.bankAt m 0x17034)) ∧
  writesCommand .chCmdMarginStb 0x17034 5 (fun s m => (s.chan (s.bankAt m 0x17034)).state = .fenced) (fun s m =>
    s.modChan (s.bankAt m 0x17034) (fun c => { c with margin := some 0, marginValid := false })) ∧
  writesCommand .chCmdMarginVref 0x17034 6 (fun s m => (s.chan (s.bankAt m 0x17034)).state = .fenced) (fun s m =>
    s.modChan (s.bankAt m 0x17034) (fun c => { c with margin := some 1, marginValid := false })) ∧
  writesCommand .contCmdCommit 0x1E020 1 (fun s m => (s.cont (s.bankAt m 0x1E020)).st = .inDoubt)
    (fun s m => contResolve s (s.bankAt m 0x1E020) true) ∧
  writesCommand .contCmdAbort 0x1E020 2 (fun s m => (s.cont (s.bankAt m 0x1E020)).st = .inDoubt)
    (fun s m => contResolve s (s.bankAt m 0x1E020) false) ∧
  writesCommand .contCmdHold 0x1E020 3 (fun s m => let c := s.cont (s.bankAt m 0x1E020)
      c.st ≠ .inDoubt ∧ c.held = none) (fun s m => let c := s.cont (s.bankAt m 0x1E020)
    s.setCont (s.bankAt m 0x1E020) { c with held := some c.curGen }) ∧
  writesCommand .contCmdRelease 0x1E020 4 (fun s m => (s.cont (s.bankAt m 0x1E020)).st ≠ .inDoubt) (fun s m =>
    resumeUpdates (s.setCont (s.bankAt m 0x1E020) { s.cont (s.bankAt m 0x1E020) with held := none })
      (s.bankAt m 0x1E020)) ∧
  writesCommand .pwrCmdRemeasure 0x20024 1 (fun s _ => ∀ c ∈ s.ctxs, c.2.enable = false) (fun s _ =>
    s.modPower (fun p => { p with remeasuring := true })) ∧
  writesCommand .storeCmdSaveConfig 0x2100C 1 (fun _ _ => True) (fun s _ =>
    storePut s secConfig ((macKey, s.trust.mac) :: configWords.map (fun w => (regKey w.1 w.2, s.reg w.1 w.2)))) ∧
  writesCommand .storeCmdCommitSvn 0x2100C 2 (fun _ _ => True) (fun s _ =>
    putSecurity (s.modTrust (fun t => { t with cmcFloor := t.running.cmcSvn, periphFloor := t.running.perSvn }))) ∧
  writesCommand .storeCmdPreferA 0x2100C 3 (fun _ _ => True) (fun s _ =>
    putSecurity (s.modTrust (fun t => { t with preferB := false }))) ∧
  writesCommand .storeCmdPreferB 0x2100C 4 (fun _ _ => True) (fun s _ =>
    putSecurity (s.modTrust (fun t => { t with preferB := true }))) ∧
  (∀ bad, writesCommand (fun m => .storeCmdWarmReset m bad) 0x2100C 5 (fun s m => m ≠ 0x82 ∧
      (∀ c ∈ s.ctxs, c.2.enable = false) ∧ s.trust.writing = none)
    (fun s _ => (warmReset (s.modTrust (fun t => { t with pins := bad })) bad).modTrust
      (fun t => { t with pins := [] }))) ∧
  (∀ s bad, s.mgmt.up = true → (∀ c ∈ s.ctxs, c.2.enable = false) → s.trust.writing = none →
    completes (.storeCmdWarmReset 0x82 bad) s fun s' =>
      s' = warmReset { s with mgmt := { s.mgmt with lastAt := s.now } } bad) ∧
  (∀ s, wayTo s 0x80 0x21020 → completes (.wdtKick 0x80) s fun s' =>
    s' = s.modTrust (fun t => { t with wdtAt := s.now })) ∧
  (∀ s m, wayTo s m 0x10010 → (s.ctx (s.bankAt m 0x10010)).enable = true → completes (.protSync m) s fun s' =>
    s' = s.setCtx (s.bankAt m 0x10010) { s.ctx (s.bankAt m 0x10010) with protCache := [] }) ∧
  (∀ s m (v : Word), wayTo s m 0x1B00C → s.unlocked m = true → s.Canon → s.bankAt m 0x1B00C < 8 →
    (let w := s.written m 0x1B00C (setBits v.toNat 3 1 1)
     bitAt w 0 = true → legalWrite s m 0x1B00C (setBits v.toNat 3 1 1) → completes (.linkRetrain m v) s fun s' =>
       s' = portDown ((rearm s m).setReg 0x1B00C (s.bankAt m 0x1B00C) (setBits w 3 1 0)) (s.bankAt m 0x1B00C) .dark
         0)) ∧
  (∀ s m (v : Word), wayTo s m 0x10004 → bitAt v.toNat 0 = (s.ctx (s.bankAt m 0x10004)).enable →
    completes (.ctResetWrite m v) s fun s' => s' = ctxReset s (s.bankAt m 0x10004)) ∧
  (∀ s m t, (s.master m).unlockedAt = some t → t + 100000 < s.now → completes (.unlockExpiry m) s fun s' =>
    s' = s.setMaster m { s.master m with unlockedAt := none })

/-- R39, R200, R328, R391, R413, R439, R443, R444: each row that is a read of one register. (Readings: log entries
34, 48.) -/
def Obligations.RegisterReadsComplete : Prop :=
  readsLow .devtimeLoRead 0x12000 0x12004 (fun s _ => s.now) ∧
  readsLow .idleLoRead 0x1D004 0x1D008 (fun s i => (tget 0 s.idle i).toNat) ∧
  readsLow .jointValueLoRead 0x1F048 0x1F04C (fun s j => (s.joint j).value.toNat) ∧
  readsLow .jointTicketLoRead 0x1F050 0x1F05C (fun s j => (s.joint j).ticket.toNat) ∧
  readsLow .enLoRead 0x2002C 0x20030 (fun s i => s.energyOf i) ∧
  (∀ s m e rest, wayTo s m 0x1706C → s.errLog = e :: rest → completes (.errlogPopRead m) s fun s' =>
    s'.errLog = rest ∧ s'.errOverflow = false ∧
    (s'.master m).lastRead = some (BitVec.ofNat 32 (e.time / 2 ^ 32 % 2 ^ 32)) ∧
    s.sameBut s' [.errLog, .errOverflow, .masters] ∧ ∀ k, k ≠ m → s'.master k = s.master k) ∧
  (∀ s m off r, wayTo s m off → decodeFor m off = .word r → s.unitAbsent r.off = false → r.off ≠ 0x1706C →
    s.latch m r.off (s.bankOf m r.bank) = s → completes (.registerReadClear m off) s fun s' =>
      (s'.master m).lastRead = some (BitVec.ofNat 32 (s.wordValue m r)) ∧
      s.sameBut s' [.regs, .masters, .mortar] ∧ (r.off ≠ 0x13040 → s'.mortar = s.mortar) ∧
      (∀ o i, regKey o i ≠ regKey r.off (s.bankOf m r.bank) → s'.reg o i = s.reg o i) ∧
      (s.Canon → s'.reg r.off (s.bankOf m r.bank) &&& (r.mask .rc &&& 0xFFFFFFFF) = 0)) ∧
  (∀ s m off, outOfReach m off = false → s.domainOff m off = false → decodeFor m off = .hole →
    completes (.holeAccess m off false) s fun s' =>
      s' = (s.bump 0x1020 0 1).setMaster m { s.master m with lastRead := some 0 }) ∧
  (∀ s m off, decodeFor m off = .hole → completes (.holeAccess m off true) s fun s' => s' = s.bump 0x1020 0 1) ∧
  (∀ s m slot bit r, slot < 16 → bit < 32 → wayTo s m (aliasOff slot bit) → wordRow (aliasTarget slot) = some r →
    s.unitAbsent r.off = false → completes (.bitAliasRead m slot bit) s fun s' =>
      (s'.master m).lastRead = some (BitVec.ofNat 32 (b2n (bitAt (s.wordValue m r) bit))) ∧
      s.sameBut s' [.regs, .masters]) ∧
  (∀ s m slot bit (v : Word) r, slot < 16 → bit < 32 → wayTo s m (aliasOff slot bit) →
    wordRow (aliasTarget slot) = some r → completes (.bitAliasWrite m slot bit v) s fun s' =>
      s' = writeWord s m (canon (aliasOff slot bit)) r (setBits (s.wordValue m r) bit 1 (v.toNat % 2))) ∧
  (∀ s m off (v : Word) r, (m = 0 ∨ 0x40 ≤ m) → outOfReach m off = false → s.domainOff m off = false →
    decodeFor m off = .word r → (m, off, leBytes 4 v.toNat) ∉ s.regPosted → completes (.registerWrite m off v true) s fun s' =>
      s' = writeWord s m (canon off) r v.toNat)

/-- R179, R184, R188 to R191, R194, R196, R198, R216, R217, R457: channels, their trainings and their scrub.
(Readings: log entries 2, 35, 72.) -/
def Obligations.ChannelEventsComplete : Prop :=
  (∀ s ch e, (s.chan ch).service = none → ((s.chan ch).state = .active ∨ (s.chan ch).state = .degraded) →
    nextLine s (s.chan ch) = some e → completes (.channelRequest ch e.id) s fun s' =>
      s' = s.setChan ch { (s.chan ch).served e.tile with service := some e.id }) ∧
  (∀ s ch errs id e, (s.chan ch).service = some id → (s.chan ch).entries.find? (fun x => x.id == id) = some e →
    e.write = false → (let o := readPiece s ch e.piece.1 e.piece.2 errs
      let s1 := o.2.modChan ch (fun c => { c with service := none })
      (e.addr + e.len ≤ e.piece.1 + e.piece.2 → completes (.channelLineDone ch errs) s fun s' =>
        s' = (let s2 := s1.modChan ch (fun c => { c with entries := dropEq e c.entries })
              admitHeld (s2.chan ch).held.length
                (answerTag s2 e.tile e.tag false (e.data ++ o.1.1) (e.poison ++ o.1.2) ch) ch)) ∧
      (e.piece.1 + e.piece.2 < e.addr + e.len → completes (.channelLineDone ch errs) s fun s' =>
        s' = (let e' := { e with next := e.piece.1 + e.piece.2, data := e.data ++ o.1.1, poison := e.poison ++ o.1.2 }
              s1.modChan ch (fun c => { c with entries := replaceEq e e' c.entries }))))) ∧
  (∀ s ch errs id e, (s.chan ch).service = some id → (s.chan ch).entries.find? (fun x => x.id == id) = some e →
    e.write = true → e.addr + e.len ≤ e.piece.1 + e.piece.2 →
    (let s1 := (writePiece s ch e.piece.1 (slice e.data (e.piece.1 - e.addr) e.piece.2) e.poison errs).modChan ch
       (fun c => { c with service := none })
     completes (.channelLineDone ch errs) s fun s' =>
       s' = (let s2 := s1.modChan ch (fun c => { c with entries := dropEq e c.entries })
             admitHeld (s2.chan ch).held.length (answerTag s2 e.tile e.tag false e.data e.poison ch) ch))) ∧
  (∀ s ch bank, (s.chan ch).state ≠ .untrained → (s.chan ch).state ≠ .spalled → bank < 16 →
    (s.chan ch).busyBank ≠ some bank → completes (.refreshDue ch bank) s fun s' =>
      s' = s.setChan ch { s.chan ch with refreshed := tset s.now (s.chan ch).refreshed bank }) ∧
  (∀ s ch errs, ((s.chan ch).state = .active ∨ (s.chan ch).state = .degraded) → s.regFld 0x17040 0 0 24 ≠ 0 →
    turnFree s ch scrubSource = true →
    (let s1 := (List.range 4).foldl (fun t i =>
       scrubCodeword errs ch t (0x100000 * ch + 4 * (s.chan ch).scrubLine + i))
         (s.setChan ch ((s.chan ch).served scrubSource))
     completes (.scrubLine ch errs) s fun s' =>
       s' = (if (s.chan ch).scrubLine + 1 = 0x40000 then scrubPassEnd s1 ch
             else s1.modChan ch (fun x => { x with scrubLine := (s.chan ch).scrubLine + 1 })))) ∧
  (∀ s ch, (s.chan ch).retrain = .refused → (s.chan ch).refusedAt + 1000000 ≤ s.now → completes (.retrainResubmit ch) s fun s' => s' = retrainSubmit s ch) ∧
  (∀ s ch id, (s.chan ch).retrainReq = some id → (s.chan ch).retrain = .submitted → (s.chan ch).service = none →
    retrainTurn s ch id = true → (s.chan ch).state ≠ .fenced → completes (.retrainStart ch) s fun s' =>
      s' = s.setChan ch { s.chan ch with retrain := .running, state := .training }) ∧
  (∀ s ch sweep, (s.chan ch).retrain = .running → (s.chan ch).retrainReq = none →
    (let c := trained (s.chan ch) s.minEyeNow sweep
     (c.2.length ≤ 4 → completes (.retrainDone ch sweep true) s fun s' => s' = trainEnd s ch c.1 c.2) ∧
     (∀ ok, 4 < c.2.length ∨ ok = false → completes (.retrainDone ch sweep ok) s fun s' =>
       s' = trainSpall (s.setChan ch { c.1 with retrain := .none, retrainReq := none }) ch))) ∧
  (∀ s ch, (s.chan ch).fencing = true → (s.chan ch).entries = [] → (s.chan ch).service = none →
    (s.chan ch).state ≠ .training → (s.chan ch).retrainReq = none →
    (∀ r ∈ s.time.treqs, r.qkind ≠ 5 → thas r.res (resChan ch) = false) →
    completes (.channelFenceComplete ch) s fun s' =>
      s' = (let c := { s.chan ch with state := .fenced, fencing := false, selftestPassed := false, held := [],
                                      retrain := if (s.chan ch).retrain = .none then .none else .running }
            testDone (pointChan ((s.chan ch).held.foldl (failEntry ch) (s.setChan ch c)) ch) 1 1 ch 0 0 0 0)) ∧
  (∀ s ch lo hi lane none n, (s.chan ch).margin = some n → completes (.marginDone ch lo hi lane none) s fun s' =>
    s' = s.setChan ch { s.chan ch with margin := .none, marginLow := lo % 64, marginHigh := hi % 64,
                                       marginLane := lane % 64, marginValid := true, marginNone := none })

/-- R234 to R239: the flash commands. (Readings: log entry 28.) -/
def Obligations.FlashCommandsComplete : Prop :=
  (∀ s ctx q d, flashAt s ctx q 1 d → s.fobj? (flObj d.bytes) = none → flObj d.bytes ≠ 0xFFFFFFFF → flLen d.bytes ≠ 0 →
    s.flash.objs.length < 1048576 → s.flash.objs.foldl (fun n o => n + o.2.size) 0 + flLen d.bytes ≤ flashUnits →
    s.flash.readOnly = false →
    (let o : FObj := { ctx := ctx, size := flLen d.bytes, poisoned := [] }
     completes (.flashCreate ctx q) s fun s' =>
       s' = flashDone ((s.startDesc ctx q d.abs).modFlash (fun f => { f with
         objs := tset o f.objs (flObj d.bytes),
         data := f.data.fill (flashKey (flObj d.bytes) 0) (4096 * flLen d.bytes) .zero })) ctx q d 0)) ∧
  (∀ s ctx q d, flashAt s ctx q 2 d → objFault s ctx d.bytes false = none → completes (.flashDelete ctx q) s fun s' =>
    s' = flashDeletes (flashFly (s.startDesc ctx q d.abs) ctx q d none).2) ∧
  (∀ s ctx q d, flashAt s ctx q 3 d → objFault s ctx d.bytes true = none →
    (fldBit d.bytes 17 1 = true → flTile d.bytes < tileCount ∧ (s.ctx ctx).owns (flTile d.bytes) = true) → flashAddrOk (flAddr d.bytes) 4096 = true →
    extentPoisoned s d.bytes = false → completes (.flashRead ctx q) s fun s' =>
      s' = (flashFly (s.startDesc ctx q d.abs) ctx q d
        (if fldBit d.bytes 17 1 then some (flTile d.bytes, flStream d.bytes) else none)).2) ∧
  (∀ s id c t n x, s.fcmd? id = some c → c.op = 3 → c.started = false → c.late = false → c.stream = some (t, n) →
    (s.tile t).hod.stream? n = some x → x.recv = true → 0 < x.credits → completes (.flashReadStreamStart id) s fun s' =>
      s' = (s.modStream t n (fun x => { x with credits := x.credits - 1 })).modFCmd c.id
        (fun c => { c with started := true, steppedAt := s.now })) ∧
  (∀ s id c, s.fcmd? id = some c → c.op = 3 → c.late = true → completes (.flashReadCancel id) s fun s' =>
    s' = flashEnd s c 9) ∧
  (∀ s ctx q d, flashAt s ctx q 4 d → objFault s ctx d.bytes true = none → flashAddrOk (flAddr d.bytes) 4096 = true →
    s.flash.readOnly = false → (let fly := flashFly (s.startDesc ctx q d.abs) ctx q d none
      (addrKind (flAddr d.bytes) ≠ .host → completes (.flashWrite ctx q) s fun s' => s' = startPrograms 64 fly.2) ∧
      (addrKind (flAddr d.bytes) = .host → completes (.flashWrite ctx q) s fun s' => s' = pumpUnits fly.2 fly.1.id))) ∧
  (∀ s ctx q d o, flashAt s ctx q 5 d → objFault s ctx d.bytes true = none → s.fobj? (flObj d.bytes) = some o →
    (let o' : FObj := { o with poisoned := o.poisoned.filter (fun u =>
       !(decide (flOff d.bytes ≤ u) && decide (u < flOff d.bytes + flLen d.bytes))) }
     completes (.flashTrim ctx q) s fun s' =>
       s' = flashDone ((s.startDesc ctx q d.abs).modFlash (fun f => {
         f.unplace (flObj d.bytes) (fun p => (decide (flOff d.bytes ≤ 4 * p) && decide (4 * p < flOff d.bytes + flLen d.bytes)) &&
           (decide (flOff d.bytes ≤ 4 * p + 3) && decide (4 * p + 3 < flOff d.bytes + flLen d.bytes))) with
         objs := tset o' f.objs (flObj d.bytes),
         data := f.data.fill (flashKey (flObj d.bytes) (4096 * flOff d.bytes)) (4096 * flLen d.bytes) .zero }))
         ctx q d 0)) ∧
  (∀ s ctx q d o, flashAt s ctx q 6 d → objFault s ctx d.bytes false = none → s.fobj? (flObj d.bytes) = some o →
    flashAddrOk (flAddr d.bytes) 32 = true → completes (.flashStat ctx q) s fun s' =>
      s' = (let w := agentWriteAll (s.startDesc ctx q d.abs) ctx (flAddr d.bytes) (statRecord o) [] (unitEnd 12)
            flashDone w.2 ctx q d (if w.1 then 0 else 6))) ∧
  (∀ s ctx q d, s.nextOf ctx q 3 = some d → s.variant = .kv1s →
    ∀ i ∈ [Instr.flashCreate ctx q, .flashDelete ctx q, .flashRead ctx q, .flashWrite ctx q, .flashTrim ctx q,
           .flashStat ctx q], completes i s fun s' => s' = finishDesc s ctx q d.abs 8 0)

/-- R238, R242, R244 to R246, R388: what happens in the flash tier. (Readings: log entries 2, 28, 29.) -/
def Obligations.FlashEventsComplete : Prop :=
  (∀ s id c row slot, s.fcmd? id = some c → c.op = 4 → 0 < c.programs →
    completes (.flashProgramDone id false row slot) s (fun s' =>
      s' = keepSweep (startPrograms 64 (s.modFCmd id (fun c => { c with programs := c.programs - 1 })))) ∧
    (∀ u us, c.units = u :: us → s.flash.canPlace row slot = true → completes (.flashProgramDone id true row slot) s
      fun s' => s' = keepSweep (startPrograms 64 (programPage s c u row slot))) ∧
    (∀ x xs, c.units = [] → c.parity = x :: xs → completes (.flashProgramDone id true row slot) s fun s' =>
      s' = keepSweep (startPrograms 64 (endWrites (programParity s c x))))) ∧
  (∀ s c u row slot, c.status ≠ 6 → (c.units.filter (fun v => pageOf v == pageOf u)) = [u] → (programUnit s c u).1 ≠ 6 →
    (let st := if (programUnit s c u).1 = 0 then c.status else (programUnit s c u).1
     programPage s c u row slot = ((programUnit s c u).2.modFlash (fun f => f.put c.obj (pageOf u) row slot)).modFCmd c.id
       (fun x => { x with status := st, programs := x.programs - 1, steppedAt := (programUnit s c u).2.now,
                          parity := if x.parity.contains (row, slot / 15) then x.parity
                            else x.parity ++ [(row, slot / 15)],
                          units := x.units.filter (fun v => pageOf v != pageOf u) }))) ∧
  (∀ s id u c, readWaits s id u = some c → s.flash.pageLost c.obj (pageOf u) = true →
    (∀ ok, completes (.flashPageReadDone id u ok) s fun s' => s' = poisonUnit s c.obj u) ∧
    ∀ ok, completes (.flashRebuildDone id u ok) s fun s' => s' = poisonUnit s c.obj u) ∧
  (∀ s id u c, readWaits s id u = some c → s.flash.pageLost c.obj (pageOf u) = false →
    s.flash.tries c.obj (pageOf u) = none → s.flash.pageDown c.obj (pageOf u) = false →
    (let s1 := s.modFlash (fun f => f.countRead c.obj (pageOf u))
     completes (.flashPageReadDone id u true) s (fun s' => s' = landShared s1 c.obj (pageUnits (pageOf u)) true) ∧
     completes (.flashPageReadDone id u false) s (fun s' =>
       s' = (pageWaiters s1 c.obj (pageOf u)).foldl recheckRead (setTries s1 c.obj (pageOf u) (some 0))))) ∧
  (∀ s id u c n, readWaits s id u = some c → s.flash.tries c.obj (pageOf u) = some n → n < 7 →
    s.flash.pageDown c.obj (pageOf u) = false →
    (let s1 := s.modFlash (fun f => (f.countRead c.obj (pageOf u)).noteRetry c.obj (pageOf u))
     completes (.flashReadRetry id u true) s (fun s' =>
       s' = landShared ((setTries s1 c.obj (pageOf u) none).bump 0x1800C 0 1) c.obj (pageUnits (pageOf u)) true) ∧
     completes (.flashReadRetry id u false) s (fun s' => s' = setTries s1 c.obj (pageOf u) (some (n + 1))))) ∧
  (∀ s id u c, readWaits s id u = some c → s.flash.pageLost c.obj (pageOf u) = false →
    (s.flash.tries c.obj (pageOf u) = some 7 ∨ s.flash.pageDown c.obj (pageOf u) = true) →
    completes (.flashRebuildDone id u true) s (fun s' =>
      s' = landShared ((setTries s c.obj (pageOf u) none).bump 0x18010 0 1) c.obj (pageUnits (pageOf u)) true) ∧
    completes (.flashRebuildDone id u false) s (fun s' => s' = poisonUnit s c.obj u)) ∧
  (∀ s obj u, poisonUnit s obj u = landShared (setUnitPoison (s.bump 0x18014 0 1) obj u true) obj [u] false) ∧
  (∀ s die, s.variant = .kv1a → die < 16 → dieOverdue s die = true → completes (.flashDieTimeout die) s fun s' =>
    s'.flash.dieFailed = s.flash.dieFailed ||| BitVec.ofNat 16 (2 ^ die) ∧
    s'.flash.readOnly = (s.flash.readOnly || decide (2 ≤ ((List.range 16).filter
      (fun i => (s.flash.dieFailed ||| BitVec.ofNat 16 (2 ^ die)).getLsbD i)).length)) ∧
    s'.flash.objs = s.flash.objs ∧ s'.flash.data = s.flash.data ∧ s'.flash.cmds = s.flash.cmds) ∧
  (∀ s row dst, s.variant = .kv1a → tget 0 s.flash.fill row ≠ 0 → tget 0 s.flash.fill dst = 0 → row ≠ dst →
    s.flash.opens dst = true → (∀ c ∈ s.flash.cmds, ∀ x ∈ c.parity, x.1 ≠ row) →
    (rowWorn s row = true → completes (.flashRelocate row dst) s fun s' =>
      s' = (s.bump 0x18018 0 1).modFlash (fun f => f.relocate row dst)) ∧
    (rowWorn s row = false → rowStale s.flash row = true → completes (.flashRelocate row dst) s fun s' =>
      s' = s.modFlash (fun f => f.relocate row dst))) ∧
  (∀ s, s.variant = .kv1a → completes .translationLayerLoaded s fun s' =>
    s' = { s with flash := { s.flash with ready := true } })

/-- R247, R248, R472: completions of host reads, and host reads that are late. (Readings: log entries 2, 32.) -/
def Obligations.HostReadsComplete : Prop :=
  (∀ s tag data h, s.hostReads.find? (fun h => h.tag == tag) = some h → h.abandoned = false → hostWaits s h = false →
    completes (.hostReadCompletion tag 0 data) s fun s' =>
      s' = hostLand (dropHostRead s h.tag) h (fit h.len data) false) ∧
  (∀ s h t g bs, h.who = .hod t g → hostWaits s h = false ∧ hostLand s h bs false = answerTag s t g false bs [] (unitEnd 8)) ∧
  (∀ s tag st data h, s.hostReads.find? (fun h => h.tag == tag) = some h → h.abandoned = false → hostWaits s h = false →
    st ≠ 0 → completes (.hostReadCompletion tag st data) s fun s' =>
      s' = hostReadFails ((dropHostRead s h.tag).bump 0x1900C 0 1) h) ∧
  (∀ s tag st data h, s.hostReads.find? (fun h => h.tag == tag) = some h → h.abandoned = true →
    hostWaits s h = false → completes (.hostReadCompletion tag st data) s fun s' => s' = dropHostRead s h.tag) ∧
  (∀ s tag h, s.hostReads.find? (fun h => h.tag == tag) = some h → h.abandoned = false →
    h.sentAt + 1000000 * s.regFld 0x19008 0 0 6 ≤ s.now → completes (.hostCplTimeout tag) s fun s' =>
      s' = hostReadFails ((dropHostRead s tag).bump 0x1900C 0 1) h) ∧
  (∀ s tag h id, s.hostReads.find? (fun h => h.tag == tag) = some h → h.treq = some id → h.abandoned = false →
    h.sentAt + 1000 * s.regFld 0x19008 0 8 8 ≤ s.now → completes (.lateHostRead tag) s fun s' =>
      s' = breakReq s id 4 0 (resHost true))

/-- R170 to R175: the commands of the KV page manager, the epoch and the command window. (Readings: log entry 25.) -/
def Obligations.KvCommandsComplete : Prop :=
  (∀ s n c key, kvAt s n 1 c → (let s1 := s.kvTaken n
      let r := agentReadAll s1 c.ctx c.tokAddr 528 kvEnd
      r.1.ok = true → r.1.bad = [] → key = kvKey r.1.data →
      (r.2.kvFind c.ctx c.lgrp (leNat key) = none → completes (.kvLookup n) s fun s' =>
        s' = kvRespond (r.2.bump 0x15020 0 1) c { KvResp.fail 1 with key := key }) ∧
      (∀ i p, r.2.kvFind c.ctx c.lgrp (leNat key) = some (i, p) → p.pins + b2n (c.flag 0) < 2 ^ 16 →
        p.refs + b2n (c.flag 1) < 2 ^ 24 → completes (.kvLookup n) s fun s' =>
          s' = (let x := { p with pins := p.pins + b2n (c.flag 0), refs := p.refs + b2n (c.flag 1) }
                kvRespond ((r.2.bump 0x1501C 0 1).kvSetPage i x) c (KvResp.of 0 i x key))))) ∧
  (∀ s n c i, kvAt s n 2 c → (s.kvTaken n).freePage = some i → completes (.kvAlloc n) s fun s' =>
    s' = (let p : Page := { Page.reset with st := .live, refs := 1, ring := c.flag 2, ctx := c.ctx, lgrp := c.lgrp }
          kvRespond ((s.kvTaken n).kvSetPage i p) c (KvResp.of 0 i p (zeros 16)))) ∧
  (∀ s n c key, kvAt s n 3 c → (let r := agentReadAll (s.kvTaken n) c.ctx c.tokAddr 528 kvEnd
      r.1.ok = true → r.1.bad = [] → key = kvKey r.1.data → kvLive r.2 c → (r.2.page c.page).ring = false →
      (r.2.kvFind c.ctx c.lgrp (leNat key) = none → 0 < (r.2.page c.page).refs → completes (.kvPublish n) s fun s' =>
        s' = (let x := { r.2.page c.page with published := true, inDir := true, lgrp := c.lgrp, key := leNat key }
              kvRespond (r.2.kvSetPage c.page x) c (KvResp.of 0 c.page x key))) ∧
      (∀ i p, r.2.kvFind c.ctx c.lgrp (leNat key) = some (i, p) → completes (.kvPublish n) s fun s' =>
        s' = kvRespond r.2 c (KvResp.of 2 i p key)))) ∧
  (∀ s n c, kvAt s n 4 c → kvLive s c → (s.page c.page).pins + 1 < 2 ^ 16 → completes (.kvPin n) s fun s' =>
    s' = (let x := { s.page c.page with pins := (s.page c.page).pins + 1 }
          kvRespond ((s.kvTaken n).putPage c.page x) c (KvResp.of 0 c.page x (zeros 16)))) ∧
  (∀ s n c, kvAt s n 5 c → kvLive s c → 0 < (s.page c.page).pins → completes (.kvUnpin n) s fun s' =>
    s' = (let x := { s.page c.page with pins := (s.page c.page).pins - 1 }
          kvRespond ((s.kvTaken n).putPage c.page x) c (KvResp.of 0 c.page x (zeros 16)))) ∧
  (∀ s n c, kvAt s n 6 c → kvLive s c → (s.page c.page).refs + 1 < 2 ^ 24 → completes (.kvRef n) s fun s' =>
    s' = (let x := { s.page c.page with refs := (s.page c.page).refs + 1 }
          kvRespond ((s.kvTaken n).putPage c.page x) c (KvResp.of 0 c.page x (zeros 16)))) ∧
  (∀ s n c, kvAt s n 7 c → kvLive s c → 0 < (s.page c.page).refs → completes (.kvUnref n) s fun s' =>
    s' = (let x := { s.page c.page with refs := (s.page c.page).refs - 1 }
          kvRespond ((s.kvTaken n).putPage c.page x) c (KvResp.of 0 c.page x (zeros 16)))) ∧
  (∀ s n c, kvAt s n 8 c → kvLive s c → (let p := s.page c.page
      (p.ring = false → p.published = false → p.refs = 1 → p.pins = 0 → completes (.kvWprep n) s fun s' =>
        s' = kvRespond (s.kvTaken n) c (KvResp.of 0 c.page p (zeros 16))) ∧
      (p.ring = true → 0 < p.pins → completes (.kvWprep n) s fun s' =>
        s' = kvRespond ((s.kvTaken n).bump 0x1502C 0 1) c (KvResp.of 3 c.page p (zeros 16))) ∧
      (∀ i, p.ring = false → (p.published = true ∨ p.refs ≠ 1 ∨ p.pins ≠ 0) → (s.kvTaken n).freePage = some i →
        completes (.kvWprep n) s fun s' =>
          s' = { s.kvTaken n with kv := { (s.kvTaken n).kv with
            copies := s.kv.copies ++ [{ page := c.page, newPage := i, cmd := c, gone := false }] } }))) ∧
  (∀ s page k, s.kv.copies.find? (fun k => k.page == page) = some k →
    k.gone = false → kvCopyStalled s k = false →
    (let m := kvMovePage { s with kv := { s.kv with copies := dropEq k s.kv.copies } } (s.kvPageAddr k.page)
       (s.kvPageAddr k.newPage) s.kvPageBytes
     let p := m.2.page k.page
     let x : Page := { Page.reset with st := .live, refs := 1, ctx := p.ctx, lgrp := p.lgrp }
     m.1 = true → p.refs ≠ 0 → completes (.kvWprepCopyDone page false) s fun s' =>
       s' = kvRespond (((m.2.putPage k.page { p with refs := p.refs - 1 }).kvSetPage k.newPage x).bump 0x15024 0 1) k.cmd
         (KvResp.of 0 k.newPage x (zeros 16)))) ∧
  (∀ s, (∀ u ∈ s.kv.users, u.2 ≠ (s.kv.epoch - 1).toNat) → 10000 + s.kv.advancedAt ≤ s.now →
    completes .kvEpochAdvance s fun s' => s'.kv.epoch = s.kv.epoch + 1 ∧ s'.kv.advancedAt = s.now ∧
      (∀ p, p ∈ s'.kv.pages ↔ p ∈ s.kv.pages ∧
        ¬ (p.2.st = .retiring ∧ (p.2.epoch + 2) % 2 ^ 32 = (s.kv.epoch + 1).toNat)) ∧
      s'.kv.copies = s.kv.copies ∧ s.sameBut s' [.kv, .regs, .mem, .poison, .freeCtr]) ∧
  (∀ s m off data, off < 4096 → off % 32 = 0 → data.length = 32 → s.kvEn = true →
    (let c : KvCmd := { bytes := data, ctx := masterCtx m }
     c.op ≠ 0 → c.op ≤ 8 → completes (.kvCmdWindowWrite m off data true) s fun s' =>
       s' = { s with kv := { s.kv with accepted := s.kv.accepted ++ [c] },
                     regPosted := dropEq (m, 0x16000 + off, data) s.regPosted })) ∧
  (∀ s m r, (s.master m).run = some r → r.at_ + 10000 ≤ s.now → completes (.kvRunTimeout m) s fun s' =>
    s' = (s.setMaster m { s.master m with run := none }).bump 0x15030 0 1)

/-- R260 to R272: batches of the kiln, from their descriptor to their pallet. (Readings: log entries 2, 30, 31.) -/
def Obligations.KilnCommandsComplete : Prop :=
  (∀ s ctx q d b s1, s.nextOf ctx q 4 = some d → s.variant = .kv1a → (s.kiln.kstate = 0 ∨ d.treq.isSome = true) →
    s.kilnOn = true → s.unitOutranked d = false → s.stalled (kdBlock d.bytes) 128 = false →
    (kilnCheck (s.startDesc ctx q d.abs) ctx d.bytes = (.good, b, s1) → completes (.kilnBatch ctx q) s fun s' =>
      s' = kilnAccept s1 ctx q d b) ∧
    (∀ i, kilnCheck (s.startDesc ctx q d.abs) ctx d.bytes = (.bad i, b, s1) → completes (.kilnBatch ctx q) s fun s' =>
      s' = kilnReject s1 ctx q d 1 i) ∧
    (kilnCheck (s.startDesc ctx q d.abs) ctx d.bytes = (.address, b, s1) → completes (.kilnBatch ctx q) s fun s' =>
      s' = kilnReject s1 ctx q d 2 0)) ∧
  (∀ s ctx q d, s.nextOf ctx q 4 = some d → s.variant = .kv1a → s.kiln.kstate ≠ 0 → d.treq = none →
    completes (.kilnBatch ctx q) s fun s' => s' = finishDesc s ctx q d.abs 0xF0 0) ∧
  (∀ s ctx q d, s.nextOf ctx q 4 = some d → s.variant = .kv1s → completes (.kilnBatch ctx q) s fun s' =>
    s' = finishDesc s ctx q d.abs 4 0) ∧
  (∀ s id b e i, s.batch? id = some b → batchTurn s b = true → b.nextSlot = some i →
    (List.range 16).find? (fun e => s.kiln.up.getLsbD e && !s.kiln.fencing.getLsbD e && (s.engine e).st == .free) =
      some e →
    (let s1 := s.modBatch b.id (fun b => b.setSlot i { b.slot i with st := .busy })
     let s2 := s1.setEngine e { Engine.reset with st := .header, batch := b.id, slot := i }
     let x := slotIndex s2 b i
     ∀ k, x.1 = some k → (let r := agentReadAll x.2 b.ctx (kbCatalog b.block + 32 * k) 32 (unitEnd 10)
       let s3 := r.2.setEngine e { r.2.engine e with catalog := k, record := r.1.data }
       r.1.ok = true → r.1.bad = [] →
       (recordCause s3 r.1.data = none → completes (.kilnSlotStart id) s fun s' =>
         s' = askSource (s3.setEngine e { s3.engine e with hi := headerBytes r.1.data }) b e) ∧
       (∀ c, recordCause s3 r.1.data = some c → completes (.kilnSlotStart id) s fun s' => s' = kilnCorrupt s3 e c)))) ∧
  (∀ s e b, s.batch? (s.engine e).batch = some b → (s.engine e).st = .header →
    ((s.engine e).failed = true → completes (.kilnHeaderReadDone e) s fun s' => s' = kilnCorrupt s e 3) ∧
    ((s.engine e).failed = false → (s.engine e).whole = false → completes (.kilnHeaderReadDone e) s fun s' =>
      s' = askSource s b e) ∧
    (let parse := Config.kilnParse (crCodec (s.engine e).record) ((s.engine e).bytesFrom 0)
     (s.engine e).failed = false → (s.engine e).whole = true →
     (headerCause s (s.engine e).record parse = none → completes (.kilnHeaderReadDone e) s fun s' =>
       s' = allocate s b e parse) ∧
     (∀ c, headerCause s (s.engine e).record parse = some c → completes (.kilnHeaderReadDone e) s fun s' =>
       s' = kilnCorrupt s e c))) ∧
  (∀ s e b, s.batch? (s.engine e).batch = some b → (s.engine e).st = .decode →
    ((s.engine e).failed = true → completes (.kilnSampleDecoded e) s fun s' => s' = kilnCorrupt s e 3) ∧
    ((s.engine e).failed = false → (s.engine e).whole = false → completes (.kilnSampleDecoded e) s fun s' =>
      s' = askSource s b e) ∧
    (let par := slotParam s b (s.engine e).slot
     let cause := decodeCause (s.engine e) par.1.data (b.slot (s.engine e).slot).cand.isNone (kbFrames b.block)
     (s.engine e).failed = false → (s.engine e).whole = true → slotStalled s b (s.engine e).slot = false →
     (cause = 0 → completes (.kilnSampleDecoded e) s fun s' => s' = sampleDone par.2 b e par.1.data) ∧
     (cause ≠ 0 → completes (.kilnSampleDecoded e) s fun s' => s' = kilnCorrupt par.2 e cause))) ∧
  (∀ s id b i, s.batch? id = some b → (List.range b.slots.length).find? (fun i => !(b.slot i).final) = some i →
    (b.slot i).st = .corrupt → slotStalled s b i = false →
    (b.bfUsed < kbBackfills b.block → completes (.kilnBackfillAssign id) s fun s' =>
      s' = s.modBatch id (fun x =>
        { x.setSlot i { b.slot i with st := .todo, cand := some x.bfUsed } with bfUsed := x.bfUsed + 1 })) ∧
    (kbBackfills b.block ≤ b.bfUsed → completes (.kilnBackfillAssign id) s fun s' =>
      s' = ((writeSlot s b i 0xFFFFFFFF (fun _ => zeros (kbToken b.block))).bump 0x1A024 0 1).modBatch id
        (fun x => x.setSlot i { b.slot i with st := .padding, catalog := 0xFFFFFFFF }))) ∧
  (∀ s id b, s.batch? id = some b → b.slots.all Slot.final = true →
    (s.kiln.batches.find? (fun x => x.ctx == b.ctx && kdStream x.bytes == kdStream b.bytes)).map (fun x => x.id) =
      some b.id → completes (.kilnPalletDelivered id) s fun s' => s' = kilnDrained (palletDone s b))

/-- R279 to R284, R287 to R293: links come up and go down, lanes fail, flits and messages arrive. (Readings: log
entries 2, 40 to 42.) -/
def Obligations.ArkelEventsComplete : Prop :=
  (∀ s p f b fec, (s.port p).phase = .up → (s.port p).fibreOn 1 f = true → (s.port p).swapping.contains (1, f) = false →
    (let s0 := fecCount s p f fec
     let good := crc32c (b.take 268) == fld b 268 4 && !fec.any uncorrectable
     (good = true → fld b 2 2 = (s.port p).rxSeq →
       (let x := { s0.port p with failRun := (s.port p).failRun.set f 0, rxSeq := ((s.port p).rxSeq + 1) % 65536 }
        let s1 := flitHeader (s0.setPort p x) p b
        completes (.arkelFlitReceive p f b fec) s fun s' =>
          s' = fecLanes (idleAfter (if fldBits b 0 1 0 4 = 1 then payloadIn s1 p b else s1) p
            (s.port p).wire.length) p f)) ∧
     (∀ run, run = (s.port p).failRun.getD f 0 + b2n (!good) → run < 16 → (good = false ∨ fld b 2 2 ≠ (s.port p).rxSeq) →
       (let x := { s0.port p with failRun := (s.port p).failRun.set f run, nakDue := true }
        completes (.arkelFlitReceive p f b fec) s fun s' =>
          s' = fecLanes (idleAfter ((s0.setPort p x).bump 0x1B020 p 1) p (s.port p).wire.length) p f)))) ∧
  (∀ s p, s.portUp p = true → (s.port p).replay ≠ [] → 10000 + (s.port p).ackAt ≤ s.now →
    completes (.arkelReplayTimeout p) s fun s' =>
      s' = replayAll (s.setPort p { s.port p with ackAt := s.now }) p) ∧
  (∀ s p m, s.inMsg p (fun m => msgOp m.bytes == 1 && accessReady s true m) = some m →
    ((s.consume p m).ctx (msgCtx m.bytes)).live = true →
    (let a := msgAddr m.bytes
     let c := msgCtx m.bytes
     completes (.arkelWriteMsg p) s fun s' =>
       s' = (requests a a (msgLen m.bytes)).foldl (fun s q =>
         let w := agentWrite s c (a + q.1) (slice (msgData m.bytes) q.1 q.2) [] (unitEnd p)
         if w.1 then collLanded w.2 c (a + q.1) q.2 else w.2) (s.consume p m))) ∧
  (∀ s p m, s.inMsg p (fun m => msgOp m.bytes == 2 && accessReady s false m) = some m →
    ((s.consume p m).port p).version = 2 → ((s.consume p m).ctx (msgCtx m.bytes)).live = true →
    (let r := agentReadAll (s.consume p m) (msgCtx m.bytes) (msgAddr m.bytes) (msgLen m.bytes) (unitEnd p)
     r.1.ok = true → completes (.arkelReadRequestMsg p) s fun s' =>
       s' = sendBack r.2 m (msgHeader 3 (if r.1.bad.isEmpty then 0 else 2) (msgCtx m.bytes) (msgTag m.bytes)
         (msgAddr m.bytes) r.1.data.length r.2.coord ++ r.1.data))) ∧
  (∀ s p m i e, msgAt s p 3 m → msgStatus m.bytes = 0 →
    (s.consume p m).links.issued.find? (fun i => i.engine.isSome && i.tag == msgTag m.bytes && i.ctx == msgCtx m.bytes) =
      some i → i.engine = some e → completes (.arkelReadResponseMsg p) s fun s' =>
      s' = (let s1 := { s.consume p m with links := { (s.consume p m).links with
              issued := dropEq i (s.consume p m).links.issued } }
            (s1.progressAll (engineReq (s.consume p m) e) [(resPort p true, 256 * ceilDiv m.bytes.length 256)]).engineLand e
              i.ofs (msgData m.bytes))) ∧
  (∀ s p m i, msgAt s p 6 m → i.engine = none →
    (s.consume p m).links.issued.find? (fun i => i.tag == msgTag m.bytes && i.ctx == msgCtx m.bytes &&
      (i.engine.isSome || i.rjoint == msgAddr m.bytes % 2 ^ 14)) = some i → completes (.unreachableNotice p) s fun s' =>
      s' = (let s1 := { s.consume p m with links := { (s.consume p m).links with
              issued := dropEq i (s.consume p m).links.issued } }
            signalFailed (if msgStatus m.bytes = 1 ∨ wayOf s1 m (s1.signalEntry i.entry) = false then s1
              else s1.markDown (s1.signalEntry i.entry)) i)) ∧
  (∀ s p, s.linkEnabled p = true → (s.port p).phase = .dark → completes (.arkelLightDetect p) s fun s' =>
    s' = s.setPort p { s.port p with phase := .lanes, cause := 0 }) ∧
  (∀ s p, p < 8 → (s.port p).phase = .lanes → (∀ d f, badLanes s p [] d f = []) →
    completes (.arkelLaneTrainDone p []) s fun s' =>
      (s'.port p).phase = .fec ∧ (s'.port p).txFibres = 15 ∧ (s'.port p).rxFibres = 15 ∧
      (s'.port p).spareTx = [15, 15, 15, 15] ∧ (s'.port p).spareRx = [15, 15, 15, 15] ∧ s.sameBut s' [.links, .trust]) ∧
  (∀ s p coord code, (s.port p).phase = .fec → (s.port p).rxFibres = 15 → code = p ^^^ 1 → p < 8 →
    coord < 2 ^ 24 → completes (.arkelLinkControlFlit p 1 2 coord code 15) s fun s' =>
      s' = linkUp (s.setPort p { s.port p with coord := coord, code := code }) p 2 ∧
      (s'.port p).phase = .up ∧ (s'.port p).version = 2) ∧
  (∀ s p, (s.port p).phase = .off → s.linkEnabled p = true → s.linkAuto p = true →
    completes (.arkelBringupRetry p) s fun s' => s' = s.setPort p { s.port p with phase := .dark }) ∧
  (∀ s p dir f lane, p < 8 → (s.port p).phase = .up → (s.port p).fibreOn dir f = true → lane < 8 → (s.port p).spare dir f = 15 →
    (s.port p).swapping.contains (dir, f) = false → completes (.arkelLaneFail p dir f lane) s fun s' =>
      s' = (let y := (s.port p).setSpare dir f lane
            recheckPort ((pointSpares ((laneNote s p dir f lane).setPort p
              { y with swapping := y.swapping ++ [(dir, f)] }) p (s.port p)).bump 0x1B028 p 1) p dir
              (if (s.port p).version = 1 then 37500 else 2500))) ∧
  (∀ s p dir f, completes (.arkelSpareSwapDone p dir f) s fun s' =>
    s' = s.setPort p { s.port p with swapping := (s.port p).swapping.filter (fun w => w != (dir, f)) }) ∧
  (∀ s p dir, s.portUp p = true → (s.port p).fibres dir = 0 → completes (.arkelLinkDown p dir) s fun s' =>
    s' = portDown s p .off (if dir = 1 then 5 else 0)) ∧
  (∀ s p dir f v, s.time.shedStage < 4 → placeSpare (badLanes s p [] dir f) = some v → (s.port p).phase = .up →
    (s.port p).version = 2 → (s.port p).fibreOn dir f = false → completes (.arkelFibreRejoin p dir f) s fun s' =>
      s' = pointSpares (s.setPort p ((Port.setFibres { s.port p with failRun := (s.port p).failRun.set f 0 } dir
        ((s.port p).fibres dir ||| (1#4 <<< f))).setSpare dir f v)) p (s.port p))

/-- R296, R297, R298, R353: the time exchange, the laser supply, and a removal. (Readings: log entries 2, 43, 44.) -/
def Obligations.ModuleEventsComplete : Prop :=
  (∀ s p, s.portUp p = true → (s.port p).window = true → completes (.timeExchangeSend p) s fun s' =>
    s' = s.setPort p ((s.port p).emit 3 true true false 0 0 0
      (leBytes 8 s.now ++ leBytes 8 s.rootSeen.1 ++ leBytes 1 s.rootSeen.2))) ∧
  (∀ s p (v : DWord) ofs hops, s.portUp p = true →
    (let ahead : Int := v.toNat - s.now
     let y := { s.port p with exchanged := true, offsetPs := ofs, rootAhead := ahead, rootHops := hops,
                              timeSplit := s.links.startedCtx && decide (1000000 < ahead) }
     let s1 := reparent (s.setPort p y)
     (s1.links.parent ≠ some p → completes (.timeExchangeFlit p v ofs hops) s fun s' =>
       s' = { s1 with links := { s1.links with acquired := true } }) ∧
     (s1.links.parent = some p → s.links.acquired = false → s.links.startedCtx = false →
       completes (.timeExchangeFlit p v ofs hops) s fun s' =>
         s' = { acquireTime s1 ofs with links := { (acquireTime s1 ofs).links with acquired := true } } ∧
         s'.now = (s.now + (ofs / 1000).toNat) % 2 ^ 64) ∧
     (s1.links.parent = some p → (s.links.acquired = true ∨ s.links.startedCtx = true) →
       completes (.timeExchangeFlit p v ofs hops) s fun s' =>
         s' = { s1 with time := { s1.time with slewLeft := ofs }, links := { s1.links with acquired := true } }))) ∧
  (∀ s l mm, l ≠ 0 → s.links.ls0 &&& ~~~l = 0 → s.links.ls1 = 0 → completes (.laserSupplyLoss 0 l mm) s fun s' =>
    s' = (let s1 := { s with links := { s.links with ls0 := s.links.ls0 &&& ~~~l, ls0mm := s.links.ls0mm && !mm } }
          (List.range 9).foldl (fun s p => if s.portUp p then portDown s p .off 0 else s)
            (s1.orReg 0x1B038 0 0x100000))) ∧
  (∀ s l mm, l ≠ 0 → (s.links.ls0 &&& ~~~l) ||| s.links.ls1 = 0x1FF → s.links.ls1 ≠ 0 →
    completes (.laserSupplyLoss 0 l mm) s fun s' =>
      s' = State.orReg { s with links := { s.links with ls0 := s.links.ls0 &&& ~~~l, ls0mm := s.links.ls0mm && !mm } }
        0x1B038 0 0x100000) ∧
  (∀ s l mm, completes (.laserSupplyLightReturn 0 l mm) s (fun s' =>
      s' = { s with links := { s.links with ls0 := s.links.ls0 ||| l, ls0mm := s.links.ls0mm || mm } }) ∧
    completes (.laserSupplyLightReturn 1 l mm) s (fun s' =>
      s' = { s with links := { s.links with ls1 := s.links.ls1 ||| l, ls1mm := s.links.ls1mm || mm } })) ∧
  (∀ s : State, (let held := fun (s : State) (p : Nat) =>
      s.time.treqs.any (fun r => r.res.any (fun c => c.1 == resPort p false || c.1 == resPort p true))
    let s1 := { s with time := { s.time with removed := true } }
    completes .removalAnnounce s (fun s' => s' = (List.range 8).foldl (fun s p => if held s p then s
      else linkCtrl (s.setRegFld 0x1B00C p 0 1 0) p (s.linkEnabled p) false) s1) ∧
    ((∀ p, p < 8 → held s p = true) → completes .removalAnnounce s fun s' => s' = s1)))

/-- R303 to R306: a collective descriptor is taken, starts when its group is free, and sends its setup message.
(Readings: log entries 36, 37.) -/
def Obligations.CollectiveCommandsComplete : Prop :=
  collRow .collReduceScatter 1 ∧ collRow .collAllGather 2 ∧ collRow .collAllReduce 3 ∧ collRow .collAllToAll 4 ∧
  collRow .collPermute 5 ∧ collRow .collVote 6 ∧ collRow .collLand 7 ∧
  (∀ s ctx g q d, s.coll? ctx g = none → firstColl (waitingColls s ctx g) = some (q, d) →
    collNext s ctx g = collKick (waitingColls s ctx g).length (collStart s ctx q d) ctx g) ∧
  (∀ s ctx g c, s.coll? ctx g = some c → collNext s ctx g = s) ∧
  (∀ s ctx q d st, collFault (s.startDesc ctx q d.abs) ctx d.bytes = some st →
    collStart s ctx q d = finishDesc (s.startDesc ctx q d.abs) ctx q d.abs st 0) ∧
  (∀ s ctx q d, collFault (s.startDesc ctx q d.abs) ctx d.bytes = none → cdOp d.bytes ≠ 5 →
    ∃ c s1, collStart s ctx q d = collLaunch s1 c ∧ c.ctx = ctx ∧ c.group = cdGroup d.bytes ∧ c.ring = q ∧
      c.abs = d.abs ∧ c.bytes = d.bytes ∧ c.phase = .setup ∧ c.startedAt = s.now ∧ c.wrote = false ∧ c.left = 0 ∧
      c.seq = (s.group ctx (cdGroup d.bytes)).seq.toNat ∧ c ∈ s1.colls ∧
      (s1.group ctx (cdGroup d.bytes)).seq = (s.group ctx (cdGroup d.bytes)).seq + 1) ∧
  (∀ s c, c.op ≠ 7 → (collPorts s c.ctx c.bytes).all s.portUp = true →
    (let g := s.collGroup c
     let r := collSend s c.ctx c.group (g.port true) (s.collCls c) 0
       (collSub s c 1 g.rank c.first (cdShard c.bytes) (if c.reduces then cdContrib c.bytes else 0))
       (setupData c.bytes g.rank false c.rounds)
     r.1 = .sent → collLaunch s c = r.2)) ∧
  (∀ s c, c.op = 7 → cdShard c.bytes ≠ 0 →
    collLaunch s c = s.setColl { c with phase := .land, missing := [(cdDst c.bytes, 32 * cdShard c.bytes)] })

/-- R304, R310 to R324: messages of collectives. (Readings: log entries 2, 36 to 38.) -/
def Obligations.CollectiveMessagesComplete : Prop :=
  (∀ s p m c, collTakes s p 1 (fun m => (setupOf s m.bytes).isSome || collStale s m.bytes) m →
    setupOf (collTaken s p m) m.bytes = some c → (let s1 := collTaken s p m
      let g := s1.collGroup c
      let d := collData m.bytes
      let bad := fld d 49 1 != 0 || fld d 48 1 != nextRank g.len g.rank false
      (subOrigin m.bytes = g.rank → c.phase = .setup → c.seq = subSeq m.bytes → c.op = subOp m.bytes →
        completes (.collSetupMsg p) s fun s' => s' = setupBack s1 c m.bytes bad) ∧
      (subOrigin m.bytes ≠ g.rank → c.phase = .setup → completes (.collSetupMsg p) s fun s' =>
        s' = (let wrong := bad || compared (zeros 16 ++ slice d 0 48) != compared c.bytes || subSeq m.bytes != c.seq
              let total := subTotal m.bytes + (if c.reduces then cdContrib c.bytes else 0)
              collForward (s1.setColl { c with seen := subOrigin m.bytes :: c.seen }) p m (subOrigin m.bytes) total
                (slice d 0 48 ++ leBytes 1 g.rank ++ leBytes 1 (b2n wrong) ++
                  leBytes 1 (max (fld d 50 1) c.rounds)))))) ∧
  (∀ s c b, (let c1 := { c with own := true, total := subTotal b, rounds := fld (collData b) 50 1 }
      setupBack s c b true = collEnd (s.setColl c1) c1 2 ∧
      (c.reduces = true → 4096 < subTotal b → setupBack s c b false = collEnd (s.setColl c1) c1 3) ∧
      (c.reduces = false → setupBack s c b false = collBegin (s.setColl c1) c1))) ∧
  (∀ s ctx g c, s.coll? ctx g = some c → c.phase = .setup → c.startedAt + s.collTimeout ≤ s.now →
    completes (.collSetupTimeout ctx g) s fun s' => s' = collEnd s c 4) ∧
  (∀ s p m c, collTakes s p 9 (fun _ => true) m → collOf (collTaken s p m) m.bytes = some c →
    axisGroup (collTaken s p m) m.bytes = none → c.phase ≠ .ended → completes (.collAbortMsg p) s fun s' =>
      s' = collEnd (collTaken s p m) c 5) ∧
  (∀ s p m c, collAt s p 2 [.header] m c → completes (.collHeaderPassMsg p) s fun s' =>
    s' = headerPass (collTaken s p m) p m c) ∧
  (∀ s p m c, collAt s p 3 [.mantissa] m c → completes (.collMantissaPassMsg p) s fun s' =>
    s' = mantissaPass (collTaken s p m) p m c) ∧
  (∀ s p m c, (let g := s.collGroup c
      let first := subFirst m.bytes - c.first
      let u := unpackBlocks c (collData m.bytes)
      let o := ownSums s c first u.2.length
      first / max 1 c.shard ≠ g.rank → ∀ own, o.1 = some own → mantissaPass s p m c =
        collForward o.2 p m g.rank 0 (packBlocks c first (u.1 + cdContrib c.bytes) (List.zipWith addInts u.2 own)))) ∧
  (∀ s p m c, collAt s p 4 [.mantissa, .gather] m c → completes (.collGatherDataMsg p) s fun s' =>
    s' = gatherPass (collTaken s p m) p m c) ∧
  (∀ s p m c, collAt s p 5 [.setup, .counts] m c → completes (.collCountsMsg p) s fun s' =>
    s' = countsPass (collTaken s p m) p m c) ∧
  (∀ s p m c g, collTakes s p 6 (fun m => collStale s m.bytes || (match axisGroup s m.bytes with
        | some g => subTotal m.bytes != (s.group (msgCtx m.bytes) g).rank
        | none => false) || (match collOf s m.bytes with | some c => c.phase == .buckets | none => false)) m →
    axisGroup (collTaken s p m) m.bytes = some g → (let s1 := collTaken s p m
      (subTotal m.bytes ≠ (s1.group (msgCtx m.bytes) g).rank → completes (.collBucketMsg p) s fun s' =>
        s' = collForward s1 p m (subOrigin m.bytes) (subTotal m.bytes) (collData m.bytes)) ∧
      (subTotal m.bytes = (s1.group (msgCtx m.bytes) g).rank → collOf s1 m.bytes = some c →
        completes (.collBucketMsg p) s fun s' =>
          s' = (let r := landBucket s1 c (subOrigin m.bytes) (subFirst m.bytes) (msgStatus m.bytes == 2)
                  (collData m.bytes)
                blocksLanded r.2 c r.1 (collData m.bytes).length allToAllEnd)))) ∧
  (∀ s p m c, collTakes s p 7 (permTakes s) m → collOf (collTaken s p m) m.bytes = some c →
    completes (.collPermuteDataMsg p) s fun s' =>
      s' = if subCount m.bytes = 0 then barrierPass (collTaken s p m) p m c else permPass (collTaken s p m) m c) ∧
  (∀ s p m c, collTakes s p 8 (fun m => (voteOf s m.bytes).isSome) m →
    voteOf (collTaken s p m) m.bytes = some c → completes (.collVoteMsg p) s fun s' =>
      s' = votePass (collTaken s p m) p m c) ∧
  (∀ s p m c, collAt s p 10 [.header, .mantissa, .stats] m c → (let s1 := collTaken s p m
      let d := collData m.bytes
      let x := { c with stats := tset (BitVec.ofNat 32 (fld d 0 4), BitVec.ofNat 32 (fld d 8 4)) c.stats (subOrigin m.bytes) }
      x.phase ≠ .stats → completes (.collStatisticsMsg p) s fun s' =>
        s' = if nextStop (s1.setColl x) p m c = subOrigin m.bytes then s1.setColl x
          else collForward (s1.setColl x) p m (subOrigin m.bytes) 0 d)) ∧
  (∀ s c st, (collFinish s c st).coll? c.ctx c.group = none → waitingColls (collFinish s c st) c.ctx c.group = [] →
    collEnd s c st = collFinish s c st)

/-- R339, R341: the lap of a commit, and its timeout. (Readings: log entry 24.) -/
def Obligations.CommitLapComplete : Prop :=
  (∀ s p ctx, soloLap s = some ctx → completes (.commitLapMsg p) s fun s' => s' = lapEnd s ctx) ∧
  (∀ s p m ctx g rest, soloLap s = none → heldLap s p = none → s.inMsg p isLap = some m →
    lapOn (s.consume p m) m = some (ctx, g) → (s.cont ctx).lapGroups = g :: rest →
    (let s1 := s.consume p m
     let c := s1.cont ctx
     let x := s1.group ctx g
     let agree := subFirst m.bytes == s1.contStep ctx
     (subOrigin m.bytes = x.rank → completes (.commitLapMsg p) s fun s' =>
       s' = lapNext (s1.setCont ctx { c with lapBack := true, lapAnd := c.lapAnd && bitAt (subTotal m.bytes) 0 }) ctx) ∧
     (subOrigin m.bytes ≠ x.rank → completes (.commitLapMsg p) s fun s' =>
       s' = (let y := { c with lapSeen := c.lapSeen + 1, lapAnd := c.lapAnd && agree,
                               lapCause := if agree then c.lapCause else 2 }
             lapNext (sendLap (s1.setCont ctx y) ctx g (subOrigin m.bytes)
               (bitAt (subTotal m.bytes) 0 && (c.lapAnd && agree)) (subFirst m.bytes)) ctx)))) ∧
  (∀ s ctx g, (s.cont ctx).lapGroups = [g] → (s.cont ctx).lapBack = true →
    (s.group ctx g).len ≤ (s.cont ctx).lapSeen + 1 →
    lapNext s ctx = lapEnd (s.setCont ctx { s.cont ctx with lapGroups := [] }) ctx) ∧
  (∀ s ctx, (s.cont ctx).st = .prepared → (s.cont ctx).preparedAt + 1000000 * s.regFld 0x1E024 ctx 0 16 ≤ s.now →
    completes (.contTimeoutExpiry ctx) s fun s' =>
      s' = commitRecord ((s.setCont ctx { s.cont ctx with st := .inDoubt }).bump 0x1E030 ctx 1) ctx 3)

/-- R393 to R401, R406 to R411, R196, R249: rows of the power manager. (Readings: log entries 53 to 57.) -/
def Obligations.PowerEventsComplete : Prop :=
  (∀ s v, s.time.pendVp = some v → s.power.dutyPend = none → s.allPass v s.admShare = true →
    completes .ppPendingApply s fun s' => s' = capMark (setPp s v)) ∧
  (∀ s d, s.time.pendVp = none → s.power.dutyPend = some d → s.allPass s.time.pp (s.dutyShare d) = true →
    completes .ppPendingApply s fun s' =>
      s' = capMark (s.modPower (fun p => { p with dutyAdm := d, dutyPend := none }))) ∧
  (∀ s b rs, b < 16 → (let temp := rs.foldl max 0
      let s1 := s.setBrick b { temp := temp, band := bandOf temp (s.brick b).band }
      (temp ≤ 380 → completes (.brickTempSample b rs) s fun s' => s' = s1) ∧
      (380 < temp → temp < 420 → completes (.brickTempSample b rs) s fun s' =>
        s' = throttleOn (s1.orReg 0x1704C b 0x8000) (1600 + b)) ∧
      (420 ≤ temp → completes (.brickTempSample b rs) s fun s' =>
        s' = shedTo (throttleOn (s1.orReg 0x1704C b 0x8000) (1600 + b)) 5 4))) ∧
  (∀ s e, (262 ≤ e ∨ s.holdup.wasOk = false ∨ s.holdup.failed = true) → completes (.holdupMeasure e) s fun s' =>
    s' = keepSweep (retryCommit (retryPrograms { s with holdup := { s.holdup with
      energy := e, ok := decide (262 ≤ e), wasOk := s.holdup.wasOk || decide (262 ≤ e), deferring := false } }))) ∧
  (∀ s e, e < 262 → s.holdup.wasOk = true → s.holdup.failed = false → completes (.holdupMeasure e) s fun s' =>
    s' = keepSweep (retryCommit (retryPrograms (shedTo { s with holdup := { s.holdup with
      energy := e, ok := false, failed := true, deferring := false } } 5 3)))) ∧
  (∀ s f, s.mgmt.up = true → capAccepts s.heard f = true → completes (.capFrame f) s fun s' =>
    s' = sendReport (capAccept s.heard f)) ∧
  (∀ s f, s.mgmt.up = true → capAccepts s.heard f = false → completes (.capFrame f) s fun s' =>
    s' = sendReport (s.heard.bump 0x2003C 0 1)) ∧
  (∀ s, s.regFld 0x2000C 0 0 8 ≠ 0 → s.mgmt.up = true → completes .reportTimer s fun s' =>
    s' = { s with mgmt := { s.mgmt with sent := s.mgmt.sent ++ [capReport s] }, power := { s.power with maxW := 0 } }) ∧
  (∀ s t, s.power.leaseEnd = some t → t ≤ s.now → completes .leaseExpiry s fun s' =>
    s' = capChange { s with power := { s.power with rackCap := none, leaseEnd := none, leaseExpired := true } }) ∧
  (∀ s w, completes (.powerWindowEnd w) s fun s' => s'.power.meanW = w ∧ s'.power.maxW = max s.power.maxW w ∧
    s'.power.energyIn = s.power.energyIn + BitVec.ofNat 64 w ∧ min s.power.dutyAdm 10 ≤ s'.power.duty ∧
    s'.power.duty ≤ 10 ∧ (s.duties w = false → s'.power.duty = 10) ∧ s.sameBut s' [.power, .freeCtr]) ∧
  (∀ s want w, completes (.curVpUpdate want w) s fun s' => s'.time.curVp = s.nextVp want ∧ s'.time.pp = s.time.pp ∧
    s'.time.devTime = s.time.devTime ∧ s'.time.treqs = s.time.treqs ∧ s'.time.shedStage = s.time.shedStage ∧
    s.sameBut s' [.time, .freeCtr]) ∧
  (∀ s, s.power.duty < 10 → completes (.dutyQuantum false) s fun s' =>
    s' = { s with power := { s.power with issueOpen := false } }) ∧
  (∀ s, completes (.dutyQuantum true) s fun s' => s' = startHeads { s with power := { s.power with issueOpen := true } }) ∧
  (∀ s, (5000000 + s.power.exemptFrom ≤ s.now ∨ s.collsExempt = false) → completes .collExemptExpiry s fun s' =>
    s' = { s with power := { s.power with collExempt := false, exemptColls := [] } }) ∧
  (∀ s t tmp, t < 1600 → (let s1 := throttleOn { s with power := { s.power with junc := tset tmp s.power.junc t } } t
    completes (.junctionSensorSample t tmp false) s (fun s' => s' = s1) ∧
    completes (.junctionSensorSample t tmp true) s (fun s' => s' = shedTo s1 5 4))) ∧
  (∀ s : State, (let next := s.power.throttle.filterMap (fun (e : Nat × Nat) =>
      if s.hot e.1 then some (e.1, min 20 (e.2 + 1))
      else if s.cooled e.1 then (if e.2 ≤ 1 then none else some (e.1, e.2 - 1)) else some e)
    let n := s.power.throttleSince + b2n (!s.power.throttle.isEmpty)
    let s1 := { s with power := { s.power with throttle := next, throttleSince := n % 10 } }
    (n < 10 → completes .thermalThrottleStep s fun s' => s' = s1) ∧
    (10 ≤ n → completes .thermalThrottleStep s fun s' => s' = s1.bump 0x20048 0 1))) ∧
  (∀ s i o, completes (.coolantTemperatureSample i o) s fun s' =>
    s' = { s with power := { s.power with coolIn := i, coolOut := o, flowLow := decide (i + 80 < o) } }) ∧
  (∀ s u, s.power.units.getD u 0 = 2 → s.unitEmpty u = true → completes (.unitDrainDone u) s fun s' =>
    s' = { s with power := { s.power with
      units := s.power.units.set u (if s.power.unitWant.getD u none = some true then 3 else 0),
      unitWant := s.power.unitWant.set u none } }) ∧
  (∀ s u, s.power.units.getD u 0 = 3 → completes (.unitPowerUpDone u) s fun s' =>
    s' = { s with power := { s.power with
      units := s.power.units.set u (if s.power.unitWant.getD u none = some false then 2 else 1),
      unitWant := s.power.unitWant.set u none } })

/-- R407 to R409, R467: shedding stages are entered one after another and left one at a time; the safe stop.
(Readings: log entries 58, 59.) -/
def Obligations.SheddingCompletes : Prop :=
  (∀ s cause, s.time.shedStage < 5 → completes (.shedStageEnter (s.time.shedStage + 1) cause) s fun s' =>
    s' = enterStage s (s.time.shedStage + 1) cause) ∧
  (∀ s stage cause, stage ≤ s.time.shedStage → completes (.shedStageEnter stage cause) s fun s' => s' = s) ∧
  (∀ s cause, (let counted := fun (k : Nat) => State.bump { s with time := { s.time with shedStage := k } } 0x20044 0 1
    let s3 := applyUnits (counted 3)
    enterStage s 1 cause = shedKiln (applyUnits (counted 1)) ∧ enterStage s 2 cause = applyUnits (counted 2) ∧
    enterStage s 3 cause =
      capMark (recheckAll { s3 with time := { s3.time with curVp := 0, pp := 0, pendVp := none } } 0 3))) ∧
  (∀ s, s.variant = .kv1s → shedKiln s = s) ∧
  (∀ s cause, (enterStage s 5 cause).power.stage5 = true ∧ (enterStage s 5 cause).power.stopCause = cause) ∧
  (∀ s, (s.time.shedStage = 0 ∨ 5 ≤ s.time.shedStage) → completes .shedStageExit s fun s' => s' = s) ∧
  (∀ s, (let s1 := applyUnits { s with time := { s.time with shedStage := s.time.shedStage - 1 } }
    (s.time.shedStage = 1 → completes .shedStageExit s fun s' => s' = unshedKiln s1) ∧
    (s.time.shedStage = 2 → completes .shedStageExit s fun s' => s' = s1) ∧
    (s.time.shedStage = 3 → completes .shedStageExit s fun s' => s' = wantedPp s1) ∧
    (s.time.shedStage = 4 → completes .shedStageExit s fun s' =>
      s' = { s1 with time := { s1.time with admStopped := false } }))) ∧
  (∀ s, s.power.stage5 = true → s.power.safeStop = false → (∀ c ∈ s.flash.cmds, c.programs = 0) →
    completes .safeStopCommit s fun s' => s' = safeStop s ∧ s'.power.safeStop = true) ∧
  (∀ s, s.time.shedStage < 5 → completes .presentRelease s fun s' => s' = shedTo s 5 2)

/-- R326, R357, R389, R450: idle counting, the reset of a context, function enables, the unmasking of a vector.
(Readings: log entries 45 to 47, 73.) -/
def Obligations.ContextEventsComplete : Prop :=
  (∀ s, completes .idleTick s fun s' => s.sameBut s' [.idle] ∧
    s'.idle = (List.range tileCount).foldl (fun m t =>
      if (s.ownerOf t).isNone then m
      else match idleCause s (s.tile t) with
        | none => m
        | some c => tset (tget 0 m (brickOf t * 16 + c) + 1) m (brickOf t * 16 + c)) s.idle) ∧
  (∀ s n, (s.ctx n).inReset = false → completes (.functionLevelReset n) s fun s' =>
    s' = (let c := s.ctx n
          let s1 := s.setCtx n { c with inReset := true, resetRect := rectTiles c.x0 c.y0 c.wm1 c.hm1 }
          let s2 := dropUnstarted (abandonReads s1 n) n
          stopLaunches { s2 with launches := s2.launches.filter (fun l => !(l.ctx == n && !l.running)) } n)) ∧
  (∀ s n, (s.ctx n).inReset = true → completes (.functionLevelReset n) s fun s' => s' = s) ∧
  (∀ s n, (s.ctx n).inReset = true → completes (.contextResetComplete n) s fun s' =>
    s' = (let s1 := clearCtx (endInFlight s n) n
          mbPumpAll (s1.setCtx n { s1.ctx n with inReset := false }) n)) ∧
  (∀ s n, ((clearCtx s n).ctx n).sq = [] ∧ ((clearCtx s n).ctx n).cq = [] ∧ ((clearCtx s n).ctx n).held = [] ∧
    ((clearCtx s n).ctx n).stepPoison0 = false ∧ ((clearCtx s n).ctx n).stepPoison1 = false) ∧
  (∀ s n, (s.ctx n).enable = false → completes (.functionEnableChange n true) s fun s' =>
    s' = s.setCtx n { s.ctx n with fnEn := true }) ∧
  (∀ s n, (s.ctx n).enable = true → (s.ctx n).fnEn = false →
    s.ctxs.any (fun d => d.1 != n && d.2.enable && d.2.fnEn && (s.ctx n).overlaps d.2) = true →
    completes (.functionEnableChange n true) s fun s' =>
      s' = (s.setCtx n { s.ctx n with fnEn := true, enable := false }).clampEvent 0x10004 n 2) ∧
  (∀ s n, (s.ctx n).enable = true → (s.ctx n).fnEn = true → completes (.functionEnableChange n false) s fun s' =>
    s' = (ctxReset s n).setCtx n { (ctxReset s n).ctx n with fnEn := false, enable := true }) ∧
  (∀ s n v, (let e := tget MsixVec.reset s.msix (n * 32 + v)
    let s1 := { s with msix := tset { e with masked := false, pending := false } s.msix (n * 32 + v) }
    (e.pending = true → completes (.msixUnmask n v) s fun s' => s' = { s1 with msixSent := s1.msixSent ++ [(n, v)] }) ∧
    (e.pending = false → completes (.msixUnmask n v) s fun s' => s' = s1)))

/-- R453 to R464, R403: test access. (Readings: log entries 67 to 70.) -/
def Obligations.TestAccessCompletes : Prop :=
  testRow .testFence 1 fenceElement ∧ testRow .testUnfence 2 unfenceElement ∧ testRow .testSelftest 3 selftestElement ∧
  testRow .testSpall 4 spallElement ∧ testRow .testRestore 5 restoreElement ∧
  (∀ s f, testTakes s f = true → (tfOp f = 0 ∨ 5 < tfOp f) → completes (.testFence f) s fun s' =>
    s' = testAnswer s.heard f 6 0) ∧
  (∀ s f, tfKind f = 0 → (s.tile (tfId f)).run ≠ .fenced → (s.tile (tfId f)).run ≠ .spalled →
    fenceElement s f = tileFence (testBegin s f) (tfId f) ∧ unfenceElement s f = testAnswer s f 2 0 ∧
    selftestElement s f = testAnswer s f 2 0 ∧ spallElement s f = testAnswer s f 2 0 ∧
    restoreElement s f = testAnswer s f 2 0) ∧
  (∀ s f, tfKind f = 0 → (s.tile (tfId f)).run = .fenced →
    fenceElement s f = testAnswer s f 0 0 ∧
    unfenceElement s f = testAnswer (pointPut (s.modTile (tfId f) (fun x =>
      { x with run := .idle, cache := [], zeroNext := true })) 0 (tfId f) 0) f 0 0 ∧
    selftestElement s f = testBegin s f ∧
    (wouldSplit s (tfId f) = true → spallElement s f =
      testAnswer { s with trust := { s.trust with moduleFailed := true } } f 4 0) ∧
    (wouldSplit s (tfId f) = false → spallElement s f = testBegin { s with
      detourAvoid := s.detourAvoid.filter (· != tfId f) ++ [tfId f], detourGen := s.detourGen + 1 } f)) ∧
  (∀ s f, tfKind f = 0 → (s.tile (tfId f)).run = .spalled →
    fenceElement s f = testAnswer s f 2 0 ∧ restoreElement s f = testAnswer (restoreTile s (tfId f)) f 0 0) ∧
  (∀ s t, (s.tile t).fencePending = true → s.tileHeld t = false → completes (.tileFenceEffect t) s fun s' =>
    s' = tileFenced s t) ∧
  (∀ s k id res rate ber sweep rb c, s.tests.find? (fun c => c.op == 3 && c.kind == k && c.id == id) = some c →
    (let bits := selftestBits s k id res rate ber sweep rb c.depth
     let s1 := if elementFenced s k id then selftestEffect s k id rate sweep c.depth (bits == 0) else s
     let s2 := if bits = 0 then s1 else repairEvent s1 (elementOwner s1 k id) 2 id 3 1 bits
     completes (.selftestDone k id res rate ber sweep rb) s fun s' =>
       s' = testDone s2 3 k id (b2n (bits != 0)) bits (if k = 0 then rate % 65536 else 0) (if k = 2 then ber % 256 else 0))) ∧
  (∀ s t, s.tests.any (fun c => c.op == 4 && c.kind == 0 && c.id == t) = true → completes (.spallTileStop t) s fun s' =>
    s' = spallTile s t) ∧
  (∀ s t rate, t < tileCount → (s.tile t).run ≠ .spalled → 97 * rate < 100 * s.speedEntry t s.time.curVp →
    (let vp := s.time.curVp
     let v := 97 * rate / 100
     let s1 := storePut ((s.modPower (fun p => { p with tsm := tset (v, true) p.tsm (t * 16 + vp) })).bump 0x20040 0 1)
       secSpeed [(t * 16 + vp, speedWord v true)]
     (floorRate vp ≤ v → completes (.tileReplicaSample t rate) s fun s' => s' = s1) ∧
     (v < floorRate vp → (s.tile t).run ≠ .fenced → s.tests.any (fun c => c.kind == 0 && c.id == t) = false →
       completes (.tileReplicaSample t rate) s fun s' => s' = tileFence { s1 with tests := s1.tests ++
         [{ op := 1, kind := 0, id := t, tag := 0, depth := false, auto := true }] } t))) ∧
  (∀ s t rate, 100 * s.speedEntry t s.time.curVp ≤ 97 * rate → completes (.tileReplicaSample t rate) s fun s' => s' = s)

/-- R420, R426 to R432, R403: boot, resets, the retained store, the watchdog and the management session. (Readings:
log entries 5, 60 to 65.) -/
def Obligations.ControllerRowsComplete : Prop :=
  (∀ s p0 p1 h0 h1 sa sb bad, completes (.coldReset p0 p1 h0 h1 sa sb bad) s fun s' =>
    s' = coldReset s p0 p1 h0 h1 sa sb bad ∧ s'.trust.stage = (if s'.trust.bindLocked then 6 else 7)) ∧
  (∀ s train b, bootSlot s.trust = some b → (let s' := bootOn s train
    s'.trust.stage = 6 ∧ s'.trust.bindLocked = true ∧ s'.trust.cmcState = 0)) ∧
  (∀ s train, bootSlot s.trust = none → (let s' := bootOn s train
    s'.trust.stage = 7 ∧ s'.trust.bindLocked = s.trust.bindLocked ∧ s.sameBut s' [.mail, .trust])) ∧
  (∀ s, completes .hostPortReset s fun s' => s'.msix = [] ∧
    (let s1 := (List.range 64).foldl ctxReset s
     s1.sameBut s' [.ctxs, .msix] ∧ ∀ n, (s'.ctx n) = { s1.ctx n with fnEn := false })) ∧
  (∀ s r rest, s.trust.queue = r :: rest → s.trust.writing = none → 6 ≤ s.trust.stage →
    s.trust.deferred = false → s.power.stage5 = false →
    (holdupAllows s 60 = true → completes .storeRecordCommit s fun s' =>
      s' = { s with trust := { s.trust with queue := rest, writing := some r, busy := true } }) ∧
    (holdupAllows s 60 = false → completes .storeRecordCommit s fun s' =>
      s' = deferStore { s with trust := { s.trust with deferred := true } })) ∧
  (∀ s, s.trust.writing = none → s.trust.compacting = false → 6 ≤ s.trust.stage → s.trust.free < 0x100000 →
    s.trust.deferred = false → s.power.stage5 = false → holdupAllows s 60 = true → completes .storeCompact s fun s' =>
      s' = { s with trust := { s.trust with writing := some snapshotRec, busy := true, compacting := true } }) ∧
  (∀ s r bad, s.trust.writing = some r → s.trust.warmPending = false →
    (r.section_ ≠ 0xFF → completes (.retainedStoreRecordDone bad) s fun s' => s' = { s with trust := { s.trust with
      writing := none, busy := false, storeGen := s.trust.storeGen + 1, free := s.trust.free - r.bytes,
      committed := s.trust.committed ++ [r] } }) ∧
    (r.section_ = 0xFF → completes (.retainedStoreRecordDone bad) s fun s' => s'.trust.writing = none ∧
      s'.trust.busy = false ∧ s'.trust.compacting = false ∧ s'.trust.half = (!s.trust.half) ∧
      0x100000 ≤ s'.trust.free ∧ s'.trust.committed = s.trust.committed ∧ s.sameBut s' [.trust, .freeCtr])) ∧
  (∀ s r bad, s.trust.writing = some r → s.trust.warmPending = true → r.section_ ≠ 0xFF →
    completes (.retainedStoreRecordDone bad) s fun s' => s' = warmReset { s with trust := { s.trust with
      writing := none, busy := false, storeGen := s.trust.storeGen + 1, free := s.trust.free - r.bytes,
      committed := s.trust.committed ++ [r] } } bad) ∧
  (∀ s, completes .lifetimeHourlyRecord s fun s' =>
    s' = storePut s secLifetime (lifetimeData s s.trust.stopCause)) ∧
  (∀ s es, s.power.remeasuring = true → s.trust.rebuilding = false → completes (.remeasureDone es) s fun s' =>
    s' = (let d := es.map (fun (e : Nat × Nat × Nat) => (e.1 * 16 + e.2.1, e.2.2 % 65536))
          let old := s.power.tsm.map (fun (e : Nat × (Nat × Bool)) => (e.1, (e.2.1, false)))
          storePut { s with power := { s.power with
            remeasuring := false, tsm := d.foldl (fun m x => tset (x.2, false) m x.1) old } } secSpeed d)) ∧
  (∀ s, s.trust.stage = 6 → s.trust.cmcFailed = false → s.trust.wdtAt + s.wdtNs ≤ s.now →
    completes .wdtExpiry s fun s' => s' = restartCmc s) ∧
  (∀ s h, s.trust.identityLost = false → s.trust.stage = 6 → s.trust.cmcState = 0 → s.trust.peers.contains h = true →
    completes (.mgmtHandshake h) s fun s' =>
      s' = mbPumpAll { s with mgmt := { s.mgmt with up := true, peer := h, lastAt := s.now } } 0x82) ∧
  (∀ s, s.mgmt.up = true → 10000000000 + s.mgmt.lastAt ≤ s.now → completes .mgmtSessionIdleTimeout s fun s' =>
    s' = mbPumpAll { s with mgmt := { s.mgmt with up := false } } 0x82)

/-- R421 to R423: the services of the KRT. (Readings: log entries 60, 63.) -/
def Obligations.KrtServicesComplete : Prop :=
  (∀ s ch p, krtAt s ch 1 p → s.trust.identityLost = true → completes (.krtAttest ch) s fun s' =>
    s' = krtAnswer s s ch 1 2 0) ∧
  (∀ s ch p, krtAt s ch 1 p → s.trust.identityLost = false →
    (let r := krtWrite s.draw.2 ch p (report s.draw.2 (slice p 12 32) s.draw.1)
     completes (.krtAttest ch) s fun s' => s' = krtAnswer s r.2 ch 1 r.1.1 r.1.2)) ∧
  (∀ s ch p op, krtAt s ch op p → (op = 0 ∨ 5 < op) → completes (.krtAttest ch) s fun s' =>
    s' = krtAnswer s s ch op 4 0) ∧
  (∀ s ch p, krtAt s ch 2 p → (krtAllowed s ch = false ∨ fld p 2 1 < 4 ∨ 7 < fld p 2 1) →
    completes (.krtExtend ch) s fun s' => s' = krtAnswer s s ch 2 3 0) ∧
  (∀ s ch p d s1, krtAt s ch 2 p → krtAllowed s ch = true → 4 ≤ fld p 2 1 → fld p 2 1 ≤ 7 →
    krtDigest s ch p = (some d, s1) → completes (.krtExtend ch) s fun s' =>
      s' = krtAnswer s (extendMeas s1 (fld p 2 1) d) ch 2 0 0) ∧
  (∀ s ch p, krtAt s ch 3 p → (let r := krtWrite s ch p ((List.range (min Config.certLen 16384)).map Config.certByte)
    completes (.krtCert ch) s fun s' => s' = krtAnswer s r.2 ch 3 r.1.1 r.1.2)) ∧
  (∀ s ch p d s1, krtAt s ch 4 p → krtAllowed s ch = true → krtDigest s ch p = (some d, s1) →
    (s1.trust.peers.contains d = true → completes (.krtPeerAdd ch) s fun s' => s' = krtAnswer s s1 ch 4 0 0) ∧
    (s1.trust.peers.contains d = false → 8 ≤ s1.trust.peers.length → completes (.krtPeerAdd ch) s fun s' =>
      s' = krtAnswer s s1 ch 4 5 0) ∧
    (s1.trust.peers.contains d = false → s1.trust.peers.length < 8 → completes (.krtPeerAdd ch) s fun s' =>
      s' = krtAnswer s (putSecurity { s1 with trust := { s1.trust with peers := s1.trust.peers ++ [d] } }) ch 4 0 0)) ∧
  (∀ s ch p d s1, krtAt s ch 5 p → krtAllowed s ch = true → krtDigest s ch p = (some d, s1) →
    s1.trust.peers.contains d = true → completes (.krtPeerDel ch) s fun s' =>
      s' = krtAnswer s (putSecurity { s1 with trust := { s1.trust with
        peers := s1.trust.peers.filter (fun x => x != d) } }) ch 5 0 0) ∧
  (∀ s ch p, krtAllowed s ch = false → (krtAt s ch 4 p → completes (.krtPeerAdd ch) s fun s' =>
      s' = krtAnswer s s ch 4 3 0) ∧
    (krtAt s ch 5 p → completes (.krtPeerDel ch) s fun s' => s' = krtAnswer s s ch 5 3 0)) ∧
  (∀ s0 s ch op st len c, krtReply s ch = some c → (s.mbox c).queue.length < 16 → krtAnswer s0 s ch op st len =
    (mbSendBy (mbTake s ch) c 0x81 0 1 (leBytes 1 1 ++ leBytes 1 ((op + 0x80) % 256) ++ leBytes 1 st ++ zeros 9 ++
      leBytes 4 len ++ zeros 28)).2)

/-- The front of the queue: one step is the command there, on the state with the rest of the queue. -/
def Obligations.StepRunsFrontCommand : Prop :=
  ∀ (s : State) (c : Instr) (rest : List Instr), s.pending = c :: rest →
    step s = exec c { s with pending := rest }

/-- The model's choice (log entry 1): with no command waiting, a step is one period of the reference oscillator. R37: it
adds 10 ns; R38: slewing moves at most 10 ps of the correction into the time, and loses none. -/
def Obligations.IdleStepIsOnePeriod : Prop :=
  ∀ s : State, s.pending = [] → 0 ≤ s.time.slewAcc → s.time.slewAcc < 1000 → s.time.devTime + 12 < 2 ^ 64 →
    9 ≤ s.time.devTime → ∃ t, step s = .next t ∧ s.sameBut t [.time] ∧
      (s.time.slewLeft - t.time.slewLeft).natAbs ≤ 10 ∧ 0 ≤ t.time.slewAcc ∧ t.time.slewAcc < 1000 ∧
      1000 * (t.time.devTime : Int) + t.time.slewAcc =
        1000 * ((s.time.devTime : Int) + 10) + s.time.slewAcc + (s.time.slewLeft - t.time.slewLeft) ∧
      (s.time.slewLeft = 0 → t.time.devTime = s.time.devTime + 10) ∧ t.time.treqs = s.time.treqs ∧
      t.time.pp = s.time.pp ∧ t.time.curVp = s.time.curVp

/-- Every command answers a next state, leaves the queue behind it and the variant alone, and lets neither of the
model's two counters fall (log entry 8). -/
def Obligations.EveryCommandAnswers : Prop :=
  ∀ (i : Instr) (s : State), ∃ t, exec i s = .next t ∧ t.pending = s.pending ∧ t.variant = s.variant ∧
    s.freeCtr ≤ t.freeCtr ∧ s.nextId ≤ t.nextId

/-- The state at reset has its memories and tables in canonical form. -/
def Obligations.ResetIsCanonical : Prop := State.reset.Canon

/-- From every state in canonical form, each step leads to a state in canonical form. -/
def Obligations.CanonicalFormKept : Prop := ∀ s t : State, s.Canon → step s = .next t → t.Canon

/-- The frame of every command: no part of the state changes but those that `frameOf` lists for it. -/
def Obligations.CommandsKeepTheirFrame : Prop :=
  ∀ (i : Instr) (s t : State), exec i s = .next t → s.sameBut t (frameOf i)

/-- R24, R179: a write of an agent for its context changes no byte outside the bytes written; one into brick data
that is carried out leaves there the bytes written. (Readings: log entry 82.) -/
def Obligations.AgentWritesOnlyItsBytes : Prop :=
  ∀ (s : State) (ctx a : Nat) (bs : List Byte) (bad : List Nat), s.Canon →
    (let r := agentWriteAll s ctx a bs bad
     (∀ x, (x < a ∨ a + bs.length ≤ x) → r.2.mem.read x = s.mem.read x) ∧
     (hostBase ≤ a → s.hostAddr ctx a + bs.length < 2 ^ 64 →
       ∀ h, (h < s.hostAddr ctx a ∨ s.hostAddr ctx a + bs.length ≤ h) → r.2.hostMem.read h = s.hostMem.read h) ∧
     (a + bs.length ≤ brickTop → r.2.hostMem = s.hostMem ∧
       (r.1 = true → r.2.mem.readBytes a bs.length = bs)))

/-- R447, R446, R10: for every word of the register map, a write, before the further limits of single words, puts into each
field that it changes the legal value next to the one written, and leaves every other field and every reserved bit as they were; a field of access WK changes
only under a disarmed unlock. -/
def Obligations.FieldsTakeLegalValues : Prop :=
  ∀ off r, wordRow off = some r → ∀ old v, old < 2 ^ 32 → v < 2 ^ 32 → ∀ wk,
    r.merge old v wk < 2 ^ 32 ∧
    (∀ f ∈ r.fields, bits (r.merge old v wk) f.lsb f.width =
      if f.taken wk then f.legal (bits v f.lsb f.width) else bits old f.lsb f.width) ∧
    (∀ f ∈ r.fields, ∀ lo hi, f.clamp = .range lo hi →
      lo ≤ f.legal (bits v f.lsb f.width) ∧ f.legal (bits v f.lsb f.width) ≤ hi) ∧
    (∀ f ∈ r.fields, f.acc = .wk → f.taken false = false) ∧
    (∀ k, k < 32 → (∀ f ∈ r.fields, k < f.lsb ∨ f.lsb + f.width ≤ k) → bitAt (r.merge old v wk) k = bitAt old k)

/-- R440, R446, R448, R388, R359: writes that the device turns away, and how it counts them. (Readings: log entries
49, 50.) -/
def Obligations.TurnedAwayWritesAreCounted : Prop :=
  (∀ s m off (v : Word), outOfReach m off = false → decodeFor m off ≠ .kvWindow → (m, off, leBytes 4 v.toNat) ∉ s.regPosted →
    completes (.registerWrite m off v false) s fun s' => s' = s.bump 0x1024 0 1) ∧
  (∀ s m at_ r v, r.mask .wk ≠ 0 → s.unlocked m = false → r.mask .rw + r.mask .wo = 0 →
    writeWord s m at_ r v = s.bump 0x101C 0 1) ∧
  (∀ s m at_ r v, s.unitAbsent r.off = false → r.mask .rw + r.mask .wo ≠ 0 → r.mask .wk = 0 →
    s.ignores m r.off (s.bankOf m r.bank) (clampWord r.off (r.merge (s.wordValue m r) v (s.unlocked m))) = true →
    writeWord s m at_ r v = s.clampEvent at_ m 2) ∧
  (∀ (s : State) off m kind, s.Canon → off < 0x4000000 → m < 256 → kind < 256 → (let t := s.clampEvent off m kind
    t.reg 0x1010 0 = min 0xFFFFFFFF (s.reg 0x1010 0 + 1) ∧ t.reg 0x1014 0 = canon off ∧
    t.reg 0x1018 0 = m + 256 * kind ∧ s.sameBut t [.regs] ∧
    ∀ o i, regKey o i ≠ regKey 0x1010 0 → regKey o i ≠ regKey 0x1014 0 → regKey o i ≠ regKey 0x1018 0 →
      t.reg o i = s.reg o i)) ∧
  (∀ s m off (v : Word), outOfReach m off = true → (m, off, leBytes 4 v.toNat) ∉ s.regPosted →
    completes (.registerWrite m off v true) s fun s' => s' = s.bump 0x10020 (m - 0x40) 1) ∧
  (∀ s m off (v : Word), outOfReach m off = false → s.domainOff m off = true → 0x80 ≤ m → (m, off, leBytes 4 v.toNat) ∉ s.regPosted →
    completes (.registerWrite m off v true) s fun s' => s' = s.bump 0x1F02C 0 1)

/-- R62: scalar register S0 always reads as 0, and a write to it does nothing; a write to another one is read back, and
leaves the rest. -/
def Obligations.ScalarRegisterZero : Prop :=
  (∀ (x : Tile), x.sreg 0 = 0) ∧ (∀ (x : Tile) v, x.setS 0 v = x) ∧
  (∀ (x : Tile) i v, i ≠ 0 → i < x.sregs.length → (x.setS i v).sreg i = v % 2 ^ 64) ∧
  (∀ (x : Tile) i j v, i ≠ j → (x.setS i v).sreg j = x.sreg j) ∧
  (∀ (x : Tile) i v, (x.setS i v) = { x with sregs := (x.setS i v).sregs })

/-- R17, with the tile ids of R15 and the channel regions of R18. -/
def Obligations.BricksLieAboveTheirTiles : Prop :=
  (∀ x y, x < 160 → y < 160 → brickOf (tileAt x y) = 4 * (y / 40) + x / 40 ∧ brickOf (tileAt x y) < 16) ∧
  brickOf (tileAt 0 0) = 0 ∧ brickOf (tileAt 159 159) = 15 ∧
  (∀ x y, x < 160 → y < 160 → tileAt x y < tileCount ∧ tileX (tileAt x y) = x ∧ tileY (tileAt x y) = y) ∧
  (∀ t, t < tileCount → tileX t < 160 ∧ tileY t < 160 ∧ tileAt (tileX t) (tileY t) = t) ∧
  (∀ t a, chanOf a = t ↔ t * 0x2000000 ≤ a ∧ a < t * 0x2000000 + 0x2000000)

/-- R39: a read of DEVTIME_LO returns the low half of device time and latches the upper half; a read of DEVTIME_HI then
returns that half, and again until the next read of DEVTIME_LO; before any, 0. -/
def Obligations.DeviceTimeReadsAsOneValue : Prop :=
  (∀ s m, wayTo s m 0x12000 → wayTo s m 0x12004 → s.Canon → s.now < 2 ^ 64 →
    ∃ t u, exec (.devtimeLoRead m) s = .next t ∧ exec (.registerReadClear m 0x12004) t = .next u ∧
      (∀ w, exec (.registerReadClear m 0x12004) { u with time := w } = .next { u with time := w }) ∧
      (t.master m).lastRead = some (BitVec.ofNat 32 s.now) ∧
      (u.master m).lastRead = some (BitVec.ofNat 32 (s.now / 2 ^ 32))) ∧
  (∃ t, exec (.registerReadClear 0 0x12004) State.reset = .next t ∧ (t.master 0).lastRead = some 0)

/-- R289: at E5 the partner's port code is checked; MISWIRED is cause 3. -/
def Obligations.PortCodeIsChecked : Prop :=
  ∀ s p vmax coord code fibres, p < 8 → (s.port p).phase = .fec → 1 ≤ vmax → coord < 2 ^ 24 → code < 8 →
    (s.port p).rxFibres &&& BitVec.ofNat 4 fibres ≠ 0 →
    (code ≠ p ^^^ 1 → s.anyPort p = false → completes (.arkelLinkControlFlit p 1 vmax coord code fibres) s fun s' =>
      (s'.port p).phase = .off ∧ (s'.port p).cause = 3 ∧ s'.view 0 0x1B014 p = some (coord + 2 ^ 24 * code)) ∧
    ((code = p ^^^ 1 ∨ s.anyPort p = true) → completes (.arkelLinkControlFlit p 1 vmax coord code fibres) s fun s' =>
      (s'.port p).phase = .up ∧ s'.view 0 0x1B014 p = some (coord + 2 ^ 24 * code))

/-- R85 to R87: a NaN has no payload and is written as the canonical NaN; every finite value of every format, the
subnormal ones and both zeros among them, is read and written back without loss and without a flag, however the
conversion rounds and whatever its overflow settings. -/
def Obligations.FormatsKeepTheirValues : Prop :=
  (∀ cv r, Fmt.fp32.encode cv r .nan = (0x7FC00000, 0) ∧ Fmt.bf16.encode cv r .nan = (0x7FC0, 0) ∧
    Fmt.fp16.encode cv r .nan = (0x7E00, 0) ∧ Fmt.e4m3.encode cv r .nan = (0x7F, 0) ∧
    Fmt.e5m2.encode cv r .nan = (0x7E, 0)) ∧
  (∀ w : Nat, w < 2 ^ 32 → (Fmt.fp32.decode w = .nan ↔ bits w 23 8 = 255 ∧ bits w 0 23 ≠ 0)) ∧
  (∀ (f : Fmt) (cv : Conv) (r : Rnd) (w : Nat), w < 2 ^ f.width → (f.decode w).isFin = true →
    f.encode cv r (f.decode w) = (w, 0)) ∧
  (∀ (f : Fmt) (w : Nat), w < 2 ^ f.width → bits w f.mb f.eb = 0 →
    f.decode w = .fin (bitAt w (f.eb + f.mb)) (bits w 0 f.mb) f.emin)

/-- R112 to R114: the sum of blocks is exact: it depends only on the set of contributions, neither on their order nor on
how they are spread over members. -/
def Obligations.BlockSumsIgnoreOrder : Prop :=
  ∀ n (bs cs : List (List Int)), (∀ b ∈ bs, b.length = n) →
    (bs.Perm cs → sumBlocks n cs = sumBlocks n bs) ∧
    ((∀ c ∈ cs, c.length = n) → sumBlocks n (bs ++ cs) = addInts (sumBlocks n bs) (sumBlocks n cs)) ∧
    ∀ k, k < n → (sumBlocks n bs).getD k 0 = (bs.map (fun b => b.getD k 0)).sum

/-- R450: a masked vector that is raised stays pending, and its message goes when the mask is cleared; one that is
not masked goes at once. (Readings: log entries 73, 84.) -/
def Obligations.MaskedVectorsWait : Prop :=
  ∀ s fn v, v < 32 →
    ((tget MsixVec.reset s.msix (fn * 32 + v)).masked = false →
      raiseVector s fn v = { s with msixSent := s.msixSent ++ [(fn, v)] }) ∧
    ((tget MsixVec.reset s.msix (fn * 32 + v)).masked = true → (let t := raiseVector s fn v
      t.msixSent = s.msixSent ∧ s.sameBut t [.msix] ∧
      completes (.msixUnmask fn v) t fun u => u.msixSent = s.msixSent ++ [(fn, v)] ∧
        (tget MsixVec.reset u.msix (fn * 32 + v)).masked = false ∧
        (tget MsixVec.reset u.msix (fn * 32 + v)).pending = false ∧
        ∀ k, k ≠ fn * 32 + v → tget MsixVec.reset u.msix k = tget MsixVec.reset s.msix k))

/-- R37, R50, R357, R393, R446 and the Reset columns of the register map: what power-up leaves.
A reset value that the map gives as trim or map is the model's choice (log entry 3), and so are FN_EN and the state before
boot (log entries 5 and 47). -/
def Obligations.ResetLeavesTheMapsValues : Prop :=
  (∀ off r, wordRow off = some r → ∀ idx, ∀ f ∈ r.fields, bits (State.reset.reg off idx) f.lsb f.width = f.reset) ∧
  State.reset.now = 0 ∧ State.reset.pending = [] ∧ (∀ m, State.reset.unlocked m = false) ∧
  (∀ n, (State.reset.ctx n).enable = false ∧ (State.reset.ctx n).fnEn = false) ∧
  State.reset.power.rackCap = none ∧ State.reset.power.leaseExpired = true ∧
  State.reset.capInForce = min (State.reset.regFld 0x20008 0 0 16) (State.reset.regFld 0x20008 0 16 16) ∧
  State.reset.time.pp = 8 ∧ State.reset.time.curVp = 8 ∧ (∀ t, (State.reset.tile t).run = .idle) ∧
  (∀ q n, ((State.reset.ctx n).ring q).en = false ∧ ((State.reset.ctx n).cring q).en = false) ∧
  (∀ j, (State.reset.joint j).valid = false) ∧ (∀ g c, (State.reset.group c g).en = false) ∧
  (∀ c, (State.reset.cont c).st = .disabled)

/-- R200, R328, R391, R413: each read of a low half returns it and latches the upper half for its master; the read of
ERRLOG_3 returns its word and removes the oldest entry. R359: an agent of another context has its address error. (A
virtual function's read, which reaches none of these registers, changes nothing: the model's choice, log entry 48.) -/
def Obligations.LatchedReadsComplete : Prop :=
  (∀ s m, wholeMap m →
    (let v := (tget 0 s.idle (s.regFld 0x1D000 m 0 4 * 16 + s.regFld 0x1D000 m 4 4)).toNat
     exec (.idleLoRead m) s = .next (returned (s.setReg 0x1D008 m (v / 2 ^ 32)) m v)) ∧
    (let v := (s.joint (s.reg 0x1F040 m)).value.toNat
     exec (.jointValueLoRead m) s = .next (returned (s.setReg 0x1F04C m (v / 2 ^ 32)) m v)) ∧
    (let v := (s.joint (s.reg 0x1F040 m)).ticket.toNat
     exec (.jointTicketLoRead m) s = .next (returned (s.setReg 0x1F05C m (v / 2 ^ 32)) m v)) ∧
    (let v := s.energyOf (s.regFld 0x20028 m 0 6 * 32 + s.regFld 0x20028 m 8 5)
     exec (.enLoRead m) s = .next (returned (s.setReg 0x20030 m (v / 2 ^ 32)) m v)) ∧
    (∀ e rest, s.errLog = e :: rest → exec (.errlogPopRead m) s =
      .next (returned { s with errLog := rest, errOverflow := false } m (e.time / 2 ^ 32))) ∧
    (s.errLog = [] → exec (.errlogPopRead m) s = .next (returned { s with errOverflow := false } m 0))) ∧
  (∀ s n, 1 ≤ n → n < 64 → (let t := s.bump 0x10020 n 1
    exec (.idleLoRead (0x40 + n)) s = .next t ∧ exec (.jointValueLoRead (0x40 + n)) s = .next t ∧
    exec (.jointTicketLoRead (0x40 + n)) s = .next t ∧ exec (.enLoRead (0x40 + n)) s = .next t ∧
    exec (.errlogPopRead (0x40 + n)) s = .next t)) ∧
  (∀ s m, 1 ≤ m → m < 0x40 → exec (.idleLoRead m) s = .next s ∧ exec (.jointValueLoRead m) s = .next s ∧
    exec (.jointTicketLoRead m) s = .next s ∧ exec (.enLoRead m) s = .next s ∧ exec (.errlogPopRead m) s = .next s)

/-- R439, R443, R444: a read of a word returns what it shows and clears its RC fields, of a bit-alias word the one bit
that it names; a reserved word reads 0; an access to a hole reads 0, or is discarded, and is counted; a write of a
bit-alias word is one of its register with that bit replaced. R388: a read in a domain that is in reset changes no
register. R2: the words of a unit that the variant lacks read 0. R359: an agent of another context has its address
error. -/
def Obligations.DirectReadsComplete : Prop :=
  (∀ s m, wholeMap m →
    (∀ off, s.domainOff m off = false →
      (∀ r, decodeOffset off = .word r → s.unitAbsent r.off = false →
        r.off ∉ [0x12000, 0x13040, 0x1706C, 0x1D004, 0x1F048, 0x1F050, 0x2002C] →
        (let i := s.bankOf m r.bank
         let clear := s.reg r.off i &&& (r.mask .rc &&& 0xFFFFFFFF)
         exec (.registerReadClear m off) s = .next (returned (if r.mask .rc &&& 0xFFFFFFFF = 0 then s
           else s.setReg r.off i (s.reg r.off i - clear)) m (s.wordValue m r)))) ∧
      (∀ r, decodeOffset off = .word r → s.unitAbsent r.off = true →
        exec (.registerReadClear m off) s = .next (returned s m 0)) ∧
      (decodeOffset off = .nothing → exec (.registerReadClear m off) s = .next (returned s m 0))) ∧
    (∀ off, s.domainOff m off = true → exec (.registerReadClear m off) s =
      .next (s.setMaster m { s.master m with lastRead := none })) ∧
    (∀ off, decodeOffset off = .hole →
      exec (.holeAccess m off false) s = .next (returned (s.bump 0x1020 0 1) m 0) ∧
      exec (.holeAccess m off true) s = .next (s.bump 0x1020 0 1)) ∧
    (∀ slot bit r, slot < 16 → bit < 32 → wordRow (aliasTarget slot) = some r → s.unitAbsent r.off = false →
      (let i := s.bankOf m r.bank
       let w := s.reg r.off i
       exec (.bitAliasRead m slot bit) s = .next (returned (if r.mask .rc &&& 2 ^ bit = 0 then s
         else s.setReg r.off i (w - (w &&& (r.mask .rc &&& 2 ^ bit)))) m (b2n (bitAt (s.wordValue m r) bit))))) ∧
    (∀ slot bit r, slot < 16 → bit < 32 → wordRow (aliasTarget slot) = some r → s.unitAbsent r.off = true →
      exec (.bitAliasRead m slot bit) s = .next (returned s m 0)) ∧
    (∀ slot bit (v : Word) r, slot < 16 → bit < 32 → wordRow (aliasTarget slot) = some r →
      exec (.bitAliasWrite m slot bit v) s = .next (writeWord s m (canon (aliasOff slot bit)) r
        (setBits (s.wordValue m r) bit 1 (v.toNat % 2))))) ∧
  (∀ s n off, 1 ≤ n → n < 64 → off / 0x1000 ≠ 0x100 + n → off / 0x1000 ≠ 0x16 →
    exec (.registerReadClear (0x40 + n) off) s = .next (s.bump 0x10020 n 1)) ∧
  (∀ s n slot bit (v : Word), 1 ≤ n → n < 64 → slot < 16 → bit < 32 →
    exec (.bitAliasRead (0x40 + n) slot bit) s = .next (s.bump 0x10020 n 1) ∧
    exec (.bitAliasWrite (0x40 + n) slot bit v) s = .next (s.bump 0x10020 n 1))
end

