-- ==== Sys2Proof/Laws/Memory.lean ====
section
/-! SUPPORT. Memory and sparse tables: what a read gives after a write, and that every operation keeps the canonical form. -/

namespace Sys2Proof.Machine

variable {α : Type}

/-! ### Rising keys -/

theorem rising_cons (a b : Nat) (r : List Nat) : rising (a :: b :: r) = (decide (a < b) && rising (b :: r)) := rfl

theorem rising_tail {a : Nat} {l : List Nat} (h : rising (a :: l) = true) : rising l = true := by
  cases l with
  | nil => rfl
  | cons b r => simp only [rising_cons, Bool.and_eq_true] at h; exact h.2

theorem rising_all {a : Nat} {l : List Nat} (h : rising (a :: l) = true) : ∀ x ∈ l, a < x := by
  induction l generalizing a with
  | nil => simp
  | cons b r ih =>
    simp only [rising_cons, Bool.and_eq_true, decide_eq_true_eq] at h
    intro x hx
    rcases List.mem_cons.1 hx with rfl | hx
    · exact h.1
    · exact Nat.lt_trans h.1 (ih h.2 x hx)

theorem rising_of {a : Nat} {l : List Nat} (h : rising l = true) (ha : ∀ x ∈ l, a < x) : rising (a :: l) = true := by
  cases l with
  | nil => rfl
  | cons b r => simp only [rising_cons, Bool.and_eq_true, decide_eq_true_eq]; exact ⟨ha b (by simp), h⟩

theorem rising_filter {l : List Nat} (p : Nat → Bool) (h : rising l = true) : rising (l.filter p) = true := by
  induction l with
  | nil => rfl
  | cons a r ih =>
    have hr := ih (rising_tail h)
    by_cases hp : p a = true
    · rw [List.filter_cons_of_pos hp]
      exact rising_of hr (fun x hx => rising_all h x (List.mem_filter.1 hx).1)
    · rw [List.filter_cons_of_neg hp]; exact hr

/-! ### Sparse tables -/

theorem tget_tset (d x : α) (t : List (Nat × α)) (k j : Nat) :
    tget d (tset x t k) j = if j = k then x else tget d t j := by
  induction t with
  | nil => simp only [tset, tget, eq_comm]
  | cons e r ih =>
    obtain ⟨i, y⟩ := e
    simp only [tset]
    split_ifs <;> simp only [tget, ih] <;> split_ifs <;> first | rfl | omega

@[simp] theorem tget_tset_same (d x : α) (t : List (Nat × α)) (k : Nat) : tget d (tset x t k) k = x := by
  simp [tget_tset]

theorem tget_tset_ne (d x : α) (t : List (Nat × α)) {k j : Nat} (h : j ≠ k) :
    tget d (tset x t k) j = tget d t j := by simp [tget_tset, h]

theorem tset_mem {x : α} {t : List (Nat × α)} {k : Nat} {e : Nat × α} (h : e ∈ tset x t k) :
    e = (k, x) ∨ (e ∈ t ∧ (rising (t.map (fun e => e.1)) = true → e.1 ≠ k)) := by
  induction t with
  | nil => simp only [tset, List.mem_singleton] at h; exact .inl h
  | cons y r ih =>
    obtain ⟨i, y⟩ := y
    simp only [tset] at h
    split at h
    · rcases List.mem_cons.1 h with h | h
      · exact .inl h
      · refine .inr ⟨List.mem_cons_of_mem _ h, fun hr => ?_⟩
        have := rising_all hr e.1 (List.mem_map.2 ⟨e, h, rfl⟩)
        simp only at this
        omega
    · split at h
      · rcases List.mem_cons.1 h with h | h
        · exact .inl h
        · refine .inr ⟨h, fun hr => ?_⟩
          rcases List.mem_cons.1 h with rfl | h
          · assumption
          · have := rising_all hr e.1 (List.mem_map.2 ⟨e, h, rfl⟩)
            simp only at this
            omega
      · rcases List.mem_cons.1 h with rfl | h
        · exact .inr ⟨by simp, fun _ => by assumption⟩
        · rcases ih h with h | h
          · exact .inl h
          · exact .inr ⟨List.mem_cons_of_mem _ h.1, fun hr => h.2 (rising_tail hr)⟩

theorem tset_rising (x : α) {t : List (Nat × α)} {k : Nat} (h : rising (t.map (fun e => e.1)) = true) :
    rising ((tset x t k).map (fun e => e.1)) = true := by
  induction t with
  | nil => rfl
  | cons y r ih =>
    obtain ⟨i, y⟩ := y
    have hr := ih (rising_tail h)
    have ha := rising_all h
    simp only [tset]
    split
    · subst_vars; exact h
    · split
      · refine rising_of h (fun z hz => ?_)
        rcases List.mem_cons.1 hz with rfl | hz
        · assumption
        · have h1 := ha z hz
          have h2 : k < i := by assumption
          exact Nat.lt_trans h2 h1
      · refine rising_of hr (fun z hz => ?_)
        obtain ⟨e, he, rfl⟩ := List.mem_map.1 hz
        rcases tset_mem he with rfl | he
        · show i < k; omega
        · exact ha e.1 (List.mem_map.2 ⟨e, he.1, rfl⟩)

theorem tdel_sublist (t : List (Nat × α)) (k : Nat) : (tdel t k).Sublist t := by
  induction t with
  | nil => exact List.Sublist.refl _
  | cons y r ih =>
    obtain ⟨i, y⟩ := y
    simp only [tdel]
    split
    · exact List.sublist_cons_self _ _
    · exact ih.cons_cons _

theorem rising_sublist {l m : List Nat} (h : l.Sublist m) (hm : rising m = true) : rising l = true := by
  induction h with
  | slnil => rfl
  | cons a _ ih => exact ih (rising_tail hm)
  | cons_cons a hs ih => exact rising_of (ih (rising_tail hm)) (fun x hx => rising_all hm x (hs.subset hx))

theorem tdel_rising {t : List (Nat × α)} (k : Nat) (h : rising (t.map (fun e => e.1)) = true) :
    rising ((tdel t k).map (fun e => e.1)) = true := rising_sublist ((tdel_sublist t k).map _) h

theorem tfind?_tset (x : α) (t : List (Nat × α)) (k j : Nat) :
    tfind? (tset x t k) j = if j = k then some x else tfind? t j := by
  induction t with
  | nil =>
    by_cases h : j = k
    · subst h; simp [tfind?, tset]
    · simp [tfind?, tset, h, Ne.symm h]
  | cons e r ih =>
    obtain ⟨i, y⟩ := e
    have hc : ∀ (z : Nat × α) (l : List (Nat × α)), tfind? (z :: l) j = if z.1 = j then some z.2 else tfind? l j := by
      intro z l
      by_cases hz : z.1 = j <;> simp [tfind?, hz]
    simp only [tset]
    split_ifs <;> simp only [hc, ih] <;> split_ifs <;> first | rfl | omega

theorem tfind?_tdel (t : List (Nat × α)) (k j : Nat) (h : rising (t.map (fun e => e.1)) = true) :
    tfind? (tdel t k) j = if j = k then none else tfind? t j := by
  induction t with
  | nil => simp [tfind?, tdel]
  | cons e r ih =>
    obtain ⟨i, y⟩ := e
    have hr := ih (rising_tail h)
    have ha := rising_all h
    simp only [tdel]
    by_cases h1 : i = k
    · subst h1
      simp only [if_true]
      by_cases h2 : j = i
      · subst h2
        simp only [if_true, tfind?, Option.map_eq_none_iff, List.find?_eq_none]
        intro z hz
        have := ha z.1 (List.mem_map.2 ⟨z, hz, rfl⟩)
        simp only at this
        simp only [beq_iff_eq]; omega
      · simp [tfind?, h2, Ne.symm h2]
    · simp only [if_neg h1]
      simp only [tfind?] at hr ⊢
      by_cases h3 : i = j
      · subst h3; simp [h1]
      · simp [h3, hr]

/-! ### Memory -/

theorem sortedCells_rising (l : List Host.Cell) : sortedCells l = rising (l.map (fun e => e.1)) := by
  induction l with
  | nil => rfl
  | cons a r ih =>
    cases r with
    | nil => rfl
    | cons b r => simp only [sortedCells, ih, List.map_cons, rising]

/-- A memory in canonical form. -/
theorem wf_iff (m : Memory) : m.wf = true ↔
    rising (m.cells.map (fun e => e.1)) = true ∧ ∀ c ∈ m.cells, m.background c.1 ≠ some c.2 := by
  simp only [Memory.wf, sortedCells_rising, Bool.and_eq_true, List.all_eq_true, decide_eq_true_eq]

theorem empty_wf : Memory.empty.wf = true := rfl

@[simp] theorem write_fills (m : Memory) (a : Nat) (b : Byte) : (m.write a b).fills = m.fills := by
  simp only [Memory.write]; split <;> rfl

@[simp] theorem write_background (m : Memory) (a : Nat) (b : Byte) : (m.write a b).background = m.background := by
  funext x; simp only [Memory.background, write_fills]

@[simp] theorem write_gen (m : Memory) (a : Nat) (b : Byte) : (m.write a b).gen = m.gen := by
  funext x; simp only [Memory.gen, write_fills]

/-- A write keeps the canonical form. -/
theorem write_wf {m : Memory} (a : Nat) (b : Byte) (h : m.wf = true) : (m.write a b).wf = true := by
  have hb := write_background m a b
  rw [wf_iff] at h ⊢
  rw [hb]
  simp only [Memory.write]
  split
  · exact ⟨tdel_rising a h.1, fun c hc => h.2 c ((tdel_sublist _ _).subset hc)⟩
  · rename_i hn
    refine ⟨tset_rising b h.1, fun c hc => ?_⟩
    rcases tset_mem hc with rfl | hc
    · exact hn
    · exact h.2 c hc.1

theorem writeBytes_wf {m : Memory} (a : Nat) (bs : List Byte) (h : m.wf = true) : (m.writeBytes a bs).wf = true := by
  induction bs generalizing m a with
  | nil => exact h
  | cons b bs ih => exact ih (a + 1) (write_wf a b h)

/-- A read after a write of one byte. -/
theorem read_write {m : Memory} (a : Nat) (b : Byte) (x : Nat) (h : m.wf = true) :
    (m.write a b).read x = if x = a then b else m.read x := by
  have hr := ((wf_iff m).1 h).1
  have hf : tfind? (m.write a b).cells x =
      if m.background a = some b then (if x = a then none else tfind? m.cells x)
      else (if x = a then some b else tfind? m.cells x) := by
    rw [Memory.write]
    split
    · exact tfind?_tdel m.cells a x hr
    · exact tfind?_tset b m.cells a x
  rw [Memory.read, write_background, write_gen, hf]
  by_cases hx : x = a
  · subst hx
    by_cases hbg : m.background x = some b <;> simp [hbg]
  · simp [Memory.read, hx]

/-- A write of bytes leaves every address outside them alone. -/
theorem read_writeBytes_out {m : Memory} (a : Nat) (bs : List Byte) (x : Nat) (h : m.wf = true)
    (hx : x < a ∨ a + bs.length ≤ x) : (m.writeBytes a bs).read x = m.read x := by
  induction bs generalizing m a with
  | nil => rfl
  | cons b bs ih =>
    simp only [List.length_cons] at hx
    simp only [Memory.writeBytes]
    rw [ih (a + 1) (write_wf a b h) (by omega), read_write a b x h, if_neg (by omega)]

/-- A write of bytes is what a read of those bytes gives. -/
theorem readBytes_writeBytes {m : Memory} (a : Nat) (bs : List Byte) (h : m.wf = true) :
    (m.writeBytes a bs).readBytes a bs.length = bs := by
  induction bs generalizing m a with
  | nil => rfl
  | cons b bs ih =>
    have h1 := ih (a + 1) (write_wf a b h)
    simp only [Memory.readBytes, List.length_cons, List.range_succ_eq_map, List.map_cons, List.map_map] at h1 ⊢
    simp only [Memory.writeBytes]
    congr 1
    · show ((m.write a b).writeBytes (a + 1) bs).read (a + 0) = b
      have h2 := read_writeBytes_out (a + 1) bs a (write_wf a b h) (by omega)
      exact h2.trans ((read_write a b a h).trans (if_pos rfl))
    · refine Eq.trans ?_ h1
      refine List.map_congr_left (fun i _ => ?_)
      simp only [Function.comp]
      congr 1; omega

theorem fill_background_out (m : Memory) (base len : Nat) (k : Fill) (a : Nat) (ha : a < base ∨ base + len ≤ a) :
    (m.fill base len k).background a = m.background a := by
  have h0 : FillRegion.covers { base := base, len := len, fill := k } a = false := by
    simp only [FillRegion.covers, Bool.and_eq_false_iff, decide_eq_false_iff_not]; omega
  have h1 : ∀ l : List FillRegion,
      (l.filter (fun o => !(decide (base ≤ o.base) && decide (o.base + o.len ≤ base + len)))).find? (fun r => r.covers a) =
        l.find? (fun r => r.covers a) := by
    intro l
    induction l with
    | nil => rfl
    | cons o r ih =>
      by_cases hc : o.covers a = true
      · have hk : (!(decide (base ≤ o.base) && decide (o.base + o.len ≤ base + len))) = true := by
          simp only [FillRegion.covers, Bool.and_eq_true, decide_eq_true_eq] at hc
          simp only [Bool.not_eq_true', Bool.and_eq_false_iff, decide_eq_false_iff_not]; omega
        rw [List.filter_cons_of_pos (by exact hk)]
        simp [hc]
      · rw [List.find?_cons_of_neg (l := r) (by exact hc), ← ih]
        by_cases hk : (!(decide (base ≤ o.base) && decide (o.base + o.len ≤ base + len))) = true
        · rw [List.filter_cons_of_pos (by exact hk), List.find?_cons_of_neg (by exact hc)]
        · rw [List.filter_cons_of_neg (by exact hk)]
  simp only [Memory.background, Memory.fill, List.find?_cons, h0, h1]

/-- A fill keeps the canonical form. -/
theorem fill_wf {m : Memory} (base len : Nat) (k : Fill) (h : m.wf = true) : (m.fill base len k).wf = true := by
  rw [wf_iff] at h ⊢
  refine ⟨?_, fun c hc => ?_⟩
  · exact rising_sublist (List.Sublist.map _ (List.filter_sublist)) h.1
  · obtain ⟨hc1, hc2⟩ := List.mem_filter.1 hc
    rw [fill_background_out]
    · exact h.2 c hc1
    · simp only [FillRegion.covers, Bool.not_eq_true', Bool.and_eq_false_iff, decide_eq_false_iff_not] at hc2; omega

/-! ### Poison -/

theorem insertBy_mem {x y : Nat} {l : List Nat} (h : y ∈ insertBy (fun a b => decide (a ≤ b)) x l) : y = x ∨ y ∈ l := by
  induction l with
  | nil => simpa [insertBy] using h
  | cons a r ih =>
    simp only [insertBy] at h
    split at h
    · rcases List.mem_cons.1 h with h | h
      · exact .inr (by simp [h])
      · rcases ih h with h | h
        · exact .inl h
        · exact .inr (by simp [h])
    · simpa using h

theorem insertBy_rising {x : Nat} {l : List Nat} (h : rising l = true) (hx : x ∉ l) :
    rising (insertBy (fun a b => decide (a ≤ b)) x l) = true := by
  induction l with
  | nil => rfl
  | cons a r ih =>
    have hne : x ≠ a := fun hh => hx (by simp [hh])
    have hr : x ∉ r := fun hh => hx (by simp [hh])
    simp only [insertBy]
    split
    · rename_i hle
      simp only [decide_eq_true_eq] at hle
      refine rising_of (ih (rising_tail h) hr) (fun y hy => ?_)
      rcases insertBy_mem hy with rfl | hy
      · omega
      · exact rising_all h y hy
    · rename_i hle
      simp only [decide_eq_true_eq] at hle
      refine rising_of h (fun y hy => ?_)
      rcases List.mem_cons.1 hy with rfl | hy
      · omega
      · have := rising_all h y hy; omega

theorem poisonSet_rising {p : List Nat} (cw : Nat) (b : Bool) (h : rising p = true) :
    rising (poisonSet p cw b) = true := by
  have h1 := rising_filter (· != cw) h
  simp only [poisonSet]
  cases b
  · exact h1
  · exact insertBy_rising h1 (by simp)

end Sys2Proof.Machine
end

