-- ==== Sys2Proof/Laws/Kept.lean ====
section
/-! SUPPORT. The frame relation: which parts of the state an operation may change, and that it keeps the canonical form. -/

namespace Sys2Proof.Machine

/-- From `s` to `t` no part but those of `ps` changes, the canonical form is kept, and no free value and no number that
was given out is given out again. -/
structure Kept (ps : List Part) (s t : State) : Prop where
  same : s.sameBut t ps
  canon : s.Canon → t.Canon
  ctr : s.freeCtr ≤ t.freeCtr
  ids : s.nextId ≤ t.nextId

/-- Every part of `ps` is a part of `qs`. -/
def partsIn (ps qs : List Part) : Bool := ps.all (fun p => qs.contains p)

theorem partsIn_mem {ps qs : List Part} (h : partsIn ps qs = true) {p : Part} (hp : p ∈ ps) : p ∈ qs := by
  simp only [partsIn, List.all_eq_true, List.contains_iff_mem] at h
  exact h p hp

theorem partsIn_trans {ps qs rs : List Part} (h : partsIn ps qs = true) (h' : partsIn qs rs = true) :
    partsIn ps rs = true := by
  simp only [partsIn, List.all_eq_true, List.contains_iff_mem] at *
  exact fun p hp => h' p (h p hp)

variable {ps qs : List Part} {s0 s t : State} {α β : Type}

theorem Part.same_refl (p : Part) (s : State) : p.same s s := by cases p <;> rfl

theorem Part.same_trans {p : Part} {r s t : State} (h : p.same r s) (h' : p.same s t) : p.same r t := by
  cases p <;> exact Eq.trans h' h

theorem Kept.refl (ps : List Part) (s : State) : Kept ps s s :=
  ⟨fun p => .inr (p.same_refl s), id, Nat.le_refl _, Nat.le_refl _⟩

theorem Kept.trans (h : Kept ps s0 s) (h' : Kept ps s t) : Kept ps s0 t :=
  ⟨fun p => (h.same p).elim .inl (fun a => (h'.same p).imp id (Part.same_trans a)), fun c => h'.canon (h.canon c),
   h.ctr.trans h'.ctr, h.ids.trans h'.ids⟩

theorem Kept.weaken (h : Kept qs s t) (hq : partsIn qs ps = true) : Kept ps s t :=
  ⟨fun p => (h.same p).imp (partsIn_mem hq) id, h.canon, h.ctr, h.ids⟩

/-- An operation whose own parts are `qs` goes on from `s`. -/
theorem Kept.step (h : Kept ps s0 s) (h' : Kept qs s t) (hq : partsIn qs ps = true) : Kept ps s0 t :=
  h.trans (h'.weaken hq)

/-- The state of an answer that was matched. -/
theorem Kept.of_snd {x : α × State} {a : α} (e : x = (a, t)) (h : Kept ps s0 x.2) : Kept ps s0 t := by
  subst e; exact h

theorem Kept.of_thd {x : α × β × State} {a : α} {b : β} (e : x = (a, b, t)) (h : Kept ps s0 x.2.2) : Kept ps s0 t := by
  subst e; exact h

/-- The state that a word's outcome carries. -/
@[reducible] def WOut.state : WOut → State
  | .done s _ => s
  | .fault s _ => s
  | .wait s => s

theorem Kept.of_done {x : WOut} {n : Nat} (e : x = .done t n) (h : Kept ps s0 x.state) : Kept ps s0 t := by
  subst e; exact h

theorem Kept.of_fault {x : WOut} {n : Nat} (e : x = .fault t n) (h : Kept ps s0 x.state) : Kept ps s0 t := by
  subst e; exact h

theorem Kept.of_wait {x : WOut} (e : x = .wait t) (h : Kept ps s0 x.state) : Kept ps s0 t := by
  subst e; exact h

/-- A choice between two framed states, and between answers that carry one. -/
theorem Kept.ite {c : Prop} [Decidable c] {a b : State} (ha : Kept ps s0 a) (hb : Kept ps s0 b) :
    Kept ps s0 (if c then a else b) := by split <;> assumption

theorem Kept.ite₂ {c : Prop} [Decidable c] {a b : α × State} (ha : Kept ps s0 a.2) (hb : Kept ps s0 b.2) :
    Kept ps s0 (if c then a else b).2 := by split <;> assumption

theorem Kept.ite₃ {c : Prop} [Decidable c] {a b : α × β × State} (ha : Kept ps s0 a.2.2) (hb : Kept ps s0 b.2.2) :
    Kept ps s0 (if c then a else b).2.2 := by split <;> assumption

theorem Kept.iteW {c : Prop} [Decidable c] {a b : WOut} (ha : Kept ps s0 a.state) (hb : Kept ps s0 b.state) :
    Kept ps s0 (if c then a else b).state := by split <;> assumption

/-- A fold whose step is framed. -/
theorem Kept.foldl {g : State → α → State} {l : List α} (hg : ∀ s a, Kept ps s0 s → Kept ps s0 (g s a))
    (h : Kept ps s0 s) : Kept ps s0 (l.foldl g s) := by
  induction l generalizing s with
  | nil => exact h
  | cons a l ih => exact ih (hg s a h)

/-- The same for a fold whose accumulator ends with the state. -/
theorem Kept.foldl₂ {g : β × State → α → β × State} {l : List α} {x : β × State}
    (hg : ∀ x a, Kept ps s0 x.2 → Kept ps s0 (g x a).2) (h : Kept ps s0 x.2) : Kept ps s0 (l.foldl g x).2 := by
  induction l generalizing x with
  | nil => exact h
  | cons a l ih => exact ih (hg x a h)

theorem Kept.foldl₃ {γ : Type} {g : β × γ × State → α → β × γ × State} {l : List α} {x : β × γ × State}
    (hg : ∀ x a, Kept ps s0 x.2.2 → Kept ps s0 (g x a).2.2) (h : Kept ps s0 x.2.2) : Kept ps s0 (l.foldl g x).2.2 := by
  induction l generalizing x with
  | nil => exact h
  | cons a l ih => exact ih (hg x a h)

/-- A change that leaves the memories, the poison marks, the registers and the two counters alone. -/
theorem Kept.rebase (hp : t.pending = s.pending) (hc : t.freeCtr = s.freeCtr) (hn : t.nextId = s.nextId)
    (hm : t.mem = s.mem) (hh : t.hostMem = s.hostMem) (hf : t.flash.data = s.flash.data) (hq : t.poison = s.poison)
    (hr : t.regs = s.regs) (h : Kept ps s0 s) (hs : ∀ p : Part, p ∈ ps ∨ p.same s t) : Kept ps s0 t :=
  have _ := hp
  h.trans ⟨hs, fun c => ⟨⟨hm ▸ c.mem.1, hh ▸ c.mem.2.1, hf ▸ c.mem.2.2⟩, hq ▸ c.poison, hr ▸ c.regs⟩,
    Nat.le_of_eq hc.symm, Nat.le_of_eq hn.symm⟩

/-! ### One lemma for each part that is stored as it is -/

theorem Kept.set_variant (s : State) (x) : Kept [.variant] s { s with variant := x } :=
  Kept.rebase (s := s) rfl rfl rfl rfl rfl rfl rfl rfl (Kept.refl _ s) (fun p => by cases p <;> first | exact .inr rfl | exact .inl (by decide))

theorem Kept.set_masters (s : State) (x) : Kept [.masters] s { s with masters := x } :=
  Kept.rebase (s := s) rfl rfl rfl rfl rfl rfl rfl rfl (Kept.refl _ s) (fun p => by cases p <;> first | exact .inr rfl | exact .inl (by decide))

theorem Kept.set_time (s : State) (x) : Kept [.time] s { s with time := x } :=
  Kept.rebase (s := s) rfl rfl rfl rfl rfl rfl rfl rfl (Kept.refl _ s) (fun p => by cases p <;> first | exact .inr rfl | exact .inl (by decide))

theorem Kept.set_tiles (s : State) (x) : Kept [.tiles] s { s with tiles := x } :=
  Kept.rebase (s := s) rfl rfl rfl rfl rfl rfl rfl rfl (Kept.refl _ s) (fun p => by cases p <;> first | exact .inr rfl | exact .inl (by decide))

theorem Kept.set_chans (s : State) (x) : Kept [.chans] s { s with chans := x } :=
  Kept.rebase (s := s) rfl rfl rfl rfl rfl rfl rfl rfl (Kept.refl _ s) (fun p => by cases p <;> first | exact .inr rfl | exact .inl (by decide))

theorem Kept.set_chanBoot (s : State) (x) : Kept [.chanBoot] s { s with chanBoot := x } :=
  Kept.rebase (s := s) rfl rfl rfl rfl rfl rfl rfl rfl (Kept.refl _ s) (fun p => by cases p <;> first | exact .inr rfl | exact .inl (by decide))

theorem Kept.set_chanGen (s : State) (x) : Kept [.chanGen] s { s with chanGen := x } :=
  Kept.rebase (s := s) rfl rfl rfl rfl rfl rfl rfl rfl (Kept.refl _ s) (fun p => by cases p <;> first | exact .inr rfl | exact .inl (by decide))

theorem Kept.set_mortar (s : State) (x) : Kept [.mortar] s { s with mortar := x } :=
  Kept.rebase (s := s) rfl rfl rfl rfl rfl rfl rfl rfl (Kept.refl _ s) (fun p => by cases p <;> first | exact .inr rfl | exact .inl (by decide))

theorem Kept.set_bricks (s : State) (x) : Kept [.bricks] s { s with bricks := x } :=
  Kept.rebase (s := s) rfl rfl rfl rfl rfl rfl rfl rfl (Kept.refl _ s) (fun p => by cases p <;> first | exact .inr rfl | exact .inl (by decide))

theorem Kept.set_errLog (s : State) (x) : Kept [.errLog] s { s with errLog := x } :=
  Kept.rebase (s := s) rfl rfl rfl rfl rfl rfl rfl rfl (Kept.refl _ s) (fun p => by cases p <;> first | exact .inr rfl | exact .inl (by decide))

theorem Kept.set_errOverflow (s : State) (x) : Kept [.errOverflow] s { s with errOverflow := x } :=
  Kept.rebase (s := s) rfl rfl rfl rfl rfl rfl rfl rfl (Kept.refl _ s) (fun p => by cases p <;> first | exact .inr rfl | exact .inl (by decide))

theorem Kept.set_scrubDone (s : State) (x) : Kept [.scrubDone] s { s with scrubDone := x } :=
  Kept.rebase (s := s) rfl rfl rfl rfl rfl rfl rfl rfl (Kept.refl _ s) (fun p => by cases p <;> first | exact .inr rfl | exact .inl (by decide))

theorem Kept.set_ctxs (s : State) (x) : Kept [.ctxs] s { s with ctxs := x } :=
  Kept.rebase (s := s) rfl rfl rfl rfl rfl rfl rfl rfl (Kept.refl _ s) (fun p => by cases p <;> first | exact .inr rfl | exact .inl (by decide))

theorem Kept.set_launches (s : State) (x) : Kept [.launches] s { s with launches := x } :=
  Kept.rebase (s := s) rfl rfl rfl rfl rfl rfl rfl rfl (Kept.refl _ s) (fun p => by cases p <;> first | exact .inr rfl | exact .inl (by decide))

theorem Kept.set_joints (s : State) (x) : Kept [.joints] s { s with joints := x } :=
  Kept.rebase (s := s) rfl rfl rfl rfl rfl rfl rfl rfl (Kept.refl _ s) (fun p => by cases p <;> first | exact .inr rfl | exact .inl (by decide))

theorem Kept.set_mail (s : State) (x) : Kept [.mail] s { s with mail := x } :=
  Kept.rebase (s := s) rfl rfl rfl rfl rfl rfl rfl rfl (Kept.refl _ s) (fun p => by cases p <;> first | exact .inr rfl | exact .inl (by decide))

theorem Kept.set_kv (s : State) (x) : Kept [.kv] s { s with kv := x } :=
  Kept.rebase (s := s) rfl rfl rfl rfl rfl rfl rfl rfl (Kept.refl _ s) (fun p => by cases p <;> first | exact .inr rfl | exact .inl (by decide))

theorem Kept.set_hostReads (s : State) (x) : Kept [.hostReads] s { s with hostReads := x } :=
  Kept.rebase (s := s) rfl rfl rfl rfl rfl rfl rfl rfl (Kept.refl _ s) (fun p => by cases p <;> first | exact .inr rfl | exact .inl (by decide))

theorem Kept.set_copies (s : State) (x) : Kept [.copies] s { s with copies := x } :=
  Kept.rebase (s := s) rfl rfl rfl rfl rfl rfl rfl rfl (Kept.refl _ s) (fun p => by cases p <;> first | exact .inr rfl | exact .inl (by decide))

theorem Kept.set_holdup (s : State) (x) : Kept [.holdup] s { s with holdup := x } :=
  Kept.rebase (s := s) rfl rfl rfl rfl rfl rfl rfl rfl (Kept.refl _ s) (fun p => by cases p <;> first | exact .inr rfl | exact .inl (by decide))

theorem Kept.set_kiln (s : State) (x) : Kept [.kiln] s { s with kiln := x } :=
  Kept.rebase (s := s) rfl rfl rfl rfl rfl rfl rfl rfl (Kept.refl _ s) (fun p => by cases p <;> first | exact .inr rfl | exact .inl (by decide))

theorem Kept.set_links (s : State) (x) : Kept [.links] s { s with links := x } :=
  Kept.rebase (s := s) rfl rfl rfl rfl rfl rfl rfl rfl (Kept.refl _ s) (fun p => by cases p <;> first | exact .inr rfl | exact .inl (by decide))

theorem Kept.set_groups (s : State) (x) : Kept [.groups] s { s with groups := x } :=
  Kept.rebase (s := s) rfl rfl rfl rfl rfl rfl rfl rfl (Kept.refl _ s) (fun p => by cases p <;> first | exact .inr rfl | exact .inl (by decide))

theorem Kept.set_colls (s : State) (x) : Kept [.colls] s { s with colls := x } :=
  Kept.rebase (s := s) rfl rfl rfl rfl rfl rfl rfl rfl (Kept.refl _ s) (fun p => by cases p <;> first | exact .inr rfl | exact .inl (by decide))

theorem Kept.set_idle (s : State) (x) : Kept [.idle] s { s with idle := x } :=
  Kept.rebase (s := s) rfl rfl rfl rfl rfl rfl rfl rfl (Kept.refl _ s) (fun p => by cases p <;> first | exact .inr rfl | exact .inl (by decide))

theorem Kept.set_conts (s : State) (x) : Kept [.conts] s { s with conts := x } :=
  Kept.rebase (s := s) rfl rfl rfl rfl rfl rfl rfl rfl (Kept.refl _ s) (fun p => by cases p <;> first | exact .inr rfl | exact .inl (by decide))

theorem Kept.set_power (s : State) (x) : Kept [.power] s { s with power := x } :=
  Kept.rebase (s := s) rfl rfl rfl rfl rfl rfl rfl rfl (Kept.refl _ s) (fun p => by cases p <;> first | exact .inr rfl | exact .inl (by decide))

theorem Kept.set_trust (s : State) (x) : Kept [.trust] s { s with trust := x } :=
  Kept.rebase (s := s) rfl rfl rfl rfl rfl rfl rfl rfl (Kept.refl _ s) (fun p => by cases p <;> first | exact .inr rfl | exact .inl (by decide))

theorem Kept.set_mgmt (s : State) (x) : Kept [.mgmt] s { s with mgmt := x } :=
  Kept.rebase (s := s) rfl rfl rfl rfl rfl rfl rfl rfl (Kept.refl _ s) (fun p => by cases p <;> first | exact .inr rfl | exact .inl (by decide))

theorem Kept.set_tests (s : State) (x) : Kept [.tests] s { s with tests := x } :=
  Kept.rebase (s := s) rfl rfl rfl rfl rfl rfl rfl rfl (Kept.refl _ s) (fun p => by cases p <;> first | exact .inr rfl | exact .inl (by decide))

theorem Kept.set_detourAvoid (s : State) (x) : Kept [.detourAvoid] s { s with detourAvoid := x } :=
  Kept.rebase (s := s) rfl rfl rfl rfl rfl rfl rfl rfl (Kept.refl _ s) (fun p => by cases p <;> first | exact .inr rfl | exact .inl (by decide))

theorem Kept.set_detourGen (s : State) (x) : Kept [.detourGen] s { s with detourGen := x } :=
  Kept.rebase (s := s) rfl rfl rfl rfl rfl rfl rfl rfl (Kept.refl _ s) (fun p => by cases p <;> first | exact .inr rfl | exact .inl (by decide))

theorem Kept.set_msix (s : State) (x) : Kept [.msix] s { s with msix := x } :=
  Kept.rebase (s := s) rfl rfl rfl rfl rfl rfl rfl rfl (Kept.refl _ s) (fun p => by cases p <;> first | exact .inr rfl | exact .inl (by decide))

theorem Kept.set_msixSent (s : State) (x) : Kept [.msixSent] s { s with msixSent := x } :=
  Kept.rebase (s := s) rfl rfl rfl rfl rfl rfl rfl rfl (Kept.refl _ s) (fun p => by cases p <;> first | exact .inr rfl | exact .inl (by decide))

theorem Kept.set_regPosted (s : State) (x) : Kept [.regPosted] s { s with regPosted := x } :=
  Kept.rebase (s := s) rfl rfl rfl rfl rfl rfl rfl rfl (Kept.refl _ s) (fun p => by cases p <;> first | exact .inr rfl | exact .inl (by decide))

/-! ### Pairs of parts that are stored together -/

theorem Kept.set_launches_links (s : State) (x y) : Kept [.launches, .links] s { s with launches := x, links := y } :=
  ((Kept.set_launches s x).weaken (qs := [.launches]) (by decide)).step (Kept.set_links _ y) (by decide)

theorem Kept.set_time_links (s : State) (x y) : Kept [.time, .links] s { s with time := x, links := y } :=
  ((Kept.set_time s x).weaken (qs := [.time]) (by decide)).step (Kept.set_links _ y) (by decide)

theorem Kept.set_errLog_errOverflow (s : State) (x y) : Kept [.errLog, .errOverflow] s { s with errLog := x, errOverflow := y } :=
  ((Kept.set_errLog s x).weaken (qs := [.errLog]) (by decide)).step (Kept.set_errOverflow _ y) (by decide)

theorem Kept.set_ctxs_msix (s : State) (x y) : Kept [.ctxs, .msix] s { s with ctxs := x, msix := y } :=
  ((Kept.set_ctxs s x).weaken (qs := [.ctxs]) (by decide)).step (Kept.set_msix _ y) (by decide)

theorem Kept.set_detourAvoid_detourGen (s : State) (x y) : Kept [.detourAvoid, .detourGen] s { s with detourAvoid := x, detourGen := y } :=
  ((Kept.set_detourAvoid s x).weaken (qs := [.detourAvoid]) (by decide)).step (Kept.set_detourGen _ y) (by decide)

theorem Kept.set_mgmt_tests (s : State) (x y) : Kept [.mgmt, .tests] s { s with mgmt := x, tests := y } :=
  ((Kept.set_mgmt s x).weaken (qs := [.mgmt]) (by decide)).step (Kept.set_tests _ y) (by decide)

/-- A change of the flash tier that keeps the canonical form of its contents. -/
theorem Kept.set_flash (s : State) (x : Flash) (hx : s.flash.data.wf = true → x.data.wf = true) :
    Kept [.flash] s { s with flash := x } :=
  ⟨fun p => by cases p <;> first | exact .inr rfl | exact .inl (by decide),
   fun c => ⟨⟨c.mem.1, c.mem.2.1, hx c.mem.2.2⟩, c.poison, c.regs⟩, Nat.le_refl _, Nat.le_refl _⟩

theorem Kept.set_mem (s : State) (m : Memory) (hm : s.mem.wf = true → m.wf = true) :
    Kept [.mem] s { s with mem := m } :=
  ⟨fun p => by cases p <;> first | exact .inr rfl | exact .inl (by decide),
   fun c => ⟨⟨hm c.mem.1, c.mem.2.1, c.mem.2.2⟩, c.poison, c.regs⟩, Nat.le_refl _, Nat.le_refl _⟩

theorem Kept.set_hostMem (s : State) (m : Memory) (hm : s.hostMem.wf = true → m.wf = true) :
    Kept [.hostMem] s { s with hostMem := m } :=
  ⟨fun p => by cases p <;> first | exact .inr rfl | exact .inl (by decide),
   fun c => ⟨⟨c.mem.1, hm c.mem.2.1, c.mem.2.2⟩, c.poison, c.regs⟩, Nat.le_refl _, Nat.le_refl _⟩

theorem Kept.set_poison (s : State) (q : List Nat) (hq : rising s.poison = true → rising q = true) :
    Kept [.poison] s { s with poison := q } :=
  ⟨fun p => by cases p <;> first | exact .inr rfl | exact .inl (by decide),
   fun c => ⟨c.mem, hq c.poison, c.regs⟩, Nat.le_refl _, Nat.le_refl _⟩

theorem Kept.set_regs (s : State) (r : List (Nat × Word))
    (hr : rising (s.regs.map (fun e => e.1)) = true → rising (r.map (fun e => e.1)) = true) :
    Kept [.regs] s { s with regs := r } :=
  ⟨fun p => by cases p <;> first | exact .inr rfl | exact .inl (by decide),
   fun c => ⟨c.mem, c.poison, hr c.regs⟩, Nat.le_refl _, Nat.le_refl _⟩

/-! ### The longest lists of parts: resets, and register writes, which may request one -/

def partsWrite : List Part :=
  [.freeCtr, .nextId, .regs, .mem, .poison, .hostMem, .masters, .time, .tiles, .chans, .chanGen, .mortar] ++
  [.errLog, .errOverflow, .scrubDone, .ctxs, .launches, .joints, .mail, .kv, .flash, .hostReads, .copies, .holdup] ++
  [.kiln, .links, .groups, .colls, .idle, .conts, .power, .trust, .mgmt, .tests, .detourAvoid, .detourGen] ++
  [.msix, .msixSent, .regPosted]

def partsWarmReset : List Part :=
  [.freeCtr, .regs, .mem, .poison, .hostMem, .masters, .time, .tiles, .chans, .chanGen, .mortar, .errLog] ++
  [.errOverflow, .scrubDone, .ctxs, .launches, .joints, .mail, .kv, .flash, .hostReads, .copies, .kiln, .links] ++
  [.groups, .colls, .idle, .conts, .power, .trust, .mgmt, .tests, .detourAvoid, .detourGen, .msix, .msixSent] ++
  [.regPosted]

def partsColdReset : List Part :=
  [.freeCtr, .regs, .mem, .poison, .hostMem, .masters, .time, .tiles, .chans, .chanBoot, .chanGen, .mortar] ++
  [.bricks, .errLog, .errOverflow, .scrubDone, .ctxs, .launches, .joints, .mail, .kv, .flash, .hostReads, .copies] ++
  [.holdup, .kiln, .links, .groups, .colls, .idle, .conts, .power, .trust, .mgmt, .tests, .detourAvoid] ++
  [.detourGen, .msix, .msixSent, .regPosted]

def partsPowerUp : List Part :=
  [.freeCtr, .regs, .mem, .poison, .masters, .time, .tiles, .chans, .chanBoot, .mortar, .bricks, .errLog] ++
  [.errOverflow, .scrubDone, .ctxs, .launches, .joints, .mail, .kv, .flash, .hostReads, .copies, .holdup, .kiln] ++
  [.links, .groups, .colls, .idle, .conts, .power, .trust, .mgmt, .tests, .detourAvoid, .msix, .msixSent] ++
  [.regPosted]

end Sys2Proof.Machine
end

