-- ==== Sys2Proof/Laws/FrameOps.lean ====
section
/-! SUPPORT. Frames of the operations of Machine/Ops.lean. -/

namespace Sys2Proof.Machine

theorem State.setReg_kept (s : State) (off idx v : Nat) : Kept [.regs] s (s.setReg off idx v) := by
  unfold State.setReg
  split
  · exact Kept.set_regs s _ (tdel_rising _)
  · exact Kept.set_regs s _ (tset_rising _)

theorem State.bump_kept (s : State) (off : ℕ) (idx : ℕ) (n : ℕ) :
    Kept [.regs] s (State.bump s off idx n) := by
  unfold State.bump
  repeat' first
    | with_reducible exact Kept.refl _ _
    | with_reducible assumption
    | intro (_h : Kept _ _ _)
    | intro y
    | decide
    | with_reducible apply hf
    | (with_reducible apply Kept.step; (on_goal 2 => with_reducible apply State.setReg_kept))
    | (split; rename_i heq; refine (have hx : Kept [.regs] s _ := Kept.of_snd heq ?_; ?_); (on_goal 2 => clear heq))
    | (split; rename_i heq; refine (have hx : Kept [.regs] s _ := Kept.of_thd heq ?_; ?_); (on_goal 2 => clear heq))

theorem State.setRegFld_kept (s : State) (off : ℕ) (idx : ℕ) (lo : ℕ) (n : ℕ) (v : ℕ) :
    Kept [.regs] s (State.setRegFld s off idx lo n v) := by
  unfold State.setRegFld
  repeat' first
    | with_reducible exact Kept.refl _ _
    | with_reducible assumption
    | intro (_h : Kept _ _ _)
    | intro y
    | decide
    | with_reducible apply hf
    | (with_reducible apply Kept.step; (on_goal 2 => with_reducible apply State.setReg_kept))
    | (split; rename_i heq; refine (have hx : Kept [.regs] s _ := Kept.of_snd heq ?_; ?_); (on_goal 2 => clear heq))
    | (split; rename_i heq; refine (have hx : Kept [.regs] s _ := Kept.of_thd heq ?_; ?_); (on_goal 2 => clear heq))

theorem State.orReg_kept (s : State) (off : ℕ) (idx : ℕ) (v : ℕ) :
    Kept [.regs] s (State.orReg s off idx v) := by
  unfold State.orReg
  repeat' first
    | with_reducible exact Kept.refl _ _
    | with_reducible assumption
    | intro (_h : Kept _ _ _)
    | intro y
    | decide
    | with_reducible apply hf
    | (with_reducible apply Kept.step; (on_goal 2 => with_reducible apply State.setReg_kept))
    | (split; rename_i heq; refine (have hx : Kept [.regs] s _ := Kept.of_snd heq ?_; ?_); (on_goal 2 => clear heq))
    | (split; rename_i heq; refine (have hx : Kept [.regs] s _ := Kept.of_thd heq ?_; ?_); (on_goal 2 => clear heq))

theorem State.setTile_kept (s : State) (t : ℕ) (x : Tile) :
    Kept [.tiles] s (State.setTile s t x) := by
  unfold State.setTile
  repeat' first
    | with_reducible exact Kept.refl _ _
    | with_reducible assumption
    | intro (_h : Kept _ _ _)
    | intro y
    | decide
    | with_reducible apply hf
    | with_reducible apply Kept.ite
    | with_reducible apply Kept.ite₂
    | with_reducible apply Kept.ite₃
    | with_reducible apply Kept.iteW
    | with_reducible apply Kept.foldl
    | with_reducible apply Kept.foldl₂
    | with_reducible apply Kept.foldl₃
    | with_reducible refine Kept.of_snd (by assumption) ?_
    | with_reducible refine Kept.of_done (by assumption) ?_
    | with_reducible refine Kept.of_fault (by assumption) ?_
    | with_reducible refine Kept.of_wait (by assumption) ?_
    | with_reducible refine Kept.of_thd (by assumption) ?_
    | split
    | (with_reducible apply Kept.step; (on_goal 2 => with_reducible apply Kept.set_tiles))

theorem State.setChan_kept (s : State) (c : ℕ) (x : Chan) :
    Kept [.chans] s (State.setChan s c x) := by
  unfold State.setChan
  repeat' first
    | with_reducible exact Kept.refl _ _
    | with_reducible assumption
    | intro (_h : Kept _ _ _)
    | intro y
    | decide
    | with_reducible apply hf
    | with_reducible apply Kept.ite
    | with_reducible apply Kept.ite₂
    | with_reducible apply Kept.ite₃
    | with_reducible apply Kept.iteW
    | with_reducible apply Kept.foldl
    | with_reducible apply Kept.foldl₂
    | with_reducible apply Kept.foldl₃
    | with_reducible refine Kept.of_snd (by assumption) ?_
    | with_reducible refine Kept.of_done (by assumption) ?_
    | with_reducible refine Kept.of_fault (by assumption) ?_
    | with_reducible refine Kept.of_wait (by assumption) ?_
    | with_reducible refine Kept.of_thd (by assumption) ?_
    | split
    | (with_reducible apply Kept.step; (on_goal 2 => with_reducible apply Kept.set_chans))

theorem State.setBrick_kept (s : State) (b : ℕ) (x : Brick) :
    Kept [.bricks] s (State.setBrick s b x) := by
  unfold State.setBrick
  repeat' first
    | with_reducible exact Kept.refl _ _
    | with_reducible assumption
    | intro (_h : Kept _ _ _)
    | intro y
    | decide
    | with_reducible apply hf
    | with_reducible apply Kept.ite
    | with_reducible apply Kept.ite₂
    | with_reducible apply Kept.ite₃
    | with_reducible apply Kept.iteW
    | with_reducible apply Kept.foldl
    | with_reducible apply Kept.foldl₂
    | with_reducible apply Kept.foldl₃
    | with_reducible refine Kept.of_snd (by assumption) ?_
    | with_reducible refine Kept.of_done (by assumption) ?_
    | with_reducible refine Kept.of_fault (by assumption) ?_
    | with_reducible refine Kept.of_wait (by assumption) ?_
    | with_reducible refine Kept.of_thd (by assumption) ?_
    | split
    | (with_reducible apply Kept.step; (on_goal 2 => with_reducible apply Kept.set_bricks))

theorem State.setCtx_kept (s : State) (c : ℕ) (x : Ctx) :
    Kept [.ctxs] s (State.setCtx s c x) := by
  unfold State.setCtx
  repeat' first
    | with_reducible exact Kept.refl _ _
    | with_reducible assumption
    | intro (_h : Kept _ _ _)
    | intro y
    | decide
    | with_reducible apply hf
    | with_reducible apply Kept.ite
    | with_reducible apply Kept.ite₂
    | with_reducible apply Kept.ite₃
    | with_reducible apply Kept.iteW
    | with_reducible apply Kept.foldl
    | with_reducible apply Kept.foldl₂
    | with_reducible apply Kept.foldl₃
    | with_reducible refine Kept.of_snd (by assumption) ?_
    | with_reducible refine Kept.of_done (by assumption) ?_
    | with_reducible refine Kept.of_fault (by assumption) ?_
    | with_reducible refine Kept.of_wait (by assumption) ?_
    | with_reducible refine Kept.of_thd (by assumption) ?_
    | split
    | (with_reducible apply Kept.step; (on_goal 2 => with_reducible apply Kept.set_ctxs))

theorem State.setJoint_kept (s : State) (j : ℕ) (x : Joint) :
    Kept [.joints] s (State.setJoint s j x) := by
  unfold State.setJoint
  repeat' first
    | with_reducible exact Kept.refl _ _
    | with_reducible assumption
    | intro (_h : Kept _ _ _)
    | intro y
    | decide
    | with_reducible apply hf
    | with_reducible apply Kept.ite
    | with_reducible apply Kept.ite₂
    | with_reducible apply Kept.ite₃
    | with_reducible apply Kept.iteW
    | with_reducible apply Kept.foldl
    | with_reducible apply Kept.foldl₂
    | with_reducible apply Kept.foldl₃
    | with_reducible refine Kept.of_snd (by assumption) ?_
    | with_reducible refine Kept.of_done (by assumption) ?_
    | with_reducible refine Kept.of_fault (by assumption) ?_
    | with_reducible refine Kept.of_wait (by assumption) ?_
    | with_reducible refine Kept.of_thd (by assumption) ?_
    | split
    | (with_reducible apply Kept.step; (on_goal 2 => with_reducible apply Kept.set_joints))

theorem State.setMbox_kept (s : State) (c : ℕ) (x : Mailbox) :
    Kept [.mail] s (State.setMbox s c x) := by
  unfold State.setMbox
  repeat' first
    | with_reducible exact Kept.refl _ _
    | with_reducible assumption
    | intro (_h : Kept _ _ _)
    | intro y
    | decide
    | with_reducible apply hf
    | with_reducible apply Kept.ite
    | with_reducible apply Kept.ite₂
    | with_reducible apply Kept.ite₃
    | with_reducible apply Kept.iteW
    | with_reducible apply Kept.foldl
    | with_reducible apply Kept.foldl₂
    | with_reducible apply Kept.foldl₃
    | with_reducible refine Kept.of_snd (by assumption) ?_
    | with_reducible refine Kept.of_done (by assumption) ?_
    | with_reducible refine Kept.of_fault (by assumption) ?_
    | with_reducible refine Kept.of_wait (by assumption) ?_
    | with_reducible refine Kept.of_thd (by assumption) ?_
    | split
    | (with_reducible apply Kept.step; (on_goal 2 => with_reducible apply Kept.set_mail))

theorem State.setMaster_kept (s : State) (m : ℕ) (x : Master) :
    Kept [.masters] s (State.setMaster s m x) := by
  unfold State.setMaster
  repeat' first
    | with_reducible exact Kept.refl _ _
    | with_reducible assumption
    | intro (_h : Kept _ _ _)
    | intro y
    | decide
    | with_reducible apply hf
    | with_reducible apply Kept.ite
    | with_reducible apply Kept.ite₂
    | with_reducible apply Kept.ite₃
    | with_reducible apply Kept.iteW
    | with_reducible apply Kept.foldl
    | with_reducible apply Kept.foldl₂
    | with_reducible apply Kept.foldl₃
    | with_reducible refine Kept.of_snd (by assumption) ?_
    | with_reducible refine Kept.of_done (by assumption) ?_
    | with_reducible refine Kept.of_fault (by assumption) ?_
    | with_reducible refine Kept.of_wait (by assumption) ?_
    | with_reducible refine Kept.of_thd (by assumption) ?_
    | split
    | (with_reducible apply Kept.step; (on_goal 2 => with_reducible apply Kept.set_masters))

theorem State.setPort_kept (s : State) (p : ℕ) (x : Port) :
    Kept [.links] s (State.setPort s p x) := by
  unfold State.setPort
  repeat' first
    | with_reducible exact Kept.refl _ _
    | with_reducible assumption
    | intro (_h : Kept _ _ _)
    | ((try lift_lets); intro x; clear_value x)
    | intro y
    | decide
    | with_reducible apply hf
    | with_reducible apply Kept.ite
    | with_reducible apply Kept.ite₂
    | with_reducible apply Kept.ite₃
    | with_reducible apply Kept.iteW
    | with_reducible apply Kept.foldl
    | with_reducible apply Kept.foldl₂
    | with_reducible apply Kept.foldl₃
    | with_reducible refine Kept.of_snd (by assumption) ?_
    | with_reducible refine Kept.of_done (by assumption) ?_
    | with_reducible refine Kept.of_fault (by assumption) ?_
    | with_reducible refine Kept.of_wait (by assumption) ?_
    | with_reducible refine Kept.of_thd (by assumption) ?_
    | split
    | (with_reducible apply Kept.step; (on_goal 2 => with_reducible apply Kept.set_links))

theorem State.setGroup_kept (s : State) (c : ℕ) (g : ℕ) (x : Group) :
    Kept [.groups] s (State.setGroup s c g x) := by
  unfold State.setGroup
  repeat' first
    | with_reducible exact Kept.refl _ _
    | with_reducible assumption
    | intro (_h : Kept _ _ _)
    | intro y
    | decide
    | with_reducible apply hf
    | with_reducible apply Kept.ite
    | with_reducible apply Kept.ite₂
    | with_reducible apply Kept.ite₃
    | with_reducible apply Kept.iteW
    | with_reducible apply Kept.foldl
    | with_reducible apply Kept.foldl₂
    | with_reducible apply Kept.foldl₃
    | with_reducible refine Kept.of_snd (by assumption) ?_
    | with_reducible refine Kept.of_done (by assumption) ?_
    | with_reducible refine Kept.of_fault (by assumption) ?_
    | with_reducible refine Kept.of_wait (by assumption) ?_
    | with_reducible refine Kept.of_thd (by assumption) ?_
    | split
    | (with_reducible apply Kept.step; (on_goal 2 => with_reducible apply Kept.set_groups))

theorem State.setCont_kept (s : State) (c : ℕ) (x : Cont) :
    Kept [.conts] s (State.setCont s c x) := by
  unfold State.setCont
  repeat' first
    | with_reducible exact Kept.refl _ _
    | with_reducible assumption
    | intro (_h : Kept _ _ _)
    | intro y
    | decide
    | with_reducible apply hf
    | with_reducible apply Kept.ite
    | with_reducible apply Kept.ite₂
    | with_reducible apply Kept.ite₃
    | with_reducible apply Kept.iteW
    | with_reducible apply Kept.foldl
    | with_reducible apply Kept.foldl₂
    | with_reducible apply Kept.foldl₃
    | with_reducible refine Kept.of_snd (by assumption) ?_
    | with_reducible refine Kept.of_done (by assumption) ?_
    | with_reducible refine Kept.of_fault (by assumption) ?_
    | with_reducible refine Kept.of_wait (by assumption) ?_
    | with_reducible refine Kept.of_thd (by assumption) ?_
    | split
    | (with_reducible apply Kept.step; (on_goal 2 => with_reducible apply Kept.set_conts))

theorem State.setPage_kept (s : State) (p : ℕ) (x : Page) :
    Kept [.kv] s (State.setPage s p x) := by
  unfold State.setPage
  repeat' first
    | with_reducible exact Kept.refl _ _
    | with_reducible assumption
    | intro (_h : Kept _ _ _)
    | ((try lift_lets); intro x; clear_value x)
    | intro y
    | decide
    | with_reducible apply hf
    | with_reducible apply Kept.ite
    | with_reducible apply Kept.ite₂
    | with_reducible apply Kept.ite₃
    | with_reducible apply Kept.iteW
    | with_reducible apply Kept.foldl
    | with_reducible apply Kept.foldl₂
    | with_reducible apply Kept.foldl₃
    | with_reducible refine Kept.of_snd (by assumption) ?_
    | with_reducible refine Kept.of_done (by assumption) ?_
    | with_reducible refine Kept.of_fault (by assumption) ?_
    | with_reducible refine Kept.of_wait (by assumption) ?_
    | with_reducible refine Kept.of_thd (by assumption) ?_
    | split
    | (with_reducible apply Kept.step; (on_goal 2 => with_reducible apply Kept.set_kv))

theorem State.setRing_kept (s : State) (c : ℕ) (q : ℕ) (x : SRing) :
    Kept [.ctxs] s (State.setRing s c q x) := by
  unfold State.setRing
  repeat' first
    | with_reducible exact Kept.refl _ _
    | with_reducible assumption
    | intro (_h : Kept _ _ _)
    | ((try lift_lets); intro x; clear_value x)
    | intro y
    | decide
    | with_reducible apply hf
    | (with_reducible apply Kept.step; (on_goal 2 => with_reducible apply State.setCtx_kept))
    | (split; rename_i heq; refine (have hx : Kept [.ctxs] s _ := Kept.of_snd heq ?_; ?_); (on_goal 2 => clear heq))
    | (split; rename_i heq; refine (have hx : Kept [.ctxs] s _ := Kept.of_thd heq ?_; ?_); (on_goal 2 => clear heq))

theorem State.setCRing_kept (s : State) (c : ℕ) (q : ℕ) (x : CRing) :
    Kept [.ctxs] s (State.setCRing s c q x) := by
  unfold State.setCRing
  repeat' first
    | with_reducible exact Kept.refl _ _
    | with_reducible assumption
    | intro (_h : Kept _ _ _)
    | ((try lift_lets); intro x; clear_value x)
    | intro y
    | decide
    | with_reducible apply hf
    | (with_reducible apply Kept.step; (on_goal 2 => with_reducible apply State.setCtx_kept))
    | (split; rename_i heq; refine (have hx : Kept [.ctxs] s _ := Kept.of_snd heq ?_; ?_); (on_goal 2 => clear heq))
    | (split; rename_i heq; refine (have hx : Kept [.ctxs] s _ := Kept.of_thd heq ?_; ?_); (on_goal 2 => clear heq))

theorem State.fresh_kept (s : State) : Kept [.nextId] s s.fresh.2 :=
  ⟨fun p => by cases p <;> first | exact .inr rfl | exact .inl (by decide),
   fun c => ⟨c.mem, c.poison, c.regs⟩, Nat.le_refl _, Nat.le_succ _⟩

theorem State.draw_kept (s : State) : Kept [.freeCtr] s s.draw.2 :=
  ⟨fun p => by cases p <;> first | exact .inr rfl | exact .inl (by decide),
   fun c => ⟨c.mem, c.poison, c.regs⟩, Nat.le_succ _, Nat.le_refl _⟩

theorem State.clampEvent_kept (s : State) (off : ℕ) (master : ℕ) (kind : ℕ) :
    Kept [.regs] s (State.clampEvent s off master kind) := by
  unfold State.clampEvent
  repeat' first
    | with_reducible exact Kept.refl _ _
    | with_reducible assumption
    | intro (_h : Kept _ _ _)
    | intro y
    | decide
    | with_reducible apply hf
    | (with_reducible apply Kept.step; (on_goal 2 => first
        | with_reducible apply State.setReg_kept
        | with_reducible apply State.bump_kept))
    | (split; rename_i heq; refine (have hx : Kept [.regs] s _ := Kept.of_snd heq ?_; ?_); (on_goal 2 => clear heq))
    | (split; rename_i heq; refine (have hx : Kept [.regs] s _ := Kept.of_thd heq ?_; ?_); (on_goal 2 => clear heq))

theorem State.sendLegs_kept (s : State) (legs : List (ℕ × ℕ)) (n : ℕ) :
    Kept [.mortar] s (State.sendLegs s legs n) := by
  unfold State.sendLegs
  repeat' first
    | with_reducible exact Kept.refl _ _
    | with_reducible assumption
    | intro (_h : Kept _ _ _)
    | ((try lift_lets); intro x; clear_value x)
    | intro y
    | decide
    | with_reducible apply hf
    | with_reducible apply Kept.ite
    | with_reducible apply Kept.ite₂
    | with_reducible apply Kept.ite₃
    | with_reducible apply Kept.iteW
    | with_reducible apply Kept.foldl
    | with_reducible apply Kept.foldl₂
    | with_reducible apply Kept.foldl₃
    | with_reducible refine Kept.of_snd (by assumption) ?_
    | with_reducible refine Kept.of_done (by assumption) ?_
    | with_reducible refine Kept.of_fault (by assumption) ?_
    | with_reducible refine Kept.of_wait (by assumption) ?_
    | with_reducible refine Kept.of_thd (by assumption) ?_
    | split
    | (with_reducible apply Kept.step; (on_goal 2 => with_reducible apply Kept.set_mortar))

theorem State.sendFlits_kept (s : State) (e1 : ℕ) (e2 : ℕ) (n : ℕ) :
    Kept [.mortar] s (State.sendFlits s e1 e2 n) := by
  unfold State.sendFlits
  repeat' first
    | with_reducible exact Kept.refl _ _
    | with_reducible assumption
    | intro (_h : Kept _ _ _)
    | intro y
    | decide
    | with_reducible apply hf
    | (with_reducible apply Kept.step; (on_goal 2 => with_reducible apply State.sendLegs_kept))
    | (split; rename_i heq; refine (have hx : Kept [.mortar] s _ := Kept.of_snd heq ?_; ?_); (on_goal 2 => clear heq))
    | (split; rename_i heq; refine (have hx : Kept [.mortar] s _ := Kept.of_thd heq ?_; ?_); (on_goal 2 => clear heq))

theorem State.storeBrick_kept (s : State) (a : Nat) (bs : List Byte) (bad : List Nat) :
    Kept [.mem, .poison] s (s.storeBrick a bs bad) := by
  have hp : ∀ (l p : List Nat), rising p = true → rising (l.foldl (fun p cw =>
      if bad.contains cw then poisonSet p cw true
      else if decide (a ≤ 32 * cw) && decide (32 * cw + 32 ≤ a + bs.length) then poisonSet p cw false else p) p) = true := by
    intro l
    induction l with
    | nil => exact fun p h => h
    | cons c l ih =>
      intro p h
      refine ih _ ?_
      dsimp only
      split
      · exact poisonSet_rising c true h
      · split
        · exact poisonSet_rising c false h
        · exact h
  exact ((Kept.set_poison s _ (hp _ s.poison)).weaken (by decide)).step
    (Kept.set_mem _ (s.mem.writeBytes a bs) (writeBytes_wf a bs)) (by decide)

theorem State.setScratch_kept (s : State) (t o : Nat) (bs : List Byte) : Kept [.mem] s (s.setScratch t o bs) :=
  Kept.set_mem s _ (writeBytes_wf _ bs)

theorem State.zeroScratch_kept (s : State) (t : Nat) : Kept [.mem] s (s.zeroScratch t) :=
  Kept.set_mem s _ (fill_wf _ _ _)

theorem State.undefine_kept (s : State) (a n : Nat) : Kept [.freeCtr, .mem, .poison] s (s.undefine a n) := by
  refine Kept.step (s := { s.draw.2 with mem := s.draw.2.mem.fill a n (.undef (s.draw.1 + 1)) }) ?_
    (Kept.set_poison _ _ (rising_filter _)) (by decide)
  exact ((State.draw_kept s).weaken (by decide)).step (Kept.set_mem _ _ (fill_wf _ _ _)) (by decide)

theorem logErr_kept (s : State) (ch : ℕ) (kind : ℕ) (cw : ℕ) :
    Kept [.errLog, .errOverflow] s (logErr s ch kind cw) := by
  unfold logErr
  repeat' first
    | with_reducible exact Kept.refl _ _
    | with_reducible assumption
    | intro (_h : Kept _ _ _)
    | ((try lift_lets); intro x; clear_value x)
    | intro y
    | decide
    | with_reducible apply hf
    | with_reducible apply Kept.ite
    | with_reducible apply Kept.ite₂
    | with_reducible apply Kept.ite₃
    | with_reducible apply Kept.iteW
    | with_reducible apply Kept.foldl
    | with_reducible apply Kept.foldl₂
    | with_reducible apply Kept.foldl₃
    | with_reducible refine Kept.of_snd (by assumption) ?_
    | with_reducible refine Kept.of_done (by assumption) ?_
    | with_reducible refine Kept.of_fault (by assumption) ?_
    | with_reducible refine Kept.of_wait (by assumption) ?_
    | with_reducible refine Kept.of_thd (by assumption) ?_
    | split
    | (with_reducible apply Kept.step; (on_goal 2 => with_reducible apply Kept.set_errLog_errOverflow))

theorem noteBad_kept (ch : ℕ) (s : State) (cw : ℕ) :
    Kept [.regs, .errLog, .errOverflow] s (noteBad ch s cw) := by
  unfold noteBad
  repeat' first
    | with_reducible exact Kept.refl _ _
    | with_reducible assumption
    | intro (_h : Kept _ _ _)
    | intro y
    | decide
    | with_reducible apply hf
    | (with_reducible apply Kept.step; (on_goal 2 => first
        | with_reducible apply State.bump_kept
        | with_reducible apply logErr_kept))
    | with_reducible apply Kept.ite
    | (split; rename_i heq; refine (have hx : Kept [.regs, .errLog, .errOverflow] s _ := Kept.of_snd heq ?_; ?_); (on_goal 2 => clear heq))
    | (split; rename_i heq; refine (have hx : Kept [.regs, .errLog, .errOverflow] s _ := Kept.of_thd heq ?_; ?_); (on_goal 2 => clear heq))

theorem State.decodeClean_kept (s : State) (a : ℕ) (n : ℕ) :
    Kept [.regs, .errLog, .errOverflow] s (State.decodeClean s a n).2 := by
  unfold State.decodeClean
  repeat' first
    | with_reducible exact Kept.refl _ _
    | with_reducible assumption
    | intro (_h : Kept _ _ _)
    | ((try lift_lets); intro x; clear_value x)
    | intro y
    | decide
    | with_reducible apply hf
    | (with_reducible apply Kept.step; (on_goal 2 => with_reducible apply noteBad_kept))
    | with_reducible apply Kept.ite
    | with_reducible apply Kept.ite₂
    | with_reducible apply Kept.ite₃
    | with_reducible apply Kept.iteW
    | with_reducible apply Kept.foldl
    | (split; rename_i heq; refine (have hx : Kept [.regs, .errLog, .errOverflow] s _ := Kept.of_snd heq ?_; ?_); (on_goal 2 => clear heq))
    | (split; rename_i heq; refine (have hx : Kept [.regs, .errLog, .errOverflow] s _ := Kept.of_thd heq ?_; ?_); (on_goal 2 => clear heq))

theorem State.writeBrick_kept (s : State) (a : ℕ) (bs : List Byte) (bad : List ℕ) :
    Kept [.regs, .mem, .poison, .errLog, .errOverflow] s (State.writeBrick s a bs bad) := by
  unfold State.writeBrick
  repeat' first
    | with_reducible exact Kept.refl _ _
    | with_reducible assumption
    | intro (_h : Kept _ _ _)
    | intro y
    | decide
    | with_reducible apply hf
    | (with_reducible apply Kept.step; (on_goal 2 => first
        | with_reducible apply State.storeBrick_kept
        | with_reducible apply State.decodeClean_kept))
    | with_reducible apply Kept.ite
    | with_reducible apply Kept.ite₂
    | with_reducible apply Kept.ite₃
    | with_reducible apply Kept.iteW
    | with_reducible apply Kept.foldl
    | with_reducible apply Kept.foldl₂
    | (split; rename_i heq; refine (have hx : Kept [.regs, .mem, .poison, .errLog, .errOverflow] s _ := Kept.of_snd heq ?_; ?_); (on_goal 2 => clear heq))
    | (split; rename_i heq; refine (have hx : Kept [.regs, .mem, .poison, .errLog, .errOverflow] s _ := Kept.of_thd heq ?_; ?_); (on_goal 2 => clear heq))

end Sys2Proof.Machine
end

