-- ==== Sys2Proof/Laws/FrameTime.lean ====
section
/-! SUPPORT. Frames of the operations of Machine/Time.lean. -/

namespace Sys2Proof.Machine

theorem tick_kept (s : State) :
    Kept [.time] s (tick s) := by
  unfold tick
  repeat' first
    | with_reducible exact Kept.refl _ _
    | with_reducible assumption
    | intro (_h : Kept _ _ _)
    | ((try lift_lets); intro x; clear_value x)
    | intro y
    | decide
    | with_reducible apply hf
    | with_reducible apply Kept.ite
    | with_reducible apply Kept.ite₂
    | with_reducible apply Kept.ite₃
    | with_reducible apply Kept.iteW
    | with_reducible apply Kept.foldl
    | with_reducible apply Kept.foldl₂
    | with_reducible apply Kept.foldl₃
    | with_reducible refine Kept.of_snd (by assumption) ?_
    | with_reducible refine Kept.of_done (by assumption) ?_
    | with_reducible refine Kept.of_fault (by assumption) ?_
    | with_reducible refine Kept.of_wait (by assumption) ?_
    | with_reducible refine Kept.of_thd (by assumption) ?_
    | split
    | (with_reducible apply Kept.step; (on_goal 2 => with_reducible apply Kept.set_time))

end Sys2Proof.Machine
end

