-- ==== Sys2Proof/Laws/FrameRegRead.lean ====
section
/-! SUPPORT. Frames of the operations of Machine/RegRead.lean. -/

namespace Sys2Proof.Machine

theorem State.latch_kept (s : State) (m : ℕ) (off : ℕ) (idx : ℕ) :
    Kept [.regs] s (State.latch s m off idx) := by
  unfold State.latch
  repeat' first
    | with_reducible exact Kept.refl _ _
    | with_reducible assumption
    | intro (_h : Kept _ _ _)
    | intro y
    | decide
    | with_reducible apply hf
    | (with_reducible apply Kept.step; (on_goal 2 => with_reducible apply State.setReg_kept))
    | with_reducible apply Kept.ite
    | (split; rename_i heq; refine (have hx : Kept [.regs] s _ := Kept.of_snd heq ?_; ?_); (on_goal 2 => clear heq))
    | (split; rename_i heq; refine (have hx : Kept [.regs] s _ := Kept.of_thd heq ?_; ?_); (on_goal 2 => clear heq))

theorem State.popErr_kept (s : State) : Kept [.errLog, .errOverflow] s s.popErr :=
  ((Kept.set_errLog s (s.errLog.drop 1)).weaken (qs := [.errLog]) (by decide)).step (Kept.set_errOverflow _ false) (by decide)

theorem State.clearRc_kept (s : State) (r : WordRow) (idx : ℕ) (mask : ℕ) :
    Kept [.regs] s (State.clearRc s r idx mask) := by
  unfold State.clearRc
  repeat' first
    | with_reducible exact Kept.refl _ _
    | with_reducible assumption
    | intro (_h : Kept _ _ _)
    | ((try lift_lets); intro x; clear_value x)
    | intro y
    | decide
    | with_reducible apply hf
    | (with_reducible apply Kept.step; (on_goal 2 => with_reducible apply State.setReg_kept))
    | with_reducible apply Kept.ite
    | (split; rename_i heq; refine (have hx : Kept [.regs] s _ := Kept.of_snd heq ?_; ?_); (on_goal 2 => clear heq))
    | (split; rename_i heq; refine (have hx : Kept [.regs] s _ := Kept.of_thd heq ?_; ?_); (on_goal 2 => clear heq))

theorem State.clearFlits_kept (s : State) (off : ℕ) (idx : ℕ) :
    Kept [.mortar] s (State.clearFlits s off idx) := by
  unfold State.clearFlits
  repeat' first
    | with_reducible exact Kept.refl _ _
    | with_reducible assumption
    | intro (_h : Kept _ _ _)
    | ((try lift_lets); intro x; clear_value x)
    | intro y
    | decide
    | with_reducible apply hf
    | with_reducible apply Kept.ite
    | with_reducible apply Kept.ite₂
    | with_reducible apply Kept.ite₃
    | with_reducible apply Kept.iteW
    | with_reducible apply Kept.foldl
    | with_reducible apply Kept.foldl₂
    | with_reducible apply Kept.foldl₃
    | with_reducible refine Kept.of_snd (by assumption) ?_
    | with_reducible refine Kept.of_done (by assumption) ?_
    | with_reducible refine Kept.of_fault (by assumption) ?_
    | with_reducible refine Kept.of_wait (by assumption) ?_
    | with_reducible refine Kept.of_thd (by assumption) ?_
    | split
    | (with_reducible apply Kept.step; (on_goal 2 => with_reducible apply Kept.set_mortar))

theorem State.readRow_kept (s : State) (m : ℕ) (r : WordRow) :
    Kept [.regs, .mortar, .errLog, .errOverflow] s (State.readRow s m r).2 := by
  unfold State.readRow
  repeat' first
    | with_reducible exact Kept.refl _ _
    | with_reducible assumption
    | intro (_h : Kept _ _ _)
    | ((try lift_lets); intro x; clear_value x)
    | intro y
    | decide
    | with_reducible apply hf
    | (with_reducible apply Kept.step; (on_goal 2 => first
        | with_reducible apply State.latch_kept
        | with_reducible apply State.popErr_kept
        | with_reducible apply State.clearRc_kept
        | with_reducible apply State.clearFlits_kept))
    | with_reducible apply Kept.ite
    | with_reducible apply Kept.ite₂
    | (split; rename_i heq; refine (have hx : Kept [.regs, .mortar, .errLog, .errOverflow] s _ := Kept.of_snd heq ?_; ?_); (on_goal 2 => clear heq))
    | (split; rename_i heq; refine (have hx : Kept [.regs, .mortar, .errLog, .errOverflow] s _ := Kept.of_thd heq ?_; ?_); (on_goal 2 => clear heq))

theorem State.readDoorbell_kept (s : State) (n : ℕ) (o : ℕ) :
    Kept [.regs] s (State.readDoorbell s n o).2 := by
  unfold State.readDoorbell
  repeat' first
    | with_reducible exact Kept.refl _ _
    | with_reducible assumption
    | intro (_h : Kept _ _ _)
    | intro y
    | decide
    | with_reducible apply hf
    | (with_reducible apply Kept.step; (on_goal 2 => with_reducible apply State.setReg_kept))
    | with_reducible apply Kept.ite
    | with_reducible apply Kept.ite₂
    | (split; rename_i heq; refine (have hx : Kept [.regs] s _ := Kept.of_snd heq ?_; ?_); (on_goal 2 => clear heq))
    | (split; rename_i heq; refine (have hx : Kept [.regs] s _ := Kept.of_thd heq ?_; ?_); (on_goal 2 => clear heq))

theorem State.readAlias_kept (s : State) (m : ℕ) (slot : ℕ) (bit : ℕ) :
    Kept [.regs] s (State.readAlias s m slot bit).2 := by
  unfold State.readAlias
  repeat' first
    | with_reducible exact Kept.refl _ _
    | with_reducible assumption
    | intro (_h : Kept _ _ _)
    | ((try lift_lets); intro x; clear_value x)
    | intro y
    | decide
    | with_reducible apply hf
    | (with_reducible apply Kept.step; (on_goal 2 => with_reducible apply State.clearRc_kept))
    | with_reducible apply Kept.ite
    | with_reducible apply Kept.ite₂
    | with_reducible apply Kept.ite₃
    | with_reducible apply Kept.iteW
    | with_reducible apply Kept.foldl
    | with_reducible apply Kept.foldl₂
    | with_reducible apply Kept.foldl₃
    | with_reducible refine Kept.of_snd (by assumption) ?_
    | with_reducible refine Kept.of_done (by assumption) ?_
    | with_reducible refine Kept.of_fault (by assumption) ?_
    | with_reducible refine Kept.of_wait (by assumption) ?_
    | with_reducible refine Kept.of_thd (by assumption) ?_
    | split

theorem readReg_kept (s : State) (m : ℕ) (off : ℕ) :
    Kept [.regs, .mortar, .errLog, .errOverflow] s (readReg s m off).2 := by
  unfold readReg
  repeat' first
    | with_reducible exact Kept.refl _ _
    | with_reducible assumption
    | intro (_h : Kept _ _ _)
    | intro y
    | decide
    | with_reducible apply hf
    | (with_reducible apply Kept.step; (on_goal 2 => first
        | with_reducible apply State.bump_kept
        | with_reducible apply State.readRow_kept
        | with_reducible apply State.readDoorbell_kept
        | with_reducible apply State.readAlias_kept))
    | with_reducible apply Kept.ite
    | with_reducible apply Kept.ite₂
    | with_reducible apply Kept.ite₃
    | with_reducible apply Kept.iteW
    | with_reducible apply Kept.foldl
    | with_reducible apply Kept.foldl₂
    | with_reducible apply Kept.foldl₃
    | with_reducible refine Kept.of_snd (by assumption) ?_
    | with_reducible refine Kept.of_done (by assumption) ?_
    | with_reducible refine Kept.of_fault (by assumption) ?_
    | with_reducible refine Kept.of_wait (by assumption) ?_
    | with_reducible refine Kept.of_thd (by assumption) ?_
    | split

theorem State.returnRead_kept (r : Option ℕ × State) (m : ℕ) :
    Kept [.masters] r.2 (State.returnRead r m) := by
  unfold State.returnRead
  repeat' first
    | with_reducible exact Kept.refl _ _
    | with_reducible assumption
    | intro (_h : Kept _ _ _)
    | ((try lift_lets); intro x; clear_value x)
    | intro y
    | decide
    | with_reducible apply hf
    | (with_reducible apply Kept.step; (on_goal 2 => with_reducible apply State.setMaster_kept))
    | (split; rename_i heq; refine (have hx : Kept [.masters] r.2 _ := Kept.of_snd heq ?_; ?_); (on_goal 2 => clear heq))
    | (split; rename_i heq; refine (have hx : Kept [.masters] r.2 _ := Kept.of_thd heq ?_; ?_); (on_goal 2 => clear heq))

end Sys2Proof.Machine
end

