-- ==== Sys2Proof/Laws/FrameAccess.lean ====
section
/-! SUPPORT. Frames of the operations of Machine/Access.lean. -/

namespace Sys2Proof.Machine

theorem State.noteProt_kept (s : State) (ctx : ℕ) (page : ℕ) :
    Kept [.regs, .errLog, .errOverflow, .ctxs] s (State.noteProt s ctx page) := by
  unfold State.noteProt
  repeat' first
    | with_reducible exact Kept.refl _ _
    | with_reducible assumption
    | intro (_h : Kept _ _ _)
    | ((try lift_lets); intro x; clear_value x)
    | intro y
    | decide
    | with_reducible apply hf
    | (with_reducible apply Kept.step; (on_goal 2 => first
        | with_reducible apply State.setCtx_kept
        | with_reducible apply State.decodeClean_kept))
    | with_reducible apply Kept.ite
    | (split; rename_i heq; refine (have hx : Kept [.regs, .errLog, .errOverflow, .ctxs] s _ := Kept.of_snd heq ?_; ?_); (on_goal 2 => clear heq))
    | (split; rename_i heq; refine (have hx : Kept [.regs, .errLog, .errOverflow, .ctxs] s _ := Kept.of_thd heq ?_; ?_); (on_goal 2 => clear heq))

theorem State.addrError_kept (s : State) (ctx : ℕ) :
    Kept [.regs] s (State.addrError s ctx) := by
  unfold State.addrError
  repeat' first
    | with_reducible exact Kept.refl _ _
    | with_reducible assumption
    | intro (_h : Kept _ _ _)
    | intro y
    | decide
    | with_reducible apply hf
    | (with_reducible apply Kept.step; (on_goal 2 => with_reducible apply State.bump_kept))
    | with_reducible apply Kept.ite
    | (split; rename_i heq; refine (have hx : Kept [.regs] s _ := Kept.of_snd heq ?_; ?_); (on_goal 2 => clear heq))
    | (split; rename_i heq; refine (have hx : Kept [.regs] s _ := Kept.of_thd heq ?_; ?_); (on_goal 2 => clear heq))

theorem readRegWords_kept (x0 : ℕ) (x1 : State) (x2 : ℕ) (x3 : ℕ) :
    Kept [.regs, .mortar, .errLog, .errOverflow] x1 (readRegWords x0 x1 x2 x3).2 := by
  induction x0 generalizing x1 x2 x3 with
  | zero =>
    rw [readRegWords]
    repeat' first
      | with_reducible exact Kept.refl _ _
      | ((try lift_lets); intro x; refine (have hx : Kept [.regs, .mortar, .errLog, .errOverflow] x1 x := ?_; ?_); (on_goal 1 => subst x); (on_goal 2 => clear_value x))
      | ((try lift_lets); intro x; refine (have hx : Kept [.regs, .mortar, .errLog, .errOverflow] x1 x.2 := ?_; ?_); (on_goal 1 => subst x); (on_goal 2 => clear_value x))
      | ((try lift_lets); intro x; refine (have hx : Kept [.regs, .mortar, .errLog, .errOverflow] x1 x.2.2 := ?_; ?_); (on_goal 1 => subst x); (on_goal 2 => clear_value x))
      | ((try lift_lets); intro x; refine (have hf : ∀ y : State, Kept [.regs, .mortar, .errLog, .errOverflow] x1 y → Kept [.regs, .mortar, .errLog, .errOverflow] x1 (x y) := ?_; ?_); (on_goal 1 => subst x); (on_goal 2 => clear_value x))
      | ((try lift_lets); intro x; refine (have hf : ∀ (y : State) a, Kept [.regs, .mortar, .errLog, .errOverflow] x1 y → Kept [.regs, .mortar, .errLog, .errOverflow] x1 (x y a) := ?_; ?_); (on_goal 1 => subst x); (on_goal 2 => clear_value x))
      | ((try lift_lets); intro x; clear_value x)
      | (with_reducible apply Kept.step; (on_goal 2 => with_reducible apply readReg_kept))
      | (split; rename_i heq; refine (have hx : Kept [.regs, .mortar, .errLog, .errOverflow] x1 _ := Kept.of_snd heq ?_; ?_); (on_goal 2 => clear heq))
      | (split; rename_i heq; refine (have hx : Kept [.regs, .mortar, .errLog, .errOverflow] x1 _ := Kept.of_thd heq ?_; ?_); (on_goal 2 => clear heq))
  | succ n ih =>
    rw [readRegWords]
    repeat' first
      | with_reducible exact Kept.refl _ _
      | with_reducible assumption
      | (with_reducible apply Kept.trans; (on_goal 2 => with_reducible apply ih))
      | intro (_h : Kept _ _ _)
      | intro y
      | decide
      | with_reducible apply hf
      | (with_reducible apply Kept.step; (on_goal 2 => with_reducible apply readReg_kept))
      | (split; rename_i heq; refine (have hx : Kept [.regs, .mortar, .errLog, .errOverflow] x1 _ := Kept.of_snd heq ?_; ?_); (on_goal 2 => clear heq))
      | (split; rename_i heq; refine (have hx : Kept [.regs, .mortar, .errLog, .errOverflow] x1 _ := Kept.of_thd heq ?_; ?_); (on_goal 2 => clear heq))

theorem agentRead_kept (s : State) (ctx : ℕ) (a : ℕ) (len : ℕ) (e : optParam ℕ (unitEnd 8)) :
    Kept [.regs, .mortar, .errLog, .errOverflow, .ctxs] s (agentRead s ctx a len e).2 := by
  unfold agentRead
  repeat' first
    | with_reducible exact Kept.refl _ _
    | with_reducible assumption
    | intro (_h : Kept _ _ _)
    | ((try lift_lets); intro x; refine (have hx : Kept [.regs, .mortar, .errLog, .errOverflow, .ctxs] s x := ?_; ?_); (on_goal 1 => subst x); (on_goal 2 => clear_value x))
    | intro y
    | decide
    | with_reducible apply hf
    | (with_reducible apply Kept.step; (on_goal 2 => first
        | with_reducible apply State.sendFlits_kept
        | with_reducible apply State.decodeClean_kept
        | with_reducible apply State.noteProt_kept
        | with_reducible apply State.addrError_kept
        | with_reducible apply readRegWords_kept))
    | with_reducible apply Kept.ite
    | with_reducible apply Kept.ite₂
    | (split; rename_i heq; refine (have hx : Kept [.regs, .mortar, .errLog, .errOverflow, .ctxs] s _ := Kept.of_snd heq ?_; ?_); (on_goal 2 => clear heq))
    | (split; rename_i heq; refine (have hx : Kept [.regs, .mortar, .errLog, .errOverflow, .ctxs] s _ := Kept.of_thd heq ?_; ?_); (on_goal 2 => clear heq))

theorem postWords_kept (x0 : ℕ) (x1 : State) (x2 : ℕ) (x3 : ℕ) (x4 : List Byte) :
    Kept [.regs, .regPosted] x1 (postWords x0 x1 x2 x3 x4) := by
  induction x0 generalizing x1 x2 x3 x4 with
  | zero =>
    rw [postWords]
    repeat' first
      | with_reducible exact Kept.refl _ _
      | ((try lift_lets); intro x; refine (have hx : Kept [.regs, .regPosted] x1 x := ?_; ?_); (on_goal 1 => subst x); (on_goal 2 => clear_value x))
      | ((try lift_lets); intro x; refine (have hx : Kept [.regs, .regPosted] x1 x.2 := ?_; ?_); (on_goal 1 => subst x); (on_goal 2 => clear_value x))
      | ((try lift_lets); intro x; refine (have hx : Kept [.regs, .regPosted] x1 x.2.2 := ?_; ?_); (on_goal 1 => subst x); (on_goal 2 => clear_value x))
      | ((try lift_lets); intro x; refine (have hf : ∀ y : State, Kept [.regs, .regPosted] x1 y → Kept [.regs, .regPosted] x1 (x y) := ?_; ?_); (on_goal 1 => subst x); (on_goal 2 => clear_value x))
      | ((try lift_lets); intro x; refine (have hf : ∀ (y : State) a, Kept [.regs, .regPosted] x1 y → Kept [.regs, .regPosted] x1 (x y a) := ?_; ?_); (on_goal 1 => subst x); (on_goal 2 => clear_value x))
      | ((try lift_lets); intro x; clear_value x)
      | (with_reducible apply Kept.step; (on_goal 2 => with_reducible apply State.bump_kept))
      | (split; rename_i heq; refine (have hx : Kept [.regs, .regPosted] x1 _ := Kept.of_snd heq ?_; ?_); (on_goal 2 => clear heq))
      | (split; rename_i heq; refine (have hx : Kept [.regs, .regPosted] x1 _ := Kept.of_thd heq ?_; ?_); (on_goal 2 => clear heq))
      | (with_reducible apply Kept.step; (on_goal 2 => with_reducible apply Kept.set_regPosted))
  | succ n ih =>
    rw [postWords]
    repeat' first
      | with_reducible exact Kept.refl _ _
      | with_reducible assumption
      | (with_reducible apply Kept.trans; (on_goal 2 => with_reducible apply ih))
      | intro (_h : Kept _ _ _)
      | intro y
      | decide
      | with_reducible apply hf
      | (with_reducible apply Kept.step; (on_goal 2 => with_reducible apply State.bump_kept))
      | with_reducible apply Kept.ite
      | with_reducible apply Kept.ite₂
      | with_reducible apply Kept.ite₃
      | with_reducible apply Kept.iteW
      | with_reducible apply Kept.foldl
      | with_reducible apply Kept.foldl₂
      | with_reducible apply Kept.foldl₃
      | with_reducible refine Kept.of_snd (by assumption) ?_
      | with_reducible refine Kept.of_done (by assumption) ?_
      | with_reducible refine Kept.of_fault (by assumption) ?_
      | with_reducible refine Kept.of_wait (by assumption) ?_
      | with_reducible refine Kept.of_thd (by assumption) ?_
      | split
      | (with_reducible apply Kept.step; (on_goal 2 => with_reducible apply Kept.set_regPosted))

theorem postRegs_kept (s : State) (m : ℕ) (off : ℕ) (bs : List Byte) :
    Kept [.regs, .regPosted] s (postRegs s m off bs) := by
  unfold postRegs
  repeat' first
    | with_reducible exact Kept.refl _ _
    | with_reducible assumption
    | intro (_h : Kept _ _ _)
    | intro y
    | decide
    | with_reducible apply hf
    | (with_reducible apply Kept.step; (on_goal 2 => with_reducible apply postWords_kept))
    | with_reducible apply Kept.ite
    | with_reducible apply Kept.ite₂
    | with_reducible apply Kept.ite₃
    | with_reducible apply Kept.iteW
    | with_reducible apply Kept.foldl
    | with_reducible apply Kept.foldl₂
    | with_reducible apply Kept.foldl₃
    | with_reducible refine Kept.of_snd (by assumption) ?_
    | with_reducible refine Kept.of_done (by assumption) ?_
    | with_reducible refine Kept.of_fault (by assumption) ?_
    | with_reducible refine Kept.of_wait (by assumption) ?_
    | with_reducible refine Kept.of_thd (by assumption) ?_
    | split
    | (with_reducible apply Kept.step; (on_goal 2 => with_reducible apply Kept.set_regPosted))

theorem State.putBytes_kept (s : State) (ctx a : Nat) (bs : List Byte) (bad : List Nat) :
    Kept [.regs, .mem, .poison, .hostMem, .errLog, .errOverflow, .regPosted] s (s.putBytes ctx a bs bad) := by
  unfold State.putBytes
  split
  · exact (State.writeBrick_kept s a bs bad).weaken (by decide)
  · exact (Kept.set_mem s _ (writeBytes_wf a bs)).weaken (by decide)
  · exact (postRegs_kept s _ _ bs).weaken (by decide)
  · split
    · exact Kept.refl _ _
    · exact (Kept.set_hostMem s _ (writeBytes_wf _ bs)).weaken (by decide)
  · exact Kept.refl _ _

theorem agentWrite_kept (s : State) (ctx : ℕ) (a : ℕ) (bs : List Byte) (bad : List ℕ) (e : optParam ℕ (unitEnd 8)) :
    Kept [.regs, .mem, .poison, .hostMem, .mortar, .errLog, .errOverflow, .ctxs, .regPosted] s (agentWrite s ctx a bs bad e).2 := by
  unfold agentWrite
  repeat' first
    | with_reducible exact Kept.refl _ _
    | with_reducible assumption
    | intro (_h : Kept _ _ _)
    | ((try lift_lets); intro x; refine (have hx : Kept [.regs, .mem, .poison, .hostMem, .mortar, .errLog, .errOverflow, .ctxs, .regPosted] s x := ?_; ?_); (on_goal 1 => subst x); (on_goal 2 => clear_value x))
    | intro y
    | decide
    | with_reducible apply hf
    | (with_reducible apply Kept.step; (on_goal 2 => first
        | with_reducible apply State.sendFlits_kept
        | with_reducible apply State.noteProt_kept
        | with_reducible apply State.addrError_kept
        | with_reducible apply State.putBytes_kept))
    | with_reducible apply Kept.ite
    | with_reducible apply Kept.ite₂
    | (split; rename_i heq; refine (have hx : Kept [.regs, .mem, .poison, .hostMem, .mortar, .errLog, .errOverflow, .ctxs, .regPosted] s _ := Kept.of_snd heq ?_; ?_); (on_goal 2 => clear heq))
    | (split; rename_i heq; refine (have hx : Kept [.regs, .mem, .poison, .hostMem, .mortar, .errLog, .errOverflow, .ctxs, .regPosted] s _ := Kept.of_thd heq ?_; ?_); (on_goal 2 => clear heq))

theorem readAllAux_kept (x0 : List (ℕ × ℕ)) (x1 : State) (x2 : ℕ) (x3 : ℕ) (x4 : ℕ) (x5 : RdOut) :
    Kept [.regs, .mortar, .errLog, .errOverflow, .ctxs] x1 (readAllAux x0 x1 x2 x3 x4 x5).2 := by
  induction x0 generalizing x1 x2 x3 x4 x5 with
  | nil =>
    rw [readAllAux]
    repeat' first
      | with_reducible exact Kept.refl _ _
      | ((try lift_lets); intro x; refine (have hx : Kept [.regs, .mortar, .errLog, .errOverflow, .ctxs] x1 x := ?_; ?_); (on_goal 1 => subst x); (on_goal 2 => clear_value x))
      | ((try lift_lets); intro x; refine (have hx : Kept [.regs, .mortar, .errLog, .errOverflow, .ctxs] x1 x.2 := ?_; ?_); (on_goal 1 => subst x); (on_goal 2 => clear_value x))
      | ((try lift_lets); intro x; refine (have hx : Kept [.regs, .mortar, .errLog, .errOverflow, .ctxs] x1 x.2.2 := ?_; ?_); (on_goal 1 => subst x); (on_goal 2 => clear_value x))
      | ((try lift_lets); intro x; refine (have hf : ∀ y : State, Kept [.regs, .mortar, .errLog, .errOverflow, .ctxs] x1 y → Kept [.regs, .mortar, .errLog, .errOverflow, .ctxs] x1 (x y) := ?_; ?_); (on_goal 1 => subst x); (on_goal 2 => clear_value x))
      | ((try lift_lets); intro x; refine (have hf : ∀ (y : State) a, Kept [.regs, .mortar, .errLog, .errOverflow, .ctxs] x1 y → Kept [.regs, .mortar, .errLog, .errOverflow, .ctxs] x1 (x y a) := ?_; ?_); (on_goal 1 => subst x); (on_goal 2 => clear_value x))
      | ((try lift_lets); intro x; clear_value x)
      | (with_reducible apply Kept.step; (on_goal 2 => with_reducible apply agentRead_kept))
      | (split; rename_i heq; refine (have hx : Kept [.regs, .mortar, .errLog, .errOverflow, .ctxs] x1 _ := Kept.of_snd heq ?_; ?_); (on_goal 2 => clear heq))
      | (split; rename_i heq; refine (have hx : Kept [.regs, .mortar, .errLog, .errOverflow, .ctxs] x1 _ := Kept.of_thd heq ?_; ?_); (on_goal 2 => clear heq))
  | cons x r ih =>
    rw [readAllAux]
    repeat' first
      | with_reducible exact Kept.refl _ _
      | with_reducible assumption
      | (with_reducible apply Kept.trans; (on_goal 2 => with_reducible apply ih))
      | intro (_h : Kept _ _ _)
      | intro y
      | decide
      | with_reducible apply hf
      | (with_reducible apply Kept.step; (on_goal 2 => with_reducible apply agentRead_kept))
      | with_reducible apply Kept.ite
      | with_reducible apply Kept.ite₂
      | (split; rename_i heq; refine (have hx : Kept [.regs, .mortar, .errLog, .errOverflow, .ctxs] x1 _ := Kept.of_snd heq ?_; ?_); (on_goal 2 => clear heq))
      | (split; rename_i heq; refine (have hx : Kept [.regs, .mortar, .errLog, .errOverflow, .ctxs] x1 _ := Kept.of_thd heq ?_; ?_); (on_goal 2 => clear heq))

theorem agentReadAll_kept (s : State) (ctx : ℕ) (a : ℕ) (len : ℕ) (e : optParam ℕ (unitEnd 8)) :
    Kept [.regs, .mortar, .errLog, .errOverflow, .ctxs] s (agentReadAll s ctx a len e).2 := by
  unfold agentReadAll
  repeat' first
    | with_reducible exact Kept.refl _ _
    | with_reducible assumption
    | intro (_h : Kept _ _ _)
    | intro y
    | decide
    | with_reducible apply hf
    | (with_reducible apply Kept.step; (on_goal 2 => with_reducible apply readAllAux_kept))
    | (split; rename_i heq; refine (have hx : Kept [.regs, .mortar, .errLog, .errOverflow, .ctxs] s _ := Kept.of_snd heq ?_; ?_); (on_goal 2 => clear heq))
    | (split; rename_i heq; refine (have hx : Kept [.regs, .mortar, .errLog, .errOverflow, .ctxs] s _ := Kept.of_thd heq ?_; ?_); (on_goal 2 => clear heq))

theorem writeAllAux_kept (x0 : List (ℕ × ℕ)) (x1 : State) (x2 : ℕ) (x3 : ℕ) (x4 : ℕ) (x5 : List Byte) (x6 : List ℕ) (x7 : Bool) :
    Kept [.regs, .mem, .poison, .hostMem, .mortar, .errLog, .errOverflow, .ctxs, .regPosted] x1 (writeAllAux x0 x1 x2 x3 x4 x5 x6 x7).2 := by
  induction x0 generalizing x1 x2 x3 x4 x5 x6 x7 with
  | nil =>
    rw [writeAllAux]
    repeat' first
      | with_reducible exact Kept.refl _ _
      | ((try lift_lets); intro x; refine (have hx : Kept [.regs, .mem, .poison, .hostMem, .mortar, .errLog, .errOverflow, .ctxs, .regPosted] x1 x := ?_; ?_); (on_goal 1 => subst x); (on_goal 2 => clear_value x))
      | ((try lift_lets); intro x; refine (have hx : Kept [.regs, .mem, .poison, .hostMem, .mortar, .errLog, .errOverflow, .ctxs, .regPosted] x1 x.2 := ?_; ?_); (on_goal 1 => subst x); (on_goal 2 => clear_value x))
      | ((try lift_lets); intro x; refine (have hx : Kept [.regs, .mem, .poison, .hostMem, .mortar, .errLog, .errOverflow, .ctxs, .regPosted] x1 x.2.2 := ?_; ?_); (on_goal 1 => subst x); (on_goal 2 => clear_value x))
      | ((try lift_lets); intro x; refine (have hf : ∀ y : State, Kept [.regs, .mem, .poison, .hostMem, .mortar, .errLog, .errOverflow, .ctxs, .regPosted] x1 y → Kept [.regs, .mem, .poison, .hostMem, .mortar, .errLog, .errOverflow, .ctxs, .regPosted] x1 (x y) := ?_; ?_); (on_goal 1 => subst x); (on_goal 2 => clear_value x))
      | ((try lift_lets); intro x; refine (have hf : ∀ (y : State) a, Kept [.regs, .mem, .poison, .hostMem, .mortar, .errLog, .errOverflow, .ctxs, .regPosted] x1 y → Kept [.regs, .mem, .poison, .hostMem, .mortar, .errLog, .errOverflow, .ctxs, .regPosted] x1 (x y a) := ?_; ?_); (on_goal 1 => subst x); (on_goal 2 => clear_value x))
      | ((try lift_lets); intro x; clear_value x)
      | (with_reducible apply Kept.step; (on_goal 2 => with_reducible apply agentWrite_kept))
      | (split; rename_i heq; refine (have hx : Kept [.regs, .mem, .poison, .hostMem, .mortar, .errLog, .errOverflow, .ctxs, .regPosted] x1 _ := Kept.of_snd heq ?_; ?_); (on_goal 2 => clear heq))
      | (split; rename_i heq; refine (have hx : Kept [.regs, .mem, .poison, .hostMem, .mortar, .errLog, .errOverflow, .ctxs, .regPosted] x1 _ := Kept.of_thd heq ?_; ?_); (on_goal 2 => clear heq))
  | cons x r ih =>
    rw [writeAllAux]
    repeat' first
      | with_reducible exact Kept.refl _ _
      | with_reducible assumption
      | (with_reducible apply Kept.trans; (on_goal 2 => with_reducible apply ih))
      | intro (_h : Kept _ _ _)
      | intro y
      | decide
      | with_reducible apply hf
      | (with_reducible apply Kept.step; (on_goal 2 => with_reducible apply agentWrite_kept))
      | (split; rename_i heq; refine (have hx : Kept [.regs, .mem, .poison, .hostMem, .mortar, .errLog, .errOverflow, .ctxs, .regPosted] x1 _ := Kept.of_snd heq ?_; ?_); (on_goal 2 => clear heq))
      | (split; rename_i heq; refine (have hx : Kept [.regs, .mem, .poison, .hostMem, .mortar, .errLog, .errOverflow, .ctxs, .regPosted] x1 _ := Kept.of_thd heq ?_; ?_); (on_goal 2 => clear heq))

theorem agentWriteAll_kept (s : State) (ctx : ℕ) (a : ℕ) (bs : List Byte) (bad : List ℕ) (e : optParam ℕ (unitEnd 8)) :
    Kept [.regs, .mem, .poison, .hostMem, .mortar, .errLog, .errOverflow, .ctxs, .regPosted] s (agentWriteAll s ctx a bs bad e).2 := by
  unfold agentWriteAll
  repeat' first
    | with_reducible exact Kept.refl _ _
    | with_reducible assumption
    | intro (_h : Kept _ _ _)
    | intro y
    | decide
    | with_reducible apply hf
    | (with_reducible apply Kept.step; (on_goal 2 => with_reducible apply writeAllAux_kept))
    | (split; rename_i heq; refine (have hx : Kept [.regs, .mem, .poison, .hostMem, .mortar, .errLog, .errOverflow, .ctxs, .regPosted] s _ := Kept.of_snd heq ?_; ?_); (on_goal 2 => clear heq))
    | (split; rename_i heq; refine (have hx : Kept [.regs, .mem, .poison, .hostMem, .mortar, .errLog, .errOverflow, .ctxs, .regPosted] s _ := Kept.of_thd heq ?_; ?_); (on_goal 2 => clear heq))

theorem moveAux_kept (x0 : List (ℕ × ℕ)) (x1 : State) (x2 : ℕ) (x3 : ℕ) (x4 : ℕ) (x5 : ℕ) (x6 : Bool) (x7 : List ℕ) (x8 : ℕ) :
    Kept [.regs, .mem, .poison, .hostMem, .mortar, .errLog, .errOverflow, .ctxs, .regPosted] x1 (moveAux x0 x1 x2 x3 x4 x5 x6 x7 x8).2 := by
  induction x0 generalizing x1 x2 x3 x4 x5 x6 x7 x8 with
  | nil =>
    rw [moveAux]
    repeat' first
      | with_reducible exact Kept.refl _ _
      | ((try lift_lets); intro x; refine (have hx : Kept [.regs, .mem, .poison, .hostMem, .mortar, .errLog, .errOverflow, .ctxs, .regPosted] x1 x := ?_; ?_); (on_goal 1 => subst x); (on_goal 2 => clear_value x))
      | ((try lift_lets); intro x; refine (have hx : Kept [.regs, .mem, .poison, .hostMem, .mortar, .errLog, .errOverflow, .ctxs, .regPosted] x1 x.2 := ?_; ?_); (on_goal 1 => subst x); (on_goal 2 => clear_value x))
      | ((try lift_lets); intro x; refine (have hx : Kept [.regs, .mem, .poison, .hostMem, .mortar, .errLog, .errOverflow, .ctxs, .regPosted] x1 x.2.2 := ?_; ?_); (on_goal 1 => subst x); (on_goal 2 => clear_value x))
      | ((try lift_lets); intro x; refine (have hf : ∀ y : State, Kept [.regs, .mem, .poison, .hostMem, .mortar, .errLog, .errOverflow, .ctxs, .regPosted] x1 y → Kept [.regs, .mem, .poison, .hostMem, .mortar, .errLog, .errOverflow, .ctxs, .regPosted] x1 (x y) := ?_; ?_); (on_goal 1 => subst x); (on_goal 2 => clear_value x))
      | ((try lift_lets); intro x; refine (have hf : ∀ (y : State) a, Kept [.regs, .mem, .poison, .hostMem, .mortar, .errLog, .errOverflow, .ctxs, .regPosted] x1 y → Kept [.regs, .mem, .poison, .hostMem, .mortar, .errLog, .errOverflow, .ctxs, .regPosted] x1 (x y a) := ?_; ?_); (on_goal 1 => subst x); (on_goal 2 => clear_value x))
      | ((try lift_lets); intro x; clear_value x)
      | (with_reducible apply Kept.step; (on_goal 2 => first
        | with_reducible apply agentRead_kept
        | with_reducible apply agentWrite_kept))
      | (split; rename_i heq; refine (have hx : Kept [.regs, .mem, .poison, .hostMem, .mortar, .errLog, .errOverflow, .ctxs, .regPosted] x1 _ := Kept.of_snd heq ?_; ?_); (on_goal 2 => clear heq))
      | (split; rename_i heq; refine (have hx : Kept [.regs, .mem, .poison, .hostMem, .mortar, .errLog, .errOverflow, .ctxs, .regPosted] x1 _ := Kept.of_thd heq ?_; ?_); (on_goal 2 => clear heq))
  | cons x r ih =>
    rw [moveAux]
    repeat' first
      | with_reducible exact Kept.refl _ _
      | with_reducible assumption
      | (with_reducible apply Kept.trans; (on_goal 2 => with_reducible apply ih))
      | intro (_h : Kept _ _ _)
      | intro y
      | decide
      | with_reducible apply hf
      | (with_reducible apply Kept.step; (on_goal 2 => first
        | with_reducible apply agentRead_kept
        | with_reducible apply agentWrite_kept))
      | with_reducible apply Kept.ite
      | with_reducible apply Kept.ite₂
      | (split; rename_i heq; refine (have hx : Kept [.regs, .mem, .poison, .hostMem, .mortar, .errLog, .errOverflow, .ctxs, .regPosted] x1 _ := Kept.of_snd heq ?_; ?_); (on_goal 2 => clear heq))
      | (split; rename_i heq; refine (have hx : Kept [.regs, .mem, .poison, .hostMem, .mortar, .errLog, .errOverflow, .ctxs, .regPosted] x1 _ := Kept.of_thd heq ?_; ?_); (on_goal 2 => clear heq))

theorem agentMove_kept (s : State) (ctx : ℕ) (src : ℕ) (dst : ℕ) (len : ℕ) (e : optParam ℕ (unitEnd 8)) :
    Kept [.regs, .mem, .poison, .hostMem, .mortar, .errLog, .errOverflow, .ctxs, .regPosted] s (agentMove s ctx src dst len e).2 := by
  unfold agentMove
  repeat' first
    | with_reducible exact Kept.refl _ _
    | with_reducible assumption
    | intro (_h : Kept _ _ _)
    | intro y
    | decide
    | with_reducible apply hf
    | (with_reducible apply Kept.step; (on_goal 2 => with_reducible apply moveAux_kept))
    | (split; rename_i heq; refine (have hx : Kept [.regs, .mem, .poison, .hostMem, .mortar, .errLog, .errOverflow, .ctxs, .regPosted] s _ := Kept.of_snd heq ?_; ?_); (on_goal 2 => clear heq))
    | (split; rename_i heq; refine (have hx : Kept [.regs, .mem, .poison, .hostMem, .mortar, .errLog, .errOverflow, .ctxs, .regPosted] s _ := Kept.of_thd heq ?_; ?_); (on_goal 2 => clear heq))

end Sys2Proof.Machine
end

