-- ==== Sys2Proof/Laws/FrameRecords.lean ====
section
/-! SUPPORT. Frames of the operations of Machine/Records.lean. -/

namespace Sys2Proof.Machine

theorem raiseVector_kept (s : State) (fn : ℕ) (v : ℕ) :
    Kept [.msix, .msixSent] s (raiseVector s fn v) := by
  unfold raiseVector
  repeat' first
    | with_reducible exact Kept.refl _ _
    | with_reducible assumption
    | intro (_h : Kept _ _ _)
    | ((try lift_lets); intro x; clear_value x)
    | intro y
    | decide
    | with_reducible apply hf
    | with_reducible apply Kept.ite
    | with_reducible apply Kept.ite₂
    | with_reducible apply Kept.ite₃
    | with_reducible apply Kept.iteW
    | with_reducible apply Kept.foldl
    | with_reducible apply Kept.foldl₂
    | with_reducible apply Kept.foldl₃
    | with_reducible refine Kept.of_snd (by assumption) ?_
    | with_reducible refine Kept.of_done (by assumption) ?_
    | with_reducible refine Kept.of_fault (by assumption) ?_
    | with_reducible refine Kept.of_wait (by assumption) ?_
    | with_reducible refine Kept.of_thd (by assumption) ?_
    | split
    | (with_reducible apply Kept.step; (on_goal 2 => first
        | with_reducible apply Kept.set_msix
        | with_reducible apply Kept.set_msixSent))

theorem writeRecord_kept (s : State) (ctx : ℕ) (q : ℕ) (bs : List Byte) (raise : Bool) :
    Kept [.regs, .mem, .poison, .hostMem, .mortar, .errLog, .errOverflow, .ctxs, .msix, .msixSent, .regPosted] s (writeRecord s ctx q bs raise) := by
  unfold writeRecord
  repeat' first
    | with_reducible exact Kept.refl _ _
    | with_reducible assumption
    | intro (_h : Kept _ _ _)
    | ((try lift_lets); intro x; clear_value x)
    | intro y
    | decide
    | with_reducible apply hf
    | (with_reducible apply Kept.step; (on_goal 2 => first
        | with_reducible apply State.setCRing_kept
        | with_reducible apply agentWrite_kept
        | with_reducible apply raiseVector_kept))
    | with_reducible apply Kept.ite
    | (split; rename_i heq; refine (have hx : Kept [.regs, .mem, .poison, .hostMem, .mortar, .errLog, .errOverflow, .ctxs, .msix, .msixSent, .regPosted] s _ := Kept.of_snd heq ?_; ?_); (on_goal 2 => clear heq))
    | (split; rename_i heq; refine (have hx : Kept [.regs, .mem, .poison, .hostMem, .mortar, .errLog, .errOverflow, .ctxs, .msix, .msixSent, .regPosted] s _ := Kept.of_thd heq ?_; ?_); (on_goal 2 => clear heq))

theorem postEvent_kept (s : State) (ctx : ℕ) (q : ℕ) (bs : List Byte) :
    Kept [.regs, .mem, .poison, .hostMem, .mortar, .errLog, .errOverflow, .ctxs, .msix, .msixSent, .regPosted] s (postEvent s ctx q bs) := by
  unfold postEvent
  repeat' first
    | with_reducible exact Kept.refl _ _
    | with_reducible assumption
    | intro (_h : Kept _ _ _)
    | ((try lift_lets); intro x; clear_value x)
    | intro y
    | decide
    | with_reducible apply hf
    | (with_reducible apply Kept.step; (on_goal 2 => first
        | with_reducible apply State.bump_kept
        | with_reducible apply State.orReg_kept
        | with_reducible apply State.setCtx_kept
        | with_reducible apply writeRecord_kept))
    | with_reducible apply Kept.ite
    | (split; rename_i heq; refine (have hx : Kept [.regs, .mem, .poison, .hostMem, .mortar, .errLog, .errOverflow, .ctxs, .msix, .msixSent, .regPosted] s _ := Kept.of_snd heq ?_; ?_); (on_goal 2 => clear heq))
    | (split; rename_i heq; refine (have hx : Kept [.regs, .mem, .poison, .hostMem, .mortar, .errLog, .errOverflow, .ctxs, .msix, .msixSent, .regPosted] s _ := Kept.of_thd heq ?_; ?_); (on_goal 2 => clear heq))

theorem State.modDesc_kept (s : State) (ctx : ℕ) (q : ℕ) (abs : ℕ) (g : Desc → Desc) :
    Kept [.ctxs] s (State.modDesc s ctx q abs g) := by
  unfold State.modDesc
  repeat' first
    | with_reducible exact Kept.refl _ _
    | with_reducible assumption
    | intro (_h : Kept _ _ _)
    | ((try lift_lets); intro x; clear_value x)
    | intro y
    | decide
    | with_reducible apply hf
    | (with_reducible apply Kept.step; (on_goal 2 => with_reducible apply State.setRing_kept))
    | (split; rename_i heq; refine (have hx : Kept [.ctxs] s _ := Kept.of_snd heq ?_; ?_); (on_goal 2 => clear heq))
    | (split; rename_i heq; refine (have hx : Kept [.ctxs] s _ := Kept.of_thd heq ?_; ?_); (on_goal 2 => clear heq))

theorem State.dropDesc_kept (s : State) (ctx : ℕ) (q : ℕ) (abs : ℕ) :
    Kept [.ctxs] s (State.dropDesc s ctx q abs) := by
  unfold State.dropDesc
  repeat' first
    | with_reducible exact Kept.refl _ _
    | with_reducible assumption
    | intro (_h : Kept _ _ _)
    | ((try lift_lets); intro x; clear_value x)
    | intro y
    | decide
    | with_reducible apply hf
    | (with_reducible apply Kept.step; (on_goal 2 => with_reducible apply State.setRing_kept))
    | (split; rename_i heq; refine (have hx : Kept [.ctxs] s _ := Kept.of_snd heq ?_; ?_); (on_goal 2 => clear heq))
    | (split; rename_i heq; refine (have hx : Kept [.ctxs] s _ := Kept.of_thd heq ?_; ?_); (on_goal 2 => clear heq))

theorem emitDesc_kept (s : State) (ctx : ℕ) (q : ℕ) (d : Desc) :
    Kept [.regs, .mem, .poison, .hostMem, .mortar, .errLog, .errOverflow, .ctxs, .msix, .msixSent, .regPosted] s (emitDesc s ctx q d) := by
  unfold emitDesc
  repeat' first
    | with_reducible exact Kept.refl _ _
    | with_reducible assumption
    | intro (_h : Kept _ _ _)
    | ((try lift_lets); intro x; clear_value x)
    | intro y
    | decide
    | with_reducible apply hf
    | (with_reducible apply Kept.step; (on_goal 2 => first
        | with_reducible apply State.setCtx_kept
        | with_reducible apply writeRecord_kept
        | with_reducible apply State.modDesc_kept
        | with_reducible apply State.dropDesc_kept))
    | with_reducible apply Kept.ite
    | (split; rename_i heq; refine (have hx : Kept [.regs, .mem, .poison, .hostMem, .mortar, .errLog, .errOverflow, .ctxs, .msix, .msixSent, .regPosted] s _ := Kept.of_snd heq ?_; ?_); (on_goal 2 => clear heq))
    | (split; rename_i heq; refine (have hx : Kept [.regs, .mem, .poison, .hostMem, .mortar, .errLog, .errOverflow, .ctxs, .msix, .msixSent, .regPosted] s _ := Kept.of_thd heq ?_; ?_); (on_goal 2 => clear heq))

theorem sweepRing_kept (x0 : ℕ) (x1 : State) (x2 : ℕ) (x3 : ℕ) :
    Kept [.regs, .mem, .poison, .hostMem, .mortar, .errLog, .errOverflow, .ctxs, .msix, .msixSent, .regPosted] x1 (sweepRing x0 x1 x2 x3) := by
  induction x0 generalizing x1 x2 x3 with
  | zero =>
    rw [sweepRing]
    repeat' first
      | with_reducible exact Kept.refl _ _
      | ((try lift_lets); intro x; refine (have hx : Kept [.regs, .mem, .poison, .hostMem, .mortar, .errLog, .errOverflow, .ctxs, .msix, .msixSent, .regPosted] x1 x := ?_; ?_); (on_goal 1 => subst x); (on_goal 2 => clear_value x))
      | ((try lift_lets); intro x; refine (have hx : Kept [.regs, .mem, .poison, .hostMem, .mortar, .errLog, .errOverflow, .ctxs, .msix, .msixSent, .regPosted] x1 x.2 := ?_; ?_); (on_goal 1 => subst x); (on_goal 2 => clear_value x))
      | ((try lift_lets); intro x; refine (have hx : Kept [.regs, .mem, .poison, .hostMem, .mortar, .errLog, .errOverflow, .ctxs, .msix, .msixSent, .regPosted] x1 x.2.2 := ?_; ?_); (on_goal 1 => subst x); (on_goal 2 => clear_value x))
      | ((try lift_lets); intro x; refine (have hf : ∀ y : State, Kept [.regs, .mem, .poison, .hostMem, .mortar, .errLog, .errOverflow, .ctxs, .msix, .msixSent, .regPosted] x1 y → Kept [.regs, .mem, .poison, .hostMem, .mortar, .errLog, .errOverflow, .ctxs, .msix, .msixSent, .regPosted] x1 (x y) := ?_; ?_); (on_goal 1 => subst x); (on_goal 2 => clear_value x))
      | ((try lift_lets); intro x; refine (have hf : ∀ (y : State) a, Kept [.regs, .mem, .poison, .hostMem, .mortar, .errLog, .errOverflow, .ctxs, .msix, .msixSent, .regPosted] x1 y → Kept [.regs, .mem, .poison, .hostMem, .mortar, .errLog, .errOverflow, .ctxs, .msix, .msixSent, .regPosted] x1 (x y a) := ?_; ?_); (on_goal 1 => subst x); (on_goal 2 => clear_value x))
      | ((try lift_lets); intro x; clear_value x)
      | (with_reducible apply Kept.step; (on_goal 2 => with_reducible apply emitDesc_kept))
      | (split; rename_i heq; refine (have hx : Kept [.regs, .mem, .poison, .hostMem, .mortar, .errLog, .errOverflow, .ctxs, .msix, .msixSent, .regPosted] x1 _ := Kept.of_snd heq ?_; ?_); (on_goal 2 => clear heq))
      | (split; rename_i heq; refine (have hx : Kept [.regs, .mem, .poison, .hostMem, .mortar, .errLog, .errOverflow, .ctxs, .msix, .msixSent, .regPosted] x1 _ := Kept.of_thd heq ?_; ?_); (on_goal 2 => clear heq))
  | succ n ih =>
    rw [sweepRing]
    repeat' first
      | with_reducible exact Kept.refl _ _
      | with_reducible assumption
      | (with_reducible apply Kept.trans; (on_goal 2 => with_reducible apply ih))
      | intro (_h : Kept _ _ _)
      | ((try lift_lets); intro x; refine (have hx : Kept [.regs, .mem, .poison, .hostMem, .mortar, .errLog, .errOverflow, .ctxs, .msix, .msixSent, .regPosted] x1 x := ?_; ?_); (on_goal 1 => subst x); (on_goal 2 => clear_value x))
      | intro y
      | decide
      | with_reducible apply hf
      | (with_reducible apply Kept.step; (on_goal 2 => with_reducible apply emitDesc_kept))
      | with_reducible apply Kept.ite
      | with_reducible apply Kept.ite₂
      | with_reducible apply Kept.ite₃
      | with_reducible apply Kept.iteW
      | with_reducible apply Kept.foldl
      | with_reducible apply Kept.foldl₂
      | with_reducible apply Kept.foldl₃
      | with_reducible refine Kept.of_snd (by assumption) ?_
      | with_reducible refine Kept.of_done (by assumption) ?_
      | with_reducible refine Kept.of_fault (by assumption) ?_
      | with_reducible refine Kept.of_wait (by assumption) ?_
      | with_reducible refine Kept.of_thd (by assumption) ?_
      | split

theorem finishDesc_kept (s : State) (ctx : ℕ) (q : ℕ) (abs : ℕ) (status : ℕ) (detail : ℕ) :
    Kept [.regs, .mem, .poison, .hostMem, .mortar, .errLog, .errOverflow, .ctxs, .msix, .msixSent, .regPosted] s (finishDesc s ctx q abs status detail) := by
  unfold finishDesc
  repeat' first
    | with_reducible exact Kept.refl _ _
    | with_reducible assumption
    | intro (_h : Kept _ _ _)
    | ((try lift_lets); intro x; refine (have hx : Kept [.regs, .mem, .poison, .hostMem, .mortar, .errLog, .errOverflow, .ctxs, .msix, .msixSent, .regPosted] s x := ?_; ?_); (on_goal 1 => subst x); (on_goal 2 => clear_value x))
    | intro y
    | decide
    | with_reducible apply hf
    | (with_reducible apply Kept.step; (on_goal 2 => first
        | with_reducible apply State.modDesc_kept
        | with_reducible apply sweepRing_kept))
    | (split; rename_i heq; refine (have hx : Kept [.regs, .mem, .poison, .hostMem, .mortar, .errLog, .errOverflow, .ctxs, .msix, .msixSent, .regPosted] s _ := Kept.of_snd heq ?_; ?_); (on_goal 2 => clear heq))
    | (split; rename_i heq; refine (have hx : Kept [.regs, .mem, .poison, .hostMem, .mortar, .errLog, .errOverflow, .ctxs, .msix, .msixSent, .regPosted] s _ := Kept.of_thd heq ?_; ?_); (on_goal 2 => clear heq))

theorem State.startDesc_kept (s : State) (ctx : ℕ) (q : ℕ) (abs : ℕ) :
    Kept [.ctxs] s (State.startDesc s ctx q abs) := by
  unfold State.startDesc
  repeat' first
    | with_reducible exact Kept.refl _ _
    | with_reducible assumption
    | intro (_h : Kept _ _ _)
    | intro y
    | decide
    | with_reducible apply hf
    | (with_reducible apply Kept.step; (on_goal 2 => with_reducible apply State.modDesc_kept))
    | (split; rename_i heq; refine (have hx : Kept [.ctxs] s _ := Kept.of_snd heq ?_; ?_); (on_goal 2 => clear heq))
    | (split; rename_i heq; refine (have hx : Kept [.ctxs] s _ := Kept.of_thd heq ?_; ?_); (on_goal 2 => clear heq))

theorem sweepCtx_kept (s : State) (ctx : ℕ) :
    Kept [.regs, .mem, .poison, .hostMem, .mortar, .errLog, .errOverflow, .ctxs, .msix, .msixSent, .regPosted] s (sweepCtx s ctx) := by
  unfold sweepCtx
  repeat' first
    | with_reducible exact Kept.refl _ _
    | with_reducible assumption
    | intro (_h : Kept _ _ _)
    | intro y
    | decide
    | with_reducible apply hf
    | (with_reducible apply Kept.step; (on_goal 2 => with_reducible apply sweepRing_kept))
    | with_reducible apply Kept.ite
    | with_reducible apply Kept.ite₂
    | with_reducible apply Kept.ite₃
    | with_reducible apply Kept.iteW
    | with_reducible apply Kept.foldl
    | (split; rename_i heq; refine (have hx : Kept [.regs, .mem, .poison, .hostMem, .mortar, .errLog, .errOverflow, .ctxs, .msix, .msixSent, .regPosted] s _ := Kept.of_snd heq ?_; ?_); (on_goal 2 => clear heq))
    | (split; rename_i heq; refine (have hx : Kept [.regs, .mem, .poison, .hostMem, .mortar, .errLog, .errOverflow, .ctxs, .msix, .msixSent, .regPosted] s _ := Kept.of_thd heq ?_; ?_); (on_goal 2 => clear heq))

theorem writeHeld_kept (s : State) (ctx : ℕ) :
    Kept [.regs, .mem, .poison, .hostMem, .mortar, .errLog, .errOverflow, .ctxs, .msix, .msixSent, .regPosted] s (writeHeld s ctx) := by
  unfold writeHeld
  repeat' first
    | with_reducible exact Kept.refl _ _
    | with_reducible assumption
    | intro (_h : Kept _ _ _)
    | ((try lift_lets); intro x; refine (have hx : Kept [.regs, .mem, .poison, .hostMem, .mortar, .errLog, .errOverflow, .ctxs, .msix, .msixSent, .regPosted] s x := ?_; ?_); (on_goal 1 => subst x); (on_goal 2 => clear_value x))
    | ((try lift_lets); intro x; clear_value x)
    | intro y
    | decide
    | with_reducible apply hf
    | (with_reducible apply Kept.step; (on_goal 2 => first
        | with_reducible apply State.setCtx_kept
        | with_reducible apply writeRecord_kept
        | with_reducible apply State.dropDesc_kept
        | with_reducible apply sweepCtx_kept))
    | with_reducible apply Kept.ite
    | with_reducible apply Kept.ite₂
    | with_reducible apply Kept.ite₃
    | with_reducible apply Kept.iteW
    | with_reducible apply Kept.foldl
    | with_reducible apply Kept.foldl₂
    | with_reducible apply Kept.foldl₃
    | with_reducible refine Kept.of_snd (by assumption) ?_
    | with_reducible refine Kept.of_done (by assumption) ?_
    | with_reducible refine Kept.of_fault (by assumption) ?_
    | with_reducible refine Kept.of_wait (by assumption) ?_
    | with_reducible refine Kept.of_thd (by assumption) ?_
    | split

end Sys2Proof.Machine
end

