-- ==== Sys2Proof/Laws/FrameAdmission.lean ====
section
/-! SUPPORT. Frames of the operations of Machine/Admission.lean. -/

namespace Sys2Proof.Machine

theorem State.endQueues_kept (s : State) (p : ℕ × ℕ × ℕ → Bool) :
    Kept [.time] s (State.endQueues s p) := by
  unfold State.endQueues
  repeat' first
    | with_reducible exact Kept.refl _ _
    | with_reducible assumption
    | intro (_h : Kept _ _ _)
    | ((try lift_lets); intro x; clear_value x)
    | intro y
    | decide
    | with_reducible apply hf
    | with_reducible apply Kept.ite
    | with_reducible apply Kept.ite₂
    | with_reducible apply Kept.ite₃
    | with_reducible apply Kept.iteW
    | with_reducible apply Kept.foldl
    | with_reducible apply Kept.foldl₂
    | with_reducible apply Kept.foldl₃
    | with_reducible refine Kept.of_snd (by assumption) ?_
    | with_reducible refine Kept.of_done (by assumption) ?_
    | with_reducible refine Kept.of_fault (by assumption) ?_
    | with_reducible refine Kept.of_wait (by assumption) ?_
    | with_reducible refine Kept.of_thd (by assumption) ?_
    | split
    | (with_reducible apply Kept.step; (on_goal 2 => with_reducible apply Kept.set_time))

theorem State.enter_kept (s : State) (r : TReq) :
    Kept [.time] s (State.enter s r) := by
  unfold State.enter
  repeat' first
    | with_reducible exact Kept.refl _ _
    | with_reducible assumption
    | intro (_h : Kept _ _ _)
    | ((try lift_lets); intro x; clear_value x)
    | intro y
    | decide
    | with_reducible apply hf
    | with_reducible apply Kept.ite
    | with_reducible apply Kept.ite₂
    | with_reducible apply Kept.ite₃
    | with_reducible apply Kept.iteW
    | with_reducible apply Kept.foldl
    | with_reducible apply Kept.foldl₂
    | with_reducible apply Kept.foldl₃
    | with_reducible refine Kept.of_snd (by assumption) ?_
    | with_reducible refine Kept.of_done (by assumption) ?_
    | with_reducible refine Kept.of_fault (by assumption) ?_
    | with_reducible refine Kept.of_wait (by assumption) ?_
    | with_reducible refine Kept.of_thd (by assumption) ?_
    | split
    | (with_reducible apply Kept.step; (on_goal 2 => with_reducible apply Kept.set_time))

theorem State.refuse_kept (s : State) :
    Kept [.regs] s (State.refuse s) := by
  unfold State.refuse
  repeat' first
    | with_reducible exact Kept.refl _ _
    | with_reducible assumption
    | intro (_h : Kept _ _ _)
    | intro y
    | decide
    | with_reducible apply hf
    | (with_reducible apply Kept.step; (on_goal 2 => with_reducible apply State.bump_kept))
    | (split; rename_i heq; refine (have hx : Kept [.regs] s _ := Kept.of_snd heq ?_; ?_); (on_goal 2 => clear heq))
    | (split; rename_i heq; refine (have hx : Kept [.regs] s _ := Kept.of_thd heq ?_; ?_); (on_goal 2 => clear heq))

theorem admitReq_kept (s : State) (r : TReq) :
    Kept [.nextId, .regs, .time] s (admitReq s r).2 := by
  unfold admitReq
  repeat' first
    | with_reducible exact Kept.refl _ _
    | with_reducible assumption
    | intro (_h : Kept _ _ _)
    | intro y
    | decide
    | with_reducible apply hf
    | (with_reducible apply Kept.step; (on_goal 2 => first
        | with_reducible apply State.fresh_kept
        | with_reducible apply State.enter_kept
        | with_reducible apply State.refuse_kept))
    | with_reducible apply Kept.ite
    | with_reducible apply Kept.ite₂
    | (split; rename_i heq; refine (have hx : Kept [.nextId, .regs, .time] s _ := Kept.of_snd heq ?_; ?_); (on_goal 2 => clear heq))
    | (split; rename_i heq; refine (have hx : Kept [.nextId, .regs, .time] s _ := Kept.of_thd heq ?_; ?_); (on_goal 2 => clear heq))

theorem State.deliver_kept (s : State) (id : ℕ) :
    Kept [.time] s (State.deliver s id) := by
  unfold State.deliver
  repeat' first
    | with_reducible exact Kept.refl _ _
    | with_reducible assumption
    | intro (_h : Kept _ _ _)
    | ((try lift_lets); intro x; clear_value x)
    | intro y
    | decide
    | with_reducible apply hf
    | with_reducible apply Kept.ite
    | with_reducible apply Kept.ite₂
    | with_reducible apply Kept.ite₃
    | with_reducible apply Kept.iteW
    | with_reducible apply Kept.foldl
    | with_reducible apply Kept.foldl₂
    | with_reducible apply Kept.foldl₃
    | with_reducible refine Kept.of_snd (by assumption) ?_
    | with_reducible refine Kept.of_done (by assumption) ?_
    | with_reducible refine Kept.of_fault (by assumption) ?_
    | with_reducible refine Kept.of_wait (by assumption) ?_
    | with_reducible refine Kept.of_thd (by assumption) ?_
    | split
    | (with_reducible apply Kept.step; (on_goal 2 => with_reducible apply Kept.set_time))

theorem State.progress_kept (s : State) (id : ℕ) (res : ℕ) (n : ℕ) :
    Kept [.time] s (State.progress s id res n) := by
  unfold State.progress
  repeat' first
    | with_reducible exact Kept.refl _ _
    | with_reducible assumption
    | intro (_h : Kept _ _ _)
    | ((try lift_lets); intro x; clear_value x)
    | intro y
    | decide
    | with_reducible apply hf
    | with_reducible apply Kept.ite
    | with_reducible apply Kept.ite₂
    | with_reducible apply Kept.ite₃
    | with_reducible apply Kept.iteW
    | with_reducible apply Kept.foldl
    | with_reducible apply Kept.foldl₂
    | with_reducible apply Kept.foldl₃
    | with_reducible refine Kept.of_snd (by assumption) ?_
    | with_reducible refine Kept.of_done (by assumption) ?_
    | with_reducible refine Kept.of_fault (by assumption) ?_
    | with_reducible refine Kept.of_wait (by assumption) ?_
    | with_reducible refine Kept.of_thd (by assumption) ?_
    | split
    | (with_reducible apply Kept.step; (on_goal 2 => with_reducible apply Kept.set_time))

theorem breakReq_kept (s : State) (id : ℕ) (cause : ℕ) (stage : ℕ) (res : ℕ) :
    Kept [.regs, .mem, .poison, .hostMem, .time, .mortar, .errLog, .errOverflow, .ctxs, .msix, .msixSent, .regPosted] s (breakReq s id cause stage res) := by
  unfold breakReq
  repeat' first
    | with_reducible exact Kept.refl _ _
    | with_reducible assumption
    | intro (_h : Kept _ _ _)
    | ((try lift_lets); intro x; refine (have hx : Kept [.regs, .mem, .poison, .hostMem, .time, .mortar, .errLog, .errOverflow, .ctxs, .msix, .msixSent, .regPosted] s x := ?_; ?_); (on_goal 1 => subst x); (on_goal 2 => clear_value x))
    | ((try lift_lets); intro x; clear_value x)
    | intro y
    | decide
    | with_reducible apply hf
    | (with_reducible apply Kept.step; (on_goal 2 => first
        | with_reducible apply State.bump_kept
        | with_reducible apply postEvent_kept))
    | with_reducible apply Kept.ite
    | with_reducible apply Kept.ite₂
    | with_reducible apply Kept.ite₃
    | with_reducible apply Kept.iteW
    | with_reducible apply Kept.foldl
    | with_reducible apply Kept.foldl₂
    | with_reducible apply Kept.foldl₃
    | with_reducible refine Kept.of_snd (by assumption) ?_
    | with_reducible refine Kept.of_done (by assumption) ?_
    | with_reducible refine Kept.of_fault (by assumption) ?_
    | with_reducible refine Kept.of_wait (by assumption) ?_
    | with_reducible refine Kept.of_thd (by assumption) ?_
    | split
    | (with_reducible apply Kept.step; (on_goal 2 => with_reducible apply Kept.set_time))

theorem recheck_kept (s : State) (pp : ℕ) (cause : ℕ) (stage : ℕ) (res : ℕ) (shown : ℕ) :
    Kept [.regs, .mem, .poison, .hostMem, .time, .mortar, .errLog, .errOverflow, .ctxs, .msix, .msixSent, .regPosted] s (recheck s pp cause stage res shown) := by
  unfold recheck
  repeat' first
    | with_reducible exact Kept.refl _ _
    | with_reducible assumption
    | intro (_h : Kept _ _ _)
    | intro y
    | decide
    | with_reducible apply hf
    | (with_reducible apply Kept.step; (on_goal 2 => with_reducible apply breakReq_kept))
    | with_reducible apply Kept.ite
    | with_reducible apply Kept.ite₂
    | with_reducible apply Kept.ite₃
    | with_reducible apply Kept.iteW
    | with_reducible apply Kept.foldl
    | (split; rename_i heq; refine (have hx : Kept [.regs, .mem, .poison, .hostMem, .time, .mortar, .errLog, .errOverflow, .ctxs, .msix, .msixSent, .regPosted] s _ := Kept.of_snd heq ?_; ?_); (on_goal 2 => clear heq))
    | (split; rename_i heq; refine (have hx : Kept [.regs, .mem, .poison, .hostMem, .time, .mortar, .errLog, .errOverflow, .ctxs, .msix, .msixSent, .regPosted] s _ := Kept.of_thd heq ?_; ?_); (on_goal 2 => clear heq))

theorem recheckAll_kept (s : State) (pp : ℕ) (stage : ℕ) :
    Kept [.regs, .mem, .poison, .hostMem, .time, .mortar, .errLog, .errOverflow, .ctxs, .msix, .msixSent, .regPosted] s (recheckAll s pp stage) := by
  unfold recheckAll
  repeat' first
    | with_reducible exact Kept.refl _ _
    | with_reducible assumption
    | intro (_h : Kept _ _ _)
    | intro y
    | decide
    | with_reducible apply hf
    | (with_reducible apply Kept.step; (on_goal 2 => with_reducible apply recheck_kept))
    | with_reducible apply Kept.ite
    | with_reducible apply Kept.ite₂
    | with_reducible apply Kept.ite₃
    | with_reducible apply Kept.iteW
    | with_reducible apply Kept.foldl
    | (split; rename_i heq; refine (have hx : Kept [.regs, .mem, .poison, .hostMem, .time, .mortar, .errLog, .errOverflow, .ctxs, .msix, .msixSent, .regPosted] s _ := Kept.of_snd heq ?_; ?_); (on_goal 2 => clear heq))
    | (split; rename_i heq; refine (have hx : Kept [.regs, .mem, .poison, .hostMem, .time, .mortar, .errLog, .errOverflow, .ctxs, .msix, .msixSent, .regPosted] s _ := Kept.of_thd heq ?_; ?_); (on_goal 2 => clear heq))

theorem missRecord_kept (s : State) (ctx : ℕ) (ring : ℕ) (qkind : ℕ) (queue : ℕ) (tag : ℕ) (deadline : ℕ) (who : ℕ) :
    Kept [.regs, .mem, .poison, .hostMem, .mortar, .errLog, .errOverflow, .ctxs, .msix, .msixSent, .regPosted] s (missRecord s ctx ring qkind queue tag deadline who) := by
  unfold missRecord
  repeat' first
    | with_reducible exact Kept.refl _ _
    | with_reducible assumption
    | intro (_h : Kept _ _ _)
    | intro y
    | decide
    | with_reducible apply hf
    | (with_reducible apply Kept.step; (on_goal 2 => first
        | with_reducible apply State.bump_kept
        | with_reducible apply postEvent_kept))
    | (split; rename_i heq; refine (have hx : Kept [.regs, .mem, .poison, .hostMem, .mortar, .errLog, .errOverflow, .ctxs, .msix, .msixSent, .regPosted] s _ := Kept.of_snd heq ?_; ?_); (on_goal 2 => clear heq))
    | (split; rename_i heq; refine (have hx : Kept [.regs, .mem, .poison, .hostMem, .mortar, .errLog, .errOverflow, .ctxs, .msix, .msixSent, .regPosted] s _ := Kept.of_thd heq ?_; ?_); (on_goal 2 => clear heq))

theorem present_kept (s : State) (r : TReq) (demote : Bool) :
    Kept [.nextId, .regs, .time] s (present s r demote).2 := by
  unfold present
  repeat' first
    | with_reducible exact Kept.refl _ _
    | with_reducible assumption
    | intro (_h : Kept _ _ _)
    | intro y
    | decide
    | with_reducible apply hf
    | (with_reducible apply Kept.step; (on_goal 2 => with_reducible apply admitReq_kept))
    | with_reducible apply Kept.ite
    | with_reducible apply Kept.ite₂
    | with_reducible apply Kept.ite₃
    | with_reducible apply Kept.iteW
    | with_reducible apply Kept.foldl
    | with_reducible apply Kept.foldl₂
    | with_reducible apply Kept.foldl₃
    | (split; rename_i heq; refine (have hx : Kept [.nextId, .regs, .time] s _ := Kept.of_snd heq ?_; ?_); (on_goal 2 => clear heq))
    | with_reducible refine Kept.of_snd (by assumption) ?_
    | with_reducible refine Kept.of_done (by assumption) ?_
    | with_reducible refine Kept.of_fault (by assumption) ?_
    | with_reducible refine Kept.of_wait (by assumption) ?_
    | with_reducible refine Kept.of_thd (by assumption) ?_
    | split

end Sys2Proof.Machine
end

