-- ==== Sys2Proof/Laws/FrameFlags.lean ====
section
/-! SUPPORT. Frames of the operations of Machine/Flags.lean. -/

namespace Sys2Proof.Machine

theorem raiseCtx_kept (s : State) (ctx : ℕ) (flags : ℕ) :
    Kept [.regs] s (raiseCtx s ctx flags) := by
  unfold raiseCtx
  repeat' first
    | with_reducible exact Kept.refl _ _
    | with_reducible assumption
    | intro (_h : Kept _ _ _)
    | intro y
    | decide
    | with_reducible apply hf
    | (with_reducible apply Kept.step; (on_goal 2 => with_reducible apply State.orReg_kept))
    | with_reducible apply Kept.ite
    | (split; rename_i heq; refine (have hx : Kept [.regs] s _ := Kept.of_snd heq ?_; ?_); (on_goal 2 => clear heq))
    | (split; rename_i heq; refine (have hx : Kept [.regs] s _ := Kept.of_thd heq ?_; ?_); (on_goal 2 => clear heq))

theorem raiseTile_kept (s : State) (t : ℕ) (ctx : ℕ) (flags : ℕ) :
    Kept [.regs] s (raiseTile s t ctx flags) := by
  unfold raiseTile
  repeat' first
    | with_reducible exact Kept.refl _ _
    | with_reducible assumption
    | intro (_h : Kept _ _ _)
    | intro y
    | decide
    | with_reducible apply hf
    | (with_reducible apply Kept.step; (on_goal 2 => first
        | with_reducible apply State.orReg_kept
        | with_reducible apply raiseCtx_kept))
    | with_reducible apply Kept.ite
    | (split; rename_i heq; refine (have hx : Kept [.regs] s _ := Kept.of_snd heq ?_; ?_); (on_goal 2 => clear heq))
    | (split; rename_i heq; refine (have hx : Kept [.regs] s _ := Kept.of_thd heq ?_; ?_); (on_goal 2 => clear heq))

end Sys2Proof.Machine
end

