-- ==== Sys2Proof/Laws/FrameLinks.lean ====
section
/-! SUPPORT. Frames of the operations of Machine/Links.lean. -/

namespace Sys2Proof.Machine

theorem State.setRoute_kept (s : State) (e : ℕ) (w : ℕ) :
    Kept [.links] s (State.setRoute s e w) := by
  unfold State.setRoute
  repeat' first
    | with_reducible exact Kept.refl _ _
    | with_reducible assumption
    | intro (_h : Kept _ _ _)
    | ((try lift_lets); intro x; clear_value x)
    | intro y
    | decide
    | with_reducible apply hf
    | with_reducible apply Kept.ite
    | with_reducible apply Kept.ite₂
    | with_reducible apply Kept.ite₃
    | with_reducible apply Kept.iteW
    | with_reducible apply Kept.foldl
    | with_reducible apply Kept.foldl₂
    | with_reducible apply Kept.foldl₃
    | with_reducible refine Kept.of_snd (by assumption) ?_
    | with_reducible refine Kept.of_done (by assumption) ?_
    | with_reducible refine Kept.of_fault (by assumption) ?_
    | with_reducible refine Kept.of_wait (by assumption) ?_
    | with_reducible refine Kept.of_thd (by assumption) ?_
    | split
    | (with_reducible apply Kept.step; (on_goal 2 => with_reducible apply Kept.set_links))

theorem State.markDown_kept (s : State) (e : ℕ) :
    Kept [.links] s (State.markDown s e) := by
  unfold State.markDown
  repeat' first
    | with_reducible exact Kept.refl _ _
    | with_reducible assumption
    | intro (_h : Kept _ _ _)
    | intro y
    | decide
    | with_reducible apply hf
    | (with_reducible apply Kept.step; (on_goal 2 => with_reducible apply State.setRoute_kept))
    | (split; rename_i heq; refine (have hx : Kept [.links] s _ := Kept.of_snd heq ?_; ?_); (on_goal 2 => clear heq))
    | (split; rename_i heq; refine (have hx : Kept [.links] s _ := Kept.of_thd heq ?_; ?_); (on_goal 2 => clear heq))

theorem State.queueMsg_kept (s : State) (p : ℕ) (m : TxMsg) :
    Kept [.links] s (State.queueMsg s p m) := by
  unfold State.queueMsg
  repeat' first
    | with_reducible exact Kept.refl _ _
    | with_reducible assumption
    | intro (_h : Kept _ _ _)
    | ((try lift_lets); intro x; clear_value x)
    | intro y
    | decide
    | with_reducible apply hf
    | (with_reducible apply Kept.step; (on_goal 2 => with_reducible apply State.setPort_kept))
    | (split; rename_i heq; refine (have hx : Kept [.links] s _ := Kept.of_snd heq ?_; ?_); (on_goal 2 => clear heq))
    | (split; rename_i heq; refine (have hx : Kept [.links] s _ := Kept.of_thd heq ?_; ?_); (on_goal 2 => clear heq))

theorem sendOn_kept (s : State) (e : ℕ) (cls : ℕ) (bs : List Byte) (ctx : ℕ) (tag : ℕ) :
    Kept [.links] s (sendOn s e cls bs ctx tag).2 := by
  unfold sendOn
  repeat' first
    | with_reducible exact Kept.refl _ _
    | with_reducible assumption
    | intro (_h : Kept _ _ _)
    | ((try lift_lets); intro x; clear_value x)
    | intro y
    | decide
    | with_reducible apply hf
    | (with_reducible apply Kept.step; (on_goal 2 => with_reducible apply State.queueMsg_kept))
    | with_reducible apply Kept.ite
    | with_reducible apply Kept.ite₂
    | (split; rename_i heq; refine (have hx : Kept [.links] s _ := Kept.of_snd heq ?_; ?_); (on_goal 2 => clear heq))
    | (split; rename_i heq; refine (have hx : Kept [.links] s _ := Kept.of_thd heq ?_; ?_); (on_goal 2 => clear heq))

theorem sendBack_kept (s : State) (m : RxMsg) (bs : List Byte) :
    Kept [.links] s (sendBack s m bs) := by
  unfold sendBack
  repeat' first
    | with_reducible exact Kept.refl _ _
    | with_reducible assumption
    | intro (_h : Kept _ _ _)
    | ((try lift_lets); intro x; clear_value x)
    | intro y
    | decide
    | with_reducible apply hf
    | (with_reducible apply Kept.step; (on_goal 2 => with_reducible apply State.queueMsg_kept))
    | with_reducible apply Kept.ite
    | (split; rename_i heq; refine (have hx : Kept [.links] s _ := Kept.of_snd heq ?_; ?_); (on_goal 2 => clear heq))
    | (split; rename_i heq; refine (have hx : Kept [.links] s _ := Kept.of_thd heq ?_; ?_); (on_goal 2 => clear heq))

theorem noticeFor_kept (s : State) (m : RxMsg) (status : ℕ) :
    Kept [.links] s (noticeFor s m status) := by
  unfold noticeFor
  repeat' first
    | with_reducible exact Kept.refl _ _
    | with_reducible assumption
    | intro (_h : Kept _ _ _)
    | intro y
    | decide
    | with_reducible apply hf
    | (with_reducible apply Kept.step; (on_goal 2 => with_reducible apply sendBack_kept))
    | (split; rename_i heq; refine (have hx : Kept [.links] s _ := Kept.of_snd heq ?_; ?_); (on_goal 2 => clear heq))
    | (split; rename_i heq; refine (have hx : Kept [.links] s _ := Kept.of_thd heq ?_; ?_); (on_goal 2 => clear heq))

theorem State.consume_kept (s : State) (port : ℕ) (m : RxMsg) :
    Kept [.links] s (State.consume s port m) := by
  unfold State.consume
  repeat' first
    | with_reducible exact Kept.refl _ _
    | with_reducible assumption
    | intro (_h : Kept _ _ _)
    | ((try lift_lets); intro x; clear_value x)
    | intro y
    | decide
    | with_reducible apply hf
    | (with_reducible apply Kept.step; (on_goal 2 => with_reducible apply State.setPort_kept))
    | (split; rename_i heq; refine (have hx : Kept [.links] s _ := Kept.of_snd heq ?_; ?_); (on_goal 2 => clear heq))
    | (split; rename_i heq; refine (have hx : Kept [.links] s _ := Kept.of_thd heq ?_; ?_); (on_goal 2 => clear heq))

end Sys2Proof.Machine
end

