-- ==== Sys2Proof/Laws/FrameContLap.lean ====
section
/-! SUPPORT. Frames of the operations of Machine/ContLap.lean. -/

namespace Sys2Proof.Machine

theorem State.setStepPoison_kept (s : State) (ctx : ℕ) (p : ℕ) (b : Bool) :
    Kept [.ctxs] s (State.setStepPoison s ctx p b) := by
  unfold State.setStepPoison
  repeat' first
    | with_reducible exact Kept.refl _ _
    | with_reducible assumption
    | intro (_h : Kept _ _ _)
    | ((try lift_lets); intro x; clear_value x)
    | intro y
    | decide
    | with_reducible apply hf
    | (with_reducible apply Kept.step; (on_goal 2 => with_reducible apply State.setCtx_kept))
    | (split; rename_i heq; refine (have hx : Kept [.ctxs] s _ := Kept.of_snd heq ?_; ?_); (on_goal 2 => clear heq))
    | (split; rename_i heq; refine (have hx : Kept [.ctxs] s _ := Kept.of_thd heq ?_; ?_); (on_goal 2 => clear heq))

theorem State.setJointValue_kept (s : State) (j : ℕ) (v : ℕ) (cause : Option ℕ) :
    Kept [.joints] s (State.setJointValue s j v cause) := by
  unfold State.setJointValue
  repeat' first
    | with_reducible exact Kept.refl _ _
    | with_reducible assumption
    | intro (_h : Kept _ _ _)
    | ((try lift_lets); intro x; clear_value x)
    | intro y
    | decide
    | with_reducible apply hf
    | (with_reducible apply Kept.step; (on_goal 2 => with_reducible apply State.setJoint_kept))
    | (split; rename_i heq; refine (have hx : Kept [.joints] s _ := Kept.of_snd heq ?_; ?_); (on_goal 2 => clear heq))
    | (split; rename_i heq; refine (have hx : Kept [.joints] s _ := Kept.of_thd heq ?_; ?_); (on_goal 2 => clear heq))

theorem rawAdd_kept (s : State) (j : ℕ) (n : ℕ) (cause : ℕ) :
    Kept [.joints] s (rawAdd s j n cause) := by
  unfold rawAdd
  repeat' first
    | with_reducible exact Kept.refl _ _
    | with_reducible assumption
    | intro (_h : Kept _ _ _)
    | intro y
    | decide
    | with_reducible apply hf
    | (with_reducible apply Kept.step; (on_goal 2 => with_reducible apply State.setJointValue_kept))
    | (split; rename_i heq; refine (have hx : Kept [.joints] s _ := Kept.of_snd heq ?_; ?_); (on_goal 2 => clear heq))
    | (split; rename_i heq; refine (have hx : Kept [.joints] s _ := Kept.of_thd heq ?_; ?_); (on_goal 2 => clear heq))

theorem rawAddFor_kept (s : State) (ctx : ℕ) (j : ℕ) (n : ℕ) (cause : ℕ) :
    Kept [.regs, .joints] s (rawAddFor s ctx j n cause) := by
  unfold rawAddFor
  repeat' first
    | with_reducible exact Kept.refl _ _
    | with_reducible assumption
    | intro (_h : Kept _ _ _)
    | intro y
    | decide
    | with_reducible apply hf
    | (with_reducible apply Kept.step; (on_goal 2 => first
        | with_reducible apply State.bump_kept
        | with_reducible apply rawAdd_kept))
    | with_reducible apply Kept.ite
    | (split; rename_i heq; refine (have hx : Kept [.regs, .joints] s _ := Kept.of_snd heq ?_; ?_); (on_goal 2 => clear heq))
    | (split; rename_i heq; refine (have hx : Kept [.regs, .joints] s _ := Kept.of_thd heq ?_; ?_); (on_goal 2 => clear heq))

theorem sendLap_kept (s : State) (ctx : ℕ) (g : ℕ) (origin : ℕ) (bit : Bool) (step : ℕ) :
    Kept [.links] s (sendLap s ctx g origin bit step) := by
  unfold sendLap
  repeat' first
    | with_reducible exact Kept.refl _ _
    | with_reducible assumption
    | intro (_h : Kept _ _ _)
    | ((try lift_lets); intro x; clear_value x)
    | intro y
    | decide
    | with_reducible apply hf
    | (with_reducible apply Kept.step; (on_goal 2 => with_reducible apply sendOn_kept))
    | with_reducible apply Kept.ite
    | (split; rename_i heq; refine (have hx : Kept [.links] s _ := Kept.of_snd heq ?_; ?_); (on_goal 2 => clear heq))
    | (split; rename_i heq; refine (have hx : Kept [.links] s _ := Kept.of_thd heq ?_; ?_); (on_goal 2 => clear heq))

theorem startLap_kept (s : State) (ctx : ℕ) :
    Kept [.links, .conts] s (startLap s ctx) := by
  unfold startLap
  repeat' first
    | with_reducible exact Kept.refl _ _
    | with_reducible assumption
    | intro (_h : Kept _ _ _)
    | ((try lift_lets); intro x; clear_value x)
    | intro y
    | decide
    | with_reducible apply hf
    | (with_reducible apply Kept.step; (on_goal 2 => first
        | with_reducible apply State.setCont_kept
        | with_reducible apply sendLap_kept))
    | with_reducible apply Kept.ite
    | with_reducible apply Kept.ite₂
    | with_reducible apply Kept.ite₃
    | with_reducible apply Kept.iteW
    | with_reducible apply Kept.foldl
    | with_reducible apply Kept.foldl₂
    | with_reducible apply Kept.foldl₃
    | with_reducible refine Kept.of_snd (by assumption) ?_
    | with_reducible refine Kept.of_done (by assumption) ?_
    | with_reducible refine Kept.of_fault (by assumption) ?_
    | with_reducible refine Kept.of_wait (by assumption) ?_
    | with_reducible refine Kept.of_thd (by assumption) ?_
    | split

theorem enterPrepared_kept (s : State) (ctx : ℕ) :
    Kept [.joints, .links, .conts] s (enterPrepared s ctx) := by
  unfold enterPrepared
  repeat' first
    | with_reducible exact Kept.refl _ _
    | with_reducible assumption
    | intro (_h : Kept _ _ _)
    | ((try lift_lets); intro x; refine (have hx : Kept [.joints, .links, .conts] s x := ?_; ?_); (on_goal 1 => subst x); (on_goal 2 => clear_value x))
    | ((try lift_lets); intro x; clear_value x)
    | intro y
    | decide
    | with_reducible apply hf
    | (with_reducible apply Kept.step; (on_goal 2 => first
        | with_reducible apply State.setCont_kept
        | with_reducible apply State.setJointValue_kept
        | with_reducible apply startLap_kept))
    | (split; rename_i heq; refine (have hx : Kept [.joints, .links, .conts] s _ := Kept.of_snd heq ?_; ?_); (on_goal 2 => clear heq))
    | (split; rename_i heq; refine (have hx : Kept [.joints, .links, .conts] s _ := Kept.of_thd heq ?_; ?_); (on_goal 2 => clear heq))

theorem commitRecord_kept (s : State) (ctx : ℕ) (result : ℕ) :
    Kept [.regs, .mem, .poison, .hostMem, .mortar, .errLog, .errOverflow, .ctxs, .msix, .msixSent, .regPosted] s (commitRecord s ctx result) := by
  unfold commitRecord
  repeat' first
    | with_reducible exact Kept.refl _ _
    | with_reducible assumption
    | intro (_h : Kept _ _ _)
    | intro y
    | decide
    | with_reducible apply hf
    | (with_reducible apply Kept.step; (on_goal 2 => with_reducible apply postEvent_kept))
    | (split; rename_i heq; refine (have hx : Kept [.regs, .mem, .poison, .hostMem, .mortar, .errLog, .errOverflow, .ctxs, .msix, .msixSent, .regPosted] s _ := Kept.of_snd heq ?_; ?_); (on_goal 2 => clear heq))
    | (split; rename_i heq; refine (have hx : Kept [.regs, .mem, .poison, .hostMem, .mortar, .errLog, .errOverflow, .ctxs, .msix, .msixSent, .regPosted] s _ := Kept.of_thd heq ?_; ?_); (on_goal 2 => clear heq))

theorem leaveGo_kept (s : State) (ctx : ℕ) :
    Kept [.regs, .ctxs, .joints, .conts] s (leaveGo s ctx) := by
  unfold leaveGo
  repeat' first
    | with_reducible exact Kept.refl _ _
    | with_reducible assumption
    | intro (_h : Kept _ _ _)
    | ((try lift_lets); intro x; refine (have hx : Kept [.regs, .ctxs, .joints, .conts] s x := ?_; ?_); (on_goal 1 => subst x); (on_goal 2 => clear_value x))
    | ((try lift_lets); intro x; clear_value x)
    | intro y
    | decide
    | with_reducible apply hf
    | (with_reducible apply Kept.step; (on_goal 2 => first
        | with_reducible apply State.setCont_kept
        | with_reducible apply State.setStepPoison_kept
        | with_reducible apply State.setJointValue_kept
        | with_reducible apply rawAddFor_kept))
    | (split; rename_i heq; refine (have hx : Kept [.regs, .ctxs, .joints, .conts] s _ := Kept.of_snd heq ?_; ?_); (on_goal 2 => clear heq))
    | (split; rename_i heq; refine (have hx : Kept [.regs, .ctxs, .joints, .conts] s _ := Kept.of_thd heq ?_; ?_); (on_goal 2 => clear heq))

theorem contLook_kept (s : State) (ctx : ℕ) :
    Kept [.regs, .ctxs, .joints, .links, .conts] s (contLook s ctx) := by
  unfold contLook
  repeat' first
    | with_reducible exact Kept.refl _ _
    | with_reducible assumption
    | intro (_h : Kept _ _ _)
    | ((try lift_lets); intro x; refine (have hx : Kept [.regs, .ctxs, .joints, .links, .conts] s x := ?_; ?_); (on_goal 1 => subst x); (on_goal 2 => clear_value x))
    | intro y
    | decide
    | with_reducible apply hf
    | (with_reducible apply Kept.step; (on_goal 2 => first
        | with_reducible apply enterPrepared_kept
        | with_reducible apply leaveGo_kept))
    | with_reducible apply Kept.ite
    | (split; rename_i heq; refine (have hx : Kept [.regs, .ctxs, .joints, .links, .conts] s _ := Kept.of_snd heq ?_; ?_); (on_goal 2 => clear heq))
    | (split; rename_i heq; refine (have hx : Kept [.regs, .ctxs, .joints, .links, .conts] s _ := Kept.of_thd heq ?_; ?_); (on_goal 2 => clear heq))

theorem contWatch_kept (s : State) :
    Kept [.regs, .ctxs, .joints, .links, .conts] s (contWatch s) := by
  unfold contWatch
  repeat' first
    | with_reducible exact Kept.refl _ _
    | with_reducible assumption
    | intro (_h : Kept _ _ _)
    | intro y
    | decide
    | with_reducible apply hf
    | (with_reducible apply Kept.step; (on_goal 2 => with_reducible apply contLook_kept))
    | with_reducible apply Kept.ite
    | with_reducible apply Kept.ite₂
    | with_reducible apply Kept.ite₃
    | with_reducible apply Kept.iteW
    | with_reducible apply Kept.foldl
    | (split; rename_i heq; refine (have hx : Kept [.regs, .ctxs, .joints, .links, .conts] s _ := Kept.of_snd heq ?_; ?_); (on_goal 2 => clear heq))
    | (split; rename_i heq; refine (have hx : Kept [.regs, .ctxs, .joints, .links, .conts] s _ := Kept.of_thd heq ?_; ?_); (on_goal 2 => clear heq))

theorem jointAdd_kept (s : State) (j : ℕ) (n : ℕ) (cause : ℕ) :
    Kept [.regs, .ctxs, .joints, .links, .conts] s (jointAdd s j n cause) := by
  unfold jointAdd
  repeat' first
    | with_reducible exact Kept.refl _ _
    | with_reducible assumption
    | intro (_h : Kept _ _ _)
    | intro y
    | decide
    | with_reducible apply hf
    | (with_reducible apply Kept.step; (on_goal 2 => first
        | with_reducible apply rawAdd_kept
        | with_reducible apply contWatch_kept))
    | (split; rename_i heq; refine (have hx : Kept [.regs, .ctxs, .joints, .links, .conts] s _ := Kept.of_snd heq ?_; ?_); (on_goal 2 => clear heq))
    | (split; rename_i heq; refine (have hx : Kept [.regs, .ctxs, .joints, .links, .conts] s _ := Kept.of_thd heq ?_; ?_); (on_goal 2 => clear heq))

theorem jointAddFor_kept (s : State) (ctx : ℕ) (j : ℕ) (n : ℕ) (cause : ℕ) :
    Kept [.regs, .ctxs, .joints, .links, .conts] s (jointAddFor s ctx j n cause) := by
  unfold jointAddFor
  repeat' first
    | with_reducible exact Kept.refl _ _
    | with_reducible assumption
    | intro (_h : Kept _ _ _)
    | intro y
    | decide
    | with_reducible apply hf
    | (with_reducible apply Kept.step; (on_goal 2 => first
        | with_reducible apply rawAddFor_kept
        | with_reducible apply contWatch_kept))
    | (split; rename_i heq; refine (have hx : Kept [.regs, .ctxs, .joints, .links, .conts] s _ := Kept.of_snd heq ?_; ?_); (on_goal 2 => clear heq))
    | (split; rename_i heq; refine (have hx : Kept [.regs, .ctxs, .joints, .links, .conts] s _ := Kept.of_thd heq ?_; ?_); (on_goal 2 => clear heq))

theorem lapResult_kept (s : State) (ctx : ℕ) (bit : Bool) :
    Kept [.regs, .mem, .poison, .hostMem, .mortar, .errLog, .errOverflow, .ctxs, .joints, .links, .conts, .msix, .msixSent, .regPosted] s (lapResult s ctx bit) := by
  unfold lapResult
  repeat' first
    | with_reducible exact Kept.refl _ _
    | with_reducible assumption
    | intro (_h : Kept _ _ _)
    | ((try lift_lets); intro x; refine (have hx : Kept [.regs, .mem, .poison, .hostMem, .mortar, .errLog, .errOverflow, .ctxs, .joints, .links, .conts, .msix, .msixSent, .regPosted] s x := ?_; ?_); (on_goal 1 => subst x); (on_goal 2 => clear_value x))
    | ((try lift_lets); intro x; clear_value x)
    | intro y
    | decide
    | with_reducible apply hf
    | (with_reducible apply Kept.step; (on_goal 2 => first
        | with_reducible apply State.setReg_kept
        | with_reducible apply State.bump_kept
        | with_reducible apply State.setCont_kept
        | with_reducible apply State.setStepPoison_kept
        | with_reducible apply rawAddFor_kept
        | with_reducible apply commitRecord_kept
        | with_reducible apply contWatch_kept))
    | with_reducible apply Kept.ite
    | (split; rename_i heq; refine (have hx : Kept [.regs, .mem, .poison, .hostMem, .mortar, .errLog, .errOverflow, .ctxs, .joints, .links, .conts, .msix, .msixSent, .regPosted] s _ := Kept.of_snd heq ?_; ?_); (on_goal 2 => clear heq))
    | (split; rename_i heq; refine (have hx : Kept [.regs, .mem, .poison, .hostMem, .mortar, .errLog, .errOverflow, .ctxs, .joints, .links, .conts, .msix, .msixSent, .regPosted] s _ := Kept.of_thd heq ?_; ?_); (on_goal 2 => clear heq))

end Sys2Proof.Machine
end

