-- ==== Sys2Proof/Laws/FrameTileCore.lean ====
section
/-! SUPPORT. Frames of the operations of Machine/TileCore.lean. -/

namespace Sys2Proof.Machine

theorem State.modTile_kept (s : State) (t : ℕ) (g : Tile → Tile) :
    Kept [.tiles] s (State.modTile s t g) := by
  unfold State.modTile
  repeat' first
    | with_reducible exact Kept.refl _ _
    | with_reducible assumption
    | intro (_h : Kept _ _ _)
    | intro y
    | decide
    | with_reducible apply hf
    | (with_reducible apply Kept.step; (on_goal 2 => with_reducible apply State.setTile_kept))
    | (split; rename_i heq; refine (have hx : Kept [.tiles] s _ := Kept.of_snd heq ?_; ?_); (on_goal 2 => clear heq))
    | (split; rename_i heq; refine (have hx : Kept [.tiles] s _ := Kept.of_thd heq ?_; ?_); (on_goal 2 => clear heq))

theorem launchEnd_kept (s : State) (id : ℕ) :
    Kept [.regs, .mem, .poison, .hostMem, .mortar, .errLog, .errOverflow, .ctxs, .launches, .joints, .links, .conts, .msix, .msixSent, .regPosted] s (launchEnd s id) := by
  unfold launchEnd
  repeat' first
    | with_reducible exact Kept.refl _ _
    | with_reducible assumption
    | intro (_h : Kept _ _ _)
    | ((try lift_lets); intro x; refine (have hx : Kept [.regs, .mem, .poison, .hostMem, .mortar, .errLog, .errOverflow, .ctxs, .launches, .joints, .links, .conts, .msix, .msixSent, .regPosted] s x := ?_; ?_); (on_goal 1 => subst x); (on_goal 2 => clear_value x))
    | intro y
    | decide
    | with_reducible apply hf
    | (with_reducible apply Kept.step; (on_goal 2 => first
        | with_reducible apply finishDesc_kept
        | with_reducible apply jointAddFor_kept))
    | with_reducible apply Kept.ite
    | with_reducible apply Kept.ite₂
    | with_reducible apply Kept.ite₃
    | with_reducible apply Kept.iteW
    | with_reducible apply Kept.foldl
    | with_reducible apply Kept.foldl₂
    | with_reducible apply Kept.foldl₃
    | with_reducible refine Kept.of_snd (by assumption) ?_
    | with_reducible refine Kept.of_done (by assumption) ?_
    | with_reducible refine Kept.of_fault (by assumption) ?_
    | with_reducible refine Kept.of_wait (by assumption) ?_
    | with_reducible refine Kept.of_thd (by assumption) ?_
    | split
    | (with_reducible apply Kept.step; (on_goal 2 => with_reducible apply Kept.set_launches))

theorem leaveLaunch_kept (s : State) (t : ℕ) (faulted : Bool) :
    Kept [.regs, .mem, .poison, .hostMem, .mortar, .errLog, .errOverflow, .ctxs, .launches, .joints, .links, .conts, .msix, .msixSent, .regPosted] s (leaveLaunch s t faulted) := by
  unfold leaveLaunch
  repeat' first
    | with_reducible exact Kept.refl _ _
    | with_reducible assumption
    | intro (_h : Kept _ _ _)
    | ((try lift_lets); intro x; refine (have hx : Kept [.regs, .mem, .poison, .hostMem, .mortar, .errLog, .errOverflow, .ctxs, .launches, .joints, .links, .conts, .msix, .msixSent, .regPosted] s x := ?_; ?_); (on_goal 1 => subst x); (on_goal 2 => clear_value x))
    | ((try lift_lets); intro x; clear_value x)
    | intro y
    | decide
    | with_reducible apply hf
    | (with_reducible apply Kept.step; (on_goal 2 => with_reducible apply launchEnd_kept))
    | with_reducible apply Kept.ite
    | with_reducible apply Kept.ite₂
    | with_reducible apply Kept.ite₃
    | with_reducible apply Kept.iteW
    | with_reducible apply Kept.foldl
    | with_reducible apply Kept.foldl₂
    | with_reducible apply Kept.foldl₃
    | with_reducible refine Kept.of_snd (by assumption) ?_
    | with_reducible refine Kept.of_done (by assumption) ?_
    | with_reducible refine Kept.of_fault (by assumption) ?_
    | with_reducible refine Kept.of_wait (by assumption) ?_
    | with_reducible refine Kept.of_thd (by assumption) ?_
    | split
    | (with_reducible apply Kept.step; (on_goal 2 => with_reducible apply Kept.set_launches))

theorem dropTileWaits_kept (s : State) (t : ℕ) :
    Kept [.joints] s (dropTileWaits s t) := by
  unfold dropTileWaits
  repeat' first
    | with_reducible exact Kept.refl _ _
    | with_reducible assumption
    | intro (_h : Kept _ _ _)
    | intro y
    | decide
    | with_reducible apply hf
    | with_reducible apply Kept.ite
    | with_reducible apply Kept.ite₂
    | with_reducible apply Kept.ite₃
    | with_reducible apply Kept.iteW
    | with_reducible apply Kept.foldl
    | with_reducible apply Kept.foldl₂
    | with_reducible apply Kept.foldl₃
    | with_reducible refine Kept.of_snd (by assumption) ?_
    | with_reducible refine Kept.of_done (by assumption) ?_
    | with_reducible refine Kept.of_fault (by assumption) ?_
    | with_reducible refine Kept.of_wait (by assumption) ?_
    | with_reducible refine Kept.of_thd (by assumption) ?_
    | split
    | (with_reducible apply Kept.step; (on_goal 2 => with_reducible apply Kept.set_joints))

theorem dropHodReqs_kept (s : State) (t : ℕ) :
    Kept [.time] s (dropHodReqs s t) := by
  unfold dropHodReqs
  repeat' first
    | with_reducible exact Kept.refl _ _
    | with_reducible assumption
    | intro (_h : Kept _ _ _)
    | intro y
    | decide
    | with_reducible apply hf
    | (with_reducible apply Kept.step; (on_goal 2 => with_reducible apply State.deliver_kept))
    | with_reducible apply Kept.ite
    | with_reducible apply Kept.ite₂
    | with_reducible apply Kept.ite₃
    | with_reducible apply Kept.iteW
    | with_reducible apply Kept.foldl
    | with_reducible apply Kept.foldl₂
    | with_reducible apply Kept.foldl₃
    | with_reducible refine Kept.of_snd (by assumption) ?_
    | with_reducible refine Kept.of_done (by assumption) ?_
    | with_reducible refine Kept.of_fault (by assumption) ?_
    | with_reducible refine Kept.of_wait (by assumption) ?_
    | with_reducible refine Kept.of_thd (by assumption) ?_
    | split

theorem dropKvUsers_kept (s : State) (t : ℕ) (halt : Bool) :
    Kept [.kv] s (dropKvUsers s t halt) := by
  unfold dropKvUsers
  repeat' first
    | with_reducible exact Kept.refl _ _
    | with_reducible assumption
    | intro (_h : Kept _ _ _)
    | ((try lift_lets); intro x; clear_value x)
    | intro y
    | decide
    | with_reducible apply hf
    | with_reducible apply Kept.ite
    | with_reducible apply Kept.ite₂
    | with_reducible apply Kept.ite₃
    | with_reducible apply Kept.iteW
    | with_reducible apply Kept.foldl
    | with_reducible apply Kept.foldl₂
    | with_reducible apply Kept.foldl₃
    | with_reducible refine Kept.of_snd (by assumption) ?_
    | with_reducible refine Kept.of_done (by assumption) ?_
    | with_reducible refine Kept.of_fault (by assumption) ?_
    | with_reducible refine Kept.of_wait (by assumption) ?_
    | with_reducible refine Kept.of_thd (by assumption) ?_
    | split
    | (with_reducible apply Kept.step; (on_goal 2 => with_reducible apply Kept.set_kv))

theorem haltUnits_kept (s : State) (t : ℕ) (run : TileRun) (halt : optParam Bool false) :
    Kept [.time, .tiles, .joints, .kv] s (haltUnits s t run halt) := by
  unfold haltUnits
  repeat' first
    | with_reducible exact Kept.refl _ _
    | with_reducible assumption
    | intro (_h : Kept _ _ _)
    | ((try lift_lets); intro x; refine (have hx : Kept [.time, .tiles, .joints, .kv] s x := ?_; ?_); (on_goal 1 => subst x); (on_goal 2 => clear_value x))
    | intro y
    | decide
    | with_reducible apply hf
    | (with_reducible apply Kept.step; (on_goal 2 => first
        | with_reducible apply State.modTile_kept
        | with_reducible apply dropTileWaits_kept
        | with_reducible apply dropHodReqs_kept
        | with_reducible apply dropKvUsers_kept))
    | (split; rename_i heq; refine (have hx : Kept [.time, .tiles, .joints, .kv] s _ := Kept.of_snd heq ?_; ?_); (on_goal 2 => clear heq))
    | (split; rename_i heq; refine (have hx : Kept [.time, .tiles, .joints, .kv] s _ := Kept.of_thd heq ?_; ?_); (on_goal 2 => clear heq))

theorem tileFault_kept (s : State) (t : ℕ) (code : ℕ) (pc : ℕ) :
    Kept [.regs, .mem, .poison, .hostMem, .time, .tiles, .mortar, .errLog, .errOverflow, .ctxs, .launches, .joints, .kv, .links, .conts, .msix, .msixSent, .regPosted] s (tileFault s t code pc) := by
  unfold tileFault
  repeat' first
    | with_reducible exact Kept.refl _ _
    | with_reducible assumption
    | intro (_h : Kept _ _ _)
    | ((try lift_lets); intro x; refine (have hx : Kept [.regs, .mem, .poison, .hostMem, .time, .tiles, .mortar, .errLog, .errOverflow, .ctxs, .launches, .joints, .kv, .links, .conts, .msix, .msixSent, .regPosted] s x := ?_; ?_); (on_goal 1 => subst x); (on_goal 2 => clear_value x))
    | ((try lift_lets); intro x; clear_value x)
    | intro y
    | decide
    | with_reducible apply hf
    | (with_reducible apply Kept.step; (on_goal 2 => first
        | with_reducible apply State.setReg_kept
        | with_reducible apply postEvent_kept
        | with_reducible apply State.modTile_kept
        | with_reducible apply leaveLaunch_kept
        | with_reducible apply haltUnits_kept))
    | with_reducible apply Kept.ite
    | (split; rename_i heq; refine (have hx : Kept [.regs, .mem, .poison, .hostMem, .time, .tiles, .mortar, .errLog, .errOverflow, .ctxs, .launches, .joints, .kv, .links, .conts, .msix, .msixSent, .regPosted] s _ := Kept.of_snd heq ?_; ?_); (on_goal 2 => clear heq))
    | (split; rename_i heq; refine (have hx : Kept [.regs, .mem, .poison, .hostMem, .time, .tiles, .mortar, .errLog, .errOverflow, .ctxs, .launches, .joints, .kv, .links, .conts, .msix, .msixSent, .regPosted] s _ := Kept.of_thd heq ?_; ?_); (on_goal 2 => clear heq))

theorem tileStop_kept (s : State) (t : ℕ) :
    Kept [.regs, .mem, .poison, .hostMem, .time, .tiles, .mortar, .errLog, .errOverflow, .ctxs, .launches, .joints, .kv, .links, .conts, .msix, .msixSent, .regPosted] s (tileStop s t) := by
  unfold tileStop
  repeat' first
    | with_reducible exact Kept.refl _ _
    | with_reducible assumption
    | intro (_h : Kept _ _ _)
    | ((try lift_lets); intro x; refine (have hx : Kept [.regs, .mem, .poison, .hostMem, .time, .tiles, .mortar, .errLog, .errOverflow, .ctxs, .launches, .joints, .kv, .links, .conts, .msix, .msixSent, .regPosted] s x := ?_; ?_); (on_goal 1 => subst x); (on_goal 2 => clear_value x))
    | ((try lift_lets); intro x; clear_value x)
    | intro y
    | decide
    | with_reducible apply hf
    | (with_reducible apply Kept.step; (on_goal 2 => first
        | with_reducible apply leaveLaunch_kept
        | with_reducible apply haltUnits_kept))
    | with_reducible apply Kept.ite
    | with_reducible apply Kept.ite₂
    | with_reducible apply Kept.ite₃
    | with_reducible apply Kept.iteW
    | with_reducible apply Kept.foldl
    | with_reducible apply Kept.foldl₂
    | with_reducible apply Kept.foldl₃
    | with_reducible refine Kept.of_snd (by assumption) ?_
    | with_reducible refine Kept.of_done (by assumption) ?_
    | with_reducible refine Kept.of_fault (by assumption) ?_
    | with_reducible refine Kept.of_wait (by assumption) ?_
    | with_reducible refine Kept.of_thd (by assumption) ?_
    | split
    | (with_reducible apply Kept.step; (on_goal 2 => with_reducible apply Kept.set_launches))

theorem tileHalt_kept (s : State) (t : ℕ) :
    Kept [.regs, .mem, .poison, .hostMem, .time, .tiles, .mortar, .errLog, .errOverflow, .ctxs, .launches, .joints, .kv, .links, .conts, .msix, .msixSent, .regPosted] s (tileHalt s t) := by
  unfold tileHalt
  repeat' first
    | with_reducible exact Kept.refl _ _
    | with_reducible assumption
    | intro (_h : Kept _ _ _)
    | intro y
    | decide
    | with_reducible apply hf
    | (with_reducible apply Kept.step; (on_goal 2 => first
        | with_reducible apply leaveLaunch_kept
        | with_reducible apply haltUnits_kept))
    | (split; rename_i heq; refine (have hx : Kept [.regs, .mem, .poison, .hostMem, .time, .tiles, .mortar, .errLog, .errOverflow, .ctxs, .launches, .joints, .kv, .links, .conts, .msix, .msixSent, .regPosted] s _ := Kept.of_snd heq ?_; ?_); (on_goal 2 => clear heq))
    | (split; rename_i heq; refine (have hx : Kept [.regs, .mem, .poison, .hostMem, .time, .tiles, .mortar, .errLog, .errOverflow, .ctxs, .launches, .joints, .kv, .links, .conts, .msix, .msixSent, .regPosted] s _ := Kept.of_thd heq ?_; ?_); (on_goal 2 => clear heq))

theorem signalToken_kept (s : State) (t : ℕ) (k : ℕ) (pc : ℕ) :
    Kept [.regs, .mem, .poison, .hostMem, .time, .tiles, .mortar, .errLog, .errOverflow, .ctxs, .launches, .joints, .kv, .links, .conts, .msix, .msixSent, .regPosted] s (signalToken s t k pc) := by
  unfold signalToken
  repeat' first
    | with_reducible exact Kept.refl _ _
    | with_reducible assumption
    | intro (_h : Kept _ _ _)
    | ((try lift_lets); intro x; clear_value x)
    | intro y
    | decide
    | with_reducible apply hf
    | (with_reducible apply Kept.step; (on_goal 2 => first
        | with_reducible apply State.setTile_kept
        | with_reducible apply tileFault_kept))
    | with_reducible apply Kept.ite
    | (split; rename_i heq; refine (have hx : Kept [.regs, .mem, .poison, .hostMem, .time, .tiles, .mortar, .errLog, .errOverflow, .ctxs, .launches, .joints, .kv, .links, .conts, .msix, .msixSent, .regPosted] s _ := Kept.of_snd heq ?_; ?_); (on_goal 2 => clear heq))
    | (split; rename_i heq; refine (have hx : Kept [.regs, .mem, .poison, .hostMem, .time, .tiles, .mortar, .errLog, .errOverflow, .ctxs, .launches, .joints, .kv, .links, .conts, .msix, .msixSent, .regPosted] s _ := Kept.of_thd heq ?_; ?_); (on_goal 2 => clear heq))

end Sys2Proof.Machine
end

