-- ==== Sys2Proof/Laws/FrameMail.lean ====
section
/-! SUPPORT. Frames of the operations of Machine/Mail.lean. -/

namespace Sys2Proof.Machine

theorem inDomain_kept (s : State) (ctx : ℕ) (k : State → State) {kps : List Part} {s0 : State} (hm : partsIn [.regs] kps = true) (h0 : Kept kps s0 s) (hk : ∀ y0, Kept kps s0 y0 → Kept kps s0 (k y0)) :
    Kept kps s0 (inDomain s ctx k) := by
  unfold inDomain
  repeat' first
    | with_reducible exact Kept.refl _ _
    | with_reducible assumption
    | intro (_h : Kept _ _ _)
    | intro y
    | exact partsIn_trans (by decide) hm
    | with_reducible apply hk
    | with_reducible apply hf
    | (with_reducible apply Kept.step; (on_goal 2 => with_reducible apply State.bump_kept))
    | with_reducible apply Kept.ite
    | (split; rename_i heq; refine (have hx : Kept kps s0 _ := Kept.of_snd heq ?_; ?_); (on_goal 2 => clear heq))
    | (split; rename_i heq; refine (have hx : Kept kps s0 _ := Kept.of_thd heq ?_; ?_); (on_goal 2 => clear heq))

theorem mbClock_kept (s : State) (c : ℕ) :
    Kept [.mail] s (mbClock s c) := by
  unfold mbClock
  repeat' first
    | with_reducible exact Kept.refl _ _
    | with_reducible assumption
    | intro (_h : Kept _ _ _)
    | ((try lift_lets); intro x; clear_value x)
    | intro y
    | decide
    | with_reducible apply hf
    | (with_reducible apply Kept.step; (on_goal 2 => with_reducible apply State.setMbox_kept))
    | (split; rename_i heq; refine (have hx : Kept [.mail] s _ := Kept.of_snd heq ?_; ?_); (on_goal 2 => clear heq))
    | (split; rename_i heq; refine (have hx : Kept [.mail] s _ := Kept.of_thd heq ?_; ?_); (on_goal 2 => clear heq))

theorem mbVisible_kept (s : State) (c : ℕ) :
    Kept [.time] s (mbVisible s c) := by
  unfold mbVisible
  repeat' first
    | with_reducible exact Kept.refl _ _
    | with_reducible assumption
    | intro (_h : Kept _ _ _)
    | intro y
    | decide
    | with_reducible apply hf
    | (with_reducible apply Kept.step; (on_goal 2 => with_reducible apply State.deliver_kept))
    | with_reducible apply Kept.ite
    | with_reducible apply Kept.ite₂
    | with_reducible apply Kept.ite₃
    | with_reducible apply Kept.iteW
    | with_reducible apply Kept.foldl
    | (split; rename_i heq; refine (have hx : Kept [.time] s _ := Kept.of_snd heq ?_; ?_); (on_goal 2 => clear heq))
    | (split; rename_i heq; refine (have hx : Kept [.time] s _ := Kept.of_thd heq ?_; ?_); (on_goal 2 => clear heq))

theorem mbTake_kept (s : State) (c : ℕ) :
    Kept [.mail] s (mbTake s c) := by
  unfold mbTake
  repeat' first
    | with_reducible exact Kept.refl _ _
    | with_reducible assumption
    | intro (_h : Kept _ _ _)
    | ((try lift_lets); intro x; clear_value x)
    | intro y
    | decide
    | with_reducible apply hf
    | (with_reducible apply Kept.step; (on_goal 2 => first
        | with_reducible apply State.setMbox_kept
        | with_reducible apply mbClock_kept))
    | (split; rename_i heq; refine (have hx : Kept [.mail] s _ := Kept.of_snd heq ?_; ?_); (on_goal 2 => clear heq))
    | (split; rename_i heq; refine (have hx : Kept [.mail] s _ := Kept.of_thd heq ?_; ?_); (on_goal 2 => clear heq))

theorem mbDeliver_kept (s : State) (c : ℕ) :
    Kept [.regs, .mem, .poison, .hostMem, .time, .mortar, .errLog, .errOverflow, .ctxs, .mail, .mgmt, .msix, .msixSent, .regPosted] s (mbDeliver s c) := by
  unfold mbDeliver
  repeat' first
    | with_reducible exact Kept.refl _ _
    | with_reducible assumption
    | intro (_h : Kept _ _ _)
    | ((try lift_lets); intro x; clear_value x)
    | intro y
    | decide
    | with_reducible apply hf
    | (with_reducible apply Kept.step; (on_goal 2 => first
        | with_reducible apply postEvent_kept
        | with_reducible apply mbVisible_kept
        | with_reducible apply mbTake_kept))
    | with_reducible apply Kept.ite
    | with_reducible apply Kept.ite₂
    | with_reducible apply Kept.ite₃
    | with_reducible apply Kept.iteW
    | with_reducible apply Kept.foldl
    | with_reducible apply Kept.foldl₂
    | with_reducible apply Kept.foldl₃
    | with_reducible refine Kept.of_snd (by assumption) ?_
    | with_reducible refine Kept.of_done (by assumption) ?_
    | with_reducible refine Kept.of_fault (by assumption) ?_
    | with_reducible refine Kept.of_wait (by assumption) ?_
    | with_reducible refine Kept.of_thd (by assumption) ?_
    | split
    | (with_reducible apply Kept.step; (on_goal 2 => with_reducible apply Kept.set_mgmt))

theorem mbPump_kept (x0 : ℕ) (x1 : State) (x2 : ℕ) :
    Kept [.regs, .mem, .poison, .hostMem, .time, .mortar, .errLog, .errOverflow, .ctxs, .mail, .mgmt, .msix, .msixSent, .regPosted] x1 (mbPump x0 x1 x2) := by
  induction x0 generalizing x1 x2 with
  | zero =>
    rw [mbPump]
    repeat' first
      | with_reducible exact Kept.refl _ _
      | with_reducible assumption
      | intro (_h : Kept _ _ _)
      | intro y
      | decide
      | with_reducible apply hf
      | (with_reducible apply Kept.step; (on_goal 2 => with_reducible apply mbClock_kept))
      | (split; rename_i heq; refine (have hx : Kept [.regs, .mem, .poison, .hostMem, .time, .mortar, .errLog, .errOverflow, .ctxs, .mail, .mgmt, .msix, .msixSent, .regPosted] x1 _ := Kept.of_snd heq ?_; ?_); (on_goal 2 => clear heq))
      | (split; rename_i heq; refine (have hx : Kept [.regs, .mem, .poison, .hostMem, .time, .mortar, .errLog, .errOverflow, .ctxs, .mail, .mgmt, .msix, .msixSent, .regPosted] x1 _ := Kept.of_thd heq ?_; ?_); (on_goal 2 => clear heq))
  | succ n ih =>
    rw [mbPump]
    repeat' first
      | with_reducible exact Kept.refl _ _
      | with_reducible assumption
      | (with_reducible apply Kept.trans; (on_goal 2 => with_reducible apply ih))
      | intro (_h : Kept _ _ _)
      | intro y
      | decide
      | with_reducible apply hf
      | (with_reducible apply Kept.step; (on_goal 2 => first
        | with_reducible apply mbClock_kept
        | with_reducible apply mbDeliver_kept))
      | (split; rename_i heq; refine (have hx : Kept [.regs, .mem, .poison, .hostMem, .time, .mortar, .errLog, .errOverflow, .ctxs, .mail, .mgmt, .msix, .msixSent, .regPosted] x1 _ := Kept.of_snd heq ?_; ?_); (on_goal 2 => clear heq))
      | (split; rename_i heq; refine (have hx : Kept [.regs, .mem, .poison, .hostMem, .time, .mortar, .errLog, .errOverflow, .ctxs, .mail, .mgmt, .msix, .msixSent, .regPosted] x1 _ := Kept.of_thd heq ?_; ?_); (on_goal 2 => clear heq))

theorem mbPumpAll_kept (s : State) (ident : ℕ) :
    Kept [.regs, .mem, .poison, .hostMem, .time, .mortar, .errLog, .errOverflow, .ctxs, .mail, .mgmt, .msix, .msixSent, .regPosted] s (mbPumpAll s ident) := by
  unfold mbPumpAll
  repeat' first
    | with_reducible exact Kept.refl _ _
    | with_reducible assumption
    | intro (_h : Kept _ _ _)
    | intro y
    | decide
    | with_reducible apply hf
    | (with_reducible apply Kept.step; (on_goal 2 => with_reducible apply mbPump_kept))
    | with_reducible apply Kept.ite
    | with_reducible apply Kept.ite₂
    | with_reducible apply Kept.ite₃
    | with_reducible apply Kept.iteW
    | with_reducible apply Kept.foldl
    | (split; rename_i heq; refine (have hx : Kept [.regs, .mem, .poison, .hostMem, .time, .mortar, .errLog, .errOverflow, .ctxs, .mail, .mgmt, .msix, .msixSent, .regPosted] s _ := Kept.of_snd heq ?_; ?_); (on_goal 2 => clear heq))
    | (split; rename_i heq; refine (have hx : Kept [.regs, .mem, .poison, .hostMem, .time, .mortar, .errLog, .errOverflow, .ctxs, .mail, .mgmt, .msix, .msixSent, .regPosted] s _ := Kept.of_thd heq ?_; ?_); (on_goal 2 => clear heq))

theorem mbAdmit_kept (s : State) (c : ℕ) (sender : ℕ) (deadline : ℕ) :
    Kept [.nextId, .regs, .time] s (mbAdmit s c sender deadline).2 := by
  unfold mbAdmit
  repeat' first
    | with_reducible exact Kept.refl _ _
    | with_reducible assumption
    | intro (_h : Kept _ _ _)
    | ((try lift_lets); intro x; clear_value x)
    | intro y
    | decide
    | with_reducible apply hf
    | (with_reducible apply Kept.step; (on_goal 2 => first
        | with_reducible apply State.refuse_kept
        | with_reducible apply admitReq_kept))
    | with_reducible apply Kept.ite
    | with_reducible apply Kept.ite₂
    | (split; rename_i heq; refine (have hx : Kept [.nextId, .regs, .time] s _ := Kept.of_snd heq ?_; ?_); (on_goal 2 => clear heq))
    | (split; rename_i heq; refine (have hx : Kept [.nextId, .regs, .time] s _ := Kept.of_thd heq ?_; ?_); (on_goal 2 => clear heq))

theorem mbEnqueue_kept (s : State) (c : ℕ) (sender : ℕ) (deadline : ℕ) (mver : ℕ) (payload : List Byte) :
    Kept [.regs, .mem, .poison, .hostMem, .time, .mortar, .errLog, .errOverflow, .ctxs, .mail, .mgmt, .msix, .msixSent, .regPosted] s (mbEnqueue s c sender deadline mver payload) := by
  unfold mbEnqueue
  repeat' first
    | with_reducible exact Kept.refl _ _
    | with_reducible assumption
    | intro (_h : Kept _ _ _)
    | ((try lift_lets); intro x; clear_value x)
    | intro y
    | decide
    | with_reducible apply hf
    | (with_reducible apply Kept.step; (on_goal 2 => first
        | with_reducible apply State.setMbox_kept
        | with_reducible apply mbPump_kept))
    | (split; rename_i heq; refine (have hx : Kept [.regs, .mem, .poison, .hostMem, .time, .mortar, .errLog, .errOverflow, .ctxs, .mail, .mgmt, .msix, .msixSent, .regPosted] s _ := Kept.of_snd heq ?_; ?_); (on_goal 2 => clear heq))
    | (split; rename_i heq; refine (have hx : Kept [.regs, .mem, .poison, .hostMem, .time, .mortar, .errLog, .errOverflow, .ctxs, .mail, .mgmt, .msix, .msixSent, .regPosted] s _ := Kept.of_thd heq ?_; ?_); (on_goal 2 => clear heq))

theorem mbSendBy_kept (s : State) (c : ℕ) (sender : ℕ) (deadline : ℕ) (mver : ℕ) (payload : List Byte) :
    Kept [.nextId, .regs, .mem, .poison, .hostMem, .time, .mortar, .errLog, .errOverflow, .ctxs, .mail, .mgmt, .msix, .msixSent, .regPosted] s (mbSendBy s c sender deadline mver payload).2 := by
  unfold mbSendBy
  repeat' first
    | with_reducible exact Kept.refl _ _
    | with_reducible assumption
    | intro (_h : Kept _ _ _)
    | ((try lift_lets); intro x; clear_value x)
    | intro y
    | decide
    | with_reducible apply hf
    | (with_reducible apply Kept.step; (on_goal 2 => first
        | with_reducible apply mbAdmit_kept
        | with_reducible apply mbEnqueue_kept))
    | with_reducible apply Kept.ite
    | with_reducible apply Kept.ite₂
    | (split; rename_i heq; refine (have hx : Kept [.nextId, .regs, .mem, .poison, .hostMem, .time, .mortar, .errLog, .errOverflow, .ctxs, .mail, .mgmt, .msix, .msixSent, .regPosted] s _ := Kept.of_snd heq ?_; ?_); (on_goal 2 => clear heq))
    | (split; rename_i heq; refine (have hx : Kept [.nextId, .regs, .mem, .poison, .hostMem, .time, .mortar, .errLog, .errOverflow, .ctxs, .mail, .mgmt, .msix, .msixSent, .regPosted] s _ := Kept.of_thd heq ?_; ?_); (on_goal 2 => clear heq))

theorem mbHostSend_kept (s : State) (fn : ℕ) (v : ℕ) :
    Kept [.nextId, .regs, .mem, .poison, .hostMem, .time, .mortar, .errLog, .errOverflow, .ctxs, .mail, .mgmt, .msix, .msixSent, .regPosted] s (mbHostSend s fn v) := by
  unfold mbHostSend
  repeat' first
    | with_reducible exact Kept.refl _ _
    | with_reducible assumption
    | intro (_h : Kept _ _ _)
    | ((try lift_lets); intro x; clear_value x)
    | intro y
    | decide
    | with_reducible apply hf
    | (with_reducible apply Kept.step; (on_goal 2 => first
        | with_reducible apply State.bump_kept
        | with_reducible apply State.orReg_kept
        | with_reducible apply mbSendBy_kept))
    | with_reducible apply Kept.ite
    | with_reducible apply Kept.ite₂
    | with_reducible apply Kept.ite₃
    | with_reducible apply Kept.iteW
    | with_reducible apply Kept.foldl
    | with_reducible apply Kept.foldl₂
    | with_reducible apply Kept.foldl₃
    | (split; rename_i heq; refine (have hx : Kept [.nextId, .regs, .mem, .poison, .hostMem, .time, .mortar, .errLog, .errOverflow, .ctxs, .mail, .mgmt, .msix, .msixSent, .regPosted] s _ := Kept.of_snd heq ?_; ?_); (on_goal 2 => clear heq))
    | with_reducible refine Kept.of_snd (by assumption) ?_

theorem mbsendWord_kept (s : State) (t : ℕ) (w : CWord) :
    Kept [.freeCtr, .nextId, .regs, .mem, .poison, .hostMem, .time, .tiles, .mortar, .errLog, .errOverflow, .ctxs, .mail, .mgmt, .msix, .msixSent, .regPosted] s (mbsendWord s t w).state := by
  unfold mbsendWord
  repeat' first
    | with_reducible exact Kept.refl _ _
    | with_reducible assumption
    | intro (_h : Kept _ _ _)
    | ((try lift_lets); intro x; refine (have hf : ∀ (y : State) a, Kept [.freeCtr, .nextId, .regs, .mem, .poison, .hostMem, .time, .tiles, .mortar, .errLog, .errOverflow, .ctxs, .mail, .mgmt, .msix, .msixSent, .regPosted] s y → Kept [.freeCtr, .nextId, .regs, .mem, .poison, .hostMem, .time, .tiles, .mortar, .errLog, .errOverflow, .ctxs, .mail, .mgmt, .msix, .msixSent, .regPosted] s (x y a) := ?_; ?_); (on_goal 1 => subst x); (on_goal 2 => clear_value x))
    | ((try lift_lets); intro x; clear_value x)
    | intro y
    | decide
    | with_reducible apply hf
    | (with_reducible apply Kept.step; (on_goal 2 => first
        | with_reducible apply State.bump_kept
        | with_reducible apply State.draw_kept
        | with_reducible apply State.modTile_kept
        | with_reducible apply mbSendBy_kept))
    | with_reducible apply Kept.ite
    | with_reducible apply Kept.ite₂
    | with_reducible apply Kept.ite₃
    | with_reducible apply Kept.iteW
    | with_reducible apply Kept.foldl
    | with_reducible apply Kept.foldl₂
    | with_reducible apply Kept.foldl₃
    | (split; rename_i heq; refine (have hx : Kept [.freeCtr, .nextId, .regs, .mem, .poison, .hostMem, .time, .tiles, .mortar, .errLog, .errOverflow, .ctxs, .mail, .mgmt, .msix, .msixSent, .regPosted] s _ := Kept.of_snd heq ?_; ?_); (on_goal 2 => clear heq))
    | with_reducible refine Kept.of_snd (by assumption) ?_

theorem mbrecvWord_kept (s : State) (t : ℕ) (w : CWord) :
    Kept [.mem, .tiles, .mail] s (mbrecvWord s t w).state := by
  unfold mbrecvWord
  repeat' first
    | with_reducible exact Kept.refl _ _
    | with_reducible assumption
    | intro (_h : Kept _ _ _)
    | ((try lift_lets); intro x; clear_value x)
    | intro y
    | decide
    | with_reducible apply hf
    | (with_reducible apply Kept.step; (on_goal 2 => first
        | with_reducible apply State.setScratch_kept
        | with_reducible apply State.modTile_kept
        | with_reducible apply mbTake_kept))
    | with_reducible apply Kept.ite
    | with_reducible apply Kept.ite₂
    | with_reducible apply Kept.ite₃
    | with_reducible apply Kept.iteW
    | with_reducible apply Kept.foldl
    | with_reducible apply Kept.foldl₂
    | with_reducible apply Kept.foldl₃
    | with_reducible refine Kept.of_snd (by assumption) ?_
    | with_reducible refine Kept.of_done (by assumption) ?_
    | with_reducible refine Kept.of_fault (by assumption) ?_
    | with_reducible refine Kept.of_wait (by assumption) ?_
    | with_reducible refine Kept.of_thd (by assumption) ?_
    | split

theorem rxChange_kept (s : State) (ident : ℕ) (state : ℕ) :
    Kept [.regs, .mem, .poison, .hostMem, .time, .mortar, .errLog, .errOverflow, .ctxs, .mail, .trust, .mgmt, .msix, .msixSent, .regPosted] s (rxChange s ident state) := by
  unfold rxChange
  repeat' first
    | with_reducible exact Kept.refl _ _
    | with_reducible assumption
    | intro (_h : Kept _ _ _)
    | ((try lift_lets); intro x; refine (have hx : Kept [.regs, .mem, .poison, .hostMem, .time, .mortar, .errLog, .errOverflow, .ctxs, .mail, .trust, .mgmt, .msix, .msixSent, .regPosted] s x := ?_; ?_); (on_goal 1 => subst x); (on_goal 2 => clear_value x))
    | ((try lift_lets); intro x; clear_value x)
    | intro y
    | decide
    | with_reducible apply hf
    | (with_reducible apply Kept.step; (on_goal 2 => with_reducible apply mbPumpAll_kept))
    | with_reducible apply Kept.ite
    | with_reducible apply Kept.ite₂
    | with_reducible apply Kept.ite₃
    | with_reducible apply Kept.iteW
    | with_reducible apply Kept.foldl
    | with_reducible apply Kept.foldl₂
    | with_reducible apply Kept.foldl₃
    | with_reducible refine Kept.of_snd (by assumption) ?_
    | with_reducible refine Kept.of_done (by assumption) ?_
    | with_reducible refine Kept.of_fault (by assumption) ?_
    | with_reducible refine Kept.of_wait (by assumption) ?_
    | with_reducible refine Kept.of_thd (by assumption) ?_
    | split
    | (with_reducible apply Kept.step; (on_goal 2 => with_reducible apply Kept.set_trust))

end Sys2Proof.Machine
end

