-- ==== Sys2Proof/Laws/FrameJoints.lean ====
section
/-! SUPPORT. Frames of the operations of Machine/Joints.lean. -/

namespace Sys2Proof.Machine

theorem addWait_kept (s : State) (j : ℕ) (who : JWho) (n : JNeed) :
    Kept [.joints] s (addWait s j who n) := by
  unfold addWait
  repeat' first
    | with_reducible exact Kept.refl _ _
    | with_reducible assumption
    | intro (_h : Kept _ _ _)
    | ((try lift_lets); intro x; clear_value x)
    | intro y
    | decide
    | with_reducible apply hf
    | (with_reducible apply Kept.step; (on_goal 2 => with_reducible apply State.setJoint_kept))
    | (split; rename_i heq; refine (have hx : Kept [.joints] s _ := Kept.of_snd heq ?_; ?_); (on_goal 2 => clear heq))
    | (split; rename_i heq; refine (have hx : Kept [.joints] s _ := Kept.of_thd heq ?_; ?_); (on_goal 2 => clear heq))

theorem withJoint_kept (s : State) (t : ℕ) (w : CWord) (k : Joint → WOut) {kps : List Part} {s0 : State} (hm : partsIn [] kps = true) (h0 : Kept kps s0 s) (hk : ∀ y0, Kept kps s0 (k y0).state) :
    Kept kps s0 (withJoint s t w k).state := by
  unfold withJoint
  repeat' first
    | with_reducible exact Kept.refl _ _
    | with_reducible assumption
    | intro (_h : Kept _ _ _)
    | intro y
    | exact partsIn_trans (by decide) hm
    | with_reducible apply hk
    | with_reducible apply hf
    | with_reducible apply Kept.ite
    | with_reducible apply Kept.ite₂
    | with_reducible apply Kept.ite₃
    | with_reducible apply Kept.iteW
    | (split; rename_i heq; refine (have hx : Kept kps s0 _ := Kept.of_snd heq ?_; ?_); (on_goal 2 => clear heq))
    | (split; rename_i heq; refine (have hx : Kept kps s0 _ := Kept.of_thd heq ?_; ?_); (on_goal 2 => clear heq))

theorem jaddWord_kept (s : State) (t : ℕ) (w : CWord) :
    Kept [.regs, .tiles, .ctxs, .joints, .links, .conts] s (jaddWord s t w).state := by
  unfold jaddWord
  repeat' first
    | with_reducible exact Kept.refl _ _
    | with_reducible assumption
    | intro (_h : Kept _ _ _)
    | ((try lift_lets); intro x; refine (have hx : Kept [.regs, .tiles, .ctxs, .joints, .links, .conts] s x := ?_; ?_); (on_goal 1 => subst x); (on_goal 2 => clear_value x))
    | ((try lift_lets); intro x; clear_value x)
    | intro y
    | decide
    | with_reducible apply hf
    | with_reducible apply withJoint_kept
    | (with_reducible apply Kept.step; (on_goal 2 => first
        | with_reducible apply jointAdd_kept
        | with_reducible apply State.modTile_kept))
    | (split; rename_i heq; refine (have hx : Kept [.regs, .tiles, .ctxs, .joints, .links, .conts] s _ := Kept.of_snd heq ?_; ?_); (on_goal 2 => clear heq))
    | (split; rename_i heq; refine (have hx : Kept [.regs, .tiles, .ctxs, .joints, .links, .conts] s _ := Kept.of_thd heq ?_; ?_); (on_goal 2 => clear heq))

theorem jtryWord_kept (s : State) (t : ℕ) (w : CWord) :
    Kept [.regs, .tiles, .ctxs, .joints, .links, .conts] s (jtryWord s t w).state := by
  unfold jtryWord
  repeat' first
    | with_reducible exact Kept.refl _ _
    | with_reducible assumption
    | intro (_h : Kept _ _ _)
    | ((try lift_lets); intro x; clear_value x)
    | intro y
    | decide
    | with_reducible apply hf
    | with_reducible apply withJoint_kept
    | (with_reducible apply Kept.step; (on_goal 2 => first
        | with_reducible apply State.setJointValue_kept
        | with_reducible apply contWatch_kept
        | with_reducible apply State.modTile_kept))
    | with_reducible apply Kept.ite
    | with_reducible apply Kept.ite₂
    | with_reducible apply Kept.ite₃
    | with_reducible apply Kept.iteW
    | (split; rename_i heq; refine (have hx : Kept [.regs, .tiles, .ctxs, .joints, .links, .conts] s _ := Kept.of_snd heq ?_; ?_); (on_goal 2 => clear heq))
    | (split; rename_i heq; refine (have hx : Kept [.regs, .tiles, .ctxs, .joints, .links, .conts] s _ := Kept.of_thd heq ?_; ?_); (on_goal 2 => clear heq))

theorem jticketWord_kept (s : State) (t : ℕ) (w : CWord) :
    Kept [.tiles, .joints] s (jticketWord s t w).state := by
  unfold jticketWord
  repeat' first
    | with_reducible exact Kept.refl _ _
    | with_reducible assumption
    | intro (_h : Kept _ _ _)
    | intro y
    | decide
    | with_reducible apply hf
    | with_reducible apply withJoint_kept
    | (with_reducible apply Kept.step; (on_goal 2 => first
        | with_reducible apply State.setJoint_kept
        | with_reducible apply State.modTile_kept))
    | (split; rename_i heq; refine (have hx : Kept [.tiles, .joints] s _ := Kept.of_snd heq ?_; ?_); (on_goal 2 => clear heq))
    | (split; rename_i heq; refine (have hx : Kept [.tiles, .joints] s _ := Kept.of_thd heq ?_; ?_); (on_goal 2 => clear heq))

theorem orderedAdd_kept (s : State) (j : ℕ) (n : ℕ) :
    Kept [.regs, .ctxs, .joints, .links, .conts] s (orderedAdd s j n) := by
  unfold orderedAdd
  repeat' first
    | with_reducible exact Kept.refl _ _
    | with_reducible assumption
    | intro (_h : Kept _ _ _)
    | ((try lift_lets); intro x; clear_value x)
    | intro y
    | decide
    | with_reducible apply hf
    | (with_reducible apply Kept.step; (on_goal 2 => first
        | with_reducible apply State.setJoint_kept
        | with_reducible apply jointAdd_kept))
    | (split; rename_i heq; refine (have hx : Kept [.regs, .ctxs, .joints, .links, .conts] s _ := Kept.of_snd heq ?_; ?_); (on_goal 2 => clear heq))
    | (split; rename_i heq; refine (have hx : Kept [.regs, .ctxs, .joints, .links, .conts] s _ := Kept.of_thd heq ?_; ?_); (on_goal 2 => clear heq))

theorem jorderWord_kept (s : State) (t : ℕ) (w : CWord) :
    Kept [.regs, .ctxs, .joints, .links, .conts] s (jorderWord s t w).state := by
  unfold jorderWord
  repeat' first
    | with_reducible exact Kept.refl _ _
    | with_reducible assumption
    | intro (_h : Kept _ _ _)
    | ((try lift_lets); intro x; clear_value x)
    | intro y
    | decide
    | with_reducible apply hf
    | with_reducible apply withJoint_kept
    | (with_reducible apply Kept.step; (on_goal 2 => first
        | with_reducible apply addWait_kept
        | with_reducible apply orderedAdd_kept))
    | with_reducible apply Kept.ite
    | with_reducible apply Kept.ite₂
    | with_reducible apply Kept.ite₃
    | with_reducible apply Kept.iteW
    | (split; rename_i heq; refine (have hx : Kept [.regs, .ctxs, .joints, .links, .conts] s _ := Kept.of_snd heq ?_; ?_); (on_goal 2 => clear heq))
    | (split; rename_i heq; refine (have hx : Kept [.regs, .ctxs, .joints, .links, .conts] s _ := Kept.of_thd heq ?_; ?_); (on_goal 2 => clear heq))

theorem jarriveWord_kept (s : State) (t : ℕ) (w : CWord) :
    Kept [.regs, .tiles, .ctxs, .joints, .links, .conts] s (jarriveWord s t w).state := by
  unfold jarriveWord
  repeat' first
    | with_reducible exact Kept.refl _ _
    | with_reducible assumption
    | intro (_h : Kept _ _ _)
    | ((try lift_lets); intro x; refine (have hx : Kept [.regs, .tiles, .ctxs, .joints, .links, .conts] s x := ?_; ?_); (on_goal 1 => subst x); (on_goal 2 => clear_value x))
    | ((try lift_lets); intro x; clear_value x)
    | intro y
    | decide
    | with_reducible apply hf
    | with_reducible apply withJoint_kept
    | (with_reducible apply Kept.step; (on_goal 2 => first
        | with_reducible apply jointAdd_kept
        | with_reducible apply State.modTile_kept
        | with_reducible apply addWait_kept))
    | with_reducible apply Kept.ite
    | with_reducible apply Kept.ite₂
    | with_reducible apply Kept.ite₃
    | with_reducible apply Kept.iteW
    | (split; rename_i heq; refine (have hx : Kept [.regs, .tiles, .ctxs, .joints, .links, .conts] s _ := Kept.of_snd heq ?_; ?_); (on_goal 2 => clear heq))
    | (split; rename_i heq; refine (have hx : Kept [.regs, .tiles, .ctxs, .joints, .links, .conts] s _ := Kept.of_thd heq ?_; ?_); (on_goal 2 => clear heq))

theorem jreadWord_kept (s : State) (t : ℕ) (w : CWord) :
    Kept [.tiles] s (jreadWord s t w).state := by
  unfold jreadWord
  repeat' first
    | with_reducible exact Kept.refl _ _
    | with_reducible assumption
    | intro (_h : Kept _ _ _)
    | intro y
    | decide
    | with_reducible apply hf
    | with_reducible apply withJoint_kept
    | (with_reducible apply Kept.step; (on_goal 2 => with_reducible apply State.modTile_kept))
    | (split; rename_i heq; refine (have hx : Kept [.tiles] s _ := Kept.of_snd heq ?_; ?_); (on_goal 2 => clear heq))
    | (split; rename_i heq; refine (have hx : Kept [.tiles] s _ := Kept.of_thd heq ?_; ?_); (on_goal 2 => clear heq))

theorem signalFailed_kept (s : State) (i : Issued) :
    Kept [.regs, .mem, .poison, .hostMem, .mortar, .errLog, .errOverflow, .ctxs, .msix, .msixSent, .regPosted] s (signalFailed s i) := by
  unfold signalFailed
  repeat' first
    | with_reducible exact Kept.refl _ _
    | with_reducible assumption
    | intro (_h : Kept _ _ _)
    | intro y
    | decide
    | with_reducible apply hf
    | (with_reducible apply Kept.step; (on_goal 2 => with_reducible apply postEvent_kept))
    | (split; rename_i heq; refine (have hx : Kept [.regs, .mem, .poison, .hostMem, .mortar, .errLog, .errOverflow, .ctxs, .msix, .msixSent, .regPosted] s _ := Kept.of_snd heq ?_; ?_); (on_goal 2 => clear heq))
    | (split; rename_i heq; refine (have hx : Kept [.regs, .mem, .poison, .hostMem, .mortar, .errLog, .errOverflow, .ctxs, .msix, .msixSent, .regPosted] s _ := Kept.of_thd heq ?_; ?_); (on_goal 2 => clear heq))

theorem sendSignal_kept (s : State) (ctx : ℕ) (entry : ℕ) (rjoint : ℕ) (n : ℕ) (tag : ℕ) (cls : ℕ) :
    Kept [.links] s (sendSignal s ctx entry rjoint n tag cls).2 := by
  unfold sendSignal
  repeat' first
    | with_reducible exact Kept.refl _ _
    | with_reducible assumption
    | intro (_h : Kept _ _ _)
    | ((try lift_lets); intro x; clear_value x)
    | intro y
    | decide
    | with_reducible apply hf
    | (with_reducible apply Kept.step; (on_goal 2 => with_reducible apply sendOn_kept))
    | with_reducible apply Kept.ite
    | with_reducible apply Kept.ite₂
    | with_reducible apply Kept.ite₃
    | with_reducible apply Kept.iteW
    | with_reducible apply Kept.foldl
    | with_reducible apply Kept.foldl₂
    | with_reducible apply Kept.foldl₃
    | with_reducible refine Kept.of_snd (by assumption) ?_
    | with_reducible refine Kept.of_done (by assumption) ?_
    | with_reducible refine Kept.of_fault (by assumption) ?_
    | with_reducible refine Kept.of_wait (by assumption) ?_
    | with_reducible refine Kept.of_thd (by assumption) ?_
    | split
    | (with_reducible apply Kept.step; (on_goal 2 => with_reducible apply Kept.set_links))

theorem jsignalWord_kept (s : State) (t : ℕ) (w : CWord) :
    Kept [.regs, .mem, .poison, .hostMem, .mortar, .errLog, .errOverflow, .ctxs, .links, .msix, .msixSent, .regPosted] s (jsignalWord s t w).state := by
  unfold jsignalWord
  repeat' first
    | with_reducible exact Kept.refl _ _
    | with_reducible assumption
    | intro (_h : Kept _ _ _)
    | ((try lift_lets); intro x; clear_value x)
    | intro y
    | decide
    | with_reducible apply hf
    | (with_reducible apply Kept.step; (on_goal 2 => first
        | with_reducible apply signalFailed_kept
        | with_reducible apply sendSignal_kept))
    | with_reducible apply Kept.ite
    | with_reducible apply Kept.ite₂
    | with_reducible apply Kept.ite₃
    | with_reducible apply Kept.iteW
    | (split; rename_i heq; refine (have hx : Kept [.regs, .mem, .poison, .hostMem, .mortar, .errLog, .errOverflow, .ctxs, .links, .msix, .msixSent, .regPosted] s _ := Kept.of_snd heq ?_; ?_); (on_goal 2 => clear heq))
    | (split; rename_i heq; refine (have hx : Kept [.regs, .mem, .poison, .hostMem, .mortar, .errLog, .errOverflow, .ctxs, .links, .msix, .msixSent, .regPosted] s _ := Kept.of_thd heq ?_; ?_); (on_goal 2 => clear heq))

theorem releaseWait_kept (s : State) (j : ℕ) (who : JWho) (n : JNeed) :
    Kept [.regs, .mem, .poison, .hostMem, .tiles, .mortar, .errLog, .errOverflow, .ctxs, .joints, .links, .conts, .msix, .msixSent, .regPosted] s (releaseWait s j who n) := by
  unfold releaseWait
  repeat' first
    | with_reducible exact Kept.refl _ _
    | with_reducible assumption
    | intro (_h : Kept _ _ _)
    | ((try lift_lets); intro x; refine (have hx : Kept [.regs, .mem, .poison, .hostMem, .tiles, .mortar, .errLog, .errOverflow, .ctxs, .joints, .links, .conts, .msix, .msixSent, .regPosted] s x := ?_; ?_); (on_goal 1 => subst x); (on_goal 2 => clear_value x))
    | intro y
    | decide
    | with_reducible apply hf
    | (with_reducible apply Kept.step; (on_goal 2 => first
        | with_reducible apply finishDesc_kept
        | with_reducible apply State.modTile_kept
        | with_reducible apply orderedAdd_kept))
    | with_reducible apply Kept.ite
    | with_reducible apply Kept.ite₂
    | with_reducible apply Kept.ite₃
    | with_reducible apply Kept.iteW
    | with_reducible apply Kept.foldl
    | with_reducible apply Kept.foldl₂
    | with_reducible apply Kept.foldl₃
    | with_reducible refine Kept.of_snd (by assumption) ?_
    | with_reducible refine Kept.of_done (by assumption) ?_
    | with_reducible refine Kept.of_fault (by assumption) ?_
    | with_reducible refine Kept.of_wait (by assumption) ?_
    | with_reducible refine Kept.of_thd (by assumption) ?_
    | split

theorem releaseOldest_kept (s : State) (j : ℕ) :
    Kept [.regs, .mem, .poison, .hostMem, .tiles, .mortar, .errLog, .errOverflow, .ctxs, .joints, .links, .conts, .msix, .msixSent, .regPosted] s (releaseOldest s j) := by
  unfold releaseOldest
  repeat' first
    | with_reducible exact Kept.refl _ _
    | with_reducible assumption
    | intro (_h : Kept _ _ _)
    | ((try lift_lets); intro x; clear_value x)
    | intro y
    | decide
    | with_reducible apply hf
    | (with_reducible apply Kept.step; (on_goal 2 => first
        | with_reducible apply State.setJoint_kept
        | with_reducible apply releaseWait_kept))
    | with_reducible apply Kept.ite
    | with_reducible apply Kept.ite₂
    | with_reducible apply Kept.ite₃
    | with_reducible apply Kept.iteW
    | with_reducible apply Kept.foldl
    | with_reducible apply Kept.foldl₂
    | with_reducible apply Kept.foldl₃
    | with_reducible refine Kept.of_snd (by assumption) ?_
    | with_reducible refine Kept.of_done (by assumption) ?_
    | with_reducible refine Kept.of_fault (by assumption) ?_
    | with_reducible refine Kept.of_wait (by assumption) ?_
    | with_reducible refine Kept.of_thd (by assumption) ?_
    | split

theorem takeSignal_kept (s : State) (port : ℕ) (m : RxMsg) :
    Kept [.regs, .ctxs, .joints, .links, .conts] s (takeSignal s port m) := by
  unfold takeSignal
  repeat' first
    | with_reducible exact Kept.refl _ _
    | with_reducible assumption
    | intro (_h : Kept _ _ _)
    | ((try lift_lets); intro x; refine (have hx : Kept [.regs, .ctxs, .joints, .links, .conts] s x := ?_; ?_); (on_goal 1 => subst x); (on_goal 2 => clear_value x))
    | ((try lift_lets); intro x; clear_value x)
    | intro y
    | decide
    | with_reducible apply hf
    | (with_reducible apply Kept.step; (on_goal 2 => first
        | with_reducible apply State.bump_kept
        | with_reducible apply noticeFor_kept
        | with_reducible apply State.consume_kept
        | with_reducible apply jointAdd_kept))
    | with_reducible apply Kept.ite
    | (split; rename_i heq; refine (have hx : Kept [.regs, .ctxs, .joints, .links, .conts] s _ := Kept.of_snd heq ?_; ?_); (on_goal 2 => clear heq))
    | (split; rename_i heq; refine (have hx : Kept [.regs, .ctxs, .joints, .links, .conts] s _ := Kept.of_thd heq ?_; ?_); (on_goal 2 => clear heq))

theorem jointDesc_kept (s : State) (ctx : ℕ) (q : ℕ) (op : ℕ) (k : State → Desc → State) {kps : List Part} {s0 : State} (hm : partsIn [.regs, .mem, .poison, .hostMem, .mortar, .errLog, .errOverflow, .ctxs, .msix, .msixSent, .regPosted] kps = true) (h0 : Kept kps s0 s) (hk : ∀ y0 y1, Kept kps s0 y0 → Kept kps s0 (k y0 y1)) :
    Kept kps s0 (jointDesc s ctx q op k) := by
  unfold jointDesc
  repeat' first
    | with_reducible exact Kept.refl _ _
    | with_reducible assumption
    | intro (_h : Kept _ _ _)
    | intro y
    | exact partsIn_trans (by decide) hm
    | with_reducible apply hk
    | with_reducible apply hf
    | (with_reducible apply Kept.step; (on_goal 2 => first
        | with_reducible apply finishDesc_kept
        | with_reducible apply State.startDesc_kept))
    | with_reducible apply Kept.ite
    | with_reducible apply Kept.ite₂
    | with_reducible apply Kept.ite₃
    | with_reducible apply Kept.iteW
    | with_reducible apply Kept.foldl
    | with_reducible apply Kept.foldl₂
    | with_reducible apply Kept.foldl₃
    | with_reducible refine Kept.of_snd (by assumption) ?_
    | with_reducible refine Kept.of_done (by assumption) ?_
    | with_reducible refine Kept.of_fault (by assumption) ?_
    | with_reducible refine Kept.of_wait (by assumption) ?_
    | with_reducible refine Kept.of_thd (by assumption) ?_
    | split

theorem jointResult_kept (s : State) (ctx : ℕ) (q : ℕ) (d : Desc) (v : ℕ) :
    Kept [.regs, .mem, .poison, .hostMem, .mortar, .errLog, .errOverflow, .ctxs, .msix, .msixSent, .regPosted] s (jointResult s ctx q d v) := by
  unfold jointResult
  repeat' first
    | with_reducible exact Kept.refl _ _
    | with_reducible assumption
    | intro (_h : Kept _ _ _)
    | intro y
    | decide
    | with_reducible apply hf
    | (with_reducible apply Kept.step; (on_goal 2 => first
        | with_reducible apply agentWriteAll_kept
        | with_reducible apply finishDesc_kept))
    | with_reducible apply Kept.ite
    | (split; rename_i heq; refine (have hx : Kept [.regs, .mem, .poison, .hostMem, .mortar, .errLog, .errOverflow, .ctxs, .msix, .msixSent, .regPosted] s _ := Kept.of_snd heq ?_; ?_); (on_goal 2 => clear heq))
    | (split; rename_i heq; refine (have hx : Kept [.regs, .mem, .poison, .hostMem, .mortar, .errLog, .errOverflow, .ctxs, .msix, .msixSent, .regPosted] s _ := Kept.of_thd heq ?_; ?_); (on_goal 2 => clear heq))

theorem waitgeDesc_kept (s : State) (ctx : ℕ) (q : ℕ) (d : Desc) :
    Kept [.regs, .mem, .poison, .hostMem, .mortar, .errLog, .errOverflow, .ctxs, .joints, .msix, .msixSent, .regPosted] s (waitgeDesc s ctx q d) := by
  unfold waitgeDesc
  repeat' first
    | with_reducible exact Kept.refl _ _
    | with_reducible assumption
    | intro (_h : Kept _ _ _)
    | intro y
    | decide
    | with_reducible apply hf
    | (with_reducible apply Kept.step; (on_goal 2 => first
        | with_reducible apply State.modDesc_kept
        | with_reducible apply finishDesc_kept
        | with_reducible apply addWait_kept))
    | with_reducible apply Kept.ite
    | (split; rename_i heq; refine (have hx : Kept [.regs, .mem, .poison, .hostMem, .mortar, .errLog, .errOverflow, .ctxs, .joints, .msix, .msixSent, .regPosted] s _ := Kept.of_snd heq ?_; ?_); (on_goal 2 => clear heq))
    | (split; rename_i heq; refine (have hx : Kept [.regs, .mem, .poison, .hostMem, .mortar, .errLog, .errOverflow, .ctxs, .joints, .msix, .msixSent, .regPosted] s _ := Kept.of_thd heq ?_; ?_); (on_goal 2 => clear heq))

theorem signalDesc_kept (s : State) (ctx : ℕ) (q : ℕ) (d : Desc) :
    Kept [.regs, .mem, .poison, .hostMem, .mortar, .errLog, .errOverflow, .ctxs, .links, .msix, .msixSent, .regPosted] s (signalDesc s ctx q d) := by
  unfold signalDesc
  repeat' first
    | with_reducible exact Kept.refl _ _
    | with_reducible assumption
    | intro (_h : Kept _ _ _)
    | ((try lift_lets); intro x; refine (have hx : Kept [.regs, .mem, .poison, .hostMem, .mortar, .errLog, .errOverflow, .ctxs, .links, .msix, .msixSent, .regPosted] s x := ?_; ?_); (on_goal 1 => subst x); (on_goal 2 => clear_value x))
    | ((try lift_lets); intro x; clear_value x)
    | intro y
    | decide
    | with_reducible apply hf
    | (with_reducible apply Kept.step; (on_goal 2 => first
        | with_reducible apply finishDesc_kept
        | with_reducible apply State.startDesc_kept
        | with_reducible apply sendSignal_kept))
    | (split; rename_i heq; refine (have hx : Kept [.regs, .mem, .poison, .hostMem, .mortar, .errLog, .errOverflow, .ctxs, .links, .msix, .msixSent, .regPosted] s _ := Kept.of_snd heq ?_; ?_); (on_goal 2 => clear heq))
    | (split; rename_i heq; refine (have hx : Kept [.regs, .mem, .poison, .hostMem, .mortar, .errLog, .errOverflow, .ctxs, .links, .msix, .msixSent, .regPosted] s _ := Kept.of_thd heq ?_; ?_); (on_goal 2 => clear heq))

theorem jntCfg_kept (s : State) (j : ℕ) (v : ℕ) (off : ℕ) (master : ℕ) :
    Kept [.regs, .joints] s (jntCfg s j v off master) := by
  unfold jntCfg
  repeat' first
    | with_reducible exact Kept.refl _ _
    | with_reducible assumption
    | intro (_h : Kept _ _ _)
    | ((try lift_lets); intro x; clear_value x)
    | intro y
    | decide
    | with_reducible apply hf
    | (with_reducible apply Kept.step; (on_goal 2 => first
        | with_reducible apply State.setJoint_kept
        | with_reducible apply State.clampEvent_kept))
    | with_reducible apply Kept.ite
    | (split; rename_i heq; refine (have hx : Kept [.regs, .joints] s _ := Kept.of_snd heq ?_; ?_); (on_goal 2 => clear heq))
    | (split; rename_i heq; refine (have hx : Kept [.regs, .joints] s _ := Kept.of_thd heq ?_; ?_); (on_goal 2 => clear heq))

end Sys2Proof.Machine
end

