-- ==== Sys2Proof/Laws/FrameTileCache.lean ====
section
/-! SUPPORT. Frames of the operations of Machine/TileCache.lean. -/

namespace Sys2Proof.Machine

theorem writeBack_kept (s : State) (t : ℕ) (ctx : ℕ) (l : CLine) :
    Kept [.regs, .mem, .poison, .mortar] s (writeBack s t ctx l) := by
  unfold writeBack
  repeat' first
    | with_reducible exact Kept.refl _ _
    | with_reducible assumption
    | intro (_h : Kept _ _ _)
    | intro y
    | decide
    | with_reducible apply hf
    | (with_reducible apply Kept.step; (on_goal 2 => first
        | with_reducible apply State.sendFlits_kept
        | with_reducible apply State.storeBrick_kept
        | with_reducible apply State.addrError_kept))
    | with_reducible apply Kept.ite
    | (split; rename_i heq; refine (have hx : Kept [.regs, .mem, .poison, .mortar] s _ := Kept.of_snd heq ?_; ?_); (on_goal 2 => clear heq))
    | (split; rename_i heq; refine (have hx : Kept [.regs, .mem, .poison, .mortar] s _ := Kept.of_thd heq ?_; ?_); (on_goal 2 => clear heq))

theorem flushCache_kept (s : State) (t : ℕ) :
    Kept [.regs, .mem, .poison, .tiles, .mortar] s (flushCache s t) := by
  unfold flushCache
  repeat' first
    | with_reducible exact Kept.refl _ _
    | with_reducible assumption
    | intro (_h : Kept _ _ _)
    | ((try lift_lets); intro x; clear_value x)
    | intro y
    | decide
    | with_reducible apply hf
    | (with_reducible apply Kept.step; (on_goal 2 => first
        | with_reducible apply State.modTile_kept
        | with_reducible apply writeBack_kept))
    | with_reducible apply Kept.ite
    | with_reducible apply Kept.ite₂
    | with_reducible apply Kept.ite₃
    | with_reducible apply Kept.iteW
    | with_reducible apply Kept.foldl
    | (split; rename_i heq; refine (have hx : Kept [.regs, .mem, .poison, .tiles, .mortar] s _ := Kept.of_snd heq ?_; ?_); (on_goal 2 => clear heq))
    | (split; rename_i heq; refine (have hx : Kept [.regs, .mem, .poison, .tiles, .mortar] s _ := Kept.of_thd heq ?_; ?_); (on_goal 2 => clear heq))

theorem fillLine_kept (s : State) (t : ℕ) (l : CLine) :
    Kept [.regs, .mem, .poison, .tiles, .mortar] s (fillLine s t l) := by
  unfold fillLine
  repeat' first
    | with_reducible exact Kept.refl _ _
    | with_reducible assumption
    | intro (_h : Kept _ _ _)
    | ((try lift_lets); intro x; refine (have hx : Kept [.regs, .mem, .poison, .tiles, .mortar] s x := ?_; ?_); (on_goal 1 => subst x); (on_goal 2 => clear_value x))
    | ((try lift_lets); intro x; clear_value x)
    | intro y
    | decide
    | with_reducible apply hf
    | (with_reducible apply Kept.step; (on_goal 2 => first
        | with_reducible apply State.bump_kept
        | with_reducible apply State.modTile_kept
        | with_reducible apply writeBack_kept))
    | with_reducible apply Kept.ite
    | with_reducible apply Kept.ite₂
    | with_reducible apply Kept.ite₃
    | with_reducible apply Kept.iteW
    | with_reducible apply Kept.foldl
    | with_reducible apply Kept.foldl₂
    | with_reducible apply Kept.foldl₃
    | with_reducible refine Kept.of_snd (by assumption) ?_
    | with_reducible refine Kept.of_done (by assumption) ?_
    | with_reducible refine Kept.of_fault (by assumption) ?_
    | with_reducible refine Kept.of_wait (by assumption) ?_
    | with_reducible refine Kept.of_thd (by assumption) ?_
    | split

theorem hitLine_kept (s : State) (t : ℕ) (a : ℕ) :
    Kept [.regs, .tiles] s (hitLine s t a) := by
  unfold hitLine
  repeat' first
    | with_reducible exact Kept.refl _ _
    | with_reducible assumption
    | intro (_h : Kept _ _ _)
    | intro y
    | decide
    | with_reducible apply hf
    | (with_reducible apply Kept.step; (on_goal 2 => first
        | with_reducible apply State.bump_kept
        | with_reducible apply State.modTile_kept))
    | (split; rename_i heq; refine (have hx : Kept [.regs, .tiles] s _ := Kept.of_snd heq ?_; ?_); (on_goal 2 => clear heq))
    | (split; rename_i heq; refine (have hx : Kept [.regs, .tiles] s _ := Kept.of_thd heq ?_; ?_); (on_goal 2 => clear heq))

theorem brickLine_kept (s : State) (a : ℕ) (reuse : ℕ) (tensor : ℕ) :
    Kept [.regs, .errLog, .errOverflow] s (brickLine s a reuse tensor).2 := by
  unfold brickLine
  repeat' first
    | with_reducible exact Kept.refl _ _
    | with_reducible assumption
    | intro (_h : Kept _ _ _)
    | intro y
    | decide
    | with_reducible apply hf
    | (with_reducible apply Kept.step; (on_goal 2 => with_reducible apply State.decodeClean_kept))
    | (split; rename_i heq; refine (have hx : Kept [.regs, .errLog, .errOverflow] s _ := Kept.of_snd heq ?_; ?_); (on_goal 2 => clear heq))
    | (split; rename_i heq; refine (have hx : Kept [.regs, .errLog, .errOverflow] s _ := Kept.of_thd heq ?_; ?_); (on_goal 2 => clear heq))

theorem cacheReadPiece_kept (s : State) (t : ℕ) (a : ℕ) (n : ℕ) (reuse : ℕ) (tensor : ℕ) :
    Kept [.regs, .mem, .poison, .tiles, .mortar, .errLog, .errOverflow] s (cacheReadPiece s t a n reuse tensor).2 := by
  unfold cacheReadPiece
  repeat' first
    | with_reducible exact Kept.refl _ _
    | with_reducible assumption
    | intro (_h : Kept _ _ _)
    | ((try lift_lets); intro x; clear_value x)
    | intro y
    | decide
    | with_reducible apply hf
    | (with_reducible apply Kept.step; (on_goal 2 => first
        | with_reducible apply State.bump_kept
        | with_reducible apply fillLine_kept
        | with_reducible apply hitLine_kept
        | with_reducible apply brickLine_kept))
    | with_reducible apply Kept.ite
    | with_reducible apply Kept.ite₂
    | with_reducible apply Kept.ite₃
    | with_reducible apply Kept.iteW
    | with_reducible apply Kept.foldl
    | with_reducible apply Kept.foldl₂
    | with_reducible apply Kept.foldl₃
    | with_reducible refine Kept.of_snd (by assumption) ?_
    | with_reducible refine Kept.of_done (by assumption) ?_
    | with_reducible refine Kept.of_fault (by assumption) ?_
    | with_reducible refine Kept.of_wait (by assumption) ?_
    | with_reducible refine Kept.of_thd (by assumption) ?_
    | split

theorem cacheWrite_kept (s : State) (t : ℕ) (a : ℕ) (bs : List Byte) (bad : List ℕ) :
    Kept [.mem, .poison, .tiles] s (cacheWrite s t a bs bad) := by
  unfold cacheWrite
  repeat' first
    | with_reducible exact Kept.refl _ _
    | with_reducible assumption
    | intro (_h : Kept _ _ _)
    | ((try lift_lets); intro x; clear_value x)
    | intro y
    | decide
    | with_reducible apply hf
    | (with_reducible apply Kept.step; (on_goal 2 => first
        | with_reducible apply State.storeBrick_kept
        | with_reducible apply State.modTile_kept))
    | with_reducible apply Kept.ite
    | with_reducible apply Kept.ite₂
    | with_reducible apply Kept.ite₃
    | with_reducible apply Kept.iteW
    | with_reducible apply Kept.foldl
    | with_reducible apply Kept.foldl₂
    | with_reducible apply Kept.foldl₃
    | with_reducible refine Kept.of_snd (by assumption) ?_
    | with_reducible refine Kept.of_done (by assumption) ?_
    | with_reducible refine Kept.of_fault (by assumption) ?_
    | with_reducible refine Kept.of_wait (by assumption) ?_
    | with_reducible refine Kept.of_thd (by assumption) ?_
    | split

theorem cacheMaintain_kept (s : State) (t : ℕ) (op : ℕ) (lo : ℕ) (hi : ℕ) (tensor : ℕ) :
    Kept [.regs, .mem, .poison, .tiles, .mortar] s (cacheMaintain s t op lo hi tensor) := by
  unfold cacheMaintain
  repeat' first
    | with_reducible exact Kept.refl _ _
    | with_reducible assumption
    | intro (_h : Kept _ _ _)
    | ((try lift_lets); intro x; clear_value x)
    | intro y
    | decide
    | with_reducible apply hf
    | (with_reducible apply Kept.step; (on_goal 2 => first
        | with_reducible apply State.modTile_kept
        | with_reducible apply writeBack_kept))
    | with_reducible apply Kept.ite
    | with_reducible apply Kept.ite₂
    | with_reducible apply Kept.ite₃
    | with_reducible apply Kept.iteW
    | with_reducible apply Kept.foldl
    | (split; rename_i heq; refine (have hx : Kept [.regs, .mem, .poison, .tiles, .mortar] s _ := Kept.of_snd heq ?_; ?_); (on_goal 2 => clear heq))
    | (split; rename_i heq; refine (have hx : Kept [.regs, .mem, .poison, .tiles, .mortar] s _ := Kept.of_thd heq ?_; ?_); (on_goal 2 => clear heq))

theorem convertSplit_kept (s : State) (t : ℕ) (cache : ℕ) :
    Kept [.freeCtr, .regs, .mem, .poison, .tiles, .mortar] s (convertSplit s t cache) := by
  unfold convertSplit
  repeat' first
    | with_reducible exact Kept.refl _ _
    | with_reducible assumption
    | intro (_h : Kept _ _ _)
    | ((try lift_lets); intro x; refine (have hx : Kept [.freeCtr, .regs, .mem, .poison, .tiles, .mortar] s x := ?_; ?_); (on_goal 1 => subst x); (on_goal 2 => clear_value x))
    | ((try lift_lets); intro x; clear_value x)
    | intro y
    | decide
    | with_reducible apply hf
    | (with_reducible apply Kept.step; (on_goal 2 => first
        | with_reducible apply State.undefine_kept
        | with_reducible apply State.modTile_kept
        | with_reducible apply flushCache_kept))
    | with_reducible apply Kept.ite
    | (split; rename_i heq; refine (have hx : Kept [.freeCtr, .regs, .mem, .poison, .tiles, .mortar] s _ := Kept.of_snd heq ?_; ?_); (on_goal 2 => clear heq))
    | (split; rename_i heq; refine (have hx : Kept [.freeCtr, .regs, .mem, .poison, .tiles, .mortar] s _ := Kept.of_thd heq ?_; ?_); (on_goal 2 => clear heq))

end Sys2Proof.Machine
end

