-- ==== Sys2Proof/Laws/FrameRings.lean ====
section
/-! SUPPORT. Frames of the operations of Machine/Rings.lean. -/

namespace Sys2Proof.Machine

theorem acceptDoor_kept (s : State) (ctx : ℕ) (q : ℕ) (tail : ℕ) :
    Kept [.ctxs] s (acceptDoor s ctx q tail) := by
  unfold acceptDoor
  repeat' first
    | with_reducible exact Kept.refl _ _
    | with_reducible assumption
    | intro (_h : Kept _ _ _)
    | ((try lift_lets); intro x; clear_value x)
    | intro y
    | decide
    | with_reducible apply hf
    | (with_reducible apply Kept.step; (on_goal 2 => first
        | with_reducible apply State.setCtx_kept
        | with_reducible apply State.setRing_kept))
    | (split; rename_i heq; refine (have hx : Kept [.ctxs] s _ := Kept.of_snd heq ?_; ?_); (on_goal 2 => clear heq))
    | (split; rename_i heq; refine (have hx : Kept [.ctxs] s _ := Kept.of_thd heq ?_; ?_); (on_goal 2 => clear heq))

theorem sqDoor_kept (s : State) (master : ℕ) (ctx : ℕ) (q : ℕ) (v : ℕ) :
    Kept [.regs, .ctxs] s (sqDoor s master ctx q v) := by
  unfold sqDoor
  repeat' first
    | with_reducible exact Kept.refl _ _
    | with_reducible assumption
    | intro (_h : Kept _ _ _)
    | ((try lift_lets); intro x; refine (have hx : Kept [.regs, .ctxs] s x := ?_; ?_); (on_goal 1 => subst x); (on_goal 2 => clear_value x))
    | ((try lift_lets); intro x; clear_value x)
    | intro y
    | decide
    | with_reducible apply hf
    | (with_reducible apply Kept.step; (on_goal 2 => first
        | with_reducible apply State.clampEvent_kept
        | with_reducible apply acceptDoor_kept))
    | with_reducible apply Kept.ite
    | (split; rename_i heq; refine (have hx : Kept [.regs, .ctxs] s _ := Kept.of_snd heq ?_; ?_); (on_goal 2 => clear heq))
    | (split; rename_i heq; refine (have hx : Kept [.regs, .ctxs] s _ := Kept.of_thd heq ?_; ?_); (on_goal 2 => clear heq))

theorem cqDoor_kept (s : State) (master : ℕ) (ctx : ℕ) (q : ℕ) (v : ℕ) :
    Kept [.regs, .mem, .poison, .hostMem, .time, .mortar, .errLog, .errOverflow, .ctxs, .mail, .mgmt, .msix, .msixSent, .regPosted] s (cqDoor s master ctx q v) := by
  unfold cqDoor
  repeat' first
    | with_reducible exact Kept.refl _ _
    | with_reducible assumption
    | intro (_h : Kept _ _ _)
    | ((try lift_lets); intro x; refine (have hx : Kept [.regs, .mem, .poison, .hostMem, .time, .mortar, .errLog, .errOverflow, .ctxs, .mail, .mgmt, .msix, .msixSent, .regPosted] s x := ?_; ?_); (on_goal 1 => subst x); (on_goal 2 => clear_value x))
    | ((try lift_lets); intro x; clear_value x)
    | intro y
    | decide
    | with_reducible apply hf
    | (with_reducible apply Kept.step; (on_goal 2 => first
        | with_reducible apply State.setCRing_kept
        | with_reducible apply State.clampEvent_kept
        | with_reducible apply mbPumpAll_kept))
    | with_reducible apply Kept.ite
    | (split; rename_i heq; refine (have hx : Kept [.regs, .mem, .poison, .hostMem, .time, .mortar, .errLog, .errOverflow, .ctxs, .mail, .mgmt, .msix, .msixSent, .regPosted] s _ := Kept.of_snd heq ?_; ?_); (on_goal 2 => clear heq))
    | (split; rename_i heq; refine (have hx : Kept [.regs, .mem, .poison, .hostMem, .time, .mortar, .errLog, .errOverflow, .ctxs, .mail, .mgmt, .msix, .msixSent, .regPosted] s _ := Kept.of_thd heq ?_; ?_); (on_goal 2 => clear heq))

theorem ringMiss_kept (s : State) (ctx : ℕ) (q : ℕ) (idx : ℕ) :
    Kept [.regs, .mem, .poison, .hostMem, .mortar, .errLog, .errOverflow, .ctxs, .msix, .msixSent, .regPosted] s (ringMiss s ctx q idx) := by
  unfold ringMiss
  repeat' first
    | with_reducible exact Kept.refl _ _
    | with_reducible assumption
    | intro (_h : Kept _ _ _)
    | ((try lift_lets); intro x; clear_value x)
    | intro y
    | decide
    | with_reducible apply hf
    | (with_reducible apply Kept.step; (on_goal 2 => first
        | with_reducible apply State.modDesc_kept
        | with_reducible apply missRecord_kept))
    | with_reducible apply Kept.ite
    | with_reducible apply Kept.ite₂
    | with_reducible apply Kept.ite₃
    | with_reducible apply Kept.iteW
    | with_reducible apply Kept.foldl
    | with_reducible apply Kept.foldl₂
    | with_reducible apply Kept.foldl₃
    | with_reducible refine Kept.of_snd (by assumption) ?_
    | with_reducible refine Kept.of_done (by assumption) ?_
    | with_reducible refine Kept.of_fault (by assumption) ?_
    | with_reducible refine Kept.of_wait (by assumption) ?_
    | with_reducible refine Kept.of_thd (by assumption) ?_
    | split

theorem deliverRing_kept (s : State) (r : TReq) :
    Kept [.regs, .mem, .poison, .hostMem, .time, .mortar, .errLog, .errOverflow, .ctxs, .msix, .msixSent, .regPosted] s (deliverRing s r) := by
  unfold deliverRing
  repeat' first
    | with_reducible exact Kept.refl _ _
    | with_reducible assumption
    | intro (_h : Kept _ _ _)
    | ((try lift_lets); intro x; refine (have hx : Kept [.regs, .mem, .poison, .hostMem, .time, .mortar, .errLog, .errOverflow, .ctxs, .msix, .msixSent, .regPosted] s x := ?_; ?_); (on_goal 1 => subst x); (on_goal 2 => clear_value x))
    | ((try lift_lets); intro x; clear_value x)
    | intro y
    | decide
    | with_reducible apply hf
    | (with_reducible apply Kept.step; (on_goal 2 => first
        | with_reducible apply State.modDesc_kept
        | with_reducible apply sweepRing_kept
        | with_reducible apply State.deliver_kept))
    | with_reducible apply Kept.ite
    | with_reducible apply Kept.ite₂
    | with_reducible apply Kept.ite₃
    | with_reducible apply Kept.iteW
    | with_reducible apply Kept.foldl
    | with_reducible apply Kept.foldl₂
    | with_reducible apply Kept.foldl₃
    | with_reducible refine Kept.of_snd (by assumption) ?_
    | with_reducible refine Kept.of_done (by assumption) ?_
    | with_reducible refine Kept.of_fault (by assumption) ?_
    | with_reducible refine Kept.of_wait (by assumption) ?_
    | with_reducible refine Kept.of_thd (by assumption) ?_
    | split

theorem breakForData_kept (s : State) (treq : Option ℕ) (res : ℕ) :
    Kept [.regs, .mem, .poison, .hostMem, .time, .mortar, .errLog, .errOverflow, .ctxs, .msix, .msixSent, .regPosted] s (breakForData s treq res) := by
  unfold breakForData
  repeat' first
    | with_reducible exact Kept.refl _ _
    | with_reducible assumption
    | intro (_h : Kept _ _ _)
    | intro y
    | decide
    | with_reducible apply hf
    | (with_reducible apply Kept.step; (on_goal 2 => with_reducible apply breakReq_kept))
    | with_reducible apply Kept.ite
    | with_reducible apply Kept.ite₂
    | with_reducible apply Kept.ite₃
    | with_reducible apply Kept.iteW
    | with_reducible apply Kept.foldl
    | with_reducible apply Kept.foldl₂
    | with_reducible apply Kept.foldl₃
    | with_reducible refine Kept.of_snd (by assumption) ?_
    | with_reducible refine Kept.of_done (by assumption) ?_
    | with_reducible refine Kept.of_fault (by assumption) ?_
    | with_reducible refine Kept.of_wait (by assumption) ?_
    | with_reducible refine Kept.of_thd (by assumption) ?_
    | split

theorem breakForWords_kept (s : State) (treq : Option ℕ) (bad : List ℕ) :
    Kept [.regs, .mem, .poison, .hostMem, .time, .mortar, .errLog, .errOverflow, .ctxs, .msix, .msixSent, .regPosted] s (breakForWords s treq bad) := by
  unfold breakForWords
  repeat' first
    | with_reducible exact Kept.refl _ _
    | with_reducible assumption
    | intro (_h : Kept _ _ _)
    | intro y
    | decide
    | with_reducible apply hf
    | (with_reducible apply Kept.step; (on_goal 2 => with_reducible apply breakForData_kept))
    | with_reducible apply Kept.ite
    | with_reducible apply Kept.ite₂
    | with_reducible apply Kept.ite₃
    | with_reducible apply Kept.iteW
    | with_reducible apply Kept.foldl
    | with_reducible apply Kept.foldl₂
    | with_reducible apply Kept.foldl₃
    | with_reducible refine Kept.of_snd (by assumption) ?_
    | with_reducible refine Kept.of_done (by assumption) ?_
    | with_reducible refine Kept.of_fault (by assumption) ?_
    | with_reducible refine Kept.of_wait (by assumption) ?_
    | with_reducible refine Kept.of_thd (by assumption) ?_
    | split

theorem takeLaunch_kept (s : State) (ctx : ℕ) (q : ℕ) (d : Desc) :
    Kept [.nextId, .launches] s (takeLaunch s ctx q d) := by
  unfold takeLaunch
  repeat' first
    | with_reducible exact Kept.refl _ _
    | with_reducible assumption
    | intro (_h : Kept _ _ _)
    | intro y
    | decide
    | with_reducible apply hf
    | (with_reducible apply Kept.step; (on_goal 2 => with_reducible apply State.fresh_kept))
    | with_reducible apply Kept.ite
    | with_reducible apply Kept.ite₂
    | with_reducible apply Kept.ite₃
    | with_reducible apply Kept.iteW
    | with_reducible apply Kept.foldl
    | with_reducible apply Kept.foldl₂
    | with_reducible apply Kept.foldl₃
    | (split; rename_i heq; refine (have hx : Kept [.nextId, .launches] s _ := Kept.of_snd heq ?_; ?_); (on_goal 2 => clear heq))
    | with_reducible refine Kept.of_snd (by assumption) ?_
    | with_reducible refine Kept.of_done (by assumption) ?_
    | with_reducible refine Kept.of_fault (by assumption) ?_
    | with_reducible refine Kept.of_wait (by assumption) ?_
    | with_reducible refine Kept.of_thd (by assumption) ?_
    | split
    | (with_reducible apply Kept.step; (on_goal 2 => with_reducible apply Kept.set_launches))

theorem launchSplit_kept (s : State) (t : ℕ) (cache : ℕ) (zeroed : Bool) :
    Kept [.freeCtr, .mem, .poison, .tiles] s (launchSplit s t cache zeroed) := by
  unfold launchSplit
  repeat' first
    | with_reducible exact Kept.refl _ _
    | with_reducible assumption
    | intro (_h : Kept _ _ _)
    | ((try lift_lets); intro x; refine (have hx : Kept [.freeCtr, .mem, .poison, .tiles] s x := ?_; ?_); (on_goal 1 => subst x); (on_goal 2 => clear_value x))
    | ((try lift_lets); intro x; clear_value x)
    | intro y
    | decide
    | with_reducible apply hf
    | (with_reducible apply Kept.step; (on_goal 2 => first
        | with_reducible apply State.undefine_kept
        | with_reducible apply State.modTile_kept))
    | with_reducible apply Kept.ite
    | (split; rename_i heq; refine (have hx : Kept [.freeCtr, .mem, .poison, .tiles] s _ := Kept.of_snd heq ?_; ?_); (on_goal 2 => clear heq))
    | (split; rename_i heq; refine (have hx : Kept [.freeCtr, .mem, .poison, .tiles] s _ := Kept.of_thd heq ?_; ?_); (on_goal 2 => clear heq))

theorem readIf_kept (c : Bool) (s : State) (ctx : ℕ) (a : ℕ) (n : ℕ) (t : ℕ) :
    Kept [.regs, .mortar, .errLog, .errOverflow, .ctxs] s (readIf c s ctx a n t).2 := by
  unfold readIf
  repeat' first
    | with_reducible exact Kept.refl _ _
    | with_reducible assumption
    | intro (_h : Kept _ _ _)
    | intro y
    | decide
    | with_reducible apply hf
    | (with_reducible apply Kept.step; (on_goal 2 => with_reducible apply agentReadAll_kept))
    | with_reducible apply Kept.ite
    | with_reducible apply Kept.ite₂
    | (split; rename_i heq; refine (have hx : Kept [.regs, .mortar, .errLog, .errOverflow, .ctxs] s _ := Kept.of_snd heq ?_; ?_); (on_goal 2 => clear heq))
    | (split; rename_i heq; refine (have hx : Kept [.regs, .mortar, .errLog, .errOverflow, .ctxs] s _ := Kept.of_thd heq ?_; ?_); (on_goal 2 => clear heq))

theorem putAdapter_kept (s : State) (l : Launch) (snap : Option (List Byte × Bool)) (t : ℕ) :
    Kept [.regs, .mem, .poison, .hostMem, .mortar, .errLog, .errOverflow, .ctxs, .regPosted] s (putAdapter s l snap t).2 := by
  unfold putAdapter
  repeat' first
    | with_reducible exact Kept.refl _ _
    | with_reducible assumption
    | intro (_h : Kept _ _ _)
    | ((try lift_lets); intro x; clear_value x)
    | intro y
    | decide
    | with_reducible apply hf
    | (with_reducible apply Kept.step; (on_goal 2 => with_reducible apply agentWriteAll_kept))
    | with_reducible apply Kept.ite
    | with_reducible apply Kept.ite₂
    | with_reducible apply Kept.ite₃
    | with_reducible apply Kept.iteW
    | with_reducible apply Kept.foldl
    | with_reducible apply Kept.foldl₂
    | with_reducible apply Kept.foldl₃
    | with_reducible refine Kept.of_snd (by assumption) ?_
    | with_reducible refine Kept.of_done (by assumption) ?_
    | with_reducible refine Kept.of_fault (by assumption) ?_
    | with_reducible refine Kept.of_wait (by assumption) ?_
    | with_reducible refine Kept.of_thd (by assumption) ?_
    | split

theorem startTile_kept (l : Launch) (snap : Option (List Byte × Bool)) (s : State) (t : ℕ) :
    Kept [.freeCtr, .regs, .mem, .poison, .hostMem, .time, .tiles, .mortar, .errLog, .errOverflow, .ctxs, .launches, .joints, .kv, .links, .conts, .msix, .msixSent, .regPosted] s (startTile l snap s t) := by
  unfold startTile
  repeat' first
    | with_reducible exact Kept.refl _ _
    | with_reducible assumption
    | intro (_h : Kept _ _ _)
    | ((try lift_lets); intro x; refine (have hx : Kept [.freeCtr, .regs, .mem, .poison, .hostMem, .time, .tiles, .mortar, .errLog, .errOverflow, .ctxs, .launches, .joints, .kv, .links, .conts, .msix, .msixSent, .regPosted] s x := ?_; ?_); (on_goal 1 => subst x); (on_goal 2 => clear_value x))
    | ((try lift_lets); intro x; clear_value x)
    | intro y
    | decide
    | with_reducible apply hf
    | (with_reducible apply Kept.step; (on_goal 2 => first
        | with_reducible apply State.zeroScratch_kept
        | with_reducible apply agentMove_kept
        | with_reducible apply State.endQueues_kept
        | with_reducible apply State.modTile_kept
        | with_reducible apply tileFault_kept
        | with_reducible apply flushCache_kept
        | with_reducible apply breakForWords_kept
        | with_reducible apply launchSplit_kept
        | with_reducible apply readIf_kept
        | with_reducible apply putAdapter_kept))
    | with_reducible apply Kept.ite
    | (split; rename_i heq; refine (have hx : Kept [.freeCtr, .regs, .mem, .poison, .hostMem, .time, .tiles, .mortar, .errLog, .errOverflow, .ctxs, .launches, .joints, .kv, .links, .conts, .msix, .msixSent, .regPosted] s _ := Kept.of_snd heq ?_; ?_); (on_goal 2 => clear heq))
    | (split; rename_i heq; refine (have hx : Kept [.freeCtr, .regs, .mem, .poison, .hostMem, .time, .tiles, .mortar, .errLog, .errOverflow, .ctxs, .launches, .joints, .kv, .links, .conts, .msix, .msixSent, .regPosted] s _ := Kept.of_thd heq ?_; ?_); (on_goal 2 => clear heq))

theorem startLaunch_kept (s : State) (l : Launch) :
    Kept [.freeCtr, .regs, .mem, .poison, .hostMem, .time, .tiles, .mortar, .errLog, .errOverflow, .ctxs, .launches, .joints, .kv, .links, .conts, .msix, .msixSent, .regPosted] s (startLaunch s l) := by
  unfold startLaunch
  repeat' first
    | with_reducible exact Kept.refl _ _
    | with_reducible assumption
    | intro (_h : Kept _ _ _)
    | ((try lift_lets); intro x; refine (have hx : Kept [.freeCtr, .regs, .mem, .poison, .hostMem, .time, .tiles, .mortar, .errLog, .errOverflow, .ctxs, .launches, .joints, .kv, .links, .conts, .msix, .msixSent, .regPosted] s x := ?_; ?_); (on_goal 1 => subst x); (on_goal 2 => clear_value x))
    | ((try lift_lets); intro x; clear_value x)
    | intro y
    | decide
    | with_reducible apply hf
    | (with_reducible apply Kept.step; (on_goal 2 => first
        | with_reducible apply agentReadAll_kept
        | with_reducible apply State.startDesc_kept
        | with_reducible apply launchEnd_kept
        | with_reducible apply startTile_kept))
    | with_reducible apply Kept.ite
    | with_reducible apply Kept.ite₂
    | with_reducible apply Kept.ite₃
    | with_reducible apply Kept.iteW
    | with_reducible apply Kept.foldl
    | with_reducible apply Kept.foldl₂
    | with_reducible apply Kept.foldl₃
    | with_reducible refine Kept.of_snd (by assumption) ?_
    | with_reducible refine Kept.of_done (by assumption) ?_
    | with_reducible refine Kept.of_fault (by assumption) ?_
    | with_reducible refine Kept.of_wait (by assumption) ?_
    | with_reducible refine Kept.of_thd (by assumption) ?_
    | split
    | (with_reducible apply Kept.step; (on_goal 2 => with_reducible apply Kept.set_launches_links))

theorem kvUse_kept (s : State) (inPool : Bool) :
    Kept [.nextId, .kv] s (kvUse s inPool).2 := by
  unfold kvUse
  repeat' first
    | with_reducible exact Kept.refl _ _
    | with_reducible assumption
    | intro (_h : Kept _ _ _)
    | ((try lift_lets); intro x; clear_value x)
    | intro y
    | decide
    | with_reducible apply hf
    | (with_reducible apply Kept.step; (on_goal 2 => with_reducible apply State.fresh_kept))
    | with_reducible apply Kept.ite
    | with_reducible apply Kept.ite₂
    | with_reducible apply Kept.ite₃
    | with_reducible apply Kept.iteW
    | with_reducible apply Kept.foldl
    | with_reducible apply Kept.foldl₂
    | with_reducible apply Kept.foldl₃
    | (split; rename_i heq; refine (have hx : Kept [.nextId, .kv] s _ := Kept.of_snd heq ?_; ?_); (on_goal 2 => clear heq))
    | with_reducible refine Kept.of_snd (by assumption) ?_
    | with_reducible refine Kept.of_done (by assumption) ?_
    | with_reducible refine Kept.of_fault (by assumption) ?_
    | with_reducible refine Kept.of_wait (by assumption) ?_
    | with_reducible refine Kept.of_thd (by assumption) ?_
    | split
    | (with_reducible apply Kept.step; (on_goal 2 => with_reducible apply Kept.set_kv))

theorem kvDone_kept (s : State) (user : Option ℕ) :
    Kept [.kv] s (kvDone s user) := by
  unfold kvDone
  repeat' first
    | with_reducible exact Kept.refl _ _
    | with_reducible assumption
    | intro (_h : Kept _ _ _)
    | ((try lift_lets); intro x; clear_value x)
    | intro y
    | decide
    | with_reducible apply hf
    | with_reducible apply Kept.ite
    | with_reducible apply Kept.ite₂
    | with_reducible apply Kept.ite₃
    | with_reducible apply Kept.iteW
    | with_reducible apply Kept.foldl
    | with_reducible apply Kept.foldl₂
    | with_reducible apply Kept.foldl₃
    | with_reducible refine Kept.of_snd (by assumption) ?_
    | with_reducible refine Kept.of_done (by assumption) ?_
    | with_reducible refine Kept.of_fault (by assumption) ?_
    | with_reducible refine Kept.of_wait (by assumption) ?_
    | with_reducible refine Kept.of_thd (by assumption) ?_
    | split
    | (with_reducible apply Kept.step; (on_goal 2 => with_reducible apply Kept.set_kv))

theorem freeBytes_kept (s : State) (n : ℕ) :
    Kept [.freeCtr] s (freeBytes s n).2 := by
  unfold freeBytes
  repeat' first
    | with_reducible exact Kept.refl _ _
    | with_reducible assumption
    | intro (_h : Kept _ _ _)
    | intro y
    | decide
    | with_reducible apply hf
    | (with_reducible apply Kept.step; (on_goal 2 => with_reducible apply State.draw_kept))
    | (split; rename_i heq; refine (have hx : Kept [.freeCtr] s _ := Kept.of_snd heq ?_; ?_); (on_goal 2 => clear heq))
    | (split; rename_i heq; refine (have hx : Kept [.freeCtr] s _ := Kept.of_thd heq ?_; ?_); (on_goal 2 => clear heq))

theorem State.askHost_kept (s : State) (ctx : ℕ) (a : ℕ) (n : ℕ) (who : HostWho) (treq : Option ℕ) :
    Kept [.nextId, .hostReads] s (State.askHost s ctx a n who treq) := by
  unfold State.askHost
  repeat' first
    | with_reducible exact Kept.refl _ _
    | with_reducible assumption
    | intro (_h : Kept _ _ _)
    | ((try lift_lets); intro x; clear_value x)
    | intro y
    | decide
    | with_reducible apply hf
    | (with_reducible apply Kept.step; (on_goal 2 => with_reducible apply State.fresh_kept))
    | with_reducible apply Kept.ite
    | with_reducible apply Kept.ite₂
    | with_reducible apply Kept.ite₃
    | with_reducible apply Kept.iteW
    | with_reducible apply Kept.foldl
    | with_reducible apply Kept.foldl₂
    | with_reducible apply Kept.foldl₃
    | (split; rename_i heq; refine (have hx : Kept [.nextId, .hostReads] s _ := Kept.of_snd heq ?_; ?_); (on_goal 2 => clear heq))
    | with_reducible refine Kept.of_snd (by assumption) ?_
    | with_reducible refine Kept.of_done (by assumption) ?_
    | with_reducible refine Kept.of_fault (by assumption) ?_
    | with_reducible refine Kept.of_wait (by assumption) ?_
    | with_reducible refine Kept.of_thd (by assumption) ?_
    | split
    | (with_reducible apply Kept.step; (on_goal 2 => with_reducible apply Kept.set_hostReads))

theorem endCopy_kept (s : State) (ctx : ℕ) (q : ℕ) (d : Desc) (ok : Bool) (bad : Bool) (n : ℕ) :
    Kept [.regs, .mem, .poison, .hostMem, .mortar, .errLog, .errOverflow, .ctxs, .joints, .links, .conts, .msix, .msixSent, .regPosted] s (endCopy s ctx q d ok bad n) := by
  unfold endCopy
  repeat' first
    | with_reducible exact Kept.refl _ _
    | with_reducible assumption
    | intro (_h : Kept _ _ _)
    | ((try lift_lets); intro x; refine (have hx : Kept [.regs, .mem, .poison, .hostMem, .mortar, .errLog, .errOverflow, .ctxs, .joints, .links, .conts, .msix, .msixSent, .regPosted] s x := ?_; ?_); (on_goal 1 => subst x); (on_goal 2 => clear_value x))
    | ((try lift_lets); intro x; clear_value x)
    | intro y
    | decide
    | with_reducible apply hf
    | (with_reducible apply Kept.step; (on_goal 2 => first
        | with_reducible apply finishDesc_kept
        | with_reducible apply jointAddFor_kept))
    | with_reducible apply Kept.ite
    | (split; rename_i heq; refine (have hx : Kept [.regs, .mem, .poison, .hostMem, .mortar, .errLog, .errOverflow, .ctxs, .joints, .links, .conts, .msix, .msixSent, .regPosted] s _ := Kept.of_snd heq ?_; ?_); (on_goal 2 => clear heq))
    | (split; rename_i heq; refine (have hx : Kept [.regs, .mem, .poison, .hostMem, .mortar, .errLog, .errOverflow, .ctxs, .joints, .links, .conts, .msix, .msixSent, .regPosted] s _ := Kept.of_thd heq ?_; ?_); (on_goal 2 => clear heq))

theorem runCopy_kept (s : State) (ctx : ℕ) (q : ℕ) (d : Desc) :
    Kept [.regs, .mem, .poison, .hostMem, .time, .mortar, .errLog, .errOverflow, .ctxs, .joints, .links, .conts, .msix, .msixSent, .regPosted] s (runCopy s ctx q d) := by
  unfold runCopy
  repeat' first
    | with_reducible exact Kept.refl _ _
    | with_reducible assumption
    | intro (_h : Kept _ _ _)
    | ((try lift_lets); intro x; clear_value x)
    | intro y
    | decide
    | with_reducible apply hf
    | (with_reducible apply Kept.step; (on_goal 2 => first
        | with_reducible apply agentMove_kept
        | with_reducible apply State.startDesc_kept
        | with_reducible apply breakForWords_kept
        | with_reducible apply endCopy_kept))
    | (split; rename_i heq; refine (have hx : Kept [.regs, .mem, .poison, .hostMem, .time, .mortar, .errLog, .errOverflow, .ctxs, .joints, .links, .conts, .msix, .msixSent, .regPosted] s _ := Kept.of_snd heq ?_; ?_); (on_goal 2 => clear heq))
    | (split; rename_i heq; refine (have hx : Kept [.regs, .mem, .poison, .hostMem, .time, .mortar, .errLog, .errOverflow, .ctxs, .joints, .links, .conts, .msix, .msixSent, .regPosted] s _ := Kept.of_thd heq ?_; ?_); (on_goal 2 => clear heq))

theorem State.modCopy_kept (s : State) (ctx : ℕ) (q : ℕ) (abs : ℕ) (g : CopyJob → CopyJob) :
    Kept [.copies] s (State.modCopy s ctx q abs g) := by
  unfold State.modCopy
  repeat' first
    | with_reducible exact Kept.refl _ _
    | with_reducible assumption
    | intro (_h : Kept _ _ _)
    | intro y
    | decide
    | with_reducible apply hf
    | with_reducible apply Kept.ite
    | with_reducible apply Kept.ite₂
    | with_reducible apply Kept.ite₃
    | with_reducible apply Kept.iteW
    | with_reducible apply Kept.foldl
    | with_reducible apply Kept.foldl₂
    | with_reducible apply Kept.foldl₃
    | with_reducible refine Kept.of_snd (by assumption) ?_
    | with_reducible refine Kept.of_done (by assumption) ?_
    | with_reducible refine Kept.of_fault (by assumption) ?_
    | with_reducible refine Kept.of_wait (by assumption) ?_
    | with_reducible refine Kept.of_thd (by assumption) ?_
    | split
    | (with_reducible apply Kept.step; (on_goal 2 => with_reducible apply Kept.set_copies))

theorem askCopyPart_kept (ctx : ℕ) (q : ℕ) (d : Desc) (s : State) (p : ℕ × ℕ) :
    Kept [.nextId, .regs, .hostReads, .copies] s (askCopyPart ctx q d s p) := by
  unfold askCopyPart
  repeat' first
    | with_reducible exact Kept.refl _ _
    | with_reducible assumption
    | intro (_h : Kept _ _ _)
    | ((try lift_lets); intro x; refine (have hx : Kept [.nextId, .regs, .hostReads, .copies] s x := ?_; ?_); (on_goal 1 => subst x); (on_goal 2 => clear_value x))
    | ((try lift_lets); intro x; clear_value x)
    | intro y
    | decide
    | with_reducible apply hf
    | (with_reducible apply Kept.step; (on_goal 2 => first
        | with_reducible apply State.addrError_kept
        | with_reducible apply State.askHost_kept
        | with_reducible apply State.modCopy_kept))
    | with_reducible apply Kept.ite
    | (split; rename_i heq; refine (have hx : Kept [.nextId, .regs, .hostReads, .copies] s _ := Kept.of_snd heq ?_; ?_); (on_goal 2 => clear heq))
    | (split; rename_i heq; refine (have hx : Kept [.nextId, .regs, .hostReads, .copies] s _ := Kept.of_thd heq ?_; ?_); (on_goal 2 => clear heq))

theorem pumpCopy_kept (s : State) (ctx : ℕ) (q : ℕ) (d : Desc) :
    Kept [.nextId, .regs, .mem, .poison, .hostMem, .mortar, .errLog, .errOverflow, .ctxs, .joints, .kv, .hostReads, .copies, .links, .conts, .msix, .msixSent, .regPosted] s (pumpCopy s ctx q d) := by
  unfold pumpCopy
  repeat' first
    | with_reducible exact Kept.refl _ _
    | with_reducible assumption
    | intro (_h : Kept _ _ _)
    | ((try lift_lets); intro x; refine (have hx : Kept [.nextId, .regs, .mem, .poison, .hostMem, .mortar, .errLog, .errOverflow, .ctxs, .joints, .kv, .hostReads, .copies, .links, .conts, .msix, .msixSent, .regPosted] s x := ?_; ?_); (on_goal 1 => subst x); (on_goal 2 => clear_value x))
    | ((try lift_lets); intro x; clear_value x)
    | intro y
    | decide
    | with_reducible apply hf
    | (with_reducible apply Kept.step; (on_goal 2 => first
        | with_reducible apply kvDone_kept
        | with_reducible apply endCopy_kept
        | with_reducible apply askCopyPart_kept))
    | with_reducible apply Kept.ite
    | with_reducible apply Kept.ite₂
    | with_reducible apply Kept.ite₃
    | with_reducible apply Kept.iteW
    | with_reducible apply Kept.foldl
    | with_reducible apply Kept.foldl₂
    | with_reducible apply Kept.foldl₃
    | with_reducible refine Kept.of_snd (by assumption) ?_
    | with_reducible refine Kept.of_done (by assumption) ?_
    | with_reducible refine Kept.of_fault (by assumption) ?_
    | with_reducible refine Kept.of_wait (by assumption) ?_
    | with_reducible refine Kept.of_thd (by assumption) ?_
    | split
    | (with_reducible apply Kept.step; (on_goal 2 => with_reducible apply Kept.set_copies))

theorem landCopyPart_kept (s : State) (ctx : ℕ) (q : ℕ) (abs : ℕ) (off : ℕ) (data : List Byte) (failed : Bool) :
    Kept [.nextId, .regs, .mem, .poison, .hostMem, .time, .mortar, .errLog, .errOverflow, .ctxs, .joints, .kv, .hostReads, .copies, .links, .conts, .msix, .msixSent, .regPosted] s (landCopyPart s ctx q abs off data failed) := by
  unfold landCopyPart
  repeat' first
    | with_reducible exact Kept.refl _ _
    | with_reducible assumption
    | intro (_h : Kept _ _ _)
    | ((try lift_lets); intro x; clear_value x)
    | intro y
    | decide
    | with_reducible apply hf
    | (with_reducible apply Kept.step; (on_goal 2 => first
        | with_reducible apply agentWrite_kept
        | with_reducible apply breakForData_kept
        | with_reducible apply State.modCopy_kept
        | with_reducible apply pumpCopy_kept))
    | with_reducible apply Kept.ite
    | with_reducible apply Kept.ite₂
    | with_reducible apply Kept.ite₃
    | with_reducible apply Kept.iteW
    | with_reducible apply Kept.foldl
    | with_reducible apply Kept.foldl₂
    | with_reducible apply Kept.foldl₃
    | with_reducible refine Kept.of_snd (by assumption) ?_
    | with_reducible refine Kept.of_done (by assumption) ?_
    | with_reducible refine Kept.of_fault (by assumption) ?_
    | with_reducible refine Kept.of_wait (by assumption) ?_
    | with_reducible refine Kept.of_thd (by assumption) ?_
    | split

theorem startCopy_kept (s : State) (ctx : ℕ) (q : ℕ) (d : Desc) :
    Kept [.nextId, .regs, .mem, .poison, .hostMem, .time, .mortar, .errLog, .errOverflow, .ctxs, .joints, .kv, .hostReads, .copies, .links, .conts, .msix, .msixSent, .regPosted] s (startCopy s ctx q d) := by
  unfold startCopy
  repeat' first
    | with_reducible exact Kept.refl _ _
    | with_reducible assumption
    | intro (_h : Kept _ _ _)
    | ((try lift_lets); intro x; clear_value x)
    | intro y
    | decide
    | with_reducible apply hf
    | (with_reducible apply Kept.step; (on_goal 2 => first
        | with_reducible apply State.startDesc_kept
        | with_reducible apply kvUse_kept
        | with_reducible apply runCopy_kept
        | with_reducible apply pumpCopy_kept))
    | with_reducible apply Kept.ite
    | with_reducible apply Kept.ite₂
    | with_reducible apply Kept.ite₃
    | with_reducible apply Kept.iteW
    | with_reducible apply Kept.foldl
    | with_reducible apply Kept.foldl₂
    | with_reducible apply Kept.foldl₃
    | with_reducible refine Kept.of_snd (by assumption) ?_
    | with_reducible refine Kept.of_done (by assumption) ?_
    | with_reducible refine Kept.of_fault (by assumption) ?_
    | with_reducible refine Kept.of_wait (by assumption) ?_
    | with_reducible refine Kept.of_thd (by assumption) ?_
    | split
    | (with_reducible apply Kept.step; (on_goal 2 => with_reducible apply Kept.set_copies))

theorem stopLaunches_kept (s : State) (ctx : ℕ) :
    Kept [.regs, .mem, .poison, .hostMem, .time, .tiles, .mortar, .errLog, .errOverflow, .ctxs, .launches, .joints, .kv, .links, .conts, .msix, .msixSent, .regPosted] s (stopLaunches s ctx) := by
  unfold stopLaunches
  repeat' first
    | with_reducible exact Kept.refl _ _
    | with_reducible assumption
    | intro (_h : Kept _ _ _)
    | ((try lift_lets); intro x; refine (have hx : Kept [.regs, .mem, .poison, .hostMem, .time, .tiles, .mortar, .errLog, .errOverflow, .ctxs, .launches, .joints, .kv, .links, .conts, .msix, .msixSent, .regPosted] s x := ?_; ?_); (on_goal 1 => subst x); (on_goal 2 => clear_value x))
    | ((try lift_lets); intro x; clear_value x)
    | intro y
    | decide
    | with_reducible apply hf
    | (with_reducible apply Kept.step; (on_goal 2 => first
        | with_reducible apply finishDesc_kept
        | with_reducible apply tileStop_kept))
    | with_reducible apply Kept.ite
    | with_reducible apply Kept.ite₂
    | with_reducible apply Kept.ite₃
    | with_reducible apply Kept.iteW
    | with_reducible apply Kept.foldl
    | with_reducible apply Kept.foldl₂
    | with_reducible apply Kept.foldl₃
    | with_reducible refine Kept.of_snd (by assumption) ?_
    | with_reducible refine Kept.of_done (by assumption) ?_
    | with_reducible refine Kept.of_fault (by assumption) ?_
    | with_reducible refine Kept.of_wait (by assumption) ?_
    | with_reducible refine Kept.of_thd (by assumption) ?_
    | split
    | (with_reducible apply Kept.step; (on_goal 2 => with_reducible apply Kept.set_launches))

theorem releaseFence_kept (s : State) (ctx : ℕ) (q : ℕ) (d : Desc) :
    Kept [.regs, .mem, .poison, .hostMem, .mortar, .errLog, .errOverflow, .ctxs, .joints, .links, .conts, .msix, .msixSent, .regPosted] s (releaseFence s ctx q d) := by
  unfold releaseFence
  repeat' first
    | with_reducible exact Kept.refl _ _
    | with_reducible assumption
    | intro (_h : Kept _ _ _)
    | ((try lift_lets); intro x; clear_value x)
    | intro y
    | decide
    | with_reducible apply hf
    | (with_reducible apply Kept.step; (on_goal 2 => first
        | with_reducible apply agentWriteAll_kept
        | with_reducible apply finishDesc_kept
        | with_reducible apply jointAddFor_kept))
    | with_reducible apply Kept.ite
    | with_reducible apply Kept.ite₂
    | (split; rename_i heq; refine (have hx : Kept [.regs, .mem, .poison, .hostMem, .mortar, .errLog, .errOverflow, .ctxs, .joints, .links, .conts, .msix, .msixSent, .regPosted] s _ := Kept.of_snd heq ?_; ?_); (on_goal 2 => clear heq))
    | (split; rename_i heq; refine (have hx : Kept [.regs, .mem, .poison, .hostMem, .mortar, .errLog, .errOverflow, .ctxs, .joints, .links, .conts, .msix, .msixSent, .regPosted] s _ := Kept.of_thd heq ?_; ?_); (on_goal 2 => clear heq))

end Sys2Proof.Machine
end

