-- ==== Sys2Proof/Laws/FrameVector.lean ====
section
/-! SUPPORT. Frames of the operations of Machine/Vector.lean. -/

namespace Sys2Proof.Machine

theorem elementWord_kept (op : ℕ) (s : State) (t : ℕ) (w : CWord) :
    Kept [.tiles] s (elementWord op s t w).state := by
  unfold elementWord
  repeat' first
    | with_reducible exact Kept.refl _ _
    | with_reducible assumption
    | intro (_h : Kept _ _ _)
    | ((try lift_lets); intro x; clear_value x)
    | intro y
    | decide
    | with_reducible apply hf
    | (with_reducible apply Kept.step; (on_goal 2 => with_reducible apply State.modTile_kept))
    | with_reducible apply Kept.ite
    | with_reducible apply Kept.ite₂
    | with_reducible apply Kept.ite₃
    | with_reducible apply Kept.iteW
    | (split; rename_i heq; refine (have hx : Kept [.tiles] s _ := Kept.of_snd heq ?_; ?_); (on_goal 2 => clear heq))
    | (split; rename_i heq; refine (have hx : Kept [.tiles] s _ := Kept.of_thd heq ?_; ?_); (on_goal 2 => clear heq))

theorem vcmpWord_kept (s : State) (t : ℕ) (w : CWord) :
    Kept [.tiles] s (vcmpWord s t w).state := by
  unfold vcmpWord
  repeat' first
    | with_reducible exact Kept.refl _ _
    | with_reducible assumption
    | intro (_h : Kept _ _ _)
    | ((try lift_lets); intro x; clear_value x)
    | intro y
    | decide
    | with_reducible apply hf
    | (with_reducible apply Kept.step; (on_goal 2 => with_reducible apply State.modTile_kept))
    | with_reducible apply Kept.ite
    | with_reducible apply Kept.ite₂
    | with_reducible apply Kept.ite₃
    | with_reducible apply Kept.iteW
    | (split; rename_i heq; refine (have hx : Kept [.tiles] s _ := Kept.of_snd heq ?_; ?_); (on_goal 2 => clear heq))
    | (split; rename_i heq; refine (have hx : Kept [.tiles] s _ := Kept.of_thd heq ?_; ?_); (on_goal 2 => clear heq))

theorem vselWord_kept (s : State) (t : ℕ) (w : CWord) :
    Kept [.tiles] s (vselWord s t w).state := by
  unfold vselWord
  repeat' first
    | with_reducible exact Kept.refl _ _
    | with_reducible assumption
    | intro (_h : Kept _ _ _)
    | ((try lift_lets); intro x; clear_value x)
    | intro y
    | decide
    | with_reducible apply hf
    | (with_reducible apply Kept.step; (on_goal 2 => with_reducible apply State.modTile_kept))
    | with_reducible apply Kept.ite
    | with_reducible apply Kept.ite₂
    | with_reducible apply Kept.ite₃
    | with_reducible apply Kept.iteW
    | (split; rename_i heq; refine (have hx : Kept [.tiles] s _ := Kept.of_snd heq ?_; ?_); (on_goal 2 => clear heq))
    | (split; rename_i heq; refine (have hx : Kept [.tiles] s _ := Kept.of_thd heq ?_; ?_); (on_goal 2 => clear heq))

theorem vldWord_kept (s : State) (t : ℕ) (w : CWord) :
    Kept [.tiles] s (vldWord s t w).state := by
  unfold vldWord
  repeat' first
    | with_reducible exact Kept.refl _ _
    | with_reducible assumption
    | intro (_h : Kept _ _ _)
    | ((try lift_lets); intro x; clear_value x)
    | intro y
    | decide
    | with_reducible apply hf
    | (with_reducible apply Kept.step; (on_goal 2 => with_reducible apply State.modTile_kept))
    | with_reducible apply Kept.ite
    | with_reducible apply Kept.ite₂
    | with_reducible apply Kept.ite₃
    | with_reducible apply Kept.iteW
    | with_reducible apply Kept.foldl
    | with_reducible apply Kept.foldl₂
    | with_reducible apply Kept.foldl₃
    | with_reducible refine Kept.of_snd (by assumption) ?_
    | with_reducible refine Kept.of_done (by assumption) ?_
    | with_reducible refine Kept.of_fault (by assumption) ?_
    | with_reducible refine Kept.of_wait (by assumption) ?_
    | with_reducible refine Kept.of_thd (by assumption) ?_
    | split

theorem vstWord_kept (s : State) (t : Nat) (w : CWord) : Kept [.mem] s (vstWord s t w).state := by
  have hf (n k : Nat) (x : Tile) (l : List Nat) (acc : State × Nat) (h : Kept [.mem] s acc.1) :
      Kept [.mem] s (l.foldl (fun (acc : State × Nat) l =>
        if bitAt (x.vmask (vMask w)) l then
          (let (v, f) := storeLane x w l (lane (x.vreg (vVA w)) n l)
           (acc.1.setScratch t (vAddr x w + k * l) (leBytes k v), acc.2 ||| f))
        else acc) acc).1 := by
    induction l generalizing acc with
    | nil => exact h
    | cons a l ih =>
      refine ih _ ?_
      dsimp only
      by_cases hb : bitAt (x.vmask (vMask w)) a = true
      · rw [if_pos hb]; exact h.step (State.setScratch_kept _ _ _ _) (by decide)
      · rw [if_neg hb]; exact h
  unfold vstWord
  lift_lets
  intro x
  split
  · exact Kept.refl _ _
  · exact hf _ _ _ _ _ (Kept.refl _ _)

theorem vscanWord_kept (s : State) (t : ℕ) (w : CWord) :
    Kept [.tiles] s (vscanWord s t w).state := by
  unfold vscanWord
  repeat' first
    | with_reducible exact Kept.refl _ _
    | with_reducible assumption
    | intro (_h : Kept _ _ _)
    | ((try lift_lets); intro x; clear_value x)
    | intro y
    | decide
    | with_reducible apply hf
    | (with_reducible apply Kept.step; (on_goal 2 => with_reducible apply State.modTile_kept))
    | with_reducible apply Kept.ite
    | with_reducible apply Kept.ite₂
    | with_reducible apply Kept.ite₃
    | with_reducible apply Kept.iteW
    | (split; rename_i heq; refine (have hx : Kept [.tiles] s _ := Kept.of_snd heq ?_; ?_); (on_goal 2 => clear heq))
    | (split; rename_i heq; refine (have hx : Kept [.tiles] s _ := Kept.of_thd heq ?_; ?_); (on_goal 2 => clear heq))

theorem vredWord_kept (s : State) (t : ℕ) (w : CWord) :
    Kept [.tiles] s (vredWord s t w).state := by
  unfold vredWord
  repeat' first
    | with_reducible exact Kept.refl _ _
    | with_reducible assumption
    | intro (_h : Kept _ _ _)
    | ((try lift_lets); intro x; clear_value x)
    | intro y
    | decide
    | with_reducible apply hf
    | (with_reducible apply Kept.step; (on_goal 2 => with_reducible apply State.modTile_kept))
    | with_reducible apply Kept.ite
    | with_reducible apply Kept.ite₂
    | with_reducible apply Kept.ite₃
    | with_reducible apply Kept.iteW
    | (split; rename_i heq; refine (have hx : Kept [.tiles] s _ := Kept.of_snd heq ?_; ?_); (on_goal 2 => clear heq))
    | (split; rename_i heq; refine (have hx : Kept [.tiles] s _ := Kept.of_thd heq ?_; ?_); (on_goal 2 => clear heq))

theorem vbrcWord_kept (s : State) (t : ℕ) (w : CWord) :
    Kept [.tiles] s (vbrcWord s t w).state := by
  unfold vbrcWord
  repeat' first
    | with_reducible exact Kept.refl _ _
    | with_reducible assumption
    | intro (_h : Kept _ _ _)
    | ((try lift_lets); intro x; clear_value x)
    | intro y
    | decide
    | with_reducible apply hf
    | (with_reducible apply Kept.step; (on_goal 2 => with_reducible apply State.modTile_kept))
    | with_reducible apply Kept.ite
    | with_reducible apply Kept.ite₂
    | with_reducible apply Kept.ite₃
    | with_reducible apply Kept.iteW
    | (split; rename_i heq; refine (have hx : Kept [.tiles] s _ := Kept.of_snd heq ?_; ?_); (on_goal 2 => clear heq))
    | (split; rename_i heq; refine (have hx : Kept [.tiles] s _ := Kept.of_thd heq ?_; ?_); (on_goal 2 => clear heq))

theorem vstatWord_kept (s : State) (t : ℕ) (w : CWord) :
    Kept [.tiles] s (vstatWord s t w).state := by
  unfold vstatWord
  repeat' first
    | with_reducible exact Kept.refl _ _
    | with_reducible assumption
    | intro (_h : Kept _ _ _)
    | ((try lift_lets); intro x; clear_value x)
    | intro y
    | decide
    | with_reducible apply hf
    | (with_reducible apply Kept.step; (on_goal 2 => with_reducible apply State.modTile_kept))
    | with_reducible apply Kept.ite
    | with_reducible apply Kept.ite₂
    | with_reducible apply Kept.ite₃
    | with_reducible apply Kept.iteW
    | (split; rename_i heq; refine (have hx : Kept [.tiles] s _ := Kept.of_snd heq ?_; ?_); (on_goal 2 => clear heq))
    | (split; rename_i heq; refine (have hx : Kept [.tiles] s _ := Kept.of_thd heq ?_; ?_); (on_goal 2 => clear heq))

theorem vstatfWord_kept (s : State) (t : ℕ) (w : CWord) :
    Kept [.regs, .tiles] s (vstatfWord s t w).state := by
  unfold vstatfWord
  repeat' first
    | with_reducible exact Kept.refl _ _
    | with_reducible assumption
    | intro (_h : Kept _ _ _)
    | ((try lift_lets); intro x; refine (have hx : Kept [.regs, .tiles] s x := ?_; ?_); (on_goal 1 => subst x); (on_goal 2 => clear_value x))
    | ((try lift_lets); intro x; clear_value x)
    | intro y
    | decide
    | with_reducible apply hf
    | (with_reducible apply Kept.step; (on_goal 2 => first
        | with_reducible apply State.bump_kept
        | with_reducible apply State.modTile_kept))
    | with_reducible apply Kept.ite
    | with_reducible apply Kept.ite₂
    | with_reducible apply Kept.ite₃
    | with_reducible apply Kept.iteW
    | (split; rename_i heq; refine (have hx : Kept [.regs, .tiles] s _ := Kept.of_snd heq ?_; ?_); (on_goal 2 => clear heq))
    | (split; rename_i heq; refine (have hx : Kept [.regs, .tiles] s _ := Kept.of_thd heq ?_; ?_); (on_goal 2 => clear heq))

theorem vmovsWord_kept (s : State) (t : ℕ) (w : CWord) :
    Kept [.tiles] s (vmovsWord s t w).state := by
  unfold vmovsWord
  repeat' first
    | with_reducible exact Kept.refl _ _
    | with_reducible assumption
    | intro (_h : Kept _ _ _)
    | ((try lift_lets); intro x; clear_value x)
    | intro y
    | decide
    | with_reducible apply hf
    | (with_reducible apply Kept.step; (on_goal 2 => with_reducible apply State.modTile_kept))
    | with_reducible apply Kept.ite
    | with_reducible apply Kept.ite₂
    | with_reducible apply Kept.ite₃
    | with_reducible apply Kept.iteW
    | (split; rename_i heq; refine (have hx : Kept [.tiles] s _ := Kept.of_snd heq ?_; ?_); (on_goal 2 => clear heq))
    | (split; rename_i heq; refine (have hx : Kept [.tiles] s _ := Kept.of_thd heq ?_; ?_); (on_goal 2 => clear heq))

end Sys2Proof.Machine
end

