-- ==== Sys2Proof/Laws/FrameSfu.lean ====
section
/-! SUPPORT. Frames of the operations of Machine/Sfu.lean. -/

namespace Sys2Proof.Machine

theorem funcWord_kept (s : State) (t : ℕ) (w : CWord) (g : Tile → ℕ → Option (Word × ℕ)) :
    Kept [.tiles] s (funcWord s t w g).state := by
  unfold funcWord
  repeat' first
    | with_reducible exact Kept.refl _ _
    | with_reducible assumption
    | intro (_h : Kept _ _ _)
    | ((try lift_lets); intro x; clear_value x)
    | intro y
    | decide
    | with_reducible apply hf
    | (with_reducible apply Kept.step; (on_goal 2 => with_reducible apply State.setTile_kept))
    | with_reducible apply Kept.ite
    | with_reducible apply Kept.ite₂
    | with_reducible apply Kept.ite₃
    | with_reducible apply Kept.iteW
    | with_reducible apply Kept.foldl
    | with_reducible apply Kept.foldl₂
    | with_reducible apply Kept.foldl₃
    | with_reducible refine Kept.of_snd (by assumption) ?_
    | with_reducible refine Kept.of_done (by assumption) ?_
    | with_reducible refine Kept.of_fault (by assumption) ?_
    | with_reducible refine Kept.of_wait (by assumption) ?_
    | with_reducible refine Kept.of_thd (by assumption) ?_
    | split

theorem sfevalWord_kept (s : State) (t : ℕ) (w : CWord) :
    Kept [.tiles] s (sfevalWord s t w).state := by
  unfold sfevalWord
  repeat' first
    | with_reducible exact Kept.refl _ _
    | with_reducible assumption
    | intro (_h : Kept _ _ _)
    | intro y
    | decide
    | with_reducible apply hf
    | (with_reducible apply Kept.step; (on_goal 2 => with_reducible apply funcWord_kept))
    | (split; rename_i heq; refine (have hx : Kept [.tiles] s _ := Kept.of_snd heq ?_; ?_); (on_goal 2 => clear heq))
    | (split; rename_i heq; refine (have hx : Kept [.tiles] s _ := Kept.of_thd heq ?_; ?_); (on_goal 2 => clear heq))

theorem sfbasWord_kept (s : State) (t : ℕ) (w : CWord) :
    Kept [.tiles] s (sfbasWord s t w).state := by
  unfold sfbasWord
  repeat' first
    | with_reducible exact Kept.refl _ _
    | with_reducible assumption
    | intro (_h : Kept _ _ _)
    | intro y
    | decide
    | with_reducible apply hf
    | (with_reducible apply Kept.step; (on_goal 2 => with_reducible apply funcWord_kept))
    | with_reducible apply Kept.ite
    | with_reducible apply Kept.ite₂
    | with_reducible apply Kept.ite₃
    | with_reducible apply Kept.iteW
    | (split; rename_i heq; refine (have hx : Kept [.tiles] s _ := Kept.of_snd heq ?_; ?_); (on_goal 2 => clear heq))
    | (split; rename_i heq; refine (have hx : Kept [.tiles] s _ := Kept.of_thd heq ?_; ?_); (on_goal 2 => clear heq))

theorem sfsincosWord_kept (s : State) (t : ℕ) (w : CWord) :
    Kept [.tiles] s (sfsincosWord s t w).state := by
  unfold sfsincosWord
  repeat' first
    | with_reducible exact Kept.refl _ _
    | with_reducible assumption
    | intro (_h : Kept _ _ _)
    | ((try lift_lets); intro x; clear_value x)
    | intro y
    | decide
    | with_reducible apply hf
    | (with_reducible apply Kept.step; (on_goal 2 => with_reducible apply State.setTile_kept))
    | with_reducible apply Kept.ite
    | with_reducible apply Kept.ite₂
    | with_reducible apply Kept.ite₃
    | with_reducible apply Kept.iteW
    | (split; rename_i heq; refine (have hx : Kept [.tiles] s _ := Kept.of_snd heq ?_; ?_); (on_goal 2 => clear heq))
    | (split; rename_i heq; refine (have hx : Kept [.tiles] s _ := Kept.of_thd heq ?_; ?_); (on_goal 2 => clear heq))

theorem sfnssWord_kept (s : State) (t : ℕ) (w : CWord) :
    Kept [.tiles] s (sfnssWord s t w).state := by
  unfold sfnssWord
  repeat' first
    | with_reducible exact Kept.refl _ _
    | with_reducible assumption
    | intro (_h : Kept _ _ _)
    | ((try lift_lets); intro x; clear_value x)
    | intro y
    | decide
    | with_reducible apply hf
    | (with_reducible apply Kept.step; (on_goal 2 => with_reducible apply State.setTile_kept))
    | with_reducible apply Kept.ite
    | with_reducible apply Kept.ite₂
    | with_reducible apply Kept.ite₃
    | with_reducible apply Kept.iteW
    | (split; rename_i heq; refine (have hx : Kept [.tiles] s _ := Kept.of_snd heq ?_; ?_); (on_goal 2 => clear heq))
    | (split; rename_i heq; refine (have hx : Kept [.tiles] s _ := Kept.of_thd heq ?_; ?_); (on_goal 2 => clear heq))

theorem sfloadWord_kept (s : State) (t : ℕ) (w : CWord) :
    Kept [.tiles] s (sfloadWord s t w).state := by
  unfold sfloadWord
  repeat' first
    | with_reducible exact Kept.refl _ _
    | with_reducible assumption
    | intro (_h : Kept _ _ _)
    | ((try lift_lets); intro x; clear_value x)
    | intro y
    | decide
    | with_reducible apply hf
    | (with_reducible apply Kept.step; (on_goal 2 => with_reducible apply State.modTile_kept))
    | with_reducible apply Kept.ite
    | with_reducible apply Kept.ite₂
    | with_reducible apply Kept.ite₃
    | with_reducible apply Kept.iteW
    | (split; rename_i heq; refine (have hx : Kept [.tiles] s _ := Kept.of_snd heq ?_; ?_); (on_goal 2 => clear heq))
    | (split; rename_i heq; refine (have hx : Kept [.tiles] s _ := Kept.of_thd heq ?_; ?_); (on_goal 2 => clear heq))

theorem sfswapWord_kept (s : State) (t : ℕ) (x2 : CWord) :
    Kept [.tiles] s (sfswapWord s t x2).state := by
  unfold sfswapWord
  repeat' first
    | with_reducible exact Kept.refl _ _
    | with_reducible assumption
    | intro (_h : Kept _ _ _)
    | intro y
    | decide
    | with_reducible apply hf
    | (with_reducible apply Kept.step; (on_goal 2 => with_reducible apply State.modTile_kept))
    | (split; rename_i heq; refine (have hx : Kept [.tiles] s _ := Kept.of_snd heq ?_; ?_); (on_goal 2 => clear heq))
    | (split; rename_i heq; refine (have hx : Kept [.tiles] s _ := Kept.of_thd heq ?_; ?_); (on_goal 2 => clear heq))

theorem sfprogWord_kept (s : State) (t : ℕ) (w : CWord) :
    Kept [.tiles] s (sfprogWord s t w).state := by
  unfold sfprogWord
  repeat' first
    | with_reducible exact Kept.refl _ _
    | with_reducible assumption
    | intro (_h : Kept _ _ _)
    | ((try lift_lets); intro x; clear_value x)
    | intro y
    | decide
    | with_reducible apply hf
    | (with_reducible apply Kept.step; (on_goal 2 => with_reducible apply State.modTile_kept))
    | with_reducible apply Kept.ite
    | with_reducible apply Kept.ite₂
    | with_reducible apply Kept.ite₃
    | with_reducible apply Kept.iteW
    | (split; rename_i heq; refine (have hx : Kept [.tiles] s _ := Kept.of_snd heq ?_; ?_); (on_goal 2 => clear heq))
    | (split; rename_i heq; refine (have hx : Kept [.tiles] s _ := Kept.of_thd heq ?_; ?_); (on_goal 2 => clear heq))

end Sys2Proof.Machine
end

