-- ==== Sys2Proof/Laws/FrameKv.lean ====
section
/-! SUPPORT. Frames of the operations of Machine/Kv.lean. -/

namespace Sys2Proof.Machine

theorem kvRespond_kept (s : State) (c : KvCmd) (r : KvResp) :
    Kept [.regs, .mem, .poison, .hostMem, .mortar, .errLog, .errOverflow, .ctxs, .joints, .links, .conts, .regPosted] s (kvRespond s c r) := by
  unfold kvRespond
  repeat' first
    | with_reducible exact Kept.refl _ _
    | with_reducible assumption
    | intro (_h : Kept _ _ _)
    | intro y
    | decide
    | with_reducible apply hf
    | (with_reducible apply Kept.step; (on_goal 2 => first
        | with_reducible apply agentWriteAll_kept
        | with_reducible apply jointAddFor_kept))
    | with_reducible apply Kept.ite
    | (split; rename_i heq; refine (have hx : Kept [.regs, .mem, .poison, .hostMem, .mortar, .errLog, .errOverflow, .ctxs, .joints, .links, .conts, .regPosted] s _ := Kept.of_snd heq ?_; ?_); (on_goal 2 => clear heq))
    | (split; rename_i heq; refine (have hx : Kept [.regs, .mem, .poison, .hostMem, .mortar, .errLog, .errOverflow, .ctxs, .joints, .links, .conts, .regPosted] s _ := Kept.of_thd heq ?_; ?_); (on_goal 2 => clear heq))

theorem kvRun_kept (s : State) (c : KvCmd) (k : State → KvResp × State) {kps : List Part} {s0 : State} (hm : partsIn [.regs, .mem, .poison, .hostMem, .mortar, .errLog, .errOverflow, .ctxs, .joints, .links, .conts, .regPosted] kps = true) (h0 : Kept kps s0 s) (hk : ∀ y0, Kept kps s0 y0 → Kept kps s0 (k y0).2) :
    Kept kps s0 (kvRun s c k) := by
  unfold kvRun
  repeat' first
    | with_reducible exact Kept.refl _ _
    | with_reducible assumption
    | intro (_h : Kept _ _ _)
    | intro y
    | exact partsIn_trans (by decide) hm
    | with_reducible apply hk
    | with_reducible apply hf
    | (with_reducible apply Kept.step; (on_goal 2 => first
        | with_reducible apply State.addrError_kept
        | with_reducible apply kvRespond_kept))
    | with_reducible apply Kept.ite
    | (split; rename_i heq; refine (have hx : Kept kps s0 _ := Kept.of_snd heq ?_; ?_); (on_goal 2 => clear heq))
    | (split; rename_i heq; refine (have hx : Kept kps s0 _ := Kept.of_thd heq ?_; ?_); (on_goal 2 => clear heq))

theorem kvOnPage_kept (c : KvCmd) (k : State → Page → KvResp × State) (s : State) {kps : List Part} {s0 : State} (hm : partsIn [] kps = true) (h0 : Kept kps s0 s) (hk : ∀ y0 y1, Kept kps s0 y0 → Kept kps s0 (k y0 y1).2) :
    Kept kps s0 (kvOnPage c k s).2 := by
  unfold kvOnPage
  repeat' first
    | with_reducible exact Kept.refl _ _
    | with_reducible assumption
    | intro (_h : Kept _ _ _)
    | ((try lift_lets); intro x; clear_value x)
    | intro y
    | exact partsIn_trans (by decide) hm
    | with_reducible apply hk
    | with_reducible apply hf
    | with_reducible apply Kept.ite
    | with_reducible apply Kept.ite₂
    | (split; rename_i heq; refine (have hx : Kept kps s0 _ := Kept.of_snd heq ?_; ?_); (on_goal 2 => clear heq))
    | (split; rename_i heq; refine (have hx : Kept kps s0 _ := Kept.of_thd heq ?_; ?_); (on_goal 2 => clear heq))

theorem State.undefineMeta_kept (s : State) (first : ℕ) (n : ℕ) :
    Kept [.freeCtr, .mem, .poison] s (State.undefineMeta s first n) := by
  unfold State.undefineMeta
  repeat' first
    | with_reducible exact Kept.refl _ _
    | with_reducible assumption
    | intro (_h : Kept _ _ _)
    | ((try lift_lets); intro x; clear_value x)
    | intro y
    | decide
    | with_reducible apply hf
    | (with_reducible apply Kept.step; (on_goal 2 => with_reducible apply State.undefine_kept))
    | with_reducible apply Kept.ite
    | (split; rename_i heq; refine (have hx : Kept [.freeCtr, .mem, .poison] s _ := Kept.of_snd heq ?_; ?_); (on_goal 2 => clear heq))
    | (split; rename_i heq; refine (have hx : Kept [.freeCtr, .mem, .poison] s _ := Kept.of_thd heq ?_; ?_); (on_goal 2 => clear heq))

theorem State.kvSetPage_kept (s : State) (i : ℕ) (p : Page) :
    Kept [.freeCtr, .mem, .poison, .kv] s (State.kvSetPage s i p) := by
  unfold State.kvSetPage
  repeat' first
    | with_reducible exact Kept.refl _ _
    | with_reducible assumption
    | intro (_h : Kept _ _ _)
    | intro y
    | decide
    | with_reducible apply hf
    | (with_reducible apply Kept.step; (on_goal 2 => first
        | with_reducible apply State.setPage_kept
        | with_reducible apply State.undefineMeta_kept))
    | (split; rename_i heq; refine (have hx : Kept [.freeCtr, .mem, .poison, .kv] s _ := Kept.of_snd heq ?_; ?_); (on_goal 2 => clear heq))
    | (split; rename_i heq; refine (have hx : Kept [.freeCtr, .mem, .poison, .kv] s _ := Kept.of_thd heq ?_; ?_); (on_goal 2 => clear heq))

theorem State.putPage_kept (s : State) (i : ℕ) (p : Page) :
    Kept [.freeCtr, .mem, .poison, .kv] s (State.putPage s i p) := by
  unfold State.putPage
  repeat' first
    | with_reducible exact Kept.refl _ _
    | with_reducible assumption
    | intro (_h : Kept _ _ _)
    | ((try lift_lets); intro x; refine (have hx : Kept [.freeCtr, .mem, .poison, .kv] s x := ?_; ?_); (on_goal 1 => subst x); (on_goal 2 => clear_value x))
    | ((try lift_lets); intro x; clear_value x)
    | intro y
    | decide
    | with_reducible apply hf
    | (with_reducible apply Kept.step; (on_goal 2 => with_reducible apply State.kvSetPage_kept))
    | with_reducible apply Kept.ite
    | with_reducible apply Kept.ite₂
    | with_reducible apply Kept.ite₃
    | with_reducible apply Kept.iteW
    | with_reducible apply Kept.foldl
    | with_reducible apply Kept.foldl₂
    | with_reducible apply Kept.foldl₃
    | with_reducible refine Kept.of_snd (by assumption) ?_
    | with_reducible refine Kept.of_done (by assumption) ?_
    | with_reducible refine Kept.of_fault (by assumption) ?_
    | with_reducible refine Kept.of_wait (by assumption) ?_
    | with_reducible refine Kept.of_thd (by assumption) ?_
    | split
    | (with_reducible apply Kept.step; (on_goal 2 => with_reducible apply Kept.set_kv))

theorem kvStore_kept (s : State) (c : KvCmd) (p : Page) :
    Kept [.freeCtr, .mem, .poison, .kv] s (kvStore s c p).2 := by
  unfold kvStore
  repeat' first
    | with_reducible exact Kept.refl _ _
    | with_reducible assumption
    | intro (_h : Kept _ _ _)
    | intro y
    | decide
    | with_reducible apply hf
    | (with_reducible apply Kept.step; (on_goal 2 => with_reducible apply State.putPage_kept))
    | (split; rename_i heq; refine (have hx : Kept [.freeCtr, .mem, .poison, .kv] s _ := Kept.of_snd heq ?_; ?_); (on_goal 2 => clear heq))
    | (split; rename_i heq; refine (have hx : Kept [.freeCtr, .mem, .poison, .kv] s _ := Kept.of_thd heq ?_; ?_); (on_goal 2 => clear heq))

theorem kvPinOp_kept (s : State) (c : KvCmd) (p : Page) :
    Kept [.freeCtr, .mem, .poison, .kv] s (kvPinOp s c p).2 := by
  unfold kvPinOp
  repeat' first
    | with_reducible exact Kept.refl _ _
    | with_reducible assumption
    | intro (_h : Kept _ _ _)
    | intro y
    | decide
    | with_reducible apply hf
    | (with_reducible apply Kept.step; (on_goal 2 => with_reducible apply kvStore_kept))
    | with_reducible apply Kept.ite
    | with_reducible apply Kept.ite₂
    | (split; rename_i heq; refine (have hx : Kept [.freeCtr, .mem, .poison, .kv] s _ := Kept.of_snd heq ?_; ?_); (on_goal 2 => clear heq))
    | (split; rename_i heq; refine (have hx : Kept [.freeCtr, .mem, .poison, .kv] s _ := Kept.of_thd heq ?_; ?_); (on_goal 2 => clear heq))

theorem kvUnpinOp_kept (s : State) (c : KvCmd) (p : Page) :
    Kept [.freeCtr, .mem, .poison, .kv] s (kvUnpinOp s c p).2 := by
  unfold kvUnpinOp
  repeat' first
    | with_reducible exact Kept.refl _ _
    | with_reducible assumption
    | intro (_h : Kept _ _ _)
    | intro y
    | decide
    | with_reducible apply hf
    | (with_reducible apply Kept.step; (on_goal 2 => with_reducible apply kvStore_kept))
    | with_reducible apply Kept.ite
    | with_reducible apply Kept.ite₂
    | (split; rename_i heq; refine (have hx : Kept [.freeCtr, .mem, .poison, .kv] s _ := Kept.of_snd heq ?_; ?_); (on_goal 2 => clear heq))
    | (split; rename_i heq; refine (have hx : Kept [.freeCtr, .mem, .poison, .kv] s _ := Kept.of_thd heq ?_; ?_); (on_goal 2 => clear heq))

theorem kvRefOp_kept (s : State) (c : KvCmd) (p : Page) :
    Kept [.freeCtr, .mem, .poison, .kv] s (kvRefOp s c p).2 := by
  unfold kvRefOp
  repeat' first
    | with_reducible exact Kept.refl _ _
    | with_reducible assumption
    | intro (_h : Kept _ _ _)
    | intro y
    | decide
    | with_reducible apply hf
    | (with_reducible apply Kept.step; (on_goal 2 => with_reducible apply kvStore_kept))
    | with_reducible apply Kept.ite
    | with_reducible apply Kept.ite₂
    | (split; rename_i heq; refine (have hx : Kept [.freeCtr, .mem, .poison, .kv] s _ := Kept.of_snd heq ?_; ?_); (on_goal 2 => clear heq))
    | (split; rename_i heq; refine (have hx : Kept [.freeCtr, .mem, .poison, .kv] s _ := Kept.of_thd heq ?_; ?_); (on_goal 2 => clear heq))

theorem kvUnrefOp_kept (s : State) (c : KvCmd) (p : Page) :
    Kept [.freeCtr, .mem, .poison, .kv] s (kvUnrefOp s c p).2 := by
  unfold kvUnrefOp
  repeat' first
    | with_reducible exact Kept.refl _ _
    | with_reducible assumption
    | intro (_h : Kept _ _ _)
    | intro y
    | decide
    | with_reducible apply hf
    | (with_reducible apply Kept.step; (on_goal 2 => with_reducible apply kvStore_kept))
    | with_reducible apply Kept.ite
    | with_reducible apply Kept.ite₂
    | (split; rename_i heq; refine (have hx : Kept [.freeCtr, .mem, .poison, .kv] s _ := Kept.of_snd heq ?_; ?_); (on_goal 2 => clear heq))
    | (split; rename_i heq; refine (have hx : Kept [.freeCtr, .mem, .poison, .kv] s _ := Kept.of_thd heq ?_; ?_); (on_goal 2 => clear heq))

theorem kvAllocOp_kept (c : KvCmd) (s : State) :
    Kept [.freeCtr, .mem, .poison, .kv] s (kvAllocOp c s).2 := by
  unfold kvAllocOp
  repeat' first
    | with_reducible exact Kept.refl _ _
    | with_reducible assumption
    | intro (_h : Kept _ _ _)
    | ((try lift_lets); intro x; clear_value x)
    | intro y
    | decide
    | with_reducible apply hf
    | (with_reducible apply Kept.step; (on_goal 2 => with_reducible apply State.kvSetPage_kept))
    | with_reducible apply Kept.ite
    | with_reducible apply Kept.ite₂
    | with_reducible apply Kept.ite₃
    | with_reducible apply Kept.iteW
    | with_reducible apply Kept.foldl
    | with_reducible apply Kept.foldl₂
    | with_reducible apply Kept.foldl₃
    | with_reducible refine Kept.of_snd (by assumption) ?_
    | with_reducible refine Kept.of_done (by assumption) ?_
    | with_reducible refine Kept.of_fault (by assumption) ?_
    | with_reducible refine Kept.of_wait (by assumption) ?_
    | with_reducible refine Kept.of_thd (by assumption) ?_
    | split

theorem kvWithKey_kept (c : KvCmd) (s : State) (k : State → List Byte → KvResp × State) {kps : List Part} {s0 : State} (hm : partsIn [.regs, .mortar, .errLog, .errOverflow, .ctxs] kps = true) (h0 : Kept kps s0 s) (hk : ∀ y0 y1, Kept kps s0 y0 → Kept kps s0 (k y0 y1).2) :
    Kept kps s0 (kvWithKey c s k).2 := by
  unfold kvWithKey
  repeat' first
    | with_reducible exact Kept.refl _ _
    | with_reducible assumption
    | intro (_h : Kept _ _ _)
    | intro y
    | exact partsIn_trans (by decide) hm
    | with_reducible apply hk
    | with_reducible apply hf
    | (with_reducible apply Kept.step; (on_goal 2 => with_reducible apply agentReadAll_kept))
    | with_reducible apply Kept.ite
    | with_reducible apply Kept.ite₂
    | (split; rename_i heq; refine (have hx : Kept kps s0 _ := Kept.of_snd heq ?_; ?_); (on_goal 2 => clear heq))
    | (split; rename_i heq; refine (have hx : Kept kps s0 _ := Kept.of_thd heq ?_; ?_); (on_goal 2 => clear heq))

theorem kvLookupOp_kept (c : KvCmd) (s : State) (key : List Byte) :
    Kept [.freeCtr, .regs, .mem, .poison, .kv] s (kvLookupOp c s key).2 := by
  unfold kvLookupOp
  repeat' first
    | with_reducible exact Kept.refl _ _
    | with_reducible assumption
    | intro (_h : Kept _ _ _)
    | ((try lift_lets); intro x; clear_value x)
    | intro y
    | decide
    | with_reducible apply hf
    | (with_reducible apply Kept.step; (on_goal 2 => first
        | with_reducible apply State.bump_kept
        | with_reducible apply State.kvSetPage_kept))
    | with_reducible apply Kept.ite
    | with_reducible apply Kept.ite₂
    | with_reducible apply Kept.ite₃
    | with_reducible apply Kept.iteW
    | with_reducible apply Kept.foldl
    | with_reducible apply Kept.foldl₂
    | with_reducible apply Kept.foldl₃
    | with_reducible refine Kept.of_snd (by assumption) ?_
    | with_reducible refine Kept.of_done (by assumption) ?_
    | with_reducible refine Kept.of_fault (by assumption) ?_
    | with_reducible refine Kept.of_wait (by assumption) ?_
    | with_reducible refine Kept.of_thd (by assumption) ?_
    | split

theorem kvPublishOp_kept (c : KvCmd) (s : State) (key : List Byte) :
    Kept [.freeCtr, .mem, .poison, .kv] s (kvPublishOp c s key).2 := by
  unfold kvPublishOp
  repeat' first
    | with_reducible exact Kept.refl _ _
    | with_reducible assumption
    | intro (_h : Kept _ _ _)
    | ((try lift_lets); intro x; clear_value x)
    | intro y
    | decide
    | with_reducible apply hf
    | with_reducible apply kvOnPage_kept
    | (with_reducible apply Kept.step; (on_goal 2 => with_reducible apply State.kvSetPage_kept))
    | with_reducible apply Kept.ite
    | with_reducible apply Kept.ite₂
    | with_reducible apply Kept.ite₃
    | with_reducible apply Kept.iteW
    | with_reducible apply Kept.foldl
    | with_reducible apply Kept.foldl₂
    | with_reducible apply Kept.foldl₃
    | with_reducible refine Kept.of_snd (by assumption) ?_
    | with_reducible refine Kept.of_done (by assumption) ?_
    | with_reducible refine Kept.of_fault (by assumption) ?_
    | with_reducible refine Kept.of_wait (by assumption) ?_
    | with_reducible refine Kept.of_thd (by assumption) ?_
    | split

theorem kvKeyed_kept (s : State) (c : KvCmd) (k : State → List Byte → KvResp × State) {kps : List Part} {s0 : State} (hm : partsIn [.regs, .mem, .poison, .hostMem, .mortar, .errLog, .errOverflow, .ctxs, .joints, .links, .conts, .regPosted] kps = true) (h0 : Kept kps s0 s) (hk : ∀ y0 y1, Kept kps s0 y0 → Kept kps s0 (k y0 y1).2) :
    Kept kps s0 (kvKeyed s c k) := by
  unfold kvKeyed
  repeat' first
    | with_reducible exact Kept.refl _ _
    | with_reducible assumption
    | intro (_h : Kept _ _ _)
    | intro y
    | exact partsIn_trans (by decide) hm
    | with_reducible apply hk
    | with_reducible apply hf
    | with_reducible apply kvWithKey_kept
    | (with_reducible apply Kept.step; (on_goal 2 => first
        | with_reducible apply State.addrError_kept
        | with_reducible apply kvRespond_kept))
    | with_reducible apply Kept.ite
    | with_reducible apply Kept.ite₂
    | with_reducible apply Kept.ite₃
    | with_reducible apply Kept.iteW
    | with_reducible apply Kept.foldl
    | with_reducible apply Kept.foldl₂
    | with_reducible apply Kept.foldl₃
    | (split; rename_i heq; refine (have hx : Kept kps s0 _ := Kept.of_snd heq ?_; ?_); (on_goal 2 => clear heq))
    | with_reducible refine Kept.of_snd (by assumption) ?_

theorem kvWprepOp_kept (s : State) (c : KvCmd) (p : Page) :
    Kept [.regs, .kv] s (kvWprepOp s c p).2 := by
  unfold kvWprepOp
  repeat' first
    | with_reducible exact Kept.refl _ _
    | with_reducible assumption
    | intro (_h : Kept _ _ _)
    | ((try lift_lets); intro x; clear_value x)
    | intro y
    | decide
    | with_reducible apply hf
    | (with_reducible apply Kept.step; (on_goal 2 => with_reducible apply State.bump_kept))
    | with_reducible apply Kept.ite
    | with_reducible apply Kept.ite₂
    | with_reducible apply Kept.ite₃
    | with_reducible apply Kept.iteW
    | with_reducible apply Kept.foldl
    | with_reducible apply Kept.foldl₂
    | with_reducible apply Kept.foldl₃
    | with_reducible refine Kept.of_snd (by assumption) ?_
    | with_reducible refine Kept.of_done (by assumption) ?_
    | with_reducible refine Kept.of_fault (by assumption) ?_
    | with_reducible refine Kept.of_wait (by assumption) ?_
    | with_reducible refine Kept.of_thd (by assumption) ?_
    | split
    | (with_reducible apply Kept.step; (on_goal 2 => with_reducible apply Kept.set_kv))

theorem kvWprepCmd_kept (s : State) (c : KvCmd) :
    Kept [.regs, .mem, .poison, .hostMem, .mortar, .errLog, .errOverflow, .ctxs, .joints, .kv, .links, .conts, .regPosted] s (kvWprepCmd s c) := by
  unfold kvWprepCmd
  repeat' first
    | with_reducible exact Kept.refl _ _
    | with_reducible assumption
    | intro (_h : Kept _ _ _)
    | ((try lift_lets); intro x; clear_value x)
    | intro y
    | decide
    | with_reducible apply hf
    | (with_reducible apply Kept.step; (on_goal 2 => first
        | with_reducible apply State.addrError_kept
        | with_reducible apply kvRespond_kept
        | with_reducible apply kvWprepOp_kept))
    | with_reducible apply Kept.ite
    | with_reducible apply Kept.ite₂
    | with_reducible apply Kept.ite₃
    | with_reducible apply Kept.iteW
    | with_reducible apply Kept.foldl
    | with_reducible apply Kept.foldl₂
    | with_reducible apply Kept.foldl₃
    | (split; rename_i heq; refine (have hx : Kept [.regs, .mem, .poison, .hostMem, .mortar, .errLog, .errOverflow, .ctxs, .joints, .kv, .links, .conts, .regPosted] s _ := Kept.of_snd heq ?_; ?_); (on_goal 2 => clear heq))
    | with_reducible refine Kept.of_snd (by assumption) ?_

theorem kvTake_kept (s : State) (n : ℕ) (op : ℕ) (k : State → KvCmd → State) {kps : List Part} {s0 : State} (hm : partsIn [.kv] kps = true) (h0 : Kept kps s0 s) (hk : ∀ y0 y1, Kept kps s0 y0 → Kept kps s0 (k y0 y1)) :
    Kept kps s0 (kvTake s n op k) := by
  unfold kvTake
  repeat' first
    | with_reducible exact Kept.refl _ _
    | with_reducible assumption
    | intro (_h : Kept _ _ _)
    | ((try lift_lets); intro x; clear_value x)
    | intro y
    | exact partsIn_trans (by decide) hm
    | with_reducible apply hk
    | with_reducible apply hf
    | with_reducible apply Kept.ite
    | with_reducible apply Kept.ite₂
    | with_reducible apply Kept.ite₃
    | with_reducible apply Kept.iteW
    | with_reducible apply Kept.foldl
    | with_reducible apply Kept.foldl₂
    | with_reducible apply Kept.foldl₃
    | with_reducible refine Kept.of_snd (by assumption) ?_
    | with_reducible refine Kept.of_done (by assumption) ?_
    | with_reducible refine Kept.of_fault (by assumption) ?_
    | with_reducible refine Kept.of_wait (by assumption) ?_
    | with_reducible refine Kept.of_thd (by assumption) ?_
    | split
    | (with_reducible apply Kept.step; (on_goal 2 => with_reducible apply Kept.set_kv))

theorem kvMovePage_kept (s : State) (src : ℕ) (dst : ℕ) (n : ℕ) :
    Kept [.regs, .mem, .poison, .mortar, .errLog, .errOverflow] s (kvMovePage s src dst n).2 := by
  unfold kvMovePage
  repeat' first
    | with_reducible exact Kept.refl _ _
    | with_reducible assumption
    | intro (_h : Kept _ _ _)
    | ((try lift_lets); intro x; refine (have hx : Kept [.regs, .mem, .poison, .mortar, .errLog, .errOverflow] s x := ?_; ?_); (on_goal 1 => subst x); (on_goal 2 => clear_value x))
    | intro y
    | decide
    | with_reducible apply hf
    | (with_reducible apply Kept.step; (on_goal 2 => first
        | with_reducible apply State.sendFlits_kept
        | with_reducible apply State.storeBrick_kept
        | with_reducible apply State.decodeClean_kept))
    | with_reducible apply Kept.ite
    | with_reducible apply Kept.ite₂
    | (split; rename_i heq; refine (have hx : Kept [.regs, .mem, .poison, .mortar, .errLog, .errOverflow] s _ := Kept.of_snd heq ?_; ?_); (on_goal 2 => clear heq))
    | (split; rename_i heq; refine (have hx : Kept [.regs, .mem, .poison, .mortar, .errLog, .errOverflow] s _ := Kept.of_thd heq ?_; ?_); (on_goal 2 => clear heq))

theorem kvCopyEnd_kept (s : State) (k : KvCopy) (ue : Bool) :
    Kept [.freeCtr, .regs, .mem, .poison, .hostMem, .mortar, .errLog, .errOverflow, .ctxs, .joints, .kv, .links, .conts, .regPosted] s (kvCopyEnd s k ue) := by
  unfold kvCopyEnd
  repeat' first
    | with_reducible exact Kept.refl _ _
    | with_reducible assumption
    | intro (_h : Kept _ _ _)
    | ((try lift_lets); intro x; refine (have hx : Kept [.freeCtr, .regs, .mem, .poison, .hostMem, .mortar, .errLog, .errOverflow, .ctxs, .joints, .kv, .links, .conts, .regPosted] s x := ?_; ?_); (on_goal 1 => subst x); (on_goal 2 => clear_value x))
    | ((try lift_lets); intro x; clear_value x)
    | intro y
    | decide
    | with_reducible apply hf
    | (with_reducible apply Kept.step; (on_goal 2 => first
        | with_reducible apply State.bump_kept
        | with_reducible apply kvRespond_kept
        | with_reducible apply State.kvSetPage_kept
        | with_reducible apply State.putPage_kept
        | with_reducible apply kvMovePage_kept))
    | with_reducible apply Kept.ite
    | with_reducible apply Kept.ite₂
    | with_reducible apply Kept.ite₃
    | with_reducible apply Kept.iteW
    | with_reducible apply Kept.foldl
    | with_reducible apply Kept.foldl₂
    | with_reducible apply Kept.foldl₃
    | with_reducible refine Kept.of_snd (by assumption) ?_
    | with_reducible refine Kept.of_done (by assumption) ?_
    | with_reducible refine Kept.of_fault (by assumption) ?_
    | with_reducible refine Kept.of_wait (by assumption) ?_
    | with_reducible refine Kept.of_thd (by assumption) ?_
    | split
    | (with_reducible apply Kept.step; (on_goal 2 => with_reducible apply Kept.set_kv))

theorem kvAdvance_kept (s : State) :
    Kept [.freeCtr, .regs, .mem, .poison, .kv] s (kvAdvance s) := by
  unfold kvAdvance
  repeat' first
    | with_reducible exact Kept.refl _ _
    | with_reducible assumption
    | intro (_h : Kept _ _ _)
    | ((try lift_lets); intro x; refine (have hx : Kept [.freeCtr, .regs, .mem, .poison, .kv] s x := ?_; ?_); (on_goal 1 => subst x); (on_goal 2 => clear_value x))
    | ((try lift_lets); intro x; clear_value x)
    | intro y
    | decide
    | with_reducible apply hf
    | (with_reducible apply Kept.step; (on_goal 2 => first
        | with_reducible apply State.bump_kept
        | with_reducible apply State.undefineMeta_kept))
    | with_reducible apply Kept.ite
    | with_reducible apply Kept.ite₂
    | with_reducible apply Kept.ite₃
    | with_reducible apply Kept.iteW
    | with_reducible apply Kept.foldl
    | with_reducible apply Kept.foldl₂
    | with_reducible apply Kept.foldl₃
    | with_reducible refine Kept.of_snd (by assumption) ?_
    | with_reducible refine Kept.of_done (by assumption) ?_
    | with_reducible refine Kept.of_fault (by assumption) ?_
    | with_reducible refine Kept.of_wait (by assumption) ?_
    | with_reducible refine Kept.of_thd (by assumption) ?_
    | split
    | (with_reducible apply Kept.step; (on_goal 2 => with_reducible apply Kept.set_kv))

theorem kvSubmit_kept (s : State) (master : ℕ) (bs : List Byte) :
    Kept [.regs, .mem, .poison, .hostMem, .mortar, .errLog, .errOverflow, .ctxs, .joints, .kv, .links, .conts, .regPosted] s (kvSubmit s master bs) := by
  unfold kvSubmit
  repeat' first
    | with_reducible exact Kept.refl _ _
    | with_reducible assumption
    | intro (_h : Kept _ _ _)
    | ((try lift_lets); intro x; clear_value x)
    | intro y
    | decide
    | with_reducible apply hf
    | (with_reducible apply Kept.step; (on_goal 2 => first
        | with_reducible apply State.addrError_kept
        | with_reducible apply kvRespond_kept))
    | with_reducible apply Kept.ite
    | with_reducible apply Kept.ite₂
    | with_reducible apply Kept.ite₃
    | with_reducible apply Kept.iteW
    | with_reducible apply Kept.foldl
    | with_reducible apply Kept.foldl₂
    | with_reducible apply Kept.foldl₃
    | with_reducible refine Kept.of_snd (by assumption) ?_
    | with_reducible refine Kept.of_done (by assumption) ?_
    | with_reducible refine Kept.of_fault (by assumption) ?_
    | with_reducible refine Kept.of_wait (by assumption) ?_
    | with_reducible refine Kept.of_thd (by assumption) ?_
    | split
    | (with_reducible apply Kept.step; (on_goal 2 => with_reducible apply Kept.set_kv))

theorem kvDiscard_kept (s : State) (master : ℕ) :
    Kept [.regs, .masters] s (kvDiscard s master) := by
  unfold kvDiscard
  repeat' first
    | with_reducible exact Kept.refl _ _
    | with_reducible assumption
    | intro (_h : Kept _ _ _)
    | ((try lift_lets); intro x; clear_value x)
    | intro y
    | decide
    | with_reducible apply hf
    | (with_reducible apply Kept.step; (on_goal 2 => first
        | with_reducible apply State.bump_kept
        | with_reducible apply State.setMaster_kept))
    | (split; rename_i heq; refine (have hx : Kept [.regs, .masters] s _ := Kept.of_snd heq ?_; ?_); (on_goal 2 => clear heq))
    | (split; rename_i heq; refine (have hx : Kept [.regs, .masters] s _ := Kept.of_thd heq ?_; ?_); (on_goal 2 => clear heq))

theorem kvRunWrite_kept (s : State) (master : ℕ) (slot : ℕ) (bs : List Byte) :
    Kept [.regs, .mem, .poison, .hostMem, .masters, .mortar, .errLog, .errOverflow, .ctxs, .joints, .kv, .links, .conts, .regPosted] s (kvRunWrite s master slot bs) := by
  unfold kvRunWrite
  repeat' first
    | with_reducible exact Kept.refl _ _
    | with_reducible assumption
    | intro (_h : Kept _ _ _)
    | ((try lift_lets); intro x; clear_value x)
    | intro y
    | decide
    | with_reducible apply hf
    | (with_reducible apply Kept.step; (on_goal 2 => first
        | with_reducible apply State.setMaster_kept
        | with_reducible apply kvSubmit_kept))
    | with_reducible apply Kept.ite
    | (split; rename_i heq; refine (have hx : Kept [.regs, .mem, .poison, .hostMem, .masters, .mortar, .errLog, .errOverflow, .ctxs, .joints, .kv, .links, .conts, .regPosted] s _ := Kept.of_snd heq ?_; ?_); (on_goal 2 => clear heq))
    | (split; rename_i heq; refine (have hx : Kept [.regs, .mem, .poison, .hostMem, .masters, .mortar, .errLog, .errOverflow, .ctxs, .joints, .kv, .links, .conts, .regPosted] s _ := Kept.of_thd heq ?_; ?_); (on_goal 2 => clear heq))

theorem kvWindow_kept (s : State) (master : ℕ) (off : ℕ) (data : List Byte) (full : Bool) :
    Kept [.regs, .mem, .poison, .hostMem, .masters, .mortar, .errLog, .errOverflow, .ctxs, .joints, .kv, .links, .conts, .regPosted] s (kvWindow s master off data full) := by
  unfold kvWindow
  repeat' first
    | with_reducible exact Kept.refl _ _
    | with_reducible assumption
    | intro (_h : Kept _ _ _)
    | ((try lift_lets); intro x; clear_value x)
    | intro y
    | decide
    | with_reducible apply hf
    | (with_reducible apply Kept.step; (on_goal 2 => first
        | with_reducible apply kvSubmit_kept
        | with_reducible apply kvDiscard_kept
        | with_reducible apply kvRunWrite_kept))
    | with_reducible apply Kept.ite
    | with_reducible apply Kept.ite₂
    | with_reducible apply Kept.ite₃
    | with_reducible apply Kept.iteW
    | with_reducible apply Kept.foldl
    | with_reducible apply Kept.foldl₂
    | with_reducible apply Kept.foldl₃
    | with_reducible refine Kept.of_snd (by assumption) ?_
    | with_reducible refine Kept.of_done (by assumption) ?_
    | with_reducible refine Kept.of_fault (by assumption) ?_
    | with_reducible refine Kept.of_wait (by assumption) ?_
    | with_reducible refine Kept.of_thd (by assumption) ?_
    | split

theorem kvCtrl_kept (s : State) (v : ℕ) :
    Kept [.freeCtr, .regs, .mem, .poison, .kv] s (kvCtrl s v) := by
  unfold kvCtrl
  repeat' first
    | with_reducible exact Kept.refl _ _
    | with_reducible assumption
    | intro (_h : Kept _ _ _)
    | ((try lift_lets); intro x; refine (have hx : Kept [.freeCtr, .regs, .mem, .poison, .kv] s x := ?_; ?_); (on_goal 1 => subst x); (on_goal 2 => clear_value x))
    | ((try lift_lets); intro x; clear_value x)
    | intro y
    | decide
    | with_reducible apply hf
    | (with_reducible apply Kept.step; (on_goal 2 => first
        | with_reducible apply State.setReg_kept
        | with_reducible apply State.setRegFld_kept
        | with_reducible apply State.undefineMeta_kept))
    | with_reducible apply Kept.ite
    | with_reducible apply Kept.ite₂
    | with_reducible apply Kept.ite₃
    | with_reducible apply Kept.iteW
    | with_reducible apply Kept.foldl
    | with_reducible apply Kept.foldl₂
    | with_reducible apply Kept.foldl₃
    | with_reducible refine Kept.of_snd (by assumption) ?_
    | with_reducible refine Kept.of_done (by assumption) ?_
    | with_reducible refine Kept.of_fault (by assumption) ?_
    | with_reducible refine Kept.of_wait (by assumption) ?_
    | with_reducible refine Kept.of_thd (by assumption) ?_
    | split
    | (with_reducible apply Kept.step; (on_goal 2 => with_reducible apply Kept.set_kv))

end Sys2Proof.Machine
end

