-- ==== Sys2Proof/Laws/FrameChannel.lean ====
section
/-! SUPPORT. Frames of the operations of Machine/Channel.lean. -/

namespace Sys2Proof.Machine

theorem State.modChan_kept (s : State) (ch : ℕ) (g : Chan → Chan) :
    Kept [.chans] s (State.modChan s ch g) := by
  unfold State.modChan
  repeat' first
    | with_reducible exact Kept.refl _ _
    | with_reducible assumption
    | intro (_h : Kept _ _ _)
    | intro y
    | decide
    | with_reducible apply hf
    | (with_reducible apply Kept.step; (on_goal 2 => with_reducible apply State.setChan_kept))
    | (split; rename_i heq; refine (have hx : Kept [.chans] s _ := Kept.of_snd heq ?_; ?_); (on_goal 2 => clear heq))
    | (split; rename_i heq; refine (have hx : Kept [.chans] s _ := Kept.of_thd heq ?_; ?_); (on_goal 2 => clear heq))

theorem retrainSubmit_kept (s : State) (ch : ℕ) :
    Kept [.nextId, .regs, .time, .chans] s (retrainSubmit s ch) := by
  unfold retrainSubmit
  repeat' first
    | with_reducible exact Kept.refl _ _
    | with_reducible assumption
    | intro (_h : Kept _ _ _)
    | intro y
    | decide
    | with_reducible apply hf
    | (with_reducible apply Kept.step; (on_goal 2 => first
        | with_reducible apply admitReq_kept
        | with_reducible apply State.modChan_kept))
    | with_reducible apply Kept.ite
    | with_reducible apply Kept.ite₂
    | with_reducible apply Kept.ite₃
    | with_reducible apply Kept.iteW
    | with_reducible apply Kept.foldl
    | with_reducible apply Kept.foldl₂
    | with_reducible apply Kept.foldl₃
    | (split; rename_i heq; refine (have hx : Kept [.nextId, .regs, .time, .chans] s _ := Kept.of_snd heq ?_; ?_); (on_goal 2 => clear heq))
    | with_reducible refine Kept.of_snd (by assumption) ?_
    | with_reducible refine Kept.of_done (by assumption) ?_
    | with_reducible refine Kept.of_fault (by assumption) ?_
    | with_reducible refine Kept.of_wait (by assumption) ?_
    | with_reducible refine Kept.of_thd (by assumption) ?_
    | split

theorem retrainCause_kept (s : State) (ch : ℕ) :
    Kept [.nextId, .regs, .time, .chans] s (retrainCause s ch) := by
  unfold retrainCause
  repeat' first
    | with_reducible exact Kept.refl _ _
    | with_reducible assumption
    | intro (_h : Kept _ _ _)
    | ((try lift_lets); intro x; clear_value x)
    | intro y
    | decide
    | with_reducible apply hf
    | (with_reducible apply Kept.step; (on_goal 2 => first
        | with_reducible apply State.modChan_kept
        | with_reducible apply retrainSubmit_kept))
    | with_reducible apply Kept.ite
    | (split; rename_i heq; refine (have hx : Kept [.nextId, .regs, .time, .chans] s _ := Kept.of_snd heq ?_; ?_); (on_goal 2 => clear heq))
    | (split; rename_i heq; refine (have hx : Kept [.nextId, .regs, .time, .chans] s _ := Kept.of_thd heq ?_; ?_); (on_goal 2 => clear heq))

theorem retrainDrop_kept (s : State) (ch : ℕ) :
    Kept [.time, .chans] s (retrainDrop s ch) := by
  unfold retrainDrop
  repeat' first
    | with_reducible exact Kept.refl _ _
    | with_reducible assumption
    | intro (_h : Kept _ _ _)
    | ((try lift_lets); intro x; refine (have hx : Kept [.time, .chans] s x := ?_; ?_); (on_goal 1 => subst x); (on_goal 2 => clear_value x))
    | intro y
    | decide
    | with_reducible apply hf
    | (with_reducible apply Kept.step; (on_goal 2 => first
        | with_reducible apply State.deliver_kept
        | with_reducible apply State.modChan_kept))
    | with_reducible apply Kept.ite
    | with_reducible apply Kept.ite₂
    | with_reducible apply Kept.ite₃
    | with_reducible apply Kept.iteW
    | with_reducible apply Kept.foldl
    | with_reducible apply Kept.foldl₂
    | with_reducible apply Kept.foldl₃
    | with_reducible refine Kept.of_snd (by assumption) ?_
    | with_reducible refine Kept.of_done (by assumption) ?_
    | with_reducible refine Kept.of_fault (by assumption) ?_
    | with_reducible refine Kept.of_wait (by assumption) ?_
    | with_reducible refine Kept.of_thd (by assumption) ?_
    | split

theorem becomeSuspect_kept (s : State) (ch : ℕ) (l : ℕ) :
    Kept [.nextId, .regs, .time, .chans, .errLog, .errOverflow] s (becomeSuspect s ch l) := by
  unfold becomeSuspect
  repeat' first
    | with_reducible exact Kept.refl _ _
    | with_reducible assumption
    | intro (_h : Kept _ _ _)
    | ((try lift_lets); intro x; refine (have hx : Kept [.nextId, .regs, .time, .chans, .errLog, .errOverflow] s x := ?_; ?_); (on_goal 1 => subst x); (on_goal 2 => clear_value x))
    | intro y
    | decide
    | with_reducible apply hf
    | (with_reducible apply Kept.step; (on_goal 2 => first
        | with_reducible apply logErr_kept
        | with_reducible apply State.modChan_kept
        | with_reducible apply retrainCause_kept))
    | with_reducible apply Kept.ite
    | (split; rename_i heq; refine (have hx : Kept [.nextId, .regs, .time, .chans, .errLog, .errOverflow] s _ := Kept.of_snd heq ?_; ?_); (on_goal 2 => clear heq))
    | (split; rename_i heq; refine (have hx : Kept [.nextId, .regs, .time, .chans, .errLog, .errOverflow] s _ := Kept.of_thd heq ?_; ?_); (on_goal 2 => clear heq))

theorem countLane_kept (s : State) (ch : ℕ) (l : ℕ) :
    Kept [.nextId, .regs, .time, .chans, .errLog, .errOverflow] s (countLane s ch l) := by
  unfold countLane
  repeat' first
    | with_reducible exact Kept.refl _ _
    | with_reducible assumption
    | intro (_h : Kept _ _ _)
    | ((try lift_lets); intro x; refine (have hx : Kept [.nextId, .regs, .time, .chans, .errLog, .errOverflow] s x := ?_; ?_); (on_goal 1 => subst x); (on_goal 2 => clear_value x))
    | ((try lift_lets); intro x; clear_value x)
    | intro y
    | decide
    | with_reducible apply hf
    | (with_reducible apply Kept.step; (on_goal 2 => first
        | with_reducible apply State.bump_kept
        | with_reducible apply State.modChan_kept
        | with_reducible apply becomeSuspect_kept))
    | with_reducible apply Kept.ite
    | (split; rename_i heq; refine (have hx : Kept [.nextId, .regs, .time, .chans, .errLog, .errOverflow] s _ := Kept.of_snd heq ?_; ?_); (on_goal 2 => clear heq))
    | (split; rename_i heq; refine (have hx : Kept [.nextId, .regs, .time, .chans, .errLog, .errOverflow] s _ := Kept.of_thd heq ?_; ?_); (on_goal 2 => clear heq))

theorem readCodeword_kept (s : State) (ch : ℕ) (cw : ℕ) (e : ErrPat) :
    Kept [.nextId, .regs, .time, .chans, .errLog, .errOverflow] s (readCodeword s ch cw e).2 := by
  unfold readCodeword
  repeat' first
    | with_reducible exact Kept.refl _ _
    | with_reducible assumption
    | intro (_h : Kept _ _ _)
    | ((try lift_lets); intro x; refine (have hx : Kept [.nextId, .regs, .time, .chans, .errLog, .errOverflow] s x := ?_; ?_); (on_goal 1 => subst x); (on_goal 2 => clear_value x))
    | ((try lift_lets); intro x; clear_value x)
    | intro y
    | decide
    | with_reducible apply hf
    | (with_reducible apply Kept.step; (on_goal 2 => first
        | with_reducible apply State.bump_kept
        | with_reducible apply logErr_kept
        | with_reducible apply countLane_kept))
    | with_reducible apply Kept.ite
    | with_reducible apply Kept.ite₂
    | with_reducible apply Kept.ite₃
    | with_reducible apply Kept.iteW
    | with_reducible apply Kept.foldl
    | with_reducible apply Kept.foldl₂
    | with_reducible apply Kept.foldl₃
    | with_reducible refine Kept.of_snd (by assumption) ?_
    | with_reducible refine Kept.of_done (by assumption) ?_
    | with_reducible refine Kept.of_fault (by assumption) ?_
    | with_reducible refine Kept.of_wait (by assumption) ?_
    | with_reducible refine Kept.of_thd (by assumption) ?_
    | split

theorem State.setRouter_kept (s : State) (k : ℕ) (o : RouterOut) :
    Kept [.mortar] s (State.setRouter s k o) := by
  unfold State.setRouter
  repeat' first
    | with_reducible exact Kept.refl _ _
    | with_reducible assumption
    | intro (_h : Kept _ _ _)
    | ((try lift_lets); intro x; clear_value x)
    | intro y
    | decide
    | with_reducible apply hf
    | with_reducible apply Kept.ite
    | with_reducible apply Kept.ite₂
    | with_reducible apply Kept.ite₃
    | with_reducible apply Kept.iteW
    | with_reducible apply Kept.foldl
    | with_reducible apply Kept.foldl₂
    | with_reducible apply Kept.foldl₃
    | with_reducible refine Kept.of_snd (by assumption) ?_
    | with_reducible refine Kept.of_done (by assumption) ?_
    | with_reducible refine Kept.of_fault (by assumption) ?_
    | with_reducible refine Kept.of_wait (by assumption) ?_
    | with_reducible refine Kept.of_thd (by assumption) ?_
    | split
    | (with_reducible apply Kept.step; (on_goal 2 => with_reducible apply Kept.set_mortar))

theorem answerTag_kept (s : State) (t : ℕ) (tag : ℕ) (failed : Bool) (data : List Byte) (bad : List ℕ) (origin : ℕ) :
    Kept [.nextId, .tiles, .mortar] s (answerTag s t tag failed data bad origin) := by
  unfold answerTag
  repeat' first
    | with_reducible exact Kept.refl _ _
    | with_reducible assumption
    | intro (_h : Kept _ _ _)
    | ((try lift_lets); intro x; refine (have hx : Kept [.nextId, .tiles, .mortar] s x := ?_; ?_); (on_goal 1 => subst x); (on_goal 2 => clear_value x))
    | intro y
    | decide
    | with_reducible apply hf
    | (with_reducible apply Kept.step; (on_goal 2 => first
        | with_reducible apply State.fresh_kept
        | with_reducible apply State.sendFlits_kept))
    | with_reducible apply Kept.ite
    | with_reducible apply Kept.ite₂
    | with_reducible apply Kept.ite₃
    | with_reducible apply Kept.iteW
    | with_reducible apply Kept.foldl
    | with_reducible apply Kept.foldl₂
    | with_reducible apply Kept.foldl₃
    | (split; rename_i heq; refine (have hx : Kept [.nextId, .tiles, .mortar] s _ := Kept.of_snd heq ?_; ?_); (on_goal 2 => clear heq))
    | with_reducible refine Kept.of_snd (by assumption) ?_
    | with_reducible refine Kept.of_done (by assumption) ?_
    | with_reducible refine Kept.of_fault (by assumption) ?_
    | with_reducible refine Kept.of_wait (by assumption) ?_
    | with_reducible refine Kept.of_thd (by assumption) ?_
    | split
    | (with_reducible apply Kept.step; (on_goal 2 => with_reducible apply Kept.set_tiles))

theorem failEntry_kept (ch : ℕ) (s : State) (e : CEntry) :
    Kept [.nextId, .tiles, .mortar] s (failEntry ch s e) := by
  unfold failEntry
  repeat' first
    | with_reducible exact Kept.refl _ _
    | with_reducible assumption
    | intro (_h : Kept _ _ _)
    | intro y
    | decide
    | with_reducible apply hf
    | (with_reducible apply Kept.step; (on_goal 2 => with_reducible apply answerTag_kept))
    | (split; rename_i heq; refine (have hx : Kept [.nextId, .tiles, .mortar] s _ := Kept.of_snd heq ?_; ?_); (on_goal 2 => clear heq))
    | (split; rename_i heq; refine (have hx : Kept [.nextId, .tiles, .mortar] s _ := Kept.of_thd heq ?_; ?_); (on_goal 2 => clear heq))

theorem admitHeld_kept (x0 : ℕ) (x1 : State) (x2 : ℕ) :
    Kept [.chans, .mortar] x1 (admitHeld x0 x1 x2) := by
  induction x0 generalizing x1 x2 with
  | zero =>
    rw [admitHeld]
    repeat' first
      | with_reducible exact Kept.refl _ _
      | ((try lift_lets); intro x; refine (have hx : Kept [.chans, .mortar] x1 x := ?_; ?_); (on_goal 1 => subst x); (on_goal 2 => clear_value x))
      | ((try lift_lets); intro x; refine (have hx : Kept [.chans, .mortar] x1 x.2 := ?_; ?_); (on_goal 1 => subst x); (on_goal 2 => clear_value x))
      | ((try lift_lets); intro x; refine (have hx : Kept [.chans, .mortar] x1 x.2.2 := ?_; ?_); (on_goal 1 => subst x); (on_goal 2 => clear_value x))
      | ((try lift_lets); intro x; refine (have hf : ∀ y : State, Kept [.chans, .mortar] x1 y → Kept [.chans, .mortar] x1 (x y) := ?_; ?_); (on_goal 1 => subst x); (on_goal 2 => clear_value x))
      | ((try lift_lets); intro x; refine (have hf : ∀ (y : State) a, Kept [.chans, .mortar] x1 y → Kept [.chans, .mortar] x1 (x y a) := ?_; ?_); (on_goal 1 => subst x); (on_goal 2 => clear_value x))
      | ((try lift_lets); intro x; clear_value x)
      | (with_reducible apply Kept.step; (on_goal 2 => first
        | with_reducible apply State.setChan_kept
        | with_reducible apply State.setRouter_kept))
      | (split; rename_i heq; refine (have hx : Kept [.chans, .mortar] x1 _ := Kept.of_snd heq ?_; ?_); (on_goal 2 => clear heq))
      | (split; rename_i heq; refine (have hx : Kept [.chans, .mortar] x1 _ := Kept.of_thd heq ?_; ?_); (on_goal 2 => clear heq))
  | succ n ih =>
    rw [admitHeld]
    repeat' first
      | with_reducible exact Kept.refl _ _
      | with_reducible assumption
      | (with_reducible apply Kept.trans; (on_goal 2 => with_reducible apply ih))
      | intro (_h : Kept _ _ _)
      | intro y
      | decide
      | with_reducible apply hf
      | (with_reducible apply Kept.step; (on_goal 2 => first
        | with_reducible apply State.setChan_kept
        | with_reducible apply State.setRouter_kept))
      | with_reducible apply Kept.ite
      | with_reducible apply Kept.ite₂
      | with_reducible apply Kept.ite₃
      | with_reducible apply Kept.iteW
      | with_reducible apply Kept.foldl
      | with_reducible apply Kept.foldl₂
      | with_reducible apply Kept.foldl₃
      | with_reducible refine Kept.of_snd (by assumption) ?_
      | with_reducible refine Kept.of_done (by assumption) ?_
      | with_reducible refine Kept.of_fault (by assumption) ?_
      | with_reducible refine Kept.of_wait (by assumption) ?_
      | with_reducible refine Kept.of_thd (by assumption) ?_
      | split

theorem enterChan_kept (s : State) (ch : ℕ) (e : CEntry) :
    Kept [.nextId, .tiles, .chans, .mortar] s (enterChan s ch e) := by
  unfold enterChan
  repeat' first
    | with_reducible exact Kept.refl _ _
    | with_reducible assumption
    | intro (_h : Kept _ _ _)
    | ((try lift_lets); intro x; refine (have hx : Kept [.nextId, .tiles, .chans, .mortar] s x := ?_; ?_); (on_goal 1 => subst x); (on_goal 2 => clear_value x))
    | ((try lift_lets); intro x; clear_value x)
    | intro y
    | decide
    | with_reducible apply hf
    | (with_reducible apply Kept.step; (on_goal 2 => first
        | with_reducible apply State.setChan_kept
        | with_reducible apply State.sendFlits_kept
        | with_reducible apply failEntry_kept
        | with_reducible apply admitHeld_kept))
    | with_reducible apply Kept.ite
    | (split; rename_i heq; refine (have hx : Kept [.nextId, .tiles, .chans, .mortar] s _ := Kept.of_snd heq ?_; ?_); (on_goal 2 => clear heq))
    | (split; rename_i heq; refine (have hx : Kept [.nextId, .tiles, .chans, .mortar] s _ := Kept.of_thd heq ?_; ?_); (on_goal 2 => clear heq))

theorem takeLine_kept (s : State) (ch : ℕ) (entry : ℕ) :
    Kept [.chans] s (takeLine s ch entry) := by
  unfold takeLine
  repeat' first
    | with_reducible exact Kept.refl _ _
    | with_reducible assumption
    | intro (_h : Kept _ _ _)
    | ((try lift_lets); intro x; clear_value x)
    | intro y
    | decide
    | with_reducible apply hf
    | (with_reducible apply Kept.step; (on_goal 2 => with_reducible apply State.setChan_kept))
    | with_reducible apply Kept.ite
    | with_reducible apply Kept.ite₂
    | with_reducible apply Kept.ite₃
    | with_reducible apply Kept.iteW
    | with_reducible apply Kept.foldl
    | with_reducible apply Kept.foldl₂
    | with_reducible apply Kept.foldl₃
    | with_reducible refine Kept.of_snd (by assumption) ?_
    | with_reducible refine Kept.of_done (by assumption) ?_
    | with_reducible refine Kept.of_fault (by assumption) ?_
    | with_reducible refine Kept.of_wait (by assumption) ?_
    | with_reducible refine Kept.of_thd (by assumption) ?_
    | split

theorem readPiece_kept (s : State) (ch : ℕ) (a : ℕ) (n : ℕ) (errs : List (ℕ × ℕ × ℕ)) :
    Kept [.nextId, .regs, .time, .chans, .errLog, .errOverflow] s (readPiece s ch a n errs).2 := by
  unfold readPiece
  repeat' first
    | with_reducible exact Kept.refl _ _
    | with_reducible assumption
    | intro (_h : Kept _ _ _)
    | ((try lift_lets); intro x; clear_value x)
    | intro y
    | decide
    | with_reducible apply hf
    | (with_reducible apply Kept.step; (on_goal 2 => with_reducible apply readCodeword_kept))
    | with_reducible apply Kept.ite
    | with_reducible apply Kept.ite₂
    | with_reducible apply Kept.ite₃
    | with_reducible apply Kept.iteW
    | with_reducible apply Kept.foldl
    | with_reducible apply Kept.foldl₂
    | (split; rename_i heq; refine (have hx : Kept [.nextId, .regs, .time, .chans, .errLog, .errOverflow] s _ := Kept.of_snd heq ?_; ?_); (on_goal 2 => clear heq))
    | (split; rename_i heq; refine (have hx : Kept [.nextId, .regs, .time, .chans, .errLog, .errOverflow] s _ := Kept.of_thd heq ?_; ?_); (on_goal 2 => clear heq))

theorem writePiece_kept (s : State) (ch : ℕ) (a : ℕ) (bs : List Byte) (bad : List ℕ) (errs : List (ℕ × ℕ × ℕ)) :
    Kept [.nextId, .regs, .mem, .poison, .time, .chans, .errLog, .errOverflow] s (writePiece s ch a bs bad errs) := by
  unfold writePiece
  repeat' first
    | with_reducible exact Kept.refl _ _
    | with_reducible assumption
    | intro (_h : Kept _ _ _)
    | ((try lift_lets); intro x; clear_value x)
    | intro y
    | decide
    | with_reducible apply hf
    | (with_reducible apply Kept.step; (on_goal 2 => first
        | with_reducible apply State.storeBrick_kept
        | with_reducible apply readCodeword_kept))
    | with_reducible apply Kept.ite
    | with_reducible apply Kept.ite₂
    | with_reducible apply Kept.ite₃
    | with_reducible apply Kept.iteW
    | with_reducible apply Kept.foldl
    | (split; rename_i heq; refine (have hx : Kept [.nextId, .regs, .mem, .poison, .time, .chans, .errLog, .errOverflow] s _ := Kept.of_snd heq ?_; ?_); (on_goal 2 => clear heq))
    | (split; rename_i heq; refine (have hx : Kept [.nextId, .regs, .mem, .poison, .time, .chans, .errLog, .errOverflow] s _ := Kept.of_thd heq ?_; ?_); (on_goal 2 => clear heq))

theorem lineDone_kept (s : State) (ch : ℕ) (errs : List (ℕ × ℕ × ℕ)) :
    Kept [.nextId, .regs, .mem, .poison, .time, .tiles, .chans, .mortar, .errLog, .errOverflow] s (lineDone s ch errs) := by
  unfold lineDone
  repeat' first
    | with_reducible exact Kept.refl _ _
    | with_reducible assumption
    | intro (_h : Kept _ _ _)
    | ((try lift_lets); intro x; clear_value x)
    | intro y
    | decide
    | with_reducible apply hf
    | (with_reducible apply Kept.step; (on_goal 2 => first
        | with_reducible apply State.setChan_kept
        | with_reducible apply State.modChan_kept
        | with_reducible apply answerTag_kept
        | with_reducible apply admitHeld_kept
        | with_reducible apply readPiece_kept
        | with_reducible apply writePiece_kept))
    | with_reducible apply Kept.ite
    | with_reducible apply Kept.ite₂
    | with_reducible apply Kept.ite₃
    | with_reducible apply Kept.iteW
    | with_reducible apply Kept.foldl
    | with_reducible apply Kept.foldl₂
    | with_reducible apply Kept.foldl₃
    | with_reducible refine Kept.of_snd (by assumption) ?_
    | with_reducible refine Kept.of_done (by assumption) ?_
    | with_reducible refine Kept.of_fault (by assumption) ?_
    | with_reducible refine Kept.of_wait (by assumption) ?_
    | with_reducible refine Kept.of_thd (by assumption) ?_
    | split

theorem scrubCodeword_kept (errs : List (ℕ × ℕ × ℕ)) (ch : ℕ) (s : State) (cw : ℕ) :
    Kept [.nextId, .regs, .mem, .poison, .time, .chans, .errLog, .errOverflow] s (scrubCodeword errs ch s cw) := by
  unfold scrubCodeword
  repeat' first
    | with_reducible exact Kept.refl _ _
    | with_reducible assumption
    | intro (_h : Kept _ _ _)
    | intro y
    | decide
    | with_reducible apply hf
    | (with_reducible apply Kept.step; (on_goal 2 => first
        | with_reducible apply State.storeBrick_kept
        | with_reducible apply readCodeword_kept))
    | with_reducible apply Kept.ite
    | (split; rename_i heq; refine (have hx : Kept [.nextId, .regs, .mem, .poison, .time, .chans, .errLog, .errOverflow] s _ := Kept.of_snd heq ?_; ?_); (on_goal 2 => clear heq))
    | (split; rename_i heq; refine (have hx : Kept [.nextId, .regs, .mem, .poison, .time, .chans, .errLog, .errOverflow] s _ := Kept.of_thd heq ?_; ?_); (on_goal 2 => clear heq))

theorem scrubPassEnd_kept (s : State) (ch : Nat) :
    Kept [.regs, .chans, .scrubDone] s (scrubPassEnd s ch) := by
  have h1 (x : State) (hx : Kept [.regs, .chans, .scrubDone] s x) (l : List Nat) :
      Kept [.regs, .chans, .scrubDone] s { x with scrubDone := l } := hx.step (Kept.set_scrubDone x l) (by decide)
  have h3 (x : State) (hx : Kept [.regs, .chans, .scrubDone] s x) (l a b : Nat) :
      Kept [.regs, .chans, .scrubDone] s (x.setReg l a b) := hx.step (State.setReg_kept x _ _ _) (by decide)
  unfold scrubPassEnd
  lift_lets
  intro x y
  have hx : Kept [.regs, .chans, .scrubDone] s x :=
    (State.modChan_kept s ch _).weaken (by decide)
  have hy : Kept [.regs, .chans, .scrubDone] s y := h1 _ hx _
  clear_value y
  clear hx
  clear x
  by_cases h : scrubAllDone y = true
  · rw [if_pos h]; exact h3 _ (h1 _ hy _) _ _ _
  · rw [if_neg h]; exact hy

theorem scrubVisit_kept (s : State) (ch : ℕ) (errs : List (ℕ × ℕ × ℕ)) :
    Kept [.nextId, .regs, .mem, .poison, .time, .chans, .errLog, .errOverflow, .scrubDone] s (scrubVisit s ch errs) := by
  unfold scrubVisit
  repeat' first
    | with_reducible exact Kept.refl _ _
    | with_reducible assumption
    | intro (_h : Kept _ _ _)
    | ((try lift_lets); intro x; refine (have hx : Kept [.nextId, .regs, .mem, .poison, .time, .chans, .errLog, .errOverflow, .scrubDone] s x := ?_; ?_); (on_goal 1 => subst x); (on_goal 2 => clear_value x))
    | ((try lift_lets); intro x; clear_value x)
    | intro y
    | decide
    | with_reducible apply hf
    | (with_reducible apply Kept.step; (on_goal 2 => first
        | with_reducible apply State.setChan_kept
        | with_reducible apply State.modChan_kept
        | with_reducible apply scrubCodeword_kept
        | with_reducible apply scrubPassEnd_kept))
    | with_reducible apply Kept.ite
    | with_reducible apply Kept.ite₂
    | with_reducible apply Kept.ite₃
    | with_reducible apply Kept.iteW
    | with_reducible apply Kept.foldl
    | (split; rename_i heq; refine (have hx : Kept [.nextId, .regs, .mem, .poison, .time, .chans, .errLog, .errOverflow, .scrubDone] s _ := Kept.of_snd heq ?_; ?_); (on_goal 2 => clear heq))
    | (split; rename_i heq; refine (have hx : Kept [.nextId, .regs, .mem, .poison, .time, .chans, .errLog, .errOverflow, .scrubDone] s _ := Kept.of_thd heq ?_; ?_); (on_goal 2 => clear heq))

theorem failWaiting_kept (s : State) (ch : ℕ) (breaks : Bool) :
    Kept [.nextId, .regs, .mem, .poison, .hostMem, .time, .tiles, .chans, .mortar, .errLog, .errOverflow, .ctxs, .msix, .msixSent, .regPosted] s (failWaiting s ch breaks) := by
  unfold failWaiting
  repeat' first
    | with_reducible exact Kept.refl _ _
    | with_reducible assumption
    | intro (_h : Kept _ _ _)
    | ((try lift_lets); intro x; refine (have hx : Kept [.nextId, .regs, .mem, .poison, .hostMem, .time, .tiles, .chans, .mortar, .errLog, .errOverflow, .ctxs, .msix, .msixSent, .regPosted] s x := ?_; ?_); (on_goal 1 => subst x); (on_goal 2 => clear_value x))
    | ((try lift_lets); intro x; clear_value x)
    | intro y
    | decide
    | with_reducible apply hf
    | (with_reducible apply Kept.step; (on_goal 2 => first
        | with_reducible apply State.setChan_kept
        | with_reducible apply breakReq_kept
        | with_reducible apply failEntry_kept))
    | with_reducible apply Kept.ite
    | with_reducible apply Kept.ite₂
    | with_reducible apply Kept.ite₃
    | with_reducible apply Kept.iteW
    | with_reducible apply Kept.foldl
    | (split; rename_i heq; refine (have hx : Kept [.nextId, .regs, .mem, .poison, .hostMem, .time, .tiles, .chans, .mortar, .errLog, .errOverflow, .ctxs, .msix, .msixSent, .regPosted] s _ := Kept.of_snd heq ?_; ?_); (on_goal 2 => clear heq))
    | (split; rename_i heq; refine (have hx : Kept [.nextId, .regs, .mem, .poison, .hostMem, .time, .tiles, .chans, .mortar, .errLog, .errOverflow, .ctxs, .msix, .msixSent, .regPosted] s _ := Kept.of_thd heq ?_; ?_); (on_goal 2 => clear heq))

theorem serveEntries_kept (x0 : ℕ) (x1 : State) (x2 : ℕ) :
    Kept [.nextId, .regs, .mem, .poison, .time, .tiles, .chans, .mortar, .errLog, .errOverflow] x1 (serveEntries x0 x1 x2) := by
  induction x0 generalizing x1 x2 with
  | zero =>
    rw [serveEntries]
    repeat' first
      | with_reducible exact Kept.refl _ _
      | ((try lift_lets); intro x; refine (have hx : Kept [.nextId, .regs, .mem, .poison, .time, .tiles, .chans, .mortar, .errLog, .errOverflow] x1 x := ?_; ?_); (on_goal 1 => subst x); (on_goal 2 => clear_value x))
      | ((try lift_lets); intro x; refine (have hx : Kept [.nextId, .regs, .mem, .poison, .time, .tiles, .chans, .mortar, .errLog, .errOverflow] x1 x.2 := ?_; ?_); (on_goal 1 => subst x); (on_goal 2 => clear_value x))
      | ((try lift_lets); intro x; refine (have hx : Kept [.nextId, .regs, .mem, .poison, .time, .tiles, .chans, .mortar, .errLog, .errOverflow] x1 x.2.2 := ?_; ?_); (on_goal 1 => subst x); (on_goal 2 => clear_value x))
      | ((try lift_lets); intro x; refine (have hf : ∀ y : State, Kept [.nextId, .regs, .mem, .poison, .time, .tiles, .chans, .mortar, .errLog, .errOverflow] x1 y → Kept [.nextId, .regs, .mem, .poison, .time, .tiles, .chans, .mortar, .errLog, .errOverflow] x1 (x y) := ?_; ?_); (on_goal 1 => subst x); (on_goal 2 => clear_value x))
      | ((try lift_lets); intro x; refine (have hf : ∀ (y : State) a, Kept [.nextId, .regs, .mem, .poison, .time, .tiles, .chans, .mortar, .errLog, .errOverflow] x1 y → Kept [.nextId, .regs, .mem, .poison, .time, .tiles, .chans, .mortar, .errLog, .errOverflow] x1 (x y a) := ?_; ?_); (on_goal 1 => subst x); (on_goal 2 => clear_value x))
      | ((try lift_lets); intro x; clear_value x)
      | (with_reducible apply Kept.step; (on_goal 2 => first
        | with_reducible apply State.setChan_kept
        | with_reducible apply lineDone_kept))
      | (split; rename_i heq; refine (have hx : Kept [.nextId, .regs, .mem, .poison, .time, .tiles, .chans, .mortar, .errLog, .errOverflow] x1 _ := Kept.of_snd heq ?_; ?_); (on_goal 2 => clear heq))
      | (split; rename_i heq; refine (have hx : Kept [.nextId, .regs, .mem, .poison, .time, .tiles, .chans, .mortar, .errLog, .errOverflow] x1 _ := Kept.of_thd heq ?_; ?_); (on_goal 2 => clear heq))
  | succ n ih =>
    rw [serveEntries]
    repeat' first
      | with_reducible exact Kept.refl _ _
      | with_reducible assumption
      | (with_reducible apply Kept.trans; (on_goal 2 => with_reducible apply ih))
      | intro (_h : Kept _ _ _)
      | ((try lift_lets); intro x; clear_value x)
      | intro y
      | decide
      | with_reducible apply hf
      | (with_reducible apply Kept.step; (on_goal 2 => first
        | with_reducible apply State.setChan_kept
        | with_reducible apply lineDone_kept))
      | with_reducible apply Kept.ite
      | with_reducible apply Kept.ite₂
      | with_reducible apply Kept.ite₃
      | with_reducible apply Kept.iteW
      | with_reducible apply Kept.foldl
      | with_reducible apply Kept.foldl₂
      | with_reducible apply Kept.foldl₃
      | with_reducible refine Kept.of_snd (by assumption) ?_
      | with_reducible refine Kept.of_done (by assumption) ?_
      | with_reducible refine Kept.of_fault (by assumption) ?_
      | with_reducible refine Kept.of_wait (by assumption) ?_
      | with_reducible refine Kept.of_thd (by assumption) ?_
      | split

theorem dropChan_kept (s : State) (ch : ℕ) :
    Kept [.time, .chans, .trust, .mgmt, .tests] s (dropChan s ch) := by
  unfold dropChan
  repeat' first
    | with_reducible exact Kept.refl _ _
    | with_reducible assumption
    | intro (_h : Kept _ _ _)
    | ((try lift_lets); intro x; refine (have hx : Kept [.time, .chans, .trust, .mgmt, .tests] s x := ?_; ?_); (on_goal 1 => subst x); (on_goal 2 => clear_value x))
    | intro y
    | decide
    | with_reducible apply hf
    | (with_reducible apply Kept.step; (on_goal 2 => first
        | with_reducible apply pointChan_kept
        | with_reducible apply testDone_kept
        | with_reducible apply State.modChan_kept
        | with_reducible apply retrainDrop_kept))
    | (split; rename_i heq; refine (have hx : Kept [.time, .chans, .trust, .mgmt, .tests] s _ := Kept.of_snd heq ?_; ?_); (on_goal 2 => clear heq))
    | (split; rename_i heq; refine (have hx : Kept [.time, .chans, .trust, .mgmt, .tests] s _ := Kept.of_thd heq ?_; ?_); (on_goal 2 => clear heq))

theorem spallChan_kept (s : State) (ch : ℕ) :
    Kept [.nextId, .regs, .mem, .poison, .hostMem, .time, .tiles, .chans, .mortar, .errLog, .errOverflow, .ctxs, .trust, .mgmt, .tests, .msix, .msixSent, .regPosted] s (spallChan s ch) := by
  unfold spallChan
  repeat' first
    | with_reducible exact Kept.refl _ _
    | with_reducible assumption
    | intro (_h : Kept _ _ _)
    | ((try lift_lets); intro x; refine (have hx : Kept [.nextId, .regs, .mem, .poison, .hostMem, .time, .tiles, .chans, .mortar, .errLog, .errOverflow, .ctxs, .trust, .mgmt, .tests, .msix, .msixSent, .regPosted] s x := ?_; ?_); (on_goal 1 => subst x); (on_goal 2 => clear_value x))
    | ((try lift_lets); intro x; clear_value x)
    | intro y
    | decide
    | with_reducible apply hf
    | (with_reducible apply Kept.step; (on_goal 2 => first
        | with_reducible apply State.setChan_kept
        | with_reducible apply repairEvent_kept
        | with_reducible apply State.modChan_kept
        | with_reducible apply failWaiting_kept
        | with_reducible apply serveEntries_kept
        | with_reducible apply dropChan_kept))
    | with_reducible apply Kept.ite
    | (split; rename_i heq; refine (have hx : Kept [.nextId, .regs, .mem, .poison, .hostMem, .time, .tiles, .chans, .mortar, .errLog, .errOverflow, .ctxs, .trust, .mgmt, .tests, .msix, .msixSent, .regPosted] s _ := Kept.of_snd heq ?_; ?_); (on_goal 2 => clear heq))
    | (split; rename_i heq; refine (have hx : Kept [.nextId, .regs, .mem, .poison, .hostMem, .time, .tiles, .chans, .mortar, .errLog, .errOverflow, .ctxs, .trust, .mgmt, .tests, .msix, .msixSent, .regPosted] s _ := Kept.of_thd heq ?_; ?_); (on_goal 2 => clear heq))

theorem trainSpall_kept (s : State) (ch : ℕ) :
    Kept [.nextId, .regs, .mem, .poison, .hostMem, .time, .tiles, .chans, .mortar, .errLog, .errOverflow, .ctxs, .trust, .mgmt, .tests, .msix, .msixSent, .regPosted] s (trainSpall s ch) := by
  unfold trainSpall
  repeat' first
    | with_reducible exact Kept.refl _ _
    | with_reducible assumption
    | intro (_h : Kept _ _ _)
    | intro y
    | decide
    | with_reducible apply hf
    | (with_reducible apply Kept.step; (on_goal 2 => first
        | with_reducible apply repairEvent_kept
        | with_reducible apply failWaiting_kept
        | with_reducible apply dropChan_kept))
    | (split; rename_i heq; refine (have hx : Kept [.nextId, .regs, .mem, .poison, .hostMem, .time, .tiles, .chans, .mortar, .errLog, .errOverflow, .ctxs, .trust, .mgmt, .tests, .msix, .msixSent, .regPosted] s _ := Kept.of_snd heq ?_; ?_); (on_goal 2 => clear heq))
    | (split; rename_i heq; refine (have hx : Kept [.nextId, .regs, .mem, .poison, .hostMem, .time, .tiles, .chans, .mortar, .errLog, .errOverflow, .ctxs, .trust, .mgmt, .tests, .msix, .msixSent, .regPosted] s _ := Kept.of_thd heq ?_; ?_); (on_goal 2 => clear heq))

theorem trainEnd_kept (s : State) (ch : ℕ) (c : Chan) (lost : List ℕ) :
    Kept [.regs, .chans, .errLog, .errOverflow, .trust] s (trainEnd s ch c lost) := by
  unfold trainEnd
  repeat' first
    | with_reducible exact Kept.refl _ _
    | with_reducible assumption
    | intro (_h : Kept _ _ _)
    | ((try lift_lets); intro x; refine (have hx : Kept [.regs, .chans, .errLog, .errOverflow, .trust] s x := ?_; ?_); (on_goal 1 => subst x); (on_goal 2 => clear_value x))
    | ((try lift_lets); intro x; clear_value x)
    | intro y
    | decide
    | with_reducible apply hf
    | (with_reducible apply Kept.step; (on_goal 2 => first
        | with_reducible apply State.bump_kept
        | with_reducible apply State.setChan_kept
        | with_reducible apply logErr_kept
        | with_reducible apply pointChan_kept))
    | with_reducible apply Kept.ite
    | (split; rename_i heq; refine (have hx : Kept [.regs, .chans, .errLog, .errOverflow, .trust] s _ := Kept.of_snd heq ?_; ?_); (on_goal 2 => clear heq))
    | (split; rename_i heq; refine (have hx : Kept [.regs, .chans, .errLog, .errOverflow, .trust] s _ := Kept.of_thd heq ?_; ?_); (on_goal 2 => clear heq))

theorem fenceChan_kept (s : State) (ch : ℕ) :
    Kept [.chans] s (fenceChan s ch) := by
  unfold fenceChan
  repeat' first
    | with_reducible exact Kept.refl _ _
    | with_reducible assumption
    | intro (_h : Kept _ _ _)
    | intro y
    | decide
    | with_reducible apply hf
    | (with_reducible apply Kept.step; (on_goal 2 => with_reducible apply State.modChan_kept))
    | (split; rename_i heq; refine (have hx : Kept [.chans] s _ := Kept.of_snd heq ?_; ?_); (on_goal 2 => clear heq))
    | (split; rename_i heq; refine (have hx : Kept [.chans] s _ := Kept.of_thd heq ?_; ?_); (on_goal 2 => clear heq))

theorem fenceDone_kept (s : State) (ch : ℕ) :
    Kept [.nextId, .time, .tiles, .chans, .mortar, .trust, .mgmt, .tests] s (fenceDone s ch) := by
  unfold fenceDone
  repeat' first
    | with_reducible exact Kept.refl _ _
    | with_reducible assumption
    | intro (_h : Kept _ _ _)
    | ((try lift_lets); intro x; refine (have hx : Kept [.nextId, .time, .tiles, .chans, .mortar, .trust, .mgmt, .tests] s x := ?_; ?_); (on_goal 1 => subst x); (on_goal 2 => clear_value x))
    | ((try lift_lets); intro x; clear_value x)
    | intro y
    | decide
    | with_reducible apply hf
    | (with_reducible apply Kept.step; (on_goal 2 => first
        | with_reducible apply State.setChan_kept
        | with_reducible apply State.deliver_kept
        | with_reducible apply pointChan_kept
        | with_reducible apply testDone_kept
        | with_reducible apply failEntry_kept))
    | with_reducible apply Kept.ite
    | with_reducible apply Kept.ite₂
    | with_reducible apply Kept.ite₃
    | with_reducible apply Kept.iteW
    | with_reducible apply Kept.foldl
    | with_reducible apply Kept.foldl₂
    | with_reducible apply Kept.foldl₃
    | with_reducible refine Kept.of_snd (by assumption) ?_
    | with_reducible refine Kept.of_done (by assumption) ?_
    | with_reducible refine Kept.of_fault (by assumption) ?_
    | with_reducible refine Kept.of_wait (by assumption) ?_
    | with_reducible refine Kept.of_thd (by assumption) ?_
    | split

theorem unfenceChan_kept (s : State) (ch : ℕ) :
    Kept [.chans, .trust] s (unfenceChan s ch) := by
  unfold unfenceChan
  repeat' first
    | with_reducible exact Kept.refl _ _
    | with_reducible assumption
    | intro (_h : Kept _ _ _)
    | ((try lift_lets); intro x; clear_value x)
    | intro y
    | decide
    | with_reducible apply hf
    | (with_reducible apply Kept.step; (on_goal 2 => first
        | with_reducible apply State.setChan_kept
        | with_reducible apply pointChan_kept))
    | with_reducible apply Kept.ite
    | (split; rename_i heq; refine (have hx : Kept [.chans, .trust] s _ := Kept.of_snd heq ?_; ?_); (on_goal 2 => clear heq))
    | (split; rename_i heq; refine (have hx : Kept [.chans, .trust] s _ := Kept.of_thd heq ?_; ?_); (on_goal 2 => clear heq))

theorem chCmd_kept (s : State) (master : ℕ) (ch : ℕ) (cmd : ℕ) :
    Kept [.nextId, .regs, .mem, .poison, .hostMem, .time, .tiles, .chans, .mortar, .errLog, .errOverflow, .ctxs, .trust, .mgmt, .tests, .msix, .msixSent, .regPosted] s (chCmd s master ch cmd) := by
  unfold chCmd
  repeat' first
    | with_reducible exact Kept.refl _ _
    | with_reducible assumption
    | intro (_h : Kept _ _ _)
    | ((try lift_lets); intro x; refine (have hx : Kept [.nextId, .regs, .mem, .poison, .hostMem, .time, .tiles, .chans, .mortar, .errLog, .errOverflow, .ctxs, .trust, .mgmt, .tests, .msix, .msixSent, .regPosted] s x := ?_; ?_); (on_goal 1 => subst x); (on_goal 2 => clear_value x))
    | ((try lift_lets); intro x; clear_value x)
    | intro y
    | decide
    | with_reducible apply hf
    | (with_reducible apply Kept.step; (on_goal 2 => first
        | with_reducible apply State.setChan_kept
        | with_reducible apply State.clampEvent_kept
        | with_reducible apply retrainCause_kept
        | with_reducible apply spallChan_kept
        | with_reducible apply fenceChan_kept
        | with_reducible apply unfenceChan_kept))
    | with_reducible apply Kept.ite
    | (split; rename_i heq; refine (have hx : Kept [.nextId, .regs, .mem, .poison, .hostMem, .time, .tiles, .chans, .mortar, .errLog, .errOverflow, .ctxs, .trust, .mgmt, .tests, .msix, .msixSent, .regPosted] s _ := Kept.of_snd heq ?_; ?_); (on_goal 2 => clear heq))
    | (split; rename_i heq; refine (have hx : Kept [.nextId, .regs, .mem, .poison, .hostMem, .time, .tiles, .chans, .mortar, .errLog, .errOverflow, .ctxs, .trust, .mgmt, .tests, .msix, .msixSent, .regPosted] s _ := Kept.of_thd heq ?_; ?_); (on_goal 2 => clear heq))

theorem supplyWrite_kept (s : State) (master : ℕ) (b : ℕ) (ofs : ℕ) :
    Kept [.freeCtr, .regs, .mem, .poison, .chans] s (supplyWrite s master b ofs) := by
  unfold supplyWrite
  repeat' first
    | with_reducible exact Kept.refl _ _
    | with_reducible assumption
    | intro (_h : Kept _ _ _)
    | ((try lift_lets); intro x; refine (have hx : Kept [.freeCtr, .regs, .mem, .poison, .chans] s x := ?_; ?_); (on_goal 1 => subst x); (on_goal 2 => clear_value x))
    | ((try lift_lets); intro x; clear_value x)
    | intro y
    | decide
    | with_reducible apply hf
    | (with_reducible apply Kept.step; (on_goal 2 => first
        | with_reducible apply State.setReg_kept
        | with_reducible apply State.clampEvent_kept
        | with_reducible apply State.undefine_kept
        | with_reducible apply State.modChan_kept))
    | with_reducible apply Kept.ite
    | with_reducible apply Kept.ite₂
    | with_reducible apply Kept.ite₃
    | with_reducible apply Kept.iteW
    | with_reducible apply Kept.foldl
    | (split; rename_i heq; refine (have hx : Kept [.freeCtr, .regs, .mem, .poison, .chans] s _ := Kept.of_snd heq ?_; ?_); (on_goal 2 => clear heq))
    | (split; rename_i heq; refine (have hx : Kept [.freeCtr, .regs, .mem, .poison, .chans] s _ := Kept.of_thd heq ?_; ?_); (on_goal 2 => clear heq))

end Sys2Proof.Machine
end

