-- ==== Sys2Proof/Laws/FrameHod.lean ====
section
/-! SUPPORT. Frames of the operations of Machine/Hod.lean. -/

namespace Sys2Proof.Machine

theorem State.modHod_kept (s : State) (t : ℕ) (g : Hod → Hod) :
    Kept [.tiles] s (State.modHod s t g) := by
  unfold State.modHod
  repeat' first
    | with_reducible exact Kept.refl _ _
    | with_reducible assumption
    | intro (_h : Kept _ _ _)
    | intro y
    | decide
    | with_reducible apply hf
    | (with_reducible apply Kept.step; (on_goal 2 => with_reducible apply State.modTile_kept))
    | (split; rename_i heq; refine (have hx : Kept [.tiles] s _ := Kept.of_snd heq ?_; ?_); (on_goal 2 => clear heq))
    | (split; rename_i heq; refine (have hx : Kept [.tiles] s _ := Kept.of_thd heq ?_; ?_); (on_goal 2 => clear heq))

theorem State.modStream_kept (s : State) (t : ℕ) (n : ℕ) (g : Stream → Stream) :
    Kept [.tiles] s (State.modStream s t n g) := by
  unfold State.modStream
  repeat' first
    | with_reducible exact Kept.refl _ _
    | with_reducible assumption
    | intro (_h : Kept _ _ _)
    | intro y
    | decide
    | with_reducible apply hf
    | (with_reducible apply Kept.step; (on_goal 2 => with_reducible apply State.modHod_kept))
    | (split; rename_i heq; refine (have hx : Kept [.tiles] s _ := Kept.of_snd heq ?_; ?_); (on_goal 2 => clear heq))
    | (split; rename_i heq; refine (have hx : Kept [.tiles] s _ := Kept.of_thd heq ?_; ?_); (on_goal 2 => clear heq))

theorem State.modHDesc_kept (s : State) (t : ℕ) (id : ℕ) (g : HDesc → HDesc) :
    Kept [.tiles] s (State.modHDesc s t id g) := by
  unfold State.modHDesc
  repeat' first
    | with_reducible exact Kept.refl _ _
    | with_reducible assumption
    | intro (_h : Kept _ _ _)
    | intro y
    | decide
    | with_reducible apply hf
    | (with_reducible apply Kept.step; (on_goal 2 => with_reducible apply State.modHod_kept))
    | (split; rename_i heq; refine (have hx : Kept [.tiles] s _ := Kept.of_snd heq ?_; ?_); (on_goal 2 => clear heq))
    | (split; rename_i heq; refine (have hx : Kept [.tiles] s _ := Kept.of_thd heq ?_; ?_); (on_goal 2 => clear heq))

theorem hodstreamWord_kept (s : State) (t : ℕ) (w : CWord) :
    Kept [.tiles] s (hodstreamWord s t w).state := by
  unfold hodstreamWord
  repeat' first
    | with_reducible exact Kept.refl _ _
    | with_reducible assumption
    | intro (_h : Kept _ _ _)
    | ((try lift_lets); intro x; clear_value x)
    | intro y
    | decide
    | with_reducible apply hf
    | (with_reducible apply Kept.step; (on_goal 2 => with_reducible apply State.modHod_kept))
    | with_reducible apply Kept.ite
    | with_reducible apply Kept.ite₂
    | with_reducible apply Kept.ite₃
    | with_reducible apply Kept.iteW
    | (split; rename_i heq; refine (have hx : Kept [.tiles] s _ := Kept.of_snd heq ?_; ?_); (on_goal 2 => clear heq))
    | (split; rename_i heq; refine (have hx : Kept [.tiles] s _ := Kept.of_thd heq ?_; ?_); (on_goal 2 => clear heq))

theorem hodrunWord_kept (pc : ℕ) (s : State) (t : ℕ) (w : CWord) :
    Kept [.nextId, .tiles] s (hodrunWord pc s t w).state := by
  unfold hodrunWord
  repeat' first
    | with_reducible exact Kept.refl _ _
    | with_reducible assumption
    | intro (_h : Kept _ _ _)
    | ((try lift_lets); intro x; clear_value x)
    | intro y
    | decide
    | with_reducible apply hf
    | (with_reducible apply Kept.step; (on_goal 2 => first
        | with_reducible apply State.fresh_kept
        | with_reducible apply State.modHod_kept))
    | with_reducible apply Kept.ite
    | with_reducible apply Kept.ite₂
    | with_reducible apply Kept.ite₃
    | with_reducible apply Kept.iteW
    | with_reducible apply Kept.foldl
    | with_reducible apply Kept.foldl₂
    | with_reducible apply Kept.foldl₃
    | with_reducible refine Kept.of_snd (by assumption) ?_
    | with_reducible refine Kept.of_done (by assumption) ?_
    | with_reducible refine Kept.of_fault (by assumption) ?_
    | with_reducible refine Kept.of_wait (by assumption) ?_
    | with_reducible refine Kept.of_thd (by assumption) ?_
    | split

theorem hodrecvWord_kept (s : State) (t : ℕ) (w : CWord) :
    Kept [.tiles] s (hodrecvWord s t w).state := by
  unfold hodrecvWord
  repeat' first
    | with_reducible exact Kept.refl _ _
    | with_reducible assumption
    | intro (_h : Kept _ _ _)
    | intro y
    | decide
    | with_reducible apply hf
    | (with_reducible apply Kept.step; (on_goal 2 => with_reducible apply State.modStream_kept))
    | with_reducible apply Kept.ite
    | with_reducible apply Kept.ite₂
    | with_reducible apply Kept.ite₃
    | with_reducible apply Kept.iteW
    | with_reducible apply Kept.foldl
    | with_reducible apply Kept.foldl₂
    | with_reducible apply Kept.foldl₃
    | with_reducible refine Kept.of_snd (by assumption) ?_
    | with_reducible refine Kept.of_done (by assumption) ?_
    | with_reducible refine Kept.of_fault (by assumption) ?_
    | with_reducible refine Kept.of_wait (by assumption) ?_
    | with_reducible refine Kept.of_thd (by assumption) ?_
    | split

theorem hodcmoWord_kept (s : State) (t : ℕ) (w : CWord) :
    Kept [.regs, .mem, .poison, .tiles, .mortar] s (hodcmoWord s t w).state := by
  unfold hodcmoWord
  repeat' first
    | with_reducible exact Kept.refl _ _
    | with_reducible assumption
    | intro (_h : Kept _ _ _)
    | ((try lift_lets); intro x; clear_value x)
    | intro y
    | decide
    | with_reducible apply hf
    | (with_reducible apply Kept.step; (on_goal 2 => with_reducible apply cacheMaintain_kept))
    | with_reducible apply Kept.ite
    | with_reducible apply Kept.ite₂
    | with_reducible apply Kept.ite₃
    | with_reducible apply Kept.iteW
    | (split; rename_i heq; refine (have hx : Kept [.regs, .mem, .poison, .tiles, .mortar] s _ := Kept.of_snd heq ?_; ?_); (on_goal 2 => clear heq))
    | (split; rename_i heq; refine (have hx : Kept [.regs, .mem, .poison, .tiles, .mortar] s _ := Kept.of_thd heq ?_; ?_); (on_goal 2 => clear heq))

theorem countMember_kept (stream : ℕ) (s : State) (m : ℕ) :
    Kept [.tiles] s (countMember stream s m) := by
  unfold countMember
  repeat' first
    | with_reducible exact Kept.refl _ _
    | with_reducible assumption
    | intro (_h : Kept _ _ _)
    | intro y
    | decide
    | with_reducible apply hf
    | (with_reducible apply Kept.step; (on_goal 2 => with_reducible apply State.modStream_kept))
    | (split; rename_i heq; refine (have hx : Kept [.tiles] s _ := Kept.of_snd heq ?_; ?_); (on_goal 2 => clear heq))
    | (split; rename_i heq; refine (have hx : Kept [.tiles] s _ := Kept.of_thd heq ?_; ?_); (on_goal 2 => clear heq))

theorem countSpread_kept (s : State) (t : ℕ) (d : HDesc) :
    Kept [.tiles] s (countSpread s t d) := by
  unfold countSpread
  repeat' first
    | with_reducible exact Kept.refl _ _
    | with_reducible assumption
    | intro (_h : Kept _ _ _)
    | intro y
    | decide
    | with_reducible apply hf
    | (with_reducible apply Kept.step; (on_goal 2 => first
        | with_reducible apply State.modHDesc_kept
        | with_reducible apply countMember_kept))
    | with_reducible apply Kept.ite
    | with_reducible apply Kept.ite₂
    | with_reducible apply Kept.ite₃
    | with_reducible apply Kept.iteW
    | with_reducible apply Kept.foldl
    | (split; rename_i heq; refine (have hx : Kept [.tiles] s _ := Kept.of_snd heq ?_; ?_); (on_goal 2 => clear heq))
    | (split; rename_i heq; refine (have hx : Kept [.tiles] s _ := Kept.of_thd heq ?_; ?_); (on_goal 2 => clear heq))

theorem sweepDesc_kept (s : State) (t : ℕ) (d : HDesc) :
    Kept [.tiles, .kv] s (sweepDesc s t d) := by
  unfold sweepDesc
  repeat' first
    | with_reducible exact Kept.refl _ _
    | with_reducible assumption
    | intro (_h : Kept _ _ _)
    | ((try lift_lets); intro x; clear_value x)
    | intro y
    | decide
    | with_reducible apply hf
    | (with_reducible apply Kept.step; (on_goal 2 => first
        | with_reducible apply kvDone_kept
        | with_reducible apply State.modHod_kept))
    | with_reducible apply Kept.ite
    | (split; rename_i heq; refine (have hx : Kept [.tiles, .kv] s _ := Kept.of_snd heq ?_; ?_); (on_goal 2 => clear heq))
    | (split; rename_i heq; refine (have hx : Kept [.tiles, .kv] s _ := Kept.of_thd heq ?_; ?_); (on_goal 2 => clear heq))

theorem deliverDesc_kept (s : State) (t : ℕ) (d : HDesc) :
    Kept [.regs, .mem, .poison, .hostMem, .time, .tiles, .mortar, .errLog, .errOverflow, .ctxs, .launches, .joints, .kv, .links, .conts, .msix, .msixSent, .regPosted] s (deliverDesc s t d) := by
  unfold deliverDesc
  repeat' first
    | with_reducible exact Kept.refl _ _
    | with_reducible assumption
    | intro (_h : Kept _ _ _)
    | ((try lift_lets); intro x; refine (have hx : Kept [.regs, .mem, .poison, .hostMem, .time, .tiles, .mortar, .errLog, .errOverflow, .ctxs, .launches, .joints, .kv, .links, .conts, .msix, .msixSent, .regPosted] s x := ?_; ?_); (on_goal 1 => subst x); (on_goal 2 => clear_value x))
    | ((try lift_lets); intro x; clear_value x)
    | intro y
    | decide
    | with_reducible apply hf
    | (with_reducible apply Kept.step; (on_goal 2 => first
        | with_reducible apply State.orReg_kept
        | with_reducible apply State.deliver_kept
        | with_reducible apply jointAddFor_kept
        | with_reducible apply signalToken_kept
        | with_reducible apply State.modHod_kept
        | with_reducible apply State.modStream_kept
        | with_reducible apply State.modHDesc_kept
        | with_reducible apply sweepDesc_kept))
    | with_reducible apply Kept.ite
    | with_reducible apply Kept.ite₂
    | with_reducible apply Kept.ite₃
    | with_reducible apply Kept.iteW
    | with_reducible apply Kept.foldl
    | with_reducible apply Kept.foldl₂
    | with_reducible apply Kept.foldl₃
    | with_reducible refine Kept.of_snd (by assumption) ?_
    | with_reducible refine Kept.of_done (by assumption) ?_
    | with_reducible refine Kept.of_fault (by assumption) ?_
    | with_reducible refine Kept.of_wait (by assumption) ?_
    | with_reducible refine Kept.of_thd (by assumption) ?_
    | split

theorem hodSettleN_kept (x0 : ℕ) (x1 : State) (x2 : ℕ) :
    Kept [.regs, .mem, .poison, .hostMem, .time, .tiles, .mortar, .errLog, .errOverflow, .ctxs, .launches, .joints, .kv, .links, .conts, .msix, .msixSent, .regPosted] x1 (hodSettleN x0 x1 x2) := by
  induction x0 generalizing x1 x2 with
  | zero =>
    rw [hodSettleN]
    repeat' first
      | with_reducible exact Kept.refl _ _
      | ((try lift_lets); intro x; refine (have hx : Kept [.regs, .mem, .poison, .hostMem, .time, .tiles, .mortar, .errLog, .errOverflow, .ctxs, .launches, .joints, .kv, .links, .conts, .msix, .msixSent, .regPosted] x1 x := ?_; ?_); (on_goal 1 => subst x); (on_goal 2 => clear_value x))
      | ((try lift_lets); intro x; refine (have hx : Kept [.regs, .mem, .poison, .hostMem, .time, .tiles, .mortar, .errLog, .errOverflow, .ctxs, .launches, .joints, .kv, .links, .conts, .msix, .msixSent, .regPosted] x1 x.2 := ?_; ?_); (on_goal 1 => subst x); (on_goal 2 => clear_value x))
      | ((try lift_lets); intro x; refine (have hx : Kept [.regs, .mem, .poison, .hostMem, .time, .tiles, .mortar, .errLog, .errOverflow, .ctxs, .launches, .joints, .kv, .links, .conts, .msix, .msixSent, .regPosted] x1 x.2.2 := ?_; ?_); (on_goal 1 => subst x); (on_goal 2 => clear_value x))
      | ((try lift_lets); intro x; refine (have hf : ∀ y : State, Kept [.regs, .mem, .poison, .hostMem, .time, .tiles, .mortar, .errLog, .errOverflow, .ctxs, .launches, .joints, .kv, .links, .conts, .msix, .msixSent, .regPosted] x1 y → Kept [.regs, .mem, .poison, .hostMem, .time, .tiles, .mortar, .errLog, .errOverflow, .ctxs, .launches, .joints, .kv, .links, .conts, .msix, .msixSent, .regPosted] x1 (x y) := ?_; ?_); (on_goal 1 => subst x); (on_goal 2 => clear_value x))
      | ((try lift_lets); intro x; refine (have hf : ∀ (y : State) a, Kept [.regs, .mem, .poison, .hostMem, .time, .tiles, .mortar, .errLog, .errOverflow, .ctxs, .launches, .joints, .kv, .links, .conts, .msix, .msixSent, .regPosted] x1 y → Kept [.regs, .mem, .poison, .hostMem, .time, .tiles, .mortar, .errLog, .errOverflow, .ctxs, .launches, .joints, .kv, .links, .conts, .msix, .msixSent, .regPosted] x1 (x y a) := ?_; ?_); (on_goal 1 => subst x); (on_goal 2 => clear_value x))
      | ((try lift_lets); intro x; clear_value x)
      | (with_reducible apply Kept.step; (on_goal 2 => with_reducible apply deliverDesc_kept))
      | (split; rename_i heq; refine (have hx : Kept [.regs, .mem, .poison, .hostMem, .time, .tiles, .mortar, .errLog, .errOverflow, .ctxs, .launches, .joints, .kv, .links, .conts, .msix, .msixSent, .regPosted] x1 _ := Kept.of_snd heq ?_; ?_); (on_goal 2 => clear heq))
      | (split; rename_i heq; refine (have hx : Kept [.regs, .mem, .poison, .hostMem, .time, .tiles, .mortar, .errLog, .errOverflow, .ctxs, .launches, .joints, .kv, .links, .conts, .msix, .msixSent, .regPosted] x1 _ := Kept.of_thd heq ?_; ?_); (on_goal 2 => clear heq))
  | succ n ih =>
    rw [hodSettleN]
    repeat' first
      | with_reducible exact Kept.refl _ _
      | with_reducible assumption
      | (with_reducible apply Kept.trans; (on_goal 2 => with_reducible apply ih))
      | intro (_h : Kept _ _ _)
      | intro y
      | decide
      | with_reducible apply hf
      | (with_reducible apply Kept.step; (on_goal 2 => with_reducible apply deliverDesc_kept))
      | with_reducible apply Kept.ite
      | with_reducible apply Kept.ite₂
      | with_reducible apply Kept.ite₃
      | with_reducible apply Kept.iteW
      | with_reducible apply Kept.foldl
      | with_reducible apply Kept.foldl₂
      | with_reducible apply Kept.foldl₃
      | with_reducible refine Kept.of_snd (by assumption) ?_
      | with_reducible refine Kept.of_done (by assumption) ?_
      | with_reducible refine Kept.of_fault (by assumption) ?_
      | with_reducible refine Kept.of_wait (by assumption) ?_
      | with_reducible refine Kept.of_thd (by assumption) ?_
      | split

theorem hodSettle_kept (s : State) (t : ℕ) :
    Kept [.regs, .mem, .poison, .hostMem, .time, .tiles, .mortar, .errLog, .errOverflow, .ctxs, .launches, .joints, .kv, .links, .conts, .msix, .msixSent, .regPosted] s (hodSettle s t) := by
  unfold hodSettle
  repeat' first
    | with_reducible exact Kept.refl _ _
    | with_reducible assumption
    | intro (_h : Kept _ _ _)
    | intro y
    | decide
    | with_reducible apply hf
    | (with_reducible apply Kept.step; (on_goal 2 => with_reducible apply hodSettleN_kept))
    | (split; rename_i heq; refine (have hx : Kept [.regs, .mem, .poison, .hostMem, .time, .tiles, .mortar, .errLog, .errOverflow, .ctxs, .launches, .joints, .kv, .links, .conts, .msix, .msixSent, .regPosted] s _ := Kept.of_snd heq ?_; ?_); (on_goal 2 => clear heq))
    | (split; rename_i heq; refine (have hx : Kept [.regs, .mem, .poison, .hostMem, .time, .tiles, .mortar, .errLog, .errOverflow, .ctxs, .launches, .joints, .kv, .links, .conts, .msix, .msixSent, .regPosted] s _ := Kept.of_thd heq ?_; ?_); (on_goal 2 => clear heq))

theorem hodAfter_kept (s : State) (t : ℕ) (id : ℕ) :
    Kept [.regs, .mem, .poison, .hostMem, .time, .tiles, .mortar, .errLog, .errOverflow, .ctxs, .launches, .joints, .kv, .links, .conts, .msix, .msixSent, .regPosted] s (hodAfter s t id) := by
  unfold hodAfter
  repeat' first
    | with_reducible exact Kept.refl _ _
    | with_reducible assumption
    | intro (_h : Kept _ _ _)
    | ((try lift_lets); intro x; refine (have hx : Kept [.regs, .mem, .poison, .hostMem, .time, .tiles, .mortar, .errLog, .errOverflow, .ctxs, .launches, .joints, .kv, .links, .conts, .msix, .msixSent, .regPosted] s x := ?_; ?_); (on_goal 1 => subst x); (on_goal 2 => clear_value x))
    | intro y
    | decide
    | with_reducible apply hf
    | (with_reducible apply Kept.step; (on_goal 2 => first
        | with_reducible apply countSpread_kept
        | with_reducible apply sweepDesc_kept
        | with_reducible apply hodSettle_kept))
    | with_reducible apply Kept.ite
    | with_reducible apply Kept.ite₂
    | with_reducible apply Kept.ite₃
    | with_reducible apply Kept.iteW
    | with_reducible apply Kept.foldl
    | with_reducible apply Kept.foldl₂
    | with_reducible apply Kept.foldl₃
    | with_reducible refine Kept.of_snd (by assumption) ?_
    | with_reducible refine Kept.of_done (by assumption) ?_
    | with_reducible refine Kept.of_fault (by assumption) ?_
    | with_reducible refine Kept.of_wait (by assumption) ?_
    | with_reducible refine Kept.of_thd (by assumption) ?_
    | split

theorem hodAddrError_kept (s : State) (t : ℕ) (d : HDesc) :
    Kept [.regs, .mem, .poison, .hostMem, .time, .tiles, .mortar, .errLog, .errOverflow, .ctxs, .launches, .joints, .kv, .links, .conts, .msix, .msixSent, .regPosted] s (hodAddrError s t d) := by
  unfold hodAddrError
  repeat' first
    | with_reducible exact Kept.refl _ _
    | with_reducible assumption
    | intro (_h : Kept _ _ _)
    | ((try lift_lets); intro x; refine (have hx : Kept [.regs, .mem, .poison, .hostMem, .time, .tiles, .mortar, .errLog, .errOverflow, .ctxs, .launches, .joints, .kv, .links, .conts, .msix, .msixSent, .regPosted] s x := ?_; ?_); (on_goal 1 => subst x); (on_goal 2 => clear_value x))
    | intro y
    | decide
    | with_reducible apply hf
    | (with_reducible apply Kept.step; (on_goal 2 => first
        | with_reducible apply State.orReg_kept
        | with_reducible apply State.addrError_kept
        | with_reducible apply tileFault_kept
        | with_reducible apply State.modHod_kept
        | with_reducible apply State.modHDesc_kept
        | with_reducible apply hodAfter_kept))
    | with_reducible apply Kept.ite
    | (split; rename_i heq; refine (have hx : Kept [.regs, .mem, .poison, .hostMem, .time, .tiles, .mortar, .errLog, .errOverflow, .ctxs, .launches, .joints, .kv, .links, .conts, .msix, .msixSent, .regPosted] s _ := Kept.of_snd heq ?_; ?_); (on_goal 2 => clear heq))
    | (split; rename_i heq; refine (have hx : Kept [.regs, .mem, .poison, .hostMem, .time, .tiles, .mortar, .errLog, .errOverflow, .ctxs, .launches, .joints, .kv, .links, .conts, .msix, .msixSent, .regPosted] s _ := Kept.of_thd heq ?_; ?_); (on_goal 2 => clear heq))

theorem hodPoison_kept (s : State) (t : ℕ) (d : HDesc) (host : Bool) (bad : List ℕ) :
    Kept [.regs, .mem, .poison, .hostMem, .time, .tiles, .mortar, .errLog, .errOverflow, .ctxs, .msix, .msixSent, .regPosted] s (hodPoison s t d host bad) := by
  unfold hodPoison
  repeat' first
    | with_reducible exact Kept.refl _ _
    | with_reducible assumption
    | intro (_h : Kept _ _ _)
    | ((try lift_lets); intro x; refine (have hx : Kept [.regs, .mem, .poison, .hostMem, .time, .tiles, .mortar, .errLog, .errOverflow, .ctxs, .msix, .msixSent, .regPosted] s x := ?_; ?_); (on_goal 1 => subst x); (on_goal 2 => clear_value x))
    | intro y
    | decide
    | with_reducible apply hf
    | (with_reducible apply Kept.step; (on_goal 2 => first
        | with_reducible apply breakForData_kept
        | with_reducible apply breakForWords_kept
        | with_reducible apply State.modHDesc_kept))
    | with_reducible apply Kept.ite
    | (split; rename_i heq; refine (have hx : Kept [.regs, .mem, .poison, .hostMem, .time, .tiles, .mortar, .errLog, .errOverflow, .ctxs, .msix, .msixSent, .regPosted] s _ := Kept.of_snd heq ?_; ?_); (on_goal 2 => clear heq))
    | (split; rename_i heq; refine (have hx : Kept [.regs, .mem, .poison, .hostMem, .time, .tiles, .mortar, .errLog, .errOverflow, .ctxs, .msix, .msixSent, .regPosted] s _ := Kept.of_thd heq ?_; ?_); (on_goal 2 => clear heq))

theorem hodAdmit_kept (s : State) (t : ℕ) (d : HDesc) (members : List ℕ) :
    Kept [.nextId, .regs, .time] s (hodAdmit s t d members).2 := by
  unfold hodAdmit
  repeat' first
    | with_reducible exact Kept.refl _ _
    | with_reducible assumption
    | intro (_h : Kept _ _ _)
    | ((try lift_lets); intro x; clear_value x)
    | intro y
    | decide
    | with_reducible apply hf
    | (with_reducible apply Kept.step; (on_goal 2 => with_reducible apply admitReq_kept))
    | with_reducible apply Kept.ite
    | with_reducible apply Kept.ite₂
    | with_reducible apply Kept.ite₃
    | with_reducible apply Kept.iteW
    | with_reducible apply Kept.foldl
    | with_reducible apply Kept.foldl₂
    | with_reducible apply Kept.foldl₃
    | (split; rename_i heq; refine (have hx : Kept [.nextId, .regs, .time] s _ := Kept.of_snd heq ?_; ?_); (on_goal 2 => clear heq))
    | with_reducible refine Kept.of_snd (by assumption) ?_
    | with_reducible refine Kept.of_done (by assumption) ?_
    | with_reducible refine Kept.of_fault (by assumption) ?_
    | with_reducible refine Kept.of_wait (by assumption) ?_
    | with_reducible refine Kept.of_thd (by assumption) ?_
    | split

theorem hodTake_kept (s : State) (t : ℕ) (d : HDesc) :
    Kept [.nextId, .regs, .mem, .poison, .hostMem, .time, .tiles, .mortar, .errLog, .errOverflow, .ctxs, .launches, .joints, .kv, .links, .conts, .msix, .msixSent, .regPosted] s (hodTake s t d) := by
  unfold hodTake
  repeat' first
    | with_reducible exact Kept.refl _ _
    | with_reducible assumption
    | intro (_h : Kept _ _ _)
    | ((try lift_lets); intro x; clear_value x)
    | intro y
    | decide
    | with_reducible apply hf
    | (with_reducible apply Kept.step; (on_goal 2 => first
        | with_reducible apply tileFault_kept
        | with_reducible apply kvUse_kept
        | with_reducible apply State.modHDesc_kept
        | with_reducible apply hodSettle_kept
        | with_reducible apply hodAdmit_kept))
    | with_reducible apply Kept.ite
    | with_reducible apply Kept.ite₂
    | (split; rename_i heq; refine (have hx : Kept [.nextId, .regs, .mem, .poison, .hostMem, .time, .tiles, .mortar, .errLog, .errOverflow, .ctxs, .launches, .joints, .kv, .links, .conts, .msix, .msixSent, .regPosted] s _ := Kept.of_snd heq ?_; ?_); (on_goal 2 => clear heq))
    | (split; rename_i heq; refine (have hx : Kept [.nextId, .regs, .mem, .poison, .hostMem, .time, .tiles, .mortar, .errLog, .errOverflow, .ctxs, .launches, .joints, .kv, .links, .conts, .msix, .msixSent, .regPosted] s _ := Kept.of_thd heq ?_; ?_); (on_goal 2 => clear heq))

theorem takeTag_kept (s : State) (t : ℕ) (d : HDesc) (r : HReq) (answered : Bool) (data : List Byte) (bad : List ℕ) :
    Kept [.tiles] s (takeTag s t d r answered data bad).2 := by
  unfold takeTag
  repeat' first
    | with_reducible exact Kept.refl _ _
    | with_reducible assumption
    | intro (_h : Kept _ _ _)
    | ((try lift_lets); intro x; clear_value x)
    | intro y
    | decide
    | with_reducible apply hf
    | (with_reducible apply Kept.step; (on_goal 2 => with_reducible apply State.modHod_kept))
    | (split; rename_i heq; refine (have hx : Kept [.tiles] s _ := Kept.of_snd heq ?_; ?_); (on_goal 2 => clear heq))
    | (split; rename_i heq; refine (have hx : Kept [.tiles] s _ := Kept.of_thd heq ?_; ?_); (on_goal 2 => clear heq))

theorem chanReq_kept (s : State) (t : ℕ) (tag : ℕ) (treq : Option ℕ) (write : Bool) (a : ℕ) (n : ℕ) (data : List Byte) (bad : List ℕ) :
    Kept [.nextId, .tiles, .chans, .mortar] s (chanReq s t tag treq write a n data bad) := by
  unfold chanReq
  repeat' first
    | with_reducible exact Kept.refl _ _
    | with_reducible assumption
    | intro (_h : Kept _ _ _)
    | intro y
    | decide
    | with_reducible apply hf
    | (with_reducible apply Kept.step; (on_goal 2 => first
        | with_reducible apply State.fresh_kept
        | with_reducible apply enterChan_kept))
    | (split; rename_i heq; refine (have hx : Kept [.nextId, .tiles, .chans, .mortar] s _ := Kept.of_snd heq ?_; ?_); (on_goal 2 => clear heq))
    | (split; rename_i heq; refine (have hx : Kept [.nextId, .tiles, .chans, .mortar] s _ := Kept.of_thd heq ?_; ?_); (on_goal 2 => clear heq))

theorem issueFetch_kept (s : State) (t : ℕ) (d : HDesc) (r : HReq) :
    Kept [.nextId, .regs, .tiles, .chans, .mortar, .errLog, .errOverflow, .ctxs] s (issueFetch s t d r) := by
  unfold issueFetch
  repeat' first
    | with_reducible exact Kept.refl _ _
    | with_reducible assumption
    | intro (_h : Kept _ _ _)
    | ((try lift_lets); intro x; refine (have hx : Kept [.nextId, .regs, .tiles, .chans, .mortar, .errLog, .errOverflow, .ctxs] s x := ?_; ?_); (on_goal 1 => subst x); (on_goal 2 => clear_value x))
    | ((try lift_lets); intro x; clear_value x)
    | intro y
    | decide
    | with_reducible apply hf
    | (with_reducible apply Kept.step; (on_goal 2 => first
        | with_reducible apply State.bump_kept
        | with_reducible apply State.noteProt_kept
        | with_reducible apply takeTag_kept
        | with_reducible apply chanReq_kept))
    | with_reducible apply Kept.ite
    | with_reducible apply Kept.ite₂
    | with_reducible apply Kept.ite₃
    | with_reducible apply Kept.iteW
    | with_reducible apply Kept.foldl
    | with_reducible apply Kept.foldl₂
    | with_reducible apply Kept.foldl₃
    | with_reducible refine Kept.of_snd (by assumption) ?_
    | with_reducible refine Kept.of_done (by assumption) ?_
    | with_reducible refine Kept.of_fault (by assumption) ?_
    | with_reducible refine Kept.of_wait (by assumption) ?_
    | with_reducible refine Kept.of_thd (by assumption) ?_
    | split

theorem issueRead_kept (s : State) (t : ℕ) (d : HDesc) (r : HReq) :
    Kept [.nextId, .regs, .tiles, .chans, .mortar, .errLog, .errOverflow, .ctxs, .hostReads] s (issueRead s t d r) := by
  unfold issueRead
  repeat' first
    | with_reducible exact Kept.refl _ _
    | with_reducible assumption
    | intro (_h : Kept _ _ _)
    | ((try lift_lets); intro x; clear_value x)
    | intro y
    | decide
    | with_reducible apply hf
    | (with_reducible apply Kept.step; (on_goal 2 => first
        | with_reducible apply State.sendFlits_kept
        | with_reducible apply agentRead_kept
        | with_reducible apply State.askHost_kept
        | with_reducible apply takeTag_kept
        | with_reducible apply chanReq_kept))
    | with_reducible apply Kept.ite
    | with_reducible apply Kept.ite₂
    | with_reducible apply Kept.ite₃
    | with_reducible apply Kept.iteW
    | with_reducible apply Kept.foldl
    | with_reducible apply Kept.foldl₂
    | with_reducible apply Kept.foldl₃
    | with_reducible refine Kept.of_snd (by assumption) ?_
    | with_reducible refine Kept.of_done (by assumption) ?_
    | with_reducible refine Kept.of_fault (by assumption) ?_
    | with_reducible refine Kept.of_wait (by assumption) ?_
    | with_reducible refine Kept.of_thd (by assumption) ?_
    | split

theorem issueReq_kept (s : State) (t : ℕ) (d : HDesc) (r : HReq) :
    Kept [.nextId, .regs, .mem, .poison, .hostMem, .time, .tiles, .chans, .mortar, .errLog, .errOverflow, .ctxs, .launches, .joints, .kv, .hostReads, .links, .conts, .msix, .msixSent, .regPosted] s (issueReq s t d r) := by
  unfold issueReq
  repeat' first
    | with_reducible exact Kept.refl _ _
    | with_reducible assumption
    | intro (_h : Kept _ _ _)
    | ((try lift_lets); intro x; refine (have hx : Kept [.nextId, .regs, .mem, .poison, .hostMem, .time, .tiles, .chans, .mortar, .errLog, .errOverflow, .ctxs, .launches, .joints, .kv, .hostReads, .links, .conts, .msix, .msixSent, .regPosted] s x := ?_; ?_); (on_goal 1 => subst x); (on_goal 2 => clear_value x))
    | ((try lift_lets); intro x; refine (have hf : ∀ (y : State) a, Kept [.nextId, .regs, .mem, .poison, .hostMem, .time, .tiles, .chans, .mortar, .errLog, .errOverflow, .ctxs, .launches, .joints, .kv, .hostReads, .links, .conts, .msix, .msixSent, .regPosted] s y → Kept [.nextId, .regs, .mem, .poison, .hostMem, .time, .tiles, .chans, .mortar, .errLog, .errOverflow, .ctxs, .launches, .joints, .kv, .hostReads, .links, .conts, .msix, .msixSent, .regPosted] s (x y a) := ?_; ?_); (on_goal 1 => subst x); (on_goal 2 => clear_value x))
    | intro y
    | decide
    | with_reducible apply hf
    | (with_reducible apply Kept.step; (on_goal 2 => first
        | with_reducible apply State.noteProt_kept
        | with_reducible apply State.modHDesc_kept
        | with_reducible apply hodAddrError_kept
        | with_reducible apply takeTag_kept
        | with_reducible apply issueFetch_kept
        | with_reducible apply issueRead_kept))
    | with_reducible apply Kept.ite
    | with_reducible apply Kept.ite₂
    | with_reducible apply Kept.ite₃
    | with_reducible apply Kept.iteW
    | with_reducible apply Kept.foldl
    | with_reducible apply Kept.foldl₂
    | with_reducible apply Kept.foldl₃
    | with_reducible refine Kept.of_snd (by assumption) ?_
    | with_reducible refine Kept.of_done (by assumption) ?_
    | with_reducible refine Kept.of_fault (by assumption) ?_
    | with_reducible refine Kept.of_wait (by assumption) ?_
    | with_reducible refine Kept.of_thd (by assumption) ?_
    | split

theorem reqProgress_kept (s : State) (t : ℕ) (d : HDesc) (r : HReq) :
    Kept [.time] s (reqProgress s t d r) := by
  unfold reqProgress
  repeat' first
    | with_reducible exact Kept.refl _ _
    | with_reducible assumption
    | intro (_h : Kept _ _ _)
    | ((try lift_lets); intro x; clear_value x)
    | intro y
    | decide
    | with_reducible apply hf
    | (with_reducible apply Kept.step; (on_goal 2 => with_reducible apply State.progress_kept))
    | with_reducible apply Kept.ite
    | with_reducible apply Kept.ite₂
    | with_reducible apply Kept.ite₃
    | with_reducible apply Kept.iteW
    | with_reducible apply Kept.foldl
    | with_reducible apply Kept.foldl₂
    | with_reducible apply Kept.foldl₃
    | with_reducible refine Kept.of_snd (by assumption) ?_
    | with_reducible refine Kept.of_done (by assumption) ?_
    | with_reducible refine Kept.of_fault (by assumption) ?_
    | with_reducible refine Kept.of_wait (by assumption) ?_
    | with_reducible refine Kept.of_thd (by assumption) ?_
    | split

theorem landLine_kept (s : State) (t : ℕ) (g : HTag) (a : ℕ) (n : ℕ) :
    Kept [.regs, .mem, .poison, .tiles, .mortar, .errLog, .errOverflow] s (landLine s t g a n).2 := by
  unfold landLine
  repeat' first
    | with_reducible exact Kept.refl _ _
    | with_reducible assumption
    | intro (_h : Kept _ _ _)
    | ((try lift_lets); intro x; clear_value x)
    | intro y
    | decide
    | with_reducible apply hf
    | (with_reducible apply Kept.step; (on_goal 2 => first
        | with_reducible apply State.bump_kept
        | with_reducible apply fillLine_kept
        | with_reducible apply cacheReadPiece_kept))
    | with_reducible apply Kept.ite
    | with_reducible apply Kept.ite₂
    | (split; rename_i heq; refine (have hx : Kept [.regs, .mem, .poison, .tiles, .mortar, .errLog, .errOverflow] s _ := Kept.of_snd heq ?_; ?_); (on_goal 2 => clear heq))
    | (split; rename_i heq; refine (have hx : Kept [.regs, .mem, .poison, .tiles, .mortar, .errLog, .errOverflow] s _ := Kept.of_thd heq ?_; ?_); (on_goal 2 => clear heq))

theorem landData_kept (s : State) (t : ℕ) (g : HTag) :
    Kept [.regs, .mem, .poison, .tiles, .mortar, .errLog, .errOverflow] s (landData s t g).2 := by
  unfold landData
  repeat' first
    | with_reducible exact Kept.refl _ _
    | with_reducible assumption
    | intro (_h : Kept _ _ _)
    | intro y
    | decide
    | with_reducible apply hf
    | (with_reducible apply Kept.step; (on_goal 2 => with_reducible apply landLine_kept))
    | with_reducible apply Kept.ite
    | with_reducible apply Kept.ite₂
    | (split; rename_i heq; refine (have hx : Kept [.regs, .mem, .poison, .tiles, .mortar, .errLog, .errOverflow] s _ := Kept.of_snd heq ?_; ?_); (on_goal 2 => clear heq))
    | (split; rename_i heq; refine (have hx : Kept [.regs, .mem, .poison, .tiles, .mortar, .errLog, .errOverflow] s _ := Kept.of_thd heq ?_; ?_); (on_goal 2 => clear heq))

theorem freeTag_kept (s : State) (t : ℕ) (tag : ℕ) :
    Kept [.tiles] s (freeTag s t tag) := by
  unfold freeTag
  repeat' first
    | with_reducible exact Kept.refl _ _
    | with_reducible assumption
    | intro (_h : Kept _ _ _)
    | intro y
    | decide
    | with_reducible apply hf
    | (with_reducible apply Kept.step; (on_goal 2 => with_reducible apply State.modHod_kept))
    | (split; rename_i heq; refine (have hx : Kept [.tiles] s _ := Kept.of_snd heq ?_; ?_); (on_goal 2 => clear heq))
    | (split; rename_i heq; refine (have hx : Kept [.tiles] s _ := Kept.of_thd heq ?_; ?_); (on_goal 2 => clear heq))

theorem reqDone_kept (s : State) (t : ℕ) (d : Option HDesc) (g : HTag) :
    Kept [.regs, .mem, .poison, .hostMem, .time, .tiles, .mortar, .errLog, .errOverflow, .ctxs, .launches, .joints, .kv, .links, .conts, .msix, .msixSent, .regPosted] s (reqDone s t d g) := by
  unfold reqDone
  repeat' first
    | with_reducible exact Kept.refl _ _
    | with_reducible assumption
    | intro (_h : Kept _ _ _)
    | ((try lift_lets); intro x; refine (have hx : Kept [.regs, .mem, .poison, .hostMem, .time, .tiles, .mortar, .errLog, .errOverflow, .ctxs, .launches, .joints, .kv, .links, .conts, .msix, .msixSent, .regPosted] s x := ?_; ?_); (on_goal 1 => subst x); (on_goal 2 => clear_value x))
    | intro y
    | decide
    | with_reducible apply hf
    | (with_reducible apply Kept.step; (on_goal 2 => first
        | with_reducible apply hodAfter_kept
        | with_reducible apply reqProgress_kept
        | with_reducible apply freeTag_kept))
    | with_reducible apply Kept.ite
    | with_reducible apply Kept.ite₂
    | with_reducible apply Kept.ite₃
    | with_reducible apply Kept.iteW
    | with_reducible apply Kept.foldl
    | with_reducible apply Kept.foldl₂
    | with_reducible apply Kept.foldl₃
    | with_reducible refine Kept.of_snd (by assumption) ?_
    | with_reducible refine Kept.of_done (by assumption) ?_
    | with_reducible refine Kept.of_fault (by assumption) ?_
    | with_reducible refine Kept.of_wait (by assumption) ?_
    | with_reducible refine Kept.of_thd (by assumption) ?_
    | split

theorem reqFails_kept (s : State) (t : ℕ) (d : Option HDesc) (g : HTag) :
    Kept [.regs, .mem, .poison, .hostMem, .time, .tiles, .mortar, .errLog, .errOverflow, .ctxs, .launches, .joints, .kv, .links, .conts, .msix, .msixSent, .regPosted] s (reqFails s t d g) := by
  unfold reqFails
  repeat' first
    | with_reducible exact Kept.refl _ _
    | with_reducible assumption
    | intro (_h : Kept _ _ _)
    | ((try lift_lets); intro x; refine (have hx : Kept [.regs, .mem, .poison, .hostMem, .time, .tiles, .mortar, .errLog, .errOverflow, .ctxs, .launches, .joints, .kv, .links, .conts, .msix, .msixSent, .regPosted] s x := ?_; ?_); (on_goal 1 => subst x); (on_goal 2 => clear_value x))
    | intro y
    | decide
    | with_reducible apply hf
    | (with_reducible apply Kept.step; (on_goal 2 => first
        | with_reducible apply State.bump_kept
        | with_reducible apply State.addrError_kept
        | with_reducible apply hodAfter_kept
        | with_reducible apply hodAddrError_kept
        | with_reducible apply freeTag_kept))
    | with_reducible apply Kept.ite
    | with_reducible apply Kept.ite₂
    | with_reducible apply Kept.ite₃
    | with_reducible apply Kept.iteW
    | with_reducible apply Kept.foldl
    | with_reducible apply Kept.foldl₂
    | with_reducible apply Kept.foldl₃
    | with_reducible refine Kept.of_snd (by assumption) ?_
    | with_reducible refine Kept.of_done (by assumption) ?_
    | with_reducible refine Kept.of_fault (by assumption) ?_
    | with_reducible refine Kept.of_wait (by assumption) ?_
    | with_reducible refine Kept.of_thd (by assumption) ?_
    | split

theorem landWrite_kept (s : State) (t : ℕ) (d : Option HDesc) (g : HTag) (data : List Byte) (bad : List ℕ) :
    Kept [.nextId, .regs, .mem, .poison, .hostMem, .time, .tiles, .chans, .mortar, .errLog, .errOverflow, .ctxs, .launches, .joints, .kv, .links, .conts, .msix, .msixSent, .regPosted] s (landWrite s t d g data bad) := by
  unfold landWrite
  repeat' first
    | with_reducible exact Kept.refl _ _
    | with_reducible assumption
    | intro (_h : Kept _ _ _)
    | ((try lift_lets); intro x; refine (have hx : Kept [.nextId, .regs, .mem, .poison, .hostMem, .time, .tiles, .chans, .mortar, .errLog, .errOverflow, .ctxs, .launches, .joints, .kv, .links, .conts, .msix, .msixSent, .regPosted] s x := ?_; ?_); (on_goal 1 => subst x); (on_goal 2 => clear_value x))
    | ((try lift_lets); intro x; clear_value x)
    | intro y
    | decide
    | with_reducible apply hf
    | (with_reducible apply Kept.step; (on_goal 2 => first
        | with_reducible apply agentWrite_kept
        | with_reducible apply cacheWrite_kept
        | with_reducible apply State.modHod_kept
        | with_reducible apply chanReq_kept
        | with_reducible apply reqDone_kept
        | with_reducible apply reqFails_kept))
    | with_reducible apply Kept.ite
    | (split; rename_i heq; refine (have hx : Kept [.nextId, .regs, .mem, .poison, .hostMem, .time, .tiles, .chans, .mortar, .errLog, .errOverflow, .ctxs, .launches, .joints, .kv, .links, .conts, .msix, .msixSent, .regPosted] s _ := Kept.of_snd heq ?_; ?_); (on_goal 2 => clear heq))
    | (split; rename_i heq; refine (have hx : Kept [.nextId, .regs, .mem, .poison, .hostMem, .time, .tiles, .chans, .mortar, .errLog, .errOverflow, .ctxs, .launches, .joints, .kv, .links, .conts, .msix, .msixSent, .regPosted] s _ := Kept.of_thd heq ?_; ?_); (on_goal 2 => clear heq))

theorem landSpread_kept (s : State) (t : ℕ) (d : HDesc) (g : HTag) :
    Kept [.regs, .mem, .poison, .hostMem, .time, .tiles, .mortar, .errLog, .errOverflow, .ctxs, .launches, .joints, .kv, .links, .conts, .msix, .msixSent, .regPosted] s (landSpread s t d g) := by
  unfold landSpread
  repeat' first
    | with_reducible exact Kept.refl _ _
    | with_reducible assumption
    | intro (_h : Kept _ _ _)
    | ((try lift_lets); intro x; refine (have hx : Kept [.regs, .mem, .poison, .hostMem, .time, .tiles, .mortar, .errLog, .errOverflow, .ctxs, .launches, .joints, .kv, .links, .conts, .msix, .msixSent, .regPosted] s x := ?_; ?_); (on_goal 1 => subst x); (on_goal 2 => clear_value x))
    | ((try lift_lets); intro x; clear_value x)
    | intro y
    | decide
    | with_reducible apply hf
    | (with_reducible apply Kept.step; (on_goal 2 => first
        | with_reducible apply State.sendLegs_kept
        | with_reducible apply agentWrite_kept
        | with_reducible apply hodAddrError_kept
        | with_reducible apply freeTag_kept
        | with_reducible apply reqDone_kept))
    | with_reducible apply Kept.ite
    | with_reducible apply Kept.ite₂
    | with_reducible apply Kept.ite₃
    | with_reducible apply Kept.iteW
    | with_reducible apply Kept.foldl
    | with_reducible apply Kept.foldl₂
    | (split; rename_i heq; refine (have hx : Kept [.regs, .mem, .poison, .hostMem, .time, .tiles, .mortar, .errLog, .errOverflow, .ctxs, .launches, .joints, .kv, .links, .conts, .msix, .msixSent, .regPosted] s _ := Kept.of_snd heq ?_; ?_); (on_goal 2 => clear heq))
    | (split; rename_i heq; refine (have hx : Kept [.regs, .mem, .poison, .hostMem, .time, .tiles, .mortar, .errLog, .errOverflow, .ctxs, .launches, .joints, .kv, .links, .conts, .msix, .msixSent, .regPosted] s _ := Kept.of_thd heq ?_; ?_); (on_goal 2 => clear heq))

theorem landTag_kept (s : State) (t : ℕ) (g : HTag) :
    Kept [.nextId, .regs, .mem, .poison, .hostMem, .time, .tiles, .chans, .mortar, .errLog, .errOverflow, .ctxs, .launches, .joints, .kv, .links, .conts, .msix, .msixSent, .regPosted] s (landTag s t g) := by
  unfold landTag
  repeat' first
    | with_reducible exact Kept.refl _ _
    | with_reducible assumption
    | intro (_h : Kept _ _ _)
    | ((try lift_lets); intro x; refine (have hf : ∀ (y : State) a, Kept [.nextId, .regs, .mem, .poison, .hostMem, .time, .tiles, .chans, .mortar, .errLog, .errOverflow, .ctxs, .launches, .joints, .kv, .links, .conts, .msix, .msixSent, .regPosted] s y → Kept [.nextId, .regs, .mem, .poison, .hostMem, .time, .tiles, .chans, .mortar, .errLog, .errOverflow, .ctxs, .launches, .joints, .kv, .links, .conts, .msix, .msixSent, .regPosted] s (x y a) := ?_; ?_); (on_goal 1 => subst x); (on_goal 2 => clear_value x))
    | ((try lift_lets); intro x; clear_value x)
    | intro y
    | decide
    | with_reducible apply hf
    | (with_reducible apply Kept.step; (on_goal 2 => first
        | with_reducible apply breakForWords_kept
        | with_reducible apply hodPoison_kept
        | with_reducible apply landLine_kept
        | with_reducible apply landData_kept
        | with_reducible apply freeTag_kept
        | with_reducible apply reqDone_kept
        | with_reducible apply reqFails_kept
        | with_reducible apply landWrite_kept
        | with_reducible apply landSpread_kept))
    | with_reducible apply Kept.ite
    | with_reducible apply Kept.ite₂
    | with_reducible apply Kept.ite₃
    | with_reducible apply Kept.iteW
    | with_reducible apply Kept.foldl
    | with_reducible apply Kept.foldl₂
    | with_reducible apply Kept.foldl₃
    | with_reducible refine Kept.of_snd (by assumption) ?_
    | with_reducible refine Kept.of_done (by assumption) ?_
    | with_reducible refine Kept.of_fault (by assumption) ?_
    | with_reducible refine Kept.of_wait (by assumption) ?_
    | with_reducible refine Kept.of_thd (by assumption) ?_
    | split

theorem passResponse_kept (s : State) (t : ℕ) (g : HTag) :
    Kept [.mortar] s (passResponse s t g).2 := by
  unfold passResponse
  repeat' first
    | with_reducible exact Kept.refl _ _
    | with_reducible assumption
    | intro (_h : Kept _ _ _)
    | ((try lift_lets); intro x; clear_value x)
    | intro y
    | decide
    | with_reducible apply hf
    | (with_reducible apply Kept.step; (on_goal 2 => with_reducible apply State.setRouter_kept))
    | with_reducible apply Kept.ite
    | with_reducible apply Kept.ite₂
    | with_reducible apply Kept.ite₃
    | with_reducible apply Kept.iteW
    | with_reducible apply Kept.foldl
    | with_reducible apply Kept.foldl₂
    | with_reducible apply Kept.foldl₃
    | with_reducible refine Kept.of_snd (by assumption) ?_
    | with_reducible refine Kept.of_done (by assumption) ?_
    | with_reducible refine Kept.of_fault (by assumption) ?_
    | with_reducible refine Kept.of_wait (by assumption) ?_
    | with_reducible refine Kept.of_thd (by assumption) ?_
    | split

theorem indexRows_kept (s : State) (t : ℕ) (d : HDesc) (data : List Byte) (bad : List ℕ) :
    Kept [.regs, .tiles] s (indexRows s t d data bad) := by
  unfold indexRows
  repeat' first
    | with_reducible exact Kept.refl _ _
    | with_reducible assumption
    | intro (_h : Kept _ _ _)
    | ((try lift_lets); intro x; refine (have hx : Kept [.regs, .tiles] s x := ?_; ?_); (on_goal 1 => subst x); (on_goal 2 => clear_value x))
    | ((try lift_lets); intro x; clear_value x)
    | intro y
    | decide
    | with_reducible apply hf
    | (with_reducible apply Kept.step; (on_goal 2 => first
        | with_reducible apply State.bump_kept
        | with_reducible apply State.modHDesc_kept))
    | (split; rename_i heq; refine (have hx : Kept [.regs, .tiles] s _ := Kept.of_snd heq ?_; ?_); (on_goal 2 => clear heq))
    | (split; rename_i heq; refine (have hx : Kept [.regs, .tiles] s _ := Kept.of_thd heq ?_; ?_); (on_goal 2 => clear heq))

theorem landIndex_kept (s : State) (t : ℕ) (d : HDesc) (g : HTag) :
    Kept [.regs, .mem, .poison, .hostMem, .time, .tiles, .mortar, .errLog, .errOverflow, .ctxs, .launches, .joints, .kv, .links, .conts, .msix, .msixSent, .regPosted] s (landIndex s t d g) := by
  unfold landIndex
  repeat' first
    | with_reducible exact Kept.refl _ _
    | with_reducible assumption
    | intro (_h : Kept _ _ _)
    | ((try lift_lets); intro x; refine (have hx : Kept [.regs, .mem, .poison, .hostMem, .time, .tiles, .mortar, .errLog, .errOverflow, .ctxs, .launches, .joints, .kv, .links, .conts, .msix, .msixSent, .regPosted] s x := ?_; ?_); (on_goal 1 => subst x); (on_goal 2 => clear_value x))
    | intro y
    | decide
    | with_reducible apply hf
    | (with_reducible apply Kept.step; (on_goal 2 => first
        | with_reducible apply hodAfter_kept
        | with_reducible apply hodAddrError_kept
        | with_reducible apply hodPoison_kept
        | with_reducible apply freeTag_kept
        | with_reducible apply indexRows_kept))
    | with_reducible apply Kept.ite
    | (split; rename_i heq; refine (have hx : Kept [.regs, .mem, .poison, .hostMem, .time, .tiles, .mortar, .errLog, .errOverflow, .ctxs, .launches, .joints, .kv, .links, .conts, .msix, .msixSent, .regPosted] s _ := Kept.of_snd heq ?_; ?_); (on_goal 2 => clear heq))
    | (split; rename_i heq; refine (have hx : Kept [.regs, .mem, .poison, .hostMem, .time, .tiles, .mortar, .errLog, .errOverflow, .ctxs, .launches, .joints, .kv, .links, .conts, .msix, .msixSent, .regPosted] s _ := Kept.of_thd heq ?_; ?_); (on_goal 2 => clear heq))

theorem takeCredit_kept (stream : ℕ) (s : State) (m : ℕ) :
    Kept [.tiles] s (takeCredit stream s m) := by
  unfold takeCredit
  repeat' first
    | with_reducible exact Kept.refl _ _
    | with_reducible assumption
    | intro (_h : Kept _ _ _)
    | intro y
    | decide
    | with_reducible apply hf
    | (with_reducible apply Kept.step; (on_goal 2 => with_reducible apply State.modStream_kept))
    | (split; rename_i heq; refine (have hx : Kept [.tiles] s _ := Kept.of_snd heq ?_; ?_); (on_goal 2 => clear heq))
    | (split; rename_i heq; refine (have hx : Kept [.tiles] s _ := Kept.of_thd heq ?_; ?_); (on_goal 2 => clear heq))

theorem spread_kept (s : State) (t : ℕ) (d : HDesc) (to_ : List ℕ) (late : List ℕ) :
    Kept [.regs, .mem, .poison, .hostMem, .time, .tiles, .mortar, .errLog, .errOverflow, .ctxs, .launches, .joints, .kv, .links, .conts, .msix, .msixSent, .regPosted] s (spread s t d to_ late) := by
  unfold spread
  repeat' first
    | with_reducible exact Kept.refl _ _
    | with_reducible assumption
    | intro (_h : Kept _ _ _)
    | ((try lift_lets); intro x; refine (have hx : Kept [.regs, .mem, .poison, .hostMem, .time, .tiles, .mortar, .errLog, .errOverflow, .ctxs, .launches, .joints, .kv, .links, .conts, .msix, .msixSent, .regPosted] s x := ?_; ?_); (on_goal 1 => subst x); (on_goal 2 => clear_value x))
    | intro y
    | decide
    | with_reducible apply hf
    | (with_reducible apply Kept.step; (on_goal 2 => first
        | with_reducible apply State.modHDesc_kept
        | with_reducible apply hodAfter_kept
        | with_reducible apply takeCredit_kept))
    | with_reducible apply Kept.ite
    | with_reducible apply Kept.ite₂
    | with_reducible apply Kept.ite₃
    | with_reducible apply Kept.iteW
    | with_reducible apply Kept.foldl
    | (split; rename_i heq; refine (have hx : Kept [.regs, .mem, .poison, .hostMem, .time, .tiles, .mortar, .errLog, .errOverflow, .ctxs, .launches, .joints, .kv, .links, .conts, .msix, .msixSent, .regPosted] s _ := Kept.of_snd heq ?_; ?_); (on_goal 2 => clear heq))
    | (split; rename_i heq; refine (have hx : Kept [.regs, .mem, .poison, .hostMem, .time, .tiles, .mortar, .errLog, .errOverflow, .ctxs, .launches, .joints, .kv, .links, .conts, .msix, .msixSent, .regPosted] s _ := Kept.of_thd heq ?_; ?_); (on_goal 2 => clear heq))

theorem spreadStart_kept (s : State) (t : ℕ) (desc : ℕ) (kind : ℕ) :
    Kept [.regs, .mem, .poison, .hostMem, .time, .tiles, .mortar, .errLog, .errOverflow, .ctxs, .launches, .joints, .kv, .links, .conts, .msix, .msixSent, .regPosted] s (spreadStart s t desc kind) := by
  unfold spreadStart
  repeat' first
    | with_reducible exact Kept.refl _ _
    | with_reducible assumption
    | intro (_h : Kept _ _ _)
    | intro y
    | decide
    | with_reducible apply hf
    | (with_reducible apply Kept.step; (on_goal 2 => with_reducible apply spread_kept))
    | with_reducible apply Kept.ite
    | with_reducible apply Kept.ite₂
    | with_reducible apply Kept.ite₃
    | with_reducible apply Kept.iteW
    | with_reducible apply Kept.foldl
    | with_reducible apply Kept.foldl₂
    | with_reducible apply Kept.foldl₃
    | with_reducible refine Kept.of_snd (by assumption) ?_
    | with_reducible refine Kept.of_done (by assumption) ?_
    | with_reducible refine Kept.of_fault (by assumption) ?_
    | with_reducible refine Kept.of_wait (by assumption) ?_
    | with_reducible refine Kept.of_thd (by assumption) ?_
    | split

theorem dropMember_kept (t : ℕ) (d : HDesc) (s : State) (m : ℕ) :
    Kept [.regs, .mem, .poison, .hostMem, .mortar, .errLog, .errOverflow, .ctxs, .msix, .msixSent, .regPosted] s (dropMember t d s m) := by
  unfold dropMember
  repeat' first
    | with_reducible exact Kept.refl _ _
    | with_reducible assumption
    | intro (_h : Kept _ _ _)
    | intro y
    | decide
    | with_reducible apply hf
    | (with_reducible apply Kept.step; (on_goal 2 => first
        | with_reducible apply State.bump_kept
        | with_reducible apply postEvent_kept))
    | (split; rename_i heq; refine (have hx : Kept [.regs, .mem, .poison, .hostMem, .mortar, .errLog, .errOverflow, .ctxs, .msix, .msixSent, .regPosted] s _ := Kept.of_snd heq ?_; ?_); (on_goal 2 => clear heq))
    | (split; rename_i heq; refine (have hx : Kept [.regs, .mem, .poison, .hostMem, .mortar, .errLog, .errOverflow, .ctxs, .msix, .msixSent, .regPosted] s _ := Kept.of_thd heq ?_; ?_); (on_goal 2 => clear heq))

theorem dropLate_kept (s : State) (t : ℕ) (d : HDesc) :
    Kept [.regs, .mem, .poison, .hostMem, .time, .tiles, .mortar, .errLog, .errOverflow, .ctxs, .launches, .joints, .kv, .links, .conts, .msix, .msixSent, .regPosted] s (dropLate s t d) := by
  unfold dropLate
  repeat' first
    | with_reducible exact Kept.refl _ _
    | with_reducible assumption
    | intro (_h : Kept _ _ _)
    | ((try lift_lets); intro x; clear_value x)
    | intro y
    | decide
    | with_reducible apply hf
    | (with_reducible apply Kept.step; (on_goal 2 => first
        | with_reducible apply spread_kept
        | with_reducible apply dropMember_kept))
    | with_reducible apply Kept.ite
    | with_reducible apply Kept.ite₂
    | with_reducible apply Kept.ite₃
    | with_reducible apply Kept.iteW
    | with_reducible apply Kept.foldl
    | (split; rename_i heq; refine (have hx : Kept [.regs, .mem, .poison, .hostMem, .time, .tiles, .mortar, .errLog, .errOverflow, .ctxs, .launches, .joints, .kv, .links, .conts, .msix, .msixSent, .regPosted] s _ := Kept.of_snd heq ?_; ?_); (on_goal 2 => clear heq))
    | (split; rename_i heq; refine (have hx : Kept [.regs, .mem, .poison, .hostMem, .time, .tiles, .mortar, .errLog, .errOverflow, .ctxs, .launches, .joints, .kv, .links, .conts, .msix, .msixSent, .regPosted] s _ := Kept.of_thd heq ?_; ?_); (on_goal 2 => clear heq))

theorem replayTo_kept (s : State) (t : ℕ) (m : ℕ) (d : HDesc) :
    Kept [.nextId, .regs, .mem, .poison, .hostMem, .time, .tiles, .mortar, .errLog, .errOverflow, .ctxs, .launches, .joints, .kv, .links, .conts, .msix, .msixSent, .regPosted] s (replayTo s t m d) := by
  unfold replayTo
  repeat' first
    | with_reducible exact Kept.refl _ _
    | with_reducible assumption
    | intro (_h : Kept _ _ _)
    | intro y
    | decide
    | with_reducible apply hf
    | (with_reducible apply Kept.step; (on_goal 2 => first
        | with_reducible apply State.fresh_kept
        | with_reducible apply State.modHod_kept
        | with_reducible apply State.modHDesc_kept
        | with_reducible apply hodAfter_kept
        | with_reducible apply takeCredit_kept))
    | (split; rename_i heq; refine (have hx : Kept [.nextId, .regs, .mem, .poison, .hostMem, .time, .tiles, .mortar, .errLog, .errOverflow, .ctxs, .launches, .joints, .kv, .links, .conts, .msix, .msixSent, .regPosted] s _ := Kept.of_snd heq ?_; ?_); (on_goal 2 => clear heq))
    | (split; rename_i heq; refine (have hx : Kept [.nextId, .regs, .mem, .poison, .hostMem, .time, .tiles, .mortar, .errLog, .errOverflow, .ctxs, .launches, .joints, .kv, .links, .conts, .msix, .msixSent, .regPosted] s _ := Kept.of_thd heq ?_; ?_); (on_goal 2 => clear heq))

theorem cancelLate_kept (s : State) (t : ℕ) (stream : ℕ) :
    Kept [.regs, .mem, .poison, .hostMem, .time, .tiles, .mortar, .errLog, .errOverflow, .ctxs, .launches, .joints, .kv, .links, .conts, .msix, .msixSent, .regPosted] s (cancelLate s t stream) := by
  unfold cancelLate
  repeat' first
    | with_reducible exact Kept.refl _ _
    | with_reducible assumption
    | intro (_h : Kept _ _ _)
    | intro y
    | decide
    | with_reducible apply hf
    | (with_reducible apply Kept.step; (on_goal 2 => first
        | with_reducible apply State.modHod_kept
        | with_reducible apply hodSettle_kept))
    | (split; rename_i heq; refine (have hx : Kept [.regs, .mem, .poison, .hostMem, .time, .tiles, .mortar, .errLog, .errOverflow, .ctxs, .launches, .joints, .kv, .links, .conts, .msix, .msixSent, .regPosted] s _ := Kept.of_snd heq ?_; ?_); (on_goal 2 => clear heq))
    | (split; rename_i heq; refine (have hx : Kept [.regs, .mem, .poison, .hostMem, .time, .tiles, .mortar, .errLog, .errOverflow, .ctxs, .launches, .joints, .kv, .links, .conts, .msix, .msixSent, .regPosted] s _ := Kept.of_thd heq ?_; ?_); (on_goal 2 => clear heq))

theorem windowAccess_kept (s : State) (ctx : ℕ) (addr : ℕ) (len : ℕ) (write : Bool) (data : List Byte) :
    Kept [.regs, .mem, .poison, .hostMem, .masters, .mortar, .errLog, .errOverflow, .ctxs, .regPosted] s (windowAccess s ctx addr len write data) := by
  unfold windowAccess
  repeat' first
    | with_reducible exact Kept.refl _ _
    | with_reducible assumption
    | intro (_h : Kept _ _ _)
    | intro y
    | decide
    | with_reducible apply hf
    | (with_reducible apply Kept.step; (on_goal 2 => first
        | with_reducible apply State.setMaster_kept
        | with_reducible apply agentReadAll_kept
        | with_reducible apply agentWriteAll_kept))
    | with_reducible apply Kept.ite
    | (split; rename_i heq; refine (have hx : Kept [.regs, .mem, .poison, .hostMem, .masters, .mortar, .errLog, .errOverflow, .ctxs, .regPosted] s _ := Kept.of_snd heq ?_; ?_); (on_goal 2 => clear heq))
    | (split; rename_i heq; refine (have hx : Kept [.regs, .mem, .poison, .hostMem, .masters, .mortar, .errLog, .errOverflow, .ctxs, .regPosted] s _ := Kept.of_thd heq ?_; ?_); (on_goal 2 => clear heq))

end Sys2Proof.Machine
end

