-- ==== Sys2Proof/Laws/FrameFlash.lean ====
section
/-! SUPPORT. Frames of the operations of Machine/Flash.lean. -/

namespace Sys2Proof.Machine

theorem State.modFlash_kept (s : State) (g : Flash → Flash)
    (hg : s.flash.data.wf = true → (g s.flash).data.wf = true) : Kept [.flash] s (s.modFlash g) :=
  Kept.set_flash s (g s.flash) hg

/-! What the page tables' operations do leaves the objects' bytes. -/

@[simp] theorem Flash.unplace_data (f : Flash) (o : Nat) (q : Nat → Bool) : (f.unplace o q).data = f.data := rfl
@[simp] theorem Flash.put_data (f : Flash) (o p row slot : Nat) : (f.put o p row slot).data = f.data := rfl
@[simp] theorem Flash.countRead_data (f : Flash) (o p : Nat) : (f.countRead o p).data = f.data := by
  unfold Flash.countRead
  split <;> rfl

@[simp] theorem Flash.noteRetry_data (f : Flash) (o p : Nat) : (f.noteRetry o p).data = f.data := by
  unfold Flash.noteRetry
  split <;> rfl

@[simp] theorem Flash.prune_data (f : Flash) : f.prune.data = f.data := rfl
@[simp] theorem Flash.relocate_data (f : Flash) (row dst : Nat) : (f.relocate row dst).data = f.data := rfl

theorem State.modFCmd_kept (s : State) (id : ℕ) (g : FCmd → FCmd) :
    Kept [.flash] s (State.modFCmd s id g) := by
  unfold State.modFCmd
  repeat' first
    | with_reducible exact Kept.refl _ _
    | with_reducible assumption
    | intro (_h : Kept _ _ _)
    | intro y
    | decide
    | with_reducible apply hf
    | (with_reducible apply Kept.step; (on_goal 2 => exact State.modFlash_kept _ _ (fun h => h)))
    | (split; rename_i heq; refine (have hx : Kept [.flash] s _ := Kept.of_snd heq ?_; ?_); (on_goal 2 => clear heq))
    | (split; rename_i heq; refine (have hx : Kept [.flash] s _ := Kept.of_thd heq ?_; ?_); (on_goal 2 => clear heq))

theorem State.progressAll_kept (s : State) (treq : Option ℕ) (l : List (ℕ × ℕ)) :
    Kept [.time] s (State.progressAll s treq l) := by
  unfold State.progressAll
  repeat' first
    | with_reducible exact Kept.refl _ _
    | with_reducible assumption
    | intro (_h : Kept _ _ _)
    | intro y
    | decide
    | with_reducible apply hf
    | (with_reducible apply Kept.step; (on_goal 2 => with_reducible apply State.progress_kept))
    | with_reducible apply Kept.ite
    | with_reducible apply Kept.ite₂
    | with_reducible apply Kept.ite₃
    | with_reducible apply Kept.iteW
    | with_reducible apply Kept.foldl
    | with_reducible apply Kept.foldl₂
    | with_reducible apply Kept.foldl₃
    | with_reducible refine Kept.of_snd (by assumption) ?_
    | with_reducible refine Kept.of_done (by assumption) ?_
    | with_reducible refine Kept.of_fault (by assumption) ?_
    | with_reducible refine Kept.of_wait (by assumption) ?_
    | with_reducible refine Kept.of_thd (by assumption) ?_
    | split

theorem flashProgress_kept (s : State) (c : FCmd) (addr : ℕ) :
    Kept [.time] s (flashProgress s c addr) := by
  unfold flashProgress
  repeat' first
    | with_reducible exact Kept.refl _ _
    | with_reducible assumption
    | intro (_h : Kept _ _ _)
    | intro y
    | decide
    | with_reducible apply hf
    | (with_reducible apply Kept.step; (on_goal 2 => with_reducible apply State.progressAll_kept))
    | with_reducible apply Kept.ite
    | with_reducible apply Kept.ite₂
    | with_reducible apply Kept.ite₃
    | with_reducible apply Kept.iteW
    | with_reducible apply Kept.foldl
    | with_reducible apply Kept.foldl₂
    | with_reducible apply Kept.foldl₃
    | with_reducible refine Kept.of_snd (by assumption) ?_
    | with_reducible refine Kept.of_done (by assumption) ?_
    | with_reducible refine Kept.of_fault (by assumption) ?_
    | with_reducible refine Kept.of_wait (by assumption) ?_
    | with_reducible refine Kept.of_thd (by assumption) ?_
    | split

theorem flashBreak_kept (s : State) (c : FCmd) :
    Kept [.regs, .mem, .poison, .hostMem, .time, .mortar, .errLog, .errOverflow, .ctxs, .msix, .msixSent, .regPosted] s (flashBreak s c) := by
  unfold flashBreak
  repeat' first
    | with_reducible exact Kept.refl _ _
    | with_reducible assumption
    | intro (_h : Kept _ _ _)
    | intro y
    | decide
    | with_reducible apply hf
    | (with_reducible apply Kept.step; (on_goal 2 => with_reducible apply breakForData_kept))
    | (split; rename_i heq; refine (have hx : Kept [.regs, .mem, .poison, .hostMem, .time, .mortar, .errLog, .errOverflow, .ctxs, .msix, .msixSent, .regPosted] s _ := Kept.of_snd heq ?_; ?_); (on_goal 2 => clear heq))
    | (split; rename_i heq; refine (have hx : Kept [.regs, .mem, .poison, .hostMem, .time, .mortar, .errLog, .errOverflow, .ctxs, .msix, .msixSent, .regPosted] s _ := Kept.of_thd heq ?_; ?_); (on_goal 2 => clear heq))

theorem flashDeletes_kept (s : State) :
    Kept [.regs, .mem, .poison, .hostMem, .mortar, .errLog, .errOverflow, .ctxs, .joints, .flash, .links, .conts, .msix, .msixSent, .regPosted] s (flashDeletes s) := by
  unfold flashDeletes
  repeat' first
    | with_reducible exact Kept.refl _ _
    | with_reducible assumption
    | intro (_h : Kept _ _ _)
    | ((try lift_lets); intro x; refine (have hx : Kept [.regs, .mem, .poison, .hostMem, .mortar, .errLog, .errOverflow, .ctxs, .joints, .flash, .links, .conts, .msix, .msixSent, .regPosted] s x := ?_; ?_); (on_goal 1 => subst x); (on_goal 2 => clear_value x))
    | intro y
    | decide
    | with_reducible apply hf
    | (with_reducible apply Kept.step; (on_goal 2 => first
        | with_reducible apply finishDesc_kept
        | with_reducible apply jointAddFor_kept
        | exact State.modFlash_kept _ _ (fun h => h)
        | exact State.modFlash_kept _ _ (writeBytes_wf _ _)
        | exact State.modFlash_kept _ _ (fill_wf _ _ _)))
    | with_reducible apply Kept.ite
    | with_reducible apply Kept.ite₂
    | with_reducible apply Kept.ite₃
    | with_reducible apply Kept.iteW
    | with_reducible apply Kept.foldl
    | with_reducible apply Kept.foldl₂
    | with_reducible apply Kept.foldl₃
    | with_reducible refine Kept.of_snd (by assumption) ?_
    | with_reducible refine Kept.of_done (by assumption) ?_
    | with_reducible refine Kept.of_fault (by assumption) ?_
    | with_reducible refine Kept.of_wait (by assumption) ?_
    | with_reducible refine Kept.of_thd (by assumption) ?_
    | split

theorem State.engineFails_kept (s : State) (e : ℕ) :
    Kept [.kiln] s (State.engineFails s e) := by
  unfold State.engineFails
  repeat' first
    | with_reducible exact Kept.refl _ _
    | with_reducible assumption
    | intro (_h : Kept _ _ _)
    | ((try lift_lets); intro x; clear_value x)
    | intro y
    | decide
    | with_reducible apply hf
    | with_reducible apply Kept.ite
    | with_reducible apply Kept.ite₂
    | with_reducible apply Kept.ite₃
    | with_reducible apply Kept.iteW
    | with_reducible apply Kept.foldl
    | with_reducible apply Kept.foldl₂
    | with_reducible apply Kept.foldl₃
    | with_reducible refine Kept.of_snd (by assumption) ?_
    | with_reducible refine Kept.of_done (by assumption) ?_
    | with_reducible refine Kept.of_fault (by assumption) ?_
    | with_reducible refine Kept.of_wait (by assumption) ?_
    | with_reducible refine Kept.of_thd (by assumption) ?_
    | split
    | (with_reducible apply Kept.step; (on_goal 2 => with_reducible apply Kept.set_kiln))

theorem State.engineLand_kept (s : State) (e : ℕ) (ofs : ℕ) (bs : List Byte) :
    Kept [.kiln] s (State.engineLand s e ofs bs) := by
  unfold State.engineLand
  repeat' first
    | with_reducible exact Kept.refl _ _
    | with_reducible assumption
    | intro (_h : Kept _ _ _)
    | ((try lift_lets); intro x; clear_value x)
    | intro y
    | decide
    | with_reducible apply hf
    | with_reducible apply Kept.ite
    | with_reducible apply Kept.ite₂
    | with_reducible apply Kept.ite₃
    | with_reducible apply Kept.iteW
    | with_reducible apply Kept.foldl
    | with_reducible apply Kept.foldl₂
    | with_reducible apply Kept.foldl₃
    | with_reducible refine Kept.of_snd (by assumption) ?_
    | with_reducible refine Kept.of_done (by assumption) ?_
    | with_reducible refine Kept.of_fault (by assumption) ?_
    | with_reducible refine Kept.of_wait (by assumption) ?_
    | with_reducible refine Kept.of_thd (by assumption) ?_
    | split
    | (with_reducible apply Kept.step; (on_goal 2 => with_reducible apply Kept.set_kiln))

theorem flashEnd_kept (s : State) (c : FCmd) (status : ℕ) :
    Kept [.regs, .mem, .poison, .hostMem, .tiles, .mortar, .errLog, .errOverflow, .ctxs, .joints, .flash, .kiln, .links, .colls, .conts, .msix, .msixSent, .regPosted] s (flashEnd s c status) := by
  unfold flashEnd
  repeat' first
    | with_reducible exact Kept.refl _ _
    | with_reducible assumption
    | intro (_h : Kept _ _ _)
    | ((try lift_lets); intro x; refine (have hx : Kept [.regs, .mem, .poison, .hostMem, .tiles, .mortar, .errLog, .errOverflow, .ctxs, .joints, .flash, .kiln, .links, .colls, .conts, .msix, .msixSent, .regPosted] s x := ?_; ?_); (on_goal 1 => subst x); (on_goal 2 => clear_value x))
    | intro y
    | decide
    | with_reducible apply hf
    | (with_reducible apply Kept.step; (on_goal 2 => first
        | with_reducible apply finishDesc_kept
        | with_reducible apply jointAddFor_kept
        | with_reducible apply State.modStream_kept
        | exact State.modFlash_kept _ _ (fun h => by simp only [Flash.unplace_data, Flash.put_data, Flash.countRead_data, Flash.noteRetry_data, Flash.prune_data, Flash.relocate_data]; exact h)
        | exact State.modFlash_kept _ _ (fun h => h)
        | exact State.modFlash_kept _ _ (writeBytes_wf _ _)
        | exact State.modFlash_kept _ _ (fill_wf _ _ _)
        | with_reducible apply flashDeletes_kept
        | with_reducible apply State.engineFails_kept))
    | with_reducible apply Kept.ite
    | with_reducible apply Kept.ite₂
    | with_reducible apply Kept.ite₃
    | with_reducible apply Kept.iteW
    | with_reducible apply Kept.foldl
    | with_reducible apply Kept.foldl₂
    | with_reducible apply Kept.foldl₃
    | with_reducible refine Kept.of_snd (by assumption) ?_
    | with_reducible refine Kept.of_done (by assumption) ?_
    | with_reducible refine Kept.of_fault (by assumption) ?_
    | with_reducible refine Kept.of_wait (by assumption) ?_
    | with_reducible refine Kept.of_thd (by assumption) ?_
    | split
    | (with_reducible apply Kept.step; (on_goal 2 => with_reducible apply Kept.set_colls))

theorem deferStore_kept (s : State) :
    Kept [.regs, .holdup] s (deferStore s) := by
  unfold deferStore
  repeat' first
    | with_reducible exact Kept.refl _ _
    | with_reducible assumption
    | intro (_h : Kept _ _ _)
    | ((try lift_lets); intro x; clear_value x)
    | intro y
    | decide
    | with_reducible apply hf
    | (with_reducible apply Kept.step; (on_goal 2 => with_reducible apply State.bump_kept))
    | with_reducible apply Kept.ite
    | with_reducible apply Kept.ite₂
    | with_reducible apply Kept.ite₃
    | with_reducible apply Kept.iteW
    | with_reducible apply Kept.foldl
    | with_reducible apply Kept.foldl₂
    | with_reducible apply Kept.foldl₃
    | with_reducible refine Kept.of_snd (by assumption) ?_
    | with_reducible refine Kept.of_done (by assumption) ?_
    | with_reducible refine Kept.of_fault (by assumption) ?_
    | with_reducible refine Kept.of_wait (by assumption) ?_
    | with_reducible refine Kept.of_thd (by assumption) ?_
    | split
    | (with_reducible apply Kept.step; (on_goal 2 => with_reducible apply Kept.set_holdup))

theorem startPrograms_kept (x0 : ℕ) (x1 : State) :
    Kept [.regs, .flash, .holdup] x1 (startPrograms x0 x1) := by
  induction x0 generalizing x1 with
  | zero =>
    rw [startPrograms]
    repeat' first
      | with_reducible exact Kept.refl _ _
      | ((try lift_lets); intro x; refine (have hx : Kept [.regs, .flash, .holdup] x1 x := ?_; ?_); (on_goal 1 => subst x); (on_goal 2 => clear_value x))
      | ((try lift_lets); intro x; refine (have hx : Kept [.regs, .flash, .holdup] x1 x.2 := ?_; ?_); (on_goal 1 => subst x); (on_goal 2 => clear_value x))
      | ((try lift_lets); intro x; refine (have hx : Kept [.regs, .flash, .holdup] x1 x.2.2 := ?_; ?_); (on_goal 1 => subst x); (on_goal 2 => clear_value x))
      | ((try lift_lets); intro x; refine (have hf : ∀ y : State, Kept [.regs, .flash, .holdup] x1 y → Kept [.regs, .flash, .holdup] x1 (x y) := ?_; ?_); (on_goal 1 => subst x); (on_goal 2 => clear_value x))
      | ((try lift_lets); intro x; refine (have hf : ∀ (y : State) a, Kept [.regs, .flash, .holdup] x1 y → Kept [.regs, .flash, .holdup] x1 (x y a) := ?_; ?_); (on_goal 1 => subst x); (on_goal 2 => clear_value x))
      | ((try lift_lets); intro x; clear_value x)
      | (with_reducible apply Kept.step; (on_goal 2 => first
        | with_reducible apply State.modFCmd_kept
        | with_reducible apply deferStore_kept))
      | (split; rename_i heq; refine (have hx : Kept [.regs, .flash, .holdup] x1 _ := Kept.of_snd heq ?_; ?_); (on_goal 2 => clear heq))
      | (split; rename_i heq; refine (have hx : Kept [.regs, .flash, .holdup] x1 _ := Kept.of_thd heq ?_; ?_); (on_goal 2 => clear heq))
  | succ n ih =>
    rw [startPrograms]
    repeat' first
      | with_reducible exact Kept.refl _ _
      | with_reducible assumption
      | (with_reducible apply Kept.trans; (on_goal 2 => with_reducible apply ih))
      | intro (_h : Kept _ _ _)
      | intro y
      | decide
      | with_reducible apply hf
      | (with_reducible apply Kept.step; (on_goal 2 => first
        | with_reducible apply State.modFCmd_kept
        | with_reducible apply deferStore_kept))
      | with_reducible apply Kept.ite
      | with_reducible apply Kept.ite₂
      | with_reducible apply Kept.ite₃
      | with_reducible apply Kept.iteW
      | with_reducible apply Kept.foldl
      | with_reducible apply Kept.foldl₂
      | with_reducible apply Kept.foldl₃
      | with_reducible refine Kept.of_snd (by assumption) ?_
      | with_reducible refine Kept.of_done (by assumption) ?_
      | with_reducible refine Kept.of_fault (by assumption) ?_
      | with_reducible refine Kept.of_wait (by assumption) ?_
      | with_reducible refine Kept.of_thd (by assumption) ?_
      | split

theorem retryPrograms_kept (s : State) :
    Kept [.regs, .flash, .holdup] s (retryPrograms s) := by
  unfold retryPrograms
  repeat' first
    | with_reducible exact Kept.refl _ _
    | with_reducible assumption
    | intro (_h : Kept _ _ _)
    | intro y
    | decide
    | with_reducible apply hf
    | (with_reducible apply Kept.step; (on_goal 2 => first
        | exact State.modFlash_kept _ _ (fun h => h)
        | exact State.modFlash_kept _ _ (writeBytes_wf _ _)
        | exact State.modFlash_kept _ _ (fill_wf _ _ _)
        | with_reducible apply startPrograms_kept))
    | (split; rename_i heq; refine (have hx : Kept [.regs, .flash, .holdup] s _ := Kept.of_snd heq ?_; ?_); (on_goal 2 => clear heq))
    | (split; rename_i heq; refine (have hx : Kept [.regs, .flash, .holdup] s _ := Kept.of_thd heq ?_; ?_); (on_goal 2 => clear heq))

theorem setUnitPoison_kept (s : State) (obj : ℕ) (u : ℕ) (bad : Bool) :
    Kept [.flash] s (setUnitPoison s obj u bad) := by
  unfold setUnitPoison
  repeat' first
    | with_reducible exact Kept.refl _ _
    | with_reducible assumption
    | intro (_h : Kept _ _ _)
    | intro y
    | decide
    | with_reducible apply hf
    | (with_reducible apply Kept.step; (on_goal 2 => first
        | exact State.modFlash_kept _ _ (fun h => h)
        | exact State.modFlash_kept _ _ (writeBytes_wf _ _)
        | exact State.modFlash_kept _ _ (fill_wf _ _ _)))
    | with_reducible apply Kept.ite
    | with_reducible apply Kept.ite₂
    | with_reducible apply Kept.ite₃
    | with_reducible apply Kept.iteW
    | with_reducible apply Kept.foldl
    | with_reducible apply Kept.foldl₂
    | with_reducible apply Kept.foldl₃
    | with_reducible refine Kept.of_snd (by assumption) ?_
    | with_reducible refine Kept.of_done (by assumption) ?_
    | with_reducible refine Kept.of_fault (by assumption) ?_
    | with_reducible refine Kept.of_wait (by assumption) ?_
    | with_reducible refine Kept.of_thd (by assumption) ?_
    | split

theorem programUnit_kept (s : State) (c : FCmd) (u : ℕ) :
    Kept [.regs, .mem, .poison, .hostMem, .time, .mortar, .errLog, .errOverflow, .ctxs, .flash, .msix, .msixSent, .regPosted] s (programUnit s c u).2 := by
  unfold programUnit
  repeat' first
    | with_reducible exact Kept.refl _ _
    | with_reducible assumption
    | intro (_h : Kept _ _ _)
    | ((try lift_lets); intro x; clear_value x)
    | intro y
    | decide
    | with_reducible apply hf
    | (with_reducible apply Kept.step; (on_goal 2 => first
        | with_reducible apply agentReadAll_kept
        | with_reducible apply breakForWords_kept
        | exact State.modFlash_kept _ _ (fun h => h)
        | exact State.modFlash_kept _ _ (writeBytes_wf _ _)
        | exact State.modFlash_kept _ _ (fill_wf _ _ _)
        | with_reducible apply flashProgress_kept
        | with_reducible apply setUnitPoison_kept))
    | with_reducible apply Kept.ite
    | with_reducible apply Kept.ite₂
    | with_reducible apply Kept.ite₃
    | with_reducible apply Kept.iteW
    | with_reducible apply Kept.foldl
    | with_reducible apply Kept.foldl₂
    | with_reducible apply Kept.foldl₃
    | with_reducible refine Kept.of_snd (by assumption) ?_
    | with_reducible refine Kept.of_done (by assumption) ?_
    | with_reducible refine Kept.of_fault (by assumption) ?_
    | with_reducible refine Kept.of_wait (by assumption) ?_
    | with_reducible refine Kept.of_thd (by assumption) ?_
    | split

theorem programPage_kept (s : State) (c : FCmd) (u : ℕ) (row : ℕ) (slot : ℕ) :
    Kept [.regs, .mem, .poison, .hostMem, .time, .mortar, .errLog, .errOverflow, .ctxs, .flash, .msix, .msixSent, .regPosted] s (programPage s c u row slot) := by
  unfold programPage
  repeat' first
    | with_reducible exact Kept.refl _ _
    | with_reducible assumption
    | intro (_h : Kept _ _ _)
    | ((try lift_lets); intro x; clear_value x)
    | intro y
    | decide
    | with_reducible apply hf
    | (with_reducible apply Kept.step; (on_goal 2 => first
        | exact State.modFlash_kept _ _ (fun h => by simp only [Flash.unplace_data, Flash.put_data, Flash.countRead_data, Flash.noteRetry_data, Flash.prune_data, Flash.relocate_data]; exact h)
        | exact State.modFlash_kept _ _ (fun h => h)
        | exact State.modFlash_kept _ _ (writeBytes_wf _ _)
        | exact State.modFlash_kept _ _ (fill_wf _ _ _)
        | with_reducible apply State.modFCmd_kept
        | with_reducible apply programUnit_kept))
    | with_reducible apply Kept.ite
    | with_reducible apply Kept.ite₂
    | with_reducible apply Kept.ite₃
    | with_reducible apply Kept.iteW
    | with_reducible apply Kept.foldl
    | with_reducible apply Kept.foldl₂
    | (split; rename_i heq; refine (have hx : Kept [.regs, .mem, .poison, .hostMem, .time, .mortar, .errLog, .errOverflow, .ctxs, .flash, .msix, .msixSent, .regPosted] s _ := Kept.of_snd heq ?_; ?_); (on_goal 2 => clear heq))
    | (split; rename_i heq; refine (have hx : Kept [.regs, .mem, .poison, .hostMem, .time, .mortar, .errLog, .errOverflow, .ctxs, .flash, .msix, .msixSent, .regPosted] s _ := Kept.of_thd heq ?_; ?_); (on_goal 2 => clear heq))

theorem programParity_kept (s : State) (c : FCmd) (x : ℕ × ℕ) :
    Kept [.flash] s (programParity s c x) := by
  unfold programParity
  repeat' first
    | with_reducible exact Kept.refl _ _
    | with_reducible assumption
    | intro (_h : Kept _ _ _)
    | intro y
    | decide
    | with_reducible apply hf
    | (with_reducible apply Kept.step; (on_goal 2 => first
        | exact State.modFlash_kept _ _ (fun h => h)
        | exact State.modFlash_kept _ _ (writeBytes_wf _ _)
        | exact State.modFlash_kept _ _ (fill_wf _ _ _)
        | with_reducible apply State.modFCmd_kept))
    | (split; rename_i heq; refine (have hx : Kept [.flash] s _ := Kept.of_snd heq ?_; ?_); (on_goal 2 => clear heq))
    | (split; rename_i heq; refine (have hx : Kept [.flash] s _ := Kept.of_thd heq ?_; ?_); (on_goal 2 => clear heq))

theorem endWrites_kept (s : State) :
    Kept [.regs, .mem, .poison, .hostMem, .tiles, .mortar, .errLog, .errOverflow, .ctxs, .joints, .flash, .kiln, .links, .colls, .conts, .msix, .msixSent, .regPosted] s (endWrites s) := by
  unfold endWrites
  repeat' first
    | with_reducible exact Kept.refl _ _
    | with_reducible assumption
    | intro (_h : Kept _ _ _)
    | intro y
    | decide
    | with_reducible apply hf
    | (with_reducible apply Kept.step; (on_goal 2 => first
        | exact State.modFlash_kept _ _ (fun h => h)
        | exact State.modFlash_kept _ _ (writeBytes_wf _ _)
        | exact State.modFlash_kept _ _ (fill_wf _ _ _)
        | with_reducible apply flashEnd_kept))
    | with_reducible apply Kept.ite
    | with_reducible apply Kept.ite₂
    | with_reducible apply Kept.ite₃
    | with_reducible apply Kept.iteW
    | with_reducible apply Kept.foldl
    | (split; rename_i heq; refine (have hx : Kept [.regs, .mem, .poison, .hostMem, .tiles, .mortar, .errLog, .errOverflow, .ctxs, .joints, .flash, .kiln, .links, .colls, .conts, .msix, .msixSent, .regPosted] s _ := Kept.of_snd heq ?_; ?_); (on_goal 2 => clear heq))
    | (split; rename_i heq; refine (have hx : Kept [.regs, .mem, .poison, .hostMem, .tiles, .mortar, .errLog, .errOverflow, .ctxs, .joints, .flash, .kiln, .links, .colls, .conts, .msix, .msixSent, .regPosted] s _ := Kept.of_thd heq ?_; ?_); (on_goal 2 => clear heq))

theorem programDone_kept (s : State) (id : ℕ) (ok : Bool) (row : ℕ) (slot : ℕ) :
    Kept [.regs, .mem, .poison, .hostMem, .time, .tiles, .mortar, .errLog, .errOverflow, .ctxs, .joints, .flash, .holdup, .kiln, .links, .colls, .conts, .msix, .msixSent, .regPosted] s (programDone s id ok row slot) := by
  unfold programDone
  repeat' first
    | with_reducible exact Kept.refl _ _
    | with_reducible assumption
    | intro (_h : Kept _ _ _)
    | intro y
    | decide
    | with_reducible apply hf
    | (with_reducible apply Kept.step; (on_goal 2 => first
        | with_reducible apply State.modFCmd_kept
        | with_reducible apply startPrograms_kept
        | with_reducible apply programPage_kept
        | with_reducible apply programParity_kept
        | with_reducible apply endWrites_kept))
    | with_reducible apply Kept.ite
    | with_reducible apply Kept.ite₂
    | with_reducible apply Kept.ite₃
    | with_reducible apply Kept.iteW
    | with_reducible apply Kept.foldl
    | with_reducible apply Kept.foldl₂
    | with_reducible apply Kept.foldl₃
    | with_reducible refine Kept.of_snd (by assumption) ?_
    | with_reducible refine Kept.of_done (by assumption) ?_
    | with_reducible refine Kept.of_fault (by assumption) ?_
    | with_reducible refine Kept.of_wait (by assumption) ?_
    | with_reducible refine Kept.of_thd (by assumption) ?_
    | split

theorem askUnitPart_kept (id : ℕ) (s : State) (p : ℕ × ℕ) :
    Kept [.nextId, .regs, .flash, .hostReads] s (askUnitPart id s p) := by
  unfold askUnitPart
  repeat' first
    | with_reducible exact Kept.refl _ _
    | with_reducible assumption
    | intro (_h : Kept _ _ _)
    | ((try lift_lets); intro x; refine (have hx : Kept [.nextId, .regs, .flash, .hostReads] s x := ?_; ?_); (on_goal 1 => subst x); (on_goal 2 => clear_value x))
    | intro y
    | decide
    | with_reducible apply hf
    | (with_reducible apply Kept.step; (on_goal 2 => first
        | with_reducible apply State.addrError_kept
        | with_reducible apply State.askHost_kept
        | with_reducible apply State.modFCmd_kept))
    | with_reducible apply Kept.ite
    | with_reducible apply Kept.ite₂
    | with_reducible apply Kept.ite₃
    | with_reducible apply Kept.iteW
    | with_reducible apply Kept.foldl
    | with_reducible apply Kept.foldl₂
    | with_reducible apply Kept.foldl₃
    | with_reducible refine Kept.of_snd (by assumption) ?_
    | with_reducible refine Kept.of_done (by assumption) ?_
    | with_reducible refine Kept.of_fault (by assumption) ?_
    | with_reducible refine Kept.of_wait (by assumption) ?_
    | with_reducible refine Kept.of_thd (by assumption) ?_
    | split

theorem pumpUnits_kept (s : State) (id : ℕ) :
    Kept [.nextId, .regs, .mem, .poison, .hostMem, .tiles, .mortar, .errLog, .errOverflow, .ctxs, .joints, .flash, .hostReads, .holdup, .kiln, .links, .colls, .conts, .msix, .msixSent, .regPosted] s (pumpUnits s id) := by
  unfold pumpUnits
  repeat' first
    | with_reducible exact Kept.refl _ _
    | with_reducible assumption
    | intro (_h : Kept _ _ _)
    | ((try lift_lets); intro x; refine (have hx : Kept [.nextId, .regs, .mem, .poison, .hostMem, .tiles, .mortar, .errLog, .errOverflow, .ctxs, .joints, .flash, .hostReads, .holdup, .kiln, .links, .colls, .conts, .msix, .msixSent, .regPosted] s x := ?_; ?_); (on_goal 1 => subst x); (on_goal 2 => clear_value x))
    | intro y
    | decide
    | with_reducible apply hf
    | (with_reducible apply Kept.step; (on_goal 2 => first
        | with_reducible apply flashEnd_kept
        | with_reducible apply startPrograms_kept
        | with_reducible apply askUnitPart_kept))
    | with_reducible apply Kept.ite
    | with_reducible apply Kept.ite₂
    | with_reducible apply Kept.ite₃
    | with_reducible apply Kept.iteW
    | with_reducible apply Kept.foldl
    | with_reducible apply Kept.foldl₂
    | with_reducible apply Kept.foldl₃
    | with_reducible refine Kept.of_snd (by assumption) ?_
    | with_reducible refine Kept.of_done (by assumption) ?_
    | with_reducible refine Kept.of_fault (by assumption) ?_
    | with_reducible refine Kept.of_wait (by assumption) ?_
    | with_reducible refine Kept.of_thd (by assumption) ?_
    | split

theorem landUnitPart_kept (s : State) (id : ℕ) (ofs : ℕ) (data : List Byte) (failed : Bool) :
    Kept [.nextId, .regs, .mem, .poison, .hostMem, .time, .tiles, .mortar, .errLog, .errOverflow, .ctxs, .joints, .flash, .hostReads, .holdup, .kiln, .links, .colls, .conts, .msix, .msixSent, .regPosted] s (landUnitPart s id ofs data failed) := by
  unfold landUnitPart
  repeat' first
    | with_reducible exact Kept.refl _ _
    | with_reducible assumption
    | intro (_h : Kept _ _ _)
    | ((try lift_lets); intro x; refine (have hx : Kept [.nextId, .regs, .mem, .poison, .hostMem, .time, .tiles, .mortar, .errLog, .errOverflow, .ctxs, .joints, .flash, .hostReads, .holdup, .kiln, .links, .colls, .conts, .msix, .msixSent, .regPosted] s x := ?_; ?_); (on_goal 1 => subst x); (on_goal 2 => clear_value x))
    | intro y
    | decide
    | with_reducible apply hf
    | (with_reducible apply Kept.step; (on_goal 2 => first
        | with_reducible apply breakForData_kept
        | with_reducible apply State.modFCmd_kept
        | with_reducible apply pumpUnits_kept))
    | with_reducible apply Kept.ite
    | with_reducible apply Kept.ite₂
    | with_reducible apply Kept.ite₃
    | with_reducible apply Kept.iteW
    | with_reducible apply Kept.foldl
    | with_reducible apply Kept.foldl₂
    | with_reducible apply Kept.foldl₃
    | with_reducible refine Kept.of_snd (by assumption) ?_
    | with_reducible refine Kept.of_done (by assumption) ?_
    | with_reducible refine Kept.of_fault (by assumption) ?_
    | with_reducible refine Kept.of_wait (by assumption) ?_
    | with_reducible refine Kept.of_thd (by assumption) ?_
    | split

theorem landSample_kept (s : State) (e : ℕ) (c : FCmd) (u : ℕ) :
    Kept [.time, .kiln] s (landSample s e c u) := by
  unfold landSample
  repeat' first
    | with_reducible exact Kept.refl _ _
    | with_reducible assumption
    | intro (_h : Kept _ _ _)
    | ((try lift_lets); intro x; clear_value x)
    | intro y
    | decide
    | with_reducible apply hf
    | (with_reducible apply Kept.step; (on_goal 2 => first
        | with_reducible apply State.progressAll_kept
        | with_reducible apply State.engineLand_kept))
    | (split; rename_i heq; refine (have hx : Kept [.time, .kiln] s _ := Kept.of_snd heq ?_; ?_); (on_goal 2 => clear heq))
    | (split; rename_i heq; refine (have hx : Kept [.time, .kiln] s _ := Kept.of_thd heq ?_; ?_); (on_goal 2 => clear heq))

theorem landUnit_kept (s : State) (c : FCmd) (u : ℕ) (good : Bool) :
    Kept [.freeCtr, .regs, .mem, .poison, .hostMem, .time, .mortar, .errLog, .errOverflow, .ctxs, .kiln, .regPosted] s (landUnit s c u good).2 := by
  unfold landUnit
  repeat' first
    | with_reducible exact Kept.refl _ _
    | with_reducible assumption
    | intro (_h : Kept _ _ _)
    | ((try lift_lets); intro x; clear_value x)
    | intro y
    | decide
    | with_reducible apply hf
    | (with_reducible apply Kept.step; (on_goal 2 => first
        | with_reducible apply agentWriteAll_kept
        | with_reducible apply freeBytes_kept
        | with_reducible apply flashProgress_kept
        | with_reducible apply landSample_kept))
    | with_reducible apply Kept.ite
    | with_reducible apply Kept.ite₂
    | with_reducible apply Kept.ite₃
    | with_reducible apply Kept.iteW
    | with_reducible apply Kept.foldl
    | with_reducible apply Kept.foldl₂
    | with_reducible apply Kept.foldl₃
    | with_reducible refine Kept.of_snd (by assumption) ?_
    | with_reducible refine Kept.of_done (by assumption) ?_
    | with_reducible refine Kept.of_fault (by assumption) ?_
    | with_reducible refine Kept.of_wait (by assumption) ?_
    | with_reducible refine Kept.of_thd (by assumption) ?_
    | split

theorem landUnits_kept (s : State) (c : FCmd) (us : List ℕ) (good : Bool) :
    Kept [.freeCtr, .regs, .mem, .poison, .hostMem, .time, .tiles, .mortar, .errLog, .errOverflow, .ctxs, .joints, .flash, .kiln, .links, .colls, .conts, .msix, .msixSent, .regPosted] s (landUnits s c us good) := by
  unfold landUnits
  repeat' first
    | with_reducible exact Kept.refl _ _
    | with_reducible assumption
    | intro (_h : Kept _ _ _)
    | ((try lift_lets); intro x; clear_value x)
    | intro y
    | decide
    | with_reducible apply hf
    | (with_reducible apply Kept.step; (on_goal 2 => first
        | exact State.modFlash_kept _ _ (fun h => by simp only [Flash.unplace_data, Flash.put_data, Flash.countRead_data, Flash.noteRetry_data, Flash.prune_data, Flash.relocate_data]; exact h)
        | exact State.modFlash_kept _ _ (fun h => h)
        | exact State.modFlash_kept _ _ (writeBytes_wf _ _)
        | exact State.modFlash_kept _ _ (fill_wf _ _ _)
        | with_reducible apply State.modFCmd_kept
        | with_reducible apply flashBreak_kept
        | with_reducible apply flashEnd_kept
        | with_reducible apply landUnit_kept))
    | with_reducible apply Kept.ite
    | with_reducible apply Kept.ite₂
    | with_reducible apply Kept.ite₃
    | with_reducible apply Kept.iteW
    | with_reducible apply Kept.foldl
    | with_reducible apply Kept.foldl₂
    | (split; rename_i heq; refine (have hx : Kept [.freeCtr, .regs, .mem, .poison, .hostMem, .time, .tiles, .mortar, .errLog, .errOverflow, .ctxs, .joints, .flash, .kiln, .links, .colls, .conts, .msix, .msixSent, .regPosted] s _ := Kept.of_snd heq ?_; ?_); (on_goal 2 => clear heq))
    | (split; rename_i heq; refine (have hx : Kept [.freeCtr, .regs, .mem, .poison, .hostMem, .time, .tiles, .mortar, .errLog, .errOverflow, .ctxs, .joints, .flash, .kiln, .links, .colls, .conts, .msix, .msixSent, .regPosted] s _ := Kept.of_thd heq ?_; ?_); (on_goal 2 => clear heq))

theorem landShared_kept (s : State) (obj : ℕ) (us : List ℕ) (good : Bool) :
    Kept [.freeCtr, .regs, .mem, .poison, .hostMem, .time, .tiles, .mortar, .errLog, .errOverflow, .ctxs, .joints, .flash, .kiln, .links, .colls, .conts, .msix, .msixSent, .regPosted] s (landShared s obj us good) := by
  unfold landShared
  repeat' first
    | with_reducible exact Kept.refl _ _
    | with_reducible assumption
    | intro (_h : Kept _ _ _)
    | intro y
    | decide
    | with_reducible apply hf
    | (with_reducible apply Kept.step; (on_goal 2 => with_reducible apply landUnits_kept))
    | with_reducible apply Kept.ite
    | with_reducible apply Kept.ite₂
    | with_reducible apply Kept.ite₃
    | with_reducible apply Kept.iteW
    | with_reducible apply Kept.foldl
    | with_reducible apply Kept.foldl₂
    | with_reducible apply Kept.foldl₃
    | with_reducible refine Kept.of_snd (by assumption) ?_
    | with_reducible refine Kept.of_done (by assumption) ?_
    | with_reducible refine Kept.of_fault (by assumption) ?_
    | with_reducible refine Kept.of_wait (by assumption) ?_
    | with_reducible refine Kept.of_thd (by assumption) ?_
    | split

theorem setTries_kept (s : State) (obj : ℕ) (p : ℕ) (n : Option ℕ) :
    Kept [.flash] s (setTries s obj p n) := by
  unfold setTries
  repeat' first
    | with_reducible exact Kept.refl _ _
    | with_reducible assumption
    | intro (_h : Kept _ _ _)
    | intro y
    | decide
    | with_reducible apply hf
    | (with_reducible apply Kept.step; (on_goal 2 => exact State.modFlash_kept _ _ (fun h => h)))
    | (split; rename_i heq; refine (have hx : Kept [.flash] s _ := Kept.of_snd heq ?_; ?_); (on_goal 2 => clear heq))
    | (split; rename_i heq; refine (have hx : Kept [.flash] s _ := Kept.of_thd heq ?_; ?_); (on_goal 2 => clear heq))

theorem recheckRead_kept (s : State) (c : FCmd) :
    Kept [.regs, .mem, .poison, .hostMem, .time, .mortar, .errLog, .errOverflow, .ctxs, .msix, .msixSent, .regPosted] s (recheckRead s c) := by
  unfold recheckRead
  repeat' first
    | with_reducible exact Kept.refl _ _
    | with_reducible assumption
    | intro (_h : Kept _ _ _)
    | ((try lift_lets); intro x; clear_value x)
    | intro y
    | decide
    | with_reducible apply hf
    | (with_reducible apply Kept.step; (on_goal 2 => with_reducible apply breakReq_kept))
    | with_reducible apply Kept.ite
    | with_reducible apply Kept.ite₂
    | with_reducible apply Kept.ite₃
    | with_reducible apply Kept.iteW
    | with_reducible apply Kept.foldl
    | with_reducible apply Kept.foldl₂
    | with_reducible apply Kept.foldl₃
    | with_reducible refine Kept.of_snd (by assumption) ?_
    | with_reducible refine Kept.of_done (by assumption) ?_
    | with_reducible refine Kept.of_fault (by assumption) ?_
    | with_reducible refine Kept.of_wait (by assumption) ?_
    | with_reducible refine Kept.of_thd (by assumption) ?_
    | split

theorem poisonUnit_kept (s : State) (obj : ℕ) (unit : ℕ) :
    Kept [.freeCtr, .regs, .mem, .poison, .hostMem, .time, .tiles, .mortar, .errLog, .errOverflow, .ctxs, .joints, .flash, .kiln, .links, .colls, .conts, .msix, .msixSent, .regPosted] s (poisonUnit s obj unit) := by
  unfold poisonUnit
  repeat' first
    | with_reducible exact Kept.refl _ _
    | with_reducible assumption
    | intro (_h : Kept _ _ _)
    | intro y
    | decide
    | with_reducible apply hf
    | (with_reducible apply Kept.step; (on_goal 2 => first
        | with_reducible apply State.bump_kept
        | with_reducible apply setUnitPoison_kept
        | with_reducible apply landShared_kept))
    | (split; rename_i heq; refine (have hx : Kept [.freeCtr, .regs, .mem, .poison, .hostMem, .time, .tiles, .mortar, .errLog, .errOverflow, .ctxs, .joints, .flash, .kiln, .links, .colls, .conts, .msix, .msixSent, .regPosted] s _ := Kept.of_snd heq ?_; ?_); (on_goal 2 => clear heq))
    | (split; rename_i heq; refine (have hx : Kept [.freeCtr, .regs, .mem, .poison, .hostMem, .time, .tiles, .mortar, .errLog, .errOverflow, .ctxs, .joints, .flash, .kiln, .links, .colls, .conts, .msix, .msixSent, .regPosted] s _ := Kept.of_thd heq ?_; ?_); (on_goal 2 => clear heq))

theorem pageRead_kept (s : State) (cmd : ℕ) (unit : ℕ) (ok : Bool) :
    Kept [.freeCtr, .regs, .mem, .poison, .hostMem, .time, .tiles, .mortar, .errLog, .errOverflow, .ctxs, .joints, .flash, .kiln, .links, .colls, .conts, .msix, .msixSent, .regPosted] s (pageRead s cmd unit ok) := by
  unfold pageRead
  repeat' first
    | with_reducible exact Kept.refl _ _
    | with_reducible assumption
    | intro (_h : Kept _ _ _)
    | ((try lift_lets); intro x; refine (have hx : Kept [.freeCtr, .regs, .mem, .poison, .hostMem, .time, .tiles, .mortar, .errLog, .errOverflow, .ctxs, .joints, .flash, .kiln, .links, .colls, .conts, .msix, .msixSent, .regPosted] s x := ?_; ?_); (on_goal 1 => subst x); (on_goal 2 => clear_value x))
    | ((try lift_lets); intro x; clear_value x)
    | intro y
    | decide
    | with_reducible apply hf
    | (with_reducible apply Kept.step; (on_goal 2 => first
        | exact State.modFlash_kept _ _ (fun h => by simp only [Flash.unplace_data, Flash.put_data, Flash.countRead_data, Flash.noteRetry_data, Flash.prune_data, Flash.relocate_data]; exact h)
        | exact State.modFlash_kept _ _ (fun h => h)
        | exact State.modFlash_kept _ _ (writeBytes_wf _ _)
        | exact State.modFlash_kept _ _ (fill_wf _ _ _)
        | with_reducible apply landShared_kept
        | with_reducible apply setTries_kept
        | with_reducible apply recheckRead_kept
        | with_reducible apply poisonUnit_kept))
    | with_reducible apply Kept.ite
    | with_reducible apply Kept.ite₂
    | with_reducible apply Kept.ite₃
    | with_reducible apply Kept.iteW
    | with_reducible apply Kept.foldl
    | with_reducible apply Kept.foldl₂
    | with_reducible apply Kept.foldl₃
    | with_reducible refine Kept.of_snd (by assumption) ?_
    | with_reducible refine Kept.of_done (by assumption) ?_
    | with_reducible refine Kept.of_fault (by assumption) ?_
    | with_reducible refine Kept.of_wait (by assumption) ?_
    | with_reducible refine Kept.of_thd (by assumption) ?_
    | split

theorem pageRetry_kept (s : State) (cmd : ℕ) (unit : ℕ) (ok : Bool) :
    Kept [.freeCtr, .regs, .mem, .poison, .hostMem, .time, .tiles, .mortar, .errLog, .errOverflow, .ctxs, .joints, .flash, .kiln, .links, .colls, .conts, .msix, .msixSent, .regPosted] s (pageRetry s cmd unit ok) := by
  unfold pageRetry
  repeat' first
    | with_reducible exact Kept.refl _ _
    | with_reducible assumption
    | intro (_h : Kept _ _ _)
    | ((try lift_lets); intro x; refine (have hx : Kept [.freeCtr, .regs, .mem, .poison, .hostMem, .time, .tiles, .mortar, .errLog, .errOverflow, .ctxs, .joints, .flash, .kiln, .links, .colls, .conts, .msix, .msixSent, .regPosted] s x := ?_; ?_); (on_goal 1 => subst x); (on_goal 2 => clear_value x))
    | ((try lift_lets); intro x; clear_value x)
    | intro y
    | decide
    | with_reducible apply hf
    | (with_reducible apply Kept.step; (on_goal 2 => first
        | with_reducible apply State.bump_kept
        | exact State.modFlash_kept _ _ (fun h => by simp only [Flash.unplace_data, Flash.put_data, Flash.countRead_data, Flash.noteRetry_data, Flash.prune_data, Flash.relocate_data]; exact h)
        | exact State.modFlash_kept _ _ (fun h => h)
        | exact State.modFlash_kept _ _ (writeBytes_wf _ _)
        | exact State.modFlash_kept _ _ (fill_wf _ _ _)
        | with_reducible apply landShared_kept
        | with_reducible apply setTries_kept))
    | with_reducible apply Kept.ite
    | with_reducible apply Kept.ite₂
    | with_reducible apply Kept.ite₃
    | with_reducible apply Kept.iteW
    | with_reducible apply Kept.foldl
    | with_reducible apply Kept.foldl₂
    | with_reducible apply Kept.foldl₃
    | with_reducible refine Kept.of_snd (by assumption) ?_
    | with_reducible refine Kept.of_done (by assumption) ?_
    | with_reducible refine Kept.of_fault (by assumption) ?_
    | with_reducible refine Kept.of_wait (by assumption) ?_
    | with_reducible refine Kept.of_thd (by assumption) ?_
    | split

theorem pageRebuild_kept (s : State) (cmd : ℕ) (unit : ℕ) (ok : Bool) :
    Kept [.freeCtr, .regs, .mem, .poison, .hostMem, .time, .tiles, .mortar, .errLog, .errOverflow, .ctxs, .joints, .flash, .kiln, .links, .colls, .conts, .msix, .msixSent, .regPosted] s (pageRebuild s cmd unit ok) := by
  unfold pageRebuild
  repeat' first
    | with_reducible exact Kept.refl _ _
    | with_reducible assumption
    | intro (_h : Kept _ _ _)
    | ((try lift_lets); intro x; clear_value x)
    | intro y
    | decide
    | with_reducible apply hf
    | (with_reducible apply Kept.step; (on_goal 2 => first
        | with_reducible apply State.bump_kept
        | with_reducible apply landShared_kept
        | with_reducible apply setTries_kept
        | with_reducible apply poisonUnit_kept))
    | with_reducible apply Kept.ite
    | with_reducible apply Kept.ite₂
    | with_reducible apply Kept.ite₃
    | with_reducible apply Kept.iteW
    | with_reducible apply Kept.foldl
    | with_reducible apply Kept.foldl₂
    | with_reducible apply Kept.foldl₃
    | with_reducible refine Kept.of_snd (by assumption) ?_
    | with_reducible refine Kept.of_done (by assumption) ?_
    | with_reducible refine Kept.of_fault (by assumption) ?_
    | with_reducible refine Kept.of_wait (by assumption) ?_
    | with_reducible refine Kept.of_thd (by assumption) ?_
    | split

theorem flashDone_kept (s : State) (ctx : ℕ) (ring : ℕ) (d : Desc) (status : ℕ) :
    Kept [.regs, .mem, .poison, .hostMem, .mortar, .errLog, .errOverflow, .ctxs, .joints, .links, .conts, .msix, .msixSent, .regPosted] s (flashDone s ctx ring d status) := by
  unfold flashDone
  repeat' first
    | with_reducible exact Kept.refl _ _
    | with_reducible assumption
    | intro (_h : Kept _ _ _)
    | ((try lift_lets); intro x; refine (have hx : Kept [.regs, .mem, .poison, .hostMem, .mortar, .errLog, .errOverflow, .ctxs, .joints, .links, .conts, .msix, .msixSent, .regPosted] s x := ?_; ?_); (on_goal 1 => subst x); (on_goal 2 => clear_value x))
    | intro y
    | decide
    | with_reducible apply hf
    | (with_reducible apply Kept.step; (on_goal 2 => first
        | with_reducible apply finishDesc_kept
        | with_reducible apply jointAddFor_kept))
    | with_reducible apply Kept.ite
    | with_reducible apply Kept.ite₂
    | with_reducible apply Kept.ite₃
    | with_reducible apply Kept.iteW
    | with_reducible apply Kept.foldl
    | with_reducible apply Kept.foldl₂
    | with_reducible apply Kept.foldl₃
    | with_reducible refine Kept.of_snd (by assumption) ?_
    | with_reducible refine Kept.of_done (by assumption) ?_
    | with_reducible refine Kept.of_fault (by assumption) ?_
    | with_reducible refine Kept.of_wait (by assumption) ?_
    | with_reducible refine Kept.of_thd (by assumption) ?_
    | split

theorem flashCmd_kept (s : State) (ctx : ℕ) (ring : ℕ) (op : ℕ) (k : State → Desc → State) {kps : List Part} {s0 : State} (hm : partsIn [.regs, .mem, .poison, .hostMem, .mortar, .errLog, .errOverflow, .ctxs, .joints, .links, .conts, .msix, .msixSent, .regPosted] kps = true) (h0 : Kept kps s0 s) (hk : ∀ y0 y1, Kept kps s0 y0 → Kept kps s0 (k y0 y1)) :
    Kept kps s0 (flashCmd s ctx ring op k) := by
  unfold flashCmd
  repeat' first
    | with_reducible exact Kept.refl _ _
    | with_reducible assumption
    | intro (_h : Kept _ _ _)
    | intro y
    | exact partsIn_trans (by decide) hm
    | with_reducible apply hk
    | with_reducible apply hf
    | (with_reducible apply Kept.step; (on_goal 2 => first
        | with_reducible apply finishDesc_kept
        | with_reducible apply State.startDesc_kept
        | with_reducible apply flashDone_kept))
    | with_reducible apply Kept.ite
    | with_reducible apply Kept.ite₂
    | with_reducible apply Kept.ite₃
    | with_reducible apply Kept.iteW
    | with_reducible apply Kept.foldl
    | with_reducible apply Kept.foldl₂
    | with_reducible apply Kept.foldl₃
    | with_reducible refine Kept.of_snd (by assumption) ?_
    | with_reducible refine Kept.of_done (by assumption) ?_
    | with_reducible refine Kept.of_fault (by assumption) ?_
    | with_reducible refine Kept.of_wait (by assumption) ?_
    | with_reducible refine Kept.of_thd (by assumption) ?_
    | split

theorem flashMake_kept (s : State) (ctx : ℕ) (ring : ℕ) (d : Desc) :
    Kept [.regs, .mem, .poison, .hostMem, .mortar, .errLog, .errOverflow, .ctxs, .joints, .flash, .links, .conts, .msix, .msixSent, .regPosted] s (flashMake s ctx ring d) := by
  unfold flashMake
  repeat' first
    | with_reducible exact Kept.refl _ _
    | with_reducible assumption
    | intro (_h : Kept _ _ _)
    | ((try lift_lets); intro x; clear_value x)
    | intro y
    | decide
    | with_reducible apply hf
    | (with_reducible apply Kept.step; (on_goal 2 => first
        | exact State.modFlash_kept _ _ (fun h => h)
        | exact State.modFlash_kept _ _ (writeBytes_wf _ _)
        | exact State.modFlash_kept _ _ (fill_wf _ _ _)
        | with_reducible apply flashDone_kept))
    | with_reducible apply Kept.ite
    | (split; rename_i heq; refine (have hx : Kept [.regs, .mem, .poison, .hostMem, .mortar, .errLog, .errOverflow, .ctxs, .joints, .flash, .links, .conts, .msix, .msixSent, .regPosted] s _ := Kept.of_snd heq ?_; ?_); (on_goal 2 => clear heq))
    | (split; rename_i heq; refine (have hx : Kept [.regs, .mem, .poison, .hostMem, .mortar, .errLog, .errOverflow, .ctxs, .joints, .flash, .links, .conts, .msix, .msixSent, .regPosted] s _ := Kept.of_thd heq ?_; ?_); (on_goal 2 => clear heq))

theorem flashFly_kept (s : State) (ctx : ℕ) (ring : ℕ) (d : Desc) (stream : Option (ℕ × ℕ)) :
    Kept [.nextId, .flash] s (flashFly s ctx ring d stream).2 := by
  unfold flashFly
  repeat' first
    | with_reducible exact Kept.refl _ _
    | with_reducible assumption
    | intro (_h : Kept _ _ _)
    | ((try lift_lets); intro x; clear_value x)
    | intro y
    | decide
    | with_reducible apply hf
    | (with_reducible apply Kept.step; (on_goal 2 => first
        | with_reducible apply State.fresh_kept
        | exact State.modFlash_kept _ _ (fun h => h)))
    | (split; rename_i heq; refine (have hx : Kept [.nextId, .flash] s _ := Kept.of_snd heq ?_; ?_); (on_goal 2 => clear heq))
    | (split; rename_i heq; refine (have hx : Kept [.nextId, .flash] s _ := Kept.of_thd heq ?_; ?_); (on_goal 2 => clear heq))

theorem flashReadStart_kept (s : State) (ctx : ℕ) (ring : ℕ) (d : Desc) :
    Kept [.nextId, .regs, .mem, .poison, .hostMem, .time, .mortar, .errLog, .errOverflow, .ctxs, .joints, .flash, .links, .conts, .msix, .msixSent, .regPosted] s (flashReadStart s ctx ring d) := by
  unfold flashReadStart
  repeat' first
    | with_reducible exact Kept.refl _ _
    | with_reducible assumption
    | intro (_h : Kept _ _ _)
    | ((try lift_lets); intro x; clear_value x)
    | intro y
    | decide
    | with_reducible apply hf
    | (with_reducible apply Kept.step; (on_goal 2 => first
        | with_reducible apply finishDesc_kept
        | with_reducible apply breakForData_kept
        | with_reducible apply flashDone_kept
        | with_reducible apply flashFly_kept))
    | with_reducible apply Kept.ite
    | with_reducible apply Kept.ite₂
    | with_reducible apply Kept.ite₃
    | with_reducible apply Kept.iteW
    | with_reducible apply Kept.foldl
    | with_reducible apply Kept.foldl₂
    | with_reducible apply Kept.foldl₃
    | with_reducible refine Kept.of_snd (by assumption) ?_
    | with_reducible refine Kept.of_done (by assumption) ?_
    | with_reducible refine Kept.of_fault (by assumption) ?_
    | with_reducible refine Kept.of_wait (by assumption) ?_
    | with_reducible refine Kept.of_thd (by assumption) ?_
    | split

theorem streamCredit_kept (s : State) (c : FCmd) :
    Kept [.tiles, .flash] s (streamCredit s c) := by
  unfold streamCredit
  repeat' first
    | with_reducible exact Kept.refl _ _
    | with_reducible assumption
    | intro (_h : Kept _ _ _)
    | intro y
    | decide
    | with_reducible apply hf
    | (with_reducible apply Kept.step; (on_goal 2 => first
        | with_reducible apply State.modStream_kept
        | with_reducible apply State.modFCmd_kept))
    | with_reducible apply Kept.ite
    | with_reducible apply Kept.ite₂
    | with_reducible apply Kept.ite₃
    | with_reducible apply Kept.iteW
    | with_reducible apply Kept.foldl
    | with_reducible apply Kept.foldl₂
    | with_reducible apply Kept.foldl₃
    | with_reducible refine Kept.of_snd (by assumption) ?_
    | with_reducible refine Kept.of_done (by assumption) ?_
    | with_reducible refine Kept.of_fault (by assumption) ?_
    | with_reducible refine Kept.of_wait (by assumption) ?_
    | with_reducible refine Kept.of_thd (by assumption) ?_
    | split

theorem flashWriteStart_kept (s : State) (ctx : ℕ) (ring : ℕ) (d : Desc) :
    Kept [.nextId, .regs, .mem, .poison, .hostMem, .tiles, .mortar, .errLog, .errOverflow, .ctxs, .joints, .flash, .hostReads, .holdup, .kiln, .links, .colls, .conts, .msix, .msixSent, .regPosted] s (flashWriteStart s ctx ring d) := by
  unfold flashWriteStart
  repeat' first
    | with_reducible exact Kept.refl _ _
    | with_reducible assumption
    | intro (_h : Kept _ _ _)
    | intro y
    | decide
    | with_reducible apply hf
    | (with_reducible apply Kept.step; (on_goal 2 => first
        | with_reducible apply startPrograms_kept
        | with_reducible apply pumpUnits_kept
        | with_reducible apply flashDone_kept
        | with_reducible apply flashFly_kept))
    | with_reducible apply Kept.ite
    | with_reducible apply Kept.ite₂
    | with_reducible apply Kept.ite₃
    | with_reducible apply Kept.iteW
    | with_reducible apply Kept.foldl
    | with_reducible apply Kept.foldl₂
    | with_reducible apply Kept.foldl₃
    | with_reducible refine Kept.of_snd (by assumption) ?_
    | with_reducible refine Kept.of_done (by assumption) ?_
    | with_reducible refine Kept.of_fault (by assumption) ?_
    | with_reducible refine Kept.of_wait (by assumption) ?_
    | with_reducible refine Kept.of_thd (by assumption) ?_
    | split

theorem flashTrimRun_kept (s : State) (ctx : ℕ) (ring : ℕ) (d : Desc) :
    Kept [.regs, .mem, .poison, .hostMem, .mortar, .errLog, .errOverflow, .ctxs, .joints, .flash, .links, .conts, .msix, .msixSent, .regPosted] s (flashTrimRun s ctx ring d) := by
  unfold flashTrimRun
  repeat' first
    | with_reducible exact Kept.refl _ _
    | with_reducible assumption
    | intro (_h : Kept _ _ _)
    | ((try lift_lets); intro x; refine (have hx : Kept [.regs, .mem, .poison, .hostMem, .mortar, .errLog, .errOverflow, .ctxs, .joints, .flash, .links, .conts, .msix, .msixSent, .regPosted] s x := ?_; ?_); (on_goal 1 => subst x); (on_goal 2 => clear_value x))
    | ((try lift_lets); intro x; clear_value x)
    | intro y
    | decide
    | with_reducible apply hf
    | (with_reducible apply Kept.step; (on_goal 2 => first
        | exact State.modFlash_kept _ _ (fun h => by simp only [Flash.unplace_data, Flash.put_data, Flash.countRead_data, Flash.noteRetry_data, Flash.prune_data, Flash.relocate_data]; exact h)
        | exact State.modFlash_kept _ _ (fun h => h)
        | exact State.modFlash_kept _ _ (writeBytes_wf _ _)
        | exact State.modFlash_kept _ _ (fill_wf _ _ _)
        | with_reducible apply flashDone_kept))
    | with_reducible apply Kept.ite
    | with_reducible apply Kept.ite₂
    | with_reducible apply Kept.ite₃
    | with_reducible apply Kept.iteW
    | with_reducible apply Kept.foldl
    | with_reducible apply Kept.foldl₂
    | with_reducible apply Kept.foldl₃
    | with_reducible refine Kept.of_snd (by assumption) ?_
    | with_reducible refine Kept.of_done (by assumption) ?_
    | with_reducible refine Kept.of_fault (by assumption) ?_
    | with_reducible refine Kept.of_wait (by assumption) ?_
    | with_reducible refine Kept.of_thd (by assumption) ?_
    | split

theorem flashStatRun_kept (s : State) (ctx : ℕ) (ring : ℕ) (d : Desc) :
    Kept [.regs, .mem, .poison, .hostMem, .mortar, .errLog, .errOverflow, .ctxs, .joints, .links, .conts, .msix, .msixSent, .regPosted] s (flashStatRun s ctx ring d) := by
  unfold flashStatRun
  repeat' first
    | with_reducible exact Kept.refl _ _
    | with_reducible assumption
    | intro (_h : Kept _ _ _)
    | intro y
    | decide
    | with_reducible apply hf
    | (with_reducible apply Kept.step; (on_goal 2 => first
        | with_reducible apply agentWriteAll_kept
        | with_reducible apply flashDone_kept))
    | with_reducible apply Kept.ite
    | with_reducible apply Kept.ite₂
    | with_reducible apply Kept.ite₃
    | with_reducible apply Kept.iteW
    | with_reducible apply Kept.foldl
    | with_reducible apply Kept.foldl₂
    | with_reducible apply Kept.foldl₃
    | with_reducible refine Kept.of_snd (by assumption) ?_
    | with_reducible refine Kept.of_done (by assumption) ?_
    | with_reducible refine Kept.of_fault (by assumption) ?_
    | with_reducible refine Kept.of_wait (by assumption) ?_
    | with_reducible refine Kept.of_thd (by assumption) ?_
    | split

theorem relocateRow_kept (s : State) (row : ℕ) (dst : ℕ) :
    Kept [.regs, .flash] s (relocateRow s row dst) := by
  unfold relocateRow
  repeat' first
    | with_reducible exact Kept.refl _ _
    | with_reducible assumption
    | intro (_h : Kept _ _ _)
    | ((try lift_lets); intro x; clear_value x)
    | intro y
    | decide
    | with_reducible apply hf
    | (with_reducible apply Kept.step; (on_goal 2 => first
        | with_reducible apply State.bump_kept
        | exact State.modFlash_kept _ _ (fun h => by simp only [Flash.unplace_data, Flash.put_data, Flash.countRead_data, Flash.noteRetry_data, Flash.prune_data, Flash.relocate_data]; exact h)
        | exact State.modFlash_kept _ _ (fun h => h)
        | exact State.modFlash_kept _ _ (writeBytes_wf _ _)
        | exact State.modFlash_kept _ _ (fill_wf _ _ _)))
    | with_reducible apply Kept.ite
    | (split; rename_i heq; refine (have hx : Kept [.regs, .flash] s _ := Kept.of_snd heq ?_; ?_); (on_goal 2 => clear heq))
    | (split; rename_i heq; refine (have hx : Kept [.regs, .flash] s _ := Kept.of_thd heq ?_; ?_); (on_goal 2 => clear heq))

theorem flashStop_kept (s : State) :
    Kept [.regs, .mem, .poison, .hostMem, .tiles, .mortar, .errLog, .errOverflow, .ctxs, .joints, .flash, .kiln, .links, .colls, .conts, .msix, .msixSent, .regPosted] s (flashStop s) := by
  unfold flashStop
  repeat' first
    | with_reducible exact Kept.refl _ _
    | with_reducible assumption
    | intro (_h : Kept _ _ _)
    | ((try lift_lets); intro x; refine (have hx : Kept [.regs, .mem, .poison, .hostMem, .tiles, .mortar, .errLog, .errOverflow, .ctxs, .joints, .flash, .kiln, .links, .colls, .conts, .msix, .msixSent, .regPosted] s x := ?_; ?_); (on_goal 1 => subst x); (on_goal 2 => clear_value x))
    | intro y
    | decide
    | with_reducible apply hf
    | (with_reducible apply Kept.step; (on_goal 2 => first
        | with_reducible apply finishDesc_kept
        | with_reducible apply flashEnd_kept
        | with_reducible apply flashDone_kept))
    | with_reducible apply Kept.ite
    | with_reducible apply Kept.ite₂
    | with_reducible apply Kept.ite₃
    | with_reducible apply Kept.iteW
    | with_reducible apply Kept.foldl
    | (split; rename_i heq; refine (have hx : Kept [.regs, .mem, .poison, .hostMem, .tiles, .mortar, .errLog, .errOverflow, .ctxs, .joints, .flash, .kiln, .links, .colls, .conts, .msix, .msixSent, .regPosted] s _ := Kept.of_snd heq ?_; ?_); (on_goal 2 => clear heq))
    | (split; rename_i heq; refine (have hx : Kept [.regs, .mem, .poison, .hostMem, .tiles, .mortar, .errLog, .errOverflow, .ctxs, .joints, .flash, .kiln, .links, .colls, .conts, .msix, .msixSent, .regPosted] s _ := Kept.of_thd heq ?_; ?_); (on_goal 2 => clear heq))

theorem hostLand_kept (s : State) (h : HostRead) (data : List Byte) (failed : Bool) :
    Kept [.nextId, .regs, .mem, .poison, .hostMem, .time, .tiles, .mortar, .errLog, .errOverflow, .ctxs, .joints, .kv, .flash, .hostReads, .copies, .holdup, .kiln, .links, .colls, .conts, .msix, .msixSent, .regPosted] s (hostLand s h data failed) := by
  unfold hostLand
  repeat' first
    | with_reducible exact Kept.refl _ _
    | with_reducible assumption
    | intro (_h : Kept _ _ _)
    | intro y
    | decide
    | with_reducible apply hf
    | (with_reducible apply Kept.step; (on_goal 2 => first
        | with_reducible apply breakForData_kept
        | with_reducible apply landCopyPart_kept
        | with_reducible apply answerTag_kept
        | with_reducible apply State.progressAll_kept
        | with_reducible apply State.engineFails_kept
        | with_reducible apply State.engineLand_kept
        | with_reducible apply landUnitPart_kept))
    | with_reducible apply Kept.ite
    | with_reducible apply Kept.ite₂
    | with_reducible apply Kept.ite₃
    | with_reducible apply Kept.iteW
    | with_reducible apply Kept.foldl
    | with_reducible apply Kept.foldl₂
    | with_reducible apply Kept.foldl₃
    | with_reducible refine Kept.of_snd (by assumption) ?_
    | with_reducible refine Kept.of_done (by assumption) ?_
    | with_reducible refine Kept.of_fault (by assumption) ?_
    | with_reducible refine Kept.of_wait (by assumption) ?_
    | with_reducible refine Kept.of_thd (by assumption) ?_
    | split

theorem hostReadFails_kept (s : State) (h : HostRead) :
    Kept [.freeCtr, .nextId, .regs, .mem, .poison, .hostMem, .time, .tiles, .mortar, .errLog, .errOverflow, .ctxs, .joints, .kv, .flash, .hostReads, .copies, .holdup, .kiln, .links, .colls, .conts, .msix, .msixSent, .regPosted] s (hostReadFails s h) := by
  unfold hostReadFails
  repeat' first
    | with_reducible exact Kept.refl _ _
    | with_reducible assumption
    | intro (_h : Kept _ _ _)
    | intro y
    | decide
    | with_reducible apply hf
    | (with_reducible apply Kept.step; (on_goal 2 => first
        | with_reducible apply freeBytes_kept
        | with_reducible apply hostLand_kept))
    | (split; rename_i heq; refine (have hx : Kept [.freeCtr, .nextId, .regs, .mem, .poison, .hostMem, .time, .tiles, .mortar, .errLog, .errOverflow, .ctxs, .joints, .kv, .flash, .hostReads, .copies, .holdup, .kiln, .links, .colls, .conts, .msix, .msixSent, .regPosted] s _ := Kept.of_snd heq ?_; ?_); (on_goal 2 => clear heq))
    | (split; rename_i heq; refine (have hx : Kept [.freeCtr, .nextId, .regs, .mem, .poison, .hostMem, .time, .tiles, .mortar, .errLog, .errOverflow, .ctxs, .joints, .kv, .flash, .hostReads, .copies, .holdup, .kiln, .links, .colls, .conts, .msix, .msixSent, .regPosted] s _ := Kept.of_thd heq ?_; ?_); (on_goal 2 => clear heq))

theorem dropHostRead_kept (s : State) (tag : ℕ) :
    Kept [.hostReads] s (dropHostRead s tag) := by
  unfold dropHostRead
  repeat' first
    | with_reducible exact Kept.refl _ _
    | with_reducible assumption
    | intro (_h : Kept _ _ _)
    | intro y
    | decide
    | with_reducible apply hf
    | with_reducible apply Kept.ite
    | with_reducible apply Kept.ite₂
    | with_reducible apply Kept.ite₃
    | with_reducible apply Kept.iteW
    | with_reducible apply Kept.foldl
    | with_reducible apply Kept.foldl₂
    | with_reducible apply Kept.foldl₃
    | with_reducible refine Kept.of_snd (by assumption) ?_
    | with_reducible refine Kept.of_done (by assumption) ?_
    | with_reducible refine Kept.of_fault (by assumption) ?_
    | with_reducible refine Kept.of_wait (by assumption) ?_
    | with_reducible refine Kept.of_thd (by assumption) ?_
    | split
    | (with_reducible apply Kept.step; (on_goal 2 => with_reducible apply Kept.set_hostReads))

theorem hostComplete_kept (s : State) (h : HostRead) (status : ℕ) (data : List Byte) :
    Kept [.freeCtr, .nextId, .regs, .mem, .poison, .hostMem, .time, .tiles, .mortar, .errLog, .errOverflow, .ctxs, .joints, .kv, .flash, .hostReads, .copies, .holdup, .kiln, .links, .colls, .conts, .msix, .msixSent, .regPosted] s (hostComplete s h status data) := by
  unfold hostComplete
  repeat' first
    | with_reducible exact Kept.refl _ _
    | with_reducible assumption
    | intro (_h : Kept _ _ _)
    | ((try lift_lets); intro x; refine (have hx : Kept [.freeCtr, .nextId, .regs, .mem, .poison, .hostMem, .time, .tiles, .mortar, .errLog, .errOverflow, .ctxs, .joints, .kv, .flash, .hostReads, .copies, .holdup, .kiln, .links, .colls, .conts, .msix, .msixSent, .regPosted] s x := ?_; ?_); (on_goal 1 => subst x); (on_goal 2 => clear_value x))
    | intro y
    | decide
    | with_reducible apply hf
    | (with_reducible apply Kept.step; (on_goal 2 => first
        | with_reducible apply State.bump_kept
        | with_reducible apply hostLand_kept
        | with_reducible apply hostReadFails_kept
        | with_reducible apply dropHostRead_kept))
    | with_reducible apply Kept.ite
    | (split; rename_i heq; refine (have hx : Kept [.freeCtr, .nextId, .regs, .mem, .poison, .hostMem, .time, .tiles, .mortar, .errLog, .errOverflow, .ctxs, .joints, .kv, .flash, .hostReads, .copies, .holdup, .kiln, .links, .colls, .conts, .msix, .msixSent, .regPosted] s _ := Kept.of_snd heq ?_; ?_); (on_goal 2 => clear heq))
    | (split; rename_i heq; refine (have hx : Kept [.freeCtr, .nextId, .regs, .mem, .poison, .hostMem, .time, .tiles, .mortar, .errLog, .errOverflow, .ctxs, .joints, .kv, .flash, .hostReads, .copies, .holdup, .kiln, .links, .colls, .conts, .msix, .msixSent, .regPosted] s _ := Kept.of_thd heq ?_; ?_); (on_goal 2 => clear heq))

end Sys2Proof.Machine
end

