-- ==== Sys2Proof/Laws/FrameColl.lean ====
section
/-! SUPPORT. Frames of the operations of Machine/Coll.lean. -/

namespace Sys2Proof.Machine

theorem State.setColl_kept (s : State) (c : Coll) :
    Kept [.colls] s (State.setColl s c) := by
  unfold State.setColl
  repeat' first
    | with_reducible exact Kept.refl _ _
    | with_reducible assumption
    | intro (_h : Kept _ _ _)
    | intro y
    | decide
    | with_reducible apply hf
    | with_reducible apply Kept.ite
    | with_reducible apply Kept.ite₂
    | with_reducible apply Kept.ite₃
    | with_reducible apply Kept.iteW
    | with_reducible apply Kept.foldl
    | with_reducible apply Kept.foldl₂
    | with_reducible apply Kept.foldl₃
    | with_reducible refine Kept.of_snd (by assumption) ?_
    | with_reducible refine Kept.of_done (by assumption) ?_
    | with_reducible refine Kept.of_fault (by assumption) ?_
    | with_reducible refine Kept.of_wait (by assumption) ?_
    | with_reducible refine Kept.of_thd (by assumption) ?_
    | split
    | (with_reducible apply Kept.step; (on_goal 2 => with_reducible apply Kept.set_colls))

theorem State.dropColl_kept (s : State) (c : Coll) :
    Kept [.colls] s (State.dropColl s c) := by
  unfold State.dropColl
  repeat' first
    | with_reducible exact Kept.refl _ _
    | with_reducible assumption
    | intro (_h : Kept _ _ _)
    | intro y
    | decide
    | with_reducible apply hf
    | with_reducible apply Kept.ite
    | with_reducible apply Kept.ite₂
    | with_reducible apply Kept.ite₃
    | with_reducible apply Kept.iteW
    | with_reducible apply Kept.foldl
    | with_reducible apply Kept.foldl₂
    | with_reducible apply Kept.foldl₃
    | with_reducible refine Kept.of_snd (by assumption) ?_
    | with_reducible refine Kept.of_done (by assumption) ?_
    | with_reducible refine Kept.of_fault (by assumption) ?_
    | with_reducible refine Kept.of_wait (by assumption) ?_
    | with_reducible refine Kept.of_thd (by assumption) ?_
    | split
    | (with_reducible apply Kept.step; (on_goal 2 => with_reducible apply Kept.set_colls))

theorem State.portProgress_kept (s : State) (c : Option Coll) (port : ℕ) (rx : Bool) (n : ℕ) :
    Kept [.time] s (State.portProgress s c port rx n) := by
  unfold State.portProgress
  repeat' first
    | with_reducible exact Kept.refl _ _
    | with_reducible assumption
    | intro (_h : Kept _ _ _)
    | intro y
    | decide
    | with_reducible apply hf
    | (with_reducible apply Kept.step; (on_goal 2 => with_reducible apply State.progressAll_kept))
    | (split; rename_i heq; refine (have hx : Kept [.time] s _ := Kept.of_snd heq ?_; ?_); (on_goal 2 => clear heq))
    | (split; rename_i heq; refine (have hx : Kept [.time] s _ := Kept.of_thd heq ?_; ?_); (on_goal 2 => clear heq))

theorem collRead_kept (s : State) (c : Coll) (a : ℕ) (n : ℕ) :
    Kept [.regs, .mem, .poison, .hostMem, .time, .mortar, .errLog, .errOverflow, .ctxs, .msix, .msixSent, .regPosted] s (collRead s c a n).2 := by
  unfold collRead
  repeat' first
    | with_reducible exact Kept.refl _ _
    | with_reducible assumption
    | intro (_h : Kept _ _ _)
    | ((try lift_lets); intro x; clear_value x)
    | intro y
    | decide
    | with_reducible apply hf
    | (with_reducible apply Kept.step; (on_goal 2 => first
        | with_reducible apply agentReadAll_kept
        | with_reducible apply breakForWords_kept
        | with_reducible apply State.progressAll_kept))
    | (split; rename_i heq; refine (have hx : Kept [.regs, .mem, .poison, .hostMem, .time, .mortar, .errLog, .errOverflow, .ctxs, .msix, .msixSent, .regPosted] s _ := Kept.of_snd heq ?_; ?_); (on_goal 2 => clear heq))
    | (split; rename_i heq; refine (have hx : Kept [.regs, .mem, .poison, .hostMem, .time, .mortar, .errLog, .errOverflow, .ctxs, .msix, .msixSent, .regPosted] s _ := Kept.of_thd heq ?_; ?_); (on_goal 2 => clear heq))

theorem collWrite_kept (s : State) (c : Coll) (a : ℕ) (data : List Byte) (bad : List ℕ) :
    Kept [.regs, .mem, .poison, .hostMem, .time, .mortar, .errLog, .errOverflow, .ctxs, .regPosted] s (collWrite s c a data bad).2 := by
  unfold collWrite
  repeat' first
    | with_reducible exact Kept.refl _ _
    | with_reducible assumption
    | intro (_h : Kept _ _ _)
    | ((try lift_lets); intro x; clear_value x)
    | intro y
    | decide
    | with_reducible apply hf
    | (with_reducible apply Kept.step; (on_goal 2 => first
        | with_reducible apply agentWriteAll_kept
        | with_reducible apply State.progressAll_kept))
    | (split; rename_i heq; refine (have hx : Kept [.regs, .mem, .poison, .hostMem, .time, .mortar, .errLog, .errOverflow, .ctxs, .regPosted] s _ := Kept.of_snd heq ?_; ?_); (on_goal 2 => clear heq))
    | (split; rename_i heq; refine (have hx : Kept [.regs, .mem, .poison, .hostMem, .time, .mortar, .errLog, .errOverflow, .ctxs, .regPosted] s _ := Kept.of_thd heq ?_; ?_); (on_goal 2 => clear heq))

theorem collSend_kept (s : State) (ctx : ℕ) (group : ℕ) (port : ℕ) (cls : ℕ) (status : ℕ) (sub : List Byte) (data : List Byte) :
    Kept [.time, .links] s (collSend s ctx group port cls status sub data).2 := by
  unfold collSend
  repeat' first
    | with_reducible exact Kept.refl _ _
    | with_reducible assumption
    | intro (_h : Kept _ _ _)
    | intro y
    | decide
    | with_reducible apply hf
    | (with_reducible apply Kept.step; (on_goal 2 => first
        | with_reducible apply sendOn_kept
        | with_reducible apply State.portProgress_kept))
    | with_reducible apply Kept.ite
    | (split; rename_i heq; refine (have hx : Kept [.time, .links] s _ := Kept.of_snd heq ?_; ?_); (on_goal 2 => clear heq))
    | (split; rename_i heq; refine (have hx : Kept [.time, .links] s _ := Kept.of_thd heq ?_; ?_); (on_goal 2 => clear heq))

theorem Coll.send_kept (c : Coll) (s : State) (plus : Bool) (kind : ℕ) (status : ℕ) (origin : ℕ) (first : ℕ) (count : ℕ) (total : ℕ) (data : List Byte) :
    Kept [.time, .links] s (Coll.send c s plus kind status origin first count total data) := by
  unfold Coll.send
  repeat' first
    | with_reducible exact Kept.refl _ _
    | with_reducible assumption
    | intro (_h : Kept _ _ _)
    | intro y
    | decide
    | with_reducible apply hf
    | (with_reducible apply Kept.step; (on_goal 2 => with_reducible apply collSend_kept))
    | (split; rename_i heq; refine (have hx : Kept [.time, .links] s _ := Kept.of_snd heq ?_; ?_); (on_goal 2 => clear heq))
    | (split; rename_i heq; refine (have hx : Kept [.time, .links] s _ := Kept.of_thd heq ?_; ?_); (on_goal 2 => clear heq))

theorem collForward_kept (s : State) (port : ℕ) (m : RxMsg) (origin : ℕ) (total : ℕ) (data : List Byte) :
    Kept [.time, .links] s (collForward s port m origin total data) := by
  unfold collForward
  repeat' first
    | with_reducible exact Kept.refl _ _
    | with_reducible assumption
    | intro (_h : Kept _ _ _)
    | ((try lift_lets); intro x; clear_value x)
    | intro y
    | decide
    | with_reducible apply hf
    | (with_reducible apply Kept.step; (on_goal 2 => with_reducible apply collSend_kept))
    | (split; rename_i heq; refine (have hx : Kept [.time, .links] s _ := Kept.of_snd heq ?_; ?_); (on_goal 2 => clear heq))
    | (split; rename_i heq; refine (have hx : Kept [.time, .links] s _ := Kept.of_thd heq ?_; ?_); (on_goal 2 => clear heq))

theorem undefRange_kept (s : State) (ctx a n : Nat) :
    Kept [.freeCtr, .mem, .poison, .hostMem] s (undefRange s ctx a n) := by
  unfold undefRange
  refine Kept.foldl (fun t p h => ?_) (Kept.refl _ _)
  split
  · exact h
  · split
    · exact (h.step (State.draw_kept t) (by decide)).step (Kept.set_hostMem _ _ (fill_wf _ _ _)) (by decide)
    · split
      · exact h
      · exact h.step (State.undefine_kept _ _ _) (by decide)

theorem collAbort_kept (s : State) (c : Coll) :
    Kept [.time, .links] s (collAbort s c) := by
  unfold collAbort
  repeat' first
    | with_reducible exact Kept.refl _ _
    | with_reducible assumption
    | intro (_h : Kept _ _ _)
    | ((try lift_lets); intro x; refine (have hx : Kept [.time, .links] s x := ?_; ?_); (on_goal 1 => subst x); (on_goal 2 => clear_value x))
    | ((try lift_lets); intro x; clear_value x)
    | intro y
    | decide
    | with_reducible apply hf
    | (with_reducible apply Kept.step; (on_goal 2 => with_reducible apply Coll.send_kept))
    | with_reducible apply Kept.ite
    | (split; rename_i heq; refine (have hx : Kept [.time, .links] s _ := Kept.of_snd heq ?_; ?_); (on_goal 2 => clear heq))
    | (split; rename_i heq; refine (have hx : Kept [.time, .links] s _ := Kept.of_thd heq ?_; ?_); (on_goal 2 => clear heq))

theorem collFinish_kept (s : State) (c : Coll) (status : ℕ) :
    Kept [.freeCtr, .regs, .mem, .poison, .hostMem, .time, .mortar, .errLog, .errOverflow, .ctxs, .joints, .kv, .links, .colls, .conts, .msix, .msixSent, .regPosted] s (collFinish s c status) := by
  unfold collFinish
  repeat' first
    | with_reducible exact Kept.refl _ _
    | with_reducible assumption
    | intro (_h : Kept _ _ _)
    | ((try lift_lets); intro x; refine (have hx : Kept [.freeCtr, .regs, .mem, .poison, .hostMem, .time, .mortar, .errLog, .errOverflow, .ctxs, .joints, .kv, .links, .colls, .conts, .msix, .msixSent, .regPosted] s x := ?_; ?_); (on_goal 1 => subst x); (on_goal 2 => clear_value x))
    | ((try lift_lets); intro x; clear_value x)
    | intro y
    | decide
    | with_reducible apply hf
    | (with_reducible apply Kept.step; (on_goal 2 => first
        | with_reducible apply State.bump_kept
        | with_reducible apply finishDesc_kept
        | with_reducible apply State.setStepPoison_kept
        | with_reducible apply jointAddFor_kept
        | with_reducible apply kvDone_kept
        | with_reducible apply State.setColl_kept
        | with_reducible apply State.dropColl_kept
        | with_reducible apply undefRange_kept
        | with_reducible apply collAbort_kept))
    | with_reducible apply Kept.ite
    | with_reducible apply Kept.ite₂
    | with_reducible apply Kept.ite₃
    | with_reducible apply Kept.iteW
    | with_reducible apply Kept.foldl
    | (split; rename_i heq; refine (have hx : Kept [.freeCtr, .regs, .mem, .poison, .hostMem, .time, .mortar, .errLog, .errOverflow, .ctxs, .joints, .kv, .links, .colls, .conts, .msix, .msixSent, .regPosted] s _ := Kept.of_snd heq ?_; ?_); (on_goal 2 => clear heq))
    | (split; rename_i heq; refine (have hx : Kept [.freeCtr, .regs, .mem, .poison, .hostMem, .time, .mortar, .errLog, .errOverflow, .ctxs, .joints, .kv, .links, .colls, .conts, .msix, .msixSent, .regPosted] s _ := Kept.of_thd heq ?_; ?_); (on_goal 2 => clear heq))

theorem collLaunch_kept (s : State) (c : Coll) :
    Kept [.freeCtr, .regs, .mem, .poison, .hostMem, .time, .mortar, .errLog, .errOverflow, .ctxs, .joints, .kv, .links, .colls, .conts, .msix, .msixSent, .regPosted] s (collLaunch s c) := by
  unfold collLaunch
  repeat' first
    | with_reducible exact Kept.refl _ _
    | with_reducible assumption
    | intro (_h : Kept _ _ _)
    | ((try lift_lets); intro x; clear_value x)
    | intro y
    | decide
    | with_reducible apply hf
    | (with_reducible apply Kept.step; (on_goal 2 => first
        | with_reducible apply State.setColl_kept
        | with_reducible apply collSend_kept
        | with_reducible apply collFinish_kept))
    | with_reducible apply Kept.ite
    | (split; rename_i heq; refine (have hx : Kept [.freeCtr, .regs, .mem, .poison, .hostMem, .time, .mortar, .errLog, .errOverflow, .ctxs, .joints, .kv, .links, .colls, .conts, .msix, .msixSent, .regPosted] s _ := Kept.of_snd heq ?_; ?_); (on_goal 2 => clear heq))
    | (split; rename_i heq; refine (have hx : Kept [.freeCtr, .regs, .mem, .poison, .hostMem, .time, .mortar, .errLog, .errOverflow, .ctxs, .joints, .kv, .links, .colls, .conts, .msix, .msixSent, .regPosted] s _ := Kept.of_thd heq ?_; ?_); (on_goal 2 => clear heq))

theorem collStart_kept (s : State) (ctx : ℕ) (ring : ℕ) (d : Desc) :
    Kept [.freeCtr, .nextId, .regs, .mem, .poison, .hostMem, .time, .mortar, .errLog, .errOverflow, .ctxs, .joints, .kv, .links, .groups, .colls, .conts, .msix, .msixSent, .regPosted] s (collStart s ctx ring d) := by
  unfold collStart
  repeat' first
    | with_reducible exact Kept.refl _ _
    | with_reducible assumption
    | intro (_h : Kept _ _ _)
    | ((try lift_lets); intro x; refine (have hx : Kept [.freeCtr, .nextId, .regs, .mem, .poison, .hostMem, .time, .mortar, .errLog, .errOverflow, .ctxs, .joints, .kv, .links, .groups, .colls, .conts, .msix, .msixSent, .regPosted] s x := ?_; ?_); (on_goal 1 => subst x); (on_goal 2 => clear_value x))
    | ((try lift_lets); intro x; clear_value x)
    | intro y
    | decide
    | with_reducible apply hf
    | (with_reducible apply Kept.step; (on_goal 2 => first
        | with_reducible apply State.setGroup_kept
        | with_reducible apply agentReadAll_kept
        | with_reducible apply finishDesc_kept
        | with_reducible apply State.startDesc_kept
        | with_reducible apply State.setStepPoison_kept
        | with_reducible apply breakForWords_kept
        | with_reducible apply kvUse_kept
        | with_reducible apply State.progressAll_kept
        | with_reducible apply collLaunch_kept))
    | with_reducible apply Kept.ite
    | with_reducible apply Kept.ite₂
    | with_reducible apply Kept.ite₃
    | with_reducible apply Kept.iteW
    | with_reducible apply Kept.foldl
    | with_reducible apply Kept.foldl₂
    | with_reducible apply Kept.foldl₃
    | with_reducible refine Kept.of_snd (by assumption) ?_
    | with_reducible refine Kept.of_done (by assumption) ?_
    | with_reducible refine Kept.of_fault (by assumption) ?_
    | with_reducible refine Kept.of_wait (by assumption) ?_
    | with_reducible refine Kept.of_thd (by assumption) ?_
    | split
    | (with_reducible apply Kept.step; (on_goal 2 => with_reducible apply Kept.set_colls))

theorem collKick_kept (x0 : ℕ) (x1 : State) (x2 : ℕ) (x3 : ℕ) :
    Kept [.freeCtr, .nextId, .regs, .mem, .poison, .hostMem, .time, .mortar, .errLog, .errOverflow, .ctxs, .joints, .kv, .links, .groups, .colls, .conts, .msix, .msixSent, .regPosted] x1 (collKick x0 x1 x2 x3) := by
  induction x0 generalizing x1 x2 x3 with
  | zero =>
    rw [collKick]
    repeat' first
      | with_reducible exact Kept.refl _ _
      | ((try lift_lets); intro x; refine (have hx : Kept [.freeCtr, .nextId, .regs, .mem, .poison, .hostMem, .time, .mortar, .errLog, .errOverflow, .ctxs, .joints, .kv, .links, .groups, .colls, .conts, .msix, .msixSent, .regPosted] x1 x := ?_; ?_); (on_goal 1 => subst x); (on_goal 2 => clear_value x))
      | ((try lift_lets); intro x; refine (have hx : Kept [.freeCtr, .nextId, .regs, .mem, .poison, .hostMem, .time, .mortar, .errLog, .errOverflow, .ctxs, .joints, .kv, .links, .groups, .colls, .conts, .msix, .msixSent, .regPosted] x1 x.2 := ?_; ?_); (on_goal 1 => subst x); (on_goal 2 => clear_value x))
      | ((try lift_lets); intro x; refine (have hx : Kept [.freeCtr, .nextId, .regs, .mem, .poison, .hostMem, .time, .mortar, .errLog, .errOverflow, .ctxs, .joints, .kv, .links, .groups, .colls, .conts, .msix, .msixSent, .regPosted] x1 x.2.2 := ?_; ?_); (on_goal 1 => subst x); (on_goal 2 => clear_value x))
      | ((try lift_lets); intro x; refine (have hf : ∀ y : State, Kept [.freeCtr, .nextId, .regs, .mem, .poison, .hostMem, .time, .mortar, .errLog, .errOverflow, .ctxs, .joints, .kv, .links, .groups, .colls, .conts, .msix, .msixSent, .regPosted] x1 y → Kept [.freeCtr, .nextId, .regs, .mem, .poison, .hostMem, .time, .mortar, .errLog, .errOverflow, .ctxs, .joints, .kv, .links, .groups, .colls, .conts, .msix, .msixSent, .regPosted] x1 (x y) := ?_; ?_); (on_goal 1 => subst x); (on_goal 2 => clear_value x))
      | ((try lift_lets); intro x; refine (have hf : ∀ (y : State) a, Kept [.freeCtr, .nextId, .regs, .mem, .poison, .hostMem, .time, .mortar, .errLog, .errOverflow, .ctxs, .joints, .kv, .links, .groups, .colls, .conts, .msix, .msixSent, .regPosted] x1 y → Kept [.freeCtr, .nextId, .regs, .mem, .poison, .hostMem, .time, .mortar, .errLog, .errOverflow, .ctxs, .joints, .kv, .links, .groups, .colls, .conts, .msix, .msixSent, .regPosted] x1 (x y a) := ?_; ?_); (on_goal 1 => subst x); (on_goal 2 => clear_value x))
      | ((try lift_lets); intro x; clear_value x)
      | (with_reducible apply Kept.step; (on_goal 2 => with_reducible apply collStart_kept))
      | (split; rename_i heq; refine (have hx : Kept [.freeCtr, .nextId, .regs, .mem, .poison, .hostMem, .time, .mortar, .errLog, .errOverflow, .ctxs, .joints, .kv, .links, .groups, .colls, .conts, .msix, .msixSent, .regPosted] x1 _ := Kept.of_snd heq ?_; ?_); (on_goal 2 => clear heq))
      | (split; rename_i heq; refine (have hx : Kept [.freeCtr, .nextId, .regs, .mem, .poison, .hostMem, .time, .mortar, .errLog, .errOverflow, .ctxs, .joints, .kv, .links, .groups, .colls, .conts, .msix, .msixSent, .regPosted] x1 _ := Kept.of_thd heq ?_; ?_); (on_goal 2 => clear heq))
  | succ n ih =>
    rw [collKick]
    repeat' first
      | with_reducible exact Kept.refl _ _
      | with_reducible assumption
      | (with_reducible apply Kept.trans; (on_goal 2 => with_reducible apply ih))
      | intro (_h : Kept _ _ _)
      | intro y
      | decide
      | with_reducible apply hf
      | (with_reducible apply Kept.step; (on_goal 2 => with_reducible apply collStart_kept))
      | with_reducible apply Kept.ite
      | with_reducible apply Kept.ite₂
      | with_reducible apply Kept.ite₃
      | with_reducible apply Kept.iteW
      | with_reducible apply Kept.foldl
      | with_reducible apply Kept.foldl₂
      | with_reducible apply Kept.foldl₃
      | with_reducible refine Kept.of_snd (by assumption) ?_
      | with_reducible refine Kept.of_done (by assumption) ?_
      | with_reducible refine Kept.of_fault (by assumption) ?_
      | with_reducible refine Kept.of_wait (by assumption) ?_
      | with_reducible refine Kept.of_thd (by assumption) ?_
      | split

theorem collNext_kept (s : State) (ctx : ℕ) (group : ℕ) :
    Kept [.freeCtr, .nextId, .regs, .mem, .poison, .hostMem, .time, .mortar, .errLog, .errOverflow, .ctxs, .joints, .kv, .links, .groups, .colls, .conts, .msix, .msixSent, .regPosted] s (collNext s ctx group) := by
  unfold collNext
  repeat' first
    | with_reducible exact Kept.refl _ _
    | with_reducible assumption
    | intro (_h : Kept _ _ _)
    | intro y
    | decide
    | with_reducible apply hf
    | (with_reducible apply Kept.step; (on_goal 2 => with_reducible apply collKick_kept))
    | (split; rename_i heq; refine (have hx : Kept [.freeCtr, .nextId, .regs, .mem, .poison, .hostMem, .time, .mortar, .errLog, .errOverflow, .ctxs, .joints, .kv, .links, .groups, .colls, .conts, .msix, .msixSent, .regPosted] s _ := Kept.of_snd heq ?_; ?_); (on_goal 2 => clear heq))
    | (split; rename_i heq; refine (have hx : Kept [.freeCtr, .nextId, .regs, .mem, .poison, .hostMem, .time, .mortar, .errLog, .errOverflow, .ctxs, .joints, .kv, .links, .groups, .colls, .conts, .msix, .msixSent, .regPosted] s _ := Kept.of_thd heq ?_; ?_); (on_goal 2 => clear heq))

theorem collEnd_kept (s : State) (c : Coll) (status : ℕ) :
    Kept [.freeCtr, .nextId, .regs, .mem, .poison, .hostMem, .time, .mortar, .errLog, .errOverflow, .ctxs, .joints, .kv, .links, .groups, .colls, .conts, .msix, .msixSent, .regPosted] s (collEnd s c status) := by
  unfold collEnd
  repeat' first
    | with_reducible exact Kept.refl _ _
    | with_reducible assumption
    | intro (_h : Kept _ _ _)
    | intro y
    | decide
    | with_reducible apply hf
    | (with_reducible apply Kept.step; (on_goal 2 => first
        | with_reducible apply collFinish_kept
        | with_reducible apply collNext_kept))
    | (split; rename_i heq; refine (have hx : Kept [.freeCtr, .nextId, .regs, .mem, .poison, .hostMem, .time, .mortar, .errLog, .errOverflow, .ctxs, .joints, .kv, .links, .groups, .colls, .conts, .msix, .msixSent, .regPosted] s _ := Kept.of_snd heq ?_; ?_); (on_goal 2 => clear heq))
    | (split; rename_i heq; refine (have hx : Kept [.freeCtr, .nextId, .regs, .mem, .poison, .hostMem, .time, .mortar, .errLog, .errOverflow, .ctxs, .joints, .kv, .links, .groups, .colls, .conts, .msix, .msixSent, .regPosted] s _ := Kept.of_thd heq ?_; ?_); (on_goal 2 => clear heq))

theorem collTake_kept (s : State) (ctx : ℕ) (ring : ℕ) (op : ℕ) :
    Kept [.freeCtr, .nextId, .regs, .mem, .poison, .hostMem, .time, .mortar, .errLog, .errOverflow, .ctxs, .joints, .kv, .links, .groups, .colls, .conts, .msix, .msixSent, .regPosted] s (collTake s ctx ring op) := by
  unfold collTake
  repeat' first
    | with_reducible exact Kept.refl _ _
    | with_reducible assumption
    | intro (_h : Kept _ _ _)
    | ((try lift_lets); intro x; clear_value x)
    | intro y
    | decide
    | with_reducible apply hf
    | (with_reducible apply Kept.step; (on_goal 2 => first
        | with_reducible apply State.modDesc_kept
        | with_reducible apply collNext_kept))
    | with_reducible apply Kept.ite
    | with_reducible apply Kept.ite₂
    | with_reducible apply Kept.ite₃
    | with_reducible apply Kept.iteW
    | with_reducible apply Kept.foldl
    | with_reducible apply Kept.foldl₂
    | with_reducible apply Kept.foldl₃
    | with_reducible refine Kept.of_snd (by assumption) ?_
    | with_reducible refine Kept.of_done (by assumption) ?_
    | with_reducible refine Kept.of_fault (by assumption) ?_
    | with_reducible refine Kept.of_wait (by assumption) ?_
    | with_reducible refine Kept.of_thd (by assumption) ?_
    | split

theorem collLanded_kept (s : State) (ctx : ℕ) (a : ℕ) (n : ℕ) :
    Kept [.freeCtr, .nextId, .regs, .mem, .poison, .hostMem, .time, .mortar, .errLog, .errOverflow, .ctxs, .joints, .kv, .links, .groups, .colls, .conts, .msix, .msixSent, .regPosted] s (collLanded s ctx a n) := by
  unfold collLanded
  repeat' first
    | with_reducible exact Kept.refl _ _
    | with_reducible assumption
    | intro (_h : Kept _ _ _)
    | ((try lift_lets); intro x; refine (have hx : Kept [.freeCtr, .nextId, .regs, .mem, .poison, .hostMem, .time, .mortar, .errLog, .errOverflow, .ctxs, .joints, .kv, .links, .groups, .colls, .conts, .msix, .msixSent, .regPosted] s x := ?_; ?_); (on_goal 1 => subst x); (on_goal 2 => clear_value x))
    | ((try lift_lets); intro x; clear_value x)
    | intro y
    | decide
    | with_reducible apply hf
    | (with_reducible apply Kept.step; (on_goal 2 => first
        | with_reducible apply State.progressAll_kept
        | with_reducible apply State.setColl_kept
        | with_reducible apply collEnd_kept))
    | with_reducible apply Kept.ite
    | with_reducible apply Kept.ite₂
    | with_reducible apply Kept.ite₃
    | with_reducible apply Kept.iteW
    | with_reducible apply Kept.foldl
    | (split; rename_i heq; refine (have hx : Kept [.freeCtr, .nextId, .regs, .mem, .poison, .hostMem, .time, .mortar, .errLog, .errOverflow, .ctxs, .joints, .kv, .links, .groups, .colls, .conts, .msix, .msixSent, .regPosted] s _ := Kept.of_snd heq ?_; ?_); (on_goal 2 => clear heq))
    | (split; rename_i heq; refine (have hx : Kept [.freeCtr, .nextId, .regs, .mem, .poison, .hostMem, .time, .mortar, .errLog, .errOverflow, .ctxs, .joints, .kv, .links, .groups, .colls, .conts, .msix, .msixSent, .regPosted] s _ := Kept.of_thd heq ?_; ?_); (on_goal 2 => clear heq))

theorem readBlocks_kept (s : State) (c : Coll) (first : ℕ) (count : ℕ) :
    Kept [.regs, .mem, .poison, .hostMem, .time, .mortar, .errLog, .errOverflow, .ctxs, .msix, .msixSent, .regPosted] s (readBlocks s c first count).2 := by
  unfold readBlocks
  repeat' first
    | with_reducible exact Kept.refl _ _
    | with_reducible assumption
    | intro (_h : Kept _ _ _)
    | ((try lift_lets); intro x; clear_value x)
    | intro y
    | decide
    | with_reducible apply hf
    | (with_reducible apply Kept.step; (on_goal 2 => with_reducible apply collRead_kept))
    | with_reducible apply Kept.ite
    | with_reducible apply Kept.ite₂
    | with_reducible apply Kept.ite₃
    | with_reducible apply Kept.iteW
    | with_reducible apply Kept.foldl
    | with_reducible apply Kept.foldl₂
    | with_reducible apply Kept.foldl₃
    | with_reducible refine Kept.of_snd (by assumption) ?_
    | with_reducible refine Kept.of_done (by assumption) ?_
    | with_reducible refine Kept.of_fault (by assumption) ?_
    | with_reducible refine Kept.of_wait (by assumption) ?_
    | with_reducible refine Kept.of_thd (by assumption) ?_
    | split

theorem ownSums_kept (s : State) (c : Coll) (first : ℕ) (count : ℕ) :
    Kept [.regs, .mem, .poison, .hostMem, .time, .mortar, .errLog, .errOverflow, .ctxs, .msix, .msixSent, .regPosted] s (ownSums s c first count).2 := by
  unfold ownSums
  repeat' first
    | with_reducible exact Kept.refl _ _
    | with_reducible assumption
    | intro (_h : Kept _ _ _)
    | ((try lift_lets); intro x; clear_value x)
    | intro y
    | decide
    | with_reducible apply hf
    | (with_reducible apply Kept.step; (on_goal 2 => first
        | with_reducible apply raiseCtx_kept
        | with_reducible apply readBlocks_kept))
    | with_reducible apply Kept.ite
    | with_reducible apply Kept.ite₂
    | with_reducible apply Kept.ite₃
    | with_reducible apply Kept.iteW
    | with_reducible apply Kept.foldl
    | with_reducible apply Kept.foldl₂
    | with_reducible apply Kept.foldl₃
    | (split; rename_i heq; refine (have hx : Kept [.regs, .mem, .poison, .hostMem, .time, .mortar, .errLog, .errOverflow, .ctxs, .msix, .msixSent, .regPosted] s _ := Kept.of_snd heq ?_; ?_); (on_goal 2 => clear heq))
    | with_reducible refine Kept.of_snd (by assumption) ?_
    | with_reducible refine Kept.of_done (by assumption) ?_
    | with_reducible refine Kept.of_fault (by assumption) ?_
    | with_reducible refine Kept.of_wait (by assumption) ?_
    | with_reducible refine Kept.of_thd (by assumption) ?_
    | split

theorem collNorms_kept (s : State) (c : Coll) :
    Kept [.regs, .mem, .poison, .hostMem, .time, .mortar, .errLog, .errOverflow, .ctxs, .msix, .msixSent, .regPosted] s (collNorms s c).2 := by
  unfold collNorms
  repeat' first
    | with_reducible exact Kept.refl _ _
    | with_reducible assumption
    | intro (_h : Kept _ _ _)
    | ((try lift_lets); intro x; clear_value x)
    | intro y
    | decide
    | with_reducible apply hf
    | (with_reducible apply Kept.step; (on_goal 2 => with_reducible apply readBlocks_kept))
    | with_reducible apply Kept.ite
    | with_reducible apply Kept.ite₂
    | with_reducible apply Kept.ite₃
    | with_reducible apply Kept.iteW
    | with_reducible apply Kept.foldl
    | with_reducible apply Kept.foldl₂
    | with_reducible apply Kept.foldl₃
    | (split; rename_i heq; refine (have hx : Kept [.regs, .mem, .poison, .hostMem, .time, .mortar, .errLog, .errOverflow, .ctxs, .msix, .msixSent, .regPosted] s _ := Kept.of_snd heq ?_; ?_); (on_goal 2 => clear heq))
    | with_reducible refine Kept.of_snd (by assumption) ?_
    | with_reducible refine Kept.of_done (by assumption) ?_
    | with_reducible refine Kept.of_fault (by assumption) ?_
    | with_reducible refine Kept.of_wait (by assumption) ?_
    | with_reducible refine Kept.of_thd (by assumption) ?_
    | split

theorem statsEnd_kept (s : State) (c : Coll) :
    Kept [.freeCtr, .nextId, .regs, .mem, .poison, .hostMem, .time, .mortar, .errLog, .errOverflow, .ctxs, .joints, .kv, .links, .groups, .colls, .conts, .msix, .msixSent, .regPosted] s (statsEnd s c) := by
  unfold statsEnd
  repeat' first
    | with_reducible exact Kept.refl _ _
    | with_reducible assumption
    | intro (_h : Kept _ _ _)
    | ((try lift_lets); intro x; refine (have hx : Kept [.freeCtr, .nextId, .regs, .mem, .poison, .hostMem, .time, .mortar, .errLog, .errOverflow, .ctxs, .joints, .kv, .links, .groups, .colls, .conts, .msix, .msixSent, .regPosted] s x := ?_; ?_); (on_goal 1 => subst x); (on_goal 2 => clear_value x))
    | ((try lift_lets); intro x; clear_value x)
    | intro y
    | decide
    | with_reducible apply hf
    | (with_reducible apply Kept.step; (on_goal 2 => first
        | with_reducible apply raiseCtx_kept
        | with_reducible apply collWrite_kept
        | with_reducible apply collEnd_kept))
    | (split; rename_i heq; refine (have hx : Kept [.freeCtr, .nextId, .regs, .mem, .poison, .hostMem, .time, .mortar, .errLog, .errOverflow, .ctxs, .joints, .kv, .links, .groups, .colls, .conts, .msix, .msixSent, .regPosted] s _ := Kept.of_snd heq ?_; ?_); (on_goal 2 => clear heq))
    | (split; rename_i heq; refine (have hx : Kept [.freeCtr, .nextId, .regs, .mem, .poison, .hostMem, .time, .mortar, .errLog, .errOverflow, .ctxs, .joints, .kv, .links, .groups, .colls, .conts, .msix, .msixSent, .regPosted] s _ := Kept.of_thd heq ?_; ?_); (on_goal 2 => clear heq))

theorem statsStart_kept (s : State) (c : Coll) :
    Kept [.freeCtr, .nextId, .regs, .mem, .poison, .hostMem, .time, .mortar, .errLog, .errOverflow, .ctxs, .joints, .kv, .links, .groups, .colls, .conts, .msix, .msixSent, .regPosted] s (statsStart s c) := by
  unfold statsStart
  repeat' first
    | with_reducible exact Kept.refl _ _
    | with_reducible assumption
    | intro (_h : Kept _ _ _)
    | ((try lift_lets); intro x; clear_value x)
    | intro y
    | decide
    | with_reducible apply hf
    | (with_reducible apply Kept.step; (on_goal 2 => first
        | with_reducible apply raiseCtx_kept
        | with_reducible apply State.setColl_kept
        | with_reducible apply Coll.send_kept
        | with_reducible apply collEnd_kept
        | with_reducible apply collNorms_kept
        | with_reducible apply statsEnd_kept))
    | with_reducible apply Kept.ite
    | with_reducible apply Kept.ite₂
    | with_reducible apply Kept.ite₃
    | with_reducible apply Kept.iteW
    | with_reducible apply Kept.foldl
    | with_reducible apply Kept.foldl₂
    | with_reducible apply Kept.foldl₃
    | (split; rename_i heq; refine (have hx : Kept [.freeCtr, .nextId, .regs, .mem, .poison, .hostMem, .time, .mortar, .errLog, .errOverflow, .ctxs, .joints, .kv, .links, .groups, .colls, .conts, .msix, .msixSent, .regPosted] s _ := Kept.of_snd heq ?_; ?_); (on_goal 2 => clear heq))
    | with_reducible refine Kept.of_snd (by assumption) ?_
    | with_reducible refine Kept.of_done (by assumption) ?_
    | with_reducible refine Kept.of_fault (by assumption) ?_
    | with_reducible refine Kept.of_wait (by assumption) ?_
    | with_reducible refine Kept.of_thd (by assumption) ?_
    | split

theorem reduceDone_kept (s : State) (c : Coll) :
    Kept [.freeCtr, .nextId, .regs, .mem, .poison, .hostMem, .time, .mortar, .errLog, .errOverflow, .ctxs, .joints, .kv, .links, .groups, .colls, .conts, .msix, .msixSent, .regPosted] s (reduceDone s c) := by
  unfold reduceDone
  repeat' first
    | with_reducible exact Kept.refl _ _
    | with_reducible assumption
    | intro (_h : Kept _ _ _)
    | intro y
    | decide
    | with_reducible apply hf
    | (with_reducible apply Kept.step; (on_goal 2 => first
        | with_reducible apply collEnd_kept
        | with_reducible apply statsStart_kept))
    | with_reducible apply Kept.ite
    | (split; rename_i heq; refine (have hx : Kept [.freeCtr, .nextId, .regs, .mem, .poison, .hostMem, .time, .mortar, .errLog, .errOverflow, .ctxs, .joints, .kv, .links, .groups, .colls, .conts, .msix, .msixSent, .regPosted] s _ := Kept.of_snd heq ?_; ?_); (on_goal 2 => clear heq))
    | (split; rename_i heq; refine (have hx : Kept [.freeCtr, .nextId, .regs, .mem, .poison, .hostMem, .time, .mortar, .errLog, .errOverflow, .ctxs, .joints, .kv, .links, .groups, .colls, .conts, .msix, .msixSent, .regPosted] s _ := Kept.of_thd heq ?_; ?_); (on_goal 2 => clear heq))

theorem landSums_kept (s : State) (c : Coll) (first : ℕ) (ms : List (List ℤ)) :
    Kept [.regs, .mem, .poison, .hostMem, .time, .mortar, .errLog, .errOverflow, .ctxs, .regPosted] s (landSums s c first ms).2 := by
  unfold landSums
  repeat' first
    | with_reducible exact Kept.refl _ _
    | with_reducible assumption
    | intro (_h : Kept _ _ _)
    | ((try lift_lets); intro x; refine (have hx : Kept [.regs, .mem, .poison, .hostMem, .time, .mortar, .errLog, .errOverflow, .ctxs, .regPosted] s x := ?_; ?_); (on_goal 1 => subst x); (on_goal 2 => clear_value x))
    | ((try lift_lets); intro x; clear_value x)
    | intro y
    | decide
    | with_reducible apply hf
    | (with_reducible apply Kept.step; (on_goal 2 => first
        | with_reducible apply State.bump_kept
        | with_reducible apply raiseCtx_kept
        | with_reducible apply collWrite_kept))
    | (split; rename_i heq; refine (have hx : Kept [.regs, .mem, .poison, .hostMem, .time, .mortar, .errLog, .errOverflow, .ctxs, .regPosted] s _ := Kept.of_snd heq ?_; ?_); (on_goal 2 => clear heq))
    | (split; rename_i heq; refine (have hx : Kept [.regs, .mem, .poison, .hostMem, .time, .mortar, .errLog, .errOverflow, .ctxs, .regPosted] s _ := Kept.of_thd heq ?_; ?_); (on_goal 2 => clear heq))

theorem blocksLanded_kept (s : State) (c : Coll) (ok : Bool) (n : ℕ) (done : State → Coll → State) {kps : List Part} {s0 : State} (hm : partsIn [.freeCtr, .nextId, .regs, .mem, .poison, .hostMem, .time, .mortar, .errLog, .errOverflow, .ctxs, .joints, .kv, .links, .groups, .colls, .conts, .msix, .msixSent, .regPosted] kps = true) (h0 : Kept kps s0 s) (hdone : ∀ y0 y1, Kept kps s0 y0 → Kept kps s0 (done y0 y1)) :
    Kept kps s0 (blocksLanded s c ok n done) := by
  unfold blocksLanded
  repeat' first
    | with_reducible exact Kept.refl _ _
    | with_reducible assumption
    | intro (_h : Kept _ _ _)
    | ((try lift_lets); intro x; refine (have hx : Kept kps s0 x := ?_; ?_); (on_goal 1 => subst x); (on_goal 2 => clear_value x))
    | ((try lift_lets); intro x; clear_value x)
    | intro y
    | exact partsIn_trans (by decide) hm
    | with_reducible apply hdone
    | with_reducible apply hf
    | (with_reducible apply Kept.step; (on_goal 2 => first
        | with_reducible apply State.setColl_kept
        | with_reducible apply collEnd_kept))
    | with_reducible apply Kept.ite
    | (split; rename_i heq; refine (have hx : Kept kps s0 _ := Kept.of_snd heq ?_; ?_); (on_goal 2 => clear heq))
    | (split; rename_i heq; refine (have hx : Kept kps s0 _ := Kept.of_thd heq ?_; ?_); (on_goal 2 => clear heq))

theorem mantissaStart_kept (s : State) (c : Coll) :
    Kept [.freeCtr, .nextId, .regs, .mem, .poison, .hostMem, .time, .mortar, .errLog, .errOverflow, .ctxs, .joints, .kv, .links, .groups, .colls, .conts, .msix, .msixSent, .regPosted] s (mantissaStart s c) := by
  unfold mantissaStart
  repeat' first
    | with_reducible exact Kept.refl _ _
    | with_reducible assumption
    | intro (_h : Kept _ _ _)
    | ((try lift_lets); intro x; refine (have hx : Kept [.freeCtr, .nextId, .regs, .mem, .poison, .hostMem, .time, .mortar, .errLog, .errOverflow, .ctxs, .joints, .kv, .links, .groups, .colls, .conts, .msix, .msixSent, .regPosted] s x := ?_; ?_); (on_goal 1 => subst x); (on_goal 2 => clear_value x))
    | ((try lift_lets); intro x; clear_value x)
    | intro y
    | decide
    | with_reducible apply hf
    | (with_reducible apply Kept.step; (on_goal 2 => first
        | with_reducible apply State.bump_kept
        | with_reducible apply State.setStepPoison_kept
        | with_reducible apply State.setColl_kept
        | with_reducible apply Coll.send_kept
        | with_reducible apply collEnd_kept
        | with_reducible apply ownSums_kept
        | with_reducible apply reduceDone_kept))
    | with_reducible apply Kept.ite
    | with_reducible apply Kept.ite₂
    | with_reducible apply Kept.ite₃
    | with_reducible apply Kept.iteW
    | with_reducible apply Kept.foldl
    | with_reducible apply Kept.foldl₂
    | with_reducible apply Kept.foldl₃
    | (split; rename_i heq; refine (have hx : Kept [.freeCtr, .nextId, .regs, .mem, .poison, .hostMem, .time, .mortar, .errLog, .errOverflow, .ctxs, .joints, .kv, .links, .groups, .colls, .conts, .msix, .msixSent, .regPosted] s _ := Kept.of_snd heq ?_; ?_); (on_goal 2 => clear heq))
    | with_reducible refine Kept.of_snd (by assumption) ?_
    | with_reducible refine Kept.of_done (by assumption) ?_
    | with_reducible refine Kept.of_fault (by assumption) ?_
    | with_reducible refine Kept.of_wait (by assumption) ?_
    | with_reducible refine Kept.of_thd (by assumption) ?_
    | split

theorem headerStart_kept (s : State) (c : Coll) :
    Kept [.freeCtr, .nextId, .regs, .mem, .poison, .hostMem, .time, .mortar, .errLog, .errOverflow, .ctxs, .joints, .kv, .links, .groups, .colls, .conts, .msix, .msixSent, .regPosted] s (headerStart s c) := by
  unfold headerStart
  repeat' first
    | with_reducible exact Kept.refl _ _
    | with_reducible assumption
    | intro (_h : Kept _ _ _)
    | ((try lift_lets); intro x; clear_value x)
    | intro y
    | decide
    | with_reducible apply hf
    | (with_reducible apply Kept.step; (on_goal 2 => first
        | with_reducible apply raiseCtx_kept
        | with_reducible apply State.setColl_kept
        | with_reducible apply Coll.send_kept
        | with_reducible apply collEnd_kept
        | with_reducible apply readBlocks_kept
        | with_reducible apply mantissaStart_kept))
    | with_reducible apply Kept.ite
    | with_reducible apply Kept.ite₂
    | with_reducible apply Kept.ite₃
    | with_reducible apply Kept.iteW
    | with_reducible apply Kept.foldl
    | with_reducible apply Kept.foldl₂
    | with_reducible apply Kept.foldl₃
    | (split; rename_i heq; refine (have hx : Kept [.freeCtr, .nextId, .regs, .mem, .poison, .hostMem, .time, .mortar, .errLog, .errOverflow, .ctxs, .joints, .kv, .links, .groups, .colls, .conts, .msix, .msixSent, .regPosted] s _ := Kept.of_snd heq ?_; ?_); (on_goal 2 => clear heq))
    | with_reducible refine Kept.of_snd (by assumption) ?_
    | with_reducible refine Kept.of_done (by assumption) ?_
    | with_reducible refine Kept.of_fault (by assumption) ?_
    | with_reducible refine Kept.of_wait (by assumption) ?_
    | with_reducible refine Kept.of_thd (by assumption) ?_
    | split

theorem headerPass_kept (s : State) (port : ℕ) (m : RxMsg) (c : Coll) :
    Kept [.freeCtr, .nextId, .regs, .mem, .poison, .hostMem, .time, .mortar, .errLog, .errOverflow, .ctxs, .joints, .kv, .links, .groups, .colls, .conts, .msix, .msixSent, .regPosted] s (headerPass s port m c) := by
  unfold headerPass
  repeat' first
    | with_reducible exact Kept.refl _ _
    | with_reducible assumption
    | intro (_h : Kept _ _ _)
    | ((try lift_lets); intro x; refine (have hx : Kept [.freeCtr, .nextId, .regs, .mem, .poison, .hostMem, .time, .mortar, .errLog, .errOverflow, .ctxs, .joints, .kv, .links, .groups, .colls, .conts, .msix, .msixSent, .regPosted] s x := ?_; ?_); (on_goal 1 => subst x); (on_goal 2 => clear_value x))
    | ((try lift_lets); intro x; refine (have hf : ∀ (y : State) a, Kept [.freeCtr, .nextId, .regs, .mem, .poison, .hostMem, .time, .mortar, .errLog, .errOverflow, .ctxs, .joints, .kv, .links, .groups, .colls, .conts, .msix, .msixSent, .regPosted] s y → Kept [.freeCtr, .nextId, .regs, .mem, .poison, .hostMem, .time, .mortar, .errLog, .errOverflow, .ctxs, .joints, .kv, .links, .groups, .colls, .conts, .msix, .msixSent, .regPosted] s (x y a) := ?_; ?_); (on_goal 1 => subst x); (on_goal 2 => clear_value x))
    | ((try lift_lets); intro x; clear_value x)
    | intro y
    | decide
    | with_reducible apply hf
    | (with_reducible apply Kept.step; (on_goal 2 => first
        | with_reducible apply State.setColl_kept
        | with_reducible apply collForward_kept
        | with_reducible apply mantissaStart_kept))
    | with_reducible apply Kept.ite
    | (split; rename_i heq; refine (have hx : Kept [.freeCtr, .nextId, .regs, .mem, .poison, .hostMem, .time, .mortar, .errLog, .errOverflow, .ctxs, .joints, .kv, .links, .groups, .colls, .conts, .msix, .msixSent, .regPosted] s _ := Kept.of_snd heq ?_; ?_); (on_goal 2 => clear heq))
    | (split; rename_i heq; refine (have hx : Kept [.freeCtr, .nextId, .regs, .mem, .poison, .hostMem, .time, .mortar, .errLog, .errOverflow, .ctxs, .joints, .kv, .links, .groups, .colls, .conts, .msix, .msixSent, .regPosted] s _ := Kept.of_thd heq ?_; ?_); (on_goal 2 => clear heq))

theorem mantissaPass_kept (s : State) (port : ℕ) (m : RxMsg) (c : Coll) :
    Kept [.freeCtr, .nextId, .regs, .mem, .poison, .hostMem, .time, .mortar, .errLog, .errOverflow, .ctxs, .joints, .kv, .links, .groups, .colls, .conts, .msix, .msixSent, .regPosted] s (mantissaPass s port m c) := by
  unfold mantissaPass
  repeat' first
    | with_reducible exact Kept.refl _ _
    | with_reducible assumption
    | intro (_h : Kept _ _ _)
    | ((try lift_lets); intro x; clear_value x)
    | intro y
    | decide
    | with_reducible apply hf
    | with_reducible apply blocksLanded_kept
    | (with_reducible apply Kept.step; (on_goal 2 => first
        | with_reducible apply Coll.send_kept
        | with_reducible apply collForward_kept
        | with_reducible apply collEnd_kept
        | with_reducible apply ownSums_kept
        | with_reducible apply reduceDone_kept
        | with_reducible apply landSums_kept))
    | with_reducible apply Kept.ite
    | with_reducible apply Kept.ite₂
    | with_reducible apply Kept.ite₃
    | with_reducible apply Kept.iteW
    | with_reducible apply Kept.foldl
    | with_reducible apply Kept.foldl₂
    | with_reducible apply Kept.foldl₃
    | (split; rename_i heq; refine (have hx : Kept [.freeCtr, .nextId, .regs, .mem, .poison, .hostMem, .time, .mortar, .errLog, .errOverflow, .ctxs, .joints, .kv, .links, .groups, .colls, .conts, .msix, .msixSent, .regPosted] s _ := Kept.of_snd heq ?_; ?_); (on_goal 2 => clear heq))
    | with_reducible refine Kept.of_snd (by assumption) ?_
    | with_reducible refine Kept.of_done (by assumption) ?_
    | with_reducible refine Kept.of_fault (by assumption) ?_
    | with_reducible refine Kept.of_wait (by assumption) ?_
    | with_reducible refine Kept.of_thd (by assumption) ?_
    | split

theorem landWire_kept (s : State) (c : Coll) (first : ℕ) (bad : Bool) (ws : List (List Byte)) :
    Kept [.regs, .mem, .poison, .hostMem, .time, .mortar, .errLog, .errOverflow, .ctxs, .regPosted] s (landWire s c first bad ws).2 := by
  unfold landWire
  repeat' first
    | with_reducible exact Kept.refl _ _
    | with_reducible assumption
    | intro (_h : Kept _ _ _)
    | ((try lift_lets); intro x; refine (have hx : Kept [.regs, .mem, .poison, .hostMem, .time, .mortar, .errLog, .errOverflow, .ctxs, .regPosted] s x := ?_; ?_); (on_goal 1 => subst x); (on_goal 2 => clear_value x))
    | ((try lift_lets); intro x; clear_value x)
    | intro y
    | decide
    | with_reducible apply hf
    | (with_reducible apply Kept.step; (on_goal 2 => first
        | with_reducible apply raiseCtx_kept
        | with_reducible apply State.setStepPoison_kept
        | with_reducible apply collWrite_kept))
    | with_reducible apply Kept.ite
    | (split; rename_i heq; refine (have hx : Kept [.regs, .mem, .poison, .hostMem, .time, .mortar, .errLog, .errOverflow, .ctxs, .regPosted] s _ := Kept.of_snd heq ?_; ?_); (on_goal 2 => clear heq))
    | (split; rename_i heq; refine (have hx : Kept [.regs, .mem, .poison, .hostMem, .time, .mortar, .errLog, .errOverflow, .ctxs, .regPosted] s _ := Kept.of_thd heq ?_; ?_); (on_goal 2 => clear heq))

theorem keepSweep_kept (s : State) :
    Kept [.freeCtr, .nextId, .regs, .mem, .poison, .hostMem, .time, .mortar, .errLog, .errOverflow, .ctxs, .joints, .kv, .links, .groups, .colls, .conts, .msix, .msixSent, .regPosted] s (keepSweep s) := by
  unfold keepSweep
  repeat' first
    | with_reducible exact Kept.refl _ _
    | with_reducible assumption
    | intro (_h : Kept _ _ _)
    | intro y
    | decide
    | with_reducible apply hf
    | (with_reducible apply Kept.step; (on_goal 2 => with_reducible apply collEnd_kept))
    | with_reducible apply Kept.ite
    | with_reducible apply Kept.ite₂
    | with_reducible apply Kept.ite₃
    | with_reducible apply Kept.iteW
    | with_reducible apply Kept.foldl
    | (split; rename_i heq; refine (have hx : Kept [.freeCtr, .nextId, .regs, .mem, .poison, .hostMem, .time, .mortar, .errLog, .errOverflow, .ctxs, .joints, .kv, .links, .groups, .colls, .conts, .msix, .msixSent, .regPosted] s _ := Kept.of_snd heq ?_; ?_); (on_goal 2 => clear heq))
    | (split; rename_i heq; refine (have hx : Kept [.freeCtr, .nextId, .regs, .mem, .poison, .hostMem, .time, .mortar, .errLog, .errOverflow, .ctxs, .joints, .kv, .links, .groups, .colls, .conts, .msix, .msixSent, .regPosted] s _ := Kept.of_thd heq ?_; ?_); (on_goal 2 => clear heq))

theorem keepStart_kept (s : State) (c : Coll) :
    Kept [.freeCtr, .nextId, .regs, .mem, .poison, .hostMem, .time, .mortar, .errLog, .errOverflow, .ctxs, .joints, .kv, .flash, .holdup, .links, .groups, .colls, .conts, .msix, .msixSent, .regPosted] s (keepStart s c) := by
  unfold keepStart
  repeat' first
    | with_reducible exact Kept.refl _ _
    | with_reducible assumption
    | intro (_h : Kept _ _ _)
    | ((try lift_lets); intro x; clear_value x)
    | intro y
    | decide
    | with_reducible apply hf
    | (with_reducible apply Kept.step; (on_goal 2 => first
        | with_reducible apply State.fresh_kept
        | exact State.modFlash_kept _ _ (fun h => h)
        | exact State.modFlash_kept _ _ (writeBytes_wf _ _)
        | exact State.modFlash_kept _ _ (fill_wf _ _ _)
        | with_reducible apply startPrograms_kept
        | with_reducible apply State.setColl_kept
        | with_reducible apply collEnd_kept))
    | with_reducible apply Kept.ite
    | (split; rename_i heq; refine (have hx : Kept [.freeCtr, .nextId, .regs, .mem, .poison, .hostMem, .time, .mortar, .errLog, .errOverflow, .ctxs, .joints, .kv, .flash, .holdup, .links, .groups, .colls, .conts, .msix, .msixSent, .regPosted] s _ := Kept.of_snd heq ?_; ?_); (on_goal 2 => clear heq))
    | (split; rename_i heq; refine (have hx : Kept [.freeCtr, .nextId, .regs, .mem, .poison, .hostMem, .time, .mortar, .errLog, .errOverflow, .ctxs, .joints, .kv, .flash, .holdup, .links, .groups, .colls, .conts, .msix, .msixSent, .regPosted] s _ := Kept.of_thd heq ?_; ?_); (on_goal 2 => clear heq))

theorem gatherDone_kept (s : State) (c : Coll) :
    Kept [.freeCtr, .nextId, .regs, .mem, .poison, .hostMem, .time, .mortar, .errLog, .errOverflow, .ctxs, .joints, .kv, .flash, .holdup, .links, .groups, .colls, .conts, .msix, .msixSent, .regPosted] s (gatherDone s c) := by
  unfold gatherDone
  repeat' first
    | with_reducible exact Kept.refl _ _
    | with_reducible assumption
    | intro (_h : Kept _ _ _)
    | intro y
    | decide
    | with_reducible apply hf
    | (with_reducible apply Kept.step; (on_goal 2 => first
        | with_reducible apply collEnd_kept
        | with_reducible apply keepStart_kept))
    | with_reducible apply Kept.ite
    | (split; rename_i heq; refine (have hx : Kept [.freeCtr, .nextId, .regs, .mem, .poison, .hostMem, .time, .mortar, .errLog, .errOverflow, .ctxs, .joints, .kv, .flash, .holdup, .links, .groups, .colls, .conts, .msix, .msixSent, .regPosted] s _ := Kept.of_snd heq ?_; ?_); (on_goal 2 => clear heq))
    | (split; rename_i heq; refine (have hx : Kept [.freeCtr, .nextId, .regs, .mem, .poison, .hostMem, .time, .mortar, .errLog, .errOverflow, .ctxs, .joints, .kv, .flash, .holdup, .links, .groups, .colls, .conts, .msix, .msixSent, .regPosted] s _ := Kept.of_thd heq ?_; ?_); (on_goal 2 => clear heq))

theorem gatherStart_kept (s : State) (c : Coll) :
    Kept [.freeCtr, .nextId, .regs, .mem, .poison, .hostMem, .time, .mortar, .errLog, .errOverflow, .ctxs, .joints, .kv, .flash, .holdup, .links, .groups, .colls, .conts, .msix, .msixSent, .regPosted] s (gatherStart s c) := by
  unfold gatherStart
  repeat' first
    | with_reducible exact Kept.refl _ _
    | with_reducible assumption
    | intro (_h : Kept _ _ _)
    | ((try lift_lets); intro x; clear_value x)
    | intro y
    | decide
    | with_reducible apply hf
    | with_reducible apply blocksLanded_kept
    | (with_reducible apply Kept.step; (on_goal 2 => first
        | with_reducible apply raiseCtx_kept
        | with_reducible apply State.setColl_kept
        | with_reducible apply collRead_kept
        | with_reducible apply Coll.send_kept
        | with_reducible apply collEnd_kept
        | with_reducible apply landWire_kept
        | with_reducible apply gatherDone_kept))
    | with_reducible apply Kept.ite
    | with_reducible apply Kept.ite₂
    | with_reducible apply Kept.ite₃
    | with_reducible apply Kept.iteW
    | with_reducible apply Kept.foldl
    | with_reducible apply Kept.foldl₂
    | (split; rename_i heq; refine (have hx : Kept [.freeCtr, .nextId, .regs, .mem, .poison, .hostMem, .time, .mortar, .errLog, .errOverflow, .ctxs, .joints, .kv, .flash, .holdup, .links, .groups, .colls, .conts, .msix, .msixSent, .regPosted] s _ := Kept.of_snd heq ?_; ?_); (on_goal 2 => clear heq))
    | (split; rename_i heq; refine (have hx : Kept [.freeCtr, .nextId, .regs, .mem, .poison, .hostMem, .time, .mortar, .errLog, .errOverflow, .ctxs, .joints, .kv, .flash, .holdup, .links, .groups, .colls, .conts, .msix, .msixSent, .regPosted] s _ := Kept.of_thd heq ?_; ?_); (on_goal 2 => clear heq))

theorem gatherPass_kept (s : State) (port : ℕ) (m : RxMsg) (c : Coll) :
    Kept [.freeCtr, .nextId, .regs, .mem, .poison, .hostMem, .time, .mortar, .errLog, .errOverflow, .ctxs, .joints, .kv, .flash, .holdup, .links, .groups, .colls, .conts, .msix, .msixSent, .regPosted] s (gatherPass s port m c) := by
  unfold gatherPass
  repeat' first
    | with_reducible exact Kept.refl _ _
    | with_reducible assumption
    | intro (_h : Kept _ _ _)
    | ((try lift_lets); intro x; refine (have hx : Kept [.freeCtr, .nextId, .regs, .mem, .poison, .hostMem, .time, .mortar, .errLog, .errOverflow, .ctxs, .joints, .kv, .flash, .holdup, .links, .groups, .colls, .conts, .msix, .msixSent, .regPosted] s x := ?_; ?_); (on_goal 1 => subst x); (on_goal 2 => clear_value x))
    | ((try lift_lets); intro x; clear_value x)
    | intro y
    | decide
    | with_reducible apply hf
    | with_reducible apply blocksLanded_kept
    | (with_reducible apply Kept.step; (on_goal 2 => first
        | with_reducible apply collForward_kept
        | with_reducible apply reduceDone_kept
        | with_reducible apply landSums_kept
        | with_reducible apply landWire_kept
        | with_reducible apply gatherDone_kept))
    | with_reducible apply Kept.ite
    | (split; rename_i heq; refine (have hx : Kept [.freeCtr, .nextId, .regs, .mem, .poison, .hostMem, .time, .mortar, .errLog, .errOverflow, .ctxs, .joints, .kv, .flash, .holdup, .links, .groups, .colls, .conts, .msix, .msixSent, .regPosted] s _ := Kept.of_snd heq ?_; ?_); (on_goal 2 => clear heq))
    | (split; rename_i heq; refine (have hx : Kept [.freeCtr, .nextId, .regs, .mem, .poison, .hostMem, .time, .mortar, .errLog, .errOverflow, .ctxs, .joints, .kv, .flash, .holdup, .links, .groups, .colls, .conts, .msix, .msixSent, .regPosted] s _ := Kept.of_thd heq ?_; ?_); (on_goal 2 => clear heq))

theorem allToAllEnd_kept (s : State) (c : Coll) :
    Kept [.freeCtr, .nextId, .regs, .mem, .poison, .hostMem, .time, .mortar, .errLog, .errOverflow, .ctxs, .joints, .kv, .links, .groups, .colls, .conts, .msix, .msixSent, .regPosted] s (allToAllEnd s c) := by
  unfold allToAllEnd
  repeat' first
    | with_reducible exact Kept.refl _ _
    | with_reducible assumption
    | intro (_h : Kept _ _ _)
    | ((try lift_lets); intro x; refine (have hx : Kept [.freeCtr, .nextId, .regs, .mem, .poison, .hostMem, .time, .mortar, .errLog, .errOverflow, .ctxs, .joints, .kv, .links, .groups, .colls, .conts, .msix, .msixSent, .regPosted] s x := ?_; ?_); (on_goal 1 => subst x); (on_goal 2 => clear_value x))
    | ((try lift_lets); intro x; clear_value x)
    | intro y
    | decide
    | with_reducible apply hf
    | (with_reducible apply Kept.step; (on_goal 2 => first
        | with_reducible apply State.bump_kept
        | with_reducible apply collWrite_kept
        | with_reducible apply collEnd_kept))
    | (split; rename_i heq; refine (have hx : Kept [.freeCtr, .nextId, .regs, .mem, .poison, .hostMem, .time, .mortar, .errLog, .errOverflow, .ctxs, .joints, .kv, .links, .groups, .colls, .conts, .msix, .msixSent, .regPosted] s _ := Kept.of_snd heq ?_; ?_); (on_goal 2 => clear heq))
    | (split; rename_i heq; refine (have hx : Kept [.freeCtr, .nextId, .regs, .mem, .poison, .hostMem, .time, .mortar, .errLog, .errOverflow, .ctxs, .joints, .kv, .links, .groups, .colls, .conts, .msix, .msixSent, .regPosted] s _ := Kept.of_thd heq ?_; ?_); (on_goal 2 => clear heq))

theorem landBucket_kept (s : State) (c : Coll) (i : ℕ) (o : ℕ) (bad : Bool) (data : List Byte) :
    Kept [.regs, .mem, .poison, .hostMem, .time, .mortar, .errLog, .errOverflow, .ctxs, .regPosted] s (landBucket s c i o bad data).2 := by
  unfold landBucket
  repeat' first
    | with_reducible exact Kept.refl _ _
    | with_reducible assumption
    | intro (_h : Kept _ _ _)
    | ((try lift_lets); intro x; refine (have hx : Kept [.regs, .mem, .poison, .hostMem, .time, .mortar, .errLog, .errOverflow, .ctxs, .regPosted] s x := ?_; ?_); (on_goal 1 => subst x); (on_goal 2 => clear_value x))
    | ((try lift_lets); intro x; clear_value x)
    | intro y
    | decide
    | with_reducible apply hf
    | (with_reducible apply Kept.step; (on_goal 2 => first
        | with_reducible apply State.setStepPoison_kept
        | with_reducible apply collWrite_kept))
    | with_reducible apply Kept.ite
    | (split; rename_i heq; refine (have hx : Kept [.regs, .mem, .poison, .hostMem, .time, .mortar, .errLog, .errOverflow, .ctxs, .regPosted] s _ := Kept.of_snd heq ?_; ?_); (on_goal 2 => clear heq))
    | (split; rename_i heq; refine (have hx : Kept [.regs, .mem, .poison, .hostMem, .time, .mortar, .errLog, .errOverflow, .ctxs, .regPosted] s _ := Kept.of_thd heq ?_; ?_); (on_goal 2 => clear heq))

theorem bucketsStart_kept (s : State) (c : Coll) :
    Kept [.freeCtr, .nextId, .regs, .mem, .poison, .hostMem, .time, .mortar, .errLog, .errOverflow, .ctxs, .joints, .kv, .links, .groups, .colls, .conts, .msix, .msixSent, .regPosted] s (bucketsStart s c) := by
  unfold bucketsStart
  repeat' first
    | with_reducible exact Kept.refl _ _
    | with_reducible assumption
    | intro (_h : Kept _ _ _)
    | ((try lift_lets); intro x; refine (have hx : Kept [.freeCtr, .nextId, .regs, .mem, .poison, .hostMem, .time, .mortar, .errLog, .errOverflow, .ctxs, .joints, .kv, .links, .groups, .colls, .conts, .msix, .msixSent, .regPosted] s x := ?_; ?_); (on_goal 1 => subst x); (on_goal 2 => clear_value x))
    | ((try lift_lets); intro x; clear_value x)
    | intro y
    | decide
    | with_reducible apply hf
    | with_reducible apply blocksLanded_kept
    | (with_reducible apply Kept.step; (on_goal 2 => first
        | with_reducible apply State.setStepPoison_kept
        | with_reducible apply State.setColl_kept
        | with_reducible apply collRead_kept
        | with_reducible apply Coll.send_kept
        | with_reducible apply allToAllEnd_kept
        | with_reducible apply landBucket_kept))
    | with_reducible apply Kept.ite
    | with_reducible apply Kept.ite₂
    | with_reducible apply Kept.ite₃
    | with_reducible apply Kept.iteW
    | with_reducible apply Kept.foldl
    | with_reducible apply Kept.foldl₂
    | (split; rename_i heq; refine (have hx : Kept [.freeCtr, .nextId, .regs, .mem, .poison, .hostMem, .time, .mortar, .errLog, .errOverflow, .ctxs, .joints, .kv, .links, .groups, .colls, .conts, .msix, .msixSent, .regPosted] s _ := Kept.of_snd heq ?_; ?_); (on_goal 2 => clear heq))
    | (split; rename_i heq; refine (have hx : Kept [.freeCtr, .nextId, .regs, .mem, .poison, .hostMem, .time, .mortar, .errLog, .errOverflow, .ctxs, .joints, .kv, .links, .groups, .colls, .conts, .msix, .msixSent, .regPosted] s _ := Kept.of_thd heq ?_; ?_); (on_goal 2 => clear heq))

theorem countsStart_kept (s : State) (c : Coll) :
    Kept [.freeCtr, .nextId, .regs, .mem, .poison, .hostMem, .time, .mortar, .errLog, .errOverflow, .ctxs, .joints, .kv, .links, .groups, .colls, .conts, .msix, .msixSent, .regPosted] s (countsStart s c) := by
  unfold countsStart
  repeat' first
    | with_reducible exact Kept.refl _ _
    | with_reducible assumption
    | intro (_h : Kept _ _ _)
    | ((try lift_lets); intro x; clear_value x)
    | intro y
    | decide
    | with_reducible apply hf
    | (with_reducible apply Kept.step; (on_goal 2 => first
        | with_reducible apply State.setColl_kept
        | with_reducible apply collRead_kept
        | with_reducible apply Coll.send_kept
        | with_reducible apply collEnd_kept
        | with_reducible apply bucketsStart_kept))
    | with_reducible apply Kept.ite
    | (split; rename_i heq; refine (have hx : Kept [.freeCtr, .nextId, .regs, .mem, .poison, .hostMem, .time, .mortar, .errLog, .errOverflow, .ctxs, .joints, .kv, .links, .groups, .colls, .conts, .msix, .msixSent, .regPosted] s _ := Kept.of_snd heq ?_; ?_); (on_goal 2 => clear heq))
    | (split; rename_i heq; refine (have hx : Kept [.freeCtr, .nextId, .regs, .mem, .poison, .hostMem, .time, .mortar, .errLog, .errOverflow, .ctxs, .joints, .kv, .links, .groups, .colls, .conts, .msix, .msixSent, .regPosted] s _ := Kept.of_thd heq ?_; ?_); (on_goal 2 => clear heq))

theorem countsPass_kept (s : State) (port : ℕ) (m : RxMsg) (c : Coll) :
    Kept [.freeCtr, .nextId, .regs, .mem, .poison, .hostMem, .time, .mortar, .errLog, .errOverflow, .ctxs, .joints, .kv, .links, .groups, .colls, .conts, .msix, .msixSent, .regPosted] s (countsPass s port m c) := by
  unfold countsPass
  repeat' first
    | with_reducible exact Kept.refl _ _
    | with_reducible assumption
    | intro (_h : Kept _ _ _)
    | ((try lift_lets); intro x; refine (have hx : Kept [.freeCtr, .nextId, .regs, .mem, .poison, .hostMem, .time, .mortar, .errLog, .errOverflow, .ctxs, .joints, .kv, .links, .groups, .colls, .conts, .msix, .msixSent, .regPosted] s x := ?_; ?_); (on_goal 1 => subst x); (on_goal 2 => clear_value x))
    | ((try lift_lets); intro x; clear_value x)
    | intro y
    | decide
    | with_reducible apply hf
    | (with_reducible apply Kept.step; (on_goal 2 => first
        | with_reducible apply State.setColl_kept
        | with_reducible apply collForward_kept
        | with_reducible apply bucketsStart_kept))
    | with_reducible apply Kept.ite
    | (split; rename_i heq; refine (have hx : Kept [.freeCtr, .nextId, .regs, .mem, .poison, .hostMem, .time, .mortar, .errLog, .errOverflow, .ctxs, .joints, .kv, .links, .groups, .colls, .conts, .msix, .msixSent, .regPosted] s _ := Kept.of_snd heq ?_; ?_); (on_goal 2 => clear heq))
    | (split; rename_i heq; refine (have hx : Kept [.freeCtr, .nextId, .regs, .mem, .poison, .hostMem, .time, .mortar, .errLog, .errOverflow, .ctxs, .joints, .kv, .links, .groups, .colls, .conts, .msix, .msixSent, .regPosted] s _ := Kept.of_thd heq ?_; ?_); (on_goal 2 => clear heq))

theorem permLand_kept (s : State) (c : Coll) (round : ℕ) (o : ℕ) (bad : Bool) (data : List Byte) (peer : ℕ → Bool) :
    Kept [.regs, .mem, .poison, .hostMem, .time, .mortar, .errLog, .errOverflow, .ctxs, .regPosted] s (permLand s c round o bad data peer).2.2 := by
  unfold permLand
  repeat' first
    | with_reducible exact Kept.refl _ _
    | with_reducible assumption
    | intro (_h : Kept _ _ _)
    | ((try lift_lets); intro x; refine (have hx : Kept [.regs, .mem, .poison, .hostMem, .time, .mortar, .errLog, .errOverflow, .ctxs, .regPosted] s x := ?_; ?_); (on_goal 1 => subst x); (on_goal 2 => clear_value x))
    | ((try lift_lets); intro x; clear_value x)
    | intro y
    | decide
    | with_reducible apply hf
    | (with_reducible apply Kept.step; (on_goal 2 => first
        | with_reducible apply State.bump_kept
        | with_reducible apply State.setStepPoison_kept
        | with_reducible apply collWrite_kept))
    | with_reducible apply Kept.ite
    | with_reducible apply Kept.ite₂
    | with_reducible apply Kept.ite₃
    | with_reducible apply Kept.iteW
    | with_reducible apply Kept.foldl
    | with_reducible apply Kept.foldl₂
    | (split; rename_i heq; refine (have hx : Kept [.regs, .mem, .poison, .hostMem, .time, .mortar, .errLog, .errOverflow, .ctxs, .regPosted] s _ := Kept.of_snd heq ?_; ?_); (on_goal 2 => clear heq))
    | (split; rename_i heq; refine (have hx : Kept [.regs, .mem, .poison, .hostMem, .time, .mortar, .errLog, .errOverflow, .ctxs, .regPosted] s _ := Kept.of_thd heq ?_; ?_); (on_goal 2 => clear heq))

theorem roundStart_kept (s : State) (c : Coll) :
    Kept [.freeCtr, .nextId, .regs, .mem, .poison, .hostMem, .time, .mortar, .errLog, .errOverflow, .ctxs, .joints, .kv, .links, .groups, .colls, .conts, .msix, .msixSent, .regPosted] s (roundStart s c) := by
  unfold roundStart
  repeat' first
    | with_reducible exact Kept.refl _ _
    | with_reducible assumption
    | intro (_h : Kept _ _ _)
    | ((try lift_lets); intro x; clear_value x)
    | intro y
    | decide
    | with_reducible apply hf
    | (with_reducible apply Kept.step; (on_goal 2 => first
        | with_reducible apply State.setStepPoison_kept
        | with_reducible apply State.setColl_kept
        | with_reducible apply collRead_kept
        | with_reducible apply collWrite_kept
        | with_reducible apply Coll.send_kept
        | with_reducible apply collEnd_kept))
    | with_reducible apply Kept.ite
    | with_reducible apply Kept.ite₂
    | with_reducible apply Kept.ite₃
    | with_reducible apply Kept.iteW
    | with_reducible apply Kept.foldl
    | with_reducible apply Kept.foldl₂
    | with_reducible apply Kept.foldl₃
    | (split; rename_i heq; refine (have hx : Kept [.freeCtr, .nextId, .regs, .mem, .poison, .hostMem, .time, .mortar, .errLog, .errOverflow, .ctxs, .joints, .kv, .links, .groups, .colls, .conts, .msix, .msixSent, .regPosted] s _ := Kept.of_snd heq ?_; ?_); (on_goal 2 => clear heq))
    | (split; rename_i heq; refine (have hx : Kept [.freeCtr, .nextId, .regs, .mem, .poison, .hostMem, .time, .mortar, .errLog, .errOverflow, .ctxs, .joints, .kv, .links, .groups, .colls, .conts, .msix, .msixSent, .regPosted] s _ := Kept.of_thd heq ?_; ?_); (on_goal 2 => clear heq))

theorem roundEnd_kept (s : State) (c : Coll) :
    Kept [.freeCtr, .nextId, .regs, .mem, .poison, .hostMem, .time, .mortar, .errLog, .errOverflow, .ctxs, .joints, .kv, .links, .groups, .colls, .conts, .msix, .msixSent, .regPosted] s (roundEnd s c) := by
  unfold roundEnd
  repeat' first
    | with_reducible exact Kept.refl _ _
    | with_reducible assumption
    | intro (_h : Kept _ _ _)
    | intro y
    | decide
    | with_reducible apply hf
    | (with_reducible apply Kept.step; (on_goal 2 => first
        | with_reducible apply collEnd_kept
        | with_reducible apply roundStart_kept))
    | with_reducible apply Kept.ite
    | (split; rename_i heq; refine (have hx : Kept [.freeCtr, .nextId, .regs, .mem, .poison, .hostMem, .time, .mortar, .errLog, .errOverflow, .ctxs, .joints, .kv, .links, .groups, .colls, .conts, .msix, .msixSent, .regPosted] s _ := Kept.of_snd heq ?_; ?_); (on_goal 2 => clear heq))
    | (split; rename_i heq; refine (have hx : Kept [.freeCtr, .nextId, .regs, .mem, .poison, .hostMem, .time, .mortar, .errLog, .errOverflow, .ctxs, .joints, .kv, .links, .groups, .colls, .conts, .msix, .msixSent, .regPosted] s _ := Kept.of_thd heq ?_; ?_); (on_goal 2 => clear heq))

theorem roundSend_kept (s : State) (c : Coll) :
    Kept [.freeCtr, .nextId, .regs, .mem, .poison, .hostMem, .time, .mortar, .errLog, .errOverflow, .ctxs, .joints, .kv, .links, .groups, .colls, .conts, .msix, .msixSent, .regPosted] s (roundSend s c) := by
  unfold roundSend
  repeat' first
    | with_reducible exact Kept.refl _ _
    | with_reducible assumption
    | intro (_h : Kept _ _ _)
    | ((try lift_lets); intro x; clear_value x)
    | intro y
    | decide
    | with_reducible apply hf
    | (with_reducible apply Kept.step; (on_goal 2 => first
        | with_reducible apply sendOn_kept
        | with_reducible apply State.setColl_kept
        | with_reducible apply State.portProgress_kept
        | with_reducible apply collRead_kept
        | with_reducible apply collEnd_kept
        | with_reducible apply permLand_kept
        | with_reducible apply roundEnd_kept))
    | with_reducible apply Kept.ite
    | with_reducible apply Kept.ite₂
    | with_reducible apply Kept.ite₃
    | with_reducible apply Kept.iteW
    | with_reducible apply Kept.foldl
    | with_reducible apply Kept.foldl₂
    | with_reducible apply Kept.foldl₃
    | (split; rename_i heq; refine (have hx : Kept [.freeCtr, .nextId, .regs, .mem, .poison, .hostMem, .time, .mortar, .errLog, .errOverflow, .ctxs, .joints, .kv, .links, .groups, .colls, .conts, .msix, .msixSent, .regPosted] s _ := Kept.of_snd heq ?_; ?_); (on_goal 2 => clear heq))
    | (split; rename_i heq; refine (have hx : Kept [.freeCtr, .nextId, .regs, .mem, .poison, .hostMem, .time, .mortar, .errLog, .errOverflow, .ctxs, .joints, .kv, .links, .groups, .colls, .conts, .msix, .msixSent, .regPosted] s _ := Kept.of_thd heq ?_; ?_); (on_goal 2 => clear heq))

theorem barrierPass_kept (s : State) (port : ℕ) (m : RxMsg) (c : Coll) :
    Kept [.freeCtr, .nextId, .regs, .mem, .poison, .hostMem, .time, .mortar, .errLog, .errOverflow, .ctxs, .joints, .kv, .links, .groups, .colls, .conts, .msix, .msixSent, .regPosted] s (barrierPass s port m c) := by
  unfold barrierPass
  repeat' first
    | with_reducible exact Kept.refl _ _
    | with_reducible assumption
    | intro (_h : Kept _ _ _)
    | ((try lift_lets); intro x; clear_value x)
    | intro y
    | decide
    | with_reducible apply hf
    | (with_reducible apply Kept.step; (on_goal 2 => first
        | with_reducible apply collForward_kept
        | with_reducible apply roundSend_kept))
    | with_reducible apply Kept.ite
    | (split; rename_i heq; refine (have hx : Kept [.freeCtr, .nextId, .regs, .mem, .poison, .hostMem, .time, .mortar, .errLog, .errOverflow, .ctxs, .joints, .kv, .links, .groups, .colls, .conts, .msix, .msixSent, .regPosted] s _ := Kept.of_snd heq ?_; ?_); (on_goal 2 => clear heq))
    | (split; rename_i heq; refine (have hx : Kept [.freeCtr, .nextId, .regs, .mem, .poison, .hostMem, .time, .mortar, .errLog, .errOverflow, .ctxs, .joints, .kv, .links, .groups, .colls, .conts, .msix, .msixSent, .regPosted] s _ := Kept.of_thd heq ?_; ?_); (on_goal 2 => clear heq))

theorem permPass_kept (s : State) (m : RxMsg) (c : Coll) :
    Kept [.freeCtr, .nextId, .regs, .mem, .poison, .hostMem, .time, .mortar, .errLog, .errOverflow, .ctxs, .joints, .kv, .links, .groups, .colls, .conts, .msix, .msixSent, .regPosted] s (permPass s m c) := by
  unfold permPass
  repeat' first
    | with_reducible exact Kept.refl _ _
    | with_reducible assumption
    | intro (_h : Kept _ _ _)
    | intro y
    | decide
    | with_reducible apply hf
    | (with_reducible apply Kept.step; (on_goal 2 => first
        | with_reducible apply State.setColl_kept
        | with_reducible apply collEnd_kept
        | with_reducible apply permLand_kept
        | with_reducible apply roundEnd_kept))
    | with_reducible apply Kept.ite
    | (split; rename_i heq; refine (have hx : Kept [.freeCtr, .nextId, .regs, .mem, .poison, .hostMem, .time, .mortar, .errLog, .errOverflow, .ctxs, .joints, .kv, .links, .groups, .colls, .conts, .msix, .msixSent, .regPosted] s _ := Kept.of_snd heq ?_; ?_); (on_goal 2 => clear heq))
    | (split; rename_i heq; refine (have hx : Kept [.freeCtr, .nextId, .regs, .mem, .poison, .hostMem, .time, .mortar, .errLog, .errOverflow, .ctxs, .joints, .kv, .links, .groups, .colls, .conts, .msix, .msixSent, .regPosted] s _ := Kept.of_thd heq ?_; ?_); (on_goal 2 => clear heq))

theorem voteFrom_kept (s : State) (c : Coll) (g : ℕ) :
    Kept [.freeCtr, .nextId, .regs, .mem, .poison, .hostMem, .time, .mortar, .errLog, .errOverflow, .ctxs, .joints, .kv, .links, .groups, .colls, .conts, .msix, .msixSent, .regPosted] s (voteFrom s c g) := by
  unfold voteFrom
  repeat' first
    | with_reducible exact Kept.refl _ _
    | with_reducible assumption
    | intro (_h : Kept _ _ _)
    | ((try lift_lets); intro x; clear_value x)
    | intro y
    | decide
    | with_reducible apply hf
    | (with_reducible apply Kept.step; (on_goal 2 => first
        | with_reducible apply State.setColl_kept
        | with_reducible apply collSend_kept
        | with_reducible apply collEnd_kept))
    | with_reducible apply Kept.ite
    | with_reducible apply Kept.ite₂
    | with_reducible apply Kept.ite₃
    | with_reducible apply Kept.iteW
    | with_reducible apply Kept.foldl
    | with_reducible apply Kept.foldl₂
    | with_reducible apply Kept.foldl₃
    | with_reducible refine Kept.of_snd (by assumption) ?_
    | with_reducible refine Kept.of_done (by assumption) ?_
    | with_reducible refine Kept.of_fault (by assumption) ?_
    | with_reducible refine Kept.of_wait (by assumption) ?_
    | with_reducible refine Kept.of_thd (by assumption) ?_
    | split

theorem votePass_kept (s : State) (port : ℕ) (m : RxMsg) (c : Coll) :
    Kept [.freeCtr, .nextId, .regs, .mem, .poison, .hostMem, .time, .mortar, .errLog, .errOverflow, .ctxs, .joints, .kv, .links, .groups, .colls, .conts, .msix, .msixSent, .regPosted] s (votePass s port m c) := by
  unfold votePass
  repeat' first
    | with_reducible exact Kept.refl _ _
    | with_reducible assumption
    | intro (_h : Kept _ _ _)
    | ((try lift_lets); intro x; refine (have hf : ∀ (y : State) a, Kept [.freeCtr, .nextId, .regs, .mem, .poison, .hostMem, .time, .mortar, .errLog, .errOverflow, .ctxs, .joints, .kv, .links, .groups, .colls, .conts, .msix, .msixSent, .regPosted] s y → Kept [.freeCtr, .nextId, .regs, .mem, .poison, .hostMem, .time, .mortar, .errLog, .errOverflow, .ctxs, .joints, .kv, .links, .groups, .colls, .conts, .msix, .msixSent, .regPosted] s (x y a) := ?_; ?_); (on_goal 1 => subst x); (on_goal 2 => clear_value x))
    | ((try lift_lets); intro x; clear_value x)
    | intro y
    | decide
    | with_reducible apply hf
    | (with_reducible apply Kept.step; (on_goal 2 => first
        | with_reducible apply State.setStepPoison_kept
        | with_reducible apply State.setColl_kept
        | with_reducible apply collForward_kept
        | with_reducible apply voteFrom_kept))
    | with_reducible apply Kept.ite
    | (split; rename_i heq; refine (have hx : Kept [.freeCtr, .nextId, .regs, .mem, .poison, .hostMem, .time, .mortar, .errLog, .errOverflow, .ctxs, .joints, .kv, .links, .groups, .colls, .conts, .msix, .msixSent, .regPosted] s _ := Kept.of_snd heq ?_; ?_); (on_goal 2 => clear heq))
    | (split; rename_i heq; refine (have hx : Kept [.freeCtr, .nextId, .regs, .mem, .poison, .hostMem, .time, .mortar, .errLog, .errOverflow, .ctxs, .joints, .kv, .links, .groups, .colls, .conts, .msix, .msixSent, .regPosted] s _ := Kept.of_thd heq ?_; ?_); (on_goal 2 => clear heq))

theorem collBegin_kept (s : State) (c : Coll) :
    Kept [.freeCtr, .nextId, .regs, .mem, .poison, .hostMem, .time, .mortar, .errLog, .errOverflow, .ctxs, .joints, .kv, .flash, .holdup, .links, .groups, .colls, .conts, .msix, .msixSent, .regPosted] s (collBegin s c) := by
  unfold collBegin
  repeat' first
    | with_reducible exact Kept.refl _ _
    | with_reducible assumption
    | intro (_h : Kept _ _ _)
    | intro y
    | decide
    | with_reducible apply hf
    | (with_reducible apply Kept.step; (on_goal 2 => first
        | with_reducible apply headerStart_kept
        | with_reducible apply gatherStart_kept
        | with_reducible apply countsStart_kept
        | with_reducible apply roundStart_kept
        | with_reducible apply voteFrom_kept))
    | with_reducible apply Kept.ite
    | (split; rename_i heq; refine (have hx : Kept [.freeCtr, .nextId, .regs, .mem, .poison, .hostMem, .time, .mortar, .errLog, .errOverflow, .ctxs, .joints, .kv, .flash, .holdup, .links, .groups, .colls, .conts, .msix, .msixSent, .regPosted] s _ := Kept.of_snd heq ?_; ?_); (on_goal 2 => clear heq))
    | (split; rename_i heq; refine (have hx : Kept [.freeCtr, .nextId, .regs, .mem, .poison, .hostMem, .time, .mortar, .errLog, .errOverflow, .ctxs, .joints, .kv, .flash, .holdup, .links, .groups, .colls, .conts, .msix, .msixSent, .regPosted] s _ := Kept.of_thd heq ?_; ?_); (on_goal 2 => clear heq))

theorem setupBack_kept (s : State) (c : Coll) (b : List Byte) (bad : Bool) :
    Kept [.freeCtr, .nextId, .regs, .mem, .poison, .hostMem, .time, .mortar, .errLog, .errOverflow, .ctxs, .joints, .kv, .flash, .holdup, .links, .groups, .colls, .conts, .msix, .msixSent, .regPosted] s (setupBack s c b bad) := by
  unfold setupBack
  repeat' first
    | with_reducible exact Kept.refl _ _
    | with_reducible assumption
    | intro (_h : Kept _ _ _)
    | ((try lift_lets); intro x; refine (have hx : Kept [.freeCtr, .nextId, .regs, .mem, .poison, .hostMem, .time, .mortar, .errLog, .errOverflow, .ctxs, .joints, .kv, .flash, .holdup, .links, .groups, .colls, .conts, .msix, .msixSent, .regPosted] s x := ?_; ?_); (on_goal 1 => subst x); (on_goal 2 => clear_value x))
    | ((try lift_lets); intro x; clear_value x)
    | intro y
    | decide
    | with_reducible apply hf
    | (with_reducible apply Kept.step; (on_goal 2 => first
        | with_reducible apply State.setColl_kept
        | with_reducible apply collEnd_kept
        | with_reducible apply collBegin_kept))
    | with_reducible apply Kept.ite
    | (split; rename_i heq; refine (have hx : Kept [.freeCtr, .nextId, .regs, .mem, .poison, .hostMem, .time, .mortar, .errLog, .errOverflow, .ctxs, .joints, .kv, .flash, .holdup, .links, .groups, .colls, .conts, .msix, .msixSent, .regPosted] s _ := Kept.of_snd heq ?_; ?_); (on_goal 2 => clear heq))
    | (split; rename_i heq; refine (have hx : Kept [.freeCtr, .nextId, .regs, .mem, .poison, .hostMem, .time, .mortar, .errLog, .errOverflow, .ctxs, .joints, .kv, .flash, .holdup, .links, .groups, .colls, .conts, .msix, .msixSent, .regPosted] s _ := Kept.of_thd heq ?_; ?_); (on_goal 2 => clear heq))

theorem setupPass_kept (s : State) (port : ℕ) (m : RxMsg) (c : Coll) :
    Kept [.freeCtr, .nextId, .regs, .mem, .poison, .hostMem, .time, .mortar, .errLog, .errOverflow, .ctxs, .joints, .kv, .flash, .holdup, .links, .groups, .colls, .conts, .msix, .msixSent, .regPosted] s (setupPass s port m c) := by
  unfold setupPass
  repeat' first
    | with_reducible exact Kept.refl _ _
    | with_reducible assumption
    | intro (_h : Kept _ _ _)
    | ((try lift_lets); intro x; refine (have hx : Kept [.freeCtr, .nextId, .regs, .mem, .poison, .hostMem, .time, .mortar, .errLog, .errOverflow, .ctxs, .joints, .kv, .flash, .holdup, .links, .groups, .colls, .conts, .msix, .msixSent, .regPosted] s x := ?_; ?_); (on_goal 1 => subst x); (on_goal 2 => clear_value x))
    | ((try lift_lets); intro x; clear_value x)
    | intro y
    | decide
    | with_reducible apply hf
    | (with_reducible apply Kept.step; (on_goal 2 => first
        | with_reducible apply State.setColl_kept
        | with_reducible apply State.dropColl_kept
        | with_reducible apply collForward_kept
        | with_reducible apply setupBack_kept))
    | with_reducible apply Kept.ite
    | (split; rename_i heq; refine (have hx : Kept [.freeCtr, .nextId, .regs, .mem, .poison, .hostMem, .time, .mortar, .errLog, .errOverflow, .ctxs, .joints, .kv, .flash, .holdup, .links, .groups, .colls, .conts, .msix, .msixSent, .regPosted] s _ := Kept.of_snd heq ?_; ?_); (on_goal 2 => clear heq))
    | (split; rename_i heq; refine (have hx : Kept [.freeCtr, .nextId, .regs, .mem, .poison, .hostMem, .time, .mortar, .errLog, .errOverflow, .ctxs, .joints, .kv, .flash, .holdup, .links, .groups, .colls, .conts, .msix, .msixSent, .regPosted] s _ := Kept.of_thd heq ?_; ?_); (on_goal 2 => clear heq))

theorem onColl_kept (s : State) (port : ℕ) (kind : ℕ) (ok : State → RxMsg → Bool) (k : State → RxMsg → State) {kps : List Part} {s0 : State} (hm : partsIn [.time, .links] kps = true) (h0 : Kept kps s0 s) (hk : ∀ y0 y1, Kept kps s0 y0 → Kept kps s0 (k y0 y1)) :
    Kept kps s0 (onColl s port kind ok k) := by
  unfold onColl
  repeat' first
    | with_reducible exact Kept.refl _ _
    | with_reducible assumption
    | intro (_h : Kept _ _ _)
    | intro y
    | exact partsIn_trans (by decide) hm
    | with_reducible apply hk
    | with_reducible apply hf
    | (with_reducible apply Kept.step; (on_goal 2 => first
        | with_reducible apply State.consume_kept
        | with_reducible apply State.portProgress_kept))
    | with_reducible apply Kept.ite
    | with_reducible apply Kept.ite₂
    | with_reducible apply Kept.ite₃
    | with_reducible apply Kept.iteW
    | with_reducible apply Kept.foldl
    | with_reducible apply Kept.foldl₂
    | with_reducible apply Kept.foldl₃
    | with_reducible refine Kept.of_snd (by assumption) ?_
    | with_reducible refine Kept.of_done (by assumption) ?_
    | with_reducible refine Kept.of_fault (by assumption) ?_
    | with_reducible refine Kept.of_wait (by assumption) ?_
    | with_reducible refine Kept.of_thd (by assumption) ?_
    | split

theorem onPhase_kept (s : State) (port : ℕ) (kind : ℕ) (ps : List CollPhase) (k : State → RxMsg → Coll → State) {kps : List Part} {s0 : State} (hm : partsIn [.time, .links] kps = true) (h0 : Kept kps s0 s) (hk : ∀ y0 y1 y2, Kept kps s0 y0 → Kept kps s0 (k y0 y1 y2)) :
    Kept kps s0 (onPhase s port kind ps k) := by
  unfold onPhase
  repeat' first
    | with_reducible exact Kept.refl _ _
    | with_reducible assumption
    | intro (_h : Kept _ _ _)
    | intro y
    | exact partsIn_trans (by decide) hm
    | with_reducible apply hk
    | with_reducible apply hf
    | with_reducible apply onColl_kept
    | with_reducible apply Kept.ite
    | with_reducible apply Kept.ite₂
    | with_reducible apply Kept.ite₃
    | with_reducible apply Kept.iteW
    | with_reducible apply Kept.foldl
    | with_reducible apply Kept.foldl₂
    | with_reducible apply Kept.foldl₃
    | with_reducible refine Kept.of_snd (by assumption) ?_
    | with_reducible refine Kept.of_done (by assumption) ?_
    | with_reducible refine Kept.of_fault (by assumption) ?_
    | with_reducible refine Kept.of_wait (by assumption) ?_
    | with_reducible refine Kept.of_thd (by assumption) ?_
    | split

theorem abortPass_kept (s : State) (port : ℕ) (m : RxMsg) :
    Kept [.freeCtr, .nextId, .regs, .mem, .poison, .hostMem, .time, .mortar, .errLog, .errOverflow, .ctxs, .joints, .kv, .links, .groups, .colls, .conts, .msix, .msixSent, .regPosted] s (abortPass s port m) := by
  unfold abortPass
  repeat' first
    | with_reducible exact Kept.refl _ _
    | with_reducible assumption
    | intro (_h : Kept _ _ _)
    | ((try lift_lets); intro x; refine (have hx : Kept [.freeCtr, .nextId, .regs, .mem, .poison, .hostMem, .time, .mortar, .errLog, .errOverflow, .ctxs, .joints, .kv, .links, .groups, .colls, .conts, .msix, .msixSent, .regPosted] s x := ?_; ?_); (on_goal 1 => subst x); (on_goal 2 => clear_value x))
    | ((try lift_lets); intro x; clear_value x)
    | intro y
    | decide
    | with_reducible apply hf
    | (with_reducible apply Kept.step; (on_goal 2 => first
        | with_reducible apply collForward_kept
        | with_reducible apply collEnd_kept))
    | with_reducible apply Kept.ite
    | with_reducible apply Kept.ite₂
    | with_reducible apply Kept.ite₃
    | with_reducible apply Kept.iteW
    | with_reducible apply Kept.foldl
    | with_reducible apply Kept.foldl₂
    | with_reducible apply Kept.foldl₃
    | with_reducible refine Kept.of_snd (by assumption) ?_
    | with_reducible refine Kept.of_done (by assumption) ?_
    | with_reducible refine Kept.of_fault (by assumption) ?_
    | with_reducible refine Kept.of_wait (by assumption) ?_
    | with_reducible refine Kept.of_thd (by assumption) ?_
    | split

theorem bucketPass_kept (s : State) (port : ℕ) (m : RxMsg) :
    Kept [.freeCtr, .nextId, .regs, .mem, .poison, .hostMem, .time, .mortar, .errLog, .errOverflow, .ctxs, .joints, .kv, .links, .groups, .colls, .conts, .msix, .msixSent, .regPosted] s (bucketPass s port m) := by
  unfold bucketPass
  repeat' first
    | with_reducible exact Kept.refl _ _
    | with_reducible assumption
    | intro (_h : Kept _ _ _)
    | ((try lift_lets); intro x; clear_value x)
    | intro y
    | decide
    | with_reducible apply hf
    | with_reducible apply blocksLanded_kept
    | (with_reducible apply Kept.step; (on_goal 2 => first
        | with_reducible apply collForward_kept
        | with_reducible apply allToAllEnd_kept
        | with_reducible apply landBucket_kept))
    | with_reducible apply Kept.ite
    | with_reducible apply Kept.ite₂
    | with_reducible apply Kept.ite₃
    | with_reducible apply Kept.iteW
    | with_reducible apply Kept.foldl
    | with_reducible apply Kept.foldl₂
    | with_reducible apply Kept.foldl₃
    | with_reducible refine Kept.of_snd (by assumption) ?_
    | with_reducible refine Kept.of_done (by assumption) ?_
    | with_reducible refine Kept.of_fault (by assumption) ?_
    | with_reducible refine Kept.of_wait (by assumption) ?_
    | with_reducible refine Kept.of_thd (by assumption) ?_
    | split

theorem statsPass_kept (s : State) (port : ℕ) (m : RxMsg) (c : Coll) :
    Kept [.freeCtr, .nextId, .regs, .mem, .poison, .hostMem, .time, .mortar, .errLog, .errOverflow, .ctxs, .joints, .kv, .links, .groups, .colls, .conts, .msix, .msixSent, .regPosted] s (statsPass s port m c) := by
  unfold statsPass
  repeat' first
    | with_reducible exact Kept.refl _ _
    | with_reducible assumption
    | intro (_h : Kept _ _ _)
    | ((try lift_lets); intro x; refine (have hx : Kept [.freeCtr, .nextId, .regs, .mem, .poison, .hostMem, .time, .mortar, .errLog, .errOverflow, .ctxs, .joints, .kv, .links, .groups, .colls, .conts, .msix, .msixSent, .regPosted] s x := ?_; ?_); (on_goal 1 => subst x); (on_goal 2 => clear_value x))
    | ((try lift_lets); intro x; clear_value x)
    | intro y
    | decide
    | with_reducible apply hf
    | (with_reducible apply Kept.step; (on_goal 2 => first
        | with_reducible apply State.setColl_kept
        | with_reducible apply collForward_kept
        | with_reducible apply statsEnd_kept))
    | with_reducible apply Kept.ite
    | (split; rename_i heq; refine (have hx : Kept [.freeCtr, .nextId, .regs, .mem, .poison, .hostMem, .time, .mortar, .errLog, .errOverflow, .ctxs, .joints, .kv, .links, .groups, .colls, .conts, .msix, .msixSent, .regPosted] s _ := Kept.of_snd heq ?_; ?_); (on_goal 2 => clear heq))
    | (split; rename_i heq; refine (have hx : Kept [.freeCtr, .nextId, .regs, .mem, .poison, .hostMem, .time, .mortar, .errLog, .errOverflow, .ctxs, .joints, .kv, .links, .groups, .colls, .conts, .msix, .msixSent, .regPosted] s _ := Kept.of_thd heq ?_; ?_); (on_goal 2 => clear heq))

theorem collLinkLost_kept (s : State) (port : ℕ) :
    Kept [.freeCtr, .nextId, .regs, .mem, .poison, .hostMem, .time, .mortar, .errLog, .errOverflow, .ctxs, .joints, .kv, .links, .groups, .colls, .conts, .msix, .msixSent, .regPosted] s (collLinkLost s port) := by
  unfold collLinkLost
  repeat' first
    | with_reducible exact Kept.refl _ _
    | with_reducible assumption
    | intro (_h : Kept _ _ _)
    | intro y
    | decide
    | with_reducible apply hf
    | (with_reducible apply Kept.step; (on_goal 2 => with_reducible apply collEnd_kept))
    | with_reducible apply Kept.ite
    | with_reducible apply Kept.ite₂
    | with_reducible apply Kept.ite₃
    | with_reducible apply Kept.iteW
    | with_reducible apply Kept.foldl
    | with_reducible apply Kept.foldl₂
    | with_reducible apply Kept.foldl₃
    | with_reducible refine Kept.of_snd (by assumption) ?_
    | with_reducible refine Kept.of_done (by assumption) ?_
    | with_reducible refine Kept.of_fault (by assumption) ?_
    | with_reducible refine Kept.of_wait (by assumption) ?_
    | with_reducible refine Kept.of_thd (by assumption) ?_
    | split

theorem collGroupSet_kept (s : State) (ctx : ℕ) (group : ℕ) (v : ℕ) :
    Kept [.links, .groups, .colls] s (collGroupSet s ctx group v) := by
  unfold collGroupSet
  repeat' first
    | with_reducible exact Kept.refl _ _
    | with_reducible assumption
    | intro (_h : Kept _ _ _)
    | ((try lift_lets); intro x; refine (have hx : Kept [.links, .groups, .colls] s x := ?_; ?_); (on_goal 1 => subst x); (on_goal 2 => clear_value x))
    | ((try lift_lets); intro x; clear_value x)
    | intro y
    | decide
    | with_reducible apply hf
    | (with_reducible apply Kept.step; (on_goal 2 => first
        | with_reducible apply State.setGroup_kept
        | with_reducible apply State.consume_kept))
    | with_reducible apply Kept.ite
    | with_reducible apply Kept.ite₂
    | with_reducible apply Kept.ite₃
    | with_reducible apply Kept.iteW
    | with_reducible apply Kept.foldl
    | with_reducible apply Kept.foldl₂
    | with_reducible apply Kept.foldl₃
    | with_reducible refine Kept.of_snd (by assumption) ?_
    | with_reducible refine Kept.of_done (by assumption) ?_
    | with_reducible refine Kept.of_fault (by assumption) ?_
    | with_reducible refine Kept.of_wait (by assumption) ?_
    | with_reducible refine Kept.of_thd (by assumption) ?_
    | split
    | (with_reducible apply Kept.step; (on_goal 2 => with_reducible apply Kept.set_colls))

end Sys2Proof.Machine
end

