-- ==== Sys2Proof/Laws/FrameTrowel.lean ====
section
/-! SUPPORT. Frames of the operations of Machine/Trowel.lean. -/

namespace Sys2Proof.Machine

theorem nearRead_kept (s : State) (a : ℕ) (n : ℕ) (fr : ℕ) :
    Kept [.regs, .errLog, .errOverflow] s (nearRead s a n fr).2 := by
  unfold nearRead
  repeat' first
    | with_reducible exact Kept.refl _ _
    | with_reducible assumption
    | intro (_h : Kept _ _ _)
    | intro y
    | decide
    | with_reducible apply hf
    | (with_reducible apply Kept.step; (on_goal 2 => with_reducible apply State.decodeClean_kept))
    | with_reducible apply Kept.ite
    | with_reducible apply Kept.ite₂
    | (split; rename_i heq; refine (have hx : Kept [.regs, .errLog, .errOverflow] s _ := Kept.of_snd heq ?_; ?_); (on_goal 2 => clear heq))
    | (split; rename_i heq; refine (have hx : Kept [.regs, .errLog, .errOverflow] s _ := Kept.of_thd heq ?_; ?_); (on_goal 2 => clear heq))

theorem nearWrite_kept (s : State) (a : ℕ) (size : ℕ) (vals : List ℕ) (bad : List ℕ) :
    Kept [.regs, .mem, .poison, .errLog, .errOverflow] s (nearWrite s a size vals bad) := by
  unfold nearWrite
  repeat' first
    | with_reducible exact Kept.refl _ _
    | with_reducible assumption
    | intro (_h : Kept _ _ _)
    | intro y
    | decide
    | with_reducible apply hf
    | (with_reducible apply Kept.step; (on_goal 2 => with_reducible apply State.writeBrick_kept))
    | with_reducible apply Kept.ite
    | (split; rename_i heq; refine (have hx : Kept [.regs, .mem, .poison, .errLog, .errOverflow] s _ := Kept.of_snd heq ?_; ?_); (on_goal 2 => clear heq))
    | (split; rename_i heq; refine (have hx : Kept [.regs, .mem, .poison, .errLog, .errOverflow] s _ := Kept.of_thd heq ?_; ?_); (on_goal 2 => clear heq))

theorem storeUpd_kept (s : State) (u : Upd) (dst : ℕ) (es : List UpdElem) (bad : List ℕ) :
    Kept [.regs, .mem, .poison, .errLog, .errOverflow] s (storeUpd s u dst es bad) := by
  unfold storeUpd
  repeat' first
    | with_reducible exact Kept.refl _ _
    | with_reducible assumption
    | intro (_h : Kept _ _ _)
    | ((try lift_lets); intro x; refine (have hx : Kept [.regs, .mem, .poison, .errLog, .errOverflow] s x := ?_; ?_); (on_goal 1 => subst x); (on_goal 2 => clear_value x))
    | intro y
    | decide
    | with_reducible apply hf
    | (with_reducible apply Kept.step; (on_goal 2 => with_reducible apply nearWrite_kept))
    | with_reducible apply Kept.ite
    | (split; rename_i heq; refine (have hx : Kept [.regs, .mem, .poison, .errLog, .errOverflow] s _ := Kept.of_snd heq ?_; ?_); (on_goal 2 => clear heq))
    | (split; rename_i heq; refine (have hx : Kept [.regs, .mem, .poison, .errLog, .errOverflow] s _ := Kept.of_thd heq ?_; ?_); (on_goal 2 => clear heq))

theorem countUpd_kept (s : State) (ctx : ℕ) (cnt : ℕ) (poisoned : Bool) :
    Kept [.regs, .conts] s (countUpd s ctx cnt poisoned) := by
  unfold countUpd
  repeat' first
    | with_reducible exact Kept.refl _ _
    | with_reducible assumption
    | intro (_h : Kept _ _ _)
    | ((try lift_lets); intro x; clear_value x)
    | intro y
    | decide
    | with_reducible apply hf
    | (with_reducible apply Kept.step; (on_goal 2 => first
        | with_reducible apply State.bump_kept
        | with_reducible apply State.setCont_kept))
    | (split; rename_i heq; refine (have hx : Kept [.regs, .conts] s _ := Kept.of_snd heq ?_; ?_); (on_goal 2 => clear heq))
    | (split; rename_i heq; refine (have hx : Kept [.regs, .conts] s _ := Kept.of_thd heq ?_; ?_); (on_goal 2 => clear heq))

theorem runUpdate_kept (s : State) (t : ℕ) (u : Upd) :
    Kept [.freeCtr, .regs, .mem, .poison, .errLog, .errOverflow, .conts] s (runUpdate s t u).state := by
  unfold runUpdate
  repeat' first
    | with_reducible exact Kept.refl _ _
    | with_reducible assumption
    | intro (_h : Kept _ _ _)
    | ((try lift_lets); intro x; clear_value x)
    | intro y
    | decide
    | with_reducible apply hf
    | (with_reducible apply Kept.step; (on_goal 2 => first
        | with_reducible apply State.draw_kept
        | with_reducible apply nearRead_kept
        | with_reducible apply storeUpd_kept
        | with_reducible apply countUpd_kept))
    | with_reducible apply Kept.ite
    | with_reducible apply Kept.ite₂
    | (split; rename_i heq; refine (have hx : Kept [.freeCtr, .regs, .mem, .poison, .errLog, .errOverflow, .conts] s _ := Kept.of_snd heq ?_; ?_); (on_goal 2 => clear heq))
    | (split; rename_i heq; refine (have hx : Kept [.freeCtr, .regs, .mem, .poison, .errLog, .errOverflow, .conts] s _ := Kept.of_thd heq ?_; ?_); (on_goal 2 => clear heq))

theorem updGo_kept (s : State) (t : ℕ) (u : Upd) :
    Kept [.freeCtr, .regs, .mem, .poison, .tiles, .errLog, .errOverflow, .conts] s (updGo s t u).state := by
  unfold updGo
  repeat' first
    | with_reducible exact Kept.refl _ _
    | with_reducible assumption
    | intro (_h : Kept _ _ _)
    | intro y
    | decide
    | with_reducible apply hf
    | (with_reducible apply Kept.step; (on_goal 2 => first
        | with_reducible apply State.modTile_kept
        | with_reducible apply runUpdate_kept))
    | with_reducible apply Kept.ite
    | with_reducible apply Kept.ite₂
    | with_reducible apply Kept.ite₃
    | with_reducible apply Kept.iteW
    | (split; rename_i heq; refine (have hx : Kept [.freeCtr, .regs, .mem, .poison, .tiles, .errLog, .errOverflow, .conts] s _ := Kept.of_snd heq ?_; ?_); (on_goal 2 => clear heq))
    | (split; rename_i heq; refine (have hx : Kept [.freeCtr, .regs, .mem, .poison, .tiles, .errLog, .errOverflow, .conts] s _ := Kept.of_thd heq ?_; ?_); (on_goal 2 => clear heq))

theorem updTake_kept (s : State) (t : ℕ) (u : Upd) (par : ℕ) :
    Kept [.freeCtr, .regs, .mem, .poison, .tiles, .errLog, .errOverflow, .conts] s (updTake s t u par).state := by
  unfold updTake
  repeat' first
    | with_reducible exact Kept.refl _ _
    | with_reducible assumption
    | intro (_h : Kept _ _ _)
    | ((try lift_lets); intro x; clear_value x)
    | intro y
    | decide
    | with_reducible apply hf
    | (with_reducible apply Kept.step; (on_goal 2 => first
        | with_reducible apply State.bump_kept
        | with_reducible apply updGo_kept))
    | with_reducible apply Kept.ite
    | with_reducible apply Kept.ite₂
    | with_reducible apply Kept.ite₃
    | with_reducible apply Kept.iteW
    | (split; rename_i heq; refine (have hx : Kept [.freeCtr, .regs, .mem, .poison, .tiles, .errLog, .errOverflow, .conts] s _ := Kept.of_snd heq ?_; ?_); (on_goal 2 => clear heq))
    | (split; rename_i heq; refine (have hx : Kept [.freeCtr, .regs, .mem, .poison, .tiles, .errLog, .errOverflow, .conts] s _ := Kept.of_thd heq ?_; ?_); (on_goal 2 => clear heq))

theorem tupdateWord_kept (s : State) (t : ℕ) (w : CWord) :
    Kept [.freeCtr, .regs, .mem, .poison, .tiles, .errLog, .errOverflow, .conts] s (tupdateWord s t w).state := by
  unfold tupdateWord
  repeat' first
    | with_reducible exact Kept.refl _ _
    | with_reducible assumption
    | intro (_h : Kept _ _ _)
    | ((try lift_lets); intro x; clear_value x)
    | intro y
    | decide
    | with_reducible apply hf
    | (with_reducible apply Kept.step; (on_goal 2 => first
        | with_reducible apply updGo_kept
        | with_reducible apply updTake_kept))
    | with_reducible apply Kept.ite
    | with_reducible apply Kept.ite₂
    | with_reducible apply Kept.ite₃
    | with_reducible apply Kept.iteW
    | with_reducible apply Kept.foldl
    | with_reducible apply Kept.foldl₂
    | with_reducible apply Kept.foldl₃
    | with_reducible refine Kept.of_snd (by assumption) ?_
    | with_reducible refine Kept.of_done (by assumption) ?_
    | with_reducible refine Kept.of_fault (by assumption) ?_
    | with_reducible refine Kept.of_wait (by assumption) ?_
    | with_reducible refine Kept.of_thd (by assumption) ?_
    | split

end Sys2Proof.Machine
end

