-- ==== Sys2Proof/Laws/FrameSeq.lean ====
section
/-! SUPPORT. Frames of the operations of Machine/Seq.lean. -/

namespace Sys2Proof.Machine

theorem waitWord_kept (s : State) (t : ℕ) (w : CWord) :
    Kept [.tiles, .joints] s (waitWord s t w).state := by
  unfold waitWord
  repeat' first
    | with_reducible exact Kept.refl _ _
    | with_reducible assumption
    | intro (_h : Kept _ _ _)
    | ((try lift_lets); intro x; refine (have hx : Kept [.tiles, .joints] s x := ?_; ?_); (on_goal 1 => subst x); (on_goal 2 => clear_value x))
    | ((try lift_lets); intro x; clear_value x)
    | intro y
    | decide
    | with_reducible apply hf
    | (with_reducible apply Kept.step; (on_goal 2 => first
        | with_reducible apply State.modTile_kept
        | with_reducible apply addWait_kept))
    | with_reducible apply Kept.ite
    | with_reducible apply Kept.ite₂
    | with_reducible apply Kept.ite₃
    | with_reducible apply Kept.iteW
    | with_reducible apply Kept.foldl
    | with_reducible apply Kept.foldl₂
    | with_reducible apply Kept.foldl₃
    | with_reducible refine Kept.of_snd (by assumption) ?_
    | with_reducible refine Kept.of_done (by assumption) ?_
    | with_reducible refine Kept.of_fault (by assumption) ?_
    | with_reducible refine Kept.of_wait (by assumption) ?_
    | with_reducible refine Kept.of_thd (by assumption) ?_
    | split

theorem runWord_kept (s : State) (t : ℕ) (a : Active) :
    Kept [.freeCtr, .nextId, .regs, .mem, .poison, .hostMem, .time, .tiles, .mortar, .errLog, .errOverflow, .ctxs, .joints, .mail, .links, .conts, .mgmt, .msix, .msixSent, .regPosted] s (runWord s t a).state := by
  unfold runWord
  repeat' first
    | with_reducible exact Kept.refl _ _
    | with_reducible assumption
    | intro (_h : Kept _ _ _)
    | ((try lift_lets); intro x; clear_value x)
    | intro y
    | decide
    | with_reducible apply hf
    | (with_reducible apply Kept.step; (on_goal 2 => first
        | with_reducible apply mbsendWord_kept
        | with_reducible apply mbrecvWord_kept
        | with_reducible apply jaddWord_kept
        | with_reducible apply jtryWord_kept
        | with_reducible apply jticketWord_kept
        | with_reducible apply jorderWord_kept
        | with_reducible apply jarriveWord_kept
        | with_reducible apply jreadWord_kept
        | with_reducible apply jsignalWord_kept
        | with_reducible apply mmaWord_kept
        | with_reducible apply mdrainWord_kept
        | with_reducible apply mloadWord_kept
        | with_reducible apply mzeroWord_kept
        | with_reducible apply elementWord_kept
        | with_reducible apply vcmpWord_kept
        | with_reducible apply vselWord_kept
        | with_reducible apply vldWord_kept
        | with_reducible apply vstWord_kept
        | with_reducible apply vscanWord_kept
        | with_reducible apply vredWord_kept
        | with_reducible apply vbrcWord_kept
        | with_reducible apply vstatWord_kept
        | with_reducible apply vstatfWord_kept
        | with_reducible apply vmovsWord_kept
        | with_reducible apply sfevalWord_kept
        | with_reducible apply sfbasWord_kept
        | with_reducible apply sfsincosWord_kept
        | with_reducible apply sfnssWord_kept
        | with_reducible apply sfloadWord_kept
        | with_reducible apply sfswapWord_kept
        | with_reducible apply sfprogWord_kept
        | with_reducible apply hodstreamWord_kept
        | with_reducible apply hodrunWord_kept
        | with_reducible apply hodrecvWord_kept
        | with_reducible apply hodcmoWord_kept
        | with_reducible apply tupdateWord_kept
        | with_reducible apply waitWord_kept))
    | with_reducible apply Kept.ite
    | with_reducible apply Kept.ite₂
    | with_reducible apply Kept.ite₃
    | with_reducible apply Kept.iteW
    | (split; rename_i heq; refine (have hx : Kept [.freeCtr, .nextId, .regs, .mem, .poison, .hostMem, .time, .tiles, .mortar, .errLog, .errOverflow, .ctxs, .joints, .mail, .links, .conts, .mgmt, .msix, .msixSent, .regPosted] s _ := Kept.of_snd heq ?_; ?_); (on_goal 2 => clear heq))
    | (split; rename_i heq; refine (have hx : Kept [.freeCtr, .nextId, .regs, .mem, .poison, .hostMem, .time, .tiles, .mortar, .errLog, .errOverflow, .ctxs, .joints, .mail, .links, .conts, .mgmt, .msix, .msixSent, .regPosted] s _ := Kept.of_thd heq ?_; ?_); (on_goal 2 => clear heq))

theorem settle_kept {kps : List Part} {s0 : State} (t u pc : Nat) (w : WOut)
    (hm : partsIn [.regs, .mem, .poison, .hostMem, .time, .tiles, .mortar, .errLog, .errOverflow, .ctxs, .launches, .joints, .kv, .links, .conts, .msix, .msixSent, .regPosted] kps = true) (h : Kept kps s0 w.state) : Kept kps s0 (settle t u pc w) := by
  cases w with
  | done s f => exact Kept.step (s := s) h ((State.modTile_kept s t (fun x => x.finish u f)).weaken (ps := [.regs, .mem, .poison, .hostMem, .time, .tiles, .mortar, .errLog, .errOverflow, .ctxs, .launches, .joints, .kv, .links, .conts, .msix, .msixSent, .regPosted]) (by decide)) hm
  | fault s c => exact Kept.step (s := s) h ((tileFault_kept s t c pc).weaken (ps := [.regs, .mem, .poison, .hostMem, .time, .tiles, .mortar, .errLog, .errOverflow, .ctxs, .launches, .joints, .kv, .links, .conts, .msix, .msixSent, .regPosted]) (by decide)) hm
  | wait s => exact h

theorem startHead_kept (s : State) (t : ℕ) (u : ℕ) :
    Kept [.freeCtr, .nextId, .regs, .mem, .poison, .hostMem, .time, .tiles, .mortar, .errLog, .errOverflow, .ctxs, .launches, .joints, .mail, .kv, .links, .conts, .mgmt, .msix, .msixSent, .regPosted] s (startHead s t u) := by
  unfold startHead
  repeat' first
    | with_reducible exact Kept.refl _ _
    | with_reducible assumption
    | intro (_h : Kept _ _ _)
    | ((try lift_lets); intro x; clear_value x)
    | intro y
    | decide
    | with_reducible apply hf
    | with_reducible apply settle_kept
    | (with_reducible apply Kept.step; (on_goal 2 => first
        | with_reducible apply State.setTile_kept
        | with_reducible apply runWord_kept))
    | with_reducible apply Kept.ite
    | with_reducible apply Kept.ite₂
    | with_reducible apply Kept.ite₃
    | with_reducible apply Kept.iteW
    | with_reducible apply Kept.foldl
    | with_reducible apply Kept.foldl₂
    | with_reducible apply Kept.foldl₃
    | with_reducible refine Kept.of_snd (by assumption) ?_
    | with_reducible refine Kept.of_done (by assumption) ?_
    | with_reducible refine Kept.of_fault (by assumption) ?_
    | with_reducible refine Kept.of_wait (by assumption) ?_
    | with_reducible refine Kept.of_thd (by assumption) ?_
    | split
    | (dsimp only)

theorem startUnit_kept (s : State) (t : ℕ) (u : ℕ) :
    Kept [.freeCtr, .nextId, .regs, .mem, .poison, .hostMem, .time, .tiles, .mortar, .errLog, .errOverflow, .ctxs, .launches, .joints, .mail, .kv, .links, .conts, .mgmt, .msix, .msixSent, .regPosted] s (startUnit s t u) := by
  unfold startUnit
  repeat' first
    | with_reducible exact Kept.refl _ _
    | with_reducible assumption
    | intro (_h : Kept _ _ _)
    | ((try lift_lets); intro x; refine (have hx : Kept [.freeCtr, .nextId, .regs, .mem, .poison, .hostMem, .time, .tiles, .mortar, .errLog, .errOverflow, .ctxs, .launches, .joints, .mail, .kv, .links, .conts, .mgmt, .msix, .msixSent, .regPosted] s x := ?_; ?_); (on_goal 1 => subst x); (on_goal 2 => clear_value x))
    | intro y
    | decide
    | with_reducible apply hf
    | (with_reducible apply Kept.step; (on_goal 2 => with_reducible apply startHead_kept))
    | with_reducible apply Kept.ite
    | (split; rename_i heq; refine (have hx : Kept [.freeCtr, .nextId, .regs, .mem, .poison, .hostMem, .time, .tiles, .mortar, .errLog, .errOverflow, .ctxs, .launches, .joints, .mail, .kv, .links, .conts, .mgmt, .msix, .msixSent, .regPosted] s _ := Kept.of_snd heq ?_; ?_); (on_goal 2 => clear heq))
    | (split; rename_i heq; refine (have hx : Kept [.freeCtr, .nextId, .regs, .mem, .poison, .hostMem, .time, .tiles, .mortar, .errLog, .errOverflow, .ctxs, .launches, .joints, .mail, .kv, .links, .conts, .mgmt, .msix, .msixSent, .regPosted] s _ := Kept.of_thd heq ?_; ?_); (on_goal 2 => clear heq))

theorem retryUnit_kept (s : State) (t : ℕ) (u : ℕ) (op : ℕ) :
    Kept [.freeCtr, .nextId, .regs, .mem, .poison, .hostMem, .time, .tiles, .mortar, .errLog, .errOverflow, .ctxs, .launches, .joints, .mail, .kv, .links, .conts, .mgmt, .msix, .msixSent, .regPosted] s (retryUnit s t u op) := by
  unfold retryUnit
  repeat' first
    | with_reducible exact Kept.refl _ _
    | with_reducible assumption
    | intro (_h : Kept _ _ _)
    | ((try lift_lets); intro x; clear_value x)
    | intro y
    | decide
    | with_reducible apply hf
    | with_reducible apply settle_kept
    | (with_reducible apply Kept.step; (on_goal 2 => with_reducible apply runWord_kept))
    | with_reducible apply Kept.ite
    | with_reducible apply Kept.ite₂
    | with_reducible apply Kept.ite₃
    | with_reducible apply Kept.iteW
    | with_reducible apply Kept.foldl
    | with_reducible apply Kept.foldl₂
    | with_reducible apply Kept.foldl₃
    | with_reducible refine Kept.of_snd (by assumption) ?_
    | with_reducible refine Kept.of_done (by assumption) ?_
    | with_reducible refine Kept.of_fault (by assumption) ?_
    | with_reducible refine Kept.of_wait (by assumption) ?_
    | with_reducible refine Kept.of_thd (by assumption) ?_
    | split

theorem issue_kept (s : State) (t : ℕ) (unit : ℕ) (op : ℕ) (k : State → CWord → State) {kps : List Part} {s0 : State} (hm : partsIn [.regs, .mem, .poison, .hostMem, .time, .tiles, .mortar, .errLog, .errOverflow, .ctxs, .launches, .joints, .kv, .links, .conts, .msix, .msixSent, .regPosted] kps = true) (h0 : Kept kps s0 s) (hk : ∀ y0 y1, Kept kps s0 y0 → Kept kps s0 (k y0 y1)) :
    Kept kps s0 (issue s t unit op k) := by
  unfold issue
  repeat' first
    | with_reducible exact Kept.refl _ _
    | with_reducible assumption
    | intro (_h : Kept _ _ _)
    | ((try lift_lets); intro x; clear_value x)
    | intro y
    | exact partsIn_trans (by decide) hm
    | with_reducible apply hk
    | with_reducible apply hf
    | (with_reducible apply Kept.step; (on_goal 2 => first
        | with_reducible apply State.modTile_kept
        | with_reducible apply tileFault_kept))
    | with_reducible apply Kept.ite
    | with_reducible apply Kept.ite₂
    | with_reducible apply Kept.ite₃
    | with_reducible apply Kept.iteW
    | with_reducible apply Kept.foldl
    | with_reducible apply Kept.foldl₂
    | with_reducible apply Kept.foldl₃
    | with_reducible refine Kept.of_snd (by assumption) ?_
    | with_reducible refine Kept.of_done (by assumption) ?_
    | with_reducible refine Kept.of_fault (by assumption) ?_
    | with_reducible refine Kept.of_wait (by assumption) ?_
    | with_reducible refine Kept.of_thd (by assumption) ?_
    | split

theorem place_kept (t : ℕ) (u : ℕ) (s : State) (w : CWord) :
    Kept [.freeCtr, .nextId, .regs, .mem, .poison, .hostMem, .time, .tiles, .mortar, .errLog, .errOverflow, .ctxs, .launches, .joints, .mail, .kv, .links, .conts, .mgmt, .msix, .msixSent, .regPosted] s (place t u s w) := by
  unfold place
  repeat' first
    | with_reducible exact Kept.refl _ _
    | with_reducible assumption
    | intro (_h : Kept _ _ _)
    | ((try lift_lets); intro x; clear_value x)
    | intro y
    | decide
    | with_reducible apply hf
    | (with_reducible apply Kept.step; (on_goal 2 => first
        | with_reducible apply State.setTile_kept
        | with_reducible apply State.modTile_kept
        | with_reducible apply startUnit_kept))
    | with_reducible apply Kept.ite
    | (split; rename_i heq; refine (have hx : Kept [.freeCtr, .nextId, .regs, .mem, .poison, .hostMem, .time, .tiles, .mortar, .errLog, .errOverflow, .ctxs, .launches, .joints, .mail, .kv, .links, .conts, .mgmt, .msix, .msixSent, .regPosted] s _ := Kept.of_snd heq ?_; ?_); (on_goal 2 => clear heq))
    | (split; rename_i heq; refine (have hx : Kept [.freeCtr, .nextId, .regs, .mem, .poison, .hostMem, .time, .tiles, .mortar, .errLog, .errOverflow, .ctxs, .launches, .joints, .mail, .kv, .links, .conts, .mgmt, .msix, .msixSent, .regPosted] s _ := Kept.of_thd heq ?_; ?_); (on_goal 2 => clear heq))

theorem issueUnit_kept (s : State) (t : ℕ) (u : ℕ) (op : ℕ) :
    Kept [.freeCtr, .nextId, .regs, .mem, .poison, .hostMem, .time, .tiles, .mortar, .errLog, .errOverflow, .ctxs, .launches, .joints, .mail, .kv, .links, .conts, .mgmt, .msix, .msixSent, .regPosted] s (issueUnit s t u op) := by
  unfold issueUnit
  repeat' first
    | with_reducible exact Kept.refl _ _
    | with_reducible assumption
    | intro (_h : Kept _ _ _)
    | intro y
    | decide
    | with_reducible apply hf
    | with_reducible apply issue_kept
    | (with_reducible apply Kept.step; (on_goal 2 => with_reducible apply place_kept))
    | (split; rename_i heq; refine (have hx : Kept [.freeCtr, .nextId, .regs, .mem, .poison, .hostMem, .time, .tiles, .mortar, .errLog, .errOverflow, .ctxs, .launches, .joints, .mail, .kv, .links, .conts, .mgmt, .msix, .msixSent, .regPosted] s _ := Kept.of_snd heq ?_; ?_); (on_goal 2 => clear heq))
    | (split; rename_i heq; refine (have hx : Kept [.freeCtr, .nextId, .regs, .mem, .poison, .hostMem, .time, .tiles, .mortar, .errLog, .errOverflow, .ctxs, .launches, .joints, .mail, .kv, .links, .conts, .mgmt, .msix, .msixSent, .regPosted] s _ := Kept.of_thd heq ?_; ?_); (on_goal 2 => clear heq))

theorem seqStart_kept (t : ℕ) (k : State → CWord → State) (s : State) (w : CWord) {kps : List Part} {s0 : State} (hm : partsIn [.tiles] kps = true) (h0 : Kept kps s0 s) (hk : ∀ y0 y1, Kept kps s0 y0 → Kept kps s0 (k y0 y1)) :
    Kept kps s0 (seqStart t k s w) := by
  unfold seqStart
  repeat' first
    | with_reducible exact Kept.refl _ _
    | with_reducible assumption
    | intro (_h : Kept _ _ _)
    | ((try lift_lets); intro x; clear_value x)
    | intro y
    | exact partsIn_trans (by decide) hm
    | with_reducible apply hk
    | with_reducible apply hf
    | (with_reducible apply Kept.step; (on_goal 2 => with_reducible apply State.setTile_kept))
    | with_reducible apply Kept.ite
    | (split; rename_i heq; refine (have hx : Kept kps s0 _ := Kept.of_snd heq ?_; ?_); (on_goal 2 => clear heq))
    | (split; rename_i heq; refine (have hx : Kept kps s0 _ := Kept.of_thd heq ?_; ?_); (on_goal 2 => clear heq))

theorem seqSignal_kept (s : State) (t : ℕ) (pc : ℕ) (w : CWord) :
    Kept [.regs, .mem, .poison, .hostMem, .time, .tiles, .mortar, .errLog, .errOverflow, .ctxs, .launches, .joints, .kv, .links, .conts, .msix, .msixSent, .regPosted] s (seqSignal s t pc w) := by
  unfold seqSignal
  repeat' first
    | with_reducible exact Kept.refl _ _
    | with_reducible assumption
    | intro (_h : Kept _ _ _)
    | intro y
    | decide
    | with_reducible apply hf
    | (with_reducible apply Kept.step; (on_goal 2 => with_reducible apply signalToken_kept))
    | with_reducible apply Kept.ite
    | (split; rename_i heq; refine (have hx : Kept [.regs, .mem, .poison, .hostMem, .time, .tiles, .mortar, .errLog, .errOverflow, .ctxs, .launches, .joints, .kv, .links, .conts, .msix, .msixSent, .regPosted] s _ := Kept.of_snd heq ?_; ?_); (on_goal 2 => clear heq))
    | (split; rename_i heq; refine (have hx : Kept [.regs, .mem, .poison, .hostMem, .time, .tiles, .mortar, .errLog, .errOverflow, .ctxs, .launches, .joints, .kv, .links, .conts, .msix, .msixSent, .regPosted] s _ := Kept.of_thd heq ?_; ?_); (on_goal 2 => clear heq))

theorem seqWord_kept (s : State) (t : ℕ) (op : ℕ) (g : Tile → CWord → Tile) :
    Kept [.regs, .mem, .poison, .hostMem, .time, .tiles, .mortar, .errLog, .errOverflow, .ctxs, .launches, .joints, .kv, .links, .conts, .msix, .msixSent, .regPosted] s (seqWord s t op g) := by
  unfold seqWord
  repeat' first
    | with_reducible exact Kept.refl _ _
    | with_reducible assumption
    | intro (_h : Kept _ _ _)
    | ((try lift_lets); intro x; clear_value x)
    | intro y
    | decide
    | with_reducible apply hf
    | with_reducible apply issue_kept
    | with_reducible apply seqStart_kept
    | (with_reducible apply Kept.step; (on_goal 2 => first
        | with_reducible apply State.modTile_kept
        | with_reducible apply seqSignal_kept))
    | (split; rename_i heq; refine (have hx : Kept [.regs, .mem, .poison, .hostMem, .time, .tiles, .mortar, .errLog, .errOverflow, .ctxs, .launches, .joints, .kv, .links, .conts, .msix, .msixSent, .regPosted] s _ := Kept.of_snd heq ?_; ?_); (on_goal 2 => clear heq))
    | (split; rename_i heq; refine (have hx : Kept [.regs, .mem, .poison, .hostMem, .time, .tiles, .mortar, .errLog, .errOverflow, .ctxs, .launches, .joints, .kv, .links, .conts, .msix, .msixSent, .regPosted] s _ := Kept.of_thd heq ?_; ?_); (on_goal 2 => clear heq))

theorem seqHold_kept (s : State) (t : ℕ) (op : ℕ) (st : CWord → Stall) :
    Kept [.regs, .mem, .poison, .hostMem, .time, .tiles, .mortar, .errLog, .errOverflow, .ctxs, .launches, .joints, .kv, .links, .conts, .msix, .msixSent, .regPosted] s (seqHold s t op st) := by
  unfold seqHold
  repeat' first
    | with_reducible exact Kept.refl _ _
    | with_reducible assumption
    | intro (_h : Kept _ _ _)
    | intro y
    | decide
    | with_reducible apply hf
    | with_reducible apply issue_kept
    | with_reducible apply seqStart_kept
    | (with_reducible apply Kept.step; (on_goal 2 => with_reducible apply State.modTile_kept))
    | (split; rename_i heq; refine (have hx : Kept [.regs, .mem, .poison, .hostMem, .time, .tiles, .mortar, .errLog, .errOverflow, .ctxs, .launches, .joints, .kv, .links, .conts, .msix, .msixSent, .regPosted] s _ := Kept.of_snd heq ?_; ?_); (on_goal 2 => clear heq))
    | (split; rename_i heq; refine (have hx : Kept [.regs, .mem, .poison, .hostMem, .time, .tiles, .mortar, .errLog, .errOverflow, .ctxs, .launches, .joints, .kv, .links, .conts, .msix, .msixSent, .regPosted] s _ := Kept.of_thd heq ?_; ?_); (on_goal 2 => clear heq))

theorem seqRelease_kept (s : State) (t : ℕ) :
    Kept [.regs, .mem, .poison, .hostMem, .time, .tiles, .mortar, .errLog, .errOverflow, .ctxs, .launches, .joints, .kv, .links, .conts, .msix, .msixSent, .regPosted] s (seqRelease s t) := by
  unfold seqRelease
  repeat' first
    | with_reducible exact Kept.refl _ _
    | with_reducible assumption
    | intro (_h : Kept _ _ _)
    | ((try lift_lets); intro x; refine (have hx : Kept [.regs, .mem, .poison, .hostMem, .time, .tiles, .mortar, .errLog, .errOverflow, .ctxs, .launches, .joints, .kv, .links, .conts, .msix, .msixSent, .regPosted] s x := ?_; ?_); (on_goal 1 => subst x); (on_goal 2 => clear_value x))
    | ((try lift_lets); intro x; clear_value x)
    | intro y
    | decide
    | with_reducible apply hf
    | (with_reducible apply Kept.step; (on_goal 2 => first
        | with_reducible apply State.setTile_kept
        | with_reducible apply seqSignal_kept))
    | with_reducible apply Kept.ite
    | with_reducible apply Kept.ite₂
    | with_reducible apply Kept.ite₃
    | with_reducible apply Kept.iteW
    | with_reducible apply Kept.foldl
    | with_reducible apply Kept.foldl₂
    | with_reducible apply Kept.foldl₃
    | with_reducible refine Kept.of_snd (by assumption) ?_
    | with_reducible refine Kept.of_done (by assumption) ?_
    | with_reducible refine Kept.of_fault (by assumption) ?_
    | with_reducible refine Kept.of_wait (by assumption) ?_
    | with_reducible refine Kept.of_thd (by assumption) ?_
    | split

theorem fetchFill_kept (s : State) (t : ℕ) (fail : Bool) :
    Kept [.regs, .mem, .poison, .hostMem, .time, .tiles, .mortar, .errLog, .errOverflow, .ctxs, .launches, .joints, .kv, .links, .conts, .msix, .msixSent, .regPosted] s (fetchFill s t fail) := by
  unfold fetchFill
  repeat' first
    | with_reducible exact Kept.refl _ _
    | with_reducible assumption
    | intro (_h : Kept _ _ _)
    | ((try lift_lets); intro x; clear_value x)
    | intro y
    | decide
    | with_reducible apply hf
    | (with_reducible apply Kept.step; (on_goal 2 => first
        | with_reducible apply agentReadAll_kept
        | with_reducible apply State.modTile_kept
        | with_reducible apply tileFault_kept))
    | with_reducible apply Kept.ite
    | (split; rename_i heq; refine (have hx : Kept [.regs, .mem, .poison, .hostMem, .time, .tiles, .mortar, .errLog, .errOverflow, .ctxs, .launches, .joints, .kv, .links, .conts, .msix, .msixSent, .regPosted] s _ := Kept.of_snd heq ?_; ?_); (on_goal 2 => clear heq))
    | (split; rename_i heq; refine (have hx : Kept [.regs, .mem, .poison, .hostMem, .time, .tiles, .mortar, .errLog, .errOverflow, .ctxs, .launches, .joints, .kv, .links, .conts, .msix, .msixSent, .regPosted] s _ := Kept.of_thd heq ?_; ?_); (on_goal 2 => clear heq))

theorem stallRelease_kept (s : State) (t : ℕ) :
    Kept [.freeCtr, .nextId, .regs, .mem, .poison, .hostMem, .time, .tiles, .mortar, .errLog, .errOverflow, .ctxs, .launches, .joints, .mail, .kv, .links, .conts, .mgmt, .msix, .msixSent, .regPosted] s (stallRelease s t) := by
  unfold stallRelease
  repeat' first
    | with_reducible exact Kept.refl _ _
    | with_reducible assumption
    | intro (_h : Kept _ _ _)
    | ((try lift_lets); intro x; clear_value x)
    | intro y
    | decide
    | with_reducible apply hf
    | (with_reducible apply Kept.step; (on_goal 2 => with_reducible apply place_kept))
    | with_reducible apply Kept.ite
    | with_reducible apply Kept.ite₂
    | with_reducible apply Kept.ite₃
    | with_reducible apply Kept.iteW
    | with_reducible apply Kept.foldl
    | with_reducible apply Kept.foldl₂
    | with_reducible apply Kept.foldl₃
    | with_reducible refine Kept.of_snd (by assumption) ?_
    | with_reducible refine Kept.of_done (by assumption) ?_
    | with_reducible refine Kept.of_fault (by assumption) ?_
    | with_reducible refine Kept.of_wait (by assumption) ?_
    | with_reducible refine Kept.of_thd (by assumption) ?_
    | split

theorem completeWord_kept (s : State) (t : ℕ) (u : ℕ) :
    Kept [.freeCtr, .nextId, .regs, .mem, .poison, .hostMem, .time, .tiles, .mortar, .errLog, .errOverflow, .ctxs, .launches, .joints, .mail, .kv, .links, .conts, .mgmt, .msix, .msixSent, .regPosted] s (completeWord s t u) := by
  unfold completeWord
  repeat' first
    | with_reducible exact Kept.refl _ _
    | with_reducible assumption
    | intro (_h : Kept _ _ _)
    | ((try lift_lets); intro x; refine (have hx : Kept [.freeCtr, .nextId, .regs, .mem, .poison, .hostMem, .time, .tiles, .mortar, .errLog, .errOverflow, .ctxs, .launches, .joints, .mail, .kv, .links, .conts, .mgmt, .msix, .msixSent, .regPosted] s x := ?_; ?_); (on_goal 1 => subst x); (on_goal 2 => clear_value x))
    | ((try lift_lets); intro x; clear_value x)
    | intro y
    | decide
    | with_reducible apply hf
    | (with_reducible apply Kept.step; (on_goal 2 => first
        | with_reducible apply State.setTile_kept
        | with_reducible apply raiseTile_kept
        | with_reducible apply signalToken_kept
        | with_reducible apply startUnit_kept))
    | with_reducible apply Kept.ite
    | with_reducible apply Kept.ite₂
    | with_reducible apply Kept.ite₃
    | with_reducible apply Kept.iteW
    | with_reducible apply Kept.foldl
    | with_reducible apply Kept.foldl₂
    | with_reducible apply Kept.foldl₃
    | with_reducible refine Kept.of_snd (by assumption) ?_
    | with_reducible refine Kept.of_done (by assumption) ?_
    | with_reducible refine Kept.of_fault (by assumption) ?_
    | with_reducible refine Kept.of_wait (by assumption) ?_
    | with_reducible refine Kept.of_thd (by assumption) ?_
    | split

theorem waitOver_kept (s : State) (t : ℕ) :
    Kept [.tiles, .joints] s (waitOver s t) := by
  unfold waitOver
  repeat' first
    | with_reducible exact Kept.refl _ _
    | with_reducible assumption
    | intro (_h : Kept _ _ _)
    | intro y
    | decide
    | with_reducible apply hf
    | (with_reducible apply Kept.step; (on_goal 2 => first
        | with_reducible apply State.modTile_kept
        | with_reducible apply dropTileWaits_kept))
    | with_reducible apply Kept.ite
    | with_reducible apply Kept.ite₂
    | with_reducible apply Kept.ite₃
    | with_reducible apply Kept.iteW
    | with_reducible apply Kept.foldl
    | with_reducible apply Kept.foldl₂
    | with_reducible apply Kept.foldl₃
    | with_reducible refine Kept.of_snd (by assumption) ?_
    | with_reducible refine Kept.of_done (by assumption) ?_
    | with_reducible refine Kept.of_fault (by assumption) ?_
    | with_reducible refine Kept.of_wait (by assumption) ?_
    | with_reducible refine Kept.of_thd (by assumption) ?_
    | split

theorem markLate_kept (s : State) (t n v : Nat) : Kept [.tiles, .flash] s (markLate s t n v) :=
  ((State.modTile_kept s t _).weaken (by decide)).step (Kept.set_flash _ _ (fun h => h)) (by decide)

theorem waitMiss_kept (s : State) (t : ℕ) :
    Kept [.regs, .mem, .poison, .hostMem, .time, .tiles, .mortar, .errLog, .errOverflow, .ctxs, .launches, .joints, .kv, .flash, .links, .conts, .msix, .msixSent, .regPosted] s (waitMiss s t) := by
  unfold waitMiss
  repeat' first
    | with_reducible exact Kept.refl _ _
    | with_reducible assumption
    | intro (_h : Kept _ _ _)
    | ((try lift_lets); intro x; refine (have hx : Kept [.regs, .mem, .poison, .hostMem, .time, .tiles, .mortar, .errLog, .errOverflow, .ctxs, .launches, .joints, .kv, .flash, .links, .conts, .msix, .msixSent, .regPosted] s x := ?_; ?_); (on_goal 1 => subst x); (on_goal 2 => clear_value x))
    | ((try lift_lets); intro x; clear_value x)
    | intro y
    | decide
    | with_reducible apply hf
    | (with_reducible apply Kept.step; (on_goal 2 => first
        | with_reducible apply State.bump_kept
        | with_reducible apply missRecord_kept
        | with_reducible apply State.modTile_kept
        | with_reducible apply tileFault_kept
        | with_reducible apply markLate_kept))
    | with_reducible apply Kept.ite
    | with_reducible apply Kept.ite₂
    | with_reducible apply Kept.ite₃
    | with_reducible apply Kept.iteW
    | with_reducible apply Kept.foldl
    | with_reducible apply Kept.foldl₂
    | with_reducible apply Kept.foldl₃
    | with_reducible refine Kept.of_snd (by assumption) ?_
    | with_reducible refine Kept.of_done (by assumption) ?_
    | with_reducible refine Kept.of_fault (by assumption) ?_
    | with_reducible refine Kept.of_wait (by assumption) ?_
    | with_reducible refine Kept.of_thd (by assumption) ?_
    | split

end Sys2Proof.Machine
end

