-- ==== Sys2Proof/Laws/FrameWords.lean ====
section
/-! SUPPORT. Frames of the operations of Machine/Words.lean. -/

namespace Sys2Proof.Machine

theorem issueOrRetry_kept (s : State) (t : ℕ) (u : ℕ) (op : ℕ) :
    Kept [.freeCtr, .nextId, .regs, .mem, .poison, .hostMem, .time, .tiles, .mortar, .errLog, .errOverflow, .ctxs, .launches, .joints, .mail, .kv, .links, .conts, .mgmt, .msix, .msixSent, .regPosted] s (issueOrRetry s t u op) := by
  unfold issueOrRetry
  repeat' first
    | with_reducible exact Kept.refl _ _
    | with_reducible assumption
    | intro (_h : Kept _ _ _)
    | intro y
    | decide
    | with_reducible apply hf
    | (with_reducible apply Kept.step; (on_goal 2 => first
        | with_reducible apply retryUnit_kept
        | with_reducible apply issueUnit_kept))
    | with_reducible apply Kept.ite
    | (split; rename_i heq; refine (have hx : Kept [.freeCtr, .nextId, .regs, .mem, .poison, .hostMem, .time, .tiles, .mortar, .errLog, .errOverflow, .ctxs, .launches, .joints, .mail, .kv, .links, .conts, .mgmt, .msix, .msixSent, .regPosted] s _ := Kept.of_snd heq ?_; ?_); (on_goal 2 => clear heq))
    | (split; rename_i heq; refine (have hx : Kept [.freeCtr, .nextId, .regs, .mem, .poison, .hostMem, .time, .tiles, .mortar, .errLog, .errOverflow, .ctxs, .launches, .joints, .mail, .kv, .links, .conts, .mgmt, .msix, .msixSent, .regPosted] s _ := Kept.of_thd heq ?_; ?_); (on_goal 2 => clear heq))

end Sys2Proof.Machine
end

