-- ==== Sys2Proof/Laws/FrameBbf.lean ====
section
/-! SUPPORT. Frames of the operations of Machine/Bbf.lean. -/

namespace Sys2Proof.Machine

end Sys2Proof.Machine
end

