-- ==== Sys2Proof/Laws/FrameCtxReset.lean ====
section
/-! SUPPORT. Frames of the operations of Machine/CtxReset.lean. -/

namespace Sys2Proof.Machine

theorem abandonReads_kept (s : State) (ctx : ℕ) :
    Kept [.freeCtr, .nextId, .regs, .mem, .poison, .hostMem, .time, .tiles, .mortar, .errLog, .errOverflow, .ctxs, .joints, .kv, .flash, .hostReads, .copies, .holdup, .kiln, .links, .colls, .conts, .msix, .msixSent, .regPosted] s (abandonReads s ctx) := by
  unfold abandonReads
  repeat' first
    | with_reducible exact Kept.refl _ _
    | with_reducible assumption
    | intro (_h : Kept _ _ _)
    | intro y
    | decide
    | with_reducible apply hf
    | (with_reducible apply Kept.step; (on_goal 2 => with_reducible apply hostReadFails_kept))
    | with_reducible apply Kept.ite
    | with_reducible apply Kept.ite₂
    | with_reducible apply Kept.ite₃
    | with_reducible apply Kept.iteW
    | with_reducible apply Kept.foldl
    | with_reducible apply Kept.foldl₂
    | with_reducible apply Kept.foldl₃
    | with_reducible refine Kept.of_snd (by assumption) ?_
    | with_reducible refine Kept.of_done (by assumption) ?_
    | with_reducible refine Kept.of_fault (by assumption) ?_
    | with_reducible refine Kept.of_wait (by assumption) ?_
    | with_reducible refine Kept.of_thd (by assumption) ?_
    | split
    | (with_reducible apply Kept.step; (on_goal 2 => with_reducible apply Kept.set_hostReads))

theorem dropUnstarted_kept (s : State) (ctx : ℕ) :
    Kept [.time, .ctxs] s (dropUnstarted s ctx) := by
  unfold dropUnstarted
  repeat' first
    | with_reducible exact Kept.refl _ _
    | with_reducible assumption
    | intro (_h : Kept _ _ _)
    | ((try lift_lets); intro x; refine (have hx : Kept [.time, .ctxs] s x := ?_; ?_); (on_goal 1 => subst x); (on_goal 2 => clear_value x))
    | ((try lift_lets); intro x; clear_value x)
    | intro y
    | decide
    | with_reducible apply hf
    | (with_reducible apply Kept.step; (on_goal 2 => first
        | with_reducible apply State.setRing_kept
        | with_reducible apply State.deliver_kept))
    | with_reducible apply Kept.ite
    | with_reducible apply Kept.ite₂
    | with_reducible apply Kept.ite₃
    | with_reducible apply Kept.iteW
    | with_reducible apply Kept.foldl
    | with_reducible apply Kept.foldl₂
    | with_reducible apply Kept.foldl₃
    | with_reducible refine Kept.of_snd (by assumption) ?_
    | with_reducible refine Kept.of_done (by assumption) ?_
    | with_reducible refine Kept.of_fault (by assumption) ?_
    | with_reducible refine Kept.of_wait (by assumption) ?_
    | with_reducible refine Kept.of_thd (by assumption) ?_
    | split

theorem ctxReset_kept (s : State) (ctx : ℕ) :
    Kept [.freeCtr, .nextId, .regs, .mem, .poison, .hostMem, .time, .tiles, .mortar, .errLog, .errOverflow, .ctxs, .launches, .joints, .kv, .flash, .hostReads, .copies, .holdup, .kiln, .links, .colls, .conts, .msix, .msixSent, .regPosted] s (ctxReset s ctx) := by
  unfold ctxReset
  repeat' first
    | with_reducible exact Kept.refl _ _
    | with_reducible assumption
    | intro (_h : Kept _ _ _)
    | ((try lift_lets); intro x; refine (have hx : Kept [.freeCtr, .nextId, .regs, .mem, .poison, .hostMem, .time, .tiles, .mortar, .errLog, .errOverflow, .ctxs, .launches, .joints, .kv, .flash, .hostReads, .copies, .holdup, .kiln, .links, .colls, .conts, .msix, .msixSent, .regPosted] s x := ?_; ?_); (on_goal 1 => subst x); (on_goal 2 => clear_value x))
    | ((try lift_lets); intro x; clear_value x)
    | intro y
    | decide
    | with_reducible apply hf
    | (with_reducible apply Kept.step; (on_goal 2 => first
        | with_reducible apply State.setCtx_kept
        | with_reducible apply stopLaunches_kept
        | with_reducible apply abandonReads_kept
        | with_reducible apply dropUnstarted_kept))
    | with_reducible apply Kept.ite
    | with_reducible apply Kept.ite₂
    | with_reducible apply Kept.ite₃
    | with_reducible apply Kept.iteW
    | with_reducible apply Kept.foldl
    | with_reducible apply Kept.foldl₂
    | with_reducible apply Kept.foldl₃
    | with_reducible refine Kept.of_snd (by assumption) ?_
    | with_reducible refine Kept.of_done (by assumption) ?_
    | with_reducible refine Kept.of_fault (by assumption) ?_
    | with_reducible refine Kept.of_wait (by assumption) ?_
    | with_reducible refine Kept.of_thd (by assumption) ?_
    | split
    | (with_reducible apply Kept.step; (on_goal 2 => with_reducible apply Kept.set_launches))

theorem endInFlight_kept (s : State) (ctx : ℕ) :
    Kept [.regs, .mem, .poison, .hostMem, .time, .mortar, .errLog, .errOverflow, .ctxs, .joints, .kv, .flash, .hostReads, .copies, .kiln, .links, .colls, .trust, .mgmt, .tests, .msix, .msixSent, .regPosted] s (endInFlight s ctx) := by
  unfold endInFlight
  repeat' first
    | with_reducible exact Kept.refl _ _
    | with_reducible assumption
    | intro (_h : Kept _ _ _)
    | ((try lift_lets); intro x; refine (have hx : Kept [.regs, .mem, .poison, .hostMem, .time, .mortar, .errLog, .errOverflow, .ctxs, .joints, .kv, .flash, .hostReads, .copies, .kiln, .links, .colls, .trust, .mgmt, .tests, .msix, .msixSent, .regPosted] s x := ?_; ?_); (on_goal 1 => subst x); (on_goal 2 => clear_value x))
    | ((try lift_lets); intro x; clear_value x)
    | intro y
    | decide
    | with_reducible apply hf
    | (with_reducible apply Kept.step; (on_goal 2 => first
        | with_reducible apply State.modDesc_kept
        | with_reducible apply finishDesc_kept
        | with_reducible apply kvDone_kept
        | exact State.modFlash_kept _ _ (fun h => by simp only [Flash.unplace_data, Flash.put_data, Flash.countRead_data, Flash.noteRetry_data, Flash.prune_data, Flash.relocate_data]; exact h)
        | exact State.modFlash_kept _ _ (fun h => h)
        | exact State.modFlash_kept _ _ (writeBytes_wf _ _)
        | exact State.modFlash_kept _ _ (fill_wf _ _ _)
        | with_reducible apply collAbort_kept
        | with_reducible apply State.modKiln_kept
        | with_reducible apply freeEngine_kept))
    | with_reducible apply Kept.ite
    | with_reducible apply Kept.ite₂
    | with_reducible apply Kept.ite₃
    | with_reducible apply Kept.iteW
    | with_reducible apply Kept.foldl
    | with_reducible apply Kept.foldl₂
    | with_reducible apply Kept.foldl₃
    | with_reducible refine Kept.of_snd (by assumption) ?_
    | with_reducible refine Kept.of_done (by assumption) ?_
    | with_reducible refine Kept.of_fault (by assumption) ?_
    | with_reducible refine Kept.of_wait (by assumption) ?_
    | with_reducible refine Kept.of_thd (by assumption) ?_
    | split
    | (with_reducible apply Kept.step; (on_goal 2 => first
        | with_reducible apply Kept.set_time
        | with_reducible apply Kept.set_joints
        | with_reducible apply Kept.set_copies
        | with_reducible apply Kept.set_colls))

theorem clearMaster_kept (s : State) (m : Nat) : Kept [.regs, .masters] s (clearMaster s m) :=
  ((Kept.set_regs s _ (rising_sublist (List.Sublist.map _ List.filter_sublist))).weaken (by decide)).step
    (Kept.set_masters _ _) (by decide)

theorem endHod_kept (s : State) (t : ℕ) :
    Kept [.tiles, .chans, .kv] s (endHod s t) := by
  unfold endHod
  repeat' first
    | with_reducible exact Kept.refl _ _
    | with_reducible assumption
    | intro (_h : Kept _ _ _)
    | ((try lift_lets); intro x; refine (have hx : Kept [.tiles, .chans, .kv] s x := ?_; ?_); (on_goal 1 => subst x); (on_goal 2 => clear_value x))
    | intro y
    | decide
    | with_reducible apply hf
    | (with_reducible apply Kept.step; (on_goal 2 => first
        | with_reducible apply State.modTile_kept
        | with_reducible apply kvDone_kept))
    | with_reducible apply Kept.ite
    | with_reducible apply Kept.ite₂
    | with_reducible apply Kept.ite₃
    | with_reducible apply Kept.iteW
    | with_reducible apply Kept.foldl
    | with_reducible apply Kept.foldl₂
    | with_reducible apply Kept.foldl₃
    | with_reducible refine Kept.of_snd (by assumption) ?_
    | with_reducible refine Kept.of_done (by assumption) ?_
    | with_reducible refine Kept.of_fault (by assumption) ?_
    | with_reducible refine Kept.of_wait (by assumption) ?_
    | with_reducible refine Kept.of_thd (by assumption) ?_
    | split
    | (with_reducible apply Kept.step; (on_goal 2 => with_reducible apply Kept.set_chans))

theorem clearCtx_kept (s : State) (ctx : ℕ) :
    Kept [.regs, .mem, .masters, .time, .tiles, .chans, .ctxs, .joints, .kv] s (clearCtx s ctx) := by
  unfold clearCtx
  repeat' first
    | with_reducible exact Kept.refl _ _
    | with_reducible assumption
    | intro (_h : Kept _ _ _)
    | ((try lift_lets); intro x; refine (have hx : Kept [.regs, .mem, .masters, .time, .tiles, .chans, .ctxs, .joints, .kv] s x := ?_; ?_); (on_goal 1 => subst x); (on_goal 2 => clear_value x))
    | ((try lift_lets); intro x; clear_value x)
    | intro y
    | decide
    | with_reducible apply hf
    | (with_reducible apply Kept.step; (on_goal 2 => first
        | with_reducible apply State.setReg_kept
        | with_reducible apply State.setCtx_kept
        | with_reducible apply State.zeroScratch_kept
        | with_reducible apply State.endQueues_kept
        | with_reducible apply clearMaster_kept
        | with_reducible apply endHod_kept))
    | with_reducible apply Kept.ite
    | with_reducible apply Kept.ite₂
    | with_reducible apply Kept.ite₃
    | with_reducible apply Kept.iteW
    | with_reducible apply Kept.foldl
    | with_reducible apply Kept.foldl₂
    | with_reducible apply Kept.foldl₃
    | with_reducible refine Kept.of_snd (by assumption) ?_
    | with_reducible refine Kept.of_done (by assumption) ?_
    | with_reducible refine Kept.of_fault (by assumption) ?_
    | with_reducible refine Kept.of_wait (by assumption) ?_
    | with_reducible refine Kept.of_thd (by assumption) ?_
    | split
    | (with_reducible apply Kept.step; (on_goal 2 => with_reducible apply Kept.set_joints))

theorem ctxResetDone_kept (s : State) (ctx : ℕ) :
    Kept [.regs, .mem, .poison, .hostMem, .masters, .time, .tiles, .chans, .mortar, .errLog, .errOverflow, .ctxs, .joints, .mail, .kv, .flash, .hostReads, .copies, .kiln, .links, .colls, .trust, .mgmt, .tests, .msix, .msixSent, .regPosted] s (ctxResetDone s ctx) := by
  unfold ctxResetDone
  repeat' first
    | with_reducible exact Kept.refl _ _
    | with_reducible assumption
    | intro (_h : Kept _ _ _)
    | ((try lift_lets); intro x; refine (have hx : Kept [.regs, .mem, .poison, .hostMem, .masters, .time, .tiles, .chans, .mortar, .errLog, .errOverflow, .ctxs, .joints, .mail, .kv, .flash, .hostReads, .copies, .kiln, .links, .colls, .trust, .mgmt, .tests, .msix, .msixSent, .regPosted] s x := ?_; ?_); (on_goal 1 => subst x); (on_goal 2 => clear_value x))
    | ((try lift_lets); intro x; clear_value x)
    | intro y
    | decide
    | with_reducible apply hf
    | (with_reducible apply Kept.step; (on_goal 2 => first
        | with_reducible apply State.setCtx_kept
        | with_reducible apply mbPumpAll_kept
        | with_reducible apply endInFlight_kept
        | with_reducible apply clearCtx_kept))
    | with_reducible apply Kept.ite
    | (split; rename_i heq; refine (have hx : Kept [.regs, .mem, .poison, .hostMem, .masters, .time, .tiles, .chans, .mortar, .errLog, .errOverflow, .ctxs, .joints, .mail, .kv, .flash, .hostReads, .copies, .kiln, .links, .colls, .trust, .mgmt, .tests, .msix, .msixSent, .regPosted] s _ := Kept.of_snd heq ?_; ?_); (on_goal 2 => clear heq))
    | (split; rename_i heq; refine (have hx : Kept [.regs, .mem, .poison, .hostMem, .masters, .time, .tiles, .chans, .mortar, .errLog, .errOverflow, .ctxs, .joints, .mail, .kv, .flash, .hostReads, .copies, .kiln, .links, .colls, .trust, .mgmt, .tests, .msix, .msixSent, .regPosted] s _ := Kept.of_thd heq ?_; ?_); (on_goal 2 => clear heq))

theorem idleTick_kept (s : State) :
    Kept [.idle] s (idleTick s) := by
  unfold idleTick
  repeat' first
    | with_reducible exact Kept.refl _ _
    | with_reducible assumption
    | intro (_h : Kept _ _ _)
    | ((try lift_lets); intro x; clear_value x)
    | intro y
    | decide
    | with_reducible apply hf
    | with_reducible apply Kept.ite
    | with_reducible apply Kept.ite₂
    | with_reducible apply Kept.ite₃
    | with_reducible apply Kept.iteW
    | with_reducible apply Kept.foldl
    | with_reducible apply Kept.foldl₂
    | with_reducible apply Kept.foldl₃
    | with_reducible refine Kept.of_snd (by assumption) ?_
    | with_reducible refine Kept.of_done (by assumption) ?_
    | with_reducible refine Kept.of_fault (by assumption) ?_
    | with_reducible refine Kept.of_wait (by assumption) ?_
    | with_reducible refine Kept.of_thd (by assumption) ?_
    | split
    | (with_reducible apply Kept.step; (on_goal 2 => with_reducible apply Kept.set_idle))

end Sys2Proof.Machine
end

