-- ==== Sys2Proof/Laws/FrameTrust.lean ====
section
/-! SUPPORT. Frames of the operations of Machine/Trust.lean. -/

namespace Sys2Proof.Machine

theorem State.modTrust_kept (s : State) (g : Trust → Trust) :
    Kept [.trust] s (State.modTrust s g) := by
  unfold State.modTrust
  repeat' first
    | with_reducible exact Kept.refl _ _
    | with_reducible assumption
    | intro (_h : Kept _ _ _)
    | intro y
    | decide
    | with_reducible apply hf
    | with_reducible apply Kept.ite
    | with_reducible apply Kept.ite₂
    | with_reducible apply Kept.ite₃
    | with_reducible apply Kept.iteW
    | with_reducible apply Kept.foldl
    | with_reducible apply Kept.foldl₂
    | with_reducible apply Kept.foldl₃
    | with_reducible refine Kept.of_snd (by assumption) ?_
    | with_reducible refine Kept.of_done (by assumption) ?_
    | with_reducible refine Kept.of_fault (by assumption) ?_
    | with_reducible refine Kept.of_wait (by assumption) ?_
    | with_reducible refine Kept.of_thd (by assumption) ?_
    | split
    | (with_reducible apply Kept.step; (on_goal 2 => with_reducible apply Kept.set_trust))

theorem extendMeas_kept (s : State) (i : ℕ) (d : List Byte) :
    Kept [.trust] s (extendMeas s i d) := by
  unfold extendMeas
  repeat' first
    | with_reducible exact Kept.refl _ _
    | with_reducible assumption
    | intro (_h : Kept _ _ _)
    | intro y
    | decide
    | with_reducible apply hf
    | (with_reducible apply Kept.step; (on_goal 2 => with_reducible apply State.modTrust_kept))
    | (split; rename_i heq; refine (have hx : Kept [.trust] s _ := Kept.of_snd heq ?_; ?_); (on_goal 2 => clear heq))
    | (split; rename_i heq; refine (have hx : Kept [.trust] s _ := Kept.of_thd heq ?_; ?_); (on_goal 2 => clear heq))

theorem putSecurity_kept (s : State) :
    Kept [.trust] s (putSecurity s) := by
  unfold putSecurity
  repeat' first
    | with_reducible exact Kept.refl _ _
    | with_reducible assumption
    | intro (_h : Kept _ _ _)
    | intro y
    | decide
    | with_reducible apply hf
    | (with_reducible apply Kept.step; (on_goal 2 => with_reducible apply storePut_kept))
    | (split; rename_i heq; refine (have hx : Kept [.trust] s _ := Kept.of_snd heq ?_; ?_); (on_goal 2 => clear heq))
    | (split; rename_i heq; refine (have hx : Kept [.trust] s _ := Kept.of_thd heq ?_; ?_); (on_goal 2 => clear heq))

theorem restoreConfig_kept (s : State) :
    Kept [.regs, .time, .power] s (restoreConfig s) := by
  unfold restoreConfig
  repeat' first
    | with_reducible exact Kept.refl _ _
    | with_reducible assumption
    | intro (_h : Kept _ _ _)
    | ((try lift_lets); intro x; refine (have hx : Kept [.regs, .time, .power] s x := ?_; ?_); (on_goal 1 => subst x); (on_goal 2 => clear_value x))
    | intro y
    | decide
    | with_reducible apply hf
    | (with_reducible apply Kept.step; (on_goal 2 => first
        | with_reducible apply State.setReg_kept
        | with_reducible apply capChange_kept
        | with_reducible apply requestDuty_kept))
    | with_reducible apply Kept.ite
    | with_reducible apply Kept.ite₂
    | with_reducible apply Kept.ite₃
    | with_reducible apply Kept.iteW
    | with_reducible apply Kept.foldl
    | (split; rename_i heq; refine (have hx : Kept [.regs, .time, .power] s _ := Kept.of_snd heq ?_; ?_); (on_goal 2 => clear heq))
    | (split; rename_i heq; refine (have hx : Kept [.regs, .time, .power] s _ := Kept.of_thd heq ?_; ?_); (on_goal 2 => clear heq))

theorem restoreSpeeds_kept (s : State) :
    Kept [.power] s (restoreSpeeds s) := by
  unfold restoreSpeeds
  repeat' first
    | with_reducible exact Kept.refl _ _
    | with_reducible assumption
    | intro (_h : Kept _ _ _)
    | intro y
    | decide
    | with_reducible apply hf
    | (with_reducible apply Kept.step; (on_goal 2 => with_reducible apply State.modPower_kept))
    | (split; rename_i heq; refine (have hx : Kept [.power] s _ := Kept.of_snd heq ?_; ?_); (on_goal 2 => clear heq))
    | (split; rename_i heq; refine (have hx : Kept [.power] s _ := Kept.of_thd heq ?_; ?_); (on_goal 2 => clear heq))

theorem restorePoints_kept (s : State) :
    Kept [.tiles, .flash, .kiln, .links, .detourAvoid, .detourGen] s (restorePoints s) := by
  unfold restorePoints
  repeat' first
    | with_reducible exact Kept.refl _ _
    | with_reducible assumption
    | intro (_h : Kept _ _ _)
    | ((try lift_lets); intro x; refine (have hx : Kept [.tiles, .flash, .kiln, .links, .detourAvoid, .detourGen] s x := ?_; ?_); (on_goal 1 => subst x); (on_goal 2 => clear_value x))
    | ((try lift_lets); intro x; clear_value x)
    | intro y
    | decide
    | with_reducible apply hf
    | (with_reducible apply Kept.step; (on_goal 2 => first
        | with_reducible apply State.setPort_kept
        | with_reducible apply State.modTile_kept
        | exact State.modFlash_kept _ _ (fun h => h)
        | exact State.modFlash_kept _ _ (writeBytes_wf _ _)
        | exact State.modFlash_kept _ _ (fill_wf _ _ _)
        | with_reducible apply State.modKiln_kept))
    | with_reducible apply Kept.ite
    | with_reducible apply Kept.ite₂
    | with_reducible apply Kept.ite₃
    | with_reducible apply Kept.iteW
    | with_reducible apply Kept.foldl
    | with_reducible apply Kept.foldl₂
    | with_reducible apply Kept.foldl₃
    | with_reducible refine Kept.of_snd (by assumption) ?_
    | with_reducible refine Kept.of_done (by assumption) ?_
    | with_reducible refine Kept.of_fault (by assumption) ?_
    | with_reducible refine Kept.of_wait (by assumption) ?_
    | with_reducible refine Kept.of_thd (by assumption) ?_
    | split
    | (with_reducible apply Kept.step; (on_goal 2 => with_reducible apply Kept.set_detourAvoid_detourGen))

theorem bootSpall_kept (s : State) (ch : ℕ) (c : Chan) :
    Kept [.regs, .mem, .poison, .hostMem, .chans, .mortar, .errLog, .errOverflow, .ctxs, .mgmt, .msix, .msixSent, .regPosted] s (bootSpall s ch c) := by
  unfold bootSpall
  repeat' first
    | with_reducible exact Kept.refl _ _
    | with_reducible assumption
    | intro (_h : Kept _ _ _)
    | intro y
    | decide
    | with_reducible apply hf
    | (with_reducible apply Kept.step; (on_goal 2 => first
        | with_reducible apply State.setChan_kept
        | with_reducible apply repairEvent_kept))
    | (split; rename_i heq; refine (have hx : Kept [.regs, .mem, .poison, .hostMem, .chans, .mortar, .errLog, .errOverflow, .ctxs, .mgmt, .msix, .msixSent, .regPosted] s _ := Kept.of_snd heq ?_; ?_); (on_goal 2 => clear heq))
    | (split; rename_i heq; refine (have hx : Kept [.regs, .mem, .poison, .hostMem, .chans, .mortar, .errLog, .errOverflow, .ctxs, .mgmt, .msix, .msixSent, .regPosted] s _ := Kept.of_thd heq ?_; ?_); (on_goal 2 => clear heq))

theorem trainCold_kept (s : State) (ch : ℕ) (bad : List ℕ) (was : Option ℕ) :
    Kept [.regs, .mem, .poison, .hostMem, .chans, .mortar, .errLog, .errOverflow, .ctxs, .mgmt, .msix, .msixSent, .regPosted] s (trainCold s ch bad was) := by
  unfold trainCold
  repeat' first
    | with_reducible exact Kept.refl _ _
    | with_reducible assumption
    | intro (_h : Kept _ _ _)
    | ((try lift_lets); intro x; clear_value x)
    | intro y
    | decide
    | with_reducible apply hf
    | (with_reducible apply Kept.step; (on_goal 2 => first
        | with_reducible apply State.setChan_kept
        | with_reducible apply bootSpall_kept))
    | with_reducible apply Kept.ite
    | (split; rename_i heq; refine (have hx : Kept [.regs, .mem, .poison, .hostMem, .chans, .mortar, .errLog, .errOverflow, .ctxs, .mgmt, .msix, .msixSent, .regPosted] s _ := Kept.of_snd heq ?_; ?_); (on_goal 2 => clear heq))
    | (split; rename_i heq; refine (have hx : Kept [.regs, .mem, .poison, .hostMem, .chans, .mortar, .errLog, .errOverflow, .ctxs, .mgmt, .msix, .msixSent, .regPosted] s _ := Kept.of_thd heq ?_; ?_); (on_goal 2 => clear heq))

theorem pointAll_kept (s : State) :
    Kept [.trust] s (pointAll s) := by
  unfold pointAll
  repeat' first
    | with_reducible exact Kept.refl _ _
    | with_reducible assumption
    | intro (_h : Kept _ _ _)
    | ((try lift_lets); intro x; clear_value x)
    | intro y
    | decide
    | with_reducible apply hf
    | with_reducible apply Kept.ite
    | with_reducible apply Kept.ite₂
    | with_reducible apply Kept.ite₃
    | with_reducible apply Kept.iteW
    | with_reducible apply Kept.foldl
    | with_reducible apply Kept.foldl₂
    | with_reducible apply Kept.foldl₃
    | with_reducible refine Kept.of_snd (by assumption) ?_
    | with_reducible refine Kept.of_done (by assumption) ?_
    | with_reducible refine Kept.of_fault (by assumption) ?_
    | with_reducible refine Kept.of_wait (by assumption) ?_
    | with_reducible refine Kept.of_thd (by assumption) ?_
    | split
    | (with_reducible apply Kept.step; (on_goal 2 => with_reducible apply Kept.set_trust))

theorem trainAllCold_kept (s : State) (badPins : List (Nat × List Nat)) :
    Kept [.regs, .mem, .poison, .hostMem, .chans, .chanBoot, .chanGen, .mortar, .errLog, .errOverflow, .ctxs, .trust, .mgmt, .msix, .msixSent, .regPosted] s (trainAllCold s badPins) := by
  have h0 : Kept [.regs, .mem, .poison, .hostMem, .chans, .chanBoot, .chanGen, .mortar, .errLog, .errOverflow, .ctxs, .trust, .mgmt, .msix, .msixSent, .regPosted] s { s with chans := [], chanBoot := .active, chanGen := s.chanGen + 1 } :=
    (((Kept.set_chans s []).weaken (qs := [.chans]) (by decide)).step (Kept.set_chanBoot _ .active) (by decide)).step
      (Kept.set_chanGen _ (s.chanGen + 1)) (by decide)
  unfold trainAllCold
  refine Kept.step ?_ (pointAll_kept _) (by decide)
  refine Kept.foldl (fun t b h => ?_) (Kept.foldl (fun t x h => ?_) h0)
  · split
    · exact h
    · exact h.step (trainCold_kept _ _ _ _) (by decide)
  · exact h.step (trainCold_kept _ _ _ _) (by decide)

theorem trainWarm_kept (s : State) (ch : ℕ) (x : Chan) (bad : List ℕ) :
    Kept [.regs, .mem, .poison, .hostMem, .chans, .mortar, .errLog, .errOverflow, .ctxs, .mgmt, .msix, .msixSent, .regPosted] s (trainWarm s ch x bad) := by
  unfold trainWarm
  repeat' first
    | with_reducible exact Kept.refl _ _
    | with_reducible assumption
    | intro (_h : Kept _ _ _)
    | ((try lift_lets); intro x; clear_value x)
    | intro y
    | decide
    | with_reducible apply hf
    | (with_reducible apply Kept.step; (on_goal 2 => first
        | with_reducible apply State.setChan_kept
        | with_reducible apply logErr_kept
        | with_reducible apply bootSpall_kept))
    | with_reducible apply Kept.ite
    | (split; rename_i heq; refine (have hx : Kept [.regs, .mem, .poison, .hostMem, .chans, .mortar, .errLog, .errOverflow, .ctxs, .mgmt, .msix, .msixSent, .regPosted] s _ := Kept.of_snd heq ?_; ?_); (on_goal 2 => clear heq))
    | (split; rename_i heq; refine (have hx : Kept [.regs, .mem, .poison, .hostMem, .chans, .mortar, .errLog, .errOverflow, .ctxs, .mgmt, .msix, .msixSent, .regPosted] s _ := Kept.of_thd heq ?_; ?_); (on_goal 2 => clear heq))

theorem trainAllWarm_kept (s : State) (badPins : List (Nat × List Nat)) :
    Kept [.regs, .mem, .poison, .hostMem, .chans, .chanGen, .mortar, .errLog, .errOverflow, .ctxs, .trust, .mgmt, .msix, .msixSent, .regPosted] s (trainAllWarm s badPins) := by
  have h0 : Kept [.regs, .mem, .poison, .hostMem, .chans, .chanGen, .mortar, .errLog, .errOverflow, .ctxs, .trust, .mgmt, .msix, .msixSent, .regPosted] s { s with chans := [], chanGen := s.chanGen + 1 } :=
    ((Kept.set_chans s []).weaken (qs := [.chans]) (by decide)).step (Kept.set_chanGen _ (s.chanGen + 1)) (by decide)
  unfold trainAllWarm
  refine Kept.step ?_ (pointAll_kept _) (by decide)
  refine Kept.foldl (fun t b h => ?_) (Kept.foldl (fun t x h => ?_) h0)
  · split
    · exact h
    · exact h.step (trainWarm_kept _ _ _ _) (by decide)
  · exact h.step (trainWarm_kept _ _ _ _) (by decide)

theorem measureBoot_kept (s : State) :
    Kept [.trust] s (measureBoot s) := by
  unfold measureBoot
  repeat' first
    | with_reducible exact Kept.refl _ _
    | with_reducible assumption
    | intro (_h : Kept _ _ _)
    | ((try lift_lets); intro x; clear_value x)
    | intro y
    | decide
    | with_reducible apply hf
    | (with_reducible apply Kept.step; (on_goal 2 => first
        | with_reducible apply State.modTrust_kept
        | with_reducible apply extendMeas_kept))
    | (split; rename_i heq; refine (have hx : Kept [.trust] s _ := Kept.of_snd heq ?_; ?_); (on_goal 2 => clear heq))
    | (split; rename_i heq; refine (have hx : Kept [.trust] s _ := Kept.of_thd heq ?_; ?_); (on_goal 2 => clear heq))

theorem recovery_kept (s : State) :
    Kept [.mail, .trust] s (recovery s) := by
  unfold recovery
  repeat' first
    | with_reducible exact Kept.refl _ _
    | with_reducible assumption
    | intro (_h : Kept _ _ _)
    | ((try lift_lets); intro x; clear_value x)
    | intro y
    | decide
    | with_reducible apply hf
    | (with_reducible apply Kept.step; (on_goal 2 => with_reducible apply State.modTrust_kept))
    | with_reducible apply Kept.ite
    | with_reducible apply Kept.ite₂
    | with_reducible apply Kept.ite₃
    | with_reducible apply Kept.iteW
    | with_reducible apply Kept.foldl
    | with_reducible apply Kept.foldl₂
    | with_reducible apply Kept.foldl₃
    | with_reducible refine Kept.of_snd (by assumption) ?_
    | with_reducible refine Kept.of_done (by assumption) ?_
    | with_reducible refine Kept.of_fault (by assumption) ?_
    | with_reducible refine Kept.of_wait (by assumption) ?_
    | with_reducible refine Kept.of_thd (by assumption) ?_
    | split
    | (with_reducible apply Kept.step; (on_goal 2 => with_reducible apply Kept.set_mail))

theorem startPorts_kept (s : State) :
    Kept [.links] s (startPorts s) := by
  unfold startPorts
  repeat' first
    | with_reducible exact Kept.refl _ _
    | with_reducible assumption
    | intro (_h : Kept _ _ _)
    | ((try lift_lets); intro x; clear_value x)
    | intro y
    | decide
    | with_reducible apply hf
    | (with_reducible apply Kept.step; (on_goal 2 => with_reducible apply State.setPort_kept))
    | with_reducible apply Kept.ite
    | with_reducible apply Kept.ite₂
    | with_reducible apply Kept.ite₃
    | with_reducible apply Kept.iteW
    | with_reducible apply Kept.foldl
    | (split; rename_i heq; refine (have hx : Kept [.links] s _ := Kept.of_snd heq ?_; ?_); (on_goal 2 => clear heq))
    | (split; rename_i heq; refine (have hx : Kept [.links] s _ := Kept.of_thd heq ?_; ?_); (on_goal 2 => clear heq))

theorem bootOn_kept (s : State) (train : State → State) {kps : List Part} {s0 : State} (hm : partsIn [.regs, .time, .tiles, .mail, .flash, .kiln, .links, .power, .trust, .detourAvoid, .detourGen] kps = true) (h0 : Kept kps s0 s) (htrain : ∀ y0, Kept kps s0 y0 → Kept kps s0 (train y0)) :
    Kept kps s0 (bootOn s train) := by
  unfold bootOn
  repeat' first
    | with_reducible exact Kept.refl _ _
    | with_reducible assumption
    | intro (_h : Kept _ _ _)
    | ((try lift_lets); intro x; refine (have hx : Kept kps s0 x := ?_; ?_); (on_goal 1 => subst x); (on_goal 2 => clear_value x))
    | intro y
    | exact partsIn_trans (by decide) hm
    | with_reducible apply htrain
    | with_reducible apply hf
    | (with_reducible apply Kept.step; (on_goal 2 => first
        | with_reducible apply State.modTrust_kept
        | with_reducible apply restoreConfig_kept
        | with_reducible apply restoreSpeeds_kept
        | with_reducible apply restorePoints_kept
        | with_reducible apply measureBoot_kept
        | with_reducible apply recovery_kept
        | with_reducible apply startPorts_kept))
    | with_reducible apply Kept.ite
    | with_reducible apply Kept.ite₂
    | with_reducible apply Kept.ite₃
    | with_reducible apply Kept.iteW
    | with_reducible apply Kept.foldl
    | with_reducible apply Kept.foldl₂
    | with_reducible apply Kept.foldl₃
    | with_reducible refine Kept.of_snd (by assumption) ?_
    | with_reducible refine Kept.of_done (by assumption) ?_
    | with_reducible refine Kept.of_fault (by assumption) ?_
    | with_reducible refine Kept.of_wait (by assumption) ?_
    | with_reducible refine Kept.of_thd (by assumption) ?_
    | split
    | (with_reducible apply Kept.step; (on_goal 2 => with_reducible apply Kept.set_mail))

theorem restoreLife_kept (s : State) :
    Kept [.flash] s (restoreLife s) := by
  unfold restoreLife
  repeat' first
    | with_reducible exact Kept.refl _ _
    | with_reducible assumption
    | intro (_h : Kept _ _ _)
    | ((try lift_lets); intro x; clear_value x)
    | intro y
    | decide
    | with_reducible apply hf
    | (with_reducible apply Kept.step; (on_goal 2 => exact State.modFlash_kept _ _ (fun h => h)))
    | (split; rename_i heq; refine (have hx : Kept [.flash] s _ := Kept.of_snd heq ?_; ?_); (on_goal 2 => clear heq))
    | (split; rename_i heq; refine (have hx : Kept [.flash] s _ := Kept.of_thd heq ?_; ?_); (on_goal 2 => clear heq))

theorem powerUp_kept (s : State) : Kept partsPowerUp s (powerUp s) := by
  unfold powerUp
  dsimp only
  refine Kept.step (qs := [.freeCtr, .mem, .poison]) ?_ (State.undefine_kept _ _ _) (by decide)
  exact ⟨fun p => by cases p <;> first | exact .inl (by decide) | exact .inr rfl,
    fun c => ⟨⟨empty_wf, c.mem.2.1, c.mem.2.2⟩, rfl, rfl⟩, Nat.le_refl _, Nat.le_refl _⟩

theorem coldReset_kept (s : State) (puf0 : Bool) (puf1 : Bool) (half0 : Bool) (half1 : Bool) (sigA : Bool) (sigB : Bool) (badPins : List (ℕ × List ℕ)) :
    Kept partsColdReset s (coldReset s puf0 puf1 half0 half1 sigA sigB badPins) := by
  unfold coldReset
  repeat' first
    | with_reducible exact Kept.refl _ _
    | with_reducible assumption
    | intro (_h : Kept _ _ _)
    | ((try lift_lets); intro x; refine (have hx : Kept partsColdReset s x := ?_; ?_); (on_goal 1 => subst x); (on_goal 2 => clear_value x))
    | ((try lift_lets); intro x; clear_value x)
    | intro y
    | decide
    | with_reducible apply hf
    | with_reducible apply bootOn_kept
    | (with_reducible apply Kept.step; (on_goal 2 => first
        | with_reducible apply State.modTrust_kept
        | with_reducible apply trainAllCold_kept
        | with_reducible apply restoreLife_kept
        | with_reducible apply powerUp_kept))
    | (split; rename_i heq; refine (have hx : Kept partsColdReset s _ := Kept.of_snd heq ?_; ?_); (on_goal 2 => clear heq))
    | (split; rename_i heq; refine (have hx : Kept partsColdReset s _ := Kept.of_thd heq ?_; ?_); (on_goal 2 => clear heq))

theorem warmReset_kept (s : State) (badPins : List (Nat × List Nat)) :
    Kept partsWarmReset s (warmReset s badPins) := by
  unfold warmReset
  dsimp only
  refine Kept.step (qs := [.mail]) ?_ (Kept.set_mail _ _) (by decide)
  refine bootOn_kept _ _ (by decide) ?_ (fun y h => h.step (trainAllWarm_kept y badPins) (by decide))
  refine Kept.step (qs := [.trust]) ?_ (State.modTrust_kept _ _) (by decide)
  refine Kept.step (qs := [.freeCtr, .mem, .poison]) ?_ (State.undefine_kept _ _ _) (by decide)
  exact ⟨fun p => by cases p <;> first | exact .inl (by decide) | exact .inr rfl,
    fun c => ⟨⟨c.mem.1, c.mem.2.1, c.mem.2.2⟩, c.poison, rfl⟩, Nat.le_refl _, Nat.le_refl _⟩

theorem warmRequest_kept (s : State) (master : ℕ) (badPins : List (ℕ × List ℕ)) :
    Kept partsWarmReset s (warmRequest s master badPins) := by
  unfold warmRequest
  repeat' first
    | with_reducible exact Kept.refl _ _
    | with_reducible assumption
    | intro (_h : Kept _ _ _)
    | intro y
    | decide
    | with_reducible apply hf
    | (with_reducible apply Kept.step; (on_goal 2 => first
        | with_reducible apply State.clampEvent_kept
        | with_reducible apply State.modTrust_kept
        | with_reducible apply warmReset_kept))
    | with_reducible apply Kept.ite
    | (split; rename_i heq; refine (have hx : Kept partsWarmReset s _ := Kept.of_snd heq ?_; ?_); (on_goal 2 => clear heq))
    | (split; rename_i heq; refine (have hx : Kept partsWarmReset s _ := Kept.of_thd heq ?_; ?_); (on_goal 2 => clear heq))

theorem hostPortReset_kept (s : State) :
    Kept [.freeCtr, .nextId, .regs, .mem, .poison, .hostMem, .time, .tiles, .mortar, .errLog, .errOverflow, .ctxs, .launches, .joints, .kv, .flash, .hostReads, .copies, .holdup, .kiln, .links, .colls, .conts, .msix, .msixSent, .regPosted] s (hostPortReset s) := by
  unfold hostPortReset
  repeat' first
    | with_reducible exact Kept.refl _ _
    | with_reducible assumption
    | intro (_h : Kept _ _ _)
    | ((try lift_lets); intro x; refine (have hx : Kept [.freeCtr, .nextId, .regs, .mem, .poison, .hostMem, .time, .tiles, .mortar, .errLog, .errOverflow, .ctxs, .launches, .joints, .kv, .flash, .hostReads, .copies, .holdup, .kiln, .links, .colls, .conts, .msix, .msixSent, .regPosted] s x := ?_; ?_); (on_goal 1 => subst x); (on_goal 2 => clear_value x))
    | intro y
    | decide
    | with_reducible apply hf
    | (with_reducible apply Kept.step; (on_goal 2 => with_reducible apply ctxReset_kept))
    | with_reducible apply Kept.ite
    | with_reducible apply Kept.ite₂
    | with_reducible apply Kept.ite₃
    | with_reducible apply Kept.iteW
    | with_reducible apply Kept.foldl
    | with_reducible apply Kept.foldl₂
    | with_reducible apply Kept.foldl₃
    | with_reducible refine Kept.of_snd (by assumption) ?_
    | with_reducible refine Kept.of_done (by assumption) ?_
    | with_reducible refine Kept.of_fault (by assumption) ?_
    | with_reducible refine Kept.of_wait (by assumption) ?_
    | with_reducible refine Kept.of_thd (by assumption) ?_
    | split
    | (with_reducible apply Kept.step; (on_goal 2 => with_reducible apply Kept.set_ctxs_msix))

theorem saveConfig_kept (s : State) :
    Kept [.trust] s (saveConfig s) := by
  unfold saveConfig
  repeat' first
    | with_reducible exact Kept.refl _ _
    | with_reducible assumption
    | intro (_h : Kept _ _ _)
    | intro y
    | decide
    | with_reducible apply hf
    | (with_reducible apply Kept.step; (on_goal 2 => with_reducible apply storePut_kept))
    | (split; rename_i heq; refine (have hx : Kept [.trust] s _ := Kept.of_snd heq ?_; ?_); (on_goal 2 => clear heq))
    | (split; rename_i heq; refine (have hx : Kept [.trust] s _ := Kept.of_thd heq ?_; ?_); (on_goal 2 => clear heq))

theorem commitSvn_kept (s : State) :
    Kept [.trust] s (commitSvn s) := by
  unfold commitSvn
  repeat' first
    | with_reducible exact Kept.refl _ _
    | with_reducible assumption
    | intro (_h : Kept _ _ _)
    | intro y
    | decide
    | with_reducible apply hf
    | (with_reducible apply Kept.step; (on_goal 2 => first
        | with_reducible apply State.modTrust_kept
        | with_reducible apply putSecurity_kept))
    | (split; rename_i heq; refine (have hx : Kept [.trust] s _ := Kept.of_snd heq ?_; ?_); (on_goal 2 => clear heq))
    | (split; rename_i heq; refine (have hx : Kept [.trust] s _ := Kept.of_thd heq ?_; ?_); (on_goal 2 => clear heq))

theorem prefer_kept (s : State) (b : Bool) :
    Kept [.trust] s (prefer s b) := by
  unfold prefer
  repeat' first
    | with_reducible exact Kept.refl _ _
    | with_reducible assumption
    | intro (_h : Kept _ _ _)
    | intro y
    | decide
    | with_reducible apply hf
    | (with_reducible apply Kept.step; (on_goal 2 => first
        | with_reducible apply State.modTrust_kept
        | with_reducible apply putSecurity_kept))
    | (split; rename_i heq; refine (have hx : Kept [.trust] s _ := Kept.of_snd heq ?_; ?_); (on_goal 2 => clear heq))
    | (split; rename_i heq; refine (have hx : Kept [.trust] s _ := Kept.of_thd heq ?_; ?_); (on_goal 2 => clear heq))

theorem storeCmd_kept (s : State) (master : ℕ) (cmd : ℕ) :
    Kept partsWarmReset s (storeCmd s master cmd) := by
  unfold storeCmd
  repeat' first
    | with_reducible exact Kept.refl _ _
    | with_reducible assumption
    | intro (_h : Kept _ _ _)
    | intro y
    | decide
    | with_reducible apply hf
    | (with_reducible apply Kept.step; (on_goal 2 => first
        | with_reducible apply warmRequest_kept
        | with_reducible apply saveConfig_kept
        | with_reducible apply commitSvn_kept
        | with_reducible apply prefer_kept))
    | with_reducible apply Kept.ite
    | (split; rename_i heq; refine (have hx : Kept partsWarmReset s _ := Kept.of_snd heq ?_; ?_); (on_goal 2 => clear heq))
    | (split; rename_i heq; refine (have hx : Kept partsWarmReset s _ := Kept.of_thd heq ?_; ?_); (on_goal 2 => clear heq))

theorem recordDone_kept (s : State) (badPins : List (ℕ × List ℕ)) :
    Kept partsWarmReset s (recordDone s badPins) := by
  unfold recordDone
  repeat' first
    | with_reducible exact Kept.refl _ _
    | with_reducible assumption
    | intro (_h : Kept _ _ _)
    | intro y
    | decide
    | with_reducible apply hf
    | (with_reducible apply Kept.step; (on_goal 2 => first
        | with_reducible apply State.draw_kept
        | with_reducible apply State.modTrust_kept
        | with_reducible apply warmReset_kept))
    | with_reducible apply Kept.ite
    | with_reducible apply Kept.ite₂
    | with_reducible apply Kept.ite₃
    | with_reducible apply Kept.iteW
    | with_reducible apply Kept.foldl
    | with_reducible apply Kept.foldl₂
    | with_reducible apply Kept.foldl₃
    | with_reducible refine Kept.of_snd (by assumption) ?_
    | with_reducible refine Kept.of_done (by assumption) ?_
    | with_reducible refine Kept.of_fault (by assumption) ?_
    | with_reducible refine Kept.of_wait (by assumption) ?_
    | with_reducible refine Kept.of_thd (by assumption) ?_
    | split

theorem krtAnswer_kept {kps : List Part} {r : State} (s0 s : State) (chan op status len : Nat)
    (hm : partsIn [.nextId, .regs, .mem, .poison, .hostMem, .time, .mortar, .errLog, .errOverflow, .ctxs, .mail, .mgmt, .msix, .msixSent, .regPosted] kps = true) (h0 : Kept kps r s0) (h : Kept kps r s) :
    Kept kps r (krtAnswer s0 s chan op status len) := by
  unfold krtAnswer
  split
  · exact h.step ((mbTake_kept s chan).weaken (ps := [.nextId, .regs, .mem, .poison, .hostMem, .time, .mortar, .errLog, .errOverflow, .ctxs, .mail, .mgmt, .msix, .msixSent, .regPosted]) (by decide)) hm
  · split
    · exact h0
    · exact (h.step ((mbTake_kept s chan).weaken (ps := [.nextId, .regs, .mem, .poison, .hostMem, .time, .mortar, .errLog, .errOverflow, .ctxs, .mail, .mgmt, .msix, .msixSent, .regPosted]) (by decide)) hm).step
        ((mbSendBy_kept _ _ _ _ _ _).weaken (ps := [.nextId, .regs, .mem, .poison, .hostMem, .time, .mortar, .errLog, .errOverflow, .ctxs, .mail, .mgmt, .msix, .msixSent, .regPosted]) (by decide)) hm

theorem krtDigest_kept (s : State) (chan : ℕ) (p : List Byte) :
    Kept [.regs, .mortar, .errLog, .errOverflow, .ctxs] s (krtDigest s chan p).2 := by
  unfold krtDigest
  repeat' first
    | with_reducible exact Kept.refl _ _
    | with_reducible assumption
    | intro (_h : Kept _ _ _)
    | intro y
    | decide
    | with_reducible apply hf
    | (with_reducible apply Kept.step; (on_goal 2 => with_reducible apply agentReadAll_kept))
    | (split; rename_i heq; refine (have hx : Kept [.regs, .mortar, .errLog, .errOverflow, .ctxs] s _ := Kept.of_snd heq ?_; ?_); (on_goal 2 => clear heq))
    | (split; rename_i heq; refine (have hx : Kept [.regs, .mortar, .errLog, .errOverflow, .ctxs] s _ := Kept.of_thd heq ?_; ?_); (on_goal 2 => clear heq))

theorem krtWrite_kept (s : State) (chan : ℕ) (p : List Byte) (bs : List Byte) :
    Kept [.regs, .mem, .poison, .hostMem, .mortar, .errLog, .errOverflow, .ctxs, .regPosted] s (krtWrite s chan p bs).2 := by
  unfold krtWrite
  repeat' first
    | with_reducible exact Kept.refl _ _
    | with_reducible assumption
    | intro (_h : Kept _ _ _)
    | intro y
    | decide
    | with_reducible apply hf
    | (with_reducible apply Kept.step; (on_goal 2 => with_reducible apply agentWriteAll_kept))
    | with_reducible apply Kept.ite
    | with_reducible apply Kept.ite₂
    | (split; rename_i heq; refine (have hx : Kept [.regs, .mem, .poison, .hostMem, .mortar, .errLog, .errOverflow, .ctxs, .regPosted] s _ := Kept.of_snd heq ?_; ?_); (on_goal 2 => clear heq))
    | (split; rename_i heq; refine (have hx : Kept [.regs, .mem, .poison, .hostMem, .mortar, .errLog, .errOverflow, .ctxs, .regPosted] s _ := Kept.of_thd heq ?_; ?_); (on_goal 2 => clear heq))

theorem krtRun_kept (s : State) (chan : ℕ) (takes : ℕ → Bool) (k : State → List Byte → (ℕ × ℕ) × State) {kps : List Part} {s0 : State} (hm : partsIn [.nextId, .regs, .mem, .poison, .hostMem, .time, .mortar, .errLog, .errOverflow, .ctxs, .mail, .mgmt, .msix, .msixSent, .regPosted] kps = true) (h0 : Kept kps s0 s) (hk : ∀ y0 y1, Kept kps s0 y0 → Kept kps s0 (k y0 y1).2) :
    Kept kps s0 (krtRun s chan takes k) := by
  unfold krtRun
  repeat' first
    | with_reducible exact Kept.refl _ _
    | with_reducible assumption
    | intro (_h : Kept _ _ _)
    | ((try lift_lets); intro x; clear_value x)
    | intro y
    | exact partsIn_trans (by decide) hm
    | with_reducible apply hk
    | with_reducible apply hf
    | with_reducible apply krtAnswer_kept
    | with_reducible apply Kept.ite
    | with_reducible apply Kept.ite₂
    | with_reducible apply Kept.ite₃
    | with_reducible apply Kept.iteW
    | with_reducible apply Kept.foldl
    | with_reducible apply Kept.foldl₂
    | with_reducible apply Kept.foldl₃
    | with_reducible refine Kept.of_snd (by assumption) ?_
    | with_reducible refine Kept.of_done (by assumption) ?_
    | with_reducible refine Kept.of_fault (by assumption) ?_
    | with_reducible refine Kept.of_wait (by assumption) ?_
    | with_reducible refine Kept.of_thd (by assumption) ?_
    | split

theorem wdtKick_kept (s : State) (master : ℕ) :
    Kept [.trust] s (wdtKick s master) := by
  unfold wdtKick
  repeat' first
    | with_reducible exact Kept.refl _ _
    | with_reducible assumption
    | intro (_h : Kept _ _ _)
    | intro y
    | decide
    | with_reducible apply hf
    | (with_reducible apply Kept.step; (on_goal 2 => with_reducible apply State.modTrust_kept))
    | with_reducible apply Kept.ite
    | (split; rename_i heq; refine (have hx : Kept [.trust] s _ := Kept.of_snd heq ?_; ?_); (on_goal 2 => clear heq))
    | (split; rename_i heq; refine (have hx : Kept [.trust] s _ := Kept.of_thd heq ?_; ?_); (on_goal 2 => clear heq))

theorem restartCmc_kept (s : State) :
    Kept [.regs, .mem, .poison, .hostMem, .time, .mortar, .errLog, .errOverflow, .ctxs, .mail, .trust, .mgmt, .tests, .msix, .msixSent, .regPosted] s (restartCmc s) := by
  unfold restartCmc
  repeat' first
    | with_reducible exact Kept.refl _ _
    | with_reducible assumption
    | intro (_h : Kept _ _ _)
    | ((try lift_lets); intro x; refine (have hx : Kept [.regs, .mem, .poison, .hostMem, .time, .mortar, .errLog, .errOverflow, .ctxs, .mail, .trust, .mgmt, .tests, .msix, .msixSent, .regPosted] s x := ?_; ?_); (on_goal 1 => subst x); (on_goal 2 => clear_value x))
    | ((try lift_lets); intro x; clear_value x)
    | intro y
    | decide
    | with_reducible apply hf
    | (with_reducible apply Kept.step; (on_goal 2 => first
        | with_reducible apply State.setRegFld_kept
        | with_reducible apply mbPumpAll_kept
        | with_reducible apply State.modTrust_kept
        | with_reducible apply extendMeas_kept))
    | with_reducible apply Kept.ite
    | with_reducible apply Kept.ite₂
    | with_reducible apply Kept.ite₃
    | with_reducible apply Kept.iteW
    | with_reducible apply Kept.foldl
    | with_reducible apply Kept.foldl₂
    | with_reducible apply Kept.foldl₃
    | with_reducible refine Kept.of_snd (by assumption) ?_
    | with_reducible refine Kept.of_done (by assumption) ?_
    | with_reducible refine Kept.of_fault (by assumption) ?_
    | with_reducible refine Kept.of_wait (by assumption) ?_
    | with_reducible refine Kept.of_thd (by assumption) ?_
    | split
    | (with_reducible apply Kept.step; (on_goal 2 => with_reducible apply Kept.set_mgmt_tests))

end Sys2Proof.Machine
end

