-- ==== Sys2Proof/Laws/FrameRegWrite.lean ====
section
/-! SUPPORT. Frames of the operations of Machine/RegWrite.lean. -/

namespace Sys2Proof.Machine

theorem rearm_kept (s : State) (m : ℕ) :
    Kept [.masters] s (rearm s m) := by
  unfold rearm
  repeat' first
    | with_reducible exact Kept.refl _ _
    | with_reducible assumption
    | intro (_h : Kept _ _ _)
    | ((try lift_lets); intro x; clear_value x)
    | intro y
    | decide
    | with_reducible apply hf
    | (with_reducible apply Kept.step; (on_goal 2 => with_reducible apply State.setMaster_kept))
    | (split; rename_i heq; refine (have hx : Kept [.masters] s _ := Kept.of_snd heq ?_; ?_); (on_goal 2 => clear heq))
    | (split; rename_i heq; refine (have hx : Kept [.masters] s _ := Kept.of_thd heq ?_; ?_); (on_goal 2 => clear heq))

theorem unlockWrite_kept (s : State) (m : ℕ) (v : ℕ) :
    Kept [.masters] s (unlockWrite s m v) := by
  unfold unlockWrite
  repeat' first
    | with_reducible exact Kept.refl _ _
    | with_reducible assumption
    | intro (_h : Kept _ _ _)
    | ((try lift_lets); intro x; clear_value x)
    | intro y
    | decide
    | with_reducible apply hf
    | (with_reducible apply Kept.step; (on_goal 2 => first
        | with_reducible apply State.setMaster_kept
        | with_reducible apply rearm_kept))
    | with_reducible apply Kept.ite
    | (split; rename_i heq; refine (have hx : Kept [.masters] s _ := Kept.of_snd heq ?_; ?_); (on_goal 2 => clear heq))
    | (split; rename_i heq; refine (have hx : Kept [.masters] s _ := Kept.of_thd heq ?_; ?_); (on_goal 2 => clear heq))

theorem consumeUnlock_kept (s : State) (m : ℕ) (r : WordRow) :
    Kept [.regs, .masters] s (consumeUnlock s m r) := by
  unfold consumeUnlock
  repeat' first
    | with_reducible exact Kept.refl _ _
    | with_reducible assumption
    | intro (_h : Kept _ _ _)
    | intro y
    | decide
    | with_reducible apply hf
    | (with_reducible apply Kept.step; (on_goal 2 => first
        | with_reducible apply State.bump_kept
        | with_reducible apply rearm_kept))
    | with_reducible apply Kept.ite
    | (split; rename_i heq; refine (have hx : Kept [.regs, .masters] s _ := Kept.of_snd heq ?_; ?_); (on_goal 2 => clear heq))
    | (split; rename_i heq; refine (have hx : Kept [.regs, .masters] s _ := Kept.of_thd heq ?_; ?_); (on_goal 2 => clear heq))

theorem ctControl_kept (s : State) (m : ℕ) (at_ : ℕ) (ctx : ℕ) (w : ℕ) :
    Kept [.freeCtr, .nextId, .regs, .mem, .poison, .hostMem, .time, .tiles, .mortar, .errLog, .errOverflow, .ctxs, .launches, .joints, .kv, .flash, .hostReads, .copies, .holdup, .kiln, .links, .colls, .conts, .msix, .msixSent, .regPosted] s (ctControl s m at_ ctx w) := by
  unfold ctControl
  repeat' first
    | with_reducible exact Kept.refl _ _
    | with_reducible assumption
    | intro (_h : Kept _ _ _)
    | ((try lift_lets); intro x; refine (have hx : Kept [.freeCtr, .nextId, .regs, .mem, .poison, .hostMem, .time, .tiles, .mortar, .errLog, .errOverflow, .ctxs, .launches, .joints, .kv, .flash, .hostReads, .copies, .holdup, .kiln, .links, .colls, .conts, .msix, .msixSent, .regPosted] s x := ?_; ?_); (on_goal 1 => subst x); (on_goal 2 => clear_value x))
    | ((try lift_lets); intro x; clear_value x)
    | intro y
    | decide
    | with_reducible apply hf
    | (with_reducible apply Kept.step; (on_goal 2 => first
        | with_reducible apply State.setCtx_kept
        | with_reducible apply State.clampEvent_kept
        | with_reducible apply ctxReset_kept))
    | with_reducible apply Kept.ite
    | (split; rename_i heq; refine (have hx : Kept [.freeCtr, .nextId, .regs, .mem, .poison, .hostMem, .time, .tiles, .mortar, .errLog, .errOverflow, .ctxs, .launches, .joints, .kv, .flash, .hostReads, .copies, .holdup, .kiln, .links, .colls, .conts, .msix, .msixSent, .regPosted] s _ := Kept.of_snd heq ?_; ?_); (on_goal 2 => clear heq))
    | (split; rename_i heq; refine (have hx : Kept [.freeCtr, .nextId, .regs, .mem, .poison, .hostMem, .time, .tiles, .mortar, .errLog, .errOverflow, .ctxs, .launches, .joints, .kv, .flash, .hostReads, .copies, .holdup, .kiln, .links, .colls, .conts, .msix, .msixSent, .regPosted] s _ := Kept.of_thd heq ?_; ?_); (on_goal 2 => clear heq))

theorem ringAddr_kept (s : State) (off : ℕ) (idx : ℕ) (w : ℕ) :
    Kept [.ctxs] s (ringAddr s off idx w) := by
  unfold ringAddr
  repeat' first
    | with_reducible exact Kept.refl _ _
    | with_reducible assumption
    | intro (_h : Kept _ _ _)
    | ((try lift_lets); intro x; clear_value x)
    | intro y
    | decide
    | with_reducible apply hf
    | (with_reducible apply Kept.step; (on_goal 2 => first
        | with_reducible apply State.setRing_kept
        | with_reducible apply State.setCRing_kept))
    | with_reducible apply Kept.ite
    | (split; rename_i heq; refine (have hx : Kept [.ctxs] s _ := Kept.of_snd heq ?_; ?_); (on_goal 2 => clear heq))
    | (split; rename_i heq; refine (have hx : Kept [.ctxs] s _ := Kept.of_thd heq ?_; ?_); (on_goal 2 => clear heq))

theorem sqControl_kept (s : State) (m : ℕ) (at_ : ℕ) (ctx : ℕ) (q : ℕ) (w : ℕ) :
    Kept [.regs, .time, .ctxs] s (sqControl s m at_ ctx q w) := by
  unfold sqControl
  repeat' first
    | with_reducible exact Kept.refl _ _
    | with_reducible assumption
    | intro (_h : Kept _ _ _)
    | ((try lift_lets); intro x; refine (have hx : Kept [.regs, .time, .ctxs] s x := ?_; ?_); (on_goal 1 => subst x); (on_goal 2 => clear_value x))
    | ((try lift_lets); intro x; clear_value x)
    | intro y
    | decide
    | with_reducible apply hf
    | (with_reducible apply Kept.step; (on_goal 2 => first
        | with_reducible apply State.setRing_kept
        | with_reducible apply State.clampEvent_kept
        | with_reducible apply State.endQueues_kept))
    | with_reducible apply Kept.ite
    | (split; rename_i heq; refine (have hx : Kept [.regs, .time, .ctxs] s _ := Kept.of_snd heq ?_; ?_); (on_goal 2 => clear heq))
    | (split; rename_i heq; refine (have hx : Kept [.regs, .time, .ctxs] s _ := Kept.of_thd heq ?_; ?_); (on_goal 2 => clear heq))

theorem cqControl_kept (s : State) (m : ℕ) (at_ : ℕ) (ctx : ℕ) (q : ℕ) (w : ℕ) :
    Kept [.regs, .mem, .poison, .hostMem, .time, .mortar, .errLog, .errOverflow, .ctxs, .mail, .mgmt, .msix, .msixSent, .regPosted] s (cqControl s m at_ ctx q w) := by
  unfold cqControl
  repeat' first
    | with_reducible exact Kept.refl _ _
    | with_reducible assumption
    | intro (_h : Kept _ _ _)
    | ((try lift_lets); intro x; refine (have hx : Kept [.regs, .mem, .poison, .hostMem, .time, .mortar, .errLog, .errOverflow, .ctxs, .mail, .mgmt, .msix, .msixSent, .regPosted] s x := ?_; ?_); (on_goal 1 => subst x); (on_goal 2 => clear_value x))
    | ((try lift_lets); intro x; clear_value x)
    | intro y
    | decide
    | with_reducible apply hf
    | (with_reducible apply Kept.step; (on_goal 2 => first
        | with_reducible apply State.setCRing_kept
        | with_reducible apply State.clampEvent_kept
        | with_reducible apply mbPumpAll_kept))
    | with_reducible apply Kept.ite
    | (split; rename_i heq; refine (have hx : Kept [.regs, .mem, .poison, .hostMem, .time, .mortar, .errLog, .errOverflow, .ctxs, .mail, .mgmt, .msix, .msixSent, .regPosted] s _ := Kept.of_snd heq ?_; ?_); (on_goal 2 => clear heq))
    | (split; rename_i heq; refine (have hx : Kept [.regs, .mem, .poison, .hostMem, .time, .mortar, .errLog, .errOverflow, .ctxs, .mail, .mgmt, .msix, .msixSent, .regPosted] s _ := Kept.of_thd heq ?_; ?_); (on_goal 2 => clear heq))

theorem commitWord_kept (s : State) (m : ℕ) (at_ : ℕ) (off : ℕ) (idx : ℕ) (w : ℕ) :
    Kept partsWrite s (commitWord s m at_ off idx w) := by
  unfold commitWord
  repeat' first
    | with_reducible exact Kept.refl _ _
    | with_reducible assumption
    | intro (_h : Kept _ _ _)
    | ((try lift_lets); intro x; clear_value x)
    | intro y
    | decide
    | with_reducible apply hf
    | (with_reducible apply Kept.step; (on_goal 2 => first
        | with_reducible apply State.setReg_kept
        | with_reducible apply State.setCtx_kept
        | with_reducible apply State.setMbox_kept
        | with_reducible apply jntCfg_kept
        | with_reducible apply kvCtrl_kept
        | with_reducible apply chCmd_kept
        | with_reducible apply supplyWrite_kept
        | with_reducible apply collGroupSet_kept
        | with_reducible apply contCmd_kept
        | with_reducible apply contCtrl_kept
        | with_reducible apply linkCtrl_kept
        | with_reducible apply routeCommit_kept
        | with_reducible apply wantedPp_kept
        | with_reducible apply capChange_kept
        | with_reducible apply requestDuty_kept
        | with_reducible apply applyUnits_kept
        | with_reducible apply remeasure_kept
        | with_reducible apply storeCmd_kept
        | with_reducible apply wdtKick_kept
        | with_reducible apply unlockWrite_kept
        | with_reducible apply ctControl_kept
        | with_reducible apply ringAddr_kept
        | with_reducible apply sqControl_kept
        | with_reducible apply cqControl_kept))
    | with_reducible apply Kept.ite
    | (split; rename_i heq; refine (have hx : Kept partsWrite s _ := Kept.of_snd heq ?_; ?_); (on_goal 2 => clear heq))
    | (split; rename_i heq; refine (have hx : Kept partsWrite s _ := Kept.of_thd heq ?_; ?_); (on_goal 2 => clear heq))

theorem writeWord_kept (s : State) (m : ℕ) (at_ : ℕ) (r : WordRow) (v : ℕ) :
    Kept partsWrite s (writeWord s m at_ r v) := by
  unfold writeWord
  repeat' first
    | with_reducible exact Kept.refl _ _
    | with_reducible assumption
    | intro (_h : Kept _ _ _)
    | ((try lift_lets); intro x; refine (have hx : Kept partsWrite s x := ?_; ?_); (on_goal 1 => subst x); (on_goal 2 => clear_value x))
    | ((try lift_lets); intro x; clear_value x)
    | intro y
    | decide
    | with_reducible apply hf
    | (with_reducible apply Kept.step; (on_goal 2 => first
        | with_reducible apply State.clampEvent_kept
        | with_reducible apply consumeUnlock_kept
        | with_reducible apply commitWord_kept))
    | with_reducible apply Kept.ite
    | (split; rename_i heq; refine (have hx : Kept partsWrite s _ := Kept.of_snd heq ?_; ?_); (on_goal 2 => clear heq))
    | (split; rename_i heq; refine (have hx : Kept partsWrite s _ := Kept.of_thd heq ?_; ?_); (on_goal 2 => clear heq))

theorem writeDoorbell_kept (s : State) (m : ℕ) (n : ℕ) (o : ℕ) (v : ℕ) :
    Kept [.nextId, .regs, .mem, .poison, .hostMem, .time, .mortar, .errLog, .errOverflow, .ctxs, .mail, .mgmt, .msix, .msixSent, .regPosted] s (writeDoorbell s m n o v) := by
  unfold writeDoorbell
  repeat' first
    | with_reducible exact Kept.refl _ _
    | with_reducible assumption
    | intro (_h : Kept _ _ _)
    | intro y
    | decide
    | with_reducible apply hf
    | with_reducible apply inDomain_kept
    | (with_reducible apply Kept.step; (on_goal 2 => first
        | with_reducible apply State.setReg_kept
        | with_reducible apply mbHostSend_kept
        | with_reducible apply sqDoor_kept
        | with_reducible apply cqDoor_kept))
    | with_reducible apply Kept.ite
    | (split; rename_i heq; refine (have hx : Kept [.nextId, .regs, .mem, .poison, .hostMem, .time, .mortar, .errLog, .errOverflow, .ctxs, .mail, .mgmt, .msix, .msixSent, .regPosted] s _ := Kept.of_snd heq ?_; ?_); (on_goal 2 => clear heq))
    | (split; rename_i heq; refine (have hx : Kept [.nextId, .regs, .mem, .poison, .hostMem, .time, .mortar, .errLog, .errOverflow, .ctxs, .mail, .mgmt, .msix, .msixSent, .regPosted] s _ := Kept.of_thd heq ?_; ?_); (on_goal 2 => clear heq))

theorem writeMsix_kept (s : State) (fn o v : Nat) : Kept [.msix, .msixSent] s (writeMsix s fn o v) := by
  have h1 (x : Tbl MsixVec) (y : List (Nat × Nat)) : Kept [.msix, .msixSent] s { s with msix := x, msixSent := y } :=
    ((Kept.set_msix s x).weaken (qs := [.msix]) (by decide)).trans
      ((Kept.set_msixSent { s with msix := x } y).weaken (qs := [.msixSent]) (by decide))
  unfold writeMsix
  split
  · exact Kept.refl _ _
  · dsimp only
    generalize (if o % 16 = 0 then _ else _ : MsixVec) = e
    split
    · exact h1 _ _
    · exact (Kept.set_msix s _).weaken (by decide)

theorem writeAlias_kept (s : State) (m : ℕ) (at_ : ℕ) (slot : ℕ) (bit : ℕ) (v : ℕ) :
    Kept partsWrite s (writeAlias s m at_ slot bit v) := by
  unfold writeAlias
  repeat' first
    | with_reducible exact Kept.refl _ _
    | with_reducible assumption
    | intro (_h : Kept _ _ _)
    | intro y
    | decide
    | with_reducible apply hf
    | (with_reducible apply Kept.step; (on_goal 2 => with_reducible apply writeWord_kept))
    | with_reducible apply Kept.ite
    | with_reducible apply Kept.ite₂
    | with_reducible apply Kept.ite₃
    | with_reducible apply Kept.iteW
    | with_reducible apply Kept.foldl
    | with_reducible apply Kept.foldl₂
    | with_reducible apply Kept.foldl₃
    | with_reducible refine Kept.of_snd (by assumption) ?_
    | with_reducible refine Kept.of_done (by assumption) ?_
    | with_reducible refine Kept.of_fault (by assumption) ?_
    | with_reducible refine Kept.of_wait (by assumption) ?_
    | with_reducible refine Kept.of_thd (by assumption) ?_
    | split

theorem domainAbort_kept (s : State) (m : ℕ) :
    Kept [.regs] s (domainAbort s m) := by
  unfold domainAbort
  repeat' first
    | with_reducible exact Kept.refl _ _
    | with_reducible assumption
    | intro (_h : Kept _ _ _)
    | intro y
    | decide
    | with_reducible apply hf
    | (with_reducible apply Kept.step; (on_goal 2 => first
        | with_reducible apply State.bump_kept
        | with_reducible apply State.addrError_kept))
    | with_reducible apply Kept.ite
    | (split; rename_i heq; refine (have hx : Kept [.regs] s _ := Kept.of_snd heq ?_; ?_); (on_goal 2 => clear heq))
    | (split; rename_i heq; refine (have hx : Kept [.regs] s _ := Kept.of_thd heq ?_; ?_); (on_goal 2 => clear heq))

theorem writeReg_kept (s : State) (m : ℕ) (off : ℕ) (v : ℕ) (full : Bool) :
    Kept partsWrite s (writeReg s m off v full) := by
  unfold writeReg
  repeat' first
    | with_reducible exact Kept.refl _ _
    | with_reducible assumption
    | intro (_h : Kept _ _ _)
    | intro y
    | decide
    | with_reducible apply hf
    | (with_reducible apply Kept.step; (on_goal 2 => first
        | with_reducible apply State.bump_kept
        | with_reducible apply State.addrError_kept
        | with_reducible apply kvWindow_kept
        | with_reducible apply writeWord_kept
        | with_reducible apply writeDoorbell_kept
        | with_reducible apply writeMsix_kept
        | with_reducible apply writeAlias_kept
        | with_reducible apply domainAbort_kept))
    | with_reducible apply Kept.ite
    | with_reducible apply Kept.ite₂
    | with_reducible apply Kept.ite₃
    | with_reducible apply Kept.iteW
    | with_reducible apply Kept.foldl
    | with_reducible apply Kept.foldl₂
    | with_reducible apply Kept.foldl₃
    | with_reducible refine Kept.of_snd (by assumption) ?_
    | with_reducible refine Kept.of_done (by assumption) ?_
    | with_reducible refine Kept.of_fault (by assumption) ?_
    | with_reducible refine Kept.of_wait (by assumption) ?_
    | with_reducible refine Kept.of_thd (by assumption) ?_
    | split

theorem readFor_kept (s : State) (m : ℕ) (off : ℕ) :
    Kept [.regs, .masters, .mortar, .errLog, .errOverflow] s (readFor s m off) := by
  unfold readFor
  repeat' first
    | with_reducible exact Kept.refl _ _
    | with_reducible assumption
    | intro (_h : Kept _ _ _)
    | intro y
    | decide
    | with_reducible apply hf
    | (with_reducible apply Kept.step; (on_goal 2 => first
        | with_reducible apply readReg_kept
        | with_reducible apply State.returnRead_kept
        | with_reducible apply State.addrError_kept))
    | with_reducible apply Kept.ite
    | (split; rename_i heq; refine (have hx : Kept [.regs, .masters, .mortar, .errLog, .errOverflow] s _ := Kept.of_snd heq ?_; ?_); (on_goal 2 => clear heq))
    | (split; rename_i heq; refine (have hx : Kept [.regs, .masters, .mortar, .errLog, .errOverflow] s _ := Kept.of_thd heq ?_; ?_); (on_goal 2 => clear heq))

theorem namedWrite_kept (s : State) (m : ℕ) (off : ℕ) (v : ℕ) :
    Kept partsWrite s (namedWrite s m off v) := by
  unfold namedWrite
  repeat' first
    | with_reducible exact Kept.refl _ _
    | with_reducible assumption
    | intro (_h : Kept _ _ _)
    | intro y
    | decide
    | with_reducible apply hf
    | (with_reducible apply Kept.step; (on_goal 2 => with_reducible apply writeReg_kept))
    | with_reducible apply Kept.ite
    | (split; rename_i heq; refine (have hx : Kept partsWrite s _ := Kept.of_snd heq ?_; ?_); (on_goal 2 => clear heq))
    | (split; rename_i heq; refine (have hx : Kept partsWrite s _ := Kept.of_thd heq ?_; ?_); (on_goal 2 => clear heq))

theorem namedRead_kept (s : State) (m : ℕ) (off : ℕ) :
    Kept [.regs, .masters, .mortar, .errLog, .errOverflow] s (namedRead s m off) := by
  unfold namedRead
  repeat' first
    | with_reducible exact Kept.refl _ _
    | with_reducible assumption
    | intro (_h : Kept _ _ _)
    | intro y
    | decide
    | with_reducible apply hf
    | (with_reducible apply Kept.step; (on_goal 2 => with_reducible apply readFor_kept))
    | with_reducible apply Kept.ite
    | (split; rename_i heq; refine (have hx : Kept [.regs, .masters, .mortar, .errLog, .errOverflow] s _ := Kept.of_snd heq ?_; ?_); (on_goal 2 => clear heq))
    | (split; rename_i heq; refine (have hx : Kept [.regs, .masters, .mortar, .errLog, .errOverflow] s _ := Kept.of_thd heq ?_; ?_); (on_goal 2 => clear heq))

end Sys2Proof.Machine
end

