-- ==== Sys2Proof/Laws/FrameTest.lean ====
section
/-! SUPPORT. Frames of the operations of Machine/Test.lean. -/

namespace Sys2Proof.Machine

theorem testAnswer_kept (s : State) (b : List Byte) (status : ℕ) (result : ℕ) :
    Kept [.mgmt] s (testAnswer s b status result) := by
  unfold testAnswer
  repeat' first
    | with_reducible exact Kept.refl _ _
    | with_reducible assumption
    | intro (_h : Kept _ _ _)
    | intro y
    | decide
    | with_reducible apply hf
    | (with_reducible apply Kept.step; (on_goal 2 => with_reducible apply mgmtSend_kept))
    | (split; rename_i heq; refine (have hx : Kept [.mgmt] s _ := Kept.of_snd heq ?_; ?_); (on_goal 2 => clear heq))
    | (split; rename_i heq; refine (have hx : Kept [.mgmt] s _ := Kept.of_thd heq ?_; ?_); (on_goal 2 => clear heq))

theorem testBegin_kept (s : State) (b : List Byte) :
    Kept [.tests] s (testBegin s b) := by
  unfold testBegin
  repeat' first
    | with_reducible exact Kept.refl _ _
    | with_reducible assumption
    | intro (_h : Kept _ _ _)
    | intro y
    | decide
    | with_reducible apply hf
    | with_reducible apply Kept.ite
    | with_reducible apply Kept.ite₂
    | with_reducible apply Kept.ite₃
    | with_reducible apply Kept.iteW
    | with_reducible apply Kept.foldl
    | with_reducible apply Kept.foldl₂
    | with_reducible apply Kept.foldl₃
    | with_reducible refine Kept.of_snd (by assumption) ?_
    | with_reducible refine Kept.of_done (by assumption) ?_
    | with_reducible refine Kept.of_fault (by assumption) ?_
    | with_reducible refine Kept.of_wait (by assumption) ?_
    | with_reducible refine Kept.of_thd (by assumption) ?_
    | split
    | (with_reducible apply Kept.step; (on_goal 2 => with_reducible apply Kept.set_tests))

theorem testRequest_kept (s : State) (op : ℕ) (b : List Byte) (k : State → State) {kps : List Part} {s0 : State} (hm : partsIn [.mgmt] kps = true) (h0 : Kept kps s0 s) (hk : ∀ y0, Kept kps s0 y0 → Kept kps s0 (k y0)) :
    Kept kps s0 (testRequest s op b k) := by
  unfold testRequest
  repeat' first
    | with_reducible exact Kept.refl _ _
    | with_reducible assumption
    | intro (_h : Kept _ _ _)
    | ((try lift_lets); intro x; refine (have hx : Kept kps s0 x := ?_; ?_); (on_goal 1 => subst x); (on_goal 2 => clear_value x))
    | ((try lift_lets); intro x; clear_value x)
    | intro y
    | exact partsIn_trans (by decide) hm
    | with_reducible apply hk
    | with_reducible apply hf
    | (with_reducible apply Kept.step; (on_goal 2 => with_reducible apply testAnswer_kept))
    | with_reducible apply Kept.ite
    | with_reducible apply Kept.ite₂
    | with_reducible apply Kept.ite₃
    | with_reducible apply Kept.iteW
    | with_reducible apply Kept.foldl
    | with_reducible apply Kept.foldl₂
    | with_reducible apply Kept.foldl₃
    | with_reducible refine Kept.of_snd (by assumption) ?_
    | with_reducible refine Kept.of_done (by assumption) ?_
    | with_reducible refine Kept.of_fault (by assumption) ?_
    | with_reducible refine Kept.of_wait (by assumption) ?_
    | with_reducible refine Kept.of_thd (by assumption) ?_
    | split
    | (with_reducible apply Kept.step; (on_goal 2 => with_reducible apply Kept.set_mgmt))

theorem tileFenced_kept (s : State) (t : ℕ) :
    Kept [.regs, .mem, .poison, .hostMem, .tiles, .mortar, .errLog, .errOverflow, .ctxs, .trust, .mgmt, .tests, .msix, .msixSent, .regPosted] s (tileFenced s t) := by
  unfold tileFenced
  repeat' first
    | with_reducible exact Kept.refl _ _
    | with_reducible assumption
    | intro (_h : Kept _ _ _)
    | ((try lift_lets); intro x; refine (have hx : Kept [.regs, .mem, .poison, .hostMem, .tiles, .mortar, .errLog, .errOverflow, .ctxs, .trust, .mgmt, .tests, .msix, .msixSent, .regPosted] s x := ?_; ?_); (on_goal 1 => subst x); (on_goal 2 => clear_value x))
    | ((try lift_lets); intro x; clear_value x)
    | intro y
    | decide
    | with_reducible apply hf
    | (with_reducible apply Kept.step; (on_goal 2 => first
        | with_reducible apply State.modTile_kept
        | with_reducible apply pointPut_kept
        | with_reducible apply testDone_kept
        | with_reducible apply repairEvent_kept))
    | with_reducible apply Kept.ite
    | with_reducible apply Kept.ite₂
    | with_reducible apply Kept.ite₃
    | with_reducible apply Kept.iteW
    | with_reducible apply Kept.foldl
    | with_reducible apply Kept.foldl₂
    | with_reducible apply Kept.foldl₃
    | with_reducible refine Kept.of_snd (by assumption) ?_
    | with_reducible refine Kept.of_done (by assumption) ?_
    | with_reducible refine Kept.of_fault (by assumption) ?_
    | with_reducible refine Kept.of_wait (by assumption) ?_
    | with_reducible refine Kept.of_thd (by assumption) ?_
    | split
    | (with_reducible apply Kept.step; (on_goal 2 => with_reducible apply Kept.set_tests))

theorem tileFence_kept (s : State) (t : ℕ) :
    Kept [.regs, .mem, .poison, .hostMem, .tiles, .mortar, .errLog, .errOverflow, .ctxs, .trust, .mgmt, .tests, .msix, .msixSent, .regPosted] s (tileFence s t) := by
  unfold tileFence
  repeat' first
    | with_reducible exact Kept.refl _ _
    | with_reducible assumption
    | intro (_h : Kept _ _ _)
    | ((try lift_lets); intro x; refine (have hx : Kept [.regs, .mem, .poison, .hostMem, .tiles, .mortar, .errLog, .errOverflow, .ctxs, .trust, .mgmt, .tests, .msix, .msixSent, .regPosted] s x := ?_; ?_); (on_goal 1 => subst x); (on_goal 2 => clear_value x))
    | intro y
    | decide
    | with_reducible apply hf
    | (with_reducible apply Kept.step; (on_goal 2 => first
        | with_reducible apply State.modTile_kept
        | with_reducible apply tileFenced_kept))
    | with_reducible apply Kept.ite
    | (split; rename_i heq; refine (have hx : Kept [.regs, .mem, .poison, .hostMem, .tiles, .mortar, .errLog, .errOverflow, .ctxs, .trust, .mgmt, .tests, .msix, .msixSent, .regPosted] s _ := Kept.of_snd heq ?_; ?_); (on_goal 2 => clear heq))
    | (split; rename_i heq; refine (have hx : Kept [.regs, .mem, .poison, .hostMem, .tiles, .mortar, .errLog, .errOverflow, .ctxs, .trust, .mgmt, .tests, .msix, .msixSent, .regPosted] s _ := Kept.of_thd heq ?_; ?_); (on_goal 2 => clear heq))

theorem laneSwap_kept (s : State) (p : ℕ) (f : ℕ) (spare : ℕ) :
    Kept [.regs, .mem, .poison, .hostMem, .time, .mortar, .errLog, .errOverflow, .ctxs, .links, .msix, .msixSent, .regPosted] s (laneSwap s p f spare) := by
  unfold laneSwap
  repeat' first
    | with_reducible exact Kept.refl _ _
    | with_reducible assumption
    | intro (_h : Kept _ _ _)
    | ((try lift_lets); intro x; clear_value x)
    | intro y
    | decide
    | with_reducible apply hf
    | (with_reducible apply Kept.step; (on_goal 2 => first
        | with_reducible apply State.bump_kept
        | with_reducible apply State.setPort_kept
        | with_reducible apply recheckPort_kept))
    | (split; rename_i heq; refine (have hx : Kept [.regs, .mem, .poison, .hostMem, .time, .mortar, .errLog, .errOverflow, .ctxs, .links, .msix, .msixSent, .regPosted] s _ := Kept.of_snd heq ?_; ?_); (on_goal 2 => clear heq))
    | (split; rename_i heq; refine (have hx : Kept [.regs, .mem, .poison, .hostMem, .time, .mortar, .errLog, .errOverflow, .ctxs, .links, .msix, .msixSent, .regPosted] s _ := Kept.of_thd heq ?_; ?_); (on_goal 2 => clear heq))

theorem laneFence_kept (s : State) (b : List Byte) :
    Kept [.regs, .mem, .poison, .hostMem, .time, .mortar, .errLog, .errOverflow, .ctxs, .links, .trust, .mgmt, .msix, .msixSent, .regPosted] s (laneFence s b) := by
  unfold laneFence
  repeat' first
    | with_reducible exact Kept.refl _ _
    | with_reducible assumption
    | intro (_h : Kept _ _ _)
    | ((try lift_lets); intro x; clear_value x)
    | intro y
    | decide
    | with_reducible apply hf
    | (with_reducible apply Kept.step; (on_goal 2 => first
        | with_reducible apply State.setPort_kept
        | with_reducible apply pointPut_kept
        | with_reducible apply repairEvent_kept
        | with_reducible apply testAnswer_kept
        | with_reducible apply laneSwap_kept))
    | with_reducible apply Kept.ite
    | (split; rename_i heq; refine (have hx : Kept [.regs, .mem, .poison, .hostMem, .time, .mortar, .errLog, .errOverflow, .ctxs, .links, .trust, .mgmt, .msix, .msixSent, .regPosted] s _ := Kept.of_snd heq ?_; ?_); (on_goal 2 => clear heq))
    | (split; rename_i heq; refine (have hx : Kept [.regs, .mem, .poison, .hostMem, .time, .mortar, .errLog, .errOverflow, .ctxs, .links, .trust, .mgmt, .msix, .msixSent, .regPosted] s _ := Kept.of_thd heq ?_; ?_); (on_goal 2 => clear heq))

theorem engineFence_kept (s : State) (e : ℕ) :
    Kept [.kiln, .trust, .mgmt, .tests] s (engineFence s e) := by
  unfold engineFence
  repeat' first
    | with_reducible exact Kept.refl _ _
    | with_reducible assumption
    | intro (_h : Kept _ _ _)
    | ((try lift_lets); intro x; refine (have hx : Kept [.kiln, .trust, .mgmt, .tests] s x := ?_; ?_); (on_goal 1 => subst x); (on_goal 2 => clear_value x))
    | intro y
    | decide
    | with_reducible apply hf
    | (with_reducible apply Kept.step; (on_goal 2 => first
        | with_reducible apply State.modKiln_kept
        | with_reducible apply engineOut_kept))
    | with_reducible apply Kept.ite
    | (split; rename_i heq; refine (have hx : Kept [.kiln, .trust, .mgmt, .tests] s _ := Kept.of_snd heq ?_; ?_); (on_goal 2 => clear heq))
    | (split; rename_i heq; refine (have hx : Kept [.kiln, .trust, .mgmt, .tests] s _ := Kept.of_thd heq ?_; ?_); (on_goal 2 => clear heq))

theorem fenceElement_kept (s : State) (b : List Byte) :
    Kept [.regs, .mem, .poison, .hostMem, .time, .tiles, .chans, .mortar, .errLog, .errOverflow, .ctxs, .kiln, .links, .trust, .mgmt, .tests, .msix, .msixSent, .regPosted] s (fenceElement s b) := by
  unfold fenceElement
  repeat' first
    | with_reducible exact Kept.refl _ _
    | with_reducible assumption
    | intro (_h : Kept _ _ _)
    | ((try lift_lets); intro x; clear_value x)
    | intro y
    | decide
    | with_reducible apply hf
    | (with_reducible apply Kept.step; (on_goal 2 => first
        | with_reducible apply fenceChan_kept
        | with_reducible apply testAnswer_kept
        | with_reducible apply testBegin_kept
        | with_reducible apply tileFence_kept
        | with_reducible apply laneFence_kept
        | with_reducible apply engineFence_kept))
    | with_reducible apply Kept.ite
    | (split; rename_i heq; refine (have hx : Kept [.regs, .mem, .poison, .hostMem, .time, .tiles, .chans, .mortar, .errLog, .errOverflow, .ctxs, .kiln, .links, .trust, .mgmt, .tests, .msix, .msixSent, .regPosted] s _ := Kept.of_snd heq ?_; ?_); (on_goal 2 => clear heq))
    | (split; rename_i heq; refine (have hx : Kept [.regs, .mem, .poison, .hostMem, .time, .tiles, .chans, .mortar, .errLog, .errOverflow, .ctxs, .kiln, .links, .trust, .mgmt, .tests, .msix, .msixSent, .regPosted] s _ := Kept.of_thd heq ?_; ?_); (on_goal 2 => clear heq))

theorem laneUnfence_kept (s : State) (id : ℕ) :
    Kept [.regs, .mem, .poison, .hostMem, .time, .mortar, .errLog, .errOverflow, .ctxs, .links, .trust, .msix, .msixSent, .regPosted] s (laneUnfence s id) := by
  unfold laneUnfence
  repeat' first
    | with_reducible exact Kept.refl _ _
    | with_reducible assumption
    | intro (_h : Kept _ _ _)
    | ((try lift_lets); intro x; clear_value x)
    | intro y
    | decide
    | with_reducible apply hf
    | (with_reducible apply Kept.step; (on_goal 2 => first
        | with_reducible apply State.setPort_kept
        | with_reducible apply pointPut_kept
        | with_reducible apply laneSwap_kept))
    | with_reducible apply Kept.ite
    | (split; rename_i heq; refine (have hx : Kept [.regs, .mem, .poison, .hostMem, .time, .mortar, .errLog, .errOverflow, .ctxs, .links, .trust, .msix, .msixSent, .regPosted] s _ := Kept.of_snd heq ?_; ?_); (on_goal 2 => clear heq))
    | (split; rename_i heq; refine (have hx : Kept [.regs, .mem, .poison, .hostMem, .time, .mortar, .errLog, .errOverflow, .ctxs, .links, .trust, .msix, .msixSent, .regPosted] s _ := Kept.of_thd heq ?_; ?_); (on_goal 2 => clear heq))

theorem unfenceElement_kept (s : State) (b : List Byte) :
    Kept [.regs, .mem, .poison, .hostMem, .time, .tiles, .chans, .mortar, .errLog, .errOverflow, .ctxs, .kiln, .links, .trust, .mgmt, .msix, .msixSent, .regPosted] s (unfenceElement s b) := by
  unfold unfenceElement
  repeat' first
    | with_reducible exact Kept.refl _ _
    | with_reducible assumption
    | intro (_h : Kept _ _ _)
    | ((try lift_lets); intro x; clear_value x)
    | intro y
    | decide
    | with_reducible apply hf
    | (with_reducible apply Kept.step; (on_goal 2 => first
        | with_reducible apply State.modTile_kept
        | with_reducible apply pointPut_kept
        | with_reducible apply pointChan_kept
        | with_reducible apply State.modChan_kept
        | with_reducible apply State.modKiln_kept
        | with_reducible apply testAnswer_kept
        | with_reducible apply laneUnfence_kept))
    | with_reducible apply Kept.ite
    | (split; rename_i heq; refine (have hx : Kept [.regs, .mem, .poison, .hostMem, .time, .tiles, .chans, .mortar, .errLog, .errOverflow, .ctxs, .kiln, .links, .trust, .mgmt, .msix, .msixSent, .regPosted] s _ := Kept.of_snd heq ?_; ?_); (on_goal 2 => clear heq))
    | (split; rename_i heq; refine (have hx : Kept [.regs, .mem, .poison, .hostMem, .time, .tiles, .chans, .mortar, .errLog, .errOverflow, .ctxs, .kiln, .links, .trust, .mgmt, .msix, .msixSent, .regPosted] s _ := Kept.of_thd heq ?_; ?_); (on_goal 2 => clear heq))

theorem selftestElement_kept (s : State) (b : List Byte) :
    Kept [.mgmt, .tests] s (selftestElement s b) := by
  unfold selftestElement
  repeat' first
    | with_reducible exact Kept.refl _ _
    | with_reducible assumption
    | intro (_h : Kept _ _ _)
    | intro y
    | decide
    | with_reducible apply hf
    | (with_reducible apply Kept.step; (on_goal 2 => first
        | with_reducible apply testAnswer_kept
        | with_reducible apply testBegin_kept))
    | with_reducible apply Kept.ite
    | (split; rename_i heq; refine (have hx : Kept [.mgmt, .tests] s _ := Kept.of_snd heq ?_; ?_); (on_goal 2 => clear heq))
    | (split; rename_i heq; refine (have hx : Kept [.mgmt, .tests] s _ := Kept.of_thd heq ?_; ?_); (on_goal 2 => clear heq))

theorem restoredEntry_kept (s : State) (t : ℕ) (rate : ℕ) :
    Kept [.tiles, .power, .trust] s (restoredEntry s t rate) := by
  unfold restoredEntry
  repeat' first
    | with_reducible exact Kept.refl _ _
    | with_reducible assumption
    | intro (_h : Kept _ _ _)
    | ((try lift_lets); intro x; refine (have hx : Kept [.tiles, .power, .trust] s x := ?_; ?_); (on_goal 1 => subst x); (on_goal 2 => clear_value x))
    | ((try lift_lets); intro x; clear_value x)
    | intro y
    | decide
    | with_reducible apply hf
    | (with_reducible apply Kept.step; (on_goal 2 => first
        | with_reducible apply State.modTile_kept
        | with_reducible apply storePut_kept
        | with_reducible apply State.modPower_kept))
    | (split; rename_i heq; refine (have hx : Kept [.tiles, .power, .trust] s _ := Kept.of_snd heq ?_; ?_); (on_goal 2 => clear heq))
    | (split; rename_i heq; refine (have hx : Kept [.tiles, .power, .trust] s _ := Kept.of_thd heq ?_; ?_); (on_goal 2 => clear heq))

theorem testTrained_kept (s : State) (ch : ℕ) (sweep : PinSweep) :
    Kept [.freeCtr, .chans, .errLog, .errOverflow, .trust] s (testTrained s ch sweep) := by
  unfold testTrained
  repeat' first
    | with_reducible exact Kept.refl _ _
    | with_reducible assumption
    | intro (_h : Kept _ _ _)
    | intro y
    | decide
    | with_reducible apply hf
    | (with_reducible apply Kept.step; (on_goal 2 => first
        | with_reducible apply State.setChan_kept
        | with_reducible apply State.draw_kept
        | with_reducible apply logErr_kept
        | with_reducible apply pointChan_kept))
    | with_reducible apply Kept.ite
    | (split; rename_i heq; refine (have hx : Kept [.freeCtr, .chans, .errLog, .errOverflow, .trust] s _ := Kept.of_snd heq ?_; ?_); (on_goal 2 => clear heq))
    | (split; rename_i heq; refine (have hx : Kept [.freeCtr, .chans, .errLog, .errOverflow, .trust] s _ := Kept.of_thd heq ?_; ?_); (on_goal 2 => clear heq))

theorem channelTested_kept (s : State) (ch : Nat) (sweep : PinSweep) (depth pass : Bool) :
    Kept [.freeCtr, .mem, .poison, .chans, .errLog, .errOverflow, .trust] s (channelTested s ch sweep depth pass) := by
  have h1 (x : State) (hx : Kept [.freeCtr, .mem, .poison, .chans, .errLog, .errOverflow, .trust] s x) (a n : Nat) (p : Nat → Bool) :
      Kept [.freeCtr, .mem, .poison, .chans, .errLog, .errOverflow, .trust] s { x with mem := x.mem.fill a n .zero, poison := x.poison.filter p } :=
    (hx.trans ((Kept.set_poison x _ (rising_filter p)).weaken (by decide))).trans
      ((Kept.set_mem { x with poison := x.poison.filter p } _ (fill_wf a n .zero)).weaken (by decide))
  unfold channelTested
  lift_lets
  intro s1 s2
  have h2 : Kept [.freeCtr, .mem, .poison, .chans, .errLog, .errOverflow, .trust] s s1 := (testTrained_kept s ch sweep).weaken (by decide)
  have h3 : Kept [.freeCtr, .mem, .poison, .chans, .errLog, .errOverflow, .trust] s s2 := Kept.ite (h1 _ h2 _ _ _) h2
  exact Kept.ite (h3.step (State.modChan_kept s2 ch _) (by decide)) h3

theorem selftestEffect_kept (s : State) (kind : ℕ) (id : ℕ) (rate : ℕ) (sweep : PinSweep) (depth : Bool) (pass : Bool) :
    Kept [.freeCtr, .mem, .poison, .tiles, .chans, .errLog, .errOverflow, .power, .trust] s (selftestEffect s kind id rate sweep depth pass) := by
  unfold selftestEffect
  repeat' first
    | with_reducible exact Kept.refl _ _
    | with_reducible assumption
    | intro (_h : Kept _ _ _)
    | ((try lift_lets); intro x; refine (have hx : Kept [.freeCtr, .mem, .poison, .tiles, .chans, .errLog, .errOverflow, .power, .trust] s x := ?_; ?_); (on_goal 1 => subst x); (on_goal 2 => clear_value x))
    | intro y
    | decide
    | with_reducible apply hf
    | (with_reducible apply Kept.step; (on_goal 2 => first
        | with_reducible apply State.undefine_kept
        | with_reducible apply restoredEntry_kept
        | with_reducible apply channelTested_kept))
    | with_reducible apply Kept.ite
    | (split; rename_i heq; refine (have hx : Kept [.freeCtr, .mem, .poison, .tiles, .chans, .errLog, .errOverflow, .power, .trust] s _ := Kept.of_snd heq ?_; ?_); (on_goal 2 => clear heq))
    | (split; rename_i heq; refine (have hx : Kept [.freeCtr, .mem, .poison, .tiles, .chans, .errLog, .errOverflow, .power, .trust] s _ := Kept.of_thd heq ?_; ?_); (on_goal 2 => clear heq))

theorem selftestEnd_kept (s : State) (kind : ℕ) (id : ℕ) (result : ℕ) (rate : ℕ) (ber : ℕ) (sweep : PinSweep) (readback : Bool) :
    Kept [.freeCtr, .regs, .mem, .poison, .hostMem, .tiles, .chans, .mortar, .errLog, .errOverflow, .ctxs, .power, .trust, .mgmt, .tests, .msix, .msixSent, .regPosted] s (selftestEnd s kind id result rate ber sweep readback) := by
  unfold selftestEnd
  repeat' first
    | with_reducible exact Kept.refl _ _
    | with_reducible assumption
    | intro (_h : Kept _ _ _)
    | ((try lift_lets); intro x; refine (have hx : Kept [.freeCtr, .regs, .mem, .poison, .hostMem, .tiles, .chans, .mortar, .errLog, .errOverflow, .ctxs, .power, .trust, .mgmt, .tests, .msix, .msixSent, .regPosted] s x := ?_; ?_); (on_goal 1 => subst x); (on_goal 2 => clear_value x))
    | ((try lift_lets); intro x; clear_value x)
    | intro y
    | decide
    | with_reducible apply hf
    | (with_reducible apply Kept.step; (on_goal 2 => first
        | with_reducible apply testDone_kept
        | with_reducible apply repairEvent_kept
        | with_reducible apply selftestEffect_kept))
    | with_reducible apply Kept.ite
    | with_reducible apply Kept.ite₂
    | with_reducible apply Kept.ite₃
    | with_reducible apply Kept.iteW
    | with_reducible apply Kept.foldl
    | with_reducible apply Kept.foldl₂
    | with_reducible apply Kept.foldl₃
    | with_reducible refine Kept.of_snd (by assumption) ?_
    | with_reducible refine Kept.of_done (by assumption) ?_
    | with_reducible refine Kept.of_fault (by assumption) ?_
    | with_reducible refine Kept.of_wait (by assumption) ?_
    | with_reducible refine Kept.of_thd (by assumption) ?_
    | split

theorem replicaSample_kept (s : State) (t : ℕ) (rate : ℕ) :
    Kept [.regs, .mem, .poison, .hostMem, .tiles, .mortar, .errLog, .errOverflow, .ctxs, .power, .trust, .mgmt, .tests, .msix, .msixSent, .regPosted] s (replicaSample s t rate) := by
  unfold replicaSample
  repeat' first
    | with_reducible exact Kept.refl _ _
    | with_reducible assumption
    | intro (_h : Kept _ _ _)
    | ((try lift_lets); intro x; refine (have hx : Kept [.regs, .mem, .poison, .hostMem, .tiles, .mortar, .errLog, .errOverflow, .ctxs, .power, .trust, .mgmt, .tests, .msix, .msixSent, .regPosted] s x := ?_; ?_); (on_goal 1 => subst x); (on_goal 2 => clear_value x))
    | ((try lift_lets); intro x; clear_value x)
    | intro y
    | decide
    | with_reducible apply hf
    | (with_reducible apply Kept.step; (on_goal 2 => first
        | with_reducible apply State.bump_kept
        | with_reducible apply storePut_kept
        | with_reducible apply State.modPower_kept
        | with_reducible apply tileFence_kept))
    | with_reducible apply Kept.ite
    | with_reducible apply Kept.ite₂
    | with_reducible apply Kept.ite₃
    | with_reducible apply Kept.iteW
    | with_reducible apply Kept.foldl
    | with_reducible apply Kept.foldl₂
    | with_reducible apply Kept.foldl₃
    | with_reducible refine Kept.of_snd (by assumption) ?_
    | with_reducible refine Kept.of_done (by assumption) ?_
    | with_reducible refine Kept.of_fault (by assumption) ?_
    | with_reducible refine Kept.of_wait (by assumption) ?_
    | with_reducible refine Kept.of_thd (by assumption) ?_
    | split
    | (with_reducible apply Kept.step; (on_goal 2 => with_reducible apply Kept.set_tests))

theorem spallElement_kept (s : State) (b : List Byte) :
    Kept [.nextId, .regs, .mem, .poison, .hostMem, .time, .tiles, .chans, .mortar, .errLog, .errOverflow, .ctxs, .trust, .mgmt, .tests, .detourAvoid, .detourGen, .msix, .msixSent, .regPosted] s (spallElement s b) := by
  have h1 (x : List Nat) (n : Nat) : Kept [.nextId, .regs, .mem, .poison, .hostMem, .time, .tiles, .chans, .mortar, .errLog, .errOverflow, .ctxs, .trust, .mgmt, .tests, .detourAvoid, .detourGen, .msix, .msixSent, .regPosted] s { s with detourAvoid := x, detourGen := n } :=
    (Kept.set_detourAvoid_detourGen s x n).weaken (by decide)
  unfold spallElement
  lift_lets
  intro kind id
  split
  · exact (testAnswer_kept _ _ _ _).weaken (by decide)
  · split
    · exact ((spallChan_kept s id).weaken (by decide)).step (testAnswer_kept _ _ _ _) (by decide)
    · split
      · exact ((Kept.set_trust s _).weaken (qs := [.trust]) (by decide)).step (testAnswer_kept _ _ _ _) (by decide)
      · exact (h1 _ _).step (testBegin_kept _ _) (by decide)

theorem spallTile_kept (s : State) (t : ℕ) :
    Kept [.regs, .mem, .poison, .hostMem, .time, .tiles, .chans, .mortar, .errLog, .errOverflow, .ctxs, .trust, .mgmt, .tests, .msix, .msixSent, .regPosted] s (spallTile s t) := by
  unfold spallTile
  repeat' first
    | with_reducible exact Kept.refl _ _
    | with_reducible assumption
    | intro (_h : Kept _ _ _)
    | ((try lift_lets); intro x; refine (have hx : Kept [.regs, .mem, .poison, .hostMem, .time, .tiles, .chans, .mortar, .errLog, .errOverflow, .ctxs, .trust, .mgmt, .tests, .msix, .msixSent, .regPosted] s x := ?_; ?_); (on_goal 1 => subst x); (on_goal 2 => clear_value x))
    | intro y
    | decide
    | with_reducible apply hf
    | (with_reducible apply Kept.step; (on_goal 2 => first
        | with_reducible apply State.modTile_kept
        | with_reducible apply pointPut_kept
        | with_reducible apply testDone_kept
        | with_reducible apply repairEvent_kept
        | with_reducible apply dropChan_kept))
    | with_reducible apply Kept.ite
    | (split; rename_i heq; refine (have hx : Kept [.regs, .mem, .poison, .hostMem, .time, .tiles, .chans, .mortar, .errLog, .errOverflow, .ctxs, .trust, .mgmt, .tests, .msix, .msixSent, .regPosted] s _ := Kept.of_snd heq ?_; ?_); (on_goal 2 => clear heq))
    | (split; rename_i heq; refine (have hx : Kept [.regs, .mem, .poison, .hostMem, .time, .tiles, .chans, .mortar, .errLog, .errOverflow, .ctxs, .trust, .mgmt, .tests, .msix, .msixSent, .regPosted] s _ := Kept.of_thd heq ?_; ?_); (on_goal 2 => clear heq))

theorem restoreChan_kept (s : State) (ch : ℕ) :
    Kept [.freeCtr, .mem, .poison, .chans, .trust] s (restoreChan s ch) := by
  unfold restoreChan
  repeat' first
    | with_reducible exact Kept.refl _ _
    | with_reducible assumption
    | intro (_h : Kept _ _ _)
    | intro y
    | decide
    | with_reducible apply hf
    | (with_reducible apply Kept.step; (on_goal 2 => first
        | with_reducible apply State.draw_kept
        | with_reducible apply State.undefine_kept
        | with_reducible apply pointChan_kept
        | with_reducible apply State.modChan_kept))
    | (split; rename_i heq; refine (have hx : Kept [.freeCtr, .mem, .poison, .chans, .trust] s _ := Kept.of_snd heq ?_; ?_); (on_goal 2 => clear heq))
    | (split; rename_i heq; refine (have hx : Kept [.freeCtr, .mem, .poison, .chans, .trust] s _ := Kept.of_thd heq ?_; ?_); (on_goal 2 => clear heq))

theorem restoreTile_kept (s : State) (t : ℕ) :
    Kept [.freeCtr, .mem, .poison, .tiles, .chans, .power, .trust] s (restoreTile s t) := by
  unfold restoreTile
  repeat' first
    | with_reducible exact Kept.refl _ _
    | with_reducible assumption
    | intro (_h : Kept _ _ _)
    | ((try lift_lets); intro x; refine (have hx : Kept [.freeCtr, .mem, .poison, .tiles, .chans, .power, .trust] s x := ?_; ?_); (on_goal 1 => subst x); (on_goal 2 => clear_value x))
    | intro y
    | decide
    | with_reducible apply hf
    | (with_reducible apply Kept.step; (on_goal 2 => first
        | with_reducible apply State.modTile_kept
        | with_reducible apply storePut_kept
        | with_reducible apply pointPut_kept
        | with_reducible apply State.modPower_kept
        | with_reducible apply restoreChan_kept))
    | (split; rename_i heq; refine (have hx : Kept [.freeCtr, .mem, .poison, .tiles, .chans, .power, .trust] s _ := Kept.of_snd heq ?_; ?_); (on_goal 2 => clear heq))
    | (split; rename_i heq; refine (have hx : Kept [.freeCtr, .mem, .poison, .tiles, .chans, .power, .trust] s _ := Kept.of_thd heq ?_; ?_); (on_goal 2 => clear heq))

theorem restoreElement_kept (s : State) (b : List Byte) :
    Kept [.freeCtr, .mem, .poison, .tiles, .chans, .power, .trust, .mgmt] s (restoreElement s b) := by
  unfold restoreElement
  repeat' first
    | with_reducible exact Kept.refl _ _
    | with_reducible assumption
    | intro (_h : Kept _ _ _)
    | ((try lift_lets); intro x; clear_value x)
    | intro y
    | decide
    | with_reducible apply hf
    | (with_reducible apply Kept.step; (on_goal 2 => first
        | with_reducible apply testAnswer_kept
        | with_reducible apply restoreChan_kept
        | with_reducible apply restoreTile_kept))
    | with_reducible apply Kept.ite
    | (split; rename_i heq; refine (have hx : Kept [.freeCtr, .mem, .poison, .tiles, .chans, .power, .trust, .mgmt] s _ := Kept.of_snd heq ?_; ?_); (on_goal 2 => clear heq))
    | (split; rename_i heq; refine (have hx : Kept [.freeCtr, .mem, .poison, .tiles, .chans, .power, .trust, .mgmt] s _ := Kept.of_thd heq ?_; ?_); (on_goal 2 => clear heq))

end Sys2Proof.Machine
end

