-- ==== Sys2Proof/Laws/State.lean ====
section
/-! SUPPORT. What each update of the state leaves and what it sets, field by field, so that no proof unfolds a record update. -/

namespace Sys2Proof.Machine

/-! ### State.setTile -/

@[simp] theorem State.setTile_variant (s : State) (t : Nat) (x : Tile) : (s.setTile t x).variant = s.variant := rfl
@[simp] theorem State.setTile_pending (s : State) (t : Nat) (x : Tile) : (s.setTile t x).pending = s.pending := rfl
@[simp] theorem State.setTile_freeCtr (s : State) (t : Nat) (x : Tile) : (s.setTile t x).freeCtr = s.freeCtr := rfl
@[simp] theorem State.setTile_nextId (s : State) (t : Nat) (x : Tile) : (s.setTile t x).nextId = s.nextId := rfl
@[simp] theorem State.setTile_regs (s : State) (t : Nat) (x : Tile) : (s.setTile t x).regs = s.regs := rfl
@[simp] theorem State.setTile_mem (s : State) (t : Nat) (x : Tile) : (s.setTile t x).mem = s.mem := rfl
@[simp] theorem State.setTile_poison (s : State) (t : Nat) (x : Tile) : (s.setTile t x).poison = s.poison := rfl
@[simp] theorem State.setTile_hostMem (s : State) (t : Nat) (x : Tile) : (s.setTile t x).hostMem = s.hostMem := rfl
@[simp] theorem State.setTile_masters (s : State) (t : Nat) (x : Tile) : (s.setTile t x).masters = s.masters := rfl
@[simp] theorem State.setTile_time (s : State) (t : Nat) (x : Tile) : (s.setTile t x).time = s.time := rfl
@[simp] theorem State.setTile_chans (s : State) (t : Nat) (x : Tile) : (s.setTile t x).chans = s.chans := rfl
@[simp] theorem State.setTile_chanBoot (s : State) (t : Nat) (x : Tile) : (s.setTile t x).chanBoot = s.chanBoot := rfl
@[simp] theorem State.setTile_chanGen (s : State) (t : Nat) (x : Tile) : (s.setTile t x).chanGen = s.chanGen := rfl
@[simp] theorem State.setTile_mortar (s : State) (t : Nat) (x : Tile) : (s.setTile t x).mortar = s.mortar := rfl
@[simp] theorem State.setTile_bricks (s : State) (t : Nat) (x : Tile) : (s.setTile t x).bricks = s.bricks := rfl
@[simp] theorem State.setTile_errLog (s : State) (t : Nat) (x : Tile) : (s.setTile t x).errLog = s.errLog := rfl
@[simp] theorem State.setTile_errOverflow (s : State) (t : Nat) (x : Tile) : (s.setTile t x).errOverflow = s.errOverflow := rfl
@[simp] theorem State.setTile_scrubDone (s : State) (t : Nat) (x : Tile) : (s.setTile t x).scrubDone = s.scrubDone := rfl
@[simp] theorem State.setTile_ctxs (s : State) (t : Nat) (x : Tile) : (s.setTile t x).ctxs = s.ctxs := rfl
@[simp] theorem State.setTile_launches (s : State) (t : Nat) (x : Tile) : (s.setTile t x).launches = s.launches := rfl
@[simp] theorem State.setTile_joints (s : State) (t : Nat) (x : Tile) : (s.setTile t x).joints = s.joints := rfl
@[simp] theorem State.setTile_mail (s : State) (t : Nat) (x : Tile) : (s.setTile t x).mail = s.mail := rfl
@[simp] theorem State.setTile_kv (s : State) (t : Nat) (x : Tile) : (s.setTile t x).kv = s.kv := rfl
@[simp] theorem State.setTile_flash (s : State) (t : Nat) (x : Tile) : (s.setTile t x).flash = s.flash := rfl
@[simp] theorem State.setTile_hostReads (s : State) (t : Nat) (x : Tile) : (s.setTile t x).hostReads = s.hostReads := rfl
@[simp] theorem State.setTile_copies (s : State) (t : Nat) (x : Tile) : (s.setTile t x).copies = s.copies := rfl
@[simp] theorem State.setTile_holdup (s : State) (t : Nat) (x : Tile) : (s.setTile t x).holdup = s.holdup := rfl
@[simp] theorem State.setTile_kiln (s : State) (t : Nat) (x : Tile) : (s.setTile t x).kiln = s.kiln := rfl
@[simp] theorem State.setTile_links (s : State) (t : Nat) (x : Tile) : (s.setTile t x).links = s.links := rfl
@[simp] theorem State.setTile_groups (s : State) (t : Nat) (x : Tile) : (s.setTile t x).groups = s.groups := rfl
@[simp] theorem State.setTile_colls (s : State) (t : Nat) (x : Tile) : (s.setTile t x).colls = s.colls := rfl
@[simp] theorem State.setTile_idle (s : State) (t : Nat) (x : Tile) : (s.setTile t x).idle = s.idle := rfl
@[simp] theorem State.setTile_conts (s : State) (t : Nat) (x : Tile) : (s.setTile t x).conts = s.conts := rfl
@[simp] theorem State.setTile_power (s : State) (t : Nat) (x : Tile) : (s.setTile t x).power = s.power := rfl
@[simp] theorem State.setTile_trust (s : State) (t : Nat) (x : Tile) : (s.setTile t x).trust = s.trust := rfl
@[simp] theorem State.setTile_mgmt (s : State) (t : Nat) (x : Tile) : (s.setTile t x).mgmt = s.mgmt := rfl
@[simp] theorem State.setTile_tests (s : State) (t : Nat) (x : Tile) : (s.setTile t x).tests = s.tests := rfl
@[simp] theorem State.setTile_detourAvoid (s : State) (t : Nat) (x : Tile) : (s.setTile t x).detourAvoid = s.detourAvoid := rfl
@[simp] theorem State.setTile_detourGen (s : State) (t : Nat) (x : Tile) : (s.setTile t x).detourGen = s.detourGen := rfl
@[simp] theorem State.setTile_msix (s : State) (t : Nat) (x : Tile) : (s.setTile t x).msix = s.msix := rfl
@[simp] theorem State.setTile_msixSent (s : State) (t : Nat) (x : Tile) : (s.setTile t x).msixSent = s.msixSent := rfl
@[simp] theorem State.setTile_regPosted (s : State) (t : Nat) (x : Tile) : (s.setTile t x).regPosted = s.regPosted := rfl

/-! ### State.modTile -/

@[simp] theorem State.modTile_variant (s : State) (t : Nat) (g : Tile → Tile) : (s.modTile t g).variant = s.variant := rfl
@[simp] theorem State.modTile_pending (s : State) (t : Nat) (g : Tile → Tile) : (s.modTile t g).pending = s.pending := rfl
@[simp] theorem State.modTile_freeCtr (s : State) (t : Nat) (g : Tile → Tile) : (s.modTile t g).freeCtr = s.freeCtr := rfl
@[simp] theorem State.modTile_nextId (s : State) (t : Nat) (g : Tile → Tile) : (s.modTile t g).nextId = s.nextId := rfl
@[simp] theorem State.modTile_regs (s : State) (t : Nat) (g : Tile → Tile) : (s.modTile t g).regs = s.regs := rfl
@[simp] theorem State.modTile_mem (s : State) (t : Nat) (g : Tile → Tile) : (s.modTile t g).mem = s.mem := rfl
@[simp] theorem State.modTile_poison (s : State) (t : Nat) (g : Tile → Tile) : (s.modTile t g).poison = s.poison := rfl
@[simp] theorem State.modTile_hostMem (s : State) (t : Nat) (g : Tile → Tile) : (s.modTile t g).hostMem = s.hostMem := rfl
@[simp] theorem State.modTile_masters (s : State) (t : Nat) (g : Tile → Tile) : (s.modTile t g).masters = s.masters := rfl
@[simp] theorem State.modTile_time (s : State) (t : Nat) (g : Tile → Tile) : (s.modTile t g).time = s.time := rfl
@[simp] theorem State.modTile_chans (s : State) (t : Nat) (g : Tile → Tile) : (s.modTile t g).chans = s.chans := rfl
@[simp] theorem State.modTile_chanBoot (s : State) (t : Nat) (g : Tile → Tile) : (s.modTile t g).chanBoot = s.chanBoot := rfl
@[simp] theorem State.modTile_chanGen (s : State) (t : Nat) (g : Tile → Tile) : (s.modTile t g).chanGen = s.chanGen := rfl
@[simp] theorem State.modTile_mortar (s : State) (t : Nat) (g : Tile → Tile) : (s.modTile t g).mortar = s.mortar := rfl
@[simp] theorem State.modTile_bricks (s : State) (t : Nat) (g : Tile → Tile) : (s.modTile t g).bricks = s.bricks := rfl
@[simp] theorem State.modTile_errLog (s : State) (t : Nat) (g : Tile → Tile) : (s.modTile t g).errLog = s.errLog := rfl
@[simp] theorem State.modTile_errOverflow (s : State) (t : Nat) (g : Tile → Tile) : (s.modTile t g).errOverflow = s.errOverflow := rfl
@[simp] theorem State.modTile_scrubDone (s : State) (t : Nat) (g : Tile → Tile) : (s.modTile t g).scrubDone = s.scrubDone := rfl
@[simp] theorem State.modTile_ctxs (s : State) (t : Nat) (g : Tile → Tile) : (s.modTile t g).ctxs = s.ctxs := rfl
@[simp] theorem State.modTile_launches (s : State) (t : Nat) (g : Tile → Tile) : (s.modTile t g).launches = s.launches := rfl
@[simp] theorem State.modTile_joints (s : State) (t : Nat) (g : Tile → Tile) : (s.modTile t g).joints = s.joints := rfl
@[simp] theorem State.modTile_mail (s : State) (t : Nat) (g : Tile → Tile) : (s.modTile t g).mail = s.mail := rfl
@[simp] theorem State.modTile_kv (s : State) (t : Nat) (g : Tile → Tile) : (s.modTile t g).kv = s.kv := rfl
@[simp] theorem State.modTile_flash (s : State) (t : Nat) (g : Tile → Tile) : (s.modTile t g).flash = s.flash := rfl
@[simp] theorem State.modTile_hostReads (s : State) (t : Nat) (g : Tile → Tile) : (s.modTile t g).hostReads = s.hostReads := rfl
@[simp] theorem State.modTile_copies (s : State) (t : Nat) (g : Tile → Tile) : (s.modTile t g).copies = s.copies := rfl
@[simp] theorem State.modTile_holdup (s : State) (t : Nat) (g : Tile → Tile) : (s.modTile t g).holdup = s.holdup := rfl
@[simp] theorem State.modTile_kiln (s : State) (t : Nat) (g : Tile → Tile) : (s.modTile t g).kiln = s.kiln := rfl
@[simp] theorem State.modTile_links (s : State) (t : Nat) (g : Tile → Tile) : (s.modTile t g).links = s.links := rfl
@[simp] theorem State.modTile_groups (s : State) (t : Nat) (g : Tile → Tile) : (s.modTile t g).groups = s.groups := rfl
@[simp] theorem State.modTile_colls (s : State) (t : Nat) (g : Tile → Tile) : (s.modTile t g).colls = s.colls := rfl
@[simp] theorem State.modTile_idle (s : State) (t : Nat) (g : Tile → Tile) : (s.modTile t g).idle = s.idle := rfl
@[simp] theorem State.modTile_conts (s : State) (t : Nat) (g : Tile → Tile) : (s.modTile t g).conts = s.conts := rfl
@[simp] theorem State.modTile_power (s : State) (t : Nat) (g : Tile → Tile) : (s.modTile t g).power = s.power := rfl
@[simp] theorem State.modTile_trust (s : State) (t : Nat) (g : Tile → Tile) : (s.modTile t g).trust = s.trust := rfl
@[simp] theorem State.modTile_mgmt (s : State) (t : Nat) (g : Tile → Tile) : (s.modTile t g).mgmt = s.mgmt := rfl
@[simp] theorem State.modTile_tests (s : State) (t : Nat) (g : Tile → Tile) : (s.modTile t g).tests = s.tests := rfl
@[simp] theorem State.modTile_detourAvoid (s : State) (t : Nat) (g : Tile → Tile) : (s.modTile t g).detourAvoid = s.detourAvoid := rfl
@[simp] theorem State.modTile_detourGen (s : State) (t : Nat) (g : Tile → Tile) : (s.modTile t g).detourGen = s.detourGen := rfl
@[simp] theorem State.modTile_msix (s : State) (t : Nat) (g : Tile → Tile) : (s.modTile t g).msix = s.msix := rfl
@[simp] theorem State.modTile_msixSent (s : State) (t : Nat) (g : Tile → Tile) : (s.modTile t g).msixSent = s.msixSent := rfl
@[simp] theorem State.modTile_regPosted (s : State) (t : Nat) (g : Tile → Tile) : (s.modTile t g).regPosted = s.regPosted := rfl

/-! ### State.setChan -/

@[simp] theorem State.setChan_variant (s : State) (c : Nat) (x : Chan) : (s.setChan c x).variant = s.variant := rfl
@[simp] theorem State.setChan_pending (s : State) (c : Nat) (x : Chan) : (s.setChan c x).pending = s.pending := rfl
@[simp] theorem State.setChan_freeCtr (s : State) (c : Nat) (x : Chan) : (s.setChan c x).freeCtr = s.freeCtr := rfl
@[simp] theorem State.setChan_nextId (s : State) (c : Nat) (x : Chan) : (s.setChan c x).nextId = s.nextId := rfl
@[simp] theorem State.setChan_regs (s : State) (c : Nat) (x : Chan) : (s.setChan c x).regs = s.regs := rfl
@[simp] theorem State.setChan_mem (s : State) (c : Nat) (x : Chan) : (s.setChan c x).mem = s.mem := rfl
@[simp] theorem State.setChan_poison (s : State) (c : Nat) (x : Chan) : (s.setChan c x).poison = s.poison := rfl
@[simp] theorem State.setChan_hostMem (s : State) (c : Nat) (x : Chan) : (s.setChan c x).hostMem = s.hostMem := rfl
@[simp] theorem State.setChan_masters (s : State) (c : Nat) (x : Chan) : (s.setChan c x).masters = s.masters := rfl
@[simp] theorem State.setChan_time (s : State) (c : Nat) (x : Chan) : (s.setChan c x).time = s.time := rfl
@[simp] theorem State.setChan_tiles (s : State) (c : Nat) (x : Chan) : (s.setChan c x).tiles = s.tiles := rfl
@[simp] theorem State.setChan_chanBoot (s : State) (c : Nat) (x : Chan) : (s.setChan c x).chanBoot = s.chanBoot := rfl
@[simp] theorem State.setChan_chanGen (s : State) (c : Nat) (x : Chan) : (s.setChan c x).chanGen = s.chanGen := rfl
@[simp] theorem State.setChan_mortar (s : State) (c : Nat) (x : Chan) : (s.setChan c x).mortar = s.mortar := rfl
@[simp] theorem State.setChan_bricks (s : State) (c : Nat) (x : Chan) : (s.setChan c x).bricks = s.bricks := rfl
@[simp] theorem State.setChan_errLog (s : State) (c : Nat) (x : Chan) : (s.setChan c x).errLog = s.errLog := rfl
@[simp] theorem State.setChan_errOverflow (s : State) (c : Nat) (x : Chan) : (s.setChan c x).errOverflow = s.errOverflow := rfl
@[simp] theorem State.setChan_scrubDone (s : State) (c : Nat) (x : Chan) : (s.setChan c x).scrubDone = s.scrubDone := rfl
@[simp] theorem State.setChan_ctxs (s : State) (c : Nat) (x : Chan) : (s.setChan c x).ctxs = s.ctxs := rfl
@[simp] theorem State.setChan_launches (s : State) (c : Nat) (x : Chan) : (s.setChan c x).launches = s.launches := rfl
@[simp] theorem State.setChan_joints (s : State) (c : Nat) (x : Chan) : (s.setChan c x).joints = s.joints := rfl
@[simp] theorem State.setChan_mail (s : State) (c : Nat) (x : Chan) : (s.setChan c x).mail = s.mail := rfl
@[simp] theorem State.setChan_kv (s : State) (c : Nat) (x : Chan) : (s.setChan c x).kv = s.kv := rfl
@[simp] theorem State.setChan_flash (s : State) (c : Nat) (x : Chan) : (s.setChan c x).flash = s.flash := rfl
@[simp] theorem State.setChan_hostReads (s : State) (c : Nat) (x : Chan) : (s.setChan c x).hostReads = s.hostReads := rfl
@[simp] theorem State.setChan_copies (s : State) (c : Nat) (x : Chan) : (s.setChan c x).copies = s.copies := rfl
@[simp] theorem State.setChan_holdup (s : State) (c : Nat) (x : Chan) : (s.setChan c x).holdup = s.holdup := rfl
@[simp] theorem State.setChan_kiln (s : State) (c : Nat) (x : Chan) : (s.setChan c x).kiln = s.kiln := rfl
@[simp] theorem State.setChan_links (s : State) (c : Nat) (x : Chan) : (s.setChan c x).links = s.links := rfl
@[simp] theorem State.setChan_groups (s : State) (c : Nat) (x : Chan) : (s.setChan c x).groups = s.groups := rfl
@[simp] theorem State.setChan_colls (s : State) (c : Nat) (x : Chan) : (s.setChan c x).colls = s.colls := rfl
@[simp] theorem State.setChan_idle (s : State) (c : Nat) (x : Chan) : (s.setChan c x).idle = s.idle := rfl
@[simp] theorem State.setChan_conts (s : State) (c : Nat) (x : Chan) : (s.setChan c x).conts = s.conts := rfl
@[simp] theorem State.setChan_power (s : State) (c : Nat) (x : Chan) : (s.setChan c x).power = s.power := rfl
@[simp] theorem State.setChan_trust (s : State) (c : Nat) (x : Chan) : (s.setChan c x).trust = s.trust := rfl
@[simp] theorem State.setChan_mgmt (s : State) (c : Nat) (x : Chan) : (s.setChan c x).mgmt = s.mgmt := rfl
@[simp] theorem State.setChan_tests (s : State) (c : Nat) (x : Chan) : (s.setChan c x).tests = s.tests := rfl
@[simp] theorem State.setChan_detourAvoid (s : State) (c : Nat) (x : Chan) : (s.setChan c x).detourAvoid = s.detourAvoid := rfl
@[simp] theorem State.setChan_detourGen (s : State) (c : Nat) (x : Chan) : (s.setChan c x).detourGen = s.detourGen := rfl
@[simp] theorem State.setChan_msix (s : State) (c : Nat) (x : Chan) : (s.setChan c x).msix = s.msix := rfl
@[simp] theorem State.setChan_msixSent (s : State) (c : Nat) (x : Chan) : (s.setChan c x).msixSent = s.msixSent := rfl
@[simp] theorem State.setChan_regPosted (s : State) (c : Nat) (x : Chan) : (s.setChan c x).regPosted = s.regPosted := rfl

/-! ### State.setBrick -/

@[simp] theorem State.setBrick_variant (s : State) (b : Nat) (x : Brick) : (s.setBrick b x).variant = s.variant := rfl
@[simp] theorem State.setBrick_pending (s : State) (b : Nat) (x : Brick) : (s.setBrick b x).pending = s.pending := rfl
@[simp] theorem State.setBrick_freeCtr (s : State) (b : Nat) (x : Brick) : (s.setBrick b x).freeCtr = s.freeCtr := rfl
@[simp] theorem State.setBrick_nextId (s : State) (b : Nat) (x : Brick) : (s.setBrick b x).nextId = s.nextId := rfl
@[simp] theorem State.setBrick_regs (s : State) (b : Nat) (x : Brick) : (s.setBrick b x).regs = s.regs := rfl
@[simp] theorem State.setBrick_mem (s : State) (b : Nat) (x : Brick) : (s.setBrick b x).mem = s.mem := rfl
@[simp] theorem State.setBrick_poison (s : State) (b : Nat) (x : Brick) : (s.setBrick b x).poison = s.poison := rfl
@[simp] theorem State.setBrick_hostMem (s : State) (b : Nat) (x : Brick) : (s.setBrick b x).hostMem = s.hostMem := rfl
@[simp] theorem State.setBrick_masters (s : State) (b : Nat) (x : Brick) : (s.setBrick b x).masters = s.masters := rfl
@[simp] theorem State.setBrick_time (s : State) (b : Nat) (x : Brick) : (s.setBrick b x).time = s.time := rfl
@[simp] theorem State.setBrick_tiles (s : State) (b : Nat) (x : Brick) : (s.setBrick b x).tiles = s.tiles := rfl
@[simp] theorem State.setBrick_chans (s : State) (b : Nat) (x : Brick) : (s.setBrick b x).chans = s.chans := rfl
@[simp] theorem State.setBrick_chanBoot (s : State) (b : Nat) (x : Brick) : (s.setBrick b x).chanBoot = s.chanBoot := rfl
@[simp] theorem State.setBrick_chanGen (s : State) (b : Nat) (x : Brick) : (s.setBrick b x).chanGen = s.chanGen := rfl
@[simp] theorem State.setBrick_mortar (s : State) (b : Nat) (x : Brick) : (s.setBrick b x).mortar = s.mortar := rfl
@[simp] theorem State.setBrick_errLog (s : State) (b : Nat) (x : Brick) : (s.setBrick b x).errLog = s.errLog := rfl
@[simp] theorem State.setBrick_errOverflow (s : State) (b : Nat) (x : Brick) : (s.setBrick b x).errOverflow = s.errOverflow := rfl
@[simp] theorem State.setBrick_scrubDone (s : State) (b : Nat) (x : Brick) : (s.setBrick b x).scrubDone = s.scrubDone := rfl
@[simp] theorem State.setBrick_ctxs (s : State) (b : Nat) (x : Brick) : (s.setBrick b x).ctxs = s.ctxs := rfl
@[simp] theorem State.setBrick_launches (s : State) (b : Nat) (x : Brick) : (s.setBrick b x).launches = s.launches := rfl
@[simp] theorem State.setBrick_joints (s : State) (b : Nat) (x : Brick) : (s.setBrick b x).joints = s.joints := rfl
@[simp] theorem State.setBrick_mail (s : State) (b : Nat) (x : Brick) : (s.setBrick b x).mail = s.mail := rfl
@[simp] theorem State.setBrick_kv (s : State) (b : Nat) (x : Brick) : (s.setBrick b x).kv = s.kv := rfl
@[simp] theorem State.setBrick_flash (s : State) (b : Nat) (x : Brick) : (s.setBrick b x).flash = s.flash := rfl
@[simp] theorem State.setBrick_hostReads (s : State) (b : Nat) (x : Brick) : (s.setBrick b x).hostReads = s.hostReads := rfl
@[simp] theorem State.setBrick_copies (s : State) (b : Nat) (x : Brick) : (s.setBrick b x).copies = s.copies := rfl
@[simp] theorem State.setBrick_holdup (s : State) (b : Nat) (x : Brick) : (s.setBrick b x).holdup = s.holdup := rfl
@[simp] theorem State.setBrick_kiln (s : State) (b : Nat) (x : Brick) : (s.setBrick b x).kiln = s.kiln := rfl
@[simp] theorem State.setBrick_links (s : State) (b : Nat) (x : Brick) : (s.setBrick b x).links = s.links := rfl
@[simp] theorem State.setBrick_groups (s : State) (b : Nat) (x : Brick) : (s.setBrick b x).groups = s.groups := rfl
@[simp] theorem State.setBrick_colls (s : State) (b : Nat) (x : Brick) : (s.setBrick b x).colls = s.colls := rfl
@[simp] theorem State.setBrick_idle (s : State) (b : Nat) (x : Brick) : (s.setBrick b x).idle = s.idle := rfl
@[simp] theorem State.setBrick_conts (s : State) (b : Nat) (x : Brick) : (s.setBrick b x).conts = s.conts := rfl
@[simp] theorem State.setBrick_power (s : State) (b : Nat) (x : Brick) : (s.setBrick b x).power = s.power := rfl
@[simp] theorem State.setBrick_trust (s : State) (b : Nat) (x : Brick) : (s.setBrick b x).trust = s.trust := rfl
@[simp] theorem State.setBrick_mgmt (s : State) (b : Nat) (x : Brick) : (s.setBrick b x).mgmt = s.mgmt := rfl
@[simp] theorem State.setBrick_tests (s : State) (b : Nat) (x : Brick) : (s.setBrick b x).tests = s.tests := rfl
@[simp] theorem State.setBrick_detourAvoid (s : State) (b : Nat) (x : Brick) : (s.setBrick b x).detourAvoid = s.detourAvoid := rfl
@[simp] theorem State.setBrick_detourGen (s : State) (b : Nat) (x : Brick) : (s.setBrick b x).detourGen = s.detourGen := rfl
@[simp] theorem State.setBrick_msix (s : State) (b : Nat) (x : Brick) : (s.setBrick b x).msix = s.msix := rfl
@[simp] theorem State.setBrick_msixSent (s : State) (b : Nat) (x : Brick) : (s.setBrick b x).msixSent = s.msixSent := rfl
@[simp] theorem State.setBrick_regPosted (s : State) (b : Nat) (x : Brick) : (s.setBrick b x).regPosted = s.regPosted := rfl

/-! ### State.setCtx -/

@[simp] theorem State.setCtx_variant (s : State) (c : Nat) (x : Ctx) : (s.setCtx c x).variant = s.variant := rfl
@[simp] theorem State.setCtx_pending (s : State) (c : Nat) (x : Ctx) : (s.setCtx c x).pending = s.pending := rfl
@[simp] theorem State.setCtx_freeCtr (s : State) (c : Nat) (x : Ctx) : (s.setCtx c x).freeCtr = s.freeCtr := rfl
@[simp] theorem State.setCtx_nextId (s : State) (c : Nat) (x : Ctx) : (s.setCtx c x).nextId = s.nextId := rfl
@[simp] theorem State.setCtx_regs (s : State) (c : Nat) (x : Ctx) : (s.setCtx c x).regs = s.regs := rfl
@[simp] theorem State.setCtx_mem (s : State) (c : Nat) (x : Ctx) : (s.setCtx c x).mem = s.mem := rfl
@[simp] theorem State.setCtx_poison (s : State) (c : Nat) (x : Ctx) : (s.setCtx c x).poison = s.poison := rfl
@[simp] theorem State.setCtx_hostMem (s : State) (c : Nat) (x : Ctx) : (s.setCtx c x).hostMem = s.hostMem := rfl
@[simp] theorem State.setCtx_masters (s : State) (c : Nat) (x : Ctx) : (s.setCtx c x).masters = s.masters := rfl
@[simp] theorem State.setCtx_time (s : State) (c : Nat) (x : Ctx) : (s.setCtx c x).time = s.time := rfl
@[simp] theorem State.setCtx_tiles (s : State) (c : Nat) (x : Ctx) : (s.setCtx c x).tiles = s.tiles := rfl
@[simp] theorem State.setCtx_chans (s : State) (c : Nat) (x : Ctx) : (s.setCtx c x).chans = s.chans := rfl
@[simp] theorem State.setCtx_chanBoot (s : State) (c : Nat) (x : Ctx) : (s.setCtx c x).chanBoot = s.chanBoot := rfl
@[simp] theorem State.setCtx_chanGen (s : State) (c : Nat) (x : Ctx) : (s.setCtx c x).chanGen = s.chanGen := rfl
@[simp] theorem State.setCtx_mortar (s : State) (c : Nat) (x : Ctx) : (s.setCtx c x).mortar = s.mortar := rfl
@[simp] theorem State.setCtx_bricks (s : State) (c : Nat) (x : Ctx) : (s.setCtx c x).bricks = s.bricks := rfl
@[simp] theorem State.setCtx_errLog (s : State) (c : Nat) (x : Ctx) : (s.setCtx c x).errLog = s.errLog := rfl
@[simp] theorem State.setCtx_errOverflow (s : State) (c : Nat) (x : Ctx) : (s.setCtx c x).errOverflow = s.errOverflow := rfl
@[simp] theorem State.setCtx_scrubDone (s : State) (c : Nat) (x : Ctx) : (s.setCtx c x).scrubDone = s.scrubDone := rfl
@[simp] theorem State.setCtx_launches (s : State) (c : Nat) (x : Ctx) : (s.setCtx c x).launches = s.launches := rfl
@[simp] theorem State.setCtx_joints (s : State) (c : Nat) (x : Ctx) : (s.setCtx c x).joints = s.joints := rfl
@[simp] theorem State.setCtx_mail (s : State) (c : Nat) (x : Ctx) : (s.setCtx c x).mail = s.mail := rfl
@[simp] theorem State.setCtx_kv (s : State) (c : Nat) (x : Ctx) : (s.setCtx c x).kv = s.kv := rfl
@[simp] theorem State.setCtx_flash (s : State) (c : Nat) (x : Ctx) : (s.setCtx c x).flash = s.flash := rfl
@[simp] theorem State.setCtx_hostReads (s : State) (c : Nat) (x : Ctx) : (s.setCtx c x).hostReads = s.hostReads := rfl
@[simp] theorem State.setCtx_copies (s : State) (c : Nat) (x : Ctx) : (s.setCtx c x).copies = s.copies := rfl
@[simp] theorem State.setCtx_holdup (s : State) (c : Nat) (x : Ctx) : (s.setCtx c x).holdup = s.holdup := rfl
@[simp] theorem State.setCtx_kiln (s : State) (c : Nat) (x : Ctx) : (s.setCtx c x).kiln = s.kiln := rfl
@[simp] theorem State.setCtx_links (s : State) (c : Nat) (x : Ctx) : (s.setCtx c x).links = s.links := rfl
@[simp] theorem State.setCtx_groups (s : State) (c : Nat) (x : Ctx) : (s.setCtx c x).groups = s.groups := rfl
@[simp] theorem State.setCtx_colls (s : State) (c : Nat) (x : Ctx) : (s.setCtx c x).colls = s.colls := rfl
@[simp] theorem State.setCtx_idle (s : State) (c : Nat) (x : Ctx) : (s.setCtx c x).idle = s.idle := rfl
@[simp] theorem State.setCtx_conts (s : State) (c : Nat) (x : Ctx) : (s.setCtx c x).conts = s.conts := rfl
@[simp] theorem State.setCtx_power (s : State) (c : Nat) (x : Ctx) : (s.setCtx c x).power = s.power := rfl
@[simp] theorem State.setCtx_trust (s : State) (c : Nat) (x : Ctx) : (s.setCtx c x).trust = s.trust := rfl
@[simp] theorem State.setCtx_mgmt (s : State) (c : Nat) (x : Ctx) : (s.setCtx c x).mgmt = s.mgmt := rfl
@[simp] theorem State.setCtx_tests (s : State) (c : Nat) (x : Ctx) : (s.setCtx c x).tests = s.tests := rfl
@[simp] theorem State.setCtx_detourAvoid (s : State) (c : Nat) (x : Ctx) : (s.setCtx c x).detourAvoid = s.detourAvoid := rfl
@[simp] theorem State.setCtx_detourGen (s : State) (c : Nat) (x : Ctx) : (s.setCtx c x).detourGen = s.detourGen := rfl
@[simp] theorem State.setCtx_msix (s : State) (c : Nat) (x : Ctx) : (s.setCtx c x).msix = s.msix := rfl
@[simp] theorem State.setCtx_msixSent (s : State) (c : Nat) (x : Ctx) : (s.setCtx c x).msixSent = s.msixSent := rfl
@[simp] theorem State.setCtx_regPosted (s : State) (c : Nat) (x : Ctx) : (s.setCtx c x).regPosted = s.regPosted := rfl

/-! ### State.setRing -/

@[simp] theorem State.setRing_variant (s : State) (c q : Nat) (x : SRing) : (s.setRing c q x).variant = s.variant := rfl
@[simp] theorem State.setRing_pending (s : State) (c q : Nat) (x : SRing) : (s.setRing c q x).pending = s.pending := rfl
@[simp] theorem State.setRing_freeCtr (s : State) (c q : Nat) (x : SRing) : (s.setRing c q x).freeCtr = s.freeCtr := rfl
@[simp] theorem State.setRing_nextId (s : State) (c q : Nat) (x : SRing) : (s.setRing c q x).nextId = s.nextId := rfl
@[simp] theorem State.setRing_regs (s : State) (c q : Nat) (x : SRing) : (s.setRing c q x).regs = s.regs := rfl
@[simp] theorem State.setRing_mem (s : State) (c q : Nat) (x : SRing) : (s.setRing c q x).mem = s.mem := rfl
@[simp] theorem State.setRing_poison (s : State) (c q : Nat) (x : SRing) : (s.setRing c q x).poison = s.poison := rfl
@[simp] theorem State.setRing_hostMem (s : State) (c q : Nat) (x : SRing) : (s.setRing c q x).hostMem = s.hostMem := rfl
@[simp] theorem State.setRing_masters (s : State) (c q : Nat) (x : SRing) : (s.setRing c q x).masters = s.masters := rfl
@[simp] theorem State.setRing_time (s : State) (c q : Nat) (x : SRing) : (s.setRing c q x).time = s.time := rfl
@[simp] theorem State.setRing_tiles (s : State) (c q : Nat) (x : SRing) : (s.setRing c q x).tiles = s.tiles := rfl
@[simp] theorem State.setRing_chans (s : State) (c q : Nat) (x : SRing) : (s.setRing c q x).chans = s.chans := rfl
@[simp] theorem State.setRing_chanBoot (s : State) (c q : Nat) (x : SRing) : (s.setRing c q x).chanBoot = s.chanBoot := rfl
@[simp] theorem State.setRing_chanGen (s : State) (c q : Nat) (x : SRing) : (s.setRing c q x).chanGen = s.chanGen := rfl
@[simp] theorem State.setRing_mortar (s : State) (c q : Nat) (x : SRing) : (s.setRing c q x).mortar = s.mortar := rfl
@[simp] theorem State.setRing_bricks (s : State) (c q : Nat) (x : SRing) : (s.setRing c q x).bricks = s.bricks := rfl
@[simp] theorem State.setRing_errLog (s : State) (c q : Nat) (x : SRing) : (s.setRing c q x).errLog = s.errLog := rfl
@[simp] theorem State.setRing_errOverflow (s : State) (c q : Nat) (x : SRing) : (s.setRing c q x).errOverflow = s.errOverflow := rfl
@[simp] theorem State.setRing_scrubDone (s : State) (c q : Nat) (x : SRing) : (s.setRing c q x).scrubDone = s.scrubDone := rfl
@[simp] theorem State.setRing_launches (s : State) (c q : Nat) (x : SRing) : (s.setRing c q x).launches = s.launches := rfl
@[simp] theorem State.setRing_joints (s : State) (c q : Nat) (x : SRing) : (s.setRing c q x).joints = s.joints := rfl
@[simp] theorem State.setRing_mail (s : State) (c q : Nat) (x : SRing) : (s.setRing c q x).mail = s.mail := rfl
@[simp] theorem State.setRing_kv (s : State) (c q : Nat) (x : SRing) : (s.setRing c q x).kv = s.kv := rfl
@[simp] theorem State.setRing_flash (s : State) (c q : Nat) (x : SRing) : (s.setRing c q x).flash = s.flash := rfl
@[simp] theorem State.setRing_hostReads (s : State) (c q : Nat) (x : SRing) : (s.setRing c q x).hostReads = s.hostReads := rfl
@[simp] theorem State.setRing_copies (s : State) (c q : Nat) (x : SRing) : (s.setRing c q x).copies = s.copies := rfl
@[simp] theorem State.setRing_holdup (s : State) (c q : Nat) (x : SRing) : (s.setRing c q x).holdup = s.holdup := rfl
@[simp] theorem State.setRing_kiln (s : State) (c q : Nat) (x : SRing) : (s.setRing c q x).kiln = s.kiln := rfl
@[simp] theorem State.setRing_links (s : State) (c q : Nat) (x : SRing) : (s.setRing c q x).links = s.links := rfl
@[simp] theorem State.setRing_groups (s : State) (c q : Nat) (x : SRing) : (s.setRing c q x).groups = s.groups := rfl
@[simp] theorem State.setRing_colls (s : State) (c q : Nat) (x : SRing) : (s.setRing c q x).colls = s.colls := rfl
@[simp] theorem State.setRing_idle (s : State) (c q : Nat) (x : SRing) : (s.setRing c q x).idle = s.idle := rfl
@[simp] theorem State.setRing_conts (s : State) (c q : Nat) (x : SRing) : (s.setRing c q x).conts = s.conts := rfl
@[simp] theorem State.setRing_power (s : State) (c q : Nat) (x : SRing) : (s.setRing c q x).power = s.power := rfl
@[simp] theorem State.setRing_trust (s : State) (c q : Nat) (x : SRing) : (s.setRing c q x).trust = s.trust := rfl
@[simp] theorem State.setRing_mgmt (s : State) (c q : Nat) (x : SRing) : (s.setRing c q x).mgmt = s.mgmt := rfl
@[simp] theorem State.setRing_tests (s : State) (c q : Nat) (x : SRing) : (s.setRing c q x).tests = s.tests := rfl
@[simp] theorem State.setRing_detourAvoid (s : State) (c q : Nat) (x : SRing) : (s.setRing c q x).detourAvoid = s.detourAvoid := rfl
@[simp] theorem State.setRing_detourGen (s : State) (c q : Nat) (x : SRing) : (s.setRing c q x).detourGen = s.detourGen := rfl
@[simp] theorem State.setRing_msix (s : State) (c q : Nat) (x : SRing) : (s.setRing c q x).msix = s.msix := rfl
@[simp] theorem State.setRing_msixSent (s : State) (c q : Nat) (x : SRing) : (s.setRing c q x).msixSent = s.msixSent := rfl
@[simp] theorem State.setRing_regPosted (s : State) (c q : Nat) (x : SRing) : (s.setRing c q x).regPosted = s.regPosted := rfl

/-! ### State.setCRing -/

@[simp] theorem State.setCRing_variant (s : State) (c q : Nat) (x : CRing) : (s.setCRing c q x).variant = s.variant := rfl
@[simp] theorem State.setCRing_pending (s : State) (c q : Nat) (x : CRing) : (s.setCRing c q x).pending = s.pending := rfl
@[simp] theorem State.setCRing_freeCtr (s : State) (c q : Nat) (x : CRing) : (s.setCRing c q x).freeCtr = s.freeCtr := rfl
@[simp] theorem State.setCRing_nextId (s : State) (c q : Nat) (x : CRing) : (s.setCRing c q x).nextId = s.nextId := rfl
@[simp] theorem State.setCRing_regs (s : State) (c q : Nat) (x : CRing) : (s.setCRing c q x).regs = s.regs := rfl
@[simp] theorem State.setCRing_mem (s : State) (c q : Nat) (x : CRing) : (s.setCRing c q x).mem = s.mem := rfl
@[simp] theorem State.setCRing_poison (s : State) (c q : Nat) (x : CRing) : (s.setCRing c q x).poison = s.poison := rfl
@[simp] theorem State.setCRing_hostMem (s : State) (c q : Nat) (x : CRing) : (s.setCRing c q x).hostMem = s.hostMem := rfl
@[simp] theorem State.setCRing_masters (s : State) (c q : Nat) (x : CRing) : (s.setCRing c q x).masters = s.masters := rfl
@[simp] theorem State.setCRing_time (s : State) (c q : Nat) (x : CRing) : (s.setCRing c q x).time = s.time := rfl
@[simp] theorem State.setCRing_tiles (s : State) (c q : Nat) (x : CRing) : (s.setCRing c q x).tiles = s.tiles := rfl
@[simp] theorem State.setCRing_chans (s : State) (c q : Nat) (x : CRing) : (s.setCRing c q x).chans = s.chans := rfl
@[simp] theorem State.setCRing_chanBoot (s : State) (c q : Nat) (x : CRing) : (s.setCRing c q x).chanBoot = s.chanBoot := rfl
@[simp] theorem State.setCRing_chanGen (s : State) (c q : Nat) (x : CRing) : (s.setCRing c q x).chanGen = s.chanGen := rfl
@[simp] theorem State.setCRing_mortar (s : State) (c q : Nat) (x : CRing) : (s.setCRing c q x).mortar = s.mortar := rfl
@[simp] theorem State.setCRing_bricks (s : State) (c q : Nat) (x : CRing) : (s.setCRing c q x).bricks = s.bricks := rfl
@[simp] theorem State.setCRing_errLog (s : State) (c q : Nat) (x : CRing) : (s.setCRing c q x).errLog = s.errLog := rfl
@[simp] theorem State.setCRing_errOverflow (s : State) (c q : Nat) (x : CRing) : (s.setCRing c q x).errOverflow = s.errOverflow := rfl
@[simp] theorem State.setCRing_scrubDone (s : State) (c q : Nat) (x : CRing) : (s.setCRing c q x).scrubDone = s.scrubDone := rfl
@[simp] theorem State.setCRing_launches (s : State) (c q : Nat) (x : CRing) : (s.setCRing c q x).launches = s.launches := rfl
@[simp] theorem State.setCRing_joints (s : State) (c q : Nat) (x : CRing) : (s.setCRing c q x).joints = s.joints := rfl
@[simp] theorem State.setCRing_mail (s : State) (c q : Nat) (x : CRing) : (s.setCRing c q x).mail = s.mail := rfl
@[simp] theorem State.setCRing_kv (s : State) (c q : Nat) (x : CRing) : (s.setCRing c q x).kv = s.kv := rfl
@[simp] theorem State.setCRing_flash (s : State) (c q : Nat) (x : CRing) : (s.setCRing c q x).flash = s.flash := rfl
@[simp] theorem State.setCRing_hostReads (s : State) (c q : Nat) (x : CRing) : (s.setCRing c q x).hostReads = s.hostReads := rfl
@[simp] theorem State.setCRing_copies (s : State) (c q : Nat) (x : CRing) : (s.setCRing c q x).copies = s.copies := rfl
@[simp] theorem State.setCRing_holdup (s : State) (c q : Nat) (x : CRing) : (s.setCRing c q x).holdup = s.holdup := rfl
@[simp] theorem State.setCRing_kiln (s : State) (c q : Nat) (x : CRing) : (s.setCRing c q x).kiln = s.kiln := rfl
@[simp] theorem State.setCRing_links (s : State) (c q : Nat) (x : CRing) : (s.setCRing c q x).links = s.links := rfl
@[simp] theorem State.setCRing_groups (s : State) (c q : Nat) (x : CRing) : (s.setCRing c q x).groups = s.groups := rfl
@[simp] theorem State.setCRing_colls (s : State) (c q : Nat) (x : CRing) : (s.setCRing c q x).colls = s.colls := rfl
@[simp] theorem State.setCRing_idle (s : State) (c q : Nat) (x : CRing) : (s.setCRing c q x).idle = s.idle := rfl
@[simp] theorem State.setCRing_conts (s : State) (c q : Nat) (x : CRing) : (s.setCRing c q x).conts = s.conts := rfl
@[simp] theorem State.setCRing_power (s : State) (c q : Nat) (x : CRing) : (s.setCRing c q x).power = s.power := rfl
@[simp] theorem State.setCRing_trust (s : State) (c q : Nat) (x : CRing) : (s.setCRing c q x).trust = s.trust := rfl
@[simp] theorem State.setCRing_mgmt (s : State) (c q : Nat) (x : CRing) : (s.setCRing c q x).mgmt = s.mgmt := rfl
@[simp] theorem State.setCRing_tests (s : State) (c q : Nat) (x : CRing) : (s.setCRing c q x).tests = s.tests := rfl
@[simp] theorem State.setCRing_detourAvoid (s : State) (c q : Nat) (x : CRing) : (s.setCRing c q x).detourAvoid = s.detourAvoid := rfl
@[simp] theorem State.setCRing_detourGen (s : State) (c q : Nat) (x : CRing) : (s.setCRing c q x).detourGen = s.detourGen := rfl
@[simp] theorem State.setCRing_msix (s : State) (c q : Nat) (x : CRing) : (s.setCRing c q x).msix = s.msix := rfl
@[simp] theorem State.setCRing_msixSent (s : State) (c q : Nat) (x : CRing) : (s.setCRing c q x).msixSent = s.msixSent := rfl
@[simp] theorem State.setCRing_regPosted (s : State) (c q : Nat) (x : CRing) : (s.setCRing c q x).regPosted = s.regPosted := rfl

/-! ### State.setJoint -/

@[simp] theorem State.setJoint_variant (s : State) (j : Nat) (x : Joint) : (s.setJoint j x).variant = s.variant := rfl
@[simp] theorem State.setJoint_pending (s : State) (j : Nat) (x : Joint) : (s.setJoint j x).pending = s.pending := rfl
@[simp] theorem State.setJoint_freeCtr (s : State) (j : Nat) (x : Joint) : (s.setJoint j x).freeCtr = s.freeCtr := rfl
@[simp] theorem State.setJoint_nextId (s : State) (j : Nat) (x : Joint) : (s.setJoint j x).nextId = s.nextId := rfl
@[simp] theorem State.setJoint_regs (s : State) (j : Nat) (x : Joint) : (s.setJoint j x).regs = s.regs := rfl
@[simp] theorem State.setJoint_mem (s : State) (j : Nat) (x : Joint) : (s.setJoint j x).mem = s.mem := rfl
@[simp] theorem State.setJoint_poison (s : State) (j : Nat) (x : Joint) : (s.setJoint j x).poison = s.poison := rfl
@[simp] theorem State.setJoint_hostMem (s : State) (j : Nat) (x : Joint) : (s.setJoint j x).hostMem = s.hostMem := rfl
@[simp] theorem State.setJoint_masters (s : State) (j : Nat) (x : Joint) : (s.setJoint j x).masters = s.masters := rfl
@[simp] theorem State.setJoint_time (s : State) (j : Nat) (x : Joint) : (s.setJoint j x).time = s.time := rfl
@[simp] theorem State.setJoint_tiles (s : State) (j : Nat) (x : Joint) : (s.setJoint j x).tiles = s.tiles := rfl
@[simp] theorem State.setJoint_chans (s : State) (j : Nat) (x : Joint) : (s.setJoint j x).chans = s.chans := rfl
@[simp] theorem State.setJoint_chanBoot (s : State) (j : Nat) (x : Joint) : (s.setJoint j x).chanBoot = s.chanBoot := rfl
@[simp] theorem State.setJoint_chanGen (s : State) (j : Nat) (x : Joint) : (s.setJoint j x).chanGen = s.chanGen := rfl
@[simp] theorem State.setJoint_mortar (s : State) (j : Nat) (x : Joint) : (s.setJoint j x).mortar = s.mortar := rfl
@[simp] theorem State.setJoint_bricks (s : State) (j : Nat) (x : Joint) : (s.setJoint j x).bricks = s.bricks := rfl
@[simp] theorem State.setJoint_errLog (s : State) (j : Nat) (x : Joint) : (s.setJoint j x).errLog = s.errLog := rfl
@[simp] theorem State.setJoint_errOverflow (s : State) (j : Nat) (x : Joint) : (s.setJoint j x).errOverflow = s.errOverflow := rfl
@[simp] theorem State.setJoint_scrubDone (s : State) (j : Nat) (x : Joint) : (s.setJoint j x).scrubDone = s.scrubDone := rfl
@[simp] theorem State.setJoint_ctxs (s : State) (j : Nat) (x : Joint) : (s.setJoint j x).ctxs = s.ctxs := rfl
@[simp] theorem State.setJoint_launches (s : State) (j : Nat) (x : Joint) : (s.setJoint j x).launches = s.launches := rfl
@[simp] theorem State.setJoint_mail (s : State) (j : Nat) (x : Joint) : (s.setJoint j x).mail = s.mail := rfl
@[simp] theorem State.setJoint_kv (s : State) (j : Nat) (x : Joint) : (s.setJoint j x).kv = s.kv := rfl
@[simp] theorem State.setJoint_flash (s : State) (j : Nat) (x : Joint) : (s.setJoint j x).flash = s.flash := rfl
@[simp] theorem State.setJoint_hostReads (s : State) (j : Nat) (x : Joint) : (s.setJoint j x).hostReads = s.hostReads := rfl
@[simp] theorem State.setJoint_copies (s : State) (j : Nat) (x : Joint) : (s.setJoint j x).copies = s.copies := rfl
@[simp] theorem State.setJoint_holdup (s : State) (j : Nat) (x : Joint) : (s.setJoint j x).holdup = s.holdup := rfl
@[simp] theorem State.setJoint_kiln (s : State) (j : Nat) (x : Joint) : (s.setJoint j x).kiln = s.kiln := rfl
@[simp] theorem State.setJoint_links (s : State) (j : Nat) (x : Joint) : (s.setJoint j x).links = s.links := rfl
@[simp] theorem State.setJoint_groups (s : State) (j : Nat) (x : Joint) : (s.setJoint j x).groups = s.groups := rfl
@[simp] theorem State.setJoint_colls (s : State) (j : Nat) (x : Joint) : (s.setJoint j x).colls = s.colls := rfl
@[simp] theorem State.setJoint_idle (s : State) (j : Nat) (x : Joint) : (s.setJoint j x).idle = s.idle := rfl
@[simp] theorem State.setJoint_conts (s : State) (j : Nat) (x : Joint) : (s.setJoint j x).conts = s.conts := rfl
@[simp] theorem State.setJoint_power (s : State) (j : Nat) (x : Joint) : (s.setJoint j x).power = s.power := rfl
@[simp] theorem State.setJoint_trust (s : State) (j : Nat) (x : Joint) : (s.setJoint j x).trust = s.trust := rfl
@[simp] theorem State.setJoint_mgmt (s : State) (j : Nat) (x : Joint) : (s.setJoint j x).mgmt = s.mgmt := rfl
@[simp] theorem State.setJoint_tests (s : State) (j : Nat) (x : Joint) : (s.setJoint j x).tests = s.tests := rfl
@[simp] theorem State.setJoint_detourAvoid (s : State) (j : Nat) (x : Joint) : (s.setJoint j x).detourAvoid = s.detourAvoid := rfl
@[simp] theorem State.setJoint_detourGen (s : State) (j : Nat) (x : Joint) : (s.setJoint j x).detourGen = s.detourGen := rfl
@[simp] theorem State.setJoint_msix (s : State) (j : Nat) (x : Joint) : (s.setJoint j x).msix = s.msix := rfl
@[simp] theorem State.setJoint_msixSent (s : State) (j : Nat) (x : Joint) : (s.setJoint j x).msixSent = s.msixSent := rfl
@[simp] theorem State.setJoint_regPosted (s : State) (j : Nat) (x : Joint) : (s.setJoint j x).regPosted = s.regPosted := rfl

/-! ### State.setMbox -/

@[simp] theorem State.setMbox_variant (s : State) (c : Nat) (x : Mailbox) : (s.setMbox c x).variant = s.variant := rfl
@[simp] theorem State.setMbox_pending (s : State) (c : Nat) (x : Mailbox) : (s.setMbox c x).pending = s.pending := rfl
@[simp] theorem State.setMbox_freeCtr (s : State) (c : Nat) (x : Mailbox) : (s.setMbox c x).freeCtr = s.freeCtr := rfl
@[simp] theorem State.setMbox_nextId (s : State) (c : Nat) (x : Mailbox) : (s.setMbox c x).nextId = s.nextId := rfl
@[simp] theorem State.setMbox_regs (s : State) (c : Nat) (x : Mailbox) : (s.setMbox c x).regs = s.regs := rfl
@[simp] theorem State.setMbox_mem (s : State) (c : Nat) (x : Mailbox) : (s.setMbox c x).mem = s.mem := rfl
@[simp] theorem State.setMbox_poison (s : State) (c : Nat) (x : Mailbox) : (s.setMbox c x).poison = s.poison := rfl
@[simp] theorem State.setMbox_hostMem (s : State) (c : Nat) (x : Mailbox) : (s.setMbox c x).hostMem = s.hostMem := rfl
@[simp] theorem State.setMbox_masters (s : State) (c : Nat) (x : Mailbox) : (s.setMbox c x).masters = s.masters := rfl
@[simp] theorem State.setMbox_time (s : State) (c : Nat) (x : Mailbox) : (s.setMbox c x).time = s.time := rfl
@[simp] theorem State.setMbox_tiles (s : State) (c : Nat) (x : Mailbox) : (s.setMbox c x).tiles = s.tiles := rfl
@[simp] theorem State.setMbox_chans (s : State) (c : Nat) (x : Mailbox) : (s.setMbox c x).chans = s.chans := rfl
@[simp] theorem State.setMbox_chanBoot (s : State) (c : Nat) (x : Mailbox) : (s.setMbox c x).chanBoot = s.chanBoot := rfl
@[simp] theorem State.setMbox_chanGen (s : State) (c : Nat) (x : Mailbox) : (s.setMbox c x).chanGen = s.chanGen := rfl
@[simp] theorem State.setMbox_mortar (s : State) (c : Nat) (x : Mailbox) : (s.setMbox c x).mortar = s.mortar := rfl
@[simp] theorem State.setMbox_bricks (s : State) (c : Nat) (x : Mailbox) : (s.setMbox c x).bricks = s.bricks := rfl
@[simp] theorem State.setMbox_errLog (s : State) (c : Nat) (x : Mailbox) : (s.setMbox c x).errLog = s.errLog := rfl
@[simp] theorem State.setMbox_errOverflow (s : State) (c : Nat) (x : Mailbox) : (s.setMbox c x).errOverflow = s.errOverflow := rfl
@[simp] theorem State.setMbox_scrubDone (s : State) (c : Nat) (x : Mailbox) : (s.setMbox c x).scrubDone = s.scrubDone := rfl
@[simp] theorem State.setMbox_ctxs (s : State) (c : Nat) (x : Mailbox) : (s.setMbox c x).ctxs = s.ctxs := rfl
@[simp] theorem State.setMbox_launches (s : State) (c : Nat) (x : Mailbox) : (s.setMbox c x).launches = s.launches := rfl
@[simp] theorem State.setMbox_joints (s : State) (c : Nat) (x : Mailbox) : (s.setMbox c x).joints = s.joints := rfl
@[simp] theorem State.setMbox_kv (s : State) (c : Nat) (x : Mailbox) : (s.setMbox c x).kv = s.kv := rfl
@[simp] theorem State.setMbox_flash (s : State) (c : Nat) (x : Mailbox) : (s.setMbox c x).flash = s.flash := rfl
@[simp] theorem State.setMbox_hostReads (s : State) (c : Nat) (x : Mailbox) : (s.setMbox c x).hostReads = s.hostReads := rfl
@[simp] theorem State.setMbox_copies (s : State) (c : Nat) (x : Mailbox) : (s.setMbox c x).copies = s.copies := rfl
@[simp] theorem State.setMbox_holdup (s : State) (c : Nat) (x : Mailbox) : (s.setMbox c x).holdup = s.holdup := rfl
@[simp] theorem State.setMbox_kiln (s : State) (c : Nat) (x : Mailbox) : (s.setMbox c x).kiln = s.kiln := rfl
@[simp] theorem State.setMbox_links (s : State) (c : Nat) (x : Mailbox) : (s.setMbox c x).links = s.links := rfl
@[simp] theorem State.setMbox_groups (s : State) (c : Nat) (x : Mailbox) : (s.setMbox c x).groups = s.groups := rfl
@[simp] theorem State.setMbox_colls (s : State) (c : Nat) (x : Mailbox) : (s.setMbox c x).colls = s.colls := rfl
@[simp] theorem State.setMbox_idle (s : State) (c : Nat) (x : Mailbox) : (s.setMbox c x).idle = s.idle := rfl
@[simp] theorem State.setMbox_conts (s : State) (c : Nat) (x : Mailbox) : (s.setMbox c x).conts = s.conts := rfl
@[simp] theorem State.setMbox_power (s : State) (c : Nat) (x : Mailbox) : (s.setMbox c x).power = s.power := rfl
@[simp] theorem State.setMbox_trust (s : State) (c : Nat) (x : Mailbox) : (s.setMbox c x).trust = s.trust := rfl
@[simp] theorem State.setMbox_mgmt (s : State) (c : Nat) (x : Mailbox) : (s.setMbox c x).mgmt = s.mgmt := rfl
@[simp] theorem State.setMbox_tests (s : State) (c : Nat) (x : Mailbox) : (s.setMbox c x).tests = s.tests := rfl
@[simp] theorem State.setMbox_detourAvoid (s : State) (c : Nat) (x : Mailbox) : (s.setMbox c x).detourAvoid = s.detourAvoid := rfl
@[simp] theorem State.setMbox_detourGen (s : State) (c : Nat) (x : Mailbox) : (s.setMbox c x).detourGen = s.detourGen := rfl
@[simp] theorem State.setMbox_msix (s : State) (c : Nat) (x : Mailbox) : (s.setMbox c x).msix = s.msix := rfl
@[simp] theorem State.setMbox_msixSent (s : State) (c : Nat) (x : Mailbox) : (s.setMbox c x).msixSent = s.msixSent := rfl
@[simp] theorem State.setMbox_regPosted (s : State) (c : Nat) (x : Mailbox) : (s.setMbox c x).regPosted = s.regPosted := rfl

/-! ### State.setMaster -/

@[simp] theorem State.setMaster_variant (s : State) (m : Nat) (x : Master) : (s.setMaster m x).variant = s.variant := rfl
@[simp] theorem State.setMaster_pending (s : State) (m : Nat) (x : Master) : (s.setMaster m x).pending = s.pending := rfl
@[simp] theorem State.setMaster_freeCtr (s : State) (m : Nat) (x : Master) : (s.setMaster m x).freeCtr = s.freeCtr := rfl
@[simp] theorem State.setMaster_nextId (s : State) (m : Nat) (x : Master) : (s.setMaster m x).nextId = s.nextId := rfl
@[simp] theorem State.setMaster_regs (s : State) (m : Nat) (x : Master) : (s.setMaster m x).regs = s.regs := rfl
@[simp] theorem State.setMaster_mem (s : State) (m : Nat) (x : Master) : (s.setMaster m x).mem = s.mem := rfl
@[simp] theorem State.setMaster_poison (s : State) (m : Nat) (x : Master) : (s.setMaster m x).poison = s.poison := rfl
@[simp] theorem State.setMaster_hostMem (s : State) (m : Nat) (x : Master) : (s.setMaster m x).hostMem = s.hostMem := rfl
@[simp] theorem State.setMaster_time (s : State) (m : Nat) (x : Master) : (s.setMaster m x).time = s.time := rfl
@[simp] theorem State.setMaster_tiles (s : State) (m : Nat) (x : Master) : (s.setMaster m x).tiles = s.tiles := rfl
@[simp] theorem State.setMaster_chans (s : State) (m : Nat) (x : Master) : (s.setMaster m x).chans = s.chans := rfl
@[simp] theorem State.setMaster_chanBoot (s : State) (m : Nat) (x : Master) : (s.setMaster m x).chanBoot = s.chanBoot := rfl
@[simp] theorem State.setMaster_chanGen (s : State) (m : Nat) (x : Master) : (s.setMaster m x).chanGen = s.chanGen := rfl
@[simp] theorem State.setMaster_mortar (s : State) (m : Nat) (x : Master) : (s.setMaster m x).mortar = s.mortar := rfl
@[simp] theorem State.setMaster_bricks (s : State) (m : Nat) (x : Master) : (s.setMaster m x).bricks = s.bricks := rfl
@[simp] theorem State.setMaster_errLog (s : State) (m : Nat) (x : Master) : (s.setMaster m x).errLog = s.errLog := rfl
@[simp] theorem State.setMaster_errOverflow (s : State) (m : Nat) (x : Master) : (s.setMaster m x).errOverflow = s.errOverflow := rfl
@[simp] theorem State.setMaster_scrubDone (s : State) (m : Nat) (x : Master) : (s.setMaster m x).scrubDone = s.scrubDone := rfl
@[simp] theorem State.setMaster_ctxs (s : State) (m : Nat) (x : Master) : (s.setMaster m x).ctxs = s.ctxs := rfl
@[simp] theorem State.setMaster_launches (s : State) (m : Nat) (x : Master) : (s.setMaster m x).launches = s.launches := rfl
@[simp] theorem State.setMaster_joints (s : State) (m : Nat) (x : Master) : (s.setMaster m x).joints = s.joints := rfl
@[simp] theorem State.setMaster_mail (s : State) (m : Nat) (x : Master) : (s.setMaster m x).mail = s.mail := rfl
@[simp] theorem State.setMaster_kv (s : State) (m : Nat) (x : Master) : (s.setMaster m x).kv = s.kv := rfl
@[simp] theorem State.setMaster_flash (s : State) (m : Nat) (x : Master) : (s.setMaster m x).flash = s.flash := rfl
@[simp] theorem State.setMaster_hostReads (s : State) (m : Nat) (x : Master) : (s.setMaster m x).hostReads = s.hostReads := rfl
@[simp] theorem State.setMaster_copies (s : State) (m : Nat) (x : Master) : (s.setMaster m x).copies = s.copies := rfl
@[simp] theorem State.setMaster_holdup (s : State) (m : Nat) (x : Master) : (s.setMaster m x).holdup = s.holdup := rfl
@[simp] theorem State.setMaster_kiln (s : State) (m : Nat) (x : Master) : (s.setMaster m x).kiln = s.kiln := rfl
@[simp] theorem State.setMaster_links (s : State) (m : Nat) (x : Master) : (s.setMaster m x).links = s.links := rfl
@[simp] theorem State.setMaster_groups (s : State) (m : Nat) (x : Master) : (s.setMaster m x).groups = s.groups := rfl
@[simp] theorem State.setMaster_colls (s : State) (m : Nat) (x : Master) : (s.setMaster m x).colls = s.colls := rfl
@[simp] theorem State.setMaster_idle (s : State) (m : Nat) (x : Master) : (s.setMaster m x).idle = s.idle := rfl
@[simp] theorem State.setMaster_conts (s : State) (m : Nat) (x : Master) : (s.setMaster m x).conts = s.conts := rfl
@[simp] theorem State.setMaster_power (s : State) (m : Nat) (x : Master) : (s.setMaster m x).power = s.power := rfl
@[simp] theorem State.setMaster_trust (s : State) (m : Nat) (x : Master) : (s.setMaster m x).trust = s.trust := rfl
@[simp] theorem State.setMaster_mgmt (s : State) (m : Nat) (x : Master) : (s.setMaster m x).mgmt = s.mgmt := rfl
@[simp] theorem State.setMaster_tests (s : State) (m : Nat) (x : Master) : (s.setMaster m x).tests = s.tests := rfl
@[simp] theorem State.setMaster_detourAvoid (s : State) (m : Nat) (x : Master) : (s.setMaster m x).detourAvoid = s.detourAvoid := rfl
@[simp] theorem State.setMaster_detourGen (s : State) (m : Nat) (x : Master) : (s.setMaster m x).detourGen = s.detourGen := rfl
@[simp] theorem State.setMaster_msix (s : State) (m : Nat) (x : Master) : (s.setMaster m x).msix = s.msix := rfl
@[simp] theorem State.setMaster_msixSent (s : State) (m : Nat) (x : Master) : (s.setMaster m x).msixSent = s.msixSent := rfl
@[simp] theorem State.setMaster_regPosted (s : State) (m : Nat) (x : Master) : (s.setMaster m x).regPosted = s.regPosted := rfl

/-! ### State.setPort -/

@[simp] theorem State.setPort_variant (s : State) (p : Nat) (x : Port) : (s.setPort p x).variant = s.variant := rfl
@[simp] theorem State.setPort_pending (s : State) (p : Nat) (x : Port) : (s.setPort p x).pending = s.pending := rfl
@[simp] theorem State.setPort_freeCtr (s : State) (p : Nat) (x : Port) : (s.setPort p x).freeCtr = s.freeCtr := rfl
@[simp] theorem State.setPort_nextId (s : State) (p : Nat) (x : Port) : (s.setPort p x).nextId = s.nextId := rfl
@[simp] theorem State.setPort_regs (s : State) (p : Nat) (x : Port) : (s.setPort p x).regs = s.regs := rfl
@[simp] theorem State.setPort_mem (s : State) (p : Nat) (x : Port) : (s.setPort p x).mem = s.mem := rfl
@[simp] theorem State.setPort_poison (s : State) (p : Nat) (x : Port) : (s.setPort p x).poison = s.poison := rfl
@[simp] theorem State.setPort_hostMem (s : State) (p : Nat) (x : Port) : (s.setPort p x).hostMem = s.hostMem := rfl
@[simp] theorem State.setPort_masters (s : State) (p : Nat) (x : Port) : (s.setPort p x).masters = s.masters := rfl
@[simp] theorem State.setPort_time (s : State) (p : Nat) (x : Port) : (s.setPort p x).time = s.time := rfl
@[simp] theorem State.setPort_tiles (s : State) (p : Nat) (x : Port) : (s.setPort p x).tiles = s.tiles := rfl
@[simp] theorem State.setPort_chans (s : State) (p : Nat) (x : Port) : (s.setPort p x).chans = s.chans := rfl
@[simp] theorem State.setPort_chanBoot (s : State) (p : Nat) (x : Port) : (s.setPort p x).chanBoot = s.chanBoot := rfl
@[simp] theorem State.setPort_chanGen (s : State) (p : Nat) (x : Port) : (s.setPort p x).chanGen = s.chanGen := rfl
@[simp] theorem State.setPort_mortar (s : State) (p : Nat) (x : Port) : (s.setPort p x).mortar = s.mortar := rfl
@[simp] theorem State.setPort_bricks (s : State) (p : Nat) (x : Port) : (s.setPort p x).bricks = s.bricks := rfl
@[simp] theorem State.setPort_errLog (s : State) (p : Nat) (x : Port) : (s.setPort p x).errLog = s.errLog := rfl
@[simp] theorem State.setPort_errOverflow (s : State) (p : Nat) (x : Port) : (s.setPort p x).errOverflow = s.errOverflow := rfl
@[simp] theorem State.setPort_scrubDone (s : State) (p : Nat) (x : Port) : (s.setPort p x).scrubDone = s.scrubDone := rfl
@[simp] theorem State.setPort_ctxs (s : State) (p : Nat) (x : Port) : (s.setPort p x).ctxs = s.ctxs := rfl
@[simp] theorem State.setPort_launches (s : State) (p : Nat) (x : Port) : (s.setPort p x).launches = s.launches := rfl
@[simp] theorem State.setPort_joints (s : State) (p : Nat) (x : Port) : (s.setPort p x).joints = s.joints := rfl
@[simp] theorem State.setPort_mail (s : State) (p : Nat) (x : Port) : (s.setPort p x).mail = s.mail := rfl
@[simp] theorem State.setPort_kv (s : State) (p : Nat) (x : Port) : (s.setPort p x).kv = s.kv := rfl
@[simp] theorem State.setPort_flash (s : State) (p : Nat) (x : Port) : (s.setPort p x).flash = s.flash := rfl
@[simp] theorem State.setPort_hostReads (s : State) (p : Nat) (x : Port) : (s.setPort p x).hostReads = s.hostReads := rfl
@[simp] theorem State.setPort_copies (s : State) (p : Nat) (x : Port) : (s.setPort p x).copies = s.copies := rfl
@[simp] theorem State.setPort_holdup (s : State) (p : Nat) (x : Port) : (s.setPort p x).holdup = s.holdup := rfl
@[simp] theorem State.setPort_kiln (s : State) (p : Nat) (x : Port) : (s.setPort p x).kiln = s.kiln := rfl
@[simp] theorem State.setPort_groups (s : State) (p : Nat) (x : Port) : (s.setPort p x).groups = s.groups := rfl
@[simp] theorem State.setPort_colls (s : State) (p : Nat) (x : Port) : (s.setPort p x).colls = s.colls := rfl
@[simp] theorem State.setPort_idle (s : State) (p : Nat) (x : Port) : (s.setPort p x).idle = s.idle := rfl
@[simp] theorem State.setPort_conts (s : State) (p : Nat) (x : Port) : (s.setPort p x).conts = s.conts := rfl
@[simp] theorem State.setPort_power (s : State) (p : Nat) (x : Port) : (s.setPort p x).power = s.power := rfl
@[simp] theorem State.setPort_trust (s : State) (p : Nat) (x : Port) : (s.setPort p x).trust = s.trust := rfl
@[simp] theorem State.setPort_mgmt (s : State) (p : Nat) (x : Port) : (s.setPort p x).mgmt = s.mgmt := rfl
@[simp] theorem State.setPort_tests (s : State) (p : Nat) (x : Port) : (s.setPort p x).tests = s.tests := rfl
@[simp] theorem State.setPort_detourAvoid (s : State) (p : Nat) (x : Port) : (s.setPort p x).detourAvoid = s.detourAvoid := rfl
@[simp] theorem State.setPort_detourGen (s : State) (p : Nat) (x : Port) : (s.setPort p x).detourGen = s.detourGen := rfl
@[simp] theorem State.setPort_msix (s : State) (p : Nat) (x : Port) : (s.setPort p x).msix = s.msix := rfl
@[simp] theorem State.setPort_msixSent (s : State) (p : Nat) (x : Port) : (s.setPort p x).msixSent = s.msixSent := rfl
@[simp] theorem State.setPort_regPosted (s : State) (p : Nat) (x : Port) : (s.setPort p x).regPosted = s.regPosted := rfl

/-! ### State.setGroup -/

@[simp] theorem State.setGroup_variant (s : State) (c g : Nat) (x : Group) : (s.setGroup c g x).variant = s.variant := rfl
@[simp] theorem State.setGroup_pending (s : State) (c g : Nat) (x : Group) : (s.setGroup c g x).pending = s.pending := rfl
@[simp] theorem State.setGroup_freeCtr (s : State) (c g : Nat) (x : Group) : (s.setGroup c g x).freeCtr = s.freeCtr := rfl
@[simp] theorem State.setGroup_nextId (s : State) (c g : Nat) (x : Group) : (s.setGroup c g x).nextId = s.nextId := rfl
@[simp] theorem State.setGroup_regs (s : State) (c g : Nat) (x : Group) : (s.setGroup c g x).regs = s.regs := rfl
@[simp] theorem State.setGroup_mem (s : State) (c g : Nat) (x : Group) : (s.setGroup c g x).mem = s.mem := rfl
@[simp] theorem State.setGroup_poison (s : State) (c g : Nat) (x : Group) : (s.setGroup c g x).poison = s.poison := rfl
@[simp] theorem State.setGroup_hostMem (s : State) (c g : Nat) (x : Group) : (s.setGroup c g x).hostMem = s.hostMem := rfl
@[simp] theorem State.setGroup_masters (s : State) (c g : Nat) (x : Group) : (s.setGroup c g x).masters = s.masters := rfl
@[simp] theorem State.setGroup_time (s : State) (c g : Nat) (x : Group) : (s.setGroup c g x).time = s.time := rfl
@[simp] theorem State.setGroup_tiles (s : State) (c g : Nat) (x : Group) : (s.setGroup c g x).tiles = s.tiles := rfl
@[simp] theorem State.setGroup_chans (s : State) (c g : Nat) (x : Group) : (s.setGroup c g x).chans = s.chans := rfl
@[simp] theorem State.setGroup_chanBoot (s : State) (c g : Nat) (x : Group) : (s.setGroup c g x).chanBoot = s.chanBoot := rfl
@[simp] theorem State.setGroup_chanGen (s : State) (c g : Nat) (x : Group) : (s.setGroup c g x).chanGen = s.chanGen := rfl
@[simp] theorem State.setGroup_mortar (s : State) (c g : Nat) (x : Group) : (s.setGroup c g x).mortar = s.mortar := rfl
@[simp] theorem State.setGroup_bricks (s : State) (c g : Nat) (x : Group) : (s.setGroup c g x).bricks = s.bricks := rfl
@[simp] theorem State.setGroup_errLog (s : State) (c g : Nat) (x : Group) : (s.setGroup c g x).errLog = s.errLog := rfl
@[simp] theorem State.setGroup_errOverflow (s : State) (c g : Nat) (x : Group) : (s.setGroup c g x).errOverflow = s.errOverflow := rfl
@[simp] theorem State.setGroup_scrubDone (s : State) (c g : Nat) (x : Group) : (s.setGroup c g x).scrubDone = s.scrubDone := rfl
@[simp] theorem State.setGroup_ctxs (s : State) (c g : Nat) (x : Group) : (s.setGroup c g x).ctxs = s.ctxs := rfl
@[simp] theorem State.setGroup_launches (s : State) (c g : Nat) (x : Group) : (s.setGroup c g x).launches = s.launches := rfl
@[simp] theorem State.setGroup_joints (s : State) (c g : Nat) (x : Group) : (s.setGroup c g x).joints = s.joints := rfl
@[simp] theorem State.setGroup_mail (s : State) (c g : Nat) (x : Group) : (s.setGroup c g x).mail = s.mail := rfl
@[simp] theorem State.setGroup_kv (s : State) (c g : Nat) (x : Group) : (s.setGroup c g x).kv = s.kv := rfl
@[simp] theorem State.setGroup_flash (s : State) (c g : Nat) (x : Group) : (s.setGroup c g x).flash = s.flash := rfl
@[simp] theorem State.setGroup_hostReads (s : State) (c g : Nat) (x : Group) : (s.setGroup c g x).hostReads = s.hostReads := rfl
@[simp] theorem State.setGroup_copies (s : State) (c g : Nat) (x : Group) : (s.setGroup c g x).copies = s.copies := rfl
@[simp] theorem State.setGroup_holdup (s : State) (c g : Nat) (x : Group) : (s.setGroup c g x).holdup = s.holdup := rfl
@[simp] theorem State.setGroup_kiln (s : State) (c g : Nat) (x : Group) : (s.setGroup c g x).kiln = s.kiln := rfl
@[simp] theorem State.setGroup_links (s : State) (c g : Nat) (x : Group) : (s.setGroup c g x).links = s.links := rfl
@[simp] theorem State.setGroup_colls (s : State) (c g : Nat) (x : Group) : (s.setGroup c g x).colls = s.colls := rfl
@[simp] theorem State.setGroup_idle (s : State) (c g : Nat) (x : Group) : (s.setGroup c g x).idle = s.idle := rfl
@[simp] theorem State.setGroup_conts (s : State) (c g : Nat) (x : Group) : (s.setGroup c g x).conts = s.conts := rfl
@[simp] theorem State.setGroup_power (s : State) (c g : Nat) (x : Group) : (s.setGroup c g x).power = s.power := rfl
@[simp] theorem State.setGroup_trust (s : State) (c g : Nat) (x : Group) : (s.setGroup c g x).trust = s.trust := rfl
@[simp] theorem State.setGroup_mgmt (s : State) (c g : Nat) (x : Group) : (s.setGroup c g x).mgmt = s.mgmt := rfl
@[simp] theorem State.setGroup_tests (s : State) (c g : Nat) (x : Group) : (s.setGroup c g x).tests = s.tests := rfl
@[simp] theorem State.setGroup_detourAvoid (s : State) (c g : Nat) (x : Group) : (s.setGroup c g x).detourAvoid = s.detourAvoid := rfl
@[simp] theorem State.setGroup_detourGen (s : State) (c g : Nat) (x : Group) : (s.setGroup c g x).detourGen = s.detourGen := rfl
@[simp] theorem State.setGroup_msix (s : State) (c g : Nat) (x : Group) : (s.setGroup c g x).msix = s.msix := rfl
@[simp] theorem State.setGroup_msixSent (s : State) (c g : Nat) (x : Group) : (s.setGroup c g x).msixSent = s.msixSent := rfl
@[simp] theorem State.setGroup_regPosted (s : State) (c g : Nat) (x : Group) : (s.setGroup c g x).regPosted = s.regPosted := rfl

/-! ### State.setCont -/

@[simp] theorem State.setCont_variant (s : State) (c : Nat) (x : Cont) : (s.setCont c x).variant = s.variant := rfl
@[simp] theorem State.setCont_pending (s : State) (c : Nat) (x : Cont) : (s.setCont c x).pending = s.pending := rfl
@[simp] theorem State.setCont_freeCtr (s : State) (c : Nat) (x : Cont) : (s.setCont c x).freeCtr = s.freeCtr := rfl
@[simp] theorem State.setCont_nextId (s : State) (c : Nat) (x : Cont) : (s.setCont c x).nextId = s.nextId := rfl
@[simp] theorem State.setCont_regs (s : State) (c : Nat) (x : Cont) : (s.setCont c x).regs = s.regs := rfl
@[simp] theorem State.setCont_mem (s : State) (c : Nat) (x : Cont) : (s.setCont c x).mem = s.mem := rfl
@[simp] theorem State.setCont_poison (s : State) (c : Nat) (x : Cont) : (s.setCont c x).poison = s.poison := rfl
@[simp] theorem State.setCont_hostMem (s : State) (c : Nat) (x : Cont) : (s.setCont c x).hostMem = s.hostMem := rfl
@[simp] theorem State.setCont_masters (s : State) (c : Nat) (x : Cont) : (s.setCont c x).masters = s.masters := rfl
@[simp] theorem State.setCont_time (s : State) (c : Nat) (x : Cont) : (s.setCont c x).time = s.time := rfl
@[simp] theorem State.setCont_tiles (s : State) (c : Nat) (x : Cont) : (s.setCont c x).tiles = s.tiles := rfl
@[simp] theorem State.setCont_chans (s : State) (c : Nat) (x : Cont) : (s.setCont c x).chans = s.chans := rfl
@[simp] theorem State.setCont_chanBoot (s : State) (c : Nat) (x : Cont) : (s.setCont c x).chanBoot = s.chanBoot := rfl
@[simp] theorem State.setCont_chanGen (s : State) (c : Nat) (x : Cont) : (s.setCont c x).chanGen = s.chanGen := rfl
@[simp] theorem State.setCont_mortar (s : State) (c : Nat) (x : Cont) : (s.setCont c x).mortar = s.mortar := rfl
@[simp] theorem State.setCont_bricks (s : State) (c : Nat) (x : Cont) : (s.setCont c x).bricks = s.bricks := rfl
@[simp] theorem State.setCont_errLog (s : State) (c : Nat) (x : Cont) : (s.setCont c x).errLog = s.errLog := rfl
@[simp] theorem State.setCont_errOverflow (s : State) (c : Nat) (x : Cont) : (s.setCont c x).errOverflow = s.errOverflow := rfl
@[simp] theorem State.setCont_scrubDone (s : State) (c : Nat) (x : Cont) : (s.setCont c x).scrubDone = s.scrubDone := rfl
@[simp] theorem State.setCont_ctxs (s : State) (c : Nat) (x : Cont) : (s.setCont c x).ctxs = s.ctxs := rfl
@[simp] theorem State.setCont_launches (s : State) (c : Nat) (x : Cont) : (s.setCont c x).launches = s.launches := rfl
@[simp] theorem State.setCont_joints (s : State) (c : Nat) (x : Cont) : (s.setCont c x).joints = s.joints := rfl
@[simp] theorem State.setCont_mail (s : State) (c : Nat) (x : Cont) : (s.setCont c x).mail = s.mail := rfl
@[simp] theorem State.setCont_kv (s : State) (c : Nat) (x : Cont) : (s.setCont c x).kv = s.kv := rfl
@[simp] theorem State.setCont_flash (s : State) (c : Nat) (x : Cont) : (s.setCont c x).flash = s.flash := rfl
@[simp] theorem State.setCont_hostReads (s : State) (c : Nat) (x : Cont) : (s.setCont c x).hostReads = s.hostReads := rfl
@[simp] theorem State.setCont_copies (s : State) (c : Nat) (x : Cont) : (s.setCont c x).copies = s.copies := rfl
@[simp] theorem State.setCont_holdup (s : State) (c : Nat) (x : Cont) : (s.setCont c x).holdup = s.holdup := rfl
@[simp] theorem State.setCont_kiln (s : State) (c : Nat) (x : Cont) : (s.setCont c x).kiln = s.kiln := rfl
@[simp] theorem State.setCont_links (s : State) (c : Nat) (x : Cont) : (s.setCont c x).links = s.links := rfl
@[simp] theorem State.setCont_groups (s : State) (c : Nat) (x : Cont) : (s.setCont c x).groups = s.groups := rfl
@[simp] theorem State.setCont_colls (s : State) (c : Nat) (x : Cont) : (s.setCont c x).colls = s.colls := rfl
@[simp] theorem State.setCont_idle (s : State) (c : Nat) (x : Cont) : (s.setCont c x).idle = s.idle := rfl
@[simp] theorem State.setCont_power (s : State) (c : Nat) (x : Cont) : (s.setCont c x).power = s.power := rfl
@[simp] theorem State.setCont_trust (s : State) (c : Nat) (x : Cont) : (s.setCont c x).trust = s.trust := rfl
@[simp] theorem State.setCont_mgmt (s : State) (c : Nat) (x : Cont) : (s.setCont c x).mgmt = s.mgmt := rfl
@[simp] theorem State.setCont_tests (s : State) (c : Nat) (x : Cont) : (s.setCont c x).tests = s.tests := rfl
@[simp] theorem State.setCont_detourAvoid (s : State) (c : Nat) (x : Cont) : (s.setCont c x).detourAvoid = s.detourAvoid := rfl
@[simp] theorem State.setCont_detourGen (s : State) (c : Nat) (x : Cont) : (s.setCont c x).detourGen = s.detourGen := rfl
@[simp] theorem State.setCont_msix (s : State) (c : Nat) (x : Cont) : (s.setCont c x).msix = s.msix := rfl
@[simp] theorem State.setCont_msixSent (s : State) (c : Nat) (x : Cont) : (s.setCont c x).msixSent = s.msixSent := rfl
@[simp] theorem State.setCont_regPosted (s : State) (c : Nat) (x : Cont) : (s.setCont c x).regPosted = s.regPosted := rfl

/-! ### State.setPage -/

@[simp] theorem State.setPage_variant (s : State) (p : Nat) (x : Page) : (s.setPage p x).variant = s.variant := rfl
@[simp] theorem State.setPage_pending (s : State) (p : Nat) (x : Page) : (s.setPage p x).pending = s.pending := rfl
@[simp] theorem State.setPage_freeCtr (s : State) (p : Nat) (x : Page) : (s.setPage p x).freeCtr = s.freeCtr := rfl
@[simp] theorem State.setPage_nextId (s : State) (p : Nat) (x : Page) : (s.setPage p x).nextId = s.nextId := rfl
@[simp] theorem State.setPage_regs (s : State) (p : Nat) (x : Page) : (s.setPage p x).regs = s.regs := rfl
@[simp] theorem State.setPage_mem (s : State) (p : Nat) (x : Page) : (s.setPage p x).mem = s.mem := rfl
@[simp] theorem State.setPage_poison (s : State) (p : Nat) (x : Page) : (s.setPage p x).poison = s.poison := rfl
@[simp] theorem State.setPage_hostMem (s : State) (p : Nat) (x : Page) : (s.setPage p x).hostMem = s.hostMem := rfl
@[simp] theorem State.setPage_masters (s : State) (p : Nat) (x : Page) : (s.setPage p x).masters = s.masters := rfl
@[simp] theorem State.setPage_time (s : State) (p : Nat) (x : Page) : (s.setPage p x).time = s.time := rfl
@[simp] theorem State.setPage_tiles (s : State) (p : Nat) (x : Page) : (s.setPage p x).tiles = s.tiles := rfl
@[simp] theorem State.setPage_chans (s : State) (p : Nat) (x : Page) : (s.setPage p x).chans = s.chans := rfl
@[simp] theorem State.setPage_chanBoot (s : State) (p : Nat) (x : Page) : (s.setPage p x).chanBoot = s.chanBoot := rfl
@[simp] theorem State.setPage_chanGen (s : State) (p : Nat) (x : Page) : (s.setPage p x).chanGen = s.chanGen := rfl
@[simp] theorem State.setPage_mortar (s : State) (p : Nat) (x : Page) : (s.setPage p x).mortar = s.mortar := rfl
@[simp] theorem State.setPage_bricks (s : State) (p : Nat) (x : Page) : (s.setPage p x).bricks = s.bricks := rfl
@[simp] theorem State.setPage_errLog (s : State) (p : Nat) (x : Page) : (s.setPage p x).errLog = s.errLog := rfl
@[simp] theorem State.setPage_errOverflow (s : State) (p : Nat) (x : Page) : (s.setPage p x).errOverflow = s.errOverflow := rfl
@[simp] theorem State.setPage_scrubDone (s : State) (p : Nat) (x : Page) : (s.setPage p x).scrubDone = s.scrubDone := rfl
@[simp] theorem State.setPage_ctxs (s : State) (p : Nat) (x : Page) : (s.setPage p x).ctxs = s.ctxs := rfl
@[simp] theorem State.setPage_launches (s : State) (p : Nat) (x : Page) : (s.setPage p x).launches = s.launches := rfl
@[simp] theorem State.setPage_joints (s : State) (p : Nat) (x : Page) : (s.setPage p x).joints = s.joints := rfl
@[simp] theorem State.setPage_mail (s : State) (p : Nat) (x : Page) : (s.setPage p x).mail = s.mail := rfl
@[simp] theorem State.setPage_flash (s : State) (p : Nat) (x : Page) : (s.setPage p x).flash = s.flash := rfl
@[simp] theorem State.setPage_hostReads (s : State) (p : Nat) (x : Page) : (s.setPage p x).hostReads = s.hostReads := rfl
@[simp] theorem State.setPage_copies (s : State) (p : Nat) (x : Page) : (s.setPage p x).copies = s.copies := rfl
@[simp] theorem State.setPage_holdup (s : State) (p : Nat) (x : Page) : (s.setPage p x).holdup = s.holdup := rfl
@[simp] theorem State.setPage_kiln (s : State) (p : Nat) (x : Page) : (s.setPage p x).kiln = s.kiln := rfl
@[simp] theorem State.setPage_links (s : State) (p : Nat) (x : Page) : (s.setPage p x).links = s.links := rfl
@[simp] theorem State.setPage_groups (s : State) (p : Nat) (x : Page) : (s.setPage p x).groups = s.groups := rfl
@[simp] theorem State.setPage_colls (s : State) (p : Nat) (x : Page) : (s.setPage p x).colls = s.colls := rfl
@[simp] theorem State.setPage_idle (s : State) (p : Nat) (x : Page) : (s.setPage p x).idle = s.idle := rfl
@[simp] theorem State.setPage_conts (s : State) (p : Nat) (x : Page) : (s.setPage p x).conts = s.conts := rfl
@[simp] theorem State.setPage_power (s : State) (p : Nat) (x : Page) : (s.setPage p x).power = s.power := rfl
@[simp] theorem State.setPage_trust (s : State) (p : Nat) (x : Page) : (s.setPage p x).trust = s.trust := rfl
@[simp] theorem State.setPage_mgmt (s : State) (p : Nat) (x : Page) : (s.setPage p x).mgmt = s.mgmt := rfl
@[simp] theorem State.setPage_tests (s : State) (p : Nat) (x : Page) : (s.setPage p x).tests = s.tests := rfl
@[simp] theorem State.setPage_detourAvoid (s : State) (p : Nat) (x : Page) : (s.setPage p x).detourAvoid = s.detourAvoid := rfl
@[simp] theorem State.setPage_detourGen (s : State) (p : Nat) (x : Page) : (s.setPage p x).detourGen = s.detourGen := rfl
@[simp] theorem State.setPage_msix (s : State) (p : Nat) (x : Page) : (s.setPage p x).msix = s.msix := rfl
@[simp] theorem State.setPage_msixSent (s : State) (p : Nat) (x : Page) : (s.setPage p x).msixSent = s.msixSent := rfl
@[simp] theorem State.setPage_regPosted (s : State) (p : Nat) (x : Page) : (s.setPage p x).regPosted = s.regPosted := rfl

/-! ### State.setScratch -/

@[simp] theorem State.setScratch_variant (s : State) (t o : Nat) (b : List Byte) : (s.setScratch t o b).variant = s.variant := rfl
@[simp] theorem State.setScratch_pending (s : State) (t o : Nat) (b : List Byte) : (s.setScratch t o b).pending = s.pending := rfl
@[simp] theorem State.setScratch_freeCtr (s : State) (t o : Nat) (b : List Byte) : (s.setScratch t o b).freeCtr = s.freeCtr := rfl
@[simp] theorem State.setScratch_nextId (s : State) (t o : Nat) (b : List Byte) : (s.setScratch t o b).nextId = s.nextId := rfl
@[simp] theorem State.setScratch_regs (s : State) (t o : Nat) (b : List Byte) : (s.setScratch t o b).regs = s.regs := rfl
@[simp] theorem State.setScratch_poison (s : State) (t o : Nat) (b : List Byte) : (s.setScratch t o b).poison = s.poison := rfl
@[simp] theorem State.setScratch_hostMem (s : State) (t o : Nat) (b : List Byte) : (s.setScratch t o b).hostMem = s.hostMem := rfl
@[simp] theorem State.setScratch_masters (s : State) (t o : Nat) (b : List Byte) : (s.setScratch t o b).masters = s.masters := rfl
@[simp] theorem State.setScratch_time (s : State) (t o : Nat) (b : List Byte) : (s.setScratch t o b).time = s.time := rfl
@[simp] theorem State.setScratch_tiles (s : State) (t o : Nat) (b : List Byte) : (s.setScratch t o b).tiles = s.tiles := rfl
@[simp] theorem State.setScratch_chans (s : State) (t o : Nat) (b : List Byte) : (s.setScratch t o b).chans = s.chans := rfl
@[simp] theorem State.setScratch_chanBoot (s : State) (t o : Nat) (b : List Byte) : (s.setScratch t o b).chanBoot = s.chanBoot := rfl
@[simp] theorem State.setScratch_chanGen (s : State) (t o : Nat) (b : List Byte) : (s.setScratch t o b).chanGen = s.chanGen := rfl
@[simp] theorem State.setScratch_mortar (s : State) (t o : Nat) (b : List Byte) : (s.setScratch t o b).mortar = s.mortar := rfl
@[simp] theorem State.setScratch_bricks (s : State) (t o : Nat) (b : List Byte) : (s.setScratch t o b).bricks = s.bricks := rfl
@[simp] theorem State.setScratch_errLog (s : State) (t o : Nat) (b : List Byte) : (s.setScratch t o b).errLog = s.errLog := rfl
@[simp] theorem State.setScratch_errOverflow (s : State) (t o : Nat) (b : List Byte) : (s.setScratch t o b).errOverflow = s.errOverflow := rfl
@[simp] theorem State.setScratch_scrubDone (s : State) (t o : Nat) (b : List Byte) : (s.setScratch t o b).scrubDone = s.scrubDone := rfl
@[simp] theorem State.setScratch_ctxs (s : State) (t o : Nat) (b : List Byte) : (s.setScratch t o b).ctxs = s.ctxs := rfl
@[simp] theorem State.setScratch_launches (s : State) (t o : Nat) (b : List Byte) : (s.setScratch t o b).launches = s.launches := rfl
@[simp] theorem State.setScratch_joints (s : State) (t o : Nat) (b : List Byte) : (s.setScratch t o b).joints = s.joints := rfl
@[simp] theorem State.setScratch_mail (s : State) (t o : Nat) (b : List Byte) : (s.setScratch t o b).mail = s.mail := rfl
@[simp] theorem State.setScratch_kv (s : State) (t o : Nat) (b : List Byte) : (s.setScratch t o b).kv = s.kv := rfl
@[simp] theorem State.setScratch_flash (s : State) (t o : Nat) (b : List Byte) : (s.setScratch t o b).flash = s.flash := rfl
@[simp] theorem State.setScratch_hostReads (s : State) (t o : Nat) (b : List Byte) : (s.setScratch t o b).hostReads = s.hostReads := rfl
@[simp] theorem State.setScratch_copies (s : State) (t o : Nat) (b : List Byte) : (s.setScratch t o b).copies = s.copies := rfl
@[simp] theorem State.setScratch_holdup (s : State) (t o : Nat) (b : List Byte) : (s.setScratch t o b).holdup = s.holdup := rfl
@[simp] theorem State.setScratch_kiln (s : State) (t o : Nat) (b : List Byte) : (s.setScratch t o b).kiln = s.kiln := rfl
@[simp] theorem State.setScratch_links (s : State) (t o : Nat) (b : List Byte) : (s.setScratch t o b).links = s.links := rfl
@[simp] theorem State.setScratch_groups (s : State) (t o : Nat) (b : List Byte) : (s.setScratch t o b).groups = s.groups := rfl
@[simp] theorem State.setScratch_colls (s : State) (t o : Nat) (b : List Byte) : (s.setScratch t o b).colls = s.colls := rfl
@[simp] theorem State.setScratch_idle (s : State) (t o : Nat) (b : List Byte) : (s.setScratch t o b).idle = s.idle := rfl
@[simp] theorem State.setScratch_conts (s : State) (t o : Nat) (b : List Byte) : (s.setScratch t o b).conts = s.conts := rfl
@[simp] theorem State.setScratch_power (s : State) (t o : Nat) (b : List Byte) : (s.setScratch t o b).power = s.power := rfl
@[simp] theorem State.setScratch_trust (s : State) (t o : Nat) (b : List Byte) : (s.setScratch t o b).trust = s.trust := rfl
@[simp] theorem State.setScratch_mgmt (s : State) (t o : Nat) (b : List Byte) : (s.setScratch t o b).mgmt = s.mgmt := rfl
@[simp] theorem State.setScratch_tests (s : State) (t o : Nat) (b : List Byte) : (s.setScratch t o b).tests = s.tests := rfl
@[simp] theorem State.setScratch_detourAvoid (s : State) (t o : Nat) (b : List Byte) : (s.setScratch t o b).detourAvoid = s.detourAvoid := rfl
@[simp] theorem State.setScratch_detourGen (s : State) (t o : Nat) (b : List Byte) : (s.setScratch t o b).detourGen = s.detourGen := rfl
@[simp] theorem State.setScratch_msix (s : State) (t o : Nat) (b : List Byte) : (s.setScratch t o b).msix = s.msix := rfl
@[simp] theorem State.setScratch_msixSent (s : State) (t o : Nat) (b : List Byte) : (s.setScratch t o b).msixSent = s.msixSent := rfl
@[simp] theorem State.setScratch_regPosted (s : State) (t o : Nat) (b : List Byte) : (s.setScratch t o b).regPosted = s.regPosted := rfl

/-! ### State.zeroScratch -/

@[simp] theorem State.zeroScratch_variant (s : State) (t : Nat) : (s.zeroScratch t).variant = s.variant := rfl
@[simp] theorem State.zeroScratch_pending (s : State) (t : Nat) : (s.zeroScratch t).pending = s.pending := rfl
@[simp] theorem State.zeroScratch_freeCtr (s : State) (t : Nat) : (s.zeroScratch t).freeCtr = s.freeCtr := rfl
@[simp] theorem State.zeroScratch_nextId (s : State) (t : Nat) : (s.zeroScratch t).nextId = s.nextId := rfl
@[simp] theorem State.zeroScratch_regs (s : State) (t : Nat) : (s.zeroScratch t).regs = s.regs := rfl
@[simp] theorem State.zeroScratch_poison (s : State) (t : Nat) : (s.zeroScratch t).poison = s.poison := rfl
@[simp] theorem State.zeroScratch_hostMem (s : State) (t : Nat) : (s.zeroScratch t).hostMem = s.hostMem := rfl
@[simp] theorem State.zeroScratch_masters (s : State) (t : Nat) : (s.zeroScratch t).masters = s.masters := rfl
@[simp] theorem State.zeroScratch_time (s : State) (t : Nat) : (s.zeroScratch t).time = s.time := rfl
@[simp] theorem State.zeroScratch_tiles (s : State) (t : Nat) : (s.zeroScratch t).tiles = s.tiles := rfl
@[simp] theorem State.zeroScratch_chans (s : State) (t : Nat) : (s.zeroScratch t).chans = s.chans := rfl
@[simp] theorem State.zeroScratch_chanBoot (s : State) (t : Nat) : (s.zeroScratch t).chanBoot = s.chanBoot := rfl
@[simp] theorem State.zeroScratch_chanGen (s : State) (t : Nat) : (s.zeroScratch t).chanGen = s.chanGen := rfl
@[simp] theorem State.zeroScratch_mortar (s : State) (t : Nat) : (s.zeroScratch t).mortar = s.mortar := rfl
@[simp] theorem State.zeroScratch_bricks (s : State) (t : Nat) : (s.zeroScratch t).bricks = s.bricks := rfl
@[simp] theorem State.zeroScratch_errLog (s : State) (t : Nat) : (s.zeroScratch t).errLog = s.errLog := rfl
@[simp] theorem State.zeroScratch_errOverflow (s : State) (t : Nat) : (s.zeroScratch t).errOverflow = s.errOverflow := rfl
@[simp] theorem State.zeroScratch_scrubDone (s : State) (t : Nat) : (s.zeroScratch t).scrubDone = s.scrubDone := rfl
@[simp] theorem State.zeroScratch_ctxs (s : State) (t : Nat) : (s.zeroScratch t).ctxs = s.ctxs := rfl
@[simp] theorem State.zeroScratch_launches (s : State) (t : Nat) : (s.zeroScratch t).launches = s.launches := rfl
@[simp] theorem State.zeroScratch_joints (s : State) (t : Nat) : (s.zeroScratch t).joints = s.joints := rfl
@[simp] theorem State.zeroScratch_mail (s : State) (t : Nat) : (s.zeroScratch t).mail = s.mail := rfl
@[simp] theorem State.zeroScratch_kv (s : State) (t : Nat) : (s.zeroScratch t).kv = s.kv := rfl
@[simp] theorem State.zeroScratch_flash (s : State) (t : Nat) : (s.zeroScratch t).flash = s.flash := rfl
@[simp] theorem State.zeroScratch_hostReads (s : State) (t : Nat) : (s.zeroScratch t).hostReads = s.hostReads := rfl
@[simp] theorem State.zeroScratch_copies (s : State) (t : Nat) : (s.zeroScratch t).copies = s.copies := rfl
@[simp] theorem State.zeroScratch_holdup (s : State) (t : Nat) : (s.zeroScratch t).holdup = s.holdup := rfl
@[simp] theorem State.zeroScratch_kiln (s : State) (t : Nat) : (s.zeroScratch t).kiln = s.kiln := rfl
@[simp] theorem State.zeroScratch_links (s : State) (t : Nat) : (s.zeroScratch t).links = s.links := rfl
@[simp] theorem State.zeroScratch_groups (s : State) (t : Nat) : (s.zeroScratch t).groups = s.groups := rfl
@[simp] theorem State.zeroScratch_colls (s : State) (t : Nat) : (s.zeroScratch t).colls = s.colls := rfl
@[simp] theorem State.zeroScratch_idle (s : State) (t : Nat) : (s.zeroScratch t).idle = s.idle := rfl
@[simp] theorem State.zeroScratch_conts (s : State) (t : Nat) : (s.zeroScratch t).conts = s.conts := rfl
@[simp] theorem State.zeroScratch_power (s : State) (t : Nat) : (s.zeroScratch t).power = s.power := rfl
@[simp] theorem State.zeroScratch_trust (s : State) (t : Nat) : (s.zeroScratch t).trust = s.trust := rfl
@[simp] theorem State.zeroScratch_mgmt (s : State) (t : Nat) : (s.zeroScratch t).mgmt = s.mgmt := rfl
@[simp] theorem State.zeroScratch_tests (s : State) (t : Nat) : (s.zeroScratch t).tests = s.tests := rfl
@[simp] theorem State.zeroScratch_detourAvoid (s : State) (t : Nat) : (s.zeroScratch t).detourAvoid = s.detourAvoid := rfl
@[simp] theorem State.zeroScratch_detourGen (s : State) (t : Nat) : (s.zeroScratch t).detourGen = s.detourGen := rfl
@[simp] theorem State.zeroScratch_msix (s : State) (t : Nat) : (s.zeroScratch t).msix = s.msix := rfl
@[simp] theorem State.zeroScratch_msixSent (s : State) (t : Nat) : (s.zeroScratch t).msixSent = s.msixSent := rfl
@[simp] theorem State.zeroScratch_regPosted (s : State) (t : Nat) : (s.zeroScratch t).regPosted = s.regPosted := rfl

/-! ### State.storeBrick -/

@[simp] theorem State.storeBrick_variant (s : State) (a : Nat) (b : List Byte) (l : List Nat) : (s.storeBrick a b l).variant = s.variant := rfl
@[simp] theorem State.storeBrick_pending (s : State) (a : Nat) (b : List Byte) (l : List Nat) : (s.storeBrick a b l).pending = s.pending := rfl
@[simp] theorem State.storeBrick_freeCtr (s : State) (a : Nat) (b : List Byte) (l : List Nat) : (s.storeBrick a b l).freeCtr = s.freeCtr := rfl
@[simp] theorem State.storeBrick_nextId (s : State) (a : Nat) (b : List Byte) (l : List Nat) : (s.storeBrick a b l).nextId = s.nextId := rfl
@[simp] theorem State.storeBrick_regs (s : State) (a : Nat) (b : List Byte) (l : List Nat) : (s.storeBrick a b l).regs = s.regs := rfl
@[simp] theorem State.storeBrick_hostMem (s : State) (a : Nat) (b : List Byte) (l : List Nat) : (s.storeBrick a b l).hostMem = s.hostMem := rfl
@[simp] theorem State.storeBrick_masters (s : State) (a : Nat) (b : List Byte) (l : List Nat) : (s.storeBrick a b l).masters = s.masters := rfl
@[simp] theorem State.storeBrick_time (s : State) (a : Nat) (b : List Byte) (l : List Nat) : (s.storeBrick a b l).time = s.time := rfl
@[simp] theorem State.storeBrick_tiles (s : State) (a : Nat) (b : List Byte) (l : List Nat) : (s.storeBrick a b l).tiles = s.tiles := rfl
@[simp] theorem State.storeBrick_chans (s : State) (a : Nat) (b : List Byte) (l : List Nat) : (s.storeBrick a b l).chans = s.chans := rfl
@[simp] theorem State.storeBrick_chanBoot (s : State) (a : Nat) (b : List Byte) (l : List Nat) : (s.storeBrick a b l).chanBoot = s.chanBoot := rfl
@[simp] theorem State.storeBrick_chanGen (s : State) (a : Nat) (b : List Byte) (l : List Nat) : (s.storeBrick a b l).chanGen = s.chanGen := rfl
@[simp] theorem State.storeBrick_mortar (s : State) (a : Nat) (b : List Byte) (l : List Nat) : (s.storeBrick a b l).mortar = s.mortar := rfl
@[simp] theorem State.storeBrick_bricks (s : State) (a : Nat) (b : List Byte) (l : List Nat) : (s.storeBrick a b l).bricks = s.bricks := rfl
@[simp] theorem State.storeBrick_errLog (s : State) (a : Nat) (b : List Byte) (l : List Nat) : (s.storeBrick a b l).errLog = s.errLog := rfl
@[simp] theorem State.storeBrick_errOverflow (s : State) (a : Nat) (b : List Byte) (l : List Nat) : (s.storeBrick a b l).errOverflow = s.errOverflow := rfl
@[simp] theorem State.storeBrick_scrubDone (s : State) (a : Nat) (b : List Byte) (l : List Nat) : (s.storeBrick a b l).scrubDone = s.scrubDone := rfl
@[simp] theorem State.storeBrick_ctxs (s : State) (a : Nat) (b : List Byte) (l : List Nat) : (s.storeBrick a b l).ctxs = s.ctxs := rfl
@[simp] theorem State.storeBrick_launches (s : State) (a : Nat) (b : List Byte) (l : List Nat) : (s.storeBrick a b l).launches = s.launches := rfl
@[simp] theorem State.storeBrick_joints (s : State) (a : Nat) (b : List Byte) (l : List Nat) : (s.storeBrick a b l).joints = s.joints := rfl
@[simp] theorem State.storeBrick_mail (s : State) (a : Nat) (b : List Byte) (l : List Nat) : (s.storeBrick a b l).mail = s.mail := rfl
@[simp] theorem State.storeBrick_kv (s : State) (a : Nat) (b : List Byte) (l : List Nat) : (s.storeBrick a b l).kv = s.kv := rfl
@[simp] theorem State.storeBrick_flash (s : State) (a : Nat) (b : List Byte) (l : List Nat) : (s.storeBrick a b l).flash = s.flash := rfl
@[simp] theorem State.storeBrick_hostReads (s : State) (a : Nat) (b : List Byte) (l : List Nat) : (s.storeBrick a b l).hostReads = s.hostReads := rfl
@[simp] theorem State.storeBrick_copies (s : State) (a : Nat) (b : List Byte) (l : List Nat) : (s.storeBrick a b l).copies = s.copies := rfl
@[simp] theorem State.storeBrick_holdup (s : State) (a : Nat) (b : List Byte) (l : List Nat) : (s.storeBrick a b l).holdup = s.holdup := rfl
@[simp] theorem State.storeBrick_kiln (s : State) (a : Nat) (b : List Byte) (l : List Nat) : (s.storeBrick a b l).kiln = s.kiln := rfl
@[simp] theorem State.storeBrick_links (s : State) (a : Nat) (b : List Byte) (l : List Nat) : (s.storeBrick a b l).links = s.links := rfl
@[simp] theorem State.storeBrick_groups (s : State) (a : Nat) (b : List Byte) (l : List Nat) : (s.storeBrick a b l).groups = s.groups := rfl
@[simp] theorem State.storeBrick_colls (s : State) (a : Nat) (b : List Byte) (l : List Nat) : (s.storeBrick a b l).colls = s.colls := rfl
@[simp] theorem State.storeBrick_idle (s : State) (a : Nat) (b : List Byte) (l : List Nat) : (s.storeBrick a b l).idle = s.idle := rfl
@[simp] theorem State.storeBrick_conts (s : State) (a : Nat) (b : List Byte) (l : List Nat) : (s.storeBrick a b l).conts = s.conts := rfl
@[simp] theorem State.storeBrick_power (s : State) (a : Nat) (b : List Byte) (l : List Nat) : (s.storeBrick a b l).power = s.power := rfl
@[simp] theorem State.storeBrick_trust (s : State) (a : Nat) (b : List Byte) (l : List Nat) : (s.storeBrick a b l).trust = s.trust := rfl
@[simp] theorem State.storeBrick_mgmt (s : State) (a : Nat) (b : List Byte) (l : List Nat) : (s.storeBrick a b l).mgmt = s.mgmt := rfl
@[simp] theorem State.storeBrick_tests (s : State) (a : Nat) (b : List Byte) (l : List Nat) : (s.storeBrick a b l).tests = s.tests := rfl
@[simp] theorem State.storeBrick_detourAvoid (s : State) (a : Nat) (b : List Byte) (l : List Nat) : (s.storeBrick a b l).detourAvoid = s.detourAvoid := rfl
@[simp] theorem State.storeBrick_detourGen (s : State) (a : Nat) (b : List Byte) (l : List Nat) : (s.storeBrick a b l).detourGen = s.detourGen := rfl
@[simp] theorem State.storeBrick_msix (s : State) (a : Nat) (b : List Byte) (l : List Nat) : (s.storeBrick a b l).msix = s.msix := rfl
@[simp] theorem State.storeBrick_msixSent (s : State) (a : Nat) (b : List Byte) (l : List Nat) : (s.storeBrick a b l).msixSent = s.msixSent := rfl
@[simp] theorem State.storeBrick_regPosted (s : State) (a : Nat) (b : List Byte) (l : List Nat) : (s.storeBrick a b l).regPosted = s.regPosted := rfl

/-! ### The counters -/

@[simp] theorem State.draw_variant (s : State) : s.draw.2.variant = s.variant := rfl
@[simp] theorem State.draw_pending (s : State) : s.draw.2.pending = s.pending := rfl
@[simp] theorem State.draw_nextId (s : State) : s.draw.2.nextId = s.nextId := rfl
@[simp] theorem State.draw_regs (s : State) : s.draw.2.regs = s.regs := rfl
@[simp] theorem State.draw_mem (s : State) : s.draw.2.mem = s.mem := rfl
@[simp] theorem State.draw_poison (s : State) : s.draw.2.poison = s.poison := rfl
@[simp] theorem State.draw_hostMem (s : State) : s.draw.2.hostMem = s.hostMem := rfl
@[simp] theorem State.draw_masters (s : State) : s.draw.2.masters = s.masters := rfl
@[simp] theorem State.draw_time (s : State) : s.draw.2.time = s.time := rfl
@[simp] theorem State.draw_tiles (s : State) : s.draw.2.tiles = s.tiles := rfl
@[simp] theorem State.draw_chans (s : State) : s.draw.2.chans = s.chans := rfl
@[simp] theorem State.draw_chanBoot (s : State) : s.draw.2.chanBoot = s.chanBoot := rfl
@[simp] theorem State.draw_chanGen (s : State) : s.draw.2.chanGen = s.chanGen := rfl
@[simp] theorem State.draw_mortar (s : State) : s.draw.2.mortar = s.mortar := rfl
@[simp] theorem State.draw_bricks (s : State) : s.draw.2.bricks = s.bricks := rfl
@[simp] theorem State.draw_errLog (s : State) : s.draw.2.errLog = s.errLog := rfl
@[simp] theorem State.draw_errOverflow (s : State) : s.draw.2.errOverflow = s.errOverflow := rfl
@[simp] theorem State.draw_scrubDone (s : State) : s.draw.2.scrubDone = s.scrubDone := rfl
@[simp] theorem State.draw_ctxs (s : State) : s.draw.2.ctxs = s.ctxs := rfl
@[simp] theorem State.draw_launches (s : State) : s.draw.2.launches = s.launches := rfl
@[simp] theorem State.draw_joints (s : State) : s.draw.2.joints = s.joints := rfl
@[simp] theorem State.draw_mail (s : State) : s.draw.2.mail = s.mail := rfl
@[simp] theorem State.draw_kv (s : State) : s.draw.2.kv = s.kv := rfl
@[simp] theorem State.draw_flash (s : State) : s.draw.2.flash = s.flash := rfl
@[simp] theorem State.draw_hostReads (s : State) : s.draw.2.hostReads = s.hostReads := rfl
@[simp] theorem State.draw_copies (s : State) : s.draw.2.copies = s.copies := rfl
@[simp] theorem State.draw_holdup (s : State) : s.draw.2.holdup = s.holdup := rfl
@[simp] theorem State.draw_kiln (s : State) : s.draw.2.kiln = s.kiln := rfl
@[simp] theorem State.draw_links (s : State) : s.draw.2.links = s.links := rfl
@[simp] theorem State.draw_groups (s : State) : s.draw.2.groups = s.groups := rfl
@[simp] theorem State.draw_colls (s : State) : s.draw.2.colls = s.colls := rfl
@[simp] theorem State.draw_idle (s : State) : s.draw.2.idle = s.idle := rfl
@[simp] theorem State.draw_conts (s : State) : s.draw.2.conts = s.conts := rfl
@[simp] theorem State.draw_power (s : State) : s.draw.2.power = s.power := rfl
@[simp] theorem State.draw_trust (s : State) : s.draw.2.trust = s.trust := rfl
@[simp] theorem State.draw_mgmt (s : State) : s.draw.2.mgmt = s.mgmt := rfl
@[simp] theorem State.draw_tests (s : State) : s.draw.2.tests = s.tests := rfl
@[simp] theorem State.draw_detourAvoid (s : State) : s.draw.2.detourAvoid = s.detourAvoid := rfl
@[simp] theorem State.draw_detourGen (s : State) : s.draw.2.detourGen = s.detourGen := rfl
@[simp] theorem State.draw_msix (s : State) : s.draw.2.msix = s.msix := rfl
@[simp] theorem State.draw_msixSent (s : State) : s.draw.2.msixSent = s.msixSent := rfl
@[simp] theorem State.draw_regPosted (s : State) : s.draw.2.regPosted = s.regPosted := rfl
@[simp] theorem State.draw_freeCtr (s : State) : s.draw.2.freeCtr = s.freeCtr + 1 := rfl
@[simp] theorem State.fresh_variant (s : State) : s.fresh.2.variant = s.variant := rfl
@[simp] theorem State.fresh_pending (s : State) : s.fresh.2.pending = s.pending := rfl
@[simp] theorem State.fresh_freeCtr (s : State) : s.fresh.2.freeCtr = s.freeCtr := rfl
@[simp] theorem State.fresh_regs (s : State) : s.fresh.2.regs = s.regs := rfl
@[simp] theorem State.fresh_mem (s : State) : s.fresh.2.mem = s.mem := rfl
@[simp] theorem State.fresh_poison (s : State) : s.fresh.2.poison = s.poison := rfl
@[simp] theorem State.fresh_hostMem (s : State) : s.fresh.2.hostMem = s.hostMem := rfl
@[simp] theorem State.fresh_masters (s : State) : s.fresh.2.masters = s.masters := rfl
@[simp] theorem State.fresh_time (s : State) : s.fresh.2.time = s.time := rfl
@[simp] theorem State.fresh_tiles (s : State) : s.fresh.2.tiles = s.tiles := rfl
@[simp] theorem State.fresh_chans (s : State) : s.fresh.2.chans = s.chans := rfl
@[simp] theorem State.fresh_chanBoot (s : State) : s.fresh.2.chanBoot = s.chanBoot := rfl
@[simp] theorem State.fresh_chanGen (s : State) : s.fresh.2.chanGen = s.chanGen := rfl
@[simp] theorem State.fresh_mortar (s : State) : s.fresh.2.mortar = s.mortar := rfl
@[simp] theorem State.fresh_bricks (s : State) : s.fresh.2.bricks = s.bricks := rfl
@[simp] theorem State.fresh_errLog (s : State) : s.fresh.2.errLog = s.errLog := rfl
@[simp] theorem State.fresh_errOverflow (s : State) : s.fresh.2.errOverflow = s.errOverflow := rfl
@[simp] theorem State.fresh_scrubDone (s : State) : s.fresh.2.scrubDone = s.scrubDone := rfl
@[simp] theorem State.fresh_ctxs (s : State) : s.fresh.2.ctxs = s.ctxs := rfl
@[simp] theorem State.fresh_launches (s : State) : s.fresh.2.launches = s.launches := rfl
@[simp] theorem State.fresh_joints (s : State) : s.fresh.2.joints = s.joints := rfl
@[simp] theorem State.fresh_mail (s : State) : s.fresh.2.mail = s.mail := rfl
@[simp] theorem State.fresh_kv (s : State) : s.fresh.2.kv = s.kv := rfl
@[simp] theorem State.fresh_flash (s : State) : s.fresh.2.flash = s.flash := rfl
@[simp] theorem State.fresh_hostReads (s : State) : s.fresh.2.hostReads = s.hostReads := rfl
@[simp] theorem State.fresh_copies (s : State) : s.fresh.2.copies = s.copies := rfl
@[simp] theorem State.fresh_holdup (s : State) : s.fresh.2.holdup = s.holdup := rfl
@[simp] theorem State.fresh_kiln (s : State) : s.fresh.2.kiln = s.kiln := rfl
@[simp] theorem State.fresh_links (s : State) : s.fresh.2.links = s.links := rfl
@[simp] theorem State.fresh_groups (s : State) : s.fresh.2.groups = s.groups := rfl
@[simp] theorem State.fresh_colls (s : State) : s.fresh.2.colls = s.colls := rfl
@[simp] theorem State.fresh_idle (s : State) : s.fresh.2.idle = s.idle := rfl
@[simp] theorem State.fresh_conts (s : State) : s.fresh.2.conts = s.conts := rfl
@[simp] theorem State.fresh_power (s : State) : s.fresh.2.power = s.power := rfl
@[simp] theorem State.fresh_trust (s : State) : s.fresh.2.trust = s.trust := rfl
@[simp] theorem State.fresh_mgmt (s : State) : s.fresh.2.mgmt = s.mgmt := rfl
@[simp] theorem State.fresh_tests (s : State) : s.fresh.2.tests = s.tests := rfl
@[simp] theorem State.fresh_detourAvoid (s : State) : s.fresh.2.detourAvoid = s.detourAvoid := rfl
@[simp] theorem State.fresh_detourGen (s : State) : s.fresh.2.detourGen = s.detourGen := rfl
@[simp] theorem State.fresh_msix (s : State) : s.fresh.2.msix = s.msix := rfl
@[simp] theorem State.fresh_msixSent (s : State) : s.fresh.2.msixSent = s.msixSent := rfl
@[simp] theorem State.fresh_regPosted (s : State) : s.fresh.2.regPosted = s.regPosted := rfl
@[simp] theorem State.fresh_nextId (s : State) : s.fresh.2.nextId = s.nextId + 1 := rfl

/-! ### Registers: a write changes no part but the register words -/

@[simp] theorem State.setReg_variant (s : State) (off idx v : Nat) : (s.setReg off idx v).variant = s.variant := by
  unfold State.setReg; split <;> rfl
@[simp] theorem State.setReg_pending (s : State) (off idx v : Nat) : (s.setReg off idx v).pending = s.pending := by
  unfold State.setReg; split <;> rfl
@[simp] theorem State.setReg_freeCtr (s : State) (off idx v : Nat) : (s.setReg off idx v).freeCtr = s.freeCtr := by
  unfold State.setReg; split <;> rfl
@[simp] theorem State.setReg_nextId (s : State) (off idx v : Nat) : (s.setReg off idx v).nextId = s.nextId := by
  unfold State.setReg; split <;> rfl
@[simp] theorem State.setReg_mem (s : State) (off idx v : Nat) : (s.setReg off idx v).mem = s.mem := by
  unfold State.setReg; split <;> rfl
@[simp] theorem State.setReg_poison (s : State) (off idx v : Nat) : (s.setReg off idx v).poison = s.poison := by
  unfold State.setReg; split <;> rfl
@[simp] theorem State.setReg_hostMem (s : State) (off idx v : Nat) : (s.setReg off idx v).hostMem = s.hostMem := by
  unfold State.setReg; split <;> rfl
@[simp] theorem State.setReg_masters (s : State) (off idx v : Nat) : (s.setReg off idx v).masters = s.masters := by
  unfold State.setReg; split <;> rfl
@[simp] theorem State.setReg_time (s : State) (off idx v : Nat) : (s.setReg off idx v).time = s.time := by
  unfold State.setReg; split <;> rfl
@[simp] theorem State.setReg_tiles (s : State) (off idx v : Nat) : (s.setReg off idx v).tiles = s.tiles := by
  unfold State.setReg; split <;> rfl
@[simp] theorem State.setReg_chans (s : State) (off idx v : Nat) : (s.setReg off idx v).chans = s.chans := by
  unfold State.setReg; split <;> rfl
@[simp] theorem State.setReg_chanBoot (s : State) (off idx v : Nat) : (s.setReg off idx v).chanBoot = s.chanBoot := by
  unfold State.setReg; split <;> rfl
@[simp] theorem State.setReg_chanGen (s : State) (off idx v : Nat) : (s.setReg off idx v).chanGen = s.chanGen := by
  unfold State.setReg; split <;> rfl
@[simp] theorem State.setReg_mortar (s : State) (off idx v : Nat) : (s.setReg off idx v).mortar = s.mortar := by
  unfold State.setReg; split <;> rfl
@[simp] theorem State.setReg_bricks (s : State) (off idx v : Nat) : (s.setReg off idx v).bricks = s.bricks := by
  unfold State.setReg; split <;> rfl
@[simp] theorem State.setReg_errLog (s : State) (off idx v : Nat) : (s.setReg off idx v).errLog = s.errLog := by
  unfold State.setReg; split <;> rfl
@[simp] theorem State.setReg_errOverflow (s : State) (off idx v : Nat) : (s.setReg off idx v).errOverflow = s.errOverflow := by
  unfold State.setReg; split <;> rfl
@[simp] theorem State.setReg_scrubDone (s : State) (off idx v : Nat) : (s.setReg off idx v).scrubDone = s.scrubDone := by
  unfold State.setReg; split <;> rfl
@[simp] theorem State.setReg_ctxs (s : State) (off idx v : Nat) : (s.setReg off idx v).ctxs = s.ctxs := by
  unfold State.setReg; split <;> rfl
@[simp] theorem State.setReg_launches (s : State) (off idx v : Nat) : (s.setReg off idx v).launches = s.launches := by
  unfold State.setReg; split <;> rfl
@[simp] theorem State.setReg_joints (s : State) (off idx v : Nat) : (s.setReg off idx v).joints = s.joints := by
  unfold State.setReg; split <;> rfl
@[simp] theorem State.setReg_mail (s : State) (off idx v : Nat) : (s.setReg off idx v).mail = s.mail := by
  unfold State.setReg; split <;> rfl
@[simp] theorem State.setReg_kv (s : State) (off idx v : Nat) : (s.setReg off idx v).kv = s.kv := by
  unfold State.setReg; split <;> rfl
@[simp] theorem State.setReg_flash (s : State) (off idx v : Nat) : (s.setReg off idx v).flash = s.flash := by
  unfold State.setReg; split <;> rfl
@[simp] theorem State.setReg_hostReads (s : State) (off idx v : Nat) : (s.setReg off idx v).hostReads = s.hostReads := by
  unfold State.setReg; split <;> rfl
@[simp] theorem State.setReg_copies (s : State) (off idx v : Nat) : (s.setReg off idx v).copies = s.copies := by
  unfold State.setReg; split <;> rfl
@[simp] theorem State.setReg_holdup (s : State) (off idx v : Nat) : (s.setReg off idx v).holdup = s.holdup := by
  unfold State.setReg; split <;> rfl
@[simp] theorem State.setReg_kiln (s : State) (off idx v : Nat) : (s.setReg off idx v).kiln = s.kiln := by
  unfold State.setReg; split <;> rfl
@[simp] theorem State.setReg_links (s : State) (off idx v : Nat) : (s.setReg off idx v).links = s.links := by
  unfold State.setReg; split <;> rfl
@[simp] theorem State.setReg_groups (s : State) (off idx v : Nat) : (s.setReg off idx v).groups = s.groups := by
  unfold State.setReg; split <;> rfl
@[simp] theorem State.setReg_colls (s : State) (off idx v : Nat) : (s.setReg off idx v).colls = s.colls := by
  unfold State.setReg; split <;> rfl
@[simp] theorem State.setReg_idle (s : State) (off idx v : Nat) : (s.setReg off idx v).idle = s.idle := by
  unfold State.setReg; split <;> rfl
@[simp] theorem State.setReg_conts (s : State) (off idx v : Nat) : (s.setReg off idx v).conts = s.conts := by
  unfold State.setReg; split <;> rfl
@[simp] theorem State.setReg_power (s : State) (off idx v : Nat) : (s.setReg off idx v).power = s.power := by
  unfold State.setReg; split <;> rfl
@[simp] theorem State.setReg_trust (s : State) (off idx v : Nat) : (s.setReg off idx v).trust = s.trust := by
  unfold State.setReg; split <;> rfl
@[simp] theorem State.setReg_mgmt (s : State) (off idx v : Nat) : (s.setReg off idx v).mgmt = s.mgmt := by
  unfold State.setReg; split <;> rfl
@[simp] theorem State.setReg_tests (s : State) (off idx v : Nat) : (s.setReg off idx v).tests = s.tests := by
  unfold State.setReg; split <;> rfl
@[simp] theorem State.setReg_detourAvoid (s : State) (off idx v : Nat) : (s.setReg off idx v).detourAvoid = s.detourAvoid := by
  unfold State.setReg; split <;> rfl
@[simp] theorem State.setReg_detourGen (s : State) (off idx v : Nat) : (s.setReg off idx v).detourGen = s.detourGen := by
  unfold State.setReg; split <;> rfl
@[simp] theorem State.setReg_msix (s : State) (off idx v : Nat) : (s.setReg off idx v).msix = s.msix := by
  unfold State.setReg; split <;> rfl
@[simp] theorem State.setReg_msixSent (s : State) (off idx v : Nat) : (s.setReg off idx v).msixSent = s.msixSent := by
  unfold State.setReg; split <;> rfl
@[simp] theorem State.setReg_regPosted (s : State) (off idx v : Nat) : (s.setReg off idx v).regPosted = s.regPosted := by
  unfold State.setReg; split <;> rfl
@[simp] theorem State.bump_variant (s : State) (off idx n : Nat) : (s.bump off idx n).variant = s.variant := State.setReg_variant ..
@[simp] theorem State.bump_pending (s : State) (off idx n : Nat) : (s.bump off idx n).pending = s.pending := State.setReg_pending ..
@[simp] theorem State.bump_freeCtr (s : State) (off idx n : Nat) : (s.bump off idx n).freeCtr = s.freeCtr := State.setReg_freeCtr ..
@[simp] theorem State.bump_nextId (s : State) (off idx n : Nat) : (s.bump off idx n).nextId = s.nextId := State.setReg_nextId ..
@[simp] theorem State.bump_mem (s : State) (off idx n : Nat) : (s.bump off idx n).mem = s.mem := State.setReg_mem ..
@[simp] theorem State.bump_poison (s : State) (off idx n : Nat) : (s.bump off idx n).poison = s.poison := State.setReg_poison ..
@[simp] theorem State.bump_hostMem (s : State) (off idx n : Nat) : (s.bump off idx n).hostMem = s.hostMem := State.setReg_hostMem ..
@[simp] theorem State.bump_masters (s : State) (off idx n : Nat) : (s.bump off idx n).masters = s.masters := State.setReg_masters ..
@[simp] theorem State.bump_time (s : State) (off idx n : Nat) : (s.bump off idx n).time = s.time := State.setReg_time ..
@[simp] theorem State.bump_tiles (s : State) (off idx n : Nat) : (s.bump off idx n).tiles = s.tiles := State.setReg_tiles ..
@[simp] theorem State.bump_chans (s : State) (off idx n : Nat) : (s.bump off idx n).chans = s.chans := State.setReg_chans ..
@[simp] theorem State.bump_chanBoot (s : State) (off idx n : Nat) : (s.bump off idx n).chanBoot = s.chanBoot := State.setReg_chanBoot ..
@[simp] theorem State.bump_chanGen (s : State) (off idx n : Nat) : (s.bump off idx n).chanGen = s.chanGen := State.setReg_chanGen ..
@[simp] theorem State.bump_mortar (s : State) (off idx n : Nat) : (s.bump off idx n).mortar = s.mortar := State.setReg_mortar ..
@[simp] theorem State.bump_bricks (s : State) (off idx n : Nat) : (s.bump off idx n).bricks = s.bricks := State.setReg_bricks ..
@[simp] theorem State.bump_errLog (s : State) (off idx n : Nat) : (s.bump off idx n).errLog = s.errLog := State.setReg_errLog ..
@[simp] theorem State.bump_errOverflow (s : State) (off idx n : Nat) : (s.bump off idx n).errOverflow = s.errOverflow := State.setReg_errOverflow ..
@[simp] theorem State.bump_scrubDone (s : State) (off idx n : Nat) : (s.bump off idx n).scrubDone = s.scrubDone := State.setReg_scrubDone ..
@[simp] theorem State.bump_ctxs (s : State) (off idx n : Nat) : (s.bump off idx n).ctxs = s.ctxs := State.setReg_ctxs ..
@[simp] theorem State.bump_launches (s : State) (off idx n : Nat) : (s.bump off idx n).launches = s.launches := State.setReg_launches ..
@[simp] theorem State.bump_joints (s : State) (off idx n : Nat) : (s.bump off idx n).joints = s.joints := State.setReg_joints ..
@[simp] theorem State.bump_mail (s : State) (off idx n : Nat) : (s.bump off idx n).mail = s.mail := State.setReg_mail ..
@[simp] theorem State.bump_kv (s : State) (off idx n : Nat) : (s.bump off idx n).kv = s.kv := State.setReg_kv ..
@[simp] theorem State.bump_flash (s : State) (off idx n : Nat) : (s.bump off idx n).flash = s.flash := State.setReg_flash ..
@[simp] theorem State.bump_hostReads (s : State) (off idx n : Nat) : (s.bump off idx n).hostReads = s.hostReads := State.setReg_hostReads ..
@[simp] theorem State.bump_copies (s : State) (off idx n : Nat) : (s.bump off idx n).copies = s.copies := State.setReg_copies ..
@[simp] theorem State.bump_holdup (s : State) (off idx n : Nat) : (s.bump off idx n).holdup = s.holdup := State.setReg_holdup ..
@[simp] theorem State.bump_kiln (s : State) (off idx n : Nat) : (s.bump off idx n).kiln = s.kiln := State.setReg_kiln ..
@[simp] theorem State.bump_links (s : State) (off idx n : Nat) : (s.bump off idx n).links = s.links := State.setReg_links ..
@[simp] theorem State.bump_groups (s : State) (off idx n : Nat) : (s.bump off idx n).groups = s.groups := State.setReg_groups ..
@[simp] theorem State.bump_colls (s : State) (off idx n : Nat) : (s.bump off idx n).colls = s.colls := State.setReg_colls ..
@[simp] theorem State.bump_idle (s : State) (off idx n : Nat) : (s.bump off idx n).idle = s.idle := State.setReg_idle ..
@[simp] theorem State.bump_conts (s : State) (off idx n : Nat) : (s.bump off idx n).conts = s.conts := State.setReg_conts ..
@[simp] theorem State.bump_power (s : State) (off idx n : Nat) : (s.bump off idx n).power = s.power := State.setReg_power ..
@[simp] theorem State.bump_trust (s : State) (off idx n : Nat) : (s.bump off idx n).trust = s.trust := State.setReg_trust ..
@[simp] theorem State.bump_mgmt (s : State) (off idx n : Nat) : (s.bump off idx n).mgmt = s.mgmt := State.setReg_mgmt ..
@[simp] theorem State.bump_tests (s : State) (off idx n : Nat) : (s.bump off idx n).tests = s.tests := State.setReg_tests ..
@[simp] theorem State.bump_detourAvoid (s : State) (off idx n : Nat) : (s.bump off idx n).detourAvoid = s.detourAvoid := State.setReg_detourAvoid ..
@[simp] theorem State.bump_detourGen (s : State) (off idx n : Nat) : (s.bump off idx n).detourGen = s.detourGen := State.setReg_detourGen ..
@[simp] theorem State.bump_msix (s : State) (off idx n : Nat) : (s.bump off idx n).msix = s.msix := State.setReg_msix ..
@[simp] theorem State.bump_msixSent (s : State) (off idx n : Nat) : (s.bump off idx n).msixSent = s.msixSent := State.setReg_msixSent ..
@[simp] theorem State.bump_regPosted (s : State) (off idx n : Nat) : (s.bump off idx n).regPosted = s.regPosted := State.setReg_regPosted ..

/-! ### Reading back what was set -/

@[simp] theorem State.tile_setTile_same (s : State) (k : Nat) (x : Tile) : (s.setTile k x).tile k = x := tget_tset_same ..
theorem State.tile_setTile_ne (s : State) {k j : Nat} (x : Tile) (h : j ≠ k) : (s.setTile k x).tile j = s.tile j :=
  tget_tset_ne _ _ _ h
@[simp] theorem State.brick_setBrick_same (s : State) (k : Nat) (x : Brick) : (s.setBrick k x).brick k = x := tget_tset_same ..
theorem State.brick_setBrick_ne (s : State) {k j : Nat} (x : Brick) (h : j ≠ k) : (s.setBrick k x).brick j = s.brick j :=
  tget_tset_ne _ _ _ h
@[simp] theorem State.ctx_setCtx_same (s : State) (k : Nat) (x : Ctx) : (s.setCtx k x).ctx k = x := tget_tset_same ..
theorem State.ctx_setCtx_ne (s : State) {k j : Nat} (x : Ctx) (h : j ≠ k) : (s.setCtx k x).ctx j = s.ctx j :=
  tget_tset_ne _ _ _ h
@[simp] theorem State.joint_setJoint_same (s : State) (k : Nat) (x : Joint) : (s.setJoint k x).joint k = x := tget_tset_same ..
theorem State.joint_setJoint_ne (s : State) {k j : Nat} (x : Joint) (h : j ≠ k) : (s.setJoint k x).joint j = s.joint j :=
  tget_tset_ne _ _ _ h
@[simp] theorem State.mbox_setMbox_same (s : State) (k : Nat) (x : Mailbox) : (s.setMbox k x).mbox k = x := tget_tset_same ..
theorem State.mbox_setMbox_ne (s : State) {k j : Nat} (x : Mailbox) (h : j ≠ k) : (s.setMbox k x).mbox j = s.mbox j :=
  tget_tset_ne _ _ _ h
@[simp] theorem State.master_setMaster_same (s : State) (k : Nat) (x : Master) : (s.setMaster k x).master k = x := tget_tset_same ..
theorem State.master_setMaster_ne (s : State) {k j : Nat} (x : Master) (h : j ≠ k) : (s.setMaster k x).master j = s.master j :=
  tget_tset_ne _ _ _ h
@[simp] theorem State.port_setPort_same (s : State) (k : Nat) (x : Port) : (s.setPort k x).port k = x := tget_tset_same ..
theorem State.port_setPort_ne (s : State) {k j : Nat} (x : Port) (h : j ≠ k) : (s.setPort k x).port j = s.port j :=
  tget_tset_ne _ _ _ h
@[simp] theorem State.cont_setCont_same (s : State) (k : Nat) (x : Cont) : (s.setCont k x).cont k = x := tget_tset_same ..
theorem State.cont_setCont_ne (s : State) {k j : Nat} (x : Cont) (h : j ≠ k) : (s.setCont k x).cont j = s.cont j :=
  tget_tset_ne _ _ _ h
@[simp] theorem State.page_setPage_same (s : State) (k : Nat) (x : Page) : (s.setPage k x).page k = x := tget_tset_same ..
theorem State.page_setPage_ne (s : State) {k j : Nat} (x : Page) (h : j ≠ k) : (s.setPage k x).page j = s.page j :=
  tget_tset_ne _ _ _ h
@[simp] theorem State.chan_setChan_same (s : State) (k : Nat) (x : Chan) : (s.setChan k x).chan k = x := tget_tset_same ..
theorem State.chan_setChan_ne (s : State) {k j : Nat} (x : Chan) (h : j ≠ k) : (s.setChan k x).chan j = s.chan j :=
  tget_tset_ne _ _ _ h
@[simp] theorem State.group_setGroup_same (s : State) (c g : Nat) (x : Group) : (s.setGroup c g x).group c g = x :=
  tget_tset_same ..
@[simp] theorem State.tile_modTile_same (s : State) (t : Nat) (g : Tile → Tile) : (s.modTile t g).tile t = g (s.tile t) :=
  tget_tset_same ..
theorem State.tile_modTile_ne (s : State) {t k : Nat} (g : Tile → Tile) (h : k ≠ t) : (s.modTile t g).tile k = s.tile k :=
  tget_tset_ne _ _ _ h
@[simp] theorem State.ctx_setTile (s : State) (t : Nat) (x : Tile) (p1 : Nat) : (s.setTile t x).ctx p1 = s.ctx p1 := rfl
@[simp] theorem State.joint_setTile (s : State) (t : Nat) (x : Tile) (p1 : Nat) : (s.setTile t x).joint p1 = s.joint p1 := rfl
@[simp] theorem State.mbox_setTile (s : State) (t : Nat) (x : Tile) (p1 : Nat) : (s.setTile t x).mbox p1 = s.mbox p1 := rfl
@[simp] theorem State.master_setTile (s : State) (t : Nat) (x : Tile) (p1 : Nat) : (s.setTile t x).master p1 = s.master p1 := rfl
@[simp] theorem State.port_setTile (s : State) (t : Nat) (x : Tile) (p1 : Nat) : (s.setTile t x).port p1 = s.port p1 := rfl
@[simp] theorem State.cont_setTile (s : State) (t : Nat) (x : Tile) (p1 : Nat) : (s.setTile t x).cont p1 = s.cont p1 := rfl
@[simp] theorem State.page_setTile (s : State) (t : Nat) (x : Tile) (p1 : Nat) : (s.setTile t x).page p1 = s.page p1 := rfl
@[simp] theorem State.brick_setTile (s : State) (t : Nat) (x : Tile) (p1 : Nat) : (s.setTile t x).brick p1 = s.brick p1 := rfl
@[simp] theorem State.now_setTile (s : State) (t : Nat) (x : Tile)  : (s.setTile t x).now  = s.now  := rfl
@[simp] theorem State.reg_setTile (s : State) (t : Nat) (x : Tile) (p1 p2 : Nat) : (s.setTile t x).reg p1 p2 = s.reg p1 p2 := rfl
@[simp] theorem State.scratch_setTile (s : State) (t : Nat) (x : Tile) (p1 p2 p3 : Nat) : (s.setTile t x).scratch p1 p2 p3 = s.scratch p1 p2 p3 := rfl
@[simp] theorem State.ctx_modTile (s : State) (t : Nat) (g : Tile → Tile) (p1 : Nat) : (s.modTile t g).ctx p1 = s.ctx p1 := rfl
@[simp] theorem State.joint_modTile (s : State) (t : Nat) (g : Tile → Tile) (p1 : Nat) : (s.modTile t g).joint p1 = s.joint p1 := rfl
@[simp] theorem State.mbox_modTile (s : State) (t : Nat) (g : Tile → Tile) (p1 : Nat) : (s.modTile t g).mbox p1 = s.mbox p1 := rfl
@[simp] theorem State.master_modTile (s : State) (t : Nat) (g : Tile → Tile) (p1 : Nat) : (s.modTile t g).master p1 = s.master p1 := rfl
@[simp] theorem State.port_modTile (s : State) (t : Nat) (g : Tile → Tile) (p1 : Nat) : (s.modTile t g).port p1 = s.port p1 := rfl
@[simp] theorem State.cont_modTile (s : State) (t : Nat) (g : Tile → Tile) (p1 : Nat) : (s.modTile t g).cont p1 = s.cont p1 := rfl
@[simp] theorem State.page_modTile (s : State) (t : Nat) (g : Tile → Tile) (p1 : Nat) : (s.modTile t g).page p1 = s.page p1 := rfl
@[simp] theorem State.brick_modTile (s : State) (t : Nat) (g : Tile → Tile) (p1 : Nat) : (s.modTile t g).brick p1 = s.brick p1 := rfl
@[simp] theorem State.now_modTile (s : State) (t : Nat) (g : Tile → Tile)  : (s.modTile t g).now  = s.now  := rfl
@[simp] theorem State.reg_modTile (s : State) (t : Nat) (g : Tile → Tile) (p1 p2 : Nat) : (s.modTile t g).reg p1 p2 = s.reg p1 p2 := rfl
@[simp] theorem State.scratch_modTile (s : State) (t : Nat) (g : Tile → Tile) (p1 p2 p3 : Nat) : (s.modTile t g).scratch p1 p2 p3 = s.scratch p1 p2 p3 := rfl
@[simp] theorem State.tile_setChan (s : State) (c : Nat) (x : Chan) (p1 : Nat) : (s.setChan c x).tile p1 = s.tile p1 := rfl
@[simp] theorem State.ctx_setChan (s : State) (c : Nat) (x : Chan) (p1 : Nat) : (s.setChan c x).ctx p1 = s.ctx p1 := rfl
@[simp] theorem State.joint_setChan (s : State) (c : Nat) (x : Chan) (p1 : Nat) : (s.setChan c x).joint p1 = s.joint p1 := rfl
@[simp] theorem State.mbox_setChan (s : State) (c : Nat) (x : Chan) (p1 : Nat) : (s.setChan c x).mbox p1 = s.mbox p1 := rfl
@[simp] theorem State.master_setChan (s : State) (c : Nat) (x : Chan) (p1 : Nat) : (s.setChan c x).master p1 = s.master p1 := rfl
@[simp] theorem State.port_setChan (s : State) (c : Nat) (x : Chan) (p1 : Nat) : (s.setChan c x).port p1 = s.port p1 := rfl
@[simp] theorem State.cont_setChan (s : State) (c : Nat) (x : Chan) (p1 : Nat) : (s.setChan c x).cont p1 = s.cont p1 := rfl
@[simp] theorem State.page_setChan (s : State) (c : Nat) (x : Chan) (p1 : Nat) : (s.setChan c x).page p1 = s.page p1 := rfl
@[simp] theorem State.brick_setChan (s : State) (c : Nat) (x : Chan) (p1 : Nat) : (s.setChan c x).brick p1 = s.brick p1 := rfl
@[simp] theorem State.now_setChan (s : State) (c : Nat) (x : Chan)  : (s.setChan c x).now  = s.now  := rfl
@[simp] theorem State.reg_setChan (s : State) (c : Nat) (x : Chan) (p1 p2 : Nat) : (s.setChan c x).reg p1 p2 = s.reg p1 p2 := rfl
@[simp] theorem State.scratch_setChan (s : State) (c : Nat) (x : Chan) (p1 p2 p3 : Nat) : (s.setChan c x).scratch p1 p2 p3 = s.scratch p1 p2 p3 := rfl
@[simp] theorem State.tile_setBrick (s : State) (b : Nat) (x : Brick) (p1 : Nat) : (s.setBrick b x).tile p1 = s.tile p1 := rfl
@[simp] theorem State.ctx_setBrick (s : State) (b : Nat) (x : Brick) (p1 : Nat) : (s.setBrick b x).ctx p1 = s.ctx p1 := rfl
@[simp] theorem State.joint_setBrick (s : State) (b : Nat) (x : Brick) (p1 : Nat) : (s.setBrick b x).joint p1 = s.joint p1 := rfl
@[simp] theorem State.mbox_setBrick (s : State) (b : Nat) (x : Brick) (p1 : Nat) : (s.setBrick b x).mbox p1 = s.mbox p1 := rfl
@[simp] theorem State.master_setBrick (s : State) (b : Nat) (x : Brick) (p1 : Nat) : (s.setBrick b x).master p1 = s.master p1 := rfl
@[simp] theorem State.port_setBrick (s : State) (b : Nat) (x : Brick) (p1 : Nat) : (s.setBrick b x).port p1 = s.port p1 := rfl
@[simp] theorem State.cont_setBrick (s : State) (b : Nat) (x : Brick) (p1 : Nat) : (s.setBrick b x).cont p1 = s.cont p1 := rfl
@[simp] theorem State.page_setBrick (s : State) (b : Nat) (x : Brick) (p1 : Nat) : (s.setBrick b x).page p1 = s.page p1 := rfl
@[simp] theorem State.now_setBrick (s : State) (b : Nat) (x : Brick)  : (s.setBrick b x).now  = s.now  := rfl
@[simp] theorem State.reg_setBrick (s : State) (b : Nat) (x : Brick) (p1 p2 : Nat) : (s.setBrick b x).reg p1 p2 = s.reg p1 p2 := rfl
@[simp] theorem State.scratch_setBrick (s : State) (b : Nat) (x : Brick) (p1 p2 p3 : Nat) : (s.setBrick b x).scratch p1 p2 p3 = s.scratch p1 p2 p3 := rfl
@[simp] theorem State.tile_setCtx (s : State) (c : Nat) (x : Ctx) (p1 : Nat) : (s.setCtx c x).tile p1 = s.tile p1 := rfl
@[simp] theorem State.joint_setCtx (s : State) (c : Nat) (x : Ctx) (p1 : Nat) : (s.setCtx c x).joint p1 = s.joint p1 := rfl
@[simp] theorem State.mbox_setCtx (s : State) (c : Nat) (x : Ctx) (p1 : Nat) : (s.setCtx c x).mbox p1 = s.mbox p1 := rfl
@[simp] theorem State.master_setCtx (s : State) (c : Nat) (x : Ctx) (p1 : Nat) : (s.setCtx c x).master p1 = s.master p1 := rfl
@[simp] theorem State.port_setCtx (s : State) (c : Nat) (x : Ctx) (p1 : Nat) : (s.setCtx c x).port p1 = s.port p1 := rfl
@[simp] theorem State.cont_setCtx (s : State) (c : Nat) (x : Ctx) (p1 : Nat) : (s.setCtx c x).cont p1 = s.cont p1 := rfl
@[simp] theorem State.page_setCtx (s : State) (c : Nat) (x : Ctx) (p1 : Nat) : (s.setCtx c x).page p1 = s.page p1 := rfl
@[simp] theorem State.brick_setCtx (s : State) (c : Nat) (x : Ctx) (p1 : Nat) : (s.setCtx c x).brick p1 = s.brick p1 := rfl
@[simp] theorem State.now_setCtx (s : State) (c : Nat) (x : Ctx)  : (s.setCtx c x).now  = s.now  := rfl
@[simp] theorem State.reg_setCtx (s : State) (c : Nat) (x : Ctx) (p1 p2 : Nat) : (s.setCtx c x).reg p1 p2 = s.reg p1 p2 := rfl
@[simp] theorem State.scratch_setCtx (s : State) (c : Nat) (x : Ctx) (p1 p2 p3 : Nat) : (s.setCtx c x).scratch p1 p2 p3 = s.scratch p1 p2 p3 := rfl
@[simp] theorem State.tile_setRing (s : State) (c q : Nat) (x : SRing) (p1 : Nat) : (s.setRing c q x).tile p1 = s.tile p1 := rfl
@[simp] theorem State.joint_setRing (s : State) (c q : Nat) (x : SRing) (p1 : Nat) : (s.setRing c q x).joint p1 = s.joint p1 := rfl
@[simp] theorem State.mbox_setRing (s : State) (c q : Nat) (x : SRing) (p1 : Nat) : (s.setRing c q x).mbox p1 = s.mbox p1 := rfl
@[simp] theorem State.master_setRing (s : State) (c q : Nat) (x : SRing) (p1 : Nat) : (s.setRing c q x).master p1 = s.master p1 := rfl
@[simp] theorem State.port_setRing (s : State) (c q : Nat) (x : SRing) (p1 : Nat) : (s.setRing c q x).port p1 = s.port p1 := rfl
@[simp] theorem State.cont_setRing (s : State) (c q : Nat) (x : SRing) (p1 : Nat) : (s.setRing c q x).cont p1 = s.cont p1 := rfl
@[simp] theorem State.page_setRing (s : State) (c q : Nat) (x : SRing) (p1 : Nat) : (s.setRing c q x).page p1 = s.page p1 := rfl
@[simp] theorem State.brick_setRing (s : State) (c q : Nat) (x : SRing) (p1 : Nat) : (s.setRing c q x).brick p1 = s.brick p1 := rfl
@[simp] theorem State.now_setRing (s : State) (c q : Nat) (x : SRing)  : (s.setRing c q x).now  = s.now  := rfl
@[simp] theorem State.reg_setRing (s : State) (c q : Nat) (x : SRing) (p1 p2 : Nat) : (s.setRing c q x).reg p1 p2 = s.reg p1 p2 := rfl
@[simp] theorem State.scratch_setRing (s : State) (c q : Nat) (x : SRing) (p1 p2 p3 : Nat) : (s.setRing c q x).scratch p1 p2 p3 = s.scratch p1 p2 p3 := rfl
@[simp] theorem State.tile_setCRing (s : State) (c q : Nat) (x : CRing) (p1 : Nat) : (s.setCRing c q x).tile p1 = s.tile p1 := rfl
@[simp] theorem State.joint_setCRing (s : State) (c q : Nat) (x : CRing) (p1 : Nat) : (s.setCRing c q x).joint p1 = s.joint p1 := rfl
@[simp] theorem State.mbox_setCRing (s : State) (c q : Nat) (x : CRing) (p1 : Nat) : (s.setCRing c q x).mbox p1 = s.mbox p1 := rfl
@[simp] theorem State.master_setCRing (s : State) (c q : Nat) (x : CRing) (p1 : Nat) : (s.setCRing c q x).master p1 = s.master p1 := rfl
@[simp] theorem State.port_setCRing (s : State) (c q : Nat) (x : CRing) (p1 : Nat) : (s.setCRing c q x).port p1 = s.port p1 := rfl
@[simp] theorem State.cont_setCRing (s : State) (c q : Nat) (x : CRing) (p1 : Nat) : (s.setCRing c q x).cont p1 = s.cont p1 := rfl
@[simp] theorem State.page_setCRing (s : State) (c q : Nat) (x : CRing) (p1 : Nat) : (s.setCRing c q x).page p1 = s.page p1 := rfl
@[simp] theorem State.brick_setCRing (s : State) (c q : Nat) (x : CRing) (p1 : Nat) : (s.setCRing c q x).brick p1 = s.brick p1 := rfl
@[simp] theorem State.now_setCRing (s : State) (c q : Nat) (x : CRing)  : (s.setCRing c q x).now  = s.now  := rfl
@[simp] theorem State.reg_setCRing (s : State) (c q : Nat) (x : CRing) (p1 p2 : Nat) : (s.setCRing c q x).reg p1 p2 = s.reg p1 p2 := rfl
@[simp] theorem State.scratch_setCRing (s : State) (c q : Nat) (x : CRing) (p1 p2 p3 : Nat) : (s.setCRing c q x).scratch p1 p2 p3 = s.scratch p1 p2 p3 := rfl
@[simp] theorem State.tile_setJoint (s : State) (j : Nat) (x : Joint) (p1 : Nat) : (s.setJoint j x).tile p1 = s.tile p1 := rfl
@[simp] theorem State.ctx_setJoint (s : State) (j : Nat) (x : Joint) (p1 : Nat) : (s.setJoint j x).ctx p1 = s.ctx p1 := rfl
@[simp] theorem State.mbox_setJoint (s : State) (j : Nat) (x : Joint) (p1 : Nat) : (s.setJoint j x).mbox p1 = s.mbox p1 := rfl
@[simp] theorem State.master_setJoint (s : State) (j : Nat) (x : Joint) (p1 : Nat) : (s.setJoint j x).master p1 = s.master p1 := rfl
@[simp] theorem State.port_setJoint (s : State) (j : Nat) (x : Joint) (p1 : Nat) : (s.setJoint j x).port p1 = s.port p1 := rfl
@[simp] theorem State.cont_setJoint (s : State) (j : Nat) (x : Joint) (p1 : Nat) : (s.setJoint j x).cont p1 = s.cont p1 := rfl
@[simp] theorem State.page_setJoint (s : State) (j : Nat) (x : Joint) (p1 : Nat) : (s.setJoint j x).page p1 = s.page p1 := rfl
@[simp] theorem State.brick_setJoint (s : State) (j : Nat) (x : Joint) (p1 : Nat) : (s.setJoint j x).brick p1 = s.brick p1 := rfl
@[simp] theorem State.now_setJoint (s : State) (j : Nat) (x : Joint)  : (s.setJoint j x).now  = s.now  := rfl
@[simp] theorem State.reg_setJoint (s : State) (j : Nat) (x : Joint) (p1 p2 : Nat) : (s.setJoint j x).reg p1 p2 = s.reg p1 p2 := rfl
@[simp] theorem State.scratch_setJoint (s : State) (j : Nat) (x : Joint) (p1 p2 p3 : Nat) : (s.setJoint j x).scratch p1 p2 p3 = s.scratch p1 p2 p3 := rfl
@[simp] theorem State.tile_setMbox (s : State) (c : Nat) (x : Mailbox) (p1 : Nat) : (s.setMbox c x).tile p1 = s.tile p1 := rfl
@[simp] theorem State.ctx_setMbox (s : State) (c : Nat) (x : Mailbox) (p1 : Nat) : (s.setMbox c x).ctx p1 = s.ctx p1 := rfl
@[simp] theorem State.joint_setMbox (s : State) (c : Nat) (x : Mailbox) (p1 : Nat) : (s.setMbox c x).joint p1 = s.joint p1 := rfl
@[simp] theorem State.master_setMbox (s : State) (c : Nat) (x : Mailbox) (p1 : Nat) : (s.setMbox c x).master p1 = s.master p1 := rfl
@[simp] theorem State.port_setMbox (s : State) (c : Nat) (x : Mailbox) (p1 : Nat) : (s.setMbox c x).port p1 = s.port p1 := rfl
@[simp] theorem State.cont_setMbox (s : State) (c : Nat) (x : Mailbox) (p1 : Nat) : (s.setMbox c x).cont p1 = s.cont p1 := rfl
@[simp] theorem State.page_setMbox (s : State) (c : Nat) (x : Mailbox) (p1 : Nat) : (s.setMbox c x).page p1 = s.page p1 := rfl
@[simp] theorem State.brick_setMbox (s : State) (c : Nat) (x : Mailbox) (p1 : Nat) : (s.setMbox c x).brick p1 = s.brick p1 := rfl
@[simp] theorem State.now_setMbox (s : State) (c : Nat) (x : Mailbox)  : (s.setMbox c x).now  = s.now  := rfl
@[simp] theorem State.reg_setMbox (s : State) (c : Nat) (x : Mailbox) (p1 p2 : Nat) : (s.setMbox c x).reg p1 p2 = s.reg p1 p2 := rfl
@[simp] theorem State.scratch_setMbox (s : State) (c : Nat) (x : Mailbox) (p1 p2 p3 : Nat) : (s.setMbox c x).scratch p1 p2 p3 = s.scratch p1 p2 p3 := rfl
@[simp] theorem State.tile_setMaster (s : State) (m : Nat) (x : Master) (p1 : Nat) : (s.setMaster m x).tile p1 = s.tile p1 := rfl
@[simp] theorem State.ctx_setMaster (s : State) (m : Nat) (x : Master) (p1 : Nat) : (s.setMaster m x).ctx p1 = s.ctx p1 := rfl
@[simp] theorem State.joint_setMaster (s : State) (m : Nat) (x : Master) (p1 : Nat) : (s.setMaster m x).joint p1 = s.joint p1 := rfl
@[simp] theorem State.mbox_setMaster (s : State) (m : Nat) (x : Master) (p1 : Nat) : (s.setMaster m x).mbox p1 = s.mbox p1 := rfl
@[simp] theorem State.port_setMaster (s : State) (m : Nat) (x : Master) (p1 : Nat) : (s.setMaster m x).port p1 = s.port p1 := rfl
@[simp] theorem State.cont_setMaster (s : State) (m : Nat) (x : Master) (p1 : Nat) : (s.setMaster m x).cont p1 = s.cont p1 := rfl
@[simp] theorem State.page_setMaster (s : State) (m : Nat) (x : Master) (p1 : Nat) : (s.setMaster m x).page p1 = s.page p1 := rfl
@[simp] theorem State.brick_setMaster (s : State) (m : Nat) (x : Master) (p1 : Nat) : (s.setMaster m x).brick p1 = s.brick p1 := rfl
@[simp] theorem State.now_setMaster (s : State) (m : Nat) (x : Master)  : (s.setMaster m x).now  = s.now  := rfl
@[simp] theorem State.reg_setMaster (s : State) (m : Nat) (x : Master) (p1 p2 : Nat) : (s.setMaster m x).reg p1 p2 = s.reg p1 p2 := rfl
@[simp] theorem State.scratch_setMaster (s : State) (m : Nat) (x : Master) (p1 p2 p3 : Nat) : (s.setMaster m x).scratch p1 p2 p3 = s.scratch p1 p2 p3 := rfl
@[simp] theorem State.tile_setPort (s : State) (p : Nat) (x : Port) (p1 : Nat) : (s.setPort p x).tile p1 = s.tile p1 := rfl
@[simp] theorem State.ctx_setPort (s : State) (p : Nat) (x : Port) (p1 : Nat) : (s.setPort p x).ctx p1 = s.ctx p1 := rfl
@[simp] theorem State.joint_setPort (s : State) (p : Nat) (x : Port) (p1 : Nat) : (s.setPort p x).joint p1 = s.joint p1 := rfl
@[simp] theorem State.mbox_setPort (s : State) (p : Nat) (x : Port) (p1 : Nat) : (s.setPort p x).mbox p1 = s.mbox p1 := rfl
@[simp] theorem State.master_setPort (s : State) (p : Nat) (x : Port) (p1 : Nat) : (s.setPort p x).master p1 = s.master p1 := rfl
@[simp] theorem State.cont_setPort (s : State) (p : Nat) (x : Port) (p1 : Nat) : (s.setPort p x).cont p1 = s.cont p1 := rfl
@[simp] theorem State.page_setPort (s : State) (p : Nat) (x : Port) (p1 : Nat) : (s.setPort p x).page p1 = s.page p1 := rfl
@[simp] theorem State.brick_setPort (s : State) (p : Nat) (x : Port) (p1 : Nat) : (s.setPort p x).brick p1 = s.brick p1 := rfl
@[simp] theorem State.now_setPort (s : State) (p : Nat) (x : Port)  : (s.setPort p x).now  = s.now  := rfl
@[simp] theorem State.reg_setPort (s : State) (p : Nat) (x : Port) (p1 p2 : Nat) : (s.setPort p x).reg p1 p2 = s.reg p1 p2 := rfl
@[simp] theorem State.scratch_setPort (s : State) (p : Nat) (x : Port) (p1 p2 p3 : Nat) : (s.setPort p x).scratch p1 p2 p3 = s.scratch p1 p2 p3 := rfl
@[simp] theorem State.tile_setGroup (s : State) (c g : Nat) (x : Group) (p1 : Nat) : (s.setGroup c g x).tile p1 = s.tile p1 := rfl
@[simp] theorem State.ctx_setGroup (s : State) (c g : Nat) (x : Group) (p1 : Nat) : (s.setGroup c g x).ctx p1 = s.ctx p1 := rfl
@[simp] theorem State.joint_setGroup (s : State) (c g : Nat) (x : Group) (p1 : Nat) : (s.setGroup c g x).joint p1 = s.joint p1 := rfl
@[simp] theorem State.mbox_setGroup (s : State) (c g : Nat) (x : Group) (p1 : Nat) : (s.setGroup c g x).mbox p1 = s.mbox p1 := rfl
@[simp] theorem State.master_setGroup (s : State) (c g : Nat) (x : Group) (p1 : Nat) : (s.setGroup c g x).master p1 = s.master p1 := rfl
@[simp] theorem State.port_setGroup (s : State) (c g : Nat) (x : Group) (p1 : Nat) : (s.setGroup c g x).port p1 = s.port p1 := rfl
@[simp] theorem State.cont_setGroup (s : State) (c g : Nat) (x : Group) (p1 : Nat) : (s.setGroup c g x).cont p1 = s.cont p1 := rfl
@[simp] theorem State.page_setGroup (s : State) (c g : Nat) (x : Group) (p1 : Nat) : (s.setGroup c g x).page p1 = s.page p1 := rfl
@[simp] theorem State.brick_setGroup (s : State) (c g : Nat) (x : Group) (p1 : Nat) : (s.setGroup c g x).brick p1 = s.brick p1 := rfl
@[simp] theorem State.now_setGroup (s : State) (c g : Nat) (x : Group)  : (s.setGroup c g x).now  = s.now  := rfl
@[simp] theorem State.reg_setGroup (s : State) (c g : Nat) (x : Group) (p1 p2 : Nat) : (s.setGroup c g x).reg p1 p2 = s.reg p1 p2 := rfl
@[simp] theorem State.scratch_setGroup (s : State) (c g : Nat) (x : Group) (p1 p2 p3 : Nat) : (s.setGroup c g x).scratch p1 p2 p3 = s.scratch p1 p2 p3 := rfl
@[simp] theorem State.tile_setCont (s : State) (c : Nat) (x : Cont) (p1 : Nat) : (s.setCont c x).tile p1 = s.tile p1 := rfl
@[simp] theorem State.ctx_setCont (s : State) (c : Nat) (x : Cont) (p1 : Nat) : (s.setCont c x).ctx p1 = s.ctx p1 := rfl
@[simp] theorem State.joint_setCont (s : State) (c : Nat) (x : Cont) (p1 : Nat) : (s.setCont c x).joint p1 = s.joint p1 := rfl
@[simp] theorem State.mbox_setCont (s : State) (c : Nat) (x : Cont) (p1 : Nat) : (s.setCont c x).mbox p1 = s.mbox p1 := rfl
@[simp] theorem State.master_setCont (s : State) (c : Nat) (x : Cont) (p1 : Nat) : (s.setCont c x).master p1 = s.master p1 := rfl
@[simp] theorem State.port_setCont (s : State) (c : Nat) (x : Cont) (p1 : Nat) : (s.setCont c x).port p1 = s.port p1 := rfl
@[simp] theorem State.page_setCont (s : State) (c : Nat) (x : Cont) (p1 : Nat) : (s.setCont c x).page p1 = s.page p1 := rfl
@[simp] theorem State.brick_setCont (s : State) (c : Nat) (x : Cont) (p1 : Nat) : (s.setCont c x).brick p1 = s.brick p1 := rfl
@[simp] theorem State.now_setCont (s : State) (c : Nat) (x : Cont)  : (s.setCont c x).now  = s.now  := rfl
@[simp] theorem State.reg_setCont (s : State) (c : Nat) (x : Cont) (p1 p2 : Nat) : (s.setCont c x).reg p1 p2 = s.reg p1 p2 := rfl
@[simp] theorem State.scratch_setCont (s : State) (c : Nat) (x : Cont) (p1 p2 p3 : Nat) : (s.setCont c x).scratch p1 p2 p3 = s.scratch p1 p2 p3 := rfl
@[simp] theorem State.tile_setPage (s : State) (p : Nat) (x : Page) (p1 : Nat) : (s.setPage p x).tile p1 = s.tile p1 := rfl
@[simp] theorem State.ctx_setPage (s : State) (p : Nat) (x : Page) (p1 : Nat) : (s.setPage p x).ctx p1 = s.ctx p1 := rfl
@[simp] theorem State.joint_setPage (s : State) (p : Nat) (x : Page) (p1 : Nat) : (s.setPage p x).joint p1 = s.joint p1 := rfl
@[simp] theorem State.mbox_setPage (s : State) (p : Nat) (x : Page) (p1 : Nat) : (s.setPage p x).mbox p1 = s.mbox p1 := rfl
@[simp] theorem State.master_setPage (s : State) (p : Nat) (x : Page) (p1 : Nat) : (s.setPage p x).master p1 = s.master p1 := rfl
@[simp] theorem State.port_setPage (s : State) (p : Nat) (x : Page) (p1 : Nat) : (s.setPage p x).port p1 = s.port p1 := rfl
@[simp] theorem State.cont_setPage (s : State) (p : Nat) (x : Page) (p1 : Nat) : (s.setPage p x).cont p1 = s.cont p1 := rfl
@[simp] theorem State.brick_setPage (s : State) (p : Nat) (x : Page) (p1 : Nat) : (s.setPage p x).brick p1 = s.brick p1 := rfl
@[simp] theorem State.now_setPage (s : State) (p : Nat) (x : Page)  : (s.setPage p x).now  = s.now  := rfl
@[simp] theorem State.reg_setPage (s : State) (p : Nat) (x : Page) (p1 p2 : Nat) : (s.setPage p x).reg p1 p2 = s.reg p1 p2 := rfl
@[simp] theorem State.scratch_setPage (s : State) (p : Nat) (x : Page) (p1 p2 p3 : Nat) : (s.setPage p x).scratch p1 p2 p3 = s.scratch p1 p2 p3 := rfl
@[simp] theorem State.tile_setScratch (s : State) (t o : Nat) (b : List Byte) (p1 : Nat) : (s.setScratch t o b).tile p1 = s.tile p1 := rfl
@[simp] theorem State.ctx_setScratch (s : State) (t o : Nat) (b : List Byte) (p1 : Nat) : (s.setScratch t o b).ctx p1 = s.ctx p1 := rfl
@[simp] theorem State.joint_setScratch (s : State) (t o : Nat) (b : List Byte) (p1 : Nat) : (s.setScratch t o b).joint p1 = s.joint p1 := rfl
@[simp] theorem State.mbox_setScratch (s : State) (t o : Nat) (b : List Byte) (p1 : Nat) : (s.setScratch t o b).mbox p1 = s.mbox p1 := rfl
@[simp] theorem State.master_setScratch (s : State) (t o : Nat) (b : List Byte) (p1 : Nat) : (s.setScratch t o b).master p1 = s.master p1 := rfl
@[simp] theorem State.port_setScratch (s : State) (t o : Nat) (b : List Byte) (p1 : Nat) : (s.setScratch t o b).port p1 = s.port p1 := rfl
@[simp] theorem State.cont_setScratch (s : State) (t o : Nat) (b : List Byte) (p1 : Nat) : (s.setScratch t o b).cont p1 = s.cont p1 := rfl
@[simp] theorem State.page_setScratch (s : State) (t o : Nat) (b : List Byte) (p1 : Nat) : (s.setScratch t o b).page p1 = s.page p1 := rfl
@[simp] theorem State.brick_setScratch (s : State) (t o : Nat) (b : List Byte) (p1 : Nat) : (s.setScratch t o b).brick p1 = s.brick p1 := rfl
@[simp] theorem State.now_setScratch (s : State) (t o : Nat) (b : List Byte)  : (s.setScratch t o b).now  = s.now  := rfl
@[simp] theorem State.reg_setScratch (s : State) (t o : Nat) (b : List Byte) (p1 p2 : Nat) : (s.setScratch t o b).reg p1 p2 = s.reg p1 p2 := rfl
@[simp] theorem State.tile_zeroScratch (s : State) (t : Nat) (p1 : Nat) : (s.zeroScratch t).tile p1 = s.tile p1 := rfl
@[simp] theorem State.ctx_zeroScratch (s : State) (t : Nat) (p1 : Nat) : (s.zeroScratch t).ctx p1 = s.ctx p1 := rfl
@[simp] theorem State.joint_zeroScratch (s : State) (t : Nat) (p1 : Nat) : (s.zeroScratch t).joint p1 = s.joint p1 := rfl
@[simp] theorem State.mbox_zeroScratch (s : State) (t : Nat) (p1 : Nat) : (s.zeroScratch t).mbox p1 = s.mbox p1 := rfl
@[simp] theorem State.master_zeroScratch (s : State) (t : Nat) (p1 : Nat) : (s.zeroScratch t).master p1 = s.master p1 := rfl
@[simp] theorem State.port_zeroScratch (s : State) (t : Nat) (p1 : Nat) : (s.zeroScratch t).port p1 = s.port p1 := rfl
@[simp] theorem State.cont_zeroScratch (s : State) (t : Nat) (p1 : Nat) : (s.zeroScratch t).cont p1 = s.cont p1 := rfl
@[simp] theorem State.page_zeroScratch (s : State) (t : Nat) (p1 : Nat) : (s.zeroScratch t).page p1 = s.page p1 := rfl
@[simp] theorem State.brick_zeroScratch (s : State) (t : Nat) (p1 : Nat) : (s.zeroScratch t).brick p1 = s.brick p1 := rfl
@[simp] theorem State.now_zeroScratch (s : State) (t : Nat)  : (s.zeroScratch t).now  = s.now  := rfl
@[simp] theorem State.reg_zeroScratch (s : State) (t : Nat) (p1 p2 : Nat) : (s.zeroScratch t).reg p1 p2 = s.reg p1 p2 := rfl
@[simp] theorem State.tile_storeBrick (s : State) (a : Nat) (b : List Byte) (l : List Nat) (p1 : Nat) : (s.storeBrick a b l).tile p1 = s.tile p1 := rfl
@[simp] theorem State.ctx_storeBrick (s : State) (a : Nat) (b : List Byte) (l : List Nat) (p1 : Nat) : (s.storeBrick a b l).ctx p1 = s.ctx p1 := rfl
@[simp] theorem State.joint_storeBrick (s : State) (a : Nat) (b : List Byte) (l : List Nat) (p1 : Nat) : (s.storeBrick a b l).joint p1 = s.joint p1 := rfl
@[simp] theorem State.mbox_storeBrick (s : State) (a : Nat) (b : List Byte) (l : List Nat) (p1 : Nat) : (s.storeBrick a b l).mbox p1 = s.mbox p1 := rfl
@[simp] theorem State.master_storeBrick (s : State) (a : Nat) (b : List Byte) (l : List Nat) (p1 : Nat) : (s.storeBrick a b l).master p1 = s.master p1 := rfl
@[simp] theorem State.port_storeBrick (s : State) (a : Nat) (b : List Byte) (l : List Nat) (p1 : Nat) : (s.storeBrick a b l).port p1 = s.port p1 := rfl
@[simp] theorem State.cont_storeBrick (s : State) (a : Nat) (b : List Byte) (l : List Nat) (p1 : Nat) : (s.storeBrick a b l).cont p1 = s.cont p1 := rfl
@[simp] theorem State.page_storeBrick (s : State) (a : Nat) (b : List Byte) (l : List Nat) (p1 : Nat) : (s.storeBrick a b l).page p1 = s.page p1 := rfl
@[simp] theorem State.brick_storeBrick (s : State) (a : Nat) (b : List Byte) (l : List Nat) (p1 : Nat) : (s.storeBrick a b l).brick p1 = s.brick p1 := rfl
@[simp] theorem State.now_storeBrick (s : State) (a : Nat) (b : List Byte) (l : List Nat)  : (s.storeBrick a b l).now  = s.now  := rfl
@[simp] theorem State.reg_storeBrick (s : State) (a : Nat) (b : List Byte) (l : List Nat) (p1 p2 : Nat) : (s.storeBrick a b l).reg p1 p2 = s.reg p1 p2 := rfl
@[simp] theorem State.tile_setReg (s : State) (off idx v : Nat) (p1 : Nat) : (s.setReg off idx v).tile p1 = s.tile p1 := by
  unfold State.setReg; split <;> rfl
@[simp] theorem State.tile_bump (s : State) (off idx n : Nat) (p1 : Nat) : (s.bump off idx n).tile p1 = s.tile p1 := State.tile_setReg ..
@[simp] theorem State.ctx_setReg (s : State) (off idx v : Nat) (p1 : Nat) : (s.setReg off idx v).ctx p1 = s.ctx p1 := by
  unfold State.setReg; split <;> rfl
@[simp] theorem State.ctx_bump (s : State) (off idx n : Nat) (p1 : Nat) : (s.bump off idx n).ctx p1 = s.ctx p1 := State.ctx_setReg ..
@[simp] theorem State.joint_setReg (s : State) (off idx v : Nat) (p1 : Nat) : (s.setReg off idx v).joint p1 = s.joint p1 := by
  unfold State.setReg; split <;> rfl
@[simp] theorem State.joint_bump (s : State) (off idx n : Nat) (p1 : Nat) : (s.bump off idx n).joint p1 = s.joint p1 := State.joint_setReg ..
@[simp] theorem State.mbox_setReg (s : State) (off idx v : Nat) (p1 : Nat) : (s.setReg off idx v).mbox p1 = s.mbox p1 := by
  unfold State.setReg; split <;> rfl
@[simp] theorem State.mbox_bump (s : State) (off idx n : Nat) (p1 : Nat) : (s.bump off idx n).mbox p1 = s.mbox p1 := State.mbox_setReg ..
@[simp] theorem State.master_setReg (s : State) (off idx v : Nat) (p1 : Nat) : (s.setReg off idx v).master p1 = s.master p1 := by
  unfold State.setReg; split <;> rfl
@[simp] theorem State.master_bump (s : State) (off idx n : Nat) (p1 : Nat) : (s.bump off idx n).master p1 = s.master p1 := State.master_setReg ..
@[simp] theorem State.port_setReg (s : State) (off idx v : Nat) (p1 : Nat) : (s.setReg off idx v).port p1 = s.port p1 := by
  unfold State.setReg; split <;> rfl
@[simp] theorem State.port_bump (s : State) (off idx n : Nat) (p1 : Nat) : (s.bump off idx n).port p1 = s.port p1 := State.port_setReg ..
@[simp] theorem State.cont_setReg (s : State) (off idx v : Nat) (p1 : Nat) : (s.setReg off idx v).cont p1 = s.cont p1 := by
  unfold State.setReg; split <;> rfl
@[simp] theorem State.cont_bump (s : State) (off idx n : Nat) (p1 : Nat) : (s.bump off idx n).cont p1 = s.cont p1 := State.cont_setReg ..
@[simp] theorem State.page_setReg (s : State) (off idx v : Nat) (p1 : Nat) : (s.setReg off idx v).page p1 = s.page p1 := by
  unfold State.setReg; split <;> rfl
@[simp] theorem State.page_bump (s : State) (off idx n : Nat) (p1 : Nat) : (s.bump off idx n).page p1 = s.page p1 := State.page_setReg ..
@[simp] theorem State.brick_setReg (s : State) (off idx v : Nat) (p1 : Nat) : (s.setReg off idx v).brick p1 = s.brick p1 := by
  unfold State.setReg; split <;> rfl
@[simp] theorem State.brick_bump (s : State) (off idx n : Nat) (p1 : Nat) : (s.bump off idx n).brick p1 = s.brick p1 := State.brick_setReg ..
@[simp] theorem State.now_setReg (s : State) (off idx v : Nat)  : (s.setReg off idx v).now  = s.now  := by
  unfold State.setReg; split <;> rfl
@[simp] theorem State.now_bump (s : State) (off idx n : Nat)  : (s.bump off idx n).now  = s.now  := State.now_setReg ..
@[simp] theorem State.scratch_setReg (s : State) (off idx v : Nat) (p1 p2 p3 : Nat) : (s.setReg off idx v).scratch p1 p2 p3 = s.scratch p1 p2 p3 := by
  unfold State.setReg; split <;> rfl
@[simp] theorem State.scratch_bump (s : State) (off idx n : Nat) (p1 p2 p3 : Nat) : (s.bump off idx n).scratch p1 p2 p3 = s.scratch p1 p2 p3 := State.scratch_setReg ..

/-! ### Register words -/

theorem tfind?_tdel_ne {α : Type} (t : List (Nat × α)) {k j : Nat} (h : j ≠ k) : tfind? (tdel t k) j = tfind? t j := by
  induction t with
  | nil => rfl
  | cons e r ih =>
    unfold tdel
    split
    · rename_i he
      simp [tfind?, show e.1 ≠ j by omega]
    · by_cases he : e.1 = j
      · simp [tfind?, he]
      · simpa [tfind?, he] using ih

/-- A word keeps its value when another is written. -/
theorem State.reg_setReg_ne (s : State) {off idx o i : Nat} (v : Nat) (h : regKey o i ≠ regKey off idx) :
    (s.setReg off idx v).reg o i = s.reg o i := by
  by_cases hv : v % 2 ^ 32 = wordReset off
  · simp only [State.setReg, State.reg, if_pos hv, tfind?_tdel_ne _ h]
  · simp only [State.setReg, State.reg, if_neg hv, tfind?_tset, if_neg h]

/-- A word reads as the low 32 bits of what was written, in a state in canonical form. -/
theorem State.reg_setReg_same (s : State) (off idx v : Nat) (h : rising (s.regs.map (fun e => e.1)) = true) :
    (s.setReg off idx v).reg off idx = v % 2 ^ 32 := by
  by_cases hv : v % 2 ^ 32 = wordReset off
  · simp only [State.setReg, State.reg, if_pos hv, tfind?_tdel _ _ _ h, if_true]; exact hv.symm
  · simp only [State.setReg, State.reg, if_neg hv, tfind?_tset, if_true, BitVec.toNat_ofNat]

/-- A word reads as the low 32 bits of what was written, when that is not its reset value. -/
theorem State.reg_setReg_set (s : State) (off idx v : Nat) (h : v % 2 ^ 32 ≠ wordReset off) :
    (s.setReg off idx v).reg off idx = v % 2 ^ 32 := by
  simp only [State.setReg, State.reg, if_neg h, tfind?_tset, if_true, BitVec.toNat_ofNat]

theorem regKey_ne_off {off o i j : Nat} (h : off % 0x4000000 ≠ o % 0x4000000) : regKey o j ≠ regKey off i := by
  unfold regKey; omega


/-! ### Tile updates -/

@[simp] theorem Tile.setUnit_run (x : Tile) (u : Nat) (y : UnitQ) : (x.setUnit u y).run = x.run := rfl
@[simp] theorem Tile.setUnit_stall (x : Tile) (u : Nat) (y : UnitQ) : (x.setUnit u y).stall = x.stall := rfl
@[simp] theorem Tile.setUnit_ctx (x : Tile) (u : Nat) (y : UnitQ) : (x.setUnit u y).ctx = x.ctx := rfl
@[simp] theorem Tile.setUnit_launch (x : Tile) (u : Nat) (y : UnitQ) : (x.setUnit u y).launch = x.launch := rfl
@[simp] theorem Tile.setUnit_lastCtx (x : Tile) (u : Nat) (y : UnitQ) : (x.setUnit u y).lastCtx = x.lastCtx := rfl
@[simp] theorem Tile.setUnit_pc (x : Tile) (u : Nat) (y : UnitQ) : (x.setUnit u y).pc = x.pc := rfl
@[simp] theorem Tile.setUnit_image (x : Tile) (u : Nat) (y : UnitQ) : (x.setUnit u y).image = x.image := rfl
@[simp] theorem Tile.setUnit_sregs (x : Tile) (u : Nat) (y : UnitQ) : (x.setUnit u y).sregs = x.sregs := rfl
@[simp] theorem Tile.setUnit_tokens (x : Tile) (u : Nat) (y : UnitQ) : (x.setUnit u y).tokens = x.tokens := rfl
@[simp] theorem Tile.setUnit_cmdCache (x : Tile) (u : Nat) (y : UnitQ) : (x.setUnit u y).cmdCache = x.cmdCache := rfl
@[simp] theorem Tile.setUnit_issueSeq (x : Tile) (u : Nat) (y : UnitQ) : (x.setUnit u y).issueSeq = x.issueSeq := rfl
@[simp] theorem Tile.setUnit_loops (x : Tile) (u : Nat) (y : UnitQ) : (x.setUnit u y).loops = x.loops := rfl
@[simp] theorem Tile.setUnit_acc (x : Tile) (u : Nat) (y : UnitQ) : (x.setUnit u y).acc = x.acc := rfl
@[simp] theorem Tile.setUnit_vregs (x : Tile) (u : Nat) (y : UnitQ) : (x.setUnit u y).vregs = x.vregs := rfl
@[simp] theorem Tile.setUnit_vmasks (x : Tile) (u : Nat) (y : UnitQ) : (x.setUnit u y).vmasks = x.vmasks := rfl
@[simp] theorem Tile.setUnit_scanChain (x : Tile) (u : Nat) (y : UnitQ) : (x.setUnit u y).scanChain = x.scanChain := rfl
@[simp] theorem Tile.setUnit_redChain (x : Tile) (u : Nat) (y : UnitQ) : (x.setUnit u y).redChain = x.redChain := rfl
@[simp] theorem Tile.setUnit_sta (x : Tile) (u : Nat) (y : UnitQ) : (x.setUnit u y).sta = x.sta := rfl
@[simp] theorem Tile.setUnit_bank0 (x : Tile) (u : Nat) (y : UnitQ) : (x.setUnit u y).bank0 = x.bank0 := rfl
@[simp] theorem Tile.setUnit_bank1 (x : Tile) (u : Nat) (y : UnitQ) : (x.setUnit u y).bank1 = x.bank1 := rfl
@[simp] theorem Tile.setUnit_activeBank (x : Tile) (u : Nat) (y : UnitQ) : (x.setUnit u y).activeBank = x.activeBank := rfl
@[simp] theorem Tile.setUnit_gen (x : Tile) (u : Nat) (y : UnitQ) : (x.setUnit u y).gen = x.gen := rfl
@[simp] theorem Tile.setUnit_store (x : Tile) (u : Nat) (y : UnitQ) : (x.setUnit u y).store = x.store := rfl
@[simp] theorem Tile.setUnit_dir (x : Tile) (u : Nat) (y : UnitQ) : (x.setUnit u y).dir = x.dir := rfl
@[simp] theorem Tile.setUnit_split (x : Tile) (u : Nat) (y : UnitQ) : (x.setUnit u y).split = x.split := rfl
@[simp] theorem Tile.setUnit_e4m3Ovf (x : Tile) (u : Nat) (y : UnitQ) : (x.setUnit u y).e4m3Ovf = x.e4m3Ovf := rfl
@[simp] theorem Tile.setUnit_e5m2Ovf (x : Tile) (u : Nat) (y : UnitQ) : (x.setUnit u y).e5m2Ovf = x.e5m2Ovf := rfl
@[simp] theorem Tile.setUnit_seed (x : Tile) (u : Nat) (y : UnitQ) : (x.setUnit u y).seed = x.seed := rfl
@[simp] theorem Tile.setUnit_hod (x : Tile) (u : Nat) (y : UnitQ) : (x.setUnit u y).hod = x.hod := rfl
@[simp] theorem Tile.setUnit_cache (x : Tile) (u : Nat) (y : UnitQ) : (x.setUnit u y).cache = x.cache := rfl
@[simp] theorem Tile.setUnit_cacheClock (x : Tile) (u : Nat) (y : UnitQ) : (x.setUnit u y).cacheClock = x.cacheClock := rfl
@[simp] theorem Tile.setUnit_fencePending (x : Tile) (u : Nat) (y : UnitQ) : (x.setUnit u y).fencePending = x.fencePending := rfl
@[simp] theorem Tile.setUnit_zeroNext (x : Tile) (u : Nat) (y : UnitQ) : (x.setUnit u y).zeroNext = x.zeroNext := rfl
@[simp] theorem Tile.setUnit_restored (x : Tile) (u : Nat) (y : UnitQ) : (x.setUnit u y).restored = x.restored := rfl
@[simp] theorem Tile.setToken_run (x : Tile) (k v : Nat) : (x.setToken k v).run = x.run := rfl
@[simp] theorem Tile.setToken_stall (x : Tile) (k v : Nat) : (x.setToken k v).stall = x.stall := rfl
@[simp] theorem Tile.setToken_ctx (x : Tile) (k v : Nat) : (x.setToken k v).ctx = x.ctx := rfl
@[simp] theorem Tile.setToken_launch (x : Tile) (k v : Nat) : (x.setToken k v).launch = x.launch := rfl
@[simp] theorem Tile.setToken_lastCtx (x : Tile) (k v : Nat) : (x.setToken k v).lastCtx = x.lastCtx := rfl
@[simp] theorem Tile.setToken_pc (x : Tile) (k v : Nat) : (x.setToken k v).pc = x.pc := rfl
@[simp] theorem Tile.setToken_image (x : Tile) (k v : Nat) : (x.setToken k v).image = x.image := rfl
@[simp] theorem Tile.setToken_sregs (x : Tile) (k v : Nat) : (x.setToken k v).sregs = x.sregs := rfl
@[simp] theorem Tile.setToken_cmdCache (x : Tile) (k v : Nat) : (x.setToken k v).cmdCache = x.cmdCache := rfl
@[simp] theorem Tile.setToken_units (x : Tile) (k v : Nat) : (x.setToken k v).units = x.units := rfl
@[simp] theorem Tile.setToken_issueSeq (x : Tile) (k v : Nat) : (x.setToken k v).issueSeq = x.issueSeq := rfl
@[simp] theorem Tile.setToken_loops (x : Tile) (k v : Nat) : (x.setToken k v).loops = x.loops := rfl
@[simp] theorem Tile.setToken_acc (x : Tile) (k v : Nat) : (x.setToken k v).acc = x.acc := rfl
@[simp] theorem Tile.setToken_vregs (x : Tile) (k v : Nat) : (x.setToken k v).vregs = x.vregs := rfl
@[simp] theorem Tile.setToken_vmasks (x : Tile) (k v : Nat) : (x.setToken k v).vmasks = x.vmasks := rfl
@[simp] theorem Tile.setToken_scanChain (x : Tile) (k v : Nat) : (x.setToken k v).scanChain = x.scanChain := rfl
@[simp] theorem Tile.setToken_redChain (x : Tile) (k v : Nat) : (x.setToken k v).redChain = x.redChain := rfl
@[simp] theorem Tile.setToken_sta (x : Tile) (k v : Nat) : (x.setToken k v).sta = x.sta := rfl
@[simp] theorem Tile.setToken_bank0 (x : Tile) (k v : Nat) : (x.setToken k v).bank0 = x.bank0 := rfl
@[simp] theorem Tile.setToken_bank1 (x : Tile) (k v : Nat) : (x.setToken k v).bank1 = x.bank1 := rfl
@[simp] theorem Tile.setToken_activeBank (x : Tile) (k v : Nat) : (x.setToken k v).activeBank = x.activeBank := rfl
@[simp] theorem Tile.setToken_gen (x : Tile) (k v : Nat) : (x.setToken k v).gen = x.gen := rfl
@[simp] theorem Tile.setToken_store (x : Tile) (k v : Nat) : (x.setToken k v).store = x.store := rfl
@[simp] theorem Tile.setToken_dir (x : Tile) (k v : Nat) : (x.setToken k v).dir = x.dir := rfl
@[simp] theorem Tile.setToken_split (x : Tile) (k v : Nat) : (x.setToken k v).split = x.split := rfl
@[simp] theorem Tile.setToken_e4m3Ovf (x : Tile) (k v : Nat) : (x.setToken k v).e4m3Ovf = x.e4m3Ovf := rfl
@[simp] theorem Tile.setToken_e5m2Ovf (x : Tile) (k v : Nat) : (x.setToken k v).e5m2Ovf = x.e5m2Ovf := rfl
@[simp] theorem Tile.setToken_seed (x : Tile) (k v : Nat) : (x.setToken k v).seed = x.seed := rfl
@[simp] theorem Tile.setToken_hod (x : Tile) (k v : Nat) : (x.setToken k v).hod = x.hod := rfl
@[simp] theorem Tile.setToken_cache (x : Tile) (k v : Nat) : (x.setToken k v).cache = x.cache := rfl
@[simp] theorem Tile.setToken_cacheClock (x : Tile) (k v : Nat) : (x.setToken k v).cacheClock = x.cacheClock := rfl
@[simp] theorem Tile.setToken_fencePending (x : Tile) (k v : Nat) : (x.setToken k v).fencePending = x.fencePending := rfl
@[simp] theorem Tile.setToken_zeroNext (x : Tile) (k v : Nat) : (x.setToken k v).zeroNext = x.zeroNext := rfl
@[simp] theorem Tile.setToken_restored (x : Tile) (k v : Nat) : (x.setToken k v).restored = x.restored := rfl
@[simp] theorem Tile.setS_run (x : Tile) (i v : Nat) : (x.setS i v).run = x.run := by
  unfold Tile.setS; split <;> rfl
@[simp] theorem Tile.setS_stall (x : Tile) (i v : Nat) : (x.setS i v).stall = x.stall := by
  unfold Tile.setS; split <;> rfl
@[simp] theorem Tile.setS_ctx (x : Tile) (i v : Nat) : (x.setS i v).ctx = x.ctx := by
  unfold Tile.setS; split <;> rfl
@[simp] theorem Tile.setS_launch (x : Tile) (i v : Nat) : (x.setS i v).launch = x.launch := by
  unfold Tile.setS; split <;> rfl
@[simp] theorem Tile.setS_lastCtx (x : Tile) (i v : Nat) : (x.setS i v).lastCtx = x.lastCtx := by
  unfold Tile.setS; split <;> rfl
@[simp] theorem Tile.setS_pc (x : Tile) (i v : Nat) : (x.setS i v).pc = x.pc := by
  unfold Tile.setS; split <;> rfl
@[simp] theorem Tile.setS_image (x : Tile) (i v : Nat) : (x.setS i v).image = x.image := by
  unfold Tile.setS; split <;> rfl
@[simp] theorem Tile.setS_tokens (x : Tile) (i v : Nat) : (x.setS i v).tokens = x.tokens := by
  unfold Tile.setS; split <;> rfl
@[simp] theorem Tile.setS_cmdCache (x : Tile) (i v : Nat) : (x.setS i v).cmdCache = x.cmdCache := by
  unfold Tile.setS; split <;> rfl
@[simp] theorem Tile.setS_units (x : Tile) (i v : Nat) : (x.setS i v).units = x.units := by
  unfold Tile.setS; split <;> rfl
@[simp] theorem Tile.setS_issueSeq (x : Tile) (i v : Nat) : (x.setS i v).issueSeq = x.issueSeq := by
  unfold Tile.setS; split <;> rfl
@[simp] theorem Tile.setS_loops (x : Tile) (i v : Nat) : (x.setS i v).loops = x.loops := by
  unfold Tile.setS; split <;> rfl
@[simp] theorem Tile.setS_acc (x : Tile) (i v : Nat) : (x.setS i v).acc = x.acc := by
  unfold Tile.setS; split <;> rfl
@[simp] theorem Tile.setS_vregs (x : Tile) (i v : Nat) : (x.setS i v).vregs = x.vregs := by
  unfold Tile.setS; split <;> rfl
@[simp] theorem Tile.setS_vmasks (x : Tile) (i v : Nat) : (x.setS i v).vmasks = x.vmasks := by
  unfold Tile.setS; split <;> rfl
@[simp] theorem Tile.setS_scanChain (x : Tile) (i v : Nat) : (x.setS i v).scanChain = x.scanChain := by
  unfold Tile.setS; split <;> rfl
@[simp] theorem Tile.setS_redChain (x : Tile) (i v : Nat) : (x.setS i v).redChain = x.redChain := by
  unfold Tile.setS; split <;> rfl
@[simp] theorem Tile.setS_sta (x : Tile) (i v : Nat) : (x.setS i v).sta = x.sta := by
  unfold Tile.setS; split <;> rfl
@[simp] theorem Tile.setS_bank0 (x : Tile) (i v : Nat) : (x.setS i v).bank0 = x.bank0 := by
  unfold Tile.setS; split <;> rfl
@[simp] theorem Tile.setS_bank1 (x : Tile) (i v : Nat) : (x.setS i v).bank1 = x.bank1 := by
  unfold Tile.setS; split <;> rfl
@[simp] theorem Tile.setS_activeBank (x : Tile) (i v : Nat) : (x.setS i v).activeBank = x.activeBank := by
  unfold Tile.setS; split <;> rfl
@[simp] theorem Tile.setS_gen (x : Tile) (i v : Nat) : (x.setS i v).gen = x.gen := by
  unfold Tile.setS; split <;> rfl
@[simp] theorem Tile.setS_store (x : Tile) (i v : Nat) : (x.setS i v).store = x.store := by
  unfold Tile.setS; split <;> rfl
@[simp] theorem Tile.setS_dir (x : Tile) (i v : Nat) : (x.setS i v).dir = x.dir := by
  unfold Tile.setS; split <;> rfl
@[simp] theorem Tile.setS_split (x : Tile) (i v : Nat) : (x.setS i v).split = x.split := by
  unfold Tile.setS; split <;> rfl
@[simp] theorem Tile.setS_e4m3Ovf (x : Tile) (i v : Nat) : (x.setS i v).e4m3Ovf = x.e4m3Ovf := by
  unfold Tile.setS; split <;> rfl
@[simp] theorem Tile.setS_e5m2Ovf (x : Tile) (i v : Nat) : (x.setS i v).e5m2Ovf = x.e5m2Ovf := by
  unfold Tile.setS; split <;> rfl
@[simp] theorem Tile.setS_seed (x : Tile) (i v : Nat) : (x.setS i v).seed = x.seed := by
  unfold Tile.setS; split <;> rfl
@[simp] theorem Tile.setS_hod (x : Tile) (i v : Nat) : (x.setS i v).hod = x.hod := by
  unfold Tile.setS; split <;> rfl
@[simp] theorem Tile.setS_cache (x : Tile) (i v : Nat) : (x.setS i v).cache = x.cache := by
  unfold Tile.setS; split <;> rfl
@[simp] theorem Tile.setS_cacheClock (x : Tile) (i v : Nat) : (x.setS i v).cacheClock = x.cacheClock := by
  unfold Tile.setS; split <;> rfl
@[simp] theorem Tile.setS_fencePending (x : Tile) (i v : Nat) : (x.setS i v).fencePending = x.fencePending := by
  unfold Tile.setS; split <;> rfl
@[simp] theorem Tile.setS_zeroNext (x : Tile) (i v : Nat) : (x.setS i v).zeroNext = x.zeroNext := by
  unfold Tile.setS; split <;> rfl
@[simp] theorem Tile.setS_restored (x : Tile) (i v : Nat) : (x.setS i v).restored = x.restored := by
  unfold Tile.setS; split <;> rfl
@[simp] theorem Tile.modActive_run (x : Tile) (u : Nat) (g : Active → Active) : (x.modActive u g).run = x.run := rfl
@[simp] theorem Tile.modActive_stall (x : Tile) (u : Nat) (g : Active → Active) : (x.modActive u g).stall = x.stall := rfl
@[simp] theorem Tile.modActive_ctx (x : Tile) (u : Nat) (g : Active → Active) : (x.modActive u g).ctx = x.ctx := rfl
@[simp] theorem Tile.modActive_launch (x : Tile) (u : Nat) (g : Active → Active) : (x.modActive u g).launch = x.launch := rfl
@[simp] theorem Tile.modActive_lastCtx (x : Tile) (u : Nat) (g : Active → Active) : (x.modActive u g).lastCtx = x.lastCtx := rfl
@[simp] theorem Tile.modActive_pc (x : Tile) (u : Nat) (g : Active → Active) : (x.modActive u g).pc = x.pc := rfl
@[simp] theorem Tile.modActive_image (x : Tile) (u : Nat) (g : Active → Active) : (x.modActive u g).image = x.image := rfl
@[simp] theorem Tile.modActive_sregs (x : Tile) (u : Nat) (g : Active → Active) : (x.modActive u g).sregs = x.sregs := rfl
@[simp] theorem Tile.modActive_tokens (x : Tile) (u : Nat) (g : Active → Active) : (x.modActive u g).tokens = x.tokens := rfl
@[simp] theorem Tile.modActive_cmdCache (x : Tile) (u : Nat) (g : Active → Active) : (x.modActive u g).cmdCache = x.cmdCache := rfl
@[simp] theorem Tile.modActive_issueSeq (x : Tile) (u : Nat) (g : Active → Active) : (x.modActive u g).issueSeq = x.issueSeq := rfl
@[simp] theorem Tile.modActive_loops (x : Tile) (u : Nat) (g : Active → Active) : (x.modActive u g).loops = x.loops := rfl
@[simp] theorem Tile.modActive_acc (x : Tile) (u : Nat) (g : Active → Active) : (x.modActive u g).acc = x.acc := rfl
@[simp] theorem Tile.modActive_vregs (x : Tile) (u : Nat) (g : Active → Active) : (x.modActive u g).vregs = x.vregs := rfl
@[simp] theorem Tile.modActive_vmasks (x : Tile) (u : Nat) (g : Active → Active) : (x.modActive u g).vmasks = x.vmasks := rfl
@[simp] theorem Tile.modActive_scanChain (x : Tile) (u : Nat) (g : Active → Active) : (x.modActive u g).scanChain = x.scanChain := rfl
@[simp] theorem Tile.modActive_redChain (x : Tile) (u : Nat) (g : Active → Active) : (x.modActive u g).redChain = x.redChain := rfl
@[simp] theorem Tile.modActive_sta (x : Tile) (u : Nat) (g : Active → Active) : (x.modActive u g).sta = x.sta := rfl
@[simp] theorem Tile.modActive_bank0 (x : Tile) (u : Nat) (g : Active → Active) : (x.modActive u g).bank0 = x.bank0 := rfl
@[simp] theorem Tile.modActive_bank1 (x : Tile) (u : Nat) (g : Active → Active) : (x.modActive u g).bank1 = x.bank1 := rfl
@[simp] theorem Tile.modActive_activeBank (x : Tile) (u : Nat) (g : Active → Active) : (x.modActive u g).activeBank = x.activeBank := rfl
@[simp] theorem Tile.modActive_gen (x : Tile) (u : Nat) (g : Active → Active) : (x.modActive u g).gen = x.gen := rfl
@[simp] theorem Tile.modActive_store (x : Tile) (u : Nat) (g : Active → Active) : (x.modActive u g).store = x.store := rfl
@[simp] theorem Tile.modActive_dir (x : Tile) (u : Nat) (g : Active → Active) : (x.modActive u g).dir = x.dir := rfl
@[simp] theorem Tile.modActive_split (x : Tile) (u : Nat) (g : Active → Active) : (x.modActive u g).split = x.split := rfl
@[simp] theorem Tile.modActive_e4m3Ovf (x : Tile) (u : Nat) (g : Active → Active) : (x.modActive u g).e4m3Ovf = x.e4m3Ovf := rfl
@[simp] theorem Tile.modActive_e5m2Ovf (x : Tile) (u : Nat) (g : Active → Active) : (x.modActive u g).e5m2Ovf = x.e5m2Ovf := rfl
@[simp] theorem Tile.modActive_seed (x : Tile) (u : Nat) (g : Active → Active) : (x.modActive u g).seed = x.seed := rfl
@[simp] theorem Tile.modActive_hod (x : Tile) (u : Nat) (g : Active → Active) : (x.modActive u g).hod = x.hod := rfl
@[simp] theorem Tile.modActive_cache (x : Tile) (u : Nat) (g : Active → Active) : (x.modActive u g).cache = x.cache := rfl
@[simp] theorem Tile.modActive_cacheClock (x : Tile) (u : Nat) (g : Active → Active) : (x.modActive u g).cacheClock = x.cacheClock := rfl
@[simp] theorem Tile.modActive_fencePending (x : Tile) (u : Nat) (g : Active → Active) : (x.modActive u g).fencePending = x.fencePending := rfl
@[simp] theorem Tile.modActive_zeroNext (x : Tile) (u : Nat) (g : Active → Active) : (x.modActive u g).zeroNext = x.zeroNext := rfl
@[simp] theorem Tile.modActive_restored (x : Tile) (u : Nat) (g : Active → Active) : (x.modActive u g).restored = x.restored := rfl
@[simp] theorem Tile.finish_run (x : Tile) (u f : Nat) : (x.finish u f).run = x.run := rfl
@[simp] theorem Tile.finish_stall (x : Tile) (u f : Nat) : (x.finish u f).stall = x.stall := rfl
@[simp] theorem Tile.finish_ctx (x : Tile) (u f : Nat) : (x.finish u f).ctx = x.ctx := rfl
@[simp] theorem Tile.finish_launch (x : Tile) (u f : Nat) : (x.finish u f).launch = x.launch := rfl
@[simp] theorem Tile.finish_lastCtx (x : Tile) (u f : Nat) : (x.finish u f).lastCtx = x.lastCtx := rfl
@[simp] theorem Tile.finish_pc (x : Tile) (u f : Nat) : (x.finish u f).pc = x.pc := rfl
@[simp] theorem Tile.finish_image (x : Tile) (u f : Nat) : (x.finish u f).image = x.image := rfl
@[simp] theorem Tile.finish_sregs (x : Tile) (u f : Nat) : (x.finish u f).sregs = x.sregs := rfl
@[simp] theorem Tile.finish_tokens (x : Tile) (u f : Nat) : (x.finish u f).tokens = x.tokens := rfl
@[simp] theorem Tile.finish_cmdCache (x : Tile) (u f : Nat) : (x.finish u f).cmdCache = x.cmdCache := rfl
@[simp] theorem Tile.finish_issueSeq (x : Tile) (u f : Nat) : (x.finish u f).issueSeq = x.issueSeq := rfl
@[simp] theorem Tile.finish_loops (x : Tile) (u f : Nat) : (x.finish u f).loops = x.loops := rfl
@[simp] theorem Tile.finish_acc (x : Tile) (u f : Nat) : (x.finish u f).acc = x.acc := rfl
@[simp] theorem Tile.finish_vregs (x : Tile) (u f : Nat) : (x.finish u f).vregs = x.vregs := rfl
@[simp] theorem Tile.finish_vmasks (x : Tile) (u f : Nat) : (x.finish u f).vmasks = x.vmasks := rfl
@[simp] theorem Tile.finish_scanChain (x : Tile) (u f : Nat) : (x.finish u f).scanChain = x.scanChain := rfl
@[simp] theorem Tile.finish_redChain (x : Tile) (u f : Nat) : (x.finish u f).redChain = x.redChain := rfl
@[simp] theorem Tile.finish_sta (x : Tile) (u f : Nat) : (x.finish u f).sta = x.sta := rfl
@[simp] theorem Tile.finish_bank0 (x : Tile) (u f : Nat) : (x.finish u f).bank0 = x.bank0 := rfl
@[simp] theorem Tile.finish_bank1 (x : Tile) (u f : Nat) : (x.finish u f).bank1 = x.bank1 := rfl
@[simp] theorem Tile.finish_activeBank (x : Tile) (u f : Nat) : (x.finish u f).activeBank = x.activeBank := rfl
@[simp] theorem Tile.finish_gen (x : Tile) (u f : Nat) : (x.finish u f).gen = x.gen := rfl
@[simp] theorem Tile.finish_store (x : Tile) (u f : Nat) : (x.finish u f).store = x.store := rfl
@[simp] theorem Tile.finish_dir (x : Tile) (u f : Nat) : (x.finish u f).dir = x.dir := rfl
@[simp] theorem Tile.finish_split (x : Tile) (u f : Nat) : (x.finish u f).split = x.split := rfl
@[simp] theorem Tile.finish_e4m3Ovf (x : Tile) (u f : Nat) : (x.finish u f).e4m3Ovf = x.e4m3Ovf := rfl
@[simp] theorem Tile.finish_e5m2Ovf (x : Tile) (u f : Nat) : (x.finish u f).e5m2Ovf = x.e5m2Ovf := rfl
@[simp] theorem Tile.finish_seed (x : Tile) (u f : Nat) : (x.finish u f).seed = x.seed := rfl
@[simp] theorem Tile.finish_hod (x : Tile) (u f : Nat) : (x.finish u f).hod = x.hod := rfl
@[simp] theorem Tile.finish_cache (x : Tile) (u f : Nat) : (x.finish u f).cache = x.cache := rfl
@[simp] theorem Tile.finish_cacheClock (x : Tile) (u f : Nat) : (x.finish u f).cacheClock = x.cacheClock := rfl
@[simp] theorem Tile.finish_fencePending (x : Tile) (u f : Nat) : (x.finish u f).fencePending = x.fencePending := rfl
@[simp] theorem Tile.finish_zeroNext (x : Tile) (u f : Nat) : (x.finish u f).zeroNext = x.zeroNext := rfl
@[simp] theorem Tile.finish_restored (x : Tile) (u f : Nat) : (x.finish u f).restored = x.restored := rfl
@[simp] theorem Tile.advance_run (x : Tile)  : (x.advance ).run = x.run := rfl
@[simp] theorem Tile.advance_stall (x : Tile)  : (x.advance ).stall = x.stall := rfl
@[simp] theorem Tile.advance_ctx (x : Tile)  : (x.advance ).ctx = x.ctx := rfl
@[simp] theorem Tile.advance_launch (x : Tile)  : (x.advance ).launch = x.launch := rfl
@[simp] theorem Tile.advance_lastCtx (x : Tile)  : (x.advance ).lastCtx = x.lastCtx := rfl
@[simp] theorem Tile.advance_image (x : Tile)  : (x.advance ).image = x.image := rfl
@[simp] theorem Tile.advance_sregs (x : Tile)  : (x.advance ).sregs = x.sregs := rfl
@[simp] theorem Tile.advance_tokens (x : Tile)  : (x.advance ).tokens = x.tokens := rfl
@[simp] theorem Tile.advance_cmdCache (x : Tile)  : (x.advance ).cmdCache = x.cmdCache := rfl
@[simp] theorem Tile.advance_units (x : Tile)  : (x.advance ).units = x.units := rfl
@[simp] theorem Tile.advance_issueSeq (x : Tile)  : (x.advance ).issueSeq = x.issueSeq := rfl
@[simp] theorem Tile.advance_acc (x : Tile)  : (x.advance ).acc = x.acc := rfl
@[simp] theorem Tile.advance_vregs (x : Tile)  : (x.advance ).vregs = x.vregs := rfl
@[simp] theorem Tile.advance_vmasks (x : Tile)  : (x.advance ).vmasks = x.vmasks := rfl
@[simp] theorem Tile.advance_scanChain (x : Tile)  : (x.advance ).scanChain = x.scanChain := rfl
@[simp] theorem Tile.advance_redChain (x : Tile)  : (x.advance ).redChain = x.redChain := rfl
@[simp] theorem Tile.advance_sta (x : Tile)  : (x.advance ).sta = x.sta := rfl
@[simp] theorem Tile.advance_bank0 (x : Tile)  : (x.advance ).bank0 = x.bank0 := rfl
@[simp] theorem Tile.advance_bank1 (x : Tile)  : (x.advance ).bank1 = x.bank1 := rfl
@[simp] theorem Tile.advance_activeBank (x : Tile)  : (x.advance ).activeBank = x.activeBank := rfl
@[simp] theorem Tile.advance_gen (x : Tile)  : (x.advance ).gen = x.gen := rfl
@[simp] theorem Tile.advance_store (x : Tile)  : (x.advance ).store = x.store := rfl
@[simp] theorem Tile.advance_dir (x : Tile)  : (x.advance ).dir = x.dir := rfl
@[simp] theorem Tile.advance_split (x : Tile)  : (x.advance ).split = x.split := rfl
@[simp] theorem Tile.advance_e4m3Ovf (x : Tile)  : (x.advance ).e4m3Ovf = x.e4m3Ovf := rfl
@[simp] theorem Tile.advance_e5m2Ovf (x : Tile)  : (x.advance ).e5m2Ovf = x.e5m2Ovf := rfl
@[simp] theorem Tile.advance_seed (x : Tile)  : (x.advance ).seed = x.seed := rfl
@[simp] theorem Tile.advance_hod (x : Tile)  : (x.advance ).hod = x.hod := rfl
@[simp] theorem Tile.advance_cache (x : Tile)  : (x.advance ).cache = x.cache := rfl
@[simp] theorem Tile.advance_cacheClock (x : Tile)  : (x.advance ).cacheClock = x.cacheClock := rfl
@[simp] theorem Tile.advance_fencePending (x : Tile)  : (x.advance ).fencePending = x.fencePending := rfl
@[simp] theorem Tile.advance_zeroNext (x : Tile)  : (x.advance ).zeroNext = x.zeroNext := rfl
@[simp] theorem Tile.advance_restored (x : Tile)  : (x.advance ).restored = x.restored := rfl

end Sys2Proof.Machine
end

