-- ==== Sys2Proof/WellFormed.lean ====
section
/-! DEFINITION. Which commands name objects that exist: ids within the ranges that the manual gives them. -/

namespace Sys2Proof

/-- R15: a tile id, which is a channel number too (R18). -/
def okTile (n : Nat) : Bool := decide (n < 25600)

/-- R357, R382: one of 64 contexts, functions or mailbox channels. -/
def okCtx (n : Nat) : Bool := decide (n < 64)

/-- R361, R208, R303: one of 16 rings, streams, groups, engines, dies or banks. -/
def okRing (n : Nat) : Bool := decide (n < 16)

/-- R382: a master identity that is not reserved. -/
def okMaster (n : Nat) : Bool := decide (n < 0x83)

/-- R277: a port code. -/
def okPort (n : Nat) : Bool := decide (n < 8)

/-- R17: a brick id. -/
def okBrick (n : Nat) : Bool := decide (n < 16)

/-- R278: a fibre of a direction. -/
def okFibre (n : Nat) : Bool := decide (n < 4)

/-- R290: a lane of a fibre, 8 the spare; R277: a port, 8 the host port's optics. -/
def okLane (n : Nat) : Bool := decide (n < 9)

/-- R278: the lanes of wrong symbols. -/
def okFec (l : List (List (Nat × Nat))) : Bool := l.all (fun c => c.all (fun e => okLane e.1))

/-- One of two inputs or directions. -/
def okDir (n : Nat) : Bool := decide (n < 2)

/-- R377: a joint id. -/
def okJoint (n : Nat) : Bool := decide (n < 16384)

/-- R444, R450: a bit of a word, a vector of a function. -/
def okBit (n : Nat) : Bool := decide (n < 32)

/-- R436: a BAR0 offset of a word. -/
def okOff (n : Nat) : Bool := decide (n < 0x4000000) && decide (n % 4 = 0)

/-- R173: an offset of the command window's page. -/
def okWindow (n : Nat) : Bool := decide (n < 4096)

/-- R61, R64: a unit number with a queue; 7 is the drain port of the matrix array. -/
def okUnit (n : Nat) : Bool := decide (n < 8)

/-- R410, R385: one of four power units or receiver states. -/
def okPower (n : Nat) : Bool := decide (n < 4)

/-- R407: a shedding stage. -/
def okStage (n : Nat) : Bool := decide (n < 6)

/-- R280: a flit's bytes. -/
def okFlit (bs : List Byte) : Bool := decide (bs.length = 272)

/-- R454: a test request. -/
def okFrame (bs : List Byte) : Bool := decide (bs.length = 32)

/-- R422: a SHA3-512. -/
def okHash (bs : List Byte) : Bool := decide (bs.length = 64)

/-- R196: the 48 sensors of a brick. -/
def okSensors (l : List Nat) : Bool := decide (l.length = 48)

/-- The command names objects that exist. -/
def Instr.wf : Instr → Bool
  | .sqDoorbell master ctx ring _ => okMaster master && okCtx ctx && okRing ring
  | .cqDoorbell master ctx ring _ => okMaster master && okCtx ctx && okRing ring
  | .submissionEntryRead ctx ring _ => okCtx ctx && okRing ring
  | .launch ctx ring => okCtx ctx && okRing ring
  | .launchStart _ => true
  | .copy ctx ring => okCtx ctx && okRing ring
  | .jointDescAdd ctx ring => okCtx ctx && okRing ring
  | .jointDescSet ctx ring => okCtx ctx && okRing ring
  | .jointDescRead ctx ring => okCtx ctx && okRing ring
  | .jointDescWaitge ctx ring => okCtx ctx && okRing ring
  | .jointDescTicket ctx ring => okCtx ctx && okRing ring
  | .jointDescSignal ctx ring => okCtx ctx && okRing ring
  | .jointDescSetticket ctx ring => okCtx ctx && okRing ring
  | .fenceDesc ctx ring => okCtx ctx && okRing ring
  | .fenceStop ctx ring => okCtx ctx && okRing ring
  | .fenceDescRelease ctx ring => okCtx ctx && okRing ring
  | .heldRecordWrite ctx => okCtx ctx
  | .ringNeedbyMiss ctx ring _ => okCtx ctx && okRing ring
  | .timedRequestDelivered _ => true
  | .devtimeLoRead master => okMaster master
  | .ppReqWrite master _ => okMaster master
  | .ppPendingApply => true
  | .lateHostRead _ => true
  | .deadlineMiss tile => okTile tile
  | .hodMissCancel tile stream => okTile tile && okRing stream
  | .nop tile => okTile tile
  | .seti tile => okTile tile
  | .addi tile => okTile tile
  | .add tile => okTile tile
  | .loop tile => okTile tile
  | .br tile => okTile tile
  | .brz tile => okTile tile
  | .brnz tile => okTile tile
  | .halt tile => okTile tile
  | .haltComplete tile => okTile tile
  | .fence tile => okTile tile
  | .fenceRelease tile => okTile tile
  | .rdtime tile => okTile tile
  | .split tile => okTile tile
  | .splitComplete tile => okTile tile
  | .commandFetchFill tile _ => okTile tile
  | .issueStallRelease tile => okTile tile
  | .tokenWaitStart tile unit => okTile tile && okUnit unit
  | .unitWordComplete tile unit => okTile tile && okUnit unit
  | .wait tile => okTile tile
  | .waitSatisfied tile => okTile tile
  | .mma tile => okTile tile
  | .mdrain tile => okTile tile
  | .mload tile => okTile tile
  | .mzero tile => okTile tile
  | .srSeedLoWrite master _ => okMaster master
  | .srSeedHiWrite master _ => okMaster master
  | .vld tile => okTile tile
  | .vst tile => okTile tile
  | .vfma tile => okTile tile
  | .vadd tile => okTile tile
  | .vsub tile => okTile tile
  | .vmul tile => okTile tile
  | .vmax tile => okTile tile
  | .vmin tile => okTile tile
  | .vdiv tile => okTile tile
  | .vcmp tile => okTile tile
  | .vsel tile => okTile tile
  | .vscan tile => okTile tile
  | .vred tile => okTile tile
  | .vbrc tile => okTile tile
  | .vstat tile => okTile tile
  | .vstatf tile => okTile tile
  | .vmovs tile => okTile tile
  | .sfeval tile => okTile tile
  | .sfsincos tile => okTile tile
  | .sfbas tile => okTile tile
  | .sfnss tile => okTile tile
  | .sfload tile => okTile tile
  | .sfswap tile => okTile tile
  | .sfprog tile => okTile tile
  | .hodstream tile => okTile tile
  | .hodrun tile => okTile tile
  | .hodrecv tile => okTile tile
  | .hodcmo tile => okTile tile
  | .hodDescriptorTake tile stream => okTile tile && okRing stream
  | .hodRequestIssue tile _ => okTile tile
  | .hodResponseLand tile _ => okTile tile
  | .gatherIndexRead tile _ => okTile tile
  | .relayStart tile _ => okTile tile
  | .multicastStart tile _ => okTile tile
  | .multicastDropInstant tile _ => okTile tile
  | .multicastReplay tile _ member => okTile tile && okTile member
  | .scratchpadWindowAccess ctx _ _ _ _ => okCtx ctx
  | .channelRequest ch _ => okTile ch
  | .channelLineDone ch _ => okTile ch
  | .refreshDue ch bank => okTile ch && okRing bank
  | .scrubLine ch _ => okTile ch
  | .brickTempSample brick readings => okBrick brick && okSensors readings
  | .chCmdRetrain master => okMaster master
  | .retrainResubmit ch => okTile ch
  | .retrainStart ch => okTile ch
  | .retrainDone ch _ _ => okTile ch
  | .chCmdFence master => okMaster master
  | .channelFenceComplete ch => okTile ch
  | .chCmdUnfence master => okMaster master
  | .chCmdSpall master => okMaster master
  | .chCmdMarginStb master => okMaster master
  | .chCmdMarginVref master => okMaster master
  | .marginDone ch _ _ _ _ => okTile ch
  | .brickSupplyWrite master _ => okMaster master
  | .scrubPeriodWrite master _ => okMaster master
  | .errlogPopRead master => okMaster master
  | .flashCreate ctx ring => okCtx ctx && okRing ring
  | .flashDelete ctx ring => okCtx ctx && okRing ring
  | .flashRead ctx ring => okCtx ctx && okRing ring
  | .flashReadStreamStart _ => true
  | .flashReadCancel _ => true
  | .flashWrite ctx ring => okCtx ctx && okRing ring
  | .flashTrim ctx ring => okCtx ctx && okRing ring
  | .flashStat ctx ring => okCtx ctx && okRing ring
  | .flashPageReadDone _ _ _ => true
  | .flashReadRetry _ _ _ => true
  | .flashRebuildDone _ _ _ => true
  | .flashProgramDone _ _ _ _ => true
  | .flashDieTimeout die => okRing die
  | .flashRelocate _ _ => true
  | .hostReadCompletion _ _ _ => true
  | .hostCplTimeout _ => true
  | .holdupMeasure _ => true
  | .kilnBatch ctx ring => okCtx ctx && okRing ring
  | .kilnSlotStart _ => true
  | .kilnHeaderReadDone engine => okRing engine
  | .kilnSampleDecoded engine => okRing engine
  | .kilnBackfillAssign _ => true
  | .kilnPalletDelivered _ => true
  | .arkelFlitReceive port fibre flit fec => okPort port && okFibre fibre && okFlit flit && okFec fec
  | .arkelReplayTimeout port => okPort port
  | .arkelWriteMsg port => okPort port
  | .arkelReadRequestMsg port => okPort port
  | .arkelReadResponseMsg port => okPort port
  | .jointSignalMsg port => okPort port
  | .unreachableNotice port => okPort port
  | .arkelLightDetect port => okLane port
  | .arkelLaneTrainDone port _ => okLane port
  | .arkelLinkControlFlit port _ _ _ _ _ => okPort port
  | .arkelBringupRetry port => okLane port
  | .linkEnableWrite master _ => okMaster master
  | .linkRetrain master _ => okMaster master
  | .arkelLaneFail port dir fibre lane => okLane port && okDir dir && okFibre fibre && okLane lane
  | .arkelSpareSwapDone port dir fibre => okLane port && okDir dir && okFibre fibre
  | .arkelLinkDown port dir => okLane port && okDir dir
  | .arkelFibreRejoin port dir fibre => okLane port && okDir dir && okFibre fibre
  | .timeExchangeSend port => okPort port
  | .timeExchangeFlit port _ _ _ => okPort port
  | .laserSupplyLoss input _ _ => okDir input
  | .rtLoWrite master _ => okMaster master
  | .rtHiWrite master _ => okMaster master
  | .collReduceScatter ctx ring => okCtx ctx && okRing ring
  | .collAllReduce ctx ring => okCtx ctx && okRing ring
  | .collAllGather ctx ring => okCtx ctx && okRing ring
  | .collAllToAll ctx ring => okCtx ctx && okRing ring
  | .collPermute ctx ring => okCtx ctx && okRing ring
  | .collVote ctx ring => okCtx ctx && okRing ring
  | .collLand ctx ring => okCtx ctx && okRing ring
  | .collSetupMsg port => okPort port
  | .collSetupTimeout ctx group => okCtx ctx && okRing group
  | .collAbortMsg port => okPort port
  | .collHeaderPassMsg port => okPort port
  | .collMantissaPassMsg port => okPort port
  | .collGatherDataMsg port => okPort port
  | .collCountsMsg port => okPort port
  | .collBucketMsg port => okPort port
  | .collPermuteDataMsg port => okPort port
  | .collVoteMsg port => okPort port
  | .collStatisticsMsg port => okPort port
  | .collGroupWrite master _ => okMaster master
  | .idleTick => true
  | .idleLoRead master => okMaster master
  | .tupdate tile => okTile tile
  | .commitLapMsg port => okPort port
  | .contTimeoutExpiry ctx => okCtx ctx
  | .contCmdCommit master => okMaster master
  | .contCmdAbort master => okMaster master
  | .contCmdHold master => okMaster master
  | .contCmdRelease master => okMaster master
  | .contEnWrite master _ => okMaster master
  | .removalAnnounce => true
  | .jadd tile => okTile tile
  | .jtry tile => okTile tile
  | .jticket tile => okTile tile
  | .jorder tile => okTile tile
  | .jarrive tile => okTile tile
  | .jsignal tile => okTile tile
  | .jread tile => okTile tile
  | .jointWaitRelease joint => okJoint joint
  | .jntCfgWrite master _ => okMaster master
  | .jointValueLoRead master => okMaster master
  | .jointTicketLoRead master => okMaster master
  | .mbTxSend fn _ => okCtx fn
  | .mbsend tile => okTile tile
  | .mbrecv tile => okTile tile
  | .mbTimeoutExpiry chan => okCtx chan
  | .mbReceiverStateChange ident state => okMaster ident && okPower state
  | .functionLevelReset fn => okCtx fn
  | .contextResetComplete ctx => okCtx ctx
  | .functionEnableChange fn _ => okCtx fn
  | .protSync master => okMaster master
  | .ringEnWrite master _ => okMaster master
  | .msixUnmask fn vector => okCtx fn && okBit vector
  | .kvCmdWindowWrite master off _ _ => okMaster master && okWindow off
  | .kvRunTimeout master => okMaster master
  | .kvLookup _ => true
  | .kvAlloc _ => true
  | .kvPublish _ => true
  | .kvPin _ => true
  | .kvUnpin _ => true
  | .kvRef _ => true
  | .kvUnref _ => true
  | .kvWprep _ => true
  | .kvWprepCopyDone _ _ => true
  | .kvEpochAdvance => true
  | .kvCtrlWrite master _ => okMaster master
  | .capFrame _ => true
  | .reportTimer => true
  | .leaseExpiry => true
  | .powerWindowEnd _ => true
  | .curVpUpdate _ _ => true
  | .dutyQuantum _ => true
  | .dutyAdmWrite master _ => okMaster master
  | .collExemptExpiry => true
  | .shedStageEnter stage _ => okStage stage
  | .shedStageExit => true
  | .safeStopCommit => true
  | .tileReplicaSample tile _ => okTile tile
  | .pwrCmdRemeasure master => okMaster master
  | .remeasureDone _ => true
  | .junctionSensorSample _ _ _ => true
  | .thermalThrottleStep => true
  | .kilnOnWrite master _ => okMaster master
  | .flashOnWrite master _ => okMaster master
  | .unitDrainDone unit => okPower unit
  | .unitPowerUpDone unit => okPower unit
  | .enLoRead master => okMaster master
  | .coldReset _ _ _ _ _ _ _ => true
  | .storeCmdWarmReset master _ => okMaster master
  | .hostPortReset => true
  | .storeCmdSaveConfig master => okMaster master
  | .storeCmdCommitSvn master => okMaster master
  | .storeCmdPreferA master => okMaster master
  | .storeCmdPreferB master => okMaster master
  | .storeRecordCommit => true
  | .storeCompact => true
  | .krtAttest chan => okCtx chan
  | .krtExtend chan => okCtx chan
  | .krtCert chan => okCtx chan
  | .krtPeerAdd chan => okCtx chan
  | .krtPeerDel chan => okCtx chan
  | .wdtKick master => okMaster master
  | .wdtExpiry => true
  | .mgmtHandshake peerHash => okHash peerHash
  | .mgmtSessionIdleTimeout => true
  | .unlockKeyWrite master _ => okMaster master
  | .unlockExpiry master => okMaster master
  | .registerWrite master off _ _ => okMaster master && okOff off
  | .registerReadClear master off => okMaster master && okOff off
  | .holeAccess master off _ => okMaster master && okOff off
  | .bitAliasRead master slot bit => okMaster master && okRing slot && okBit bit
  | .bitAliasWrite master slot bit _ => okMaster master && okRing slot && okBit bit
  | .ctEnableWrite master _ => okMaster master
  | .ctResetWrite master _ => okMaster master
  | .bindEntryWrite master _ => okMaster master
  | .testFence frame => okFrame frame
  | .tileFenceEffect tile => okTile tile
  | .testUnfence frame => okFrame frame
  | .testSelftest frame => okFrame frame
  | .selftestDone _ _ _ _ _ _ _ => true
  | .testSpall frame => okFrame frame
  | .spallTileStop tile => okTile tile
  | .testRestore frame => okFrame frame
  | .presentRelease => true
  | .laserSupplyLightReturn input _ _ => okDir input
  | .translationLayerLoaded => true
  | .lifetimeHourlyRecord => true
  | .retainedStoreRecordDone _ => true
  | .coolantTemperatureSample _ _ => true

end Sys2Proof
end

