-- ==== Sys2Proof/Tests/Slice0.lean ====
section
/-! SUPPORT. Tests: a witness for the hypotheses of each statement, well-formedness, and small steps with results worked
out by hand from the manual. -/

namespace Sys2Proof.Tests

open Sys2Proof Sys2Proof.Machine

set_option Elab.async false

/-! ### Small states -/

/-- A command word of unit `u` and opcode `op` with fields (lowest bit, value). -/
def cw (u op : Nat) (fs : List (Nat × Nat)) : CWord :=
  BitVec.ofNat 128 (op * 2 ^ 120 + u * 2 ^ 117 + fs.foldl (fun n f => n + f.2 * 2 ^ f.1) 0)

/-- A running tile with a word at its program counter. -/
def tileW (w : CWord) : Tile := { Tile.reset with run := .running, cmdCache := [(0, w)] }

/-- The reset state with tile 0 as given. -/
def onTile (x : Tile) : State := State.reset.setTile 0 x

/-- Tile 0 meets the word. -/
def stW (w : CWord) : State := onTile (tileW w)

/-- Tile 0 meets the word with scalar registers 1 and 2 at the values given. -/
def stS (w : CWord) (a b : Nat) : State := onTile (((tileW w).setS 1 a).setS 2 b)

/-- The word has started on tile 0. -/
def ran (s : State) (u : Nat) (w : CWord) : State := s.started 0 u w

/-! ### Command words -/

theorem witness_ScalarWordsComplete :
    (∀ op ∈ [0, 1, 2, 3, 10], wordAt (stW (cw 0 op [(92, 15), (111, 1)])) 0 0 op (cw 0 op [(92, 15), (111, 1)]) ∧
      tokenRoom ((stW (cw 0 op [(92, 15), (111, 1)])).tile 0) (cw 0 op [(92, 15), (111, 1)])) ∧
    (let w := cw 0 0 [(111, 1)]
     let s := onTile ((tileW w).setToken 0 254)
     wordAt s 0 0 0 w ∧ tokenRoom (s.tile 0) w) := by decide +kernel

theorem witness_LoopsAndBranchesComplete :
    (let w := cw 0 4 [(92, 0), (0, 5)]
     wordAt (stW w) 0 0 4 w ∧ tokenRoom ((stW w).tile 0) w ∧ ((stW w).tile 0).sreg (cwf w 92 4) = 0) ∧
    (let w := cw 0 4 [(92, 1), (0, 5)]
     let s := onTile { (tileW w).setS 1 3 with loops := List.replicate 3 { first := 0, last := 9, left := 2 } }
     wordAt s 0 0 4 w ∧ tokenRoom (s.tile 0) w ∧ (s.tile 0).loops.length < 4) ∧
    (∀ op ∈ [5, 6, 7], wordAt (stW (cw 0 op [(92, 1), (0, 0xFFFFF)])) 0 0 op (cw 0 op [(92, 1), (0, 0xFFFFF)]) ∧
      tokenRoom ((stW (cw 0 op [(92, 1), (0, 0xFFFFF)])).tile 0) (cw 0 op [(92, 1), (0, 0xFFFFF)])) ∧
    Tile.reset.loops = [] ∧
    (let l : LoopLevel := { first := 0, last := 9, left := 2 }
     let x := { Tile.reset with loops := [l] }
     x.loops = l :: [] ∧ l.last ≠ x.pc) ∧
    (let l : LoopLevel := { first := 0, last := 0, left := 2 }
     let x := { Tile.reset with loops := [l] }
     x.loops = l :: [] ∧ l.last = x.pc ∧ 1 < l.left) ∧
    (let l : LoopLevel := { first := 0, last := 0, left := 1 }
     let x := { Tile.reset with loops := [l] }
     x.loops = l :: [] ∧ l.last = x.pc ∧ l.left ≤ 1) := by decide +kernel

/-- Tile 0, held by the word for `st`. -/
def stHeld (st : Stall) (w : CWord) : State := onTile { tileW w with stall := st }

theorem witness_SequencerHoldsComplete :
    (∀ op ∈ [8, 9, 12], wordAt (stW (cw 0 op [(94, 3)])) 0 0 op (cw 0 op [(94, 3)])) ∧
    (let s := stHeld .halt (cw 0 8 [])
     (s.tile 0).run = .running ∧ (s.tile 0).stall = .halt ∧ (s.tile 0).drained = true) ∧
    heldAt (stHeld .fence (cw 0 9 [])) 0 .fence (cw 0 9 []) ∧
    (∀ c ∈ [0, 3], heldAt (stHeld (.split c) (cw 0 12 [(94, c)])) 0 (.split c) (cw 0 12 [(94, c)])) := by decide +kernel

theorem witness_UnitWordsJoinTheirQueue :
    (∀ c ∈ unitCommands 0, (let w := cw c.2.1 c.2.2 []
      ((stW w).tile 0).run = .running ∧ ((stW w).tile 0).stall = .none ∧
      tfind? ((stW w).tile 0).cmdCache ((stW w).tile 0).pc = some w ∧ cwUnit w = c.2.1 ∧ cwOp w = c.2.2)) ∧
    (let s := onTile { Tile.reset with run := .running }
     (s.tile 0).run = .running ∧ (s.tile 0).stall = .none ∧ tfind? (s.tile 0).cmdCache (s.tile 0).pc = none) := by
  decide +kernel

/-- Context 0, enabled on the tile at the corner, with a protection table at 1 GiB that grants the first 32 MiB. -/
def ctx0 : Ctx :=
  { Ctx.reset with enable := true, fnEn := true, protBase := 0x40000, hostLimit := 16,
                   protCache := (List.range 16).map (fun i => (i, 3)) }

/-- A word in a queue. -/
def qw (w : CWord) (n : Nat) : QWord := { addr := n, word := w, seq := n }

theorem witness_UnitEventsComplete :
    (let s := onTile { Tile.reset with run := .running, stall := .queueFull, cmdCache := [(0, cw 1 0x13 [])],
                                       units := Tile.reset.units.set 1 { queue := List.replicate 15 (qw (cw 1 0x13 []) 0),
                                                                         active := none } }
     (s.tile 0).run = .running ∧ (s.tile 0).stall = .queueFull ∧
     tfind? (s.tile 0).cmdCache (s.tile 0).pc = some (cw 1 0x13 []) ∧
     ((s.tile 0).unit (cwUnit (cw 1 0x13 []))).queue.length < 16) ∧
    (let q := qw (cw 1 0x13 [(116, 1)]) 0
     let s := onTile { Tile.reset.setToken 0 1 with run := .running,
                                                    units := Tile.reset.units.set 1 { queue := [q], active := none } }
     (s.tile 0).run = .running ∧ ((s.tile 0).unit 1).queue = q :: [] ∧ ((s.tile 0).unit 1).active = none ∧
     (s.tile 0).tokenReady q.word = true ∧ (s.tile 0).hazard 1 q = false ∧ matHazard (s.tile 0) q.word = false ∧
     s.power.issueOpen = true) ∧
    (let q := qw (cw 1 0x11 []) 1
     let a := (qw (cw 1 0x10 []) 0).running ((Tile.reset).latchOf 1 (cw 1 0x10 []))
     let s := onTile { Tile.reset with run := .running, units := Tile.reset.units.set 1 { queue := [q], active := some a } }
     slotOf 1 q.word = 7 ∧ ((s.tile 0).unit 7).active = none ∧ ((s.tile 0).unit 1).active = some a) ∧
    (let a := { (qw (cw 1 0x13 [(111, 1)]) 0).running [] with finished := true }
     let s := onTile { Tile.reset with run := .running, units := Tile.reset.units.set 1 { queue := [], active := some a } }
     (s.tile 0).run = .running ∧ ((s.tile 0).unit 1).active = some a ∧ a.finished = true) ∧
    (let a := { (qw (cw 1 0x11 []) 0).running [] with finished := true }
     let s := onTile { Tile.reset with run := .running, units := Tile.reset.units.set 7 { queue := [], active := some a } }
     ((s.tile 0).unit 7).active = some a ∧ a.finished = true) ∧
    rising ((([] : Tbl CWord)).map (fun e => e.1)) = true := by decide +kernel


/-- A module whose channels serve, with context 0 live. -/
def lit : State := { State.reset with chanBoot := .active, ctxs := [(0, ctx0)] }

/-- The same with tile 0 as given. -/
def litTile (x : Tile) : State := lit.setTile 0 x

/-- The same, with tile 0 meeting the word. -/
def litW (w : CWord) : State := litTile (tileW w)

theorem witness_CommandFetchFill :
    (let s := litTile { Tile.reset with run := .running, stall := .fetch, pc := 0xFFFFE }
     let x := s.tile 0
     let n := min 8 (2 ^ 20 - x.pc)
     (s.tile 0).run = .running ∧ (s.tile 0).stall = .fetch ∧ n = 2 ∧ s.stalled (x.image + 16 * x.pc) (16 * n) = false ∧
     (agentReadAll s x.ctx (x.image + 16 * x.pc) (16 * n) 0).1.ok = true ∧
     (agentReadAll s x.ctx (x.image + 16 * x.pc) (16 * n) 0).1.bad = []) ∧
    (let s := litTile { Tile.reset with run := .running }
     (s.tile 0).stall = .none ∧ tfind? (s.tile 0).cmdCache (s.tile 0).pc = none ∧
     s.stalled 0 128 = false ∧ (agentReadAll s 0 0 128 0).1.ok = true ∧ (agentReadAll s 0 0 128 0).1.bad = []) := by
  and_intros <;> decide +kernel

/-- Tile 0 waits on joint 0 of its context for value 5. -/
def waiting (w : CWord) (v nb : Nat) : Tile :=
  { Tile.reset with run := .running, hod := { Hod.reset with streams := [(0, { timed := false, rt := true, recv := true, credits := 0, delivered := 4 })] },
                    units := Tile.reset.units.set 6 { queue := [], active := some { (qw w 7).running [] with latch := [v, nb] } } }

/-- A joint of context 0. -/
def joint0 (v : Nat) : Joint := { Joint.reset with valid := true, value := BitVec.ofNat 64 v }

def wWait : CWord := cw 6 0x60 [(92, 1), (74, 1), (70, 2)]
def wFall : CWord := cw 6 0x60 [(92, 1), (74, 1), (70, 2), (69, 1), (49, 0xFFFFF)]

theorem witness_WaitWordsComplete :
    (let w := cw 6 0x60 [(92, 0), (74, 1), (78, 3)]
     let s := (lit.setTile 0 ((tileW w).setS 1 5)).setJoint 3 (joint0 5)
     startsAt s 0 6 0x60 w ∧ waitFault (ran s 6 w) 0 w = none ∧
     waitHolds (ran s 6 w) 0 w (((ran s 6 w).tile 0).sreg (cwf w 74 4)) = true) ∧
    (let w := cw 6 0x60 [(92, 0), (74, 1), (78, 3)]
     let s := (lit.setTile 0 ((tileW w).setS 1 5)).setJoint 3 (joint0 4)
     startsAt s 0 6 0x60 w ∧ waitFault (ran s 6 w) 0 w = none ∧
     waitHolds (ran s 6 w) 0 w (((ran s 6 w).tile 0).sreg (cwf w 74 4)) = false) ∧
    (let s := litTile (waiting wWait 4 0)
     let a := { (qw wWait 7).running [] with latch := [4, 0] }
     (s.tile 0).waitActive = some a ∧ waitHolds s 0 a.word (a.latch.getD 0 0) = true) ∧
    (let s := litTile (waiting wFall 5 0)
     let a := { (qw wFall 7).running [] with latch := [5, 0] }
     (s.tile 0).waitActive = some a ∧ waitRt s 0 a.word = true ∧ a.latch.getD 1 0 ≤ s.now ∧
     waitHolds s 0 a.word (a.latch.getD 0 0) = false ∧ waFallback a.word = some 0xFFFFF) ∧
    (let s := litTile (waiting wWait 5 0)
     let a := { (qw wWait 7).running [] with latch := [5, 0] }
     (s.tile 0).waitActive = some a ∧ waitRt s 0 a.word = true ∧ a.latch.getD 1 0 ≤ s.now ∧
     waitHolds s 0 a.word (a.latch.getD 0 0) = false ∧ waFallback a.word = none) := by
  and_intros <;> decide +kernel

/-- A module with port 0 up to a partner, and routes 0 and 8 over it. -/
def linked : State :=
  ((lit.setPort 0 { Port.reset with phase := .up, version := 2, txFibres := 15, rxFibres := 15, credits := firstCredits }).setRoute 8
    (2 ^ 51)).setRoute 0 (2 ^ 51)

theorem witness_JointWordsComplete :
    (∀ op ∈ [0x61, 0x63, 0x67], (let w := cw 6 op [(82, 16383), (78, 1), (74, 15)]
      let s := (litW w).setJoint 16383 (joint0 5)
      startsAt s 0 6 op w ∧ (ran s 6 w).jointOk ((ran s 6 w).tile 0).ctx (jwJoint w) = true)) ∧
    (let w := cw 6 0x62 [(78, 1), (74, 3)]
     let s := ((lit.setTile 0 ((tileW w).setS 1 5)).setJoint 0 (joint0 5))
     startsAt s 0 6 0x62 w ∧ (ran s 6 w).jointOk 0 (jwJoint w) = true ∧
     ((ran s 6 w).tile 0).sreg (jwVal w) ≤ ((ran s 6 w).joint (jwJoint w)).value.toNat) ∧
    (let w := cw 6 0x62 [(78, 1), (74, 3)]
     let s := ((lit.setTile 0 ((tileW w).setS 1 5)).setJoint 0 (joint0 4))
     startsAt s 0 6 0x62 w ∧ (ran s 6 w).jointOk 0 (jwJoint w) = true ∧
     ((ran s 6 w).joint (jwJoint w)).value.toNat < ((ran s 6 w).tile 0).sreg (jwVal w)) ∧
    (let w := cw 6 0x64 [(78, 1), (70, 2)]
     let s := ((lit.setTile 0 (((tileW w).setS 1 5).setS 2 0)).setJoint 0 (joint0 4))
     startsAt s 0 6 0x64 w ∧ (ran s 6 w).jointOk 0 (jwJoint w) = true ∧
     ((ran s 6 w).joint (jwJoint w)).ticket.toNat = ((ran s 6 w).tile 0).sreg (jwSeq w)) ∧
    (let w := cw 6 0x64 [(78, 1), (70, 2)]
     let s := ((lit.setTile 0 (((tileW w).setS 1 5).setS 2 1)).setJoint 0 (joint0 4))
     startsAt s 0 6 0x64 w ∧ (ran s 6 w).jointOk 0 (jwJoint w) = true ∧
     ((ran s 6 w).joint (jwJoint w)).ticket.toNat ≠ ((ran s 6 w).tile 0).sreg (jwSeq w)) ∧
    (let w := cw 6 0x65 [(78, 1), (74, 3)]
     let s := ((lit.setTile 0 ((tileW w).setS 1 5)).setJoint 0 (joint0 4))
     startsAt s 0 6 0x65 w ∧ (ran s 6 w).jointOk 0 (jwJoint w) = true ∧
     ((ran s 6 w).tile 0).sreg (jwVal w) ≤ (((ran s 6 w).joint (jwJoint w)).value + 1).toNat) ∧
    (let w := cw 6 0x65 [(78, 1), (74, 3)]
     let s := ((lit.setTile 0 ((tileW w).setS 1 5)).setJoint 0 (joint0 3))
     startsAt s 0 6 0x65 w ∧ (ran s 6 w).jointOk 0 (jwJoint w) = true ∧
     (((ran s 6 w).joint (jwJoint w)).value + 1).toNat < ((ran s 6 w).tile 0).sreg (jwVal w)) ∧
    (let w := cw 6 0x66 [(58, 0), (44, 16383)]
     let s := linked.setTile 0 (tileW w)
     startsAt s 0 6 0x66 w ∧
     (sendSignal (ran s 6 w) ((ran s 6 w).tile 0).ctx (jwRoute w) (jwRJoint w) (((ran s 6 w).tile 0).sreg (jwVal w))
       (65536 * 0) 1).1 =
       .sent) := by
  and_intros <;> decide +kernel

theorem witness_MatrixWordsComplete :
    (∀ acc ∈ [0, 1], (let w := cw 1 0x10 [(84, 0), (72, 32), (60, 64), (47, 15), (43, 0), (39, 0), (30, acc)]
      startsAt (stW w) 0 1 0x10 w ∧ (mmaOf ((ran (stW w) 1 w).tile 0) w).fault ((ran (stW w) 1 w).tile 0) = none ∧
      ((mmaOf ((ran (stW w) 1 w).tile 0) w).accumulate = true → ∀ n ∈ (mmaOf ((ran (stW w) 1 w).tile 0) w).sets,
        (((ran (stW w) 1 w).tile 0).accSet n).clash (fmtFp32Path (mmaOf ((ran (stW w) 1 w).tile 0) w).fa) = false))) ∧
    (∀ f ∈ [(0, OutFmt.float .fp32), (1, .float .bf16), (2, .float .fp16), (3, .float .e4m3), (4, .float .e5m2), (5, .int32)],
      (let w := cw 1 0x11 [(84, 256), (81, 4), (77, f.1), (74, 1)]
       let x := (ran (stW w) 1 w).tile 0
       startsAt (stW w) 0 1 0x11 w ∧ outFmt (cwf w 77 3) = some f.2 ∧ mdGroupBad w = false ∧
       (f.2 = .int32 → ∀ n ∈ mdSets w, (x.accSet n).intOk = true) ∧
       (cwb w 76 = true → f.2 ≠ .int32 ∧ f.2 ≠ .float .fp32 ∧ f.2 ≠ .float .fp16) ∧
       x.fits (mdAddr x w) (256 * f.2.bytes * (mdSets w).length) = true ∧
       blocksOk (mdAddr x w) (mdSets w).length (256 * f.2.bytes) = true)) ∧
    (let w := cw 1 0x12 [(84, 256), (81, 4), (74, 1)]
     let x := (ran (stW w) 1 w).tile 0
     startsAt (stW w) 0 1 0x12 w ∧ mdGroupBad w = false ∧ x.fits (mdAddr x w) (1024 * (mdSets w).length) = true ∧
     blocksOk (mdAddr x w) (mdSets w).length 1024 = true) ∧
    (let w := cw 1 0x13 [(81, 7)]
     startsAt (stW w) 0 1 0x13 w ∧ mdGroupBad w = false) := by
  and_intros <;> decide +kernel

theorem witness_ElementWordsComplete :
    ∀ op ∈ [0x22, 0x23, 0x24, 0x25, 0x26, 0x27, 0x28], ∀ ty ∈ [0, 1, 2],
      startsAt (stW (cw 2 op [(91, 31), (86, 1), (71, ty)])) 0 2 op (cw 2 op [(91, 31), (86, 1), (71, ty)]) ∧
        vType (cw 2 op [(91, 31), (86, 1), (71, ty)]) ≠ 3 := by
  decide +kernel

theorem witness_LanesWrittenUnderMask :
    (∀ n ∈ [1, 16, 32], (n = 1 ∨ n = 16 ∨ n = 32) ∧ 1024 / n - 1 < 1024 / n) ∧ 2 ^ 1024 - 1 < 2 ^ 1024 := by
  refine ⟨by decide, by decide +kernel⟩

theorem witness_VectorWordsComplete :
    (∀ op ∈ [0x20, 0x21], (let w := cw 2 op [(91, 31), (52, 3064), (41, 0)]
      startsAt (stW w) 0 2 op w ∧ memFault ((ran (stW w) 2 w).tile 0) w = none)) ∧
    (let w := cw 2 0x29 [(67, 5)]
     startsAt (stW w) 0 2 0x29 w ∧ vSub w ≤ 5 ∧ vType w ≠ 3) ∧
    (let w := cw 2 0x2A [(71, 1)]
     startsAt (stW w) 0 2 0x2A w ∧ vType w ≠ 3) ∧
    (let w := cw 2 0x2B [(67, 2), (71, 2)]
     startsAt (stW w) 0 2 0x2B w ∧ vSub w ≤ 2 ∧ (vType w = 0 ∨ vType w = 2)) ∧
    (let w := cw 2 0x2C [(67, 3)]
     startsAt (stW w) 0 2 0x2C w ∧ vSub w = 3 ∧ (vType w = 0 ∨ vType w = 2)) ∧
    (let w := cw 2 0x2C [(67, 2), (35, 1)]
     startsAt (stW w) 0 2 0x2C w ∧ vSub w ≤ 2 ∧ (vType w = 0 ∨ vType w = 2)) ∧
    (let w := cw 2 0x2D [(67, 3), (91, 24), (86, 24), (32, 2), (28, 1)]
     startsAt (stW w) 0 2 0x2D w ∧ vSub w ≤ 3 ∧ vType w = 0 ∧ vPat w ≠ 3 ∧
     vVA w + (if vBlock w then 8 else 1) ≤ 32 ∧ vVD w + (if vBlock w then 8 else 1) ≤ 32) ∧
    (let w := cw 2 0x2E [(67, 2)]
     startsAt (stW w) 0 2 0x2E w ∧ vSub w ≤ 3 ∧ (vType w = 0 ∨ vType w = 2) ∧ bitAt (vSub w) 1 = true) ∧
    (let w := cw 2 0x2E [(67, 0), (64, 3)]
     let s := onTile ((tileW w).setStat 3 { StatAcc.reset with started := true, n := 2 ^ 24 - 32 })
     let x := (ran s 2 w).tile 0
     startsAt s 0 2 0x2E w ∧ vSub w ≤ 3 ∧ vType w = 0 ∧ bitAt (vSub w) 1 = false ∧ (x.stat (vMD w % 4)).started = true ∧
     (x.stat (vMD w % 4)).n + ((List.range 32).filter (bitAt (x.vmask (vMask w)))).length ≤ 2 ^ 24) ∧
    (let w := cw 2 0x2F [(64, 3)]
     let s := onTile ((tileW w).setStat 3 { StatAcc.reset with started := true })
     startsAt s 0 2 0x2F w ∧ vType w = 0 ∧ (((ran s 2 w).tile 0).stat (vMD w % 4)).started = true) ∧
    (∀ u ∈ [0, 1], (let w := cw 2 0x30 [(67, u), (44, 1)]
      startsAt (stW w) 0 2 0x30 w ∧ vSub w = u ∧ vType w ≠ 3)) := by
  and_intros <;> decide +kernel

/-- All lanes of a special-function result. -/
def lanesOf (o : Option (List (Word × Nat))) : List (Word × Nat) := o.getD []

theorem witness_FunctionWordsComplete :
    (let w := cw 3 0x40 [(91, 1), (68, 0)]
     let s := ran (stW w) 3 w
     let e := evalLanes ((s.tile 0).vmask (fMask w)) (fun l => (s.tile 0).func (fFunc w) ((s.tile 0).lane32 (fVA w) l))
     startsAt (stW w) 0 3 0x40 w ∧ genBad (s.tile 0) w = false ∧ (s.tile 0).funcOk (fFunc w) = true ∧
     e = some (lanesOf e)) ∧
    (let w := cw 3 0x42 [(91, 1), (68, 0), (54, 2)]
     let s := ran (stW w) 3 w
     let e := evalLanes ((s.tile 0).vmask (fMask w)) (fun l => basLane (s.tile 0) w l)
     startsAt (stW w) 0 3 0x42 w ∧ fPat w ≠ 3 ∧ genBad (s.tile 0) w = false ∧ (s.tile 0).funcOk (fFunc w) = true ∧
     e = some (lanesOf e)) ∧
    (let w := cw 3 0x41 [(91, 30)]
     startsAt (stW w) 0 3 0x41 w ∧ genBad ((ran (stW w) 3 w).tile 0) w = false ∧ fVD w ≠ 31) ∧
    (let w := cw 3 0x43 [(91, 1), (56, 3)]
     let s := onTile ((tileW w).setStat 3 { StatAcc.reset with started := true, finalised := true })
     startsAt s 0 3 0x43 w ∧ genBad ((ran s 3 w).tile 0) w = false ∧ fPat w ≠ 3 ∧
     (((ran s 3 w).tile 0).stat (fSta w)).started = true ∧ (((ran s 3 w).tile 0).stat (fSta w)).finalised = true) ∧
    (let w := cw 3 0x44 [(29, 2944), (15, 0), (4, 1024)]
     startsAt (stW w) 0 3 0x44 w ∧ 0 < fCount w ∧ fCount w ≤ 1024 ∧ fFirst w + fCount w ≤ 1024 ∧
     ((ran (stW w) 3 w).tile 0).fits (fAddr ((ran (stW w) 3 w).tile 0) w) (4 * fCount w) = true) ∧
    startsAt (stW (cw 3 0x45 [])) 0 3 0x45 (cw 3 0x45 []) ∧
    (let w := cw 3 0x46 [(15, 224), (4, 32), (0, 15)]
     startsAt (stW w) 0 3 0x46 w ∧ 0 < fCount w ∧ fCount w ≤ 32 ∧ fFirst w + fCount w ≤ 256 ∧
     ((ran (stW w) 3 w).tile 0).fits (fAddr ((ran (stW w) 3 w).tile 0) w) (8 * fCount w) = true) := by
  and_intros <;> decide +kernel

/-- A stream of tile 0. -/
def stream0 (recv : Bool) (cr : Nat) : Stream := { timed := false, rt := false, recv := recv, credits := cr, delivered := 0 }

theorem witness_HodWordsComplete :
    (let w := cw 4 0x50 [(92, 15)]
     startsAt (stW w) 0 4 0x50 w ∧ ((ran (stW w) 4 w).tile 0).hod.stream? (hwStream w) = none) ∧
    (let w := cw 4 0x51 [(92, 15), (80, 3070)]
     let s := onTile { tileW w with hod := { Hod.reset with streams := [(15, stream0 false 0)] } }
     let x := (ran s 4 w).tile 0
     startsAt s 0 4 0x51 w ∧ x.hod.stream? (hwStream w) = some (stream0 false 0) ∧ (stream0 false 0).recv = false ∧
     x.fits (x.byteAt (cwf w 80 12) (cwf w 76 4)) 64 = true) ∧
    (let w := cw 4 0x52 [(92, 15), (84, 255)]
     let s := onTile { tileW w with hod := { Hod.reset with streams := [(15, stream0 true 65280)] } }
     let x := (ran s 4 w).tile 0
     startsAt s 0 4 0x52 w ∧ x.hod.stream? (hwStream w) = some (stream0 true 65280) ∧ (stream0 true 65280).recv = true ∧
     (stream0 true 65280).credits + cwf w 84 8 ≤ 65535) ∧
    (let w := cw 4 0x53 []
     startsAt (stW w) 0 4 0x53 w ∧ ((ran (stW w) 4 w).tile 0).hod.tags = [] ∧
     ∀ d ∈ ((ran (stW w) 4 w).tile 0).hod.descs, d.done = true ∧ d.waiting = []) := by
  and_intros <;> decide +kernel

/-! ### The hod on its own, and the trowel -/

/-- `n` bytes with fields (lowest bit, value). -/
def blk (n : Nat) (fs : List (Nat × Nat)) : List Byte := leBytes n (fs.foldl (fun a f => a + f.2 * 2 ^ f.1) 0)

/-- A taken descriptor of stream 0 with the bytes given. -/
def desc0 (bs : List Byte) : HDesc :=
  { id := 1, stream := 0, ctx := 0, bytes := bs, pc := 0, sig := none, deadline := 0, timed := false, adm := 0, treq := none,
    taken := true, genOfs := 0, waiting := [], issued := 0, rowNext := 0, idxAsked := 0, idxNext := 0, idxRest := [],
    idxBad := false, members := [], dropped := [], sent := false, landed := false, replay := false, status := 0,
    done := false, late := false, cancel := false, kvUser := none }

/-- Context 0 on tiles 0 and 1, with receive stream 0 open and a credit on tile 1; tile 0 holds the descriptor. -/
def hodS (d : HDesc) (tags : List HTag) : State :=
  { lit with
    ctxs := [(0, { ctx0 with wm1 := 1 })],
    tiles := [(0, { Tile.reset with run := .running, hod := { streams := [(0, stream0 false 0)], descs := [d], tags := tags, lastStream := 0 } }),
              (1, { Tile.reset with run := .running, hod := { Hod.reset with streams := [(0, stream0 true 1)] } })] }

/-- A copy of 32 bytes from byte 64 of the channel of tile 0 to byte 128 of its scratchpad. -/
def copyReq : HReq := { desc := 1, kind := .copy, src := 64, dst := scratchAddr 0 128, len := 32, row := 0 }

def tag0 (k : HKind) (writing : Bool) : HTag :=
  { tag := 63, req := { copyReq with kind := k }, dest := 0, ctx := 0, answered := true, arrival := 3, origin := some 0,
    failed := false, writing := writing, marked := false, cacheRd := false, cacheWr := false, reuse := 0, tensor := 0,
    data := List.replicate 32 7, poison := [] }

/-- A descriptor of the kind given: 32 bytes from byte 64. -/
def hdK (k : Nat) : List Byte := blk 64 [(0, 1), (8, k), (64, 64), (160, 32), (192, 32), (224, 1), (240, 1), (256, 1)]

theorem witness_HodEventsComplete :
    (let d := { desc0 (hdK 0) with taken := false }
     let s := hodS d []
     (s.tile 0).run = .running ∧
     (s.tile 0).hod.descs.find? (fun d => d.stream == 0 && !d.taken && !d.cancel) = some d ∧ hodRejects s d.bytes 0 = false ∧
     (let ms := (hodMembers s d.bytes 0).getD []
      let g := if hdGenRel d.bytes then s.genOfs d.ctx else 0
      (hodAdmit s 0 { d with taken := true, members := ms, genOfs := g } ms).1.cancel = false)) ∧
    (∀ k ∈ [HKind.copy, .spread, .index], (let q := { copyReq with kind := k }
     let d := { desc0 (hdK 0) with waiting := [q] }
     let s := hodS d []
     ((candidates s (s.tile 0).hod).drop 0).head? = some (d, q) ∧ issuable s 0 q = true ∧
     outranked s 0 0 (candidates s (s.tile 0).hod) d = false ∧
     s.reaches d.ctx q.src q.len false = true ∧ s.reaches d.ctx q.dst q.len true = true)) ∧
    (∀ x ∈ [(HKind.copy, true), (.copy, false), (.spread, false)], (let g := tag0 x.1 x.2
     let s := hodS (desc0 (hdK 0)) [g]
     (s.tile 0).hod.tags.find? (fun g => g.tag == 63 && g.answered && g.req.kind != .index && (s.tile 0).hod.canLand g) =
       some g ∧ g.failed = false ∧ (passResponse s 0 g).1 = true ∧ g.cacheRd = false ∧ addrKind g.req.dst = .scratch ∧
     (((passResponse s 0 g).2.tile 0).hod.desc? g.req.desc).isSome = true ∧
     (hodPoison (passResponse s 0 g).2 0 (desc0 (hdK 0)) g.req.ofHost g.poison).reaches g.ctx g.req.dst g.data.length true =
       true)) ∧
    (let d := desc0 (blk 64 [(0, 1), (8, 1), (192, 32), (224, 3), (288, 510)])
     let g := { tag0 .index false with tag := 64 }
     let s := hodS d [g]
     (s.tile 0).hod.desc? 1 = some d ∧ (s.tile 0).hod.tags.find? (fun g => g.req.kind == .index && g.req.desc == 1) = some g ∧
     g.answered = true ∧ g.failed = false ∧ (passResponse s 0 g).1 = true) ∧
    (∀ k ∈ [4, 5], ∀ ms ∈ [[1], []], (let d := { desc0 (hdK k) with members := ms }
      let s := hodS d []
      (s.tile 0).run = .running ∧ (s.tile 0).hod.desc? 1 = some d ∧ d.taken = true ∧ d.cancel = false ∧ d.sent = false ∧
      d.members.all (holdsCredit s d.stream) = true ∧ hdKind d.bytes = k)) ∧
    (let d := { desc0 (hdK 5) with members := [0, 1], timed := true, deadline := 1 }
     let s := hodS d []
     (s.tile 0).run = .running ∧ (s.tile 0).hod.desc? 1 = some d ∧ d.taken = true ∧ d.cancel = false ∧ d.sent = false ∧
     hdKind d.bytes = 5 ∧ dropInstant s 0 d ≤ s.now) ∧
    (let d := { desc0 (hdK 5) with members := [1], dropped := [1] }
     let s := hodS d []
     (s.tile 0).hod.desc? 1 = some d ∧ d.dropped.contains 1 = true ∧ holdsCredit s d.stream 1 = true) ∧
    (∀ w ∈ [false, true], (let s := hodS (desc0 (hdK 0)) []
      addrKind (scratchAddr 1 510) = .scratch ∧ scratchAddr 1 510 % 512 + 2 ≤ 512 ∧
      s.reaches 0 (scratchAddr 1 510) 2 w = true ∧ s.stalled (scratchAddr 1 510) 2 true = false)) := by
  and_intros <;> decide +kernel

/-- A word for an update of 16 elements by momentum SGD, its arrays at page 1, its gradients at byte 0. -/
def wUpd : CWord := cw 5 0x70 [(76, 3), (72, 1), (68, 3)]

/-- Tile 0 meets that word; its context's continuity unit is `c`, in the mode of `en`. -/
def updS (c : Cont) (en : Nat) (poison : Bool) : State :=
  let s := { lit with ctxs := [(0, { ctx0 with stepPoison0 := poison })] }
  ((((s.setTile 0 ((tileW wUpd).setS 1 16)).setCont 0 c).setReg 0x1E004 0 en).setReg 0x1E010 0 0x10001).setReg 0x1E014 0 1
    |>.setScratch 0 0 (blk 64 [(0, 1), (8, 2), (12, 1), (32, 4096), (64, 4160), (160, 0)])

/-- The word as the trowel takes it. -/
def updOf (s : State) : Upd :=
  let x := s.tile 0
  { block := s.scratch 0 (x.byteAt (cwf wUpd 84 12) (cwf wUpd 80 4)) 64, ofs := x.sreg (cwf wUpd 76 4),
    cnt := x.sreg (cwf wUpd 72 4), idx := x.sreg (cwf wUpd 68 4) }

/-- The word is one that the trowel takes. -/
def updOk (s : State) (p : Bool) : Prop :=
  startsAt s 0 5 0x70 wUpd ∧
  ((ran s 5 wUpd).tile 0).fits (((ran s 5 wUpd).tile 0).byteAt (cwf wUpd 84 12) (cwf wUpd 80 4)) 64 = true ∧
  (updOf (ran s 5 wUpd)).bad (ran s 5 wUpd) 0 = false ∧ ((ran s 5 wUpd).ctx 0).stepPoison (cwf wUpd 67 1) = p

theorem witness_TupdateCompletes :
    (updOk (updS { Cont.reset with st := .running } 1 false) false ∧
      updWaits (ran (updS { Cont.reset with st := .running } 1 false) 5 wUpd) 0 = false ∧
      (ran (updS { Cont.reset with st := .running } 1 false) 5 wUpd).stalled (0x2000000 * 0) 1 = false) ∧
    (updOk (updS { Cont.reset with st := .running } 3 false) false ∧
      updWaits (ran (updS { Cont.reset with st := .running } 3 false) 5 wUpd) 0 = true) ∧
    updOk (updS { Cont.reset with st := .running } 1 true) true := by
  unfold updOk
  and_intros <;> decide +kernel

/-! ### Mailboxes, rings and records -/

/-- A channel from `a` to `b`. -/
def mb0 (a b : Nat) : Mailbox := { Mailbox.reset with sender := a, receiver := b, valid := true, mverMax := 255 }

theorem witness_MailboxCommandsComplete :
    (let s := lit.setMbox 63 { mb0 0 0x81 with queue := List.replicate 15 [] }
     let b := s.mbox (bits 0xFF3F 0 6)
     (s.ctx 0).fnEn = true ∧ (s.ctx 0).inReset = false ∧ b.valid = true ∧ b.sender = 0 ∧ bits 0xFF3F 8 8 ≤ b.mverMax ∧
     b.timeout = false ∧ b.queue.length < 16 ∧ b.timed = false) ∧
    (∀ o ∈ [false, true], (let w := cw 6 0x68 [(90, 63)]
      let s := ((lit.setTile 0 (tileW w)).setMbox 63 { mb0 0x40 0x81 with timeout := o }).setScratch 0 0 (List.replicate 44 1)
      startsAt s 0 6 0x68 w ∧ ((ran s 6 w).mbox (mwChan w)).valid = true ∧
      ((ran s 6 w).mbox (mwChan w)).sender = 0x40 + ((ran s 6 w).tile 0).ctx ∧
      ((ran s 6 w).tile 0).fits (mwAddr ((ran s 6 w).tile 0) w) 44 = true ∧
      fld ((ran s 6 w).scratch 0 (mwAddr ((ran s 6 w).tile 0) w) 44) 0 1 ≤ ((ran s 6 w).mbox (mwChan w)).mverMax ∧
      ((ran s 6 w).mbox (mwChan w)).timeout = o ∧ ((ran s 6 w).mbox (mwChan w)).queue.length < 16 ∧
      ((ran s 6 w).mbox (mwChan w)).timed = false)) ∧
    (∀ q ∈ [[], [List.replicate 64 (1 : Byte)]], (let w := cw 6 0x69 [(90, 63)]
      let s := (lit.setTile 0 (tileW w)).setMbox 63 { mb0 0x81 0x40 with queue := q }
      startsAt s 0 6 0x69 w ∧ ((ran s 6 w).mbox (mwChan w)).valid = true ∧
      ((ran s 6 w).mbox (mwChan w)).receiver = 0x40 + ((ran s 6 w).tile 0).ctx ∧
      ((ran s 6 w).tile 0).fits (mwAddr ((ran s 6 w).tile 0) w) 64 = true ∧ ((ran s 6 w).mbox (mwChan w)).queue = q)) ∧
    (let s := { (lit.setMbox 5 { mb0 0 0x81 with timerFrom := some 7 }) with time := { TimeSt.reset with devTime := 10 ^ 9 } }
     (s.mbox 5).timerFrom = some 7 ∧ 7 + 1000 * s.reg 0x1F068 5 ≤ s.now) ∧
    (0x3F < 0x40 ∧ 1 < 2) ∧ lit.trust.cmcFailed = false := by
  and_intros <;> decide +kernel

/-- A descriptor of a ring of context 0. -/
def rdesc (abs : Nat) (bs : List Byte) : Desc :=
  { abs := abs, bytes := bs, phase := .ready, adm := 0, treq := none, status := 0, detail := 0, missed := false, order := 0 }

/-- The same in a context with submission ring `r` and completion ring 0, both of 16 entries in host memory. -/
def ringS (r : SRing) (c : CRing) : State := { lit with ctxs := [(0, { ctx0 with sq := [(3, r)], cq := [(0, c)] })] }

/-- A submission ring that is enabled. -/
def sr0 (out : List Desc) : SRing := { SRing.reset with en := true, base := hostBase, out := out }

def cr0 : CRing := { CRing.reset with en := true, base := hostBase + 1024, wb := hostBase + 2048 }

/-- A descriptor of the type given, with fields. -/
def dsc (ty : Nat) (fs : List (Nat × Nat)) : List Byte := blk 64 ([(0, 1), (8, ty)] ++ fs)

theorem witness_RingCommandsComplete :
    (let s := ringS { sr0 [] with head := 16, tail := 16, start := 16 } cr0
     reachesPage 0 0 = true ∧ (s.ctx 0).live = true ∧ ((s.ctx 0).ring 3).en = true ∧ 15 < 2 ^ ((s.ctx 0).ring 3).log2 ∧
     ((s.ctx 0).ring 3).head ≤ ringIndex ((s.ctx 0).ring 3).oldest ((s.ctx 0).ring 3).log2 15) ∧
    (let s := ringS (sr0 []) { cr0 with head := 15 }
     ((s.ctx 0).cring 0).en = true ∧ 15 < 2 ^ ((s.ctx 0).cring 0).log2 ∧
     ringIndex ((s.ctx 0).cring 0).db ((s.ctx 0).cring 0).log2 15 ≤ ((s.ctx 0).cring 0).head) ∧
    (∀ ti ∈ [0, 1], (let s := (ringS { sr0 [] with tail := 1, timed := decide (ti = 1) } cr0)
      let s := { s with hostMem := s.hostMem.writeBytes (s.hostAddr 0 hostBase) (dsc 7 [(16, ti)]) }
      let r := (s.ctx 0).ring 3
      let o := agentRead s 0 (r.base + 64 * (r.head % 2 ^ r.log2)) 64
      (s.ctx 0).live = true ∧ r.readable = true ∧ s.stalled (r.base + 64 * (r.head % 2 ^ r.log2)) 64 = false ∧
      o.1.ok = true ∧ o.1.bad = [] ∧
      headerFault ((takeEntry o.2 0 3 o.1.data).ctx 0) ((o.2.ctx 0).ring 3).timed (newDesc ((o.2.ctx 0).ring 3) o.1.data) =
        none ∧ ((o.2.ctx 0).ring 3).timed = decide (ti = 1) ∧
      (takeEntry o.2 0 3 o.1.data).absentDesc (newDesc ((o.2.ctx 0).ring 3) o.1.data) = false)) ∧
    (let s := ringS { sr0 [] with tail := 1, timed := true } cr0
     let s := { s with variant := .kv1s,
                       hostMem := s.hostMem.writeBytes (s.hostAddr 0 hostBase) (dsc 3 [(16, 1)]) }
     let r := (s.ctx 0).ring 3
     let o := agentRead s 0 (r.base + 64 * (r.head % 2 ^ r.log2)) 64
     o.1.ok = true ∧ o.1.bad = [] ∧ headerFault ((takeEntry o.2 0 3 o.1.data).ctx 0) true
       (newDesc ((o.2.ctx 0).ring 3) o.1.data) = none ∧
     (takeEntry o.2 0 3 o.1.data).absentDesc (newDesc ((o.2.ctx 0).ring 3) o.1.data) = true) ∧
    (let s := ringS { sr0 [] with timed := true } cr0
     let d := rdesc 0 (dsc 7 [(16, 1), (64, 400000)])
     let a := ask s 0 d
     a.links = true ∧
     s.fresh.2.admits { id := s.nextId, qkind := 0, ctx := 0, queue := 3, tag := d.tag, cplRing := d.cpl,
                        deadline := d.deadline, allow := a.allow, res := a.res, broken := false } = true) ∧
    (let h : HeldRec := { ring := 0, bytes := List.replicate 32 0, irq := false, event := false, desc := none }
     let s := { lit with ctxs := [(0, { ctx0 with cq := [(0, cr0)], held := [h] })] }
     (s.ctx 0).nextHeld = some h) ∧
    (let d := rdesc 17 (dsc 7 [(64, 1)])
     let s := { ringS { sr0 [d] with rtm := true } cr0 with time := { TimeSt.reset with devTime := 1 } }
     ((s.ctx 0).ring 3).out.find? (fun d => d.abs % 2 ^ ((s.ctx 0).ring 3).log2 == 1 && !d.missed) = some d ∧
     ((s.ctx 0).ring 3).rtm = true ∧ d.deadline ≤ s.now ∧ d.deadline ≠ 0) ∧
    (let d := { rdesc 0 (dsc 7 []) with treq := some 9, phase := .finished }
     let r : TReq := { id := 9, qkind := 0, ctx := 0, queue := 3, tag := 0, cplRing := 0, deadline := 5, allow := 0, res := [],
                       broken := false }
     let s := { ringS (sr0 [d]) cr0 with time := { TimeSt.reset with treqs := [r] } }
     s.treq? 9 = some r ∧ ((s.ctx 0).ring 3).out.head? = some d) := by
  and_intros <;> decide +kernel

theorem witness_CompletionRecordWritten :
    (let s := ringS (sr0 [rdesc 0 (dsc 7 [])]) cr0
     ((s.ctx 0).ring 3).timed = false ∧ ((s.ctx 0).ring 3).out = [rdesc 0 (dsc 7 [])] ∧
     (rdesc 0 (dsc 7 [])).treq = none ∧ (s.ctx 0).canTake 0 = true) ∧
    (let s := ringS (sr0 []) { cr0 with head := 15 }
     let r := (s.ctx 0).cring 0
     s.Canon ∧ addrKind (r.base + 32 * (r.head % 2 ^ r.log2)) = .host ∧ addrKind r.wb = .host ∧ (s.ctx 0).inReset = false ∧
     (s.ctx 0).hostBase + 65536 * (s.ctx 0).hostLimit ≤ 2 ^ 64 ∧
     r.base + 32 * (r.head % 2 ^ r.log2) - hostBase + 32 ≤ 65536 * (s.ctx 0).hostLimit ∧
     r.wb - hostBase + 4 ≤ 65536 * (s.ctx 0).hostLimit ∧ r.base + 32 * (r.head % 2 ^ r.log2) + 32 ≤ r.wb) := by
  refine ⟨by decide +kernel, ⟨⟨rfl, rfl, rfl⟩, rfl, rfl⟩, ?_⟩
  decide +kernel

/-- A launch of tile 0, waiting. -/
def launch0 : Launch :=
  { id := 4, ctx := 0, ring := 3, abs := 0, bytes := dsc 1 [], running := false, skipped := 0, faulted := 0, stopped := false,
    left := [] }

theorem witness_LaunchCopyFenceComplete :
    (let s := ringS (sr0 [rdesc 0 (dsc 1 [])]) cr0
     s.nextOf 0 3 1 = some (rdesc 0 (dsc 1 [])) ∧ ∀ l ∈ s.launches, ¬ (l.ctx = 0 ∧ l.ring = 3 ∧ l.abs = 0)) ∧
    (let s := { ringS (sr0 [rdesc 0 (dsc 1 [])]) cr0 with launches := [launch0] }
     s.launches.find? (fun l => l.id == 4 && !l.running) = some launch0 ∧ launchBlocked s 0 (lTiles launch0.bytes) = false ∧
     s.power.stage5 = false ∧ launchOutranked s launch0 = false ∧ lAdpDir launch0.bytes = 0 ∧
     lTableEn launch0.bytes = false ∧ lPreLen launch0.bytes = 0 ∧
     (s.tile 0).sregs.length = 16) ∧
    (let d := rdesc 0 (dsc 2 [(128, 64), (176, 128), (224, 32)])
     let s := ringS (sr0 [d]) cr0
     let m := agentMove (s.startDesc 0 3 d.abs) 0 (cpSrc d.bytes) (cpDst d.bytes) (cpLen d.bytes)
     s.nextOf 0 3 2 = some d ∧ s.unitOutranked d = false ∧ copyStalled s d.bytes = false ∧
     addrKind (cpSrc d.bytes) ≠ .host ∧ m.1.1 = true ∧ m.1.2.1 = []) ∧
    (let d := rdesc 0 (dsc 2 [(128, hostBase), (176, 128), (224, 2048)])
     let s := ringS (sr0 [d]) cr0
     s.nextOf 0 3 2 = some d ∧ s.unitOutranked d = false ∧ copyStalled s d.bytes = false ∧
     addrKind (cpSrc d.bytes) = .host ∧ s.copies.length < 4) ∧
    (let d := rdesc 0 (dsc 7 [(129, 1)])
     (ringS (sr0 [d]) cr0).nextOf 0 3 7 = some d) ∧
    (∀ n ∈ [0, 1], (let d := { rdesc 0 (dsc 7 [(129, 1)]) with phase := .waiting, detail := n }
      let s := ringS (sr0 [d]) cr0
      s.fence? 0 3 = some d ∧ d.detail = n ∧ fenceReady s 0 3 d = decide (n = 0))) := by
  and_intros <;> decide +kernel

/-- A joint operation on joint 16383 of context 0, which stands at `v`. -/
def jS (op arg v : Nat) (extra : List (Nat × Nat)) : State :=
  (ringS (sr0 [rdesc 0 (dsc 6 ([(128, op), (144, 16383), (192, arg)] ++ extra))]) cr0).setJoint 16383 (joint0 v)

theorem witness_JointDescriptorsComplete :
    (∀ op ∈ [1, 2, 3, 4, 5, 7], (let s := jS op 5 5 []
      nextJointDesc s 0 3 op = some (rdesc 0 (dsc 6 [(128, op), (144, 16383), (192, 5)])) ∧
      s.jointOk 0 (rdesc 0 (dsc 6 [(128, op), (144, 16383), (192, 5)])).joint = true ∧
      (((s.startDesc 0 3 0).ctx 0).ring 3).timed = false ∧
      (rdesc 0 (dsc 6 [(128, op), (144, 16383), (192, 5)])).value ≤ ((s.startDesc 0 3 0).joint 16383).value.toNat ∧
      (rdesc 0 (dsc 6 [(128, op), (144, 16383), (192, 5)])).resultAddr = 0)) ∧
    (let s := jS 4 5 4 []
     nextJointDesc s 0 3 4 = some (rdesc 0 (dsc 6 [(128, 4), (144, 16383), (192, 5)])) ∧
     ((s.startDesc 0 3 0).joint 16383).value.toNat < (rdesc 0 (dsc 6 [(128, 4), (144, 16383), (192, 5)])).value) ∧
    (let d := rdesc 0 (dsc 6 [(128, 3), (256, 64)])
     d.resultAddr ≠ 0 ∧ (agentWriteAll (jS 3 0 4 []) 0 d.resultAddr (leBytes 8 4) []).1 = true) ∧
    (let d := rdesc 0 (dsc 6 [(128, 6), (176, 16383)])
     let s := { linked with ctxs := (ringS (sr0 [d]) cr0).ctxs }
     nextJointDesc s 0 3 6 = some d ∧
     (sendSignal (s.startDesc 0 3 d.abs) 0 (fldBits d.bytes 20 2 0 12) (fldBits d.bytes 22 2 0 14) d.value d.tag
       (if d.treq.isSome then 0 else 1)).1 = .sent) ∧
    (∀ n ∈ [JNeed.ge 4, .order 0 1], (let j := { joint0 4 with waits := [(JWho.tile 0, .ge 5), (.tile 1, n)] }
      ((lit.setJoint 0 j).joint 0).waits.find? (fun w => ((lit.setJoint 0 j).joint 0).ready w.2) = some (.tile 1, n))) ∧
    (let m : RxMsg := { bytes := blk 40 [(0, 5), (64, 16383), (128, 8), (256, 1)], vc := 1, route := 0, hopsM1 := 0, rev := false }
     let s := (linked.setPort 0 { linked.port 0 with inbox := [m] }).setJoint 16383 { joint0 4 with remoteOk := true }
     s.inMsg 0 (fun m => msgOp m.bytes == 5) = some m ∧ (s.joint (msgAddr m.bytes % 2 ^ 14)).valid = true ∧
     (s.joint (msgAddr m.bytes % 2 ^ 14)).remoteOk = true) := by
  and_intros <;> decide +kernel

/-! ### Registers -/

/-- A module that serves, with the CMC's unlock open. -/
def open_ : State := { lit with masters := [(0x80, { Master.reset with unlockedAt := some 0 })] }

/-- Master 0x80 writes `v` with legal values to a word that takes it. -/
abbrev goodWrite (s : State) (off v : Nat) : Prop :=
  wayTo s 0x80 off ∧ s.unlocked 0x80 = true ∧ legalWrite s 0x80 off v ∧
  s.ignores 0x80 off (s.bankAt 0x80 off) (s.written 0x80 off v) = false

/-- The bank and the value of such a write. -/
abbrev bk (s : State) (off : Nat) : Nat := s.bankAt 0x80 off
abbrev wr (s : State) (off v : Nat) : Nat := s.written 0x80 off v

theorem witness_RegisterWritesComplete :
    (∀ e ∈ [(0x1200C, 12), (0x14008, 0xFFFFFFFF), (0x1400C, 0xFFFFFFFF), (0x17040, 0xFFFFFF), (0x20014, 0), (0x20014, 15)],
      goodWrite open_ e.1 e.2) ∧
    (goodWrite open_ 0x15000 0x27 ∧ open_.kvEn = false ∧ bitAt (wr open_ 0x15000 0x27) 0 = true) ∧
    (goodWrite open_ 0x15000 0x26 ∧ bitAt (wr open_ 0x15000 0x26) 0 = false) ∧
    (let s := { open_ with chanBoot := .fenced }
     goodWrite s 0x17050 1 ∧
     (∀ c ∈ brickChans (bk s 0x17050), (s.chan c).state = .fenced ∨ (s.chan c).state = .spalled) ∧ wr s 0x17050 1 ≠ 0) ∧
    (let s := (open_.setReg 0x1B000 0x80 7).setReg 0x1B00C 7 0x3200
     goodWrite s 0x1B00C 0x3201 ∧ bk s 0x1B00C = 7 ∧ bitAt (wr s 0x1B00C 0x3201) 0 = true ∧ s.linkEnabled (bk s 0x1B00C) = false) ∧
    (let s := (open_.setReg 0x1B000 0x80 7).setPort 7 { Port.reset with phase := .dark }
     goodWrite s 0x1B00C 0x3200 ∧ bk s 0x1B00C = 7 ∧ bitAt (wr s 0x1B00C 0x3200) 0 = false ∧
     (s.port (bk s 0x1B00C)).phase ≠ .off) ∧
    (let s := open_.setReg 0x1B040 0x80 8
     goodWrite s 0x1B044 1 ∧ goodWrite s 0x1B048 1 ∧ 8 ≤ bk s 0x1B048) ∧
    (goodWrite open_ 0x1C008 17 ∧ bitAt (wr open_ 0x1C008 17) 0 = true ∧
      (open_.group (bk open_ 0x1C008 / 16) (bk open_ 0x1C008 % 16)).en = false) ∧
    (goodWrite open_ 0x1E004 1 ∧ bitAt (open_.reg 0x1E004 (bk open_ 0x1E004)) 0 = false ∧
      bitAt (wr open_ 0x1E004 1) 0 = true ∧
      genLayoutOk (open_.setReg 0x1E004 (bk open_ 0x1E004) (setBits (wr open_ 0x1E004 1) 0 1 0)) (bk open_ 0x1E004) = true) ∧
    (goodWrite open_ 0x1F044 1 ∧ (open_.joint (bk open_ 0x1F044)).waits = [] ∧ bitAt (wr open_ 0x1F044 1) 0 = true ∧
      (open_.joint (bk open_ 0x1F044)).valid = false) ∧
    (∀ r ∈ [15, 31], (let s := open_.setReg 0x1F004 0x80 r
      goodWrite s 0x1F010 1 ∧ bk s 0x1F010 % 32 = r ∧ bitAt (wr s 0x1F010 1) 0 = true ∧
      ((s.ctx (bk s 0x1F010 / 32)).ring (bk s 0x1F010 % 16)).en = false ∧
      ((s.ctx (bk s 0x1F010 / 32)).cring (bk s 0x1F010 % 16)).en = false)) ∧
    (goodWrite open_ 0x2000C 0x16964 ∧ open_.power.dutyAdm ≤ bits (wr open_ 0x2000C 0x16964) 16 4) ∧
    (let s := { open_ with power := { Power.reset with dutyAdm := 10 } }
     goodWrite s 0x2000C 0x16964 ∧ bits (wr s 0x2000C 0x16964) 16 4 < s.power.dutyAdm) ∧
    (goodWrite open_ 0x1008 0xC0DE7A11 ∧ wr open_ 0x1008 0xC0DE7A11 = 0xC0DE7A11 ∧ goodWrite open_ 0x1008 0 ∧
      wr open_ 0x1008 0 ≠ 0xC0DE7A11) ∧
    (let s := { open_ with ctxs := [], trust := { Trust.reset with stage := 6 } }
     goodWrite s 0x10004 1 ∧ bitAt (wr s 0x10004 1) 0 = true ∧ bitAt (wr s 0x10004 1) 1 = false ∧
     (s.ctx (bk s 0x10004)).enable = false ∧ s.trust.rebuilding = false ∧ s.trust.stage = 6 ∧
     (∀ d ∈ s.ctxs, d.1 ≠ bk s 0x10004 → d.2.enable = true → (s.ctx (bk s 0x10004)).overlaps d.2 = false)) ∧
    (goodWrite open_ 0x10004 0 ∧ bitAt (wr open_ 0x10004 0) 0 = false ∧ bitAt (wr open_ 0x10004 0) 1 = false ∧
      (open_.ctx (bk open_ 0x10004)).enable = true) ∧
    goodWrite open_ 0x11004 0x408240 := by
  and_intros <;> decide +kernel

theorem witness_LinkWritesKeepForm :
    (open_.setReg 0x1B000 0x80 7).Canon ∧ ((open_.setReg 0x1B000 0x80 7).setReg 0x1B00C 7 0x3200).Canon ∧
    ((open_.setReg 0x1B000 0x80 7).setPort 7 { Port.reset with phase := .dark }).Canon :=
  ⟨⟨⟨rfl, rfl, rfl⟩, rfl, by decide +kernel⟩, ⟨⟨rfl, rfl, rfl⟩, rfl, by decide +kernel⟩, ⟨⟨rfl, rfl, rfl⟩, rfl, by decide +kernel⟩⟩

/-- Master 0x80 writes a command to a word that holds none. -/
abbrev goodCommand (s : State) (off c : Nat) : Prop :=
  wayTo s 0x80 off ∧ s.unlocked 0x80 = true ∧ s.reg off (s.bankAt 0x80 off) = 0 ∧
  s.ignores 0x80 off (s.bankAt 0x80 off) c = false

/-- No context is enabled. -/
def bare : State := { open_ with ctxs := [] }

theorem witness_RegisterCommandsComplete :
    (∀ c ∈ [1, 2, 4], goodCommand open_ 0x17034 c ∧ (open_.chan (bk open_ 0x17034)).state = .active ∧
      (open_.chan (bk open_ 0x17034)).retrain = .none) ∧
    (∀ c ∈ [3, 5, 6], (let s := { open_ with chanBoot := .fenced }
      goodCommand s 0x17034 c ∧ (s.chan (bk s 0x17034)).state = .fenced ∧
      s.regFld 0x17050 (brickOf (bk s 0x17034)) 0 6 = 0)) ∧
    (∀ c ∈ [1, 2], (let s := open_.setCont 0 { Cont.reset with st := .inDoubt }
      goodCommand s 0x1E020 c ∧ (s.cont (bk s 0x1E020)).st = .inDoubt)) ∧
    (∀ c ∈ [3, 4], goodCommand open_ 0x1E020 c ∧ (open_.cont (bk open_ 0x1E020)).st ≠ .inDoubt ∧
      (open_.cont (bk open_ 0x1E020)).held = none) ∧
    (goodCommand bare 0x20024 1 ∧ ∀ c ∈ bare.ctxs, c.2.enable = false) ∧
    (∀ c ∈ [1, 2, 3, 4], goodCommand bare 0x2100C c) ∧
    (goodCommand bare 0x2100C 5 ∧ 0x80 ≠ 0x82 ∧ bare.trust.writing = none) ∧
    (let s := { bare with mgmt := { Mgmt.reset with up := true } }
     s.mgmt.up = true ∧ (∀ c ∈ s.ctxs, c.2.enable = false) ∧ s.trust.writing = none) ∧
    wayTo open_ 0x80 0x21020 ∧
    (wayTo open_ 0x80 0x10010 ∧ (open_.ctx (bk open_ 0x10010)).enable = true) ∧
    (let s := open_.setReg 0x1B000 0x80 7
     wayTo s 0x80 0x1B00C ∧ s.unlocked 0x80 = true ∧ bk s 0x1B00C = 7 ∧
     bitAt (wr s 0x1B00C (setBits 0x3201 3 1 1)) 0 = true ∧ legalWrite s 0x80 0x1B00C (setBits 0x3201 3 1 1)) ∧
    (wayTo open_ 0x80 0x10004 ∧ bitAt 3 0 = (open_.ctx (bk open_ 0x10004)).enable) ∧
    (let s := { open_ with time := { TimeSt.reset with devTime := 100001 } }
     (s.master 0x80).unlockedAt = some 0 ∧ 0 + 100000 < s.now) := by
  and_intros <;> decide +kernel

theorem witness_RegisterReadsComplete :
    (let s := { open_ with time := { TimeSt.reset with devTime := 2 ^ 64 - 1 } }
     wayTo s 0x80 0x12000 ∧ s.now < 2 ^ 64) ∧
    (wayTo open_ 0x80 0x1D004 ∧ (tget 0 open_.idle (bk open_ 0x1D004)).toNat < 2 ^ 64) ∧
    (wayTo open_ 0x80 0x1F048 ∧ (open_.joint (bk open_ 0x1F048)).value.toNat < 2 ^ 64) ∧
    (wayTo open_ 0x80 0x1F050 ∧ (open_.joint (bk open_ 0x1F050)).ticket.toNat < 2 ^ 64) ∧
    (wayTo open_ 0x80 0x2002C ∧ open_.energyOf (bk open_ 0x2002C) < 2 ^ 64) ∧
    (let e : ErrEntry := { ch := 1, kind := 1, cw := 2, time := 2 ^ 40 }
     let s := { open_ with errLog := [e] }
     wayTo s 0x80 0x1706C ∧ s.errLog = e :: []) ∧
    (decodeFor 0x80 0x17068 = .word (mapWord 0x17068) ∧ wayTo open_ 0x80 0x17068 ∧ (mapWord 0x17068).off ≠ 0x1706C ∧
      open_.latch 0x80 (mapWord 0x17068).off (open_.bankOf 0x80 (mapWord 0x17068).bank) = open_) ∧
    (decodeFor 0x80 0x5000 = .hole ∧ outOfReach 0x80 0x5000 = false ∧ open_.domainOff 0x80 0x5000 = false) ∧
    (∀ sl ∈ [0, 15], wayTo open_ 0x80 (aliasOff sl 31) ∧ wordRow (aliasTarget sl) = some (mapWord (aliasTarget sl)) ∧
      open_.unitAbsent (mapWord (aliasTarget sl)).off = false) ∧
    (decodeFor 0 0x1200C = .word (mapWord 0x1200C) ∧ outOfReach 0 0x1200C = false ∧ open_.domainOff 0 0x1200C = false ∧
      (0, 0x1200C, leBytes 4 0) ∉ open_.regPosted) := by
  and_intros <;> decide +kernel

theorem witness_LatchedReadsComplete :
    (wholeMap 0 ∧ wholeMap 0x40 ∧ wholeMap 0x80 ∧ wholeMap 0x82) ∧
    (let e : ErrEntry := { ch := 1, kind := 1, cw := 2, time := 2 ^ 40 }
     ({ open_ with errLog := [e] }).errLog = e :: []) ∧ open_.errLog = [] ∧
    (∀ n ∈ [1, 63], 1 ≤ n ∧ n < 64) ∧ (∀ m ∈ [1, 0x3F], 1 ≤ m ∧ m < 0x40) := by decide +kernel

theorem witness_DirectReadsComplete :
    (∀ m ∈ [0, 0x40, 0x80], wholeMap m ∧ (∀ off ∈ [0x1200C, 0x17018], open_.domainOff m off = false ∧
        decodeOffset off = .word (mapWord off) ∧ open_.unitAbsent (mapWord off).off = false ∧
        (mapWord off).off ∉ [0x12000, 0x13040, 0x1706C, 0x1D004, 0x1F048, 0x1F050, 0x2002C])) ∧
    (let s := { open_ with variant := .kv1s }
     s.domainOff 0 0x18004 = false ∧ decodeOffset 0x18004 = .word (mapWord 0x18004) ∧
     s.unitAbsent (mapWord 0x18004).off = true) ∧
    (∃ off ∈ (List.range 0x400).map (fun k => 0x1000 + 4 * k), open_.domainOff 0 off = false ∧ decodeOffset off = .nothing) ∧
    State.reset.domainOff 0 0x18004 = true ∧ decodeOffset 0x5000 = .hole ∧
    (∀ sl ∈ [0, 15], sl < 16 ∧ 31 < 32 ∧ (wordRow (aliasTarget sl)).isSome ∧
      ∀ r ∈ wordRow (aliasTarget sl), open_.unitAbsent r.off = false) ∧
    (∀ r ∈ wordRow (aliasTarget 15), ({ open_ with variant := .kv1s }).unitAbsent r.off = true) ∧
    (∀ n ∈ [1, 63], 1 ≤ n ∧ n < 64 ∧ 0x1200C / 0x1000 ≠ 0x100 + n ∧ 0x1200C / 0x1000 ≠ 0x16) := by
  and_intros <;> decide +kernel

theorem witness_LatchingReadsKeepForm : open_.Canon := ⟨⟨rfl, rfl, rfl⟩, rfl, rfl⟩

/-! ### Channels, flash, host reads -/

/-- A read by tile 0, or a write, of `len` bytes at byte `addr` of channel 0. -/
def entry0 (write : Bool) (addr len : Nat) : CEntry :=
  { id := 3, tile := 0, tag := 1, treq := none, vc := 0, write := write, addr := addr, len := len, next := addr,
    data := if write then List.replicate len 9 else [], poison := [] }

/-- Channel 0 as given. -/
def onChan (c : Chan) : State := lit.setChan 0 c

/-- A sweep of 38 pins with wide windows, but for the pins given. -/
def sweep0 (bad : List Nat) : PinSweep :=
  { stbLo := 8, stbHi := 40, vrefLo := 8, vrefHi := 40,
    pins := (List.range 38).map (fun p => if bad.contains p then (0, 0, 0, 0) else (32, 2, 10, 32)) }

theorem witness_ChannelEventsComplete :
    (let s := onChan { Chan.reset with state := .degraded, entries := [entry0 false 0 32] }
     (s.chan 0).service = none ∧ (s.chan 0).state = .degraded ∧ nextLine s (s.chan 0) = some (entry0 false 0 32)) ∧
    (∀ e ∈ [entry0 false 0 32, entry0 false 0 160],
      (let s := onChan { Chan.reset with state := .active, entries := [e], service := some 3 }
       (s.chan 0).service = some 3 ∧ (s.chan 0).entries.find? (fun x => x.id == 3) = some e ∧ e.write = false ∧
       (e.len = 32 → e.addr + e.len ≤ e.piece.1 + e.piece.2) ∧ (e.len = 160 → e.piece.1 + e.piece.2 < e.addr + e.len))) ∧
    (let e := entry0 true 0 32
     let s := onChan { Chan.reset with state := .active, entries := [e], service := some 3 }
     (s.chan 0).service = some 3 ∧ (s.chan 0).entries.find? (fun x => x.id == 3) = some e ∧ e.write = true ∧
     e.addr + e.len ≤ e.piece.1 + e.piece.2) ∧
    ((lit.chan 25599).state ≠ .untrained ∧ (lit.chan 25599).state ≠ .spalled ∧ 15 < 16 ∧ (lit.chan 25599).busyBank ≠ some 15) ∧
    ((lit.chan 0).state = .active ∧ lit.regFld 0x17040 0 0 24 ≠ 0 ∧ turnFree lit 0 scrubSource = true) ∧
    (let s := { onChan { Chan.reset with retrain := .refused } with time := { TimeSt.reset with devTime := 1000000 } }
     (s.chan 0).retrain = .refused ∧ (s.chan 0).refusedAt + 1000000 ≤ s.now) ∧
    (let r : TReq := { id := 9, qkind := 5, ctx := 0, queue := 0, tag := 0, cplRing := 0, deadline := 5, allow := 0,
                       res := [(resChan 0, 1)], broken := false }
     let s := { onChan { Chan.reset with state := .active, retrain := .submitted, retrainReq := some 9 } with
                  time := { TimeSt.reset with treqs := [r] } }
     (s.chan 0).retrainReq = some 9 ∧ (s.chan 0).retrain = .submitted ∧ (s.chan 0).service = none ∧
     retrainTurn s 0 9 = true ∧ (s.chan 0).state ≠ .fenced) ∧
    (let s := onChan { Chan.reset with state := .training, retrain := .running }
     (s.chan 0).retrain = .running ∧ (s.chan 0).retrainReq = none ∧
     (trained (s.chan 0) s.minEyeNow (sweep0 [0, 1])).2.length ≤ 4 ∧
     4 < (trained (s.chan 0) s.minEyeNow (sweep0 [0, 1, 2, 3, 4, 5, 6, 7, 8])).2.length) ∧
    (let s := onChan { Chan.reset with state := .active, fencing := true }
     (s.chan 0).fencing = true ∧ (s.chan 0).entries = [] ∧ (s.chan 0).service = none ∧ (s.chan 0).state ≠ .training ∧
     (s.chan 0).retrainReq = none ∧ (∀ r ∈ s.time.treqs, r.qkind ≠ 5 → thas r.res (resChan 0) = false)) ∧
    ((onChan { Chan.reset with margin := some 1 }).chan 0).margin = some 1 := by
  and_intros <;> decide +kernel

/-- A flash descriptor on object 7: unit 3 of it, at byte 4096 of channel 0. -/
def fdesc (op : Nat) : Desc := rdesc 0 (dsc 3 [(128, op), (192, 7), (224, 3), (256, 1), (288, 4096)])

/-- The tier serves; object 7 is as given; the ring's next descriptor is `d`. -/
def flS (o : Option FObj) (d : Desc) : State :=
  { ringS (sr0 [d]) cr0 with
    flash := { Flash.reset with ready := true, objs := match o with | some x => [(7, x)] | none => [] } }

/-- An object of four units of context 0. -/
def obj7 : FObj := { ctx := 0, size := 4, poisoned := [] }

theorem witness_FlashCommandsComplete :
    (let s := flS none (fdesc 1)
     flashAt s 0 3 1 (fdesc 1) ∧ s.fobj? (flObj (fdesc 1).bytes) = none ∧ flObj (fdesc 1).bytes ≠ 0xFFFFFFFF ∧
     flLen (fdesc 1).bytes ≠ 0 ∧ s.flash.objs.length < 1048576 ∧
     s.flash.objs.foldl (fun n o => n + o.2.size) 0 + flLen (fdesc 1).bytes ≤ flashUnits ∧ s.flash.readOnly = false) ∧
    (∀ op ∈ [2, 3, 4, 5, 6], (let s := flS (some obj7) (fdesc op)
      flashAt s 0 3 op (fdesc op) ∧ objFault s 0 (fdesc op).bytes false = none ∧ objFault s 0 (fdesc op).bytes true = none ∧
      fldBit (fdesc op).bytes 17 1 = false ∧ flashAddrOk (flAddr (fdesc op).bytes) 4096 = true ∧
      flashAddrOk (flAddr (fdesc op).bytes) 32 = true ∧ extentPoisoned s (fdesc op).bytes = false ∧
      s.flash.readOnly = false ∧ s.fobj? (flObj (fdesc op).bytes) = some obj7 ∧
      addrKind (flAddr (fdesc op).bytes) ≠ .host)) ∧
    (let d := rdesc 0 (dsc 3 [(128, 4), (192, 7), (224, 3), (256, 1), (288, hostBase)])
     let s := flS (some obj7) d
     flashAt s 0 3 4 d ∧ objFault s 0 d.bytes true = none ∧ flashAddrOk (flAddr d.bytes) 4096 = true ∧
     s.flash.readOnly = false ∧ addrKind (flAddr d.bytes) = .host) ∧
    (let d := rdesc 0 (dsc 3 [(128, 3), (137, 1), (192, 7), (224, 3), (256, 1), (288, 4096)])
     let s := flS (some obj7) d
     flashAt s 0 3 3 d ∧ objFault s 0 d.bytes true = none ∧ fldBit d.bytes 17 1 = true ∧ flTile d.bytes < tileCount ∧
     (s.ctx 0).owns (flTile d.bytes) = true ∧
     flashAddrOk (flAddr d.bytes) 4096 = true ∧ extentPoisoned s d.bytes = false) ∧
    (let s := { ringS (sr0 [fdesc 3]) cr0 with variant := .kv1s }
     s.nextOf 0 3 3 = some (fdesc 3) ∧ s.variant = .kv1s) := by
  and_intros <;> decide +kernel

/-- A flash command on object 7 in flight. -/
def fcmd (op : Nat) (started : Bool) (units : List Nat) (programs : Nat) : FCmd :=
  { id := 5, origin := .ring 3 0, ctx := 0, op := op, obj := 7, off := 0, len := 1, addr := 0, stream := none, joint := none,
    started := started, units := units, status := 0, programs := programs, parity := [], deferred := false, late := false,
    steppedAt := 0, data := [], asked := 0, landed := 0, parts := [], badParts := [] }

/-- The tier with that command in flight. -/
def flC (c : FCmd) (rec_ : List ((Nat × Nat) × Nat)) : State :=
  let s := flS (some obj7) (fdesc 3)
  { s with flash := { s.flash with cmds := [c], recover := rec_ } }

theorem witness_FlashStreamsComplete :
    (let c := { fcmd 3 false [0] 0 with stream := some (0, 2) }
     let x := stream0 true 1
     let s := (flC c []).setTile 0 { Tile.reset with hod := { Hod.reset with streams := [(2, x)] } }
     s.fcmd? 5 = some c ∧ c.op = 3 ∧ c.started = false ∧ c.late = false ∧ c.stream = some (0, 2) ∧
     (s.tile 0).hod.stream? 2 = some x ∧ x.recv = true ∧ 0 < x.credits) ∧
    (let c := { fcmd 3 true [0] 0 with late := true }
     (flC c []).fcmd? 5 = some c ∧ c.op = 3 ∧ c.late = true) := by
  and_intros <;> decide +kernel

/-- The tier with a READ of unit 0 under way, whose page stands at slot 0 of row 0, and with the dies given failed. -/
def flP (dies : Nat) (rec_ : List ((Nat × Nat) × Nat)) : State :=
  let s := flC (fcmd 3 true [0] 0) rec_
  { s with flash := { s.flash with place := [((7, 0), (0, 0)), ((7, 1), (0, 1))], fill := [(0, 2)],
                                   dieFailed := BitVec.ofNat 16 dies } }

theorem witness_FlashEventsComplete :
    (let c := fcmd 4 true [0] 1
     let s := flC c []
     s.fcmd? 5 = some c ∧ c.units = 0 :: [] ∧ c.op = 4 ∧ 0 < c.programs ∧ s.flash.canPlace 0 0 = true ∧ c.status ≠ 6 ∧
     (c.units.filter (fun v => pageOf v == pageOf 0)) = [0] ∧ (programUnit s c 0).1 ≠ 6) ∧
    (let c := { fcmd 4 true [] 1 with parity := [(0, 0)] }
     (flC c []).fcmd? 5 = some c ∧ c.op = 4 ∧ 0 < c.programs ∧ c.units = [] ∧ c.parity = (0, 0) :: []) ∧
    (let s := flP 6 []
     readWaits s 5 0 = some (fcmd 3 true [0] 0) ∧ s.flash.pageLost 7 (pageOf 0) = true) ∧
    (∀ r ∈ [none, some 0, some 6, some 7], (let c := fcmd 3 true [0] 0
      let s := flP 0 (match r with | some n => [((7, 0), n)] | none => [])
      readWaits s 5 0 = some c ∧ s.flash.tries c.obj (pageOf 0) = r ∧ s.flash.pageLost 7 (pageOf 0) = false ∧
      s.flash.pageDown 7 (pageOf 0) = false)) ∧
    (let s := flP 2 []
     readWaits s 5 0 = some (fcmd 3 true [0] 0) ∧ s.flash.pageLost 7 (pageOf 0) = false ∧
     s.flash.pageDown 7 (pageOf 0) = true) ∧
    (let s := { flP 0 [] with time := { TimeSt.reset with devTime := 10 ^ 12 } }
     s.variant = .kv1a ∧ 1 < 16 ∧ dieOverdue s 1 = true) ∧
    (∀ worn ∈ [false, true], (let s := flP 0 []
      let s := { s with flash := { s.flash with retried := if worn then [0] else [], fill := [(0, 3)] } }
      s.variant = .kv1a ∧ tget 0 s.flash.fill 0 ≠ 0 ∧ tget 0 s.flash.fill 1 = 0 ∧ 0 ≠ 1 ∧ s.flash.opens 1 = true ∧
      (∀ c ∈ s.flash.cmds, ∀ x ∈ c.parity, x.1 ≠ 0) ∧ rowWorn s 0 = worn ∧ (worn = false → rowStale s.flash 0 = true))) := by
  and_intros <;> decide +kernel

/-- A host read of tile 0's hod under its tag 63. -/
def hr0 (treq : Option Nat) (ab : Bool) : HostRead :=
  { tag := 12, ctx := 0, who := .hod 0 63, addr := hostBase, len := 32, sentAt := 0, treq := treq, abandoned := ab }

theorem witness_HostReadsComplete :
    (∀ h ∈ [hr0 none false, hr0 (some 4) false, hr0 none true], (let s := { hodS (desc0 (hdK 0)) [{ tag0 .copy false with answered := false }] with
        hostReads := [h], time := { TimeSt.reset with devTime := 10 ^ 9 } }
      s.hostReads.find? (fun h => h.tag == 12) = some h ∧ hostWaits s h = false ∧ h.who = .hod 0 63 ∧
      h.sentAt + 1000000 * s.regFld 0x19008 0 0 6 ≤ s.now ∧ h.sentAt + 1000 * s.regFld 0x19008 0 8 8 ≤ s.now)) := by
  decide +kernel

/-! ### KV pages and the kiln -/

/-- A KV command of context 0 on page `pg`: its tokens at byte 0, its response at byte 4096. -/
def kvc (op pg : Nat) : KvCmd := { bytes := blk 32 [(0, op), (32, pg), (112, 4096)], ctx := 0 }

/-- The page manager is enabled with 4 pages, page 3 as given; it has accepted the command. -/
def kvS (p : Page) (c : KvCmd) : State :=
  let s := (lit.setReg 0x15008 0 4).setReg 0x15000 0 0x27
  { s with kv := { s.kv with pages := [(3, p)], accepted := [c] } }

def live1 : Page := { Page.reset with st := .live, refs := 1 }

/-- The key of the tokens at byte 0. -/
def key0 : List Byte := kvKey (agentReadAll (kvS live1 (kvc 1 3)) 0 0 528).1.data

theorem witness_KvCommandsComplete :
    (∀ op ∈ [1, 3], (let s := kvS live1 (kvc op 3)
      let r := agentReadAll (s.kvTaken 0) 0 (kvc op 3).tokAddr 528 kvEnd
      kvAt s 0 op (kvc op 3) ∧ r.1.ok = true ∧ r.1.bad = [] ∧ kvLive r.2 (kvc op 3) ∧ (r.2.page 3).ring = false ∧
      0 < (r.2.page 3).refs ∧ ∀ p ∈ r.2.kv.pages, p.2.inDir = false)) ∧
    (let s := kvS live1 (kvc 2 0)
     kvAt s 0 2 (kvc 2 0) ∧ (s.kvTaken 0).freePage = some 0) ∧
    (∀ op ∈ [4, 5, 6, 7], (let s := kvS { live1 with pins := 1 } (kvc op 3)
      kvAt s 0 op (kvc op 3) ∧ kvLive s (kvc op 3) ∧ (s.page 3).pins + 1 < 2 ^ 16 ∧ 0 < (s.page 3).pins ∧
      (s.page 3).refs + 1 < 2 ^ 24 ∧ 0 < (s.page 3).refs)) ∧
    (let s := kvS live1 (kvc 8 3)
     kvAt s 0 8 (kvc 8 3) ∧ kvLive s (kvc 8 3) ∧ (s.page 3).ring = false ∧ (s.page 3).published = false ∧
     (s.page 3).refs = 1 ∧ (s.page 3).pins = 0) ∧
    (let s := kvS { live1 with ring := true, pins := 1 } (kvc 8 3)
     kvAt s 0 8 (kvc 8 3) ∧ kvLive s (kvc 8 3) ∧ (s.page 3).ring = true ∧ 0 < (s.page 3).pins) ∧
    (let s := kvS { live1 with refs := 2 } (kvc 8 3)
     kvAt s 0 8 (kvc 8 3) ∧ kvLive s (kvc 8 3) ∧ (s.page 3).ring = false ∧ (s.page 3).refs ≠ 1 ∧
     (s.kvTaken 0).freePage = some 0) ∧
    (let k : KvCopy := { page := 3, newPage := 0, cmd := kvc 8 3, gone := false }
     let s := kvS { live1 with refs := 2 } (kvc 8 3)
     let s := { s with kv := { s.kv with copies := [k] } }
     let m := kvMovePage { s with kv := { s.kv with copies := dropEq k s.kv.copies } } (s.kvPageAddr 3) (s.kvPageAddr 0) s.kvPageBytes
     s.kv.copies.find? (fun k => k.page == 3) = some k ∧ k.gone = false ∧ kvCopyStalled s k = false ∧ m.1 = true ∧
     (m.2.page 3).refs ≠ 0) ∧
    (let s := { lit with time := { TimeSt.reset with devTime := 10000 } }
     (∀ u ∈ s.kv.users, u.2 ≠ (s.kv.epoch - 1).toNat) ∧ 10000 + s.kv.advancedAt ≤ s.now) ∧
    (4064 < 4096 ∧ 4064 % 32 = 0 ∧ (kvc 8 3).bytes.length = 32 ∧ (kvS live1 (kvc 8 3)).kvEn = true ∧ (kvc 8 3).op ≠ 0 ∧
      (kvc 8 3).op ≤ 8) ∧
    (let r : KvRun := { slot := 1, bytes := [1], at_ := 0 }
     let s := { lit with masters := [(0, { Master.reset with run := some r })], time := { TimeSt.reset with devTime := 10000 } }
     (s.master 0).run = some r ∧ r.at_ + 10000 ≤ s.now) := by
  and_intros <;> decide +kernel

/-- A page in the directory under the key of the command's tokens is found. -/
theorem witness_KvPageFound : ∀ op ∈ [1, 3],
    (let p := { live1 with inDir := true, key := leNat key0 }
     (kvS p (kvc op 3)).kvFind 0 0 (leNat key0) = some (3, p)) := by
  intro op _
  show (kvS _ _).kvFind 0 0 _ = _
  simp [State.kvFind, kvS, live1, Page.reset]

/-- A batch block of one sample of 4 by 4 pixels, with its tables from byte 8192 on. -/
def kblock : List Byte :=
  blk 128 [(0, 1), (8, 9), (16, 4), (24, 1), (32, 4), (48, 4), (64, 1), (320, 8192), (384, 1), (416, 8256), (480, 8320),
           (528, 8448), (576, 1), (608, 8512), (656, 1), (672, 1)]

/-- A catalog record: one frame of 4096 bytes in host memory. -/
def krecord : List Byte := blk 32 [(8, 1), (32, 1), (128, hostBase), (192, 4096)]

/-- The block stands at byte 4096; the record, the parameters and the destination follow. -/
def kmem (block rec_ : List Byte) : Memory :=
  (((((lit.mem.writeBytes 4096 block).writeBytes 8192 rec_).writeBytes 8256 (zeros 4)).writeBytes 8320
    (blk 48 [(16, 1), (96, 1), (128, 1)])).writeBytes 8448 (zeros 4)).writeBytes 8512 (blk 8 [(0, 16384)])

/-- The descriptor of a batch of one sample whose block stands at `a`. -/
def kdesc (a : Nat) : Desc := rdesc 0 (dsc 4 [(128, a), (176, 1)])

/-- The kiln is ready, the batch's descriptor next. -/
def kilnS (a : Nat) (block rec_ : List Byte) : State :=
  { ringS (sr0 [kdesc a]) cr0 with mem := kmem block rec_, regs := [(0x1A008, 0xFFFF0)] }

/-- The slot of a BAD_BATCH. -/
def badSlot : KilnCheck → Option Nat
  | .bad i => some i
  | .good => none
  | .address => none

/-- ADDRESS. -/
def badAddress : KilnCheck → Bool
  | .address => true
  | .good => false
  | .bad _ => false

theorem witness_KilnBatchCompletes :
    (let s := kilnS 4096 kblock krecord
     s.nextOf 0 3 4 = some (kdesc 4096) ∧ s.variant = .kv1a ∧ s.kiln.kstate = 0 ∧ s.kilnOn = true ∧
     s.unitOutranked (kdesc 4096) = false ∧ s.stalled (kdBlock (kdesc 4096).bytes) 128 = false ∧
     (kilnCheck (s.startDesc 0 3 0) 0 (kdesc 4096).bytes).1 = .good) ∧
    (let s := kilnS 4096 (zeros 128) krecord
     s.nextOf 0 3 4 = some (kdesc 4096) ∧ s.kilnOn = true ∧ s.unitOutranked (kdesc 4096) = false ∧
     s.stalled (kdBlock (kdesc 4096).bytes) 128 = false ∧
     badSlot (kilnCheck (s.startDesc 0 3 0) 0 (kdesc 4096).bytes).1 = some 0xFFFF) ∧
    (let s := kilnS (scratchAddr 5 0) kblock krecord
     s.nextOf 0 3 4 = some (kdesc (scratchAddr 5 0)) ∧ s.kilnOn = true ∧ s.unitOutranked (kdesc (scratchAddr 5 0)) = false ∧
     s.stalled (kdBlock (kdesc (scratchAddr 5 0)).bytes) 128 = false ∧
     badAddress (kilnCheck (s.startDesc 0 3 0) 0 (kdesc (scratchAddr 5 0)).bytes).1 = true) ∧
    (let s := kilnS 4096 kblock krecord
     let s := { s with kiln := { s.kiln with kstate := 1 } }
     s.nextOf 0 3 4 = some (kdesc 4096) ∧ s.variant = .kv1a ∧ s.kiln.kstate ≠ 0 ∧ (kdesc 4096).treq = none) ∧
    (let s := { kilnS 4096 kblock krecord with variant := .kv1s }
     s.nextOf 0 3 4 = some (kdesc 4096) ∧ s.variant = .kv1s) := by
  and_intros <;> decide +kernel

/-- A batch with one slot. -/
def kbatch (st : SlotSt) (timed : Bool) : Batch :=
  { id := 6, ctx := 0, ring := 3, abs := 0, bytes := (kdesc 4096).bytes, block := kblock, timed := timed, deadline := 0,
    slots := [{ st := st, cause := 0, cand := none, catalog := 0, clamped := false }], corrupt := 0, bfUsed := 0, clamped := 0,
    pixels := 0, excess := false }

/-- The kiln with that batch and engine 15. -/
def kilnB (b : Batch) (g : Engine) (rec_ : List Byte) : State :=
  let s := kilnS 4096 kblock rec_
  { s with kiln := { s.kiln with up := 0x8000, batches := [b], engines := [(15, g)] } }

/-- An engine that works on the slot, with the bytes given as read. -/
def keng (st : EngSt) (failed : Bool) (hi : Nat) (parts : Tbl (List Byte)) : Engine :=
  { Engine.reset with st := st, batch := 6, record := krecord, failed := failed, hi := hi,
                      landed := parts.foldl (fun n p => n + p.2.length) 0, parts := parts }

/-- (What the header parser finds is an operand of the module's codecs: log entry 30. Both outcomes of R263's checks are
met by some answer of it.) -/
theorem witness_KilnCommandsComplete :
    (∀ r ∈ [krecord, zeros 32], ∀ timed ∈ [false, true], (let b := kbatch .todo timed
      let s := kilnB b Engine.reset r
      let s1 := s.modBatch b.id (fun b => b.setSlot 0 { b.slot 0 with st := .busy })
      let s2 := s1.setEngine 15 { Engine.reset with st := .header, batch := b.id, slot := 0 }
      let x := slotIndex s2 b 0
      let o := agentReadAll x.2 b.ctx (kbCatalog b.block + 32 * 0) 32 (unitEnd 10)
      let s3 := o.2.setEngine 15 { o.2.engine 15 with catalog := 0, record := o.1.data }
      s.batch? 6 = some b ∧ batchTurn s b = true ∧ b.nextSlot = some 0 ∧
      (List.range 16).find? (fun e => s.kiln.up.getLsbD e && !s.kiln.fencing.getLsbD e && (s.engine e).st == .free) = some 15 ∧
      x.1 = some 0 ∧ o.1.ok = true ∧ o.1.bad = [] ∧
      recordCause s3 o.1.data = (if r = krecord then none else some 2))) ∧
    (∀ st ∈ [EngSt.header, .decode], ∀ e ∈ [(true, 32, []), (false, 32, []), (false, 32, [(0, zeros 32)])],
      (let b := kbatch .busy false
       let s := kilnB b (keng st e.1 e.2.1 e.2.2) krecord
       s.batch? (s.engine 15).batch = some b ∧ (s.engine 15).st = st ∧ (s.engine 15).failed = e.1 ∧
       (s.engine 15).whole = !e.2.2.isEmpty ∧ slotStalled s b (s.engine 15).slot = false)) ∧
    (∀ p ∈ [[0, 0, 0, 16, 16, 8, 1, 1], []], headerCause (kilnB (kbatch .busy false) Engine.reset krecord) krecord p =
      (if p = [] then some 4 else none)) ∧
    (∀ u ∈ [0, 1], (let b := { kbatch .corrupt false with bfUsed := u }
      let s := kilnB b Engine.reset krecord
      s.batch? 6 = some b ∧ (List.range b.slots.length).find? (fun i => !(b.slot i).final) = some 0 ∧
      (b.slot 0).st = .corrupt ∧ slotStalled s b 0 = false ∧
      (u = 0 → b.bfUsed < kbBackfills b.block) ∧ (u = 1 → kbBackfills b.block ≤ b.bfUsed))) ∧
    (let b := kbatch .done false
     let s := kilnB b Engine.reset krecord
     s.batch? 6 = some b ∧ b.slots.all Slot.final = true ∧
     (s.kiln.batches.find? (fun x => x.ctx == b.ctx && kdStream x.bytes == kdStream b.bytes)).map (fun x => x.id) = some b.id) := by
  and_intros <;> decide +kernel

/-! ### Links -/

/-- Port 0 up with a partner of version 2, with the messages given in its inbox. -/
def portS (msgs : List RxMsg) (is : List Issued) : State :=
  let s := linked.setPort 0 { linked.port 0 with inbox := msgs }
  { s with links := { s.links with issued := is } }

def rx (bs : List Byte) : RxMsg := { bytes := bs, vc := 1, route := 0, hopsM1 := 0, rev := false }

/-- A flit with its check. -/
def flit (seq : Nat) : List Byte :=
  let b := blk 268 [(16, seq)]
  b ++ leBytes 4 (crc32c b)

set_option maxRecDepth 20000 in
theorem witness_FlitChecked : crc32c ((flit 1).take 268) = fld (flit 1) 268 4 ∧ crc32c ((flit 0).take 268) = fld (flit 0) 268 4 := by
  decide +kernel

theorem witness_ArkelEventsComplete :
    (∀ q ∈ [0, 1], (linked.port 0).phase = .up ∧ (linked.port 0).fibreOn 1 3 = true ∧
      (linked.port 0).swapping.contains (1, 3) = false ∧ (linked.port 0).failRun.getD 3 0 < 16 ∧
      (fld (flit q) 2 2 = (linked.port 0).rxSeq ↔ q = 0)) ∧
    (let s := { linked.setPort 0 { linked.port 0 with replay := [(0, flit 0)] } with time := { TimeSt.reset with devTime := 10000 } }
     s.portUp 0 = true ∧ (s.port 0).replay ≠ [] ∧ 10000 + (s.port 0).ackAt ≤ s.now) ∧
    (let m := rx (msgHeader 1 0 0 7 64 4 0 ++ [1, 2, 3, 4])
     let s := portS [m] []
     s.inMsg 0 (fun m => msgOp m.bytes == 1 && accessReady s true m) = some m ∧
     ((s.consume 0 m).ctx (msgCtx m.bytes)).live = true) ∧
    (let m := rx (msgHeader 2 0 0 7 64 32 0)
     let s := portS [m] []
     s.inMsg 0 (fun m => msgOp m.bytes == 2 && accessReady s false m) = some m ∧ ((s.consume 0 m).port 0).version = 2 ∧ ((s.consume 0 m).ctx (msgCtx m.bytes)).live = true ∧
     (agentReadAll (s.consume 0 m) (msgCtx m.bytes) (msgAddr m.bytes) (msgLen m.bytes) (unitEnd 0)).1.ok = true) ∧
    (let m := rx (msgHeader 3 0 0 7 64 0 0)
     let i : Issued := { tag := 7, ctx := 0, entry := 8, rjoint := 0, engine := some 15, ofs := 0 }
     let s := portS [m] [i]
     msgAt s 0 3 m ∧ msgStatus m.bytes = 0 ∧
     (s.consume 0 m).links.issued.find? (fun i => i.engine.isSome && i.tag == msgTag m.bytes && i.ctx == msgCtx m.bytes) = some i ∧
     i.engine = some 15) ∧
    (let m := rx (msgHeader 6 1 0 7 64 0 0)
     let i : Issued := { tag := 7, ctx := 0, entry := 8, rjoint := 64, engine := none, ofs := 0 }
     let s := portS [m] [i]
     msgAt s 0 6 m ∧ i.engine = none ∧ (s.consume 0 m).links.issued.find? (fun i => i.tag == msgTag m.bytes && i.ctx == msgCtx m.bytes &&
       (i.engine.isSome || i.rjoint == msgAddr m.bytes % 2 ^ 14)) = some i) ∧
    (let s := lit.setPort 7 { Port.reset with phase := .dark }
     s.linkEnabled 7 = true ∧ (s.port 7).phase = .dark) ∧
    (let s := lit.setPort 7 { Port.reset with phase := .fec, rxFibres := 15 }
     (s.port 7).phase = .fec ∧ (s.port 7).rxFibres = 15 ∧ 6 = 7 ^^^ 1 ∧ 2 ^ 24 - 1 < 2 ^ 24) ∧
    ((lit.port 7).phase = .off ∧ lit.linkEnabled 7 = true ∧ lit.linkAuto 7 = true) ∧
    (∀ dir ∈ [0, 1], (linked.port 0).phase = .up ∧ (linked.port 0).fibreOn dir 3 = true ∧ (linked.port 0).spare dir 3 = 15 ∧
      (linked.port 0).swapping.contains (dir, 3) = false) ∧
    (let s := linked.setPort 0 { linked.port 0 with rxFibres := 0 }
     s.portUp 0 = true ∧ (s.port 0).fibres 1 = 0) ∧
    (let s := linked.setPort 0 { linked.port 0 with rxFibres := 7 }
     s.time.shedStage < 4 ∧ placeSpare (badLanes s 0 [] 1 3) = some 15 ∧ (s.port 0).phase = .up ∧ (s.port 0).version = 2 ∧
     (s.port 0).fibreOn 1 3 = false) := by
  and_intros <;> decide +kernel

/-- With light on every lane and no lane fenced, training finds no bad lane. -/
theorem witness_LanesTrain :
    (let s : State := { lit.setPort 7 { Port.reset with phase := .lanes } with
       links := { (lit.setPort 7 { Port.reset with phase := .lanes }).links with ls0 := 0x1FF } }
     (s.port 7).phase = .lanes ∧ ∀ d f, badLanes s 7 [] d f = []) := by
  refine ⟨by decide +kernel, fun d f => ?_⟩
  have h : State.darkLanes { lit.setPort 7 { Port.reset with phase := .lanes } with
       links := { (lit.setPort 7 { Port.reset with phase := .lanes }).links with ls0 := 0x1FF } } = [] := by decide +kernel
  have h2 : (State.port { lit.setPort 7 { Port.reset with phase := .lanes } with
       links := { (lit.setPort 7 { Port.reset with phase := .lanes }).links with ls0 := 0x1FF } } 7).fencedLane = [] := by decide +kernel
  unfold badLanes
  rw [h, h2]
  simp

/-- A request on every port's resources. -/
def portsReq : TReq :=
  { id := 9, qkind := 0, ctx := 0, queue := 0, tag := 0, cplRing := 0, deadline := 5, allow := 0,
    res := (List.range 8).map (fun p => (resPort p false, 1)), broken := false }

/-- The state that a time exchange at port 0 leads to first, with a root `ahead` of the module's time. -/
def exchanged (s : State) (ahead : Int) (hops : Nat) : State :=
  reparent (s.setPort 0 { s.port 0 with exchanged := true, offsetPs := 5, rootAhead := ahead, rootHops := hops,
                                        timeSplit := s.links.startedCtx && decide (1000000 < ahead) })

theorem witness_ModuleEventsComplete :
    (linked.portUp 0 = true ∧ (linked.port 0).window = true) ∧
    (linked.portUp 0 = true ∧ (exchanged linked 0 0).links.parent ≠ some 0) ∧
    ((exchanged linked 1000 1).links.parent = some 0 ∧ linked.links.acquired = false ∧ linked.links.startedCtx = false) ∧
    (let s := { linked with links := { linked.links with acquired := true } }
     s.portUp 0 = true ∧ (exchanged s 1000 1).links.parent = some 0 ∧ s.links.acquired = true) ∧
    (let s := { linked with links := { linked.links with ls0 := 1 } }
     (1 : BitVec 9) ≠ 0 ∧ s.links.ls0 &&& ~~~1 = 0 ∧ s.links.ls1 = 0) ∧
    (let s := { linked with links := { linked.links with ls0 := 1, ls1 := 0x1FF } }
     (s.links.ls0 &&& ~~~1) ||| s.links.ls1 = 0x1FF ∧ s.links.ls1 ≠ 0) ∧
    (let s := { lit with time := { TimeSt.reset with treqs := [portsReq], removed := true } }
     ∀ p, p < 8 → s.time.treqs.any (fun r => r.res.any (fun c => c.1 == resPort p false || c.1 == resPort p true)) = true) := by
  and_intros <;> decide +kernel

/-! ### Collectives and continuity -/

/-- A collective's descriptor of the operation given, on group 3 of context 0. -/
def cdesc (op : Nat) (order : Nat) : Desc :=
  { rdesc 0 (dsc 5 [(128, op), (136, 3), (144, 9), (148, 9), (152, 9), (288, 32)]) with order := order }

/-- Group 3, of four members on the x axis, rank 1; ports 0 and 1 are up. -/
def collS (ds : List Desc) : State :=
  let s := (linked.setPort 1 { linked.port 0 with phase := .up }).setRoute 1 (2 ^ 51 + 1)
  { (s.setGroup 0 3 { en := true, axis := 0, len := 4, rank := 1, seq := 0 }) with ctxs := (ringS (sr0 ds) cr0).ctxs }

/-- A collective in progress there. -/
def coll0 (op : Nat) (ph : CollPhase) : Coll :=
  { ctx := 0, group := 3, ring := 3, abs := 0, bytes := (cdesc op 0).bytes, phase := ph, seq := 0, startedAt := 0, seen := [],
    own := false, total := 0, heads := [], headLeft := 0, sums := [], left := 0, counts := [], stats := [], mismatch := false,
    round := 0, rounds := 0, lapBack := false, lapSeen := 0, missing := [], wire := [], wrote := false, keepLeft := 0,
    keepBad := false, kvUser := none }

theorem witness_CollectiveCommandsComplete :
    (∀ op ∈ [1, 2, 3, 4, 5, 6, 7], (collS [cdesc op 0]).nextOf 0 3 5 = some (cdesc op 0) ∧
      cdOp (cdesc op 0).bytes = op ∧ collStalled (collS [cdesc op 0]) 0 (cdesc op 0).bytes = false) ∧
    (let s := collS [{ cdesc 2 0 with phase := .waiting }]
     s.coll? 0 3 = none ∧ firstColl (waitingColls s 0 3) = some (3, { cdesc 2 0 with phase := .waiting })) ∧
    (let s := { collS [] with colls := [coll0 2 .setup] }
     s.coll? 0 3 = some (coll0 2 .setup)) ∧
    (let s := { collS [cdesc 2 0] with groups := [] }
     collFault (s.startDesc 0 3 0) 0 (cdesc 2 0).bytes = some 0xB) ∧
    (let s := collS [cdesc 2 0]
     collFault (s.startDesc 0 3 0) 0 (cdesc 2 0).bytes = none ∧ cdOp (cdesc 2 0).bytes ≠ 5) ∧
    (let s := { collS [] with colls := [coll0 2 .setup] }
     let c := coll0 2 .setup
     let g := s.collGroup c
     c.op ≠ 7 ∧ (collPorts s c.ctx c.bytes).all s.portUp = true ∧
     (collSend s c.ctx c.group (g.port true) (s.collCls c) 0
       (collSub s c 1 g.rank c.first (cdShard c.bytes) (if c.reduces then cdContrib c.bytes else 0))
       (setupData c.bytes g.rank false c.rounds)).1 = .sent) ∧
    ((coll0 7 .setup).op = 7 ∧ cdShard (coll0 7 .setup).bytes ≠ 0) := by
  and_intros <;> decide +kernel

/-- A collective message of the kind given, of origin `o`, for operation `op`, with TOTAL and data. -/
def cmsg (kind op o first count total : Nat) (data : List Byte) : RxMsg :=
  rx (msgHeader 4 0 0 3 0 (32 + data.length) 0 ++ subHeader kind op 0 0 o 0 first count total ++ data)

/-- Port 1 holds the message; the collective is in progress. -/
def collM (c : List Coll) (m : RxMsg) : State :=
  let s := collS []
  { s.setPort 1 { s.port 1 with inbox := [m] } with colls := c, time := { TimeSt.reset with devTime := 10 ^ 9 } }

theorem witness_CollectiveMessagesComplete :
    (∀ o ∈ [0, 1], (let c := coll0 2 .setup
      let m := cmsg 1 2 o 0 1 0 (slice c.bytes 16 48 ++ [0, 0, 0])
      let s := collM [c] m
      collTakes s 1 1 (fun m => (setupOf s m.bytes).isSome || collStale s m.bytes) m ∧
      setupOf (collTaken s 1 m) m.bytes = some c ∧ subOrigin m.bytes = o ∧ ((collTaken s 1 m).collGroup c).rank = 1 ∧
      c.seq = subSeq m.bytes ∧ c.op = subOp m.bytes)) ∧
    ((coll0 1 .setup).reduces = true ∧ 4096 < subTotal (cmsg 1 1 0 0 1 4097 []).bytes ∧ (coll0 2 .setup).reduces = false) ∧
    (let s := collM [coll0 2 .setup] (cmsg 1 2 0 0 1 0 [])
     s.coll? 0 3 = some (coll0 2 .setup) ∧ 0 + s.collTimeout ≤ s.now) ∧
    (let c := coll0 2 .gather
     let m := cmsg 9 2 0 0 0 0 []
     let s := { collM [c] m with groups := [] }
     collTakes s 1 9 (fun _ => true) m ∧ c.phase ≠ .ended ∧ collOf (collTaken s 1 m) m.bytes = some c ∧
     axisGroup (collTaken s 1 m) m.bytes = none) ∧
    (∀ k ∈ [(2, 1, CollPhase.header), (3, 1, .mantissa), (4, 2, .gather), (4, 1, .mantissa), (5, 4, .setup), (5, 4, .counts),
        (10, 1, .header), (10, 1, .mantissa)],
      (let c := coll0 k.2.1 k.2.2
       let m := cmsg k.1 k.2.1 0 0 1 0 []
       collAt (collM [c] m) 1 k.1 [k.2.2] m c)) ∧
    (∀ total ∈ [1, 2], (let c := coll0 4 .buckets
      let m := cmsg 6 4 0 0 1 total []
      let s := collM [c] m
      collTakes s 1 6 (fun m => collStale s m.bytes || (match axisGroup s m.bytes with
        | some g => subTotal m.bytes != (s.group (msgCtx m.bytes) g).rank
        | none => false) || (match collOf s m.bytes with | some c => c.phase == .buckets | none => false)) m ∧
      axisGroup (collTaken s 1 m) m.bytes = some 3 ∧ subTotal m.bytes = total ∧
      ((collTaken s 1 m).group (msgCtx m.bytes) 3).rank = 1 ∧ collOf (collTaken s 1 m) m.bytes = some c)) ∧
    (let c := coll0 5 .permute
     let m := cmsg 7 5 0 0 0 0 []
     let s := collM [c] m
     collTakes s 1 7 (permTakes s) m ∧ collOf (collTaken s 1 m) m.bytes = some c) ∧
    (let c := { coll0 6 .vote with round := 3 }
     let m := cmsg 8 6 0 0 0 0 []
     let s := collM [c] m
     collTakes s 1 8 (fun m => (voteOf s m.bytes).isSome) m ∧ voteOf (collTaken s 1 m) m.bytes = some c) ∧
    (let s := collM [coll0 2 .gather] (cmsg 4 2 0 0 1 0 [])
     (collFinish s (coll0 2 .gather) 0).coll? 0 3 = none ∧ waitingColls (collFinish s (coll0 2 .gather) 0) 0 3 = []) := by
  and_intros <;> decide +kernel

/-- A mantissa pass on a member that is not the shard's own. -/
theorem witness_MantissaForwarded :
    (let c := coll0 1 .mantissa
     let m := cmsg 3 1 0 0 0 0 []
     let s := collM [c] m
     (subFirst m.bytes - c.first) / max 1 c.shard ≠ (s.collGroup c).rank ∧
     (ownSums s c (subFirst m.bytes - c.first) (unpackBlocks c (collData m.bytes)).2.length).1.isSome = true) := by
  decide +kernel

theorem witness_CommitLapComplete :
    (let s := lit.setCont 0 { Cont.reset with lap := true }
     soloLap s = some 0) ∧
    (∀ o ∈ [0, 1], (let c := { Cont.reset with lap := true, lapGroups := [3] }
      let m := cmsg 8 6 o 0 0 3 []
      let s := (collM [] m).setCont 0 c
      soloLap s = none ∧ heldLap s 1 = none ∧ s.inMsg 1 isLap = some m ∧ lapOn (s.consume 1 m) m = some (0, 3) ∧
      (s.cont 0).lapGroups = 3 :: [] ∧ subOrigin m.bytes = o ∧ ((s.consume 1 m).group 0 3).rank = 1)) ∧
    (let s := (collS []).setCont 0 { Cont.reset with lap := true, lapGroups := [3], lapBack := true, lapSeen := 3 }
     (s.cont 0).lapGroups = [3] ∧ (s.cont 0).lapBack = true ∧ (s.group 0 3).len ≤ (s.cont 0).lapSeen + 1) ∧
    (let s := { lit with conts := [(0, { Cont.reset with st := .prepared })], time := { TimeSt.reset with devTime := 10 ^ 12 } }
     (s.cont 0).st = .prepared ∧ (s.cont 0).preparedAt + 1000000 * s.regFld 0x1E024 0 0 16 ≤ s.now) := by
  and_intros <;> decide +kernel

/-! ### Power, shedding, contexts -/

theorem witness_PowerEventsComplete :
    (let s := { lit with time := { TimeSt.reset with pendVp := some 12 } }
     s.time.pendVp = some 12 ∧ s.power.dutyPend = none ∧ s.allPass 12 s.admShare = true) ∧
    (let s := { lit with power := { Power.reset with dutyPend := some 10 } }
     s.time.pendVp = none ∧ s.power.dutyPend = some 10 ∧ s.allPass s.time.pp (s.dutyShare 10) = true) ∧
    (15 < 16 ∧ [380].foldl max 0 ≤ 380 ∧ 380 < [381].foldl max 0 ∧ [419].foldl max 0 < 420 ∧ 420 ≤ [1, 420].foldl max 0) ∧
    lit.holdup.wasOk = false ∧
    (let s := { lit with holdup := { Holdup.reset with wasOk := true } }
     261 < 262 ∧ s.holdup.wasOk = true ∧ s.holdup.failed = false) ∧
    (let s := { lit with mgmt := { Mgmt.reset with up := true } }
     s.mgmt.up = true ∧ capAccepts s.heard (blk 16 [(0, 1), (8, 0x50)]) = true ∧ capAccepts s.heard (zeros 16) = false ∧
     s.regFld 0x2000C 0 0 8 ≠ 0) ∧
    (let s := { lit with power := { Power.reset with leaseEnd := some 0 } }
     s.power.leaseEnd = some 0 ∧ 0 ≤ s.now) ∧
    (let s := { lit with power := { Power.reset with duty := 9 } }
     s.power.duty < 10) ∧
    lit.collsExempt = false ∧
    (1599 < 1600) ∧
    (let s := { lit with power := { Power.reset with throttleSince := 9, throttle := [(0, 1)] } }
     10 ≤ s.power.throttleSince + b2n (!s.power.throttle.isEmpty)) ∧
    lit.power.throttleSince + b2n (!lit.power.throttle.isEmpty) < 10 ∧
    (let s := { lit with power := { Power.reset with units := [1, 1, 1, 2] } }
     s.power.units.getD 3 0 = 2 ∧ s.unitEmpty 3 = true) ∧
    (let s := { lit with power := { Power.reset with units := [3, 1, 1, 1] } }
     s.power.units.getD 0 0 = 3) := by
  and_intros <;> decide +kernel

/-- Shedding at a stage. -/
def shed (n : Nat) : State := { lit with time := { TimeSt.reset with shedStage := n } }

theorem witness_SheddingCompletes :
    (∀ n ∈ [0, 4], (shed n).time.shedStage < 5) ∧ 5 ≤ (shed 5).time.shedStage ∧ (shed 0).time.shedStage = 0 ∧
    (∀ n ∈ [1, 2, 3, 4], (shed n).time.shedStage = n) ∧ { lit with variant := .kv1s }.variant = .kv1s ∧
    (let s := { lit with power := { Power.reset with stage5 := true } }
     s.power.stage5 = true ∧ s.power.safeStop = false ∧ ∀ c ∈ s.flash.cmds, c.programs = 0) := by
  and_intros <;> decide +kernel

theorem witness_ContextEventsComplete :
    (lit.ctx 0).inReset = false ∧ (State.ctx { lit with ctxs := [(0, { ctx0 with inReset := true })] } 0).inReset = true ∧
    (lit.ctx 63).enable = false ∧
    (let s := { lit with ctxs := [(0, ctx0), (1, { ctx0 with fnEn := false })] }
     (s.ctx 1).enable = true ∧ (s.ctx 1).fnEn = false ∧
     s.ctxs.any (fun d => d.1 != 1 && d.2.enable && d.2.fnEn && (s.ctx 1).overlaps d.2) = true) ∧
    ((lit.ctx 0).enable = true ∧ (lit.ctx 0).fnEn = true) ∧
    (tget MsixVec.reset lit.msix 2047).pending = false ∧
    (tget MsixVec.reset (tset { MsixVec.reset with pending := true } lit.msix 2047) 2047).pending = true ∧
    (lit.chan 0).state = .active := by
  and_intros <;> decide +kernel

/-! ### Test access, the controller, the KRT -/

/-- A request of the operation, kind and id given. -/
def tfr (op kind id : Nat) : List Byte := blk 32 [(0, 1), (8, 0x70), (16, op), (24, kind), (64, id)]

/-- The management session is up; tile 3 is as given. -/
def testS (r : TileRun) : State :=
  { (lit.setTile 3 { Tile.reset with run := r }) with mgmt := { Mgmt.reset with up := true } }

theorem witness_TestAccessCompletes :
    (∀ op ∈ [1, 2, 3], ∀ k ∈ [(0, 25599), (1, 25599), (2, 255), (3, 15)], testGood (testS .idle) op (tfr op k.1 k.2)) ∧
    (∀ op ∈ [4, 5], ∀ k ∈ [(0, 25599), (1, 25599)], testGood (testS .idle) op (tfr op k.1 k.2)) ∧
    (∀ op ∈ [1, 2, 3, 4, 5], testTakes (testS .idle) (tfr op 0 25600) = true ∧
      testIdOk op (tfKind (tfr op 0 25600)) (tfId (tfr op 0 25600)) = false) ∧
    (∀ op ∈ [1, 2, 3], (let s := { testS .idle with variant := .kv1s }
      testTakes s (tfr op 3 0) = true ∧ testIdOk op 3 0 = true ∧ tfKind (tfr op 3 0) = 3)) ∧
    (∀ op ∈ [1, 2, 3, 4, 5], (let s := { testS .idle with
        tests := [{ op := 1, kind := 0, id := 3, tag := 0, depth := false, auto := false }] }
      testTakes s (tfr op 0 3) = true ∧ tfOp (tfr op 0 3) = op ∧ testIdOk op (tfKind (tfr op 0 3)) (tfId (tfr op 0 3)) = true ∧
      testBusy s (tfKind (tfr op 0 3)) (tfId (tfr op 0 3)) = true)) ∧
    (∀ op ∈ [0, 6], testTakes (testS .idle) (tfr op 0 3) = true ∧ tfOp (tfr op 0 3) = op) ∧
    (∀ r ∈ [TileRun.idle, .fenced, .spalled], ((testS r).tile (tfId (tfr 1 0 3))).run = r ∧ tfKind (tfr 1 0 3) = 0) ∧
    (let s := lit.setTile 3 { Tile.reset with fencePending := true }
     (s.tile 3).fencePending = true ∧ s.tileHeld 3 = false) ∧
    (∀ op ∈ [3, 4], (let c : TestCmd := { op := op, kind := 0, id := 3, tag := 0, depth := false, auto := false }
      ({ lit with tests := [c] } : State).tests.find? (fun c => c.op == op && c.kind == 0 && c.id == 3) = some c)) ∧
    (∀ v ∈ [600, 100], (let s := { lit with power := { Power.reset with tsm := [(3 * 16 + 8, (1000, false))] } }
      3 < tileCount ∧ (s.tile 3).run ≠ .spalled ∧ 97 * v < 100 * s.speedEntry 3 s.time.curVp ∧ (s.tile 3).run ≠ .fenced ∧
      s.tests.any (fun c => c.kind == 0 && c.id == 3) = false)) ∧
    (let s := { lit with power := { Power.reset with tsm := [(3 * 16 + 8, (97, false))] } }
     100 * s.speedEntry 3 s.time.curVp ≤ 97 * 100) := by
  and_intros <;> decide +kernel

/-- A store record. -/
def srec (sec : Nat) : StoreRec := { section_ := sec, data := [], bytes := 64 }

/-- The module is READY, with a store that writes `w`. -/
def storeS (w : Option StoreRec) (warm : Bool) (energy : Nat) : State :=
  { lit with trust := { Trust.reset with stage := 6, queue := [srec 1], writing := w, warmPending := warm, free := 0xFFFFF,
                                         cmcState := 0, peers := [[1]] },
             holdup := { Holdup.reset with energy := energy },
             mgmt := { Mgmt.reset with up := true }, time := { TimeSt.reset with devTime := 10 ^ 13 } }

theorem witness_ControllerRowsComplete :
    bootSlot Trust.reset = some false ∧ bootSlot { Trust.reset with sigA := false, sigB := false } = none ∧
    (∀ e ∈ [0, 10 ^ 9], (let s := storeS none false e
      s.trust.queue = srec 1 :: [] ∧ s.trust.writing = none ∧ 6 ≤ s.trust.stage ∧ s.trust.compacting = false ∧
      s.trust.deferred = false ∧ s.power.stage5 = false ∧ s.trust.free < 0x100000 ∧ holdupAllows s 60 = decide (e ≠ 0))) ∧
    (∀ w ∈ [false, true], ∀ n ∈ [1, 0xFF], (let s := storeS (some (srec n)) w 0
      s.trust.writing = some (srec n) ∧ s.trust.warmPending = w)) ∧
    (let s := { lit with power := { Power.reset with remeasuring := true } }
     s.power.remeasuring = true ∧ s.trust.rebuilding = false) ∧
    (let s := storeS none false 0
     s.trust.stage = 6 ∧ s.trust.cmcFailed = false ∧ s.trust.wdtAt + s.wdtNs ≤ s.now ∧ s.trust.identityLost = false ∧
     s.trust.cmcState = 0 ∧ s.trust.peers.contains [1] = true ∧ s.mgmt.up = true ∧ 10000000000 + s.mgmt.lastAt ≤ s.now) := by
  and_intros <;> decide +kernel

/-- A message to the KRT on channel 2, of a CMC that sends `p` first; channel 3 goes back. -/
def krtS (sender : Nat) (p : List Byte) (peers : List (List Byte)) (lost : Bool) : State :=
  let s := (lit.setMbox 2 { mb0 sender 0x81 with queue := [zeros 16 ++ p.take 16 ++ zeros 4 ++ p.drop 16] }).setMbox 3
    (mb0 0x81 sender)
  { s with trust := { Trust.reset with peers := peers, identityLost := lost }, mem := s.mem.writeBytes 64 (zeros 64) }

/-- A request of the operation given: index 4, address 64. -/
def krtP (op : Nat) : List Byte := blk 44 [(0, 1), (8, op), (16, 4), (32, 64)]

/-- A request for the certificates, to host memory. -/
def krtHost : List Byte := blk 44 [(0, 1), (8, 3), (16, 4), (32, hostBase)]

theorem witness_KrtServicesComplete :
    (∀ l ∈ [false, true], krtAt (krtS 0x80 (krtP 1) [] l) 2 1 (krtP 1) ∧ (krtS 0x80 (krtP 1) [] l).trust.identityLost = l) ∧
    (∀ op ∈ [0, 6], krtAt (krtS 0x80 (krtP op) [] false) 2 op (krtP op)) ∧
    (krtAt (krtS 0x40 (krtP 2) [] false) 2 2 (krtP 2) ∧ krtAllowed (krtS 0x40 (krtP 2) [] false) 2 = false) ∧
    (krtAt (krtS 0x80 (krtP 2) [] false) 2 2 (krtP 2) ∧ krtAllowed (krtS 0x80 (krtP 2) [] false) 2 = true ∧
      4 ≤ fld (krtP 2) 2 1 ∧ fld (krtP 2) 2 1 ≤ 7 ∧ (krtDigest (krtS 0x80 (krtP 2) [] false) 2 (krtP 2)).1 = some (zeros 64)) ∧
    krtAt (krtS 0x80 krtHost [] false) 2 3 krtHost ∧
    (∀ ps ∈ [[], [zeros 64], List.replicate 8 [1]], (let s := krtS 0x80 (krtP 4) ps false
      krtAt s 2 4 (krtP 4) ∧ krtAllowed s 2 = true ∧ (krtDigest s 2 (krtP 4)).1 = some (zeros 64) ∧
      (krtDigest s 2 (krtP 4)).2.trust.peers = ps)) ∧
    (let s := krtS 0x80 (krtP 5) [zeros 64] false
     krtAt s 2 5 (krtP 5) ∧ krtAllowed s 2 = true ∧ (krtDigest s 2 (krtP 5)).1 = some (zeros 64) ∧
     (krtDigest s 2 (krtP 5)).2.trust.peers.contains (zeros 64) = true) ∧
    (∀ op ∈ [4, 5], krtAt (krtS 0x40 (krtP op) [] false) 2 op (krtP op) ∧ krtAllowed (krtS 0x40 (krtP op) [] false) 2 = false) ∧
    (krtReply (krtS 0x80 (krtP 1) [] false) 2 = some 3 ∧ ((krtS 0x80 (krtP 1) [] false).mbox 3).queue.length < 16) := by
  and_intros <;> decide +kernel

/-! ### Steps, invariants, rules -/

theorem witness_IdleStepIsOnePeriod :
    (let s := { lit with time := { TimeSt.reset with devTime := 9, slewAcc := 999, slewLeft := -7 } }
     s.pending = [] ∧ 0 ≤ s.time.slewAcc ∧ s.time.slewAcc < 1000 ∧ s.time.devTime + 12 < 2 ^ 64 ∧ 9 ≤ s.time.devTime) := by
  decide +kernel

theorem witness_StepRunsFrontCommand :
    (let s : State := { State.reset with pending := [.wdtExpiry, .idleTick] }
     s.pending = .wdtExpiry :: [.idleTick]) := rfl

/-- A state in canonical form with a command at the front, and the next state. -/
theorem witness_CanonicalFormKept :
    (let s : State := { State.reset with pending := [.rtLoWrite 0x80 5] }
     s.Canon ∧ ∃ t, step s = .next t) := ⟨⟨⟨rfl, rfl, rfl⟩, rfl, rfl⟩, ⟨_, rfl⟩⟩

theorem witness_CommandsKeepTheirFrame : ∃ t, exec (.rtLoWrite 0x80 5) State.reset = .next t := ⟨_, rfl⟩

theorem witness_AgentWritesOnlyItsBytes :
    lit.Canon ∧ 60 + (List.replicate 8 (7 : Byte)).length ≤ brickTop ∧
    (agentWriteAll lit 0 60 (List.replicate 8 7) []).1 = true ∧ (59 < 60 ∧ 60 + 8 ≤ 68) ∧ hostBase ≤ hostBase + 4 ∧
    lit.hostAddr 0 (hostBase + 4) + 8 < 2 ^ 64 :=
  ⟨⟨⟨rfl, rfl, rfl⟩, rfl, rfl⟩, by decide +kernel, by decide +kernel, by decide +kernel, by decide +kernel, by decide +kernel⟩

theorem witness_FieldsTakeLegalValues :
    wordRow 0x2000C = some (mapWord 0x2000C) ∧
    (mapWord 0x2000C).merge 0x16964 0 true = 0x14600 ∧ (mapWord 0x2000C).merge 0x16964 0 false = 0x16964 := by
  and_intros <;> decide +kernel

theorem witness_TurnedAwayWritesAreCounted :
    (outOfReach 0x80 0x1200C = false ∧ decodeFor 0x80 0x1200C ≠ .kvWindow ∧ (0x80, 0x1200C, leBytes 4 0) ∉ lit.regPosted) ∧
    ((mapWord 0x1200C).mask .wk ≠ 0 ∧ lit.unlocked 0x80 = false ∧ (mapWord 0x1200C).mask .rw + (mapWord 0x1200C).mask .wo = 0) ∧
    (lit.unitAbsent (mapWord 0x1000C).off = false ∧ (mapWord 0x1000C).mask .rw + (mapWord 0x1000C).mask .wo ≠ 0 ∧
      (mapWord 0x1000C).mask .wk = 0 ∧ lit.ignores 0x80 (mapWord 0x1000C).off (lit.bankOf 0x80 (mapWord 0x1000C).bank)
        (clampWord (mapWord 0x1000C).off ((mapWord 0x1000C).merge (lit.wordValue 0x80 (mapWord 0x1000C)) 5 (lit.unlocked 0x80))) =
        true) ∧
    (0x3FFFFFC < 0x4000000 ∧ 255 < 256) ∧
    outOfReach 0x41 0x1200C = true ∧
    (outOfReach 0x80 0x18008 = false ∧ lit.domainOff 0x80 0x18008 = true) := by
  and_intros <;> decide +kernel

theorem witness_ScalarRegisterZero : 15 ≠ 0 ∧ 15 < Tile.reset.sregs.length ∧ 14 ≠ 15 := by decide

theorem witness_BricksLieAboveTheirTiles : 159 < 160 ∧ 25599 < tileCount := by decide

theorem witness_DeviceTimeReadsAsOneValue :
    (let s := { lit with time := { TimeSt.reset with devTime := 2 ^ 64 - 1 } }
     wayTo s 0 0x12000 ∧ wayTo s 0 0x12004 ∧ s.now < 2 ^ 64) := by decide +kernel

theorem witness_PortCodeIsChecked :
    (∀ b ∈ [0, 1], (let s := (lit.setPort 7 { Port.reset with phase := .fec, rxFibres := 15 }).setReg 0x1B00C 7 (0x3201 + 4 * b)
      7 < 8 ∧ (s.port 7).phase = .fec ∧ 1 ≤ 2 ∧ 2 ^ 24 - 1 < 2 ^ 24 ∧ (s.port 7).rxFibres &&& BitVec.ofNat 4 8 ≠ 0 ∧
      5 ≠ 7 ^^^ 1 ∧ s.anyPort 7 = decide (b = 1))) := by decide +kernel

theorem witness_FormatsKeepTheirValues :
    (Fmt.fp32.decode 0x7FC00000 = .nan ∧ (Fmt.e5m2.decode 0x7B).isFin = true ∧ 0x7B < 2 ^ Fmt.e5m2.width ∧
      bits 0x80000001 Fmt.fp32.mb Fmt.fp32.eb = 0) := by decide +kernel

theorem witness_BlockSumsIgnoreOrder :
    (∀ b ∈ [[1, -2], [3, 4]], b.length = 2) ∧ List.Perm [[(1 : Int), -2], [3, 4]] [[3, 4], [1, -2]] :=
  ⟨by decide, List.Perm.swap _ _ _⟩

theorem witness_MaskedVectorsWait :
    31 < 32 ∧ (tget MsixVec.reset State.reset.msix 31).masked = true ∧
    (tget MsixVec.reset (tset { MsixVec.reset with masked := false } State.reset.msix 31) 31).masked = false := by decide +kernel

theorem witness_ResetLeavesTheMapsValues : ∃ r, wordRow 0x1B00C = some r ∧ r.fields.length = 5 := by
  exact ⟨mapWord 0x1B00C, by decide +kernel, by decide +kernel⟩

/-! ### Well-formedness: an ill-formed command for each check -/

theorem test_wf_refuses :
    ([.nop 25600, .launch 64 0, .launch 0 16, .ppReqWrite 0x83 0, .arkelLightDetect 9, .arkelLinkDown 9 0, .brickTempSample 16 (List.replicate 48 0),
      .brickTempSample 0 [], .arkelSpareSwapDone 0 0 4, .arkelLaneFail 0 0 0 9, .arkelSpareSwapDone 0 2 0,
      .jointWaitRelease 16384, .msixUnmask 0 32, .registerWrite 0 2 0 true, .registerWrite 0 0x4000000 0 true,
      .kvCmdWindowWrite 0 4096 [] true, .tokenWaitStart 0 8, .unitDrainDone 4, .shedStageEnter 6 0, .arkelFlitReceive 0 0 [] [],
      .arkelFlitReceive 0 0 (zeros 272) [[(9, 1)]],
      .testFence [], .mgmtHandshake []] : List Instr).all (fun i => !i.wf) = true := by decide +kernel

theorem test_wf_takes :
    ([.nop 25599, .launch 63 15, .ppReqWrite 0x82 0, .arkelLightDetect 7, .brickTempSample 15 (List.replicate 48 0),
      .arkelLaneFail 7 1 3 8, .jointWaitRelease 16383, .msixUnmask 63 31, .registerWrite 0 0x3FFFFFC 0 true,
      .kvCmdWindowWrite 0 4095 [] true, .tokenWaitStart 0 7, .unitDrainDone 3, .shedStageEnter 5 0,
      .arkelFlitReceive 0 0 (zeros 272) [[(8, 1)]], .testFence (zeros 32), .mgmtHandshake (zeros 64)] : List Instr).all Instr.wf = true := by
  decide +kernel

/-! ### Small steps, with results by hand from the rules -/

/-- What an outcome gives of the next state. -/
def nextIs {α : Type} (o : Host.Outcome State Fault Refusal) (g : State → α) (d : α) : α :=
  match o with | .next t => g t | _ => d

/-- R65, R62: ADD is modulo 2^64: 2^64 − 1 + 2 = 1. -/
theorem test_add_wraps :
    nextIs (exec (.add 0) (stS (cw 0 3 [(92, 3), (88, 1), (84, 2)]) (2 ^ 64 - 1) 2)) (fun t => ((t.tile 0).sreg 3, (t.tile 0).pc)) (0, 0) =
      (1, 1) := by decide +kernel

/-- R65: ADDI with its destination as its source. -/
theorem test_addi_same : nextIs (exec (.addi 0) (stS (cw 0 2 [(92, 1), (88, 1), (0, 5)]) 7 0)) (fun t => (t.tile 0).sreg 1) 0 = 12 := by
  decide +kernel

/-- R65: BRZ on a register that is 0, and one that is not. -/
theorem test_brz_taken : nextIs (exec (.brz 0) (stS (cw 0 6 [(92, 1), (0, 77)]) 0 0)) (fun t => (t.tile 0).pc) 0 = 77 := by
  decide +kernel
theorem test_brz_passed : nextIs (exec (.brz 0) (stS (cw 0 6 [(92, 1), (0, 77)]) 3 0)) (fun t => (t.tile 0).pc) 0 = 1 := by
  decide +kernel

/-- R65: a LOOP of count 0 skips its body. -/
theorem test_loop_zero : nextIs (exec (.loop 0) (stS (cw 0 4 [(92, 1), (0, 9)]) 0 0)) (fun t => (t.tile 0).pc) 0 = 10 := by
  decide +kernel

/-- R85, R86: 1.0 in each format, and the largest finite E4M3 value, 448 = 1.75 * 2^8. -/
theorem test_formats_one :
    [Fmt.fp32.decode 0x3F800000, Fmt.bf16.decode 0x3F80, Fmt.fp16.decode 0x3C00, Fmt.e4m3.decode 0x38, Fmt.e5m2.decode 0x3C].map
      (fun v => match v with | .fin false m e => decide ((m : Rat) * 2 ^ e = 1) | _ => false) = List.replicate 5 true := by
  decide +kernel

/-- R362, R364: doorbell value 1 after the oldest entry 14 of a ring of 16 is 17. -/
theorem test_ring_wraps : ringIndex 14 4 1 = 17 := by decide

/-- R15, R17: tile (159, 0) is tile 159, below brick 3. -/
theorem test_brick_corner : tileAt 159 0 = 159 ∧ brickOf 159 = 3 := by decide

/-- R280: byte 0 of a message is its OP, bytes 4 to 7 its TAG, bytes 8 to 13 its address, 16 to 19 its length. -/
theorem test_msg_header :
    (let b := msgHeader 1 0 2 0x04030201 0x0807060504 32 0
     b.length = 32 ∧ msgOp b = 1 ∧ b.getD 4 0 = 1 ∧ b.getD 7 0 = 4 ∧ b.getD 8 0 = 4 ∧ b.getD 12 0 = 8 ∧ b.getD 16 0 = 32) := by
  decide +kernel

/-- R446: the unlock opens on its key and a second write of another value arms it again. -/
theorem test_unlock :
    nextIs (exec (.unlockKeyWrite 0x80 0xC0DE7A11) lit) (fun t => t.unlocked 0x80) false = true ∧
    nextIs (exec (.unlockKeyWrite 0x80 1) open_) (fun t => t.unlocked 0x80) true = false := by decide +kernel

/-- R37: ten nanoseconds a period. -/
theorem test_idle_step : nextIs (step State.reset) (fun t => t.now) 0 = 10 := by decide +kernel

/-- R378: an ADD of 2^64 − 1 to 5 leaves 4. -/
theorem test_joint_wraps : ((jointAdd (lit.setJoint 9 (joint0 5)) 9 (2 ^ 64 - 1) 4).joint 9).value = 4 := by decide +kernel

end Sys2Proof.Tests
end

/-! SUPPORT. The field of tiles (R15 to R18): tile ids and coordinates determine each other, the brick above a tile, and the
region of a channel. -/

namespace Sys2Proof.Machine

/-! ### Tile ids and coordinates (R15) -/

@[simp] theorem tileX_tileAt {x : Nat} (hx : x < 160) (y : Nat) : tileX (tileAt x y) = x := by
  rw [tileX, tileAt, Nat.mul_add_mod, Nat.mod_eq_of_lt hx]

@[simp] theorem tileY_tileAt {x : Nat} (hx : x < 160) (y : Nat) : tileY (tileAt x y) = y := by
  rw [tileY, tileAt, Nat.mul_add_div (by decide), Nat.div_eq_of_lt hx, Nat.add_zero]

@[simp] theorem tileAt_tileX_tileY (t : Nat) : tileAt (tileX t) (tileY t) = t := Nat.div_add_mod t 160

theorem tileX_lt (t : Nat) : tileX t < 160 := Nat.mod_lt t (by decide)

theorem tileY_lt_iff {t : Nat} : tileY t < 160 ↔ t < tileCount := Nat.div_lt_iff_lt_mul (by decide)

theorem tileAt_lt_tileCount {x y : Nat} (hx : x < 160) (hy : y < 160) : tileAt x y < tileCount :=
  tileY_lt_iff.1 (by rwa [tileY_tileAt hx])

/-! ### The brick above a tile and the channel's region (R17, R18) -/

theorem brickOf_tileAt {x : Nat} (hx : x < 160) (y : Nat) : brickOf (tileAt x y) = 4 * (y / 40) + x / 40 := by
  rw [brickOf, tileX_tileAt hx, tileY_tileAt hx]

/-- R17: brick ids have values from 0 to 15, since both brick coordinates of a tile of the field are below 4. -/
theorem brickOf_lt {t : Nat} (ht : t < tileCount) : brickOf t < 16 := by
  have hbx : tileX t / 40 < 4 := Nat.div_lt_of_lt_mul (tileX_lt t)
  have hby : tileY t / 40 < 4 := Nat.div_lt_of_lt_mul (tileY_lt_iff.2 ht)
  rw [brickOf]
  omega

theorem chanOf_eq_iff {t a : Nat} : chanOf a = t ↔ t * 0x2000000 ≤ a ∧ a < t * 0x2000000 + 0x2000000 := by
  rw [chanOf, Nat.div_eq_iff (by decide)]
  omega

/-! ### The obligation -/

/-- Settles O52: the tile ids and the coordinates are inverse to each other, so the brick above a tile follows from its
column and row; a channel's region is the quotient by 32 MiB. -/
theorem bricksLieAboveTheirTiles : Obligations.BricksLieAboveTheirTiles := by
  unfold Obligations.BricksLieAboveTheirTiles
  refine ⟨fun x y hx hy => ⟨brickOf_tileAt hx y, brickOf_lt (tileAt_lt_tileCount hx hy)⟩,
    brickOf_tileAt (by decide) 0, brickOf_tileAt (by decide) 159,
    fun x y hx hy => ⟨tileAt_lt_tileCount hx hy, tileX_tileAt hx y, tileY_tileAt hx y⟩,
    fun t ht => ⟨tileX_lt t, tileY_lt_iff.2 ht, tileAt_tileX_tileY t⟩,
    fun t a => chanOf_eq_iff⟩

end Sys2Proof.Machine

/-! SUPPORT. Reads of a word of the register map, and device time as one value (R39). -/

namespace Sys2Proof.Machine

/-! ### The last of two writes to a table stands -/

theorem tset_tset {α : Type} (x y : α) (t : List (Nat × α)) (k : Nat) : tset y (tset x t k) k = tset y t k := by
  induction t with
  | nil => simp [tset]
  | cons e r ih =>
    obtain ⟨i, z⟩ := e
    rcases Nat.lt_trichotomy i k with h | rfl | h
    · simp [tset, h.ne, h.not_gt, ih]
    · simp [tset]
    · simp [tset, h.ne', h]

@[simp] theorem State.setMaster_setMaster (s : State) (m : Nat) (x y : Master) :
    (s.setMaster m x).setMaster m y = s.setMaster m y := by
  simp only [State.setMaster, tset_tset]

theorem returned_returned (s : State) (m v w : Nat) : returned (returned s m v) m w = returned s m w := by
  simp only [State.setMaster_setMaster, State.master_setMaster_same]

theorem lastRead_returned (s : State) (m v : Nat) :
    ((returned s m v).master m).lastRead = some (BitVec.ofNat 32 v) := by
  rw [State.master_setMaster_same]

/-! ### A read of a word (R436, R443) -/

/-- R436: a master with a way to the register blocks sees function 0's map. -/
theorem decodeFor_of_way {m : Nat} (h : noWay m = false) (off : Nat) : decodeFor m off = decodeOffset off := by
  rw [noWay] at h
  rw [decodeFor, h]
  rfl

theorem readFor_word {s : State} {m off : Nat} {r : WordRow} (hreach : outOfReach m off = false)
    (hdom : s.domainOff m off = false) (hr : decodeFor m off = .word r) :
    readFor s m off = returned (s.readRow m r).2 m (s.readRow m r).1 := by
  simp [readFor, hreach, readReg, hdom, hr, State.returnRead]

theorem State.clearRc_of_mask_eq_zero (s : State) {r : WordRow} (h : r.mask .rc = 0) (idx mask : Nat) :
    s.clearRc r idx mask = s := by
  simp [State.clearRc, h]

theorem State.clearFlits_of_ne (s : State) {off : Nat} (h : off ≠ 0x13040) (idx : Nat) : s.clearFlits off idx = s :=
  if_neg h

/-- A word without RC fields, other than the error log's and the flit count's: its read does no more than latch. -/
theorem State.readRow_of_mask_eq_zero {s : State} {m : Nat} {r : WordRow} (hunit : s.unitAbsent r.off = false)
    (hlog : r.off ≠ 0x1706C) (hflits : r.off ≠ 0x13040) (hrc : r.mask .rc = 0) :
    s.readRow m r = (s.wordValue m r, s.latch m r.off (s.bankOf m r.bank)) := by
  simp [State.readRow, hunit, hlog, State.clearRc_of_mask_eq_zero _ hrc, State.clearFlits_of_ne _ hflits]

theorem State.wordValue_of_view {s : State} {m v : Nat} {r : WordRow} (hunit : s.unitAbsent r.off = false)
    (hport : r.bank ≠ .port) (hrc : r.mask .rc = 0) (hv : s.view m r.off (s.bankOf m r.bank) = some v) :
    s.wordValue m r = v := by
  simp [State.wordValue, hunit, hport, hrc, hv]

theorem State.wordValue_of_stored {s : State} {m : Nat} {r : WordRow} (hunit : s.unitAbsent r.off = false)
    (hport : r.bank ≠ .port) (hv : s.view m r.off (s.bankOf m r.bank) = none) :
    s.wordValue m r = s.reg r.off (s.bankOf m r.bank) := by
  simp [State.wordValue, hunit, hport, hv]

/-! ### DEVTIME_LO and DEVTIME_HI (R39) -/

/-- DEVTIME_LO, as the register map lists it. -/
def devtimeLo : WordRow := row 0x12000 .module [anyF 0 32 .ro 0]

/-- DEVTIME_HI: each master has its own. -/
def devtimeHi : WordRow := row 0x12004 .master [anyF 0 32 .ro 0]

theorem decodeOffset_devtimeLo : decodeOffset 0x12000 = .word devtimeLo := by decide

theorem decodeOffset_devtimeHi : decodeOffset 0x12004 = .word devtimeHi := by decide

/-- R39: the read gives the low half and latches the upper one. -/
theorem State.readRow_devtimeLo {s : State} (hunit : s.unitAbsent 0x12000 = false) (m : Nat) :
    s.readRow m devtimeLo = (s.now % 2 ^ 32, s.setReg 0x12004 m (s.now / 2 ^ 32)) := by
  have hrc : devtimeLo.mask .rc = 0 := by decide
  rw [State.readRow_of_mask_eq_zero hunit (by decide) (by decide) hrc,
    State.wordValue_of_view hunit (by decide) hrc (show s.view m 0x12000 0 = some (s.now % 2 ^ 32) from rfl)]
  rfl

/-- R39: the read gives the master's latch, whatever the time is, and changes nothing. -/
theorem State.readRow_devtimeHi {s : State} (hunit : s.unitAbsent 0x12004 = false) (m : Nat) :
    s.readRow m devtimeHi = (s.reg 0x12004 m, s) := by
  rw [State.readRow_of_mask_eq_zero hunit (by decide) (by decide) (by decide),
    State.wordValue_of_stored hunit (by decide) (show s.view m 0x12004 m = none from rfl)]
  rfl

theorem exec_devtimeLoRead {s : State} {m : Nat} (h : wayTo s m 0x12000) :
    exec (.devtimeLoRead m) s = .next (returned (s.setReg 0x12004 m (s.now / 2 ^ 32)) m (s.now % 2 ^ 32)) := by
  obtain ⟨hway, hreach, hdom, hunit⟩ := h
  have hr : decodeFor m 0x12000 = .word devtimeLo := (decodeFor_of_way hway _).trans decodeOffset_devtimeLo
  show Host.Outcome.next (namedRead s m 0x12000) = _
  rw [namedRead, hway, if_neg Bool.false_ne_true, readFor_word hreach hdom hr, State.readRow_devtimeLo hunit]

theorem exec_devtimeHiRead {s : State} {m : Nat} (h : wayTo s m 0x12004) :
    exec (.registerReadClear m 0x12004) s = .next (returned s m (s.reg 0x12004 m)) := by
  obtain ⟨hway, hreach, hdom, hunit⟩ := h
  have hr : decodeFor m 0x12004 = .word devtimeHi := (decodeFor_of_way hway _).trans decodeOffset_devtimeHi
  show Host.Outcome.next (readFor s m 0x12004) = _
  rw [readFor_word hreach hdom hr, State.readRow_devtimeHi hunit]

/-- Whether a master reaches a word rests on the variant, the contexts and the flash tier. -/
theorem wayTo_congr {s t : State} {m off : Nat} (hvar : t.variant = s.variant) (hctxs : t.ctxs = s.ctxs)
    (hflash : t.flash = s.flash) (h : wayTo s m off) : wayTo t m off := by
  have hctx : ∀ c, t.ctx c = s.ctx c := fun c => by rw [State.ctx, State.ctx, hctxs]
  simpa only [wayTo, State.domainOff, State.unitAbsent, hctx, hvar, hflash] using h

/-- R39: once read, DEVTIME_HI reads the same again at any later time. -/
theorem exec_devtimeHiRead_again {s : State} {m : Nat} (h : wayTo s m 0x12004) (w : TimeSt) :
    exec (.registerReadClear m 0x12004) { returned s m (s.reg 0x12004 m) with time := w } =
      .next { returned s m (s.reg 0x12004 m) with time := w } := by
  have hw : wayTo { returned s m (s.reg 0x12004 m) with time := w } m 0x12004 := wayTo_congr rfl rfl rfl h
  rw [exec_devtimeHiRead hw]
  exact congrArg (fun u : State => Host.Outcome.next { u with time := w }) (returned_returned s m _ _)

/-! ### The obligation -/

/-- Settles O53: the read of DEVTIME_LO stores the upper half in the master's DEVTIME_HI; a read of DEVTIME_HI returns
that word whatever the time is by then, and a second one finds the state as the first one left it. -/
theorem deviceTimeReadsAsOneValue : Obligations.DeviceTimeReadsAsOneValue := by
  unfold Obligations.DeviceTimeReadsAsOneValue
  refine ⟨fun s m hlo hhi hcanon hnow => ?_, _, exec_devtimeHiRead (by decide), by decide⟩
  have hlatch : (s.setReg 0x12004 m (s.now / 2 ^ 32)).reg 0x12004 m = s.now / 2 ^ 32 :=
    (s.reg_setReg_same 0x12004 m _ hcanon.regs).trans (Nat.mod_eq_of_lt (Nat.div_lt_of_lt_mul hnow))
  have hlow : BitVec.ofNat 32 (s.now % 2 ^ 32) = BitVec.ofNat 32 s.now := BitVec.eq_of_toNat_eq (by simp)
  have ht : wayTo (returned (s.setReg 0x12004 m (s.now / 2 ^ 32)) m (s.now % 2 ^ 32)) m 0x12004 :=
    wayTo_congr (s.setReg_variant ..) (s.setReg_ctxs ..) (s.setReg_flash ..) hhi
  refine ⟨_, _, exec_devtimeLoRead hlo, exec_devtimeHiRead ht, exec_devtimeHiRead_again ht, ?_, ?_⟩
  · rw [lastRead_returned, hlow]
  · rw [lastRead_returned, State.reg_setMaster, hlatch]

end Sys2Proof.Machine

/-! SUPPORT. The scalar registers of a tile (R62). -/

namespace Sys2Proof.Machine

/-! ### Reads and writes of a scalar register -/

@[simp] theorem Tile.sreg_zero (x : Tile) : x.sreg 0 = 0 := if_pos rfl

theorem Tile.sreg_of_ne_zero (x : Tile) {i : Nat} (hi : i ≠ 0) : x.sreg i = (x.sregs.getD i 0).toNat := if_neg hi

@[simp] theorem Tile.setS_zero (x : Tile) (v : Nat) : x.setS 0 v = x := if_pos rfl

theorem Tile.setS_of_ne_zero (x : Tile) {i : Nat} (hi : i ≠ 0) (v : Nat) :
    x.setS i v = { x with sregs := x.sregs.set i (BitVec.ofNat 64 v) } := if_neg hi

/-- R62: a register other than S0 reads back what was written, modulo its 64 bits. -/
theorem Tile.sreg_setS_same (x : Tile) {i : Nat} (hi : i ≠ 0) (hlen : i < x.sregs.length) (v : Nat) :
    (x.setS i v).sreg i = v % 2 ^ 64 := by
  have hget : (x.sregs.set i (BitVec.ofNat 64 v)).getD i 0 = BitVec.ofNat 64 v := by simp [hlen]
  rw [Tile.sreg_of_ne_zero _ hi, Tile.setS_of_ne_zero _ hi, hget, BitVec.toNat_ofNat]

theorem Tile.sreg_setS_of_ne (x : Tile) {i j : Nat} (hij : i ≠ j) (v : Nat) : (x.setS i v).sreg j = x.sreg j := by
  by_cases hi : i = 0
  · rw [hi, Tile.setS_zero]
  by_cases hj : j = 0
  · rw [hj, Tile.sreg_zero, Tile.sreg_zero]
  have hget : (x.sregs.set i (BitVec.ofNat 64 v)).getD j 0 = x.sregs.getD j 0 := by simp [hij]
  rw [Tile.sreg_of_ne_zero _ hj, Tile.sreg_of_ne_zero _ hj, Tile.setS_of_ne_zero _ hi, hget]

/-- A write of a scalar register changes no other part of the tile. -/
theorem Tile.setS_eq_with_sregs (x : Tile) (i v : Nat) : x.setS i v = { x with sregs := (x.setS i v).sregs } := by
  by_cases hi : i = 0
  · rw [hi, Tile.setS_zero]
  · rw [Tile.setS_of_ne_zero x hi]

/-! ### The obligation -/

/-- Settles O51: S0 is turned away before the list of registers is read or set; the other registers follow the laws of
that list. -/
theorem scalarRegisterZero : Obligations.ScalarRegisterZero := by
  unfold Obligations.ScalarRegisterZero
  exact ⟨Tile.sreg_zero, Tile.setS_zero, fun x _ v hi hlen => x.sreg_setS_same hi hlen v,
    fun x _ _ v hij => x.sreg_setS_of_ne hij v, Tile.setS_eq_with_sregs⟩

end Sys2Proof.Machine

/-! SUPPORT. Bring-up of a link at E5 (R288, R289): what a port shows after its partner's link-control flit. -/

namespace Sys2Proof.Machine

/-! ### What bring-up settles of a port, which the sending of flits leaves alone -/

/-- Phase, cause, version, and the partner's coordinates and port code. -/
def Port.bringUp (x : Port) : PortPhase × Nat × Nat × Nat × Nat := (x.phase, x.cause, x.version, x.coord, x.code)

@[simp] theorem Port.bringUp_send (x : Port) (fs : List (List Byte)) : (x.send fs).bringUp = x.bringUp := by
  induction fs generalizing x with
  | nil => rfl
  | cons f fs ih => exact ih _

@[simp] theorem Port.bringUp_emit (x : Port) (kind : Nat) (som eom rev : Bool) (vc route hopsM1 : Nat)
    (payload : List Byte) : (x.emit kind som eom rev vc route hopsM1 payload).bringUp = x.bringUp :=
  Port.bringUp_send _ _

theorem Port.bringUp_with_txQ (x : Port) (q : List TxMsg) : { x with txQ := q }.bringUp = x.bringUp := rfl

@[simp] theorem Port.bringUp_pump (n : Nat) (x : Port) : (x.pump n).bringUp = x.bringUp := by
  induction n generalizing x with
  | zero => rfl
  | succ n ih =>
    rw [Port.pump]
    split
    · rfl
    · split
      · rfl
      · rw [ih, Port.bringUp_with_txQ, Port.bringUp_emit]
        rfl

@[simp] theorem Port.bringUp_drain (x : Port) : x.drain.bringUp = x.bringUp := Port.bringUp_pump _ x

/-! ### The two ends of bring-up (R291, R292) -/

@[simp] theorem State.port_setRoute (s : State) (e w p : Nat) : (s.setRoute e w).port p = s.port p := rfl

/-- R291: a port that was not UP takes its new phase and cause and keeps what its partner sent. -/
theorem bringUp_portDown {s : State} {p : Nat} (h : (s.port p).phase ≠ .up) (phase : PortPhase) (cause : Nat) :
    ((portDown s p phase cause).port p).bringUp = (phase, cause, 0, (s.port p).coord, (s.port p).code) := by
  rw [portDown, if_pos h, State.port_setPort_same]
  rfl

/-- R287 E6: the messages that waited go out, and the port is UP with what its partner sent. -/
theorem bringUp_linkUp (s : State) (p version : Nat) :
    ((linkUp s p version).port p).bringUp = (.up, 0, version, (s.port p).coord, (s.port p).code) := by
  rw [linkUp, State.port_setRoute, State.port_setPort_same, Port.bringUp_drain]
  rfl

/-! ### The partner's link-control flit (R288, R289) -/

/-- What the port stores of its partner's link-control flit. -/
def controlHeard (s : State) (p coord code fibres : Nat) : State :=
  s.setPort p { s.port p with coord := coord % 2 ^ 24, code := code % 8,
                              rxFibres := (s.port p).rxFibres &&& BitVec.ofNat 4 fibres }

section

variable {s : State} {p verMin verMax coord code fibres : Nat}

/-- R289: once the version ranges meet, a wrong port code takes the port down, unless ANY_PORT is set. -/
theorem linkControl_of_versions_meet (hfec : (s.port p).phase = .fec) (hver : max 1 verMin ≤ min 2 verMax)
    (hfib : (s.port p).rxFibres &&& BitVec.ofNat 4 fibres ≠ 0) :
    linkControl s p verMin verMax coord code fibres =
      if code % 8 ≠ p ^^^ 1 && !s.anyPort p then portDown (controlHeard s p coord code fibres) p .off 3
      else linkUp (controlHeard s p coord code fibres) p (min 2 verMax) := by
  rw [linkControl, if_neg (not_not_intro hfec), if_neg (Nat.not_lt.2 hver), if_neg hfib]
  rfl

theorem bringUp_linkControl_of_miswired (hfec : (s.port p).phase = .fec) (hver : max 1 verMin ≤ min 2 verMax)
    (hfib : (s.port p).rxFibres &&& BitVec.ofNat 4 fibres ≠ 0) (hcode : code % 8 ≠ p ^^^ 1) (hany : s.anyPort p = false) :
    ((linkControl s p verMin verMax coord code fibres).port p).bringUp = (.off, 3, 0, coord % 2 ^ 24, code % 8) := by
  have hdown : ((controlHeard s p coord code fibres).port p).phase ≠ .up := by simp [controlHeard, hfec]
  rw [linkControl_of_versions_meet hfec hver hfib, if_pos (by simp [hcode, hany]), bringUp_portDown hdown]
  simp [controlHeard]

theorem bringUp_linkControl_of_accepted (hfec : (s.port p).phase = .fec) (hver : max 1 verMin ≤ min 2 verMax)
    (hfib : (s.port p).rxFibres &&& BitVec.ofNat 4 fibres ≠ 0) (hok : code % 8 = p ^^^ 1 ∨ s.anyPort p = true) :
    ((linkControl s p verMin verMax coord code fibres).port p).bringUp =
      (.up, 0, min 2 verMax, coord % 2 ^ 24, code % 8) := by
  have hpass : ¬ (code % 8 ≠ p ^^^ 1 && !s.anyPort p) = true := by simpa [or_iff_not_imp_left] using hok
  rw [linkControl_of_versions_meet hfec hver hfib, if_neg hpass, bringUp_linkUp]
  simp [controlHeard]

end

/-! ### PARTNER (R289) -/

theorem State.view_partner (s : State) (m p : Nat) :
    s.view m 0x1B014 p = some ((s.port p).coord + 2 ^ 24 * (s.port p).code) := rfl

/-- The registers' view of what bring-up has settled. -/
theorem shows_of_bringUp {s : State} {p cause version coord code : Nat} {phase : PortPhase}
    (h : (s.port p).bringUp = (phase, cause, version, coord, code)) :
    (s.port p).phase = phase ∧ (s.port p).cause = cause ∧ s.view 0 0x1B014 p = some (coord + 2 ^ 24 * code) := by
  obtain ⟨rfl, rfl, -, rfl, rfl⟩ : _ = phase ∧ _ = cause ∧ _ = version ∧ _ = coord ∧ _ = code := by
    simpa only [Port.bringUp, Prod.mk.injEq] using h
  exact ⟨rfl, rfl, s.view_partner 0 p⟩

/-! ### The obligation -/

/-- Settles O54: the port stores what its partner sent before it compares the codes, and neither end of bring-up changes
it; the comparison alone chooses between MISWIRED and UP, since the versions meet and a fibre is in service. -/
theorem portCodeIsChecked : Obligations.PortCodeIsChecked := by
  unfold Obligations.PortCodeIsChecked
  intro s p vmax coord code fibres _ hfec hvmax hcoord hcode hfib
  have hver : max 1 1 ≤ min 2 vmax := le_min (by decide) hvmax
  have hcoord' : coord % 2 ^ 24 = coord := Nat.mod_eq_of_lt hcoord
  have hcode' : code % 8 = code := Nat.mod_eq_of_lt hcode
  refine ⟨fun hne hany => ⟨_, rfl, ?_⟩, fun hok => ⟨_, rfl, ?_⟩⟩
  · have h := bringUp_linkControl_of_miswired (coord := coord) hfec hver hfib (hcode'.symm ▸ hne) hany
    rw [hcoord', hcode'] at h
    exact shows_of_bringUp h
  · have h := bringUp_linkControl_of_accepted (coord := coord) hfec hver hfib (hcode'.symm ▸ hok)
    rw [hcoord', hcode'] at h
    obtain ⟨hup, -, hpartner⟩ := shows_of_bringUp h
    exact ⟨hup, hpartner⟩

end Sys2Proof.Machine

/-! SUPPORT. The frame of every command: each arm of `exec` answers a next state and changes only the parts of its frame. -/

namespace Sys2Proof.Machine

/-- The command answers a next state, and no part of the state changes but those of `ps`. -/
def Answers (ps : List Part) (s : State) (o : Host.Outcome State Fault Refusal) : Prop :=
  ∃ t, o = .next t ∧ Kept ps s t

section

variable {ps qs : List Part} {s0 s t : State}

theorem Answers.next (h : Kept ps s t) : Answers ps s (.next t) := ⟨t, rfl, h⟩

theorem Kept.answers (h : Kept qs s t) (hq : partsIn qs ps = true) : Answers ps s (.next t) := .next (h.weaken hq)

theorem Kept.guard {c : Prop} [Decidable c] (h : Kept ps s t) : Kept ps s (if c then t else s) := .ite h (.refl ps s)

end

/-! ### Arms of several steps -/

section

variable (s : State)

theorem retrainDone_answers (ch : Nat) (sweep : PinSweep) (readback : Bool) :
    Answers (frameOf (.retrainDone ch sweep readback)) s (exec (.retrainDone ch sweep readback) s) := by
  refine .next (.ite (.refl ..) ?_)
  have hreq : Kept [.time] s (match (s.chan ch).retrainReq with | some id => s.deliver id | none => s) := by
    split
    · exact (State.deliver_kept ..).weaken rfl
    · exact .refl ..
  refine .ite ?_ ?_
  · exact ((hreq.weaken rfl).step (State.setChan_kept ..) rfl).step (trainSpall_kept ..) rfl
  · exact (hreq.weaken rfl).step (trainEnd_kept ..) rfl

theorem functionEnableChange_answers (fn : Nat) (enable : Bool) :
    Answers (frameOf (.functionEnableChange fn enable)) s (exec (.functionEnableChange fn enable) s) := by
  have hreset : ∀ c : Prop, [Decidable c] → Kept (frameOf (.functionLevelReset fn)) s (if c then ctxReset s fn else s) :=
    fun _ _ => ((ctxReset_kept ..).weaken rfl).guard
  refine .next (.ite ?_ ?_)
  · exact ((hreset _).step (State.setCtx_kept ..) rfl).step (State.clampEvent_kept ..) rfl
  · exact (hreset _).step (State.setCtx_kept ..) rfl

theorem ppPendingApply_answers : Answers (frameOf .ppPendingApply) s (exec .ppPendingApply s) := by
  refine .next ?_
  extract_lets s1 s2
  have h1 : Kept (frameOf .ppPendingApply) s s1 := by
    subst s1
    split
    · exact .guard ((setPp_kept ..).weaken rfl)
    · exact .refl ..
  have h2 : Kept (frameOf .ppPendingApply) s s2 := by
    subst s2
    split
    · exact .ite (h1.step (State.modPower_kept ..) rfl) h1
    · exact h1
  exact h2.step (capMark_kept ..) rfl

theorem capFrame_answers (bytes : List Byte) : Answers (frameOf (.capFrame bytes)) s (exec (.capFrame bytes) s) := by
  refine .next (.ite (.refl ..) ?_)
  extract_lets m s1
  have h1 : Kept (frameOf (.capFrame bytes)) s s1 := (Kept.set_mgmt ..).weaken rfl
  exact (Kept.ite (h1.step (capAccept_kept ..) rfl) (h1.step (State.bump_kept ..) rfl)).step (sendReport_kept ..) rfl

theorem powerWindowEnd_answers (meanW : Nat) :
    Answers (frameOf (.powerWindowEnd meanW)) s (exec (.powerWindowEnd meanW) s) := by
  show Answers [.freeCtr, .power] s (execPowerWindowEnd meanW s)
  unfold execPowerWindowEnd
  extract_lets s1 s2
  have h1 : Kept [.freeCtr, .power] s s1 := (State.modPower_kept ..).weaken rfl
  have h2 : Kept [.freeCtr, .power] s s2 := .foldl (fun _ c h => h.step (chargeCtx_kept ..) rfl) h1
  exact .next ((h2.step (chargeEnergy_kept ..) rfl).step (chooseDuty_kept ..) rfl)

theorem junctionSensorSample_answers (sensor temp : Nat) (hot : Bool) :
    Answers (frameOf (.junctionSensorSample sensor temp hot)) s (exec (.junctionSensorSample sensor temp hot) s) := by
  have hthrottle : ∀ g, Kept (frameOf (.junctionSensorSample sensor temp hot)) s
      (throttleOn (s.modPower g) sensor) :=
    fun g => ((State.modPower_kept s g).weaken rfl).step (throttleOn_kept ..) rfl
  exact .next (.ite (.refl ..) (.ite ((hthrottle _).step (shedTo_kept ..) rfl) (hthrottle _)))

theorem brickTempSample_answers (brick : Nat) (readings : List Nat) :
    Answers (frameOf (.brickTempSample brick readings)) s (exec (.brickTempSample brick readings) s) := by
  refine .next (.ite (.refl ..) ?_)
  extract_lets temp s1 s2 s3
  have h1 : Kept (frameOf (.brickTempSample brick readings)) s s1 := (State.setBrick_kept ..).weaken rfl
  have h2 : Kept (frameOf (.brickTempSample brick readings)) s s2 := .ite (h1.step (State.orReg_kept ..) rfl) h1
  have h3 : Kept (frameOf (.brickTempSample brick readings)) s s3 := h2.step (throttleOn_kept ..) rfl
  exact .ite (h3.step (shedTo_kept ..) rfl) h3

theorem holdupMeasure_answers (energy : Nat) :
    Answers (frameOf (.holdupMeasure energy)) s (exec (.holdupMeasure energy) s) := by
  refine .next ?_
  extract_lets ok fell u s1 s2
  have h1 : Kept (frameOf (.holdupMeasure energy)) s s1 := (Kept.set_holdup ..).weaken rfl
  have h2 : Kept (frameOf (.holdupMeasure energy)) s s2 := .ite (h1.step (shedTo_kept ..) rfl) h1
  exact ((h2.step (retryPrograms_kept ..) rfl).step (retryCommit_kept ..) rfl).step (keepSweep_kept ..) rfl

theorem remeasureDone_answers (entries : List (Nat × Nat × Nat)) :
    Answers (frameOf (.remeasureDone entries)) s (exec (.remeasureDone entries) s) := by
  refine .next (.ite (.refl ..) (.ite ?_ ?_))
  · exact ((State.modPower_kept s _).weaken rfl).step (State.modTrust_kept ..) rfl
  · exact ((State.modPower_kept s _).weaken rfl).step (storePut_kept ..) rfl

theorem storeCmdWarmReset_answers (m : Nat) (pins : List (Nat × List Nat)) :
    Answers (frameOf (.storeCmdWarmReset m pins)) s (exec (.storeCmdWarmReset m pins) s) := by
  refine .next (.ite (.ite ?_ (.refl ..)) ?_)
  · exact ((Kept.set_mgmt s _).weaken rfl).step (warmRequest_kept ..) rfl
  · exact (((State.modTrust_kept s _).weaken rfl).step (namedWrite_kept ..) rfl).step (State.modTrust_kept ..) rfl

theorem storeCompact_answers : Answers (frameOf .storeCompact) s (exec .storeCompact s) := by
  refine .next (.ite (.refl ..) (.ite ?_ ?_))
  · exact (State.modTrust_kept ..).weaken rfl
  · exact ((State.modTrust_kept s _).weaken rfl).step (deferStore_kept ..) rfl

theorem hostCplTimeout_answers (tag : Nat) :
    Answers (frameOf (.hostCplTimeout tag)) s (exec (.hostCplTimeout tag) s) := by
  refine .next ?_
  split
  · refine .ite (.ite ?_ ?_) (.refl ..)
    · exact (dropHostRead_kept ..).weaken rfl
    · exact (((dropHostRead_kept s tag).weaken rfl).step (State.bump_kept ..) rfl).step (hostReadFails_kept ..) rfl
  · exact .refl ..

theorem msixUnmask_answers (fn v : Nat) : Answers (frameOf (.msixUnmask fn v)) s (exec (.msixUnmask fn v) s) :=
  .next (.ite (((Kept.set_msix s _).weaken rfl).step (Kept.set_msixSent ..) rfl) ((Kept.set_msix s _).weaken rfl))

theorem contTimeoutExpiry_answers (ctx : Nat) :
    Answers (frameOf (.contTimeoutExpiry ctx)) s (exec (.contTimeoutExpiry ctx) s) :=
  .next (.guard ((((State.setCont_kept s ctx _).weaken rfl).step (State.bump_kept ..) rfl).step
    (commitRecord_kept ..) rfl))

theorem commitLapMsg_answers (port : Nat) : Answers (frameOf (.commitLapMsg port)) s (exec (.commitLapMsg port) s) := by
  refine .next ?_
  split
  · exact (lapEnd_kept ..).weaken rfl
  split
  · exact (lapHeld_kept ..).weaken rfl
  split
  · exact (lapArrive_kept ..).weaken rfl
  · exact .refl ..

theorem loop_answers (t : Nat) : Answers (frameOf (.loop t)) s (exec (.loop t) s) := by
  refine .next (issue_kept _ _ _ _ _ rfl (.refl ..) fun y w h => seqStart_kept _ _ _ _ rfl h fun z w' hz => ?_)
  refine .ite ?_ ?_
  · exact hz.step (tileFault_kept ..) rfl
  · exact (hz.step (State.modTile_kept ..) rfl).step (seqSignal_kept ..) rfl

theorem splitComplete_answers (t : Nat) : Answers (frameOf (.splitComplete t)) s (exec (.splitComplete t) s) := by
  refine .next ?_
  extract_lets x
  split
  · exact .guard (((convertSplit_kept ..).weaken rfl).step (seqRelease_kept ..) rfl)
  · exact .refl ..

/-! ### Operations on joints, messages and the KRT, which take the step as an argument -/

theorem jointDesc_answers {ps qs : List Part} (ctx q op : Nat) (f : State → Desc → State) (hf : ∀ y d, Kept qs y (f y d))
    (hq : partsIn qs ps = true) (hps : partsIn (frameOf (.jointDescRead ctx q)) ps = true) :
    Answers ps s (.next (jointDesc s ctx q op f)) :=
  .next (jointDesc_kept _ _ _ _ _ (partsIn_trans rfl hps) (.refl ..) fun y d h => h.step (hf y d) hq)

theorem kvRun_answers {qs : List Part} (n op : Nat) (k : KvCmd → State → KvResp × State)
    (hk : ∀ c y, Kept qs y (k c y).2) (hq : partsIn qs (frameOf (.kvAlloc n)) = true) :
    Answers (frameOf (.kvAlloc n)) s (.next (kvTake s n op (fun y c => kvRun y c (k c)))) :=
  .next (kvTake_kept _ _ _ _ rfl (.refl ..) fun _ _ h => kvRun_kept _ _ _ rfl h fun y hy => hy.step (hk _ y) hq)

theorem kvOnPage_answers {qs : List Part} (n op : Nat) (k : KvCmd → State → Page → KvResp × State)
    (hk : ∀ c y p, Kept qs y (k c y p).2) (hq : partsIn qs (frameOf (.kvAlloc n)) = true) :
    Answers (frameOf (.kvAlloc n)) s (.next (kvTake s n op (fun y c => kvRun y c (kvOnPage c (k c))))) :=
  .next (kvTake_kept _ _ _ _ rfl (.refl ..) fun _ _ h => kvRun_kept _ _ _ rfl h fun _ hy =>
    kvOnPage_kept _ _ _ rfl hy fun y p hz => hz.step (hk _ y p) hq)

theorem kvKeyed_answers {qs : List Part} (n op : Nat) (k : KvCmd → State → List Byte → KvResp × State)
    (hk : ∀ c y b, Kept qs y (k c y b).2) (hq : partsIn qs (frameOf (.kvAlloc n)) = true) :
    Answers (frameOf (.kvAlloc n)) s (.next (kvTake s n op (fun y c => kvKeyed y c (k c)))) :=
  .next (kvTake_kept _ _ _ _ rfl (.refl ..) fun _ _ h => kvKeyed_kept _ _ _ rfl h fun y b hy => hy.step (hk _ y b) hq)

theorem onMsg_answers {ps qs : List Part} (p op : Nat) (ready : RxMsg → Bool) (k : State → RxMsg → State)
    (hk : ∀ y m, Kept qs y (k y m)) (hq : partsIn qs ps = true) (hps : partsIn [.links] ps = true) :
    Answers ps s (.next (onMsg s p op ready k)) :=
  .next (onMsg_kept _ _ _ _ _ (partsIn_trans rfl hps) (.refl ..) fun y m h => h.step (hk y m) hq)

theorem onPhase_answers {ps qs : List Part} (p kind : Nat) (phases : List CollPhase) (k : State → RxMsg → Coll → State)
    (hk : ∀ y m c, Kept qs y (k y m c)) (hq : partsIn qs ps = true)
    (hps : partsIn [.time, .links] ps = true) : Answers ps s (.next (onPhase s p kind phases k)) :=
  .next (onPhase_kept _ _ _ _ _ (partsIn_trans rfl hps) (.refl ..) fun y m c h => h.step (hk y m c) hq)

theorem onColl_answers {ps qs : List Part} (p kind : Nat) (ok : State → RxMsg → Bool) (k : State → RxMsg → State)
    (hk : ∀ y m, Kept qs y (k y m)) (hq : partsIn qs ps = true) (hps : partsIn [.time, .links] ps = true) :
    Answers ps s (.next (onColl s p kind ok k)) :=
  .next (onColl_kept _ _ _ _ _ (partsIn_trans rfl hps) (.refl ..) fun y m h => h.step (hk y m) hq)

theorem testRequest_answers {ps qs : List Part} (op : Nat) (f : List Byte) (k : State → State) (hk : ∀ y, Kept qs y (k y))
    (hq : partsIn qs ps = true) (hps : partsIn [.mgmt] ps = true) : Answers ps s (.next (testRequest s op f k)) :=
  .next (testRequest_kept _ _ _ _ (partsIn_trans rfl hps) (.refl ..) fun y h => h.step (hk y) hq)

theorem krtRun_answers {ps qs : List Part} (chan : Nat) (takes : Nat → Bool)
    (k : State → List Byte → (Nat × Nat) × State) (hk : ∀ y p, Kept qs y (k y p).2) (hq : partsIn qs ps = true)
    (hps : partsIn (frameOf (.krtCert chan)) ps = true) : Answers ps s (.next (krtRun s chan takes k)) :=
  .next (krtRun_kept _ _ _ _ (partsIn_trans rfl hps) (.refl ..) fun y p h => h.step (hk y p) hq)

theorem flashCmd_answers {ps qs : List Part} (ctx q op : Nat) (k : State → Desc → State) (hk : ∀ y d, Kept qs y (k y d))
    (hq : partsIn qs ps = true) (hps : partsIn (frameOf (.flashStat ctx q)) ps = true) :
    Answers ps s (.next (flashCmd s ctx q op k)) :=
  .next (flashCmd_kept _ _ _ _ _ (partsIn_trans rfl hps) (.refl ..) fun y d h => h.step (hk y d) hq)

theorem inDomain_answers {ps qs : List Part} (ctx : Nat) (k : State → State) (c : Prop) [Decidable c]
    (hk : ∀ y, Kept qs y (k y)) (hq : partsIn qs ps = true) (hps : partsIn [.regs] ps = true) :
    Answers ps s (.next (if c then inDomain s ctx k else s)) :=
  .next (.guard (inDomain_kept _ _ _ (partsIn_trans rfl hps) (.refl ..) fun y h => h.step (hk y) hq))

theorem flashDelete_step_kept (ctx q : Nat) (y : State) (d : Desc) :
    Kept (frameOf (.flashDelete ctx q)) y (match objFault y ctx d.bytes false with
      | some c => flashDone y ctx q d c
      | none => flashDeletes (flashFly y ctx q d none).2) := by
  split
  · exact (flashDone_kept ..).weaken rfl
  · exact ((flashFly_kept ..).weaken rfl).step (flashDeletes_kept ..) rfl

theorem krtExtend_answers (chan : Nat) : Answers (frameOf (.krtExtend chan)) s (exec (.krtExtend chan) s) := by
  refine krtRun_answers s chan _ _ (qs := frameOf (.krtExtend chan)) (fun y p => ?_) rfl rfl
  refine .ite₂ (.refl ..) ?_
  split
  · next h => exact (Kept.of_snd h ((krtDigest_kept ..).weaken rfl)).step (extendMeas_kept ..) rfl
  · next h => exact Kept.of_snd h ((krtDigest_kept ..).weaken rfl)

theorem krtPeerAdd_answers (chan : Nat) : Answers (frameOf (.krtPeerAdd chan)) s (exec (.krtPeerAdd chan) s) := by
  refine krtRun_answers s chan _ _ (qs := frameOf (.krtPeerAdd chan)) (fun y p => ?_) rfl rfl
  refine .ite₂ (.refl ..) ?_
  split
  · next h => exact Kept.of_snd h ((krtDigest_kept ..).weaken rfl)
  · next h =>
    have hd := Kept.of_snd h ((krtDigest_kept ..).weaken (ps := frameOf (.krtPeerAdd chan)) rfl)
    exact .ite₂ hd (.ite₂ hd ((hd.step (State.modTrust_kept ..) rfl).step (putSecurity_kept ..) rfl))

theorem krtPeerDel_answers (chan : Nat) : Answers (frameOf (.krtPeerDel chan)) s (exec (.krtPeerDel chan) s) := by
  refine krtRun_answers s chan _ _ (qs := frameOf (.krtPeerDel chan)) (fun y p => ?_) rfl rfl
  refine .ite₂ (.refl ..) ?_
  split
  · next h => exact Kept.of_snd h ((krtDigest_kept ..).weaken rfl)
  · next h =>
    have hd := Kept.of_snd h ((krtDigest_kept ..).weaken (ps := frameOf (.krtPeerDel chan)) rfl)
    exact .ite₂ ((hd.step (State.modTrust_kept ..) rfl).step (putSecurity_kept ..) rfl) hd

theorem krtAttest_answers (chan : Nat) : Answers (frameOf (.krtAttest chan)) s (exec (.krtAttest chan) s) :=
  krtRun_answers s chan _ _ (qs := frameOf (.krtAttest chan))
    (fun _ _ => .ite₂ (.refl ..) (.ite₂ (.refl ..) (((State.draw_kept ..).weaken rfl).step (krtWrite_kept ..) rfl))) rfl rfl

end

/-! ### The arms -/

section

variable (s : State)

theorem namedWrite_answers (m off v : Nat) : Answers (frameOf (.kvCtrlWrite 0 0)) s (.next (namedWrite s m off v)) :=
  (namedWrite_kept ..).answers rfl

theorem namedRead_answers (m off : Nat) : Answers (frameOf (.devtimeLoRead 0)) s (.next (namedRead s m off)) :=
  (namedRead_kept ..).answers rfl

theorem issueUnit_answers (t u op : Nat) : Answers (frameOf (.mma 0)) s (.next (issueUnit s t u op)) :=
  (issueUnit_kept ..).answers rfl

theorem seqWord_answers (t op : Nat) (g : Tile → CWord → Tile) :
    Answers (frameOf (.nop 0)) s (.next (seqWord s t op g)) :=
  (seqWord_kept ..).answers rfl

theorem collTake_answers (ctx q op : Nat) : Answers (frameOf (.collLand 0 0)) s (.next (collTake s ctx q op)) :=
  (collTake_kept ..).answers rfl

end

theorem exec_answers (i : Instr) (s : State) : Answers (frameOf i) s (exec i s) := by
  cases i with
  -- rings, launches, copies and fences
  | sqDoorbell => exact inDomain_answers _ _ _ _ (fun _ => sqDoor_kept ..) rfl rfl
  | cqDoorbell => exact inDomain_answers _ _ _ _ (fun _ => cqDoor_kept ..) rfl rfl
  | submissionEntryRead => exact (readEntry_kept ..).guard.answers rfl
  | heldRecordWrite => exact .next (((writeHeld_kept ..).weaken rfl).step (mbPumpAll_kept ..) rfl)
  | ringNeedbyMiss => exact (ringMiss_kept ..).answers rfl
  | timedRequestDelivered =>
    refine .next ?_; split
    · exact ((deliverRing_kept ..).weaken rfl).guard
    · exact .refl ..
  | launch =>
    refine .next ?_; split
    · exact (takeLaunch_kept ..).weaken rfl
    · exact .refl ..
  | launchStart =>
    refine .next ?_; split
    · exact .ite (.refl ..) ((startLaunch_kept ..).weaken rfl)
    · exact .refl ..
  | copy =>
    refine .next ?_; split
    · exact .ite (.refl ..) ((startCopy_kept ..).weaken rfl)
    · exact .refl ..
  | fenceDesc =>
    refine .next ?_; split
    · exact (State.modDesc_kept ..).weaken rfl
    · exact .refl ..
  | fenceStop =>
    refine .next ?_; split
    · exact .guard (((State.modDesc_kept ..).weaken rfl).step (stopLaunches_kept ..) rfl)
    · exact .refl ..
  | fenceDescRelease =>
    refine .next ?_; split
    · exact ((releaseFence_kept ..).weaken rfl).guard
    · exact .refl ..
  -- joints
  | jointDescAdd ctx q =>
    exact jointDesc_answers s ctx q 1 _ (qs := frameOf (.jointDescAdd ctx q))
      (fun _ _ => ((jointAdd_kept ..).weaken rfl).step (finishDesc_kept ..) rfl) rfl rfl
  | jointDescSet ctx q =>
    exact jointDesc_answers s ctx q 2 _ (qs := frameOf (.jointDescSet ctx q))
      (fun y d => (((y.setJointValue_kept d.joint d.value none).weaken rfl).step (contWatch_kept ..) rfl).step
        (finishDesc_kept ..) rfl) rfl rfl
  | jointDescRead => exact jointDesc_answers _ _ _ _ _ (fun _ _ => jointResult_kept ..) rfl rfl
  | jointDescWaitge => exact jointDesc_answers _ _ _ _ _ (fun _ _ => waitgeDesc_kept ..) rfl rfl
  | jointDescTicket ctx q =>
    exact jointDesc_answers s ctx q 5 _ (qs := frameOf (.jointDescTicket ctx q))
      (fun y d => ((y.setJoint_kept d.joint _).weaken rfl).step (jointResult_kept ..) rfl) rfl rfl
  | jointDescSetticket ctx q =>
    exact jointDesc_answers s ctx q 7 _ (qs := frameOf (.jointDescSetticket ctx q))
      (fun y d => ((y.setJoint_kept d.joint _).weaken rfl).step (finishDesc_kept ..) rfl) rfl rfl
  | jointDescSignal =>
    refine .next ?_; split
    · exact (signalDesc_kept ..).weaken rfl
    · exact .refl ..
  | jointWaitRelease => exact (releaseOldest_kept ..).answers rfl
  | jointSignalMsg =>
    refine .next ?_; split
    · exact (takeSignal_kept ..).weaken rfl
    · exact .refl ..
  -- the words of a tile and the events of its sequencer and units
  | nop | seti | addi | add | br | brz | brnz | rdtime => exact seqWord_answers ..
  | halt | fence | split => exact (seqHold_kept ..).answers rfl
  | loop t => exact loop_answers s t
  | haltComplete => exact (tileHalt_kept ..).guard.answers rfl
  | fenceRelease => exact (seqRelease_kept ..).guard.answers rfl
  | splitComplete t => exact splitComplete_answers s t
  | commandFetchFill => exact (fetchFill_kept ..).answers rfl
  | issueStallRelease => exact (stallRelease_kept ..).answers rfl
  | tokenWaitStart => exact (startUnit_kept ..).answers rfl
  | unitWordComplete => exact (completeWord_kept ..).answers rfl
  | wait | mma | mdrain | mload | mzero | vld | vst | vfma | vadd | vsub | vmul | vmax | vmin | vdiv | vcmp | vsel
  | vscan | vred | vbrc | vstat | vstatf | vmovs | sfeval | sfsincos | sfbas | sfnss | sfload | sfswap | sfprog
  | hodstream | hodrun | hodrecv | jadd | jtry | jticket | jorder | jarrive | jsignal | jread | mbrecv =>
    exact issueUnit_answers ..
  | hodcmo | tupdate | mbsend => exact (issueOrRetry_kept ..).answers rfl
  | waitSatisfied => exact (waitOver_kept ..).answers rfl
  | deadlineMiss => exact (waitMiss_kept ..).answers rfl
  -- the hod
  | hodDescriptorTake =>
    refine .next ?_; split
    · exact ((hodTake_kept ..).weaken rfl).guard
    · exact .refl ..
  | hodRequestIssue =>
    refine .next ?_; extract_lets x c; split
    · exact .refl ..
    · exact .ite (.refl ..) (((issueReq_kept ..).weaken rfl).step (hodAfter_kept ..) rfl)
  | hodResponseLand =>
    refine .next ?_; extract_lets h; split
    · exact .ite (((passResponse_kept ..).weaken rfl).step (landTag_kept ..) rfl) ((passResponse_kept ..).weaken rfl)
    · exact .refl ..
  | gatherIndexRead =>
    refine .next ?_; extract_lets h; split
    · exact .guard (.ite (((passResponse_kept ..).weaken rfl).step (landIndex_kept ..) rfl)
        ((passResponse_kept ..).weaken rfl))
    · exact .refl ..
  | relayStart | multicastStart => exact (spreadStart_kept ..).answers rfl
  | multicastDropInstant =>
    refine .next ?_; split
    · exact ((dropLate_kept ..).weaken rfl).guard
    · exact .refl ..
  | multicastReplay =>
    refine .next ?_; split
    · exact ((replayTo_kept ..).weaken rfl).guard
    · exact .refl ..
  | hodMissCancel => exact (cancelLate_kept ..).answers rfl
  | scratchpadWindowAccess => exact (windowAccess_kept ..).guard.answers rfl
  -- channels and bricks
  | channelRequest => exact (takeLine_kept ..).answers rfl
  | channelLineDone => exact (lineDone_kept ..).answers rfl
  | refreshDue => exact .next (.ite (.refl ..) ((State.modChan_kept ..).weaken rfl))
  | scrubLine => exact (scrubVisit_kept ..).answers rfl
  | brickTempSample b l => exact brickTempSample_answers s b l
  | retrainResubmit => exact (retrainSubmit_kept ..).guard.answers rfl
  | retrainStart =>
    refine .next ?_; extract_lets c; split
    · exact .refl ..
    · exact ((State.setChan_kept ..).weaken rfl).guard
  | retrainDone ch sweep ok => exact retrainDone_answers s ch sweep ok
  | channelFenceComplete => exact (fenceDone_kept ..).answers rfl
  | marginDone =>
    refine .next ?_; split
    · exact .refl ..
    · exact (State.modChan_kept ..).weaken rfl
  -- registers
  | devtimeLoRead | errlogPopRead | idleLoRead | jointValueLoRead | jointTicketLoRead | enLoRead | bitAliasRead =>
    exact namedRead_answers ..
  | ppReqWrite | srSeedLoWrite | srSeedHiWrite | chCmdRetrain | chCmdFence | chCmdUnfence | chCmdSpall | chCmdMarginStb
  | chCmdMarginVref | brickSupplyWrite | scrubPeriodWrite | linkEnableWrite | linkRetrain | rtLoWrite | rtHiWrite
  | collGroupWrite | contCmdCommit | contCmdAbort | contCmdHold | contCmdRelease | contEnWrite | jntCfgWrite | protSync
  | ringEnWrite | kvCtrlWrite | dutyAdmWrite | pwrCmdRemeasure | kilnOnWrite | flashOnWrite | storeCmdSaveConfig
  | storeCmdCommitSvn | storeCmdPreferA | storeCmdPreferB | wdtKick | unlockKeyWrite | bitAliasWrite | ctEnableWrite
  | ctResetWrite | bindEntryWrite => exact namedWrite_answers ..
  | registerWrite => exact .next (((Kept.set_regPosted s _).weaken rfl).step (writeReg_kept ..) rfl)
  | registerReadClear => exact (readFor_kept ..).answers rfl
  | holeAccess => exact .next (.guard (.ite ((State.bump_kept ..).weaken rfl) ((readFor_kept ..).weaken rfl)))
  | unlockExpiry =>
    refine .next ?_; split
    · exact ((rearm_kept ..).weaken rfl).guard
    · exact .refl ..
  -- the flash tier and host reads
  | flashCreate => exact flashCmd_answers _ _ _ _ _ (fun _ _ => flashMake_kept ..) rfl rfl
  | flashDelete ctx q => exact flashCmd_answers _ _ _ _ _ (flashDelete_step_kept ctx q) rfl rfl
  | flashRead => exact flashCmd_answers _ _ _ _ _ (fun _ _ => flashReadStart_kept ..) rfl rfl
  | flashWrite => exact flashCmd_answers _ _ _ _ _ (fun _ _ => flashWriteStart_kept ..) rfl rfl
  | flashTrim => exact flashCmd_answers _ _ _ _ _ (fun _ _ => flashTrimRun_kept ..) rfl rfl
  | flashStat => exact flashCmd_answers _ _ _ _ _ (fun _ _ => flashStatRun_kept ..) rfl rfl
  | flashReadStreamStart =>
    refine .next ?_; split
    · exact ((streamCredit_kept ..).weaken rfl).guard
    · exact .refl ..
  | flashReadCancel =>
    refine .next ?_; split
    · exact ((flashEnd_kept ..).weaken rfl).guard
    · exact .refl ..
  | flashPageReadDone => exact (pageRead_kept ..).answers rfl
  | flashReadRetry => exact (pageRetry_kept ..).answers rfl
  | flashRebuildDone => exact (pageRebuild_kept ..).answers rfl
  | flashProgramDone => exact .next (((programDone_kept ..).weaken rfl).step (keepSweep_kept ..) rfl)
  | flashDieTimeout =>
    exact .next (.ite (.refl ..) (((pointPut_kept ..).weaken rfl).step (State.modFlash_kept _ _ id) rfl))
  | flashRelocate => exact (relocateRow_kept ..).answers rfl
  | translationLayerLoaded => exact (State.modFlash_kept _ _ id).guard.answers rfl
  | hostReadCompletion =>
    refine .next ?_; split
    · exact .ite (.refl ..) ((hostComplete_kept ..).weaken rfl)
    · exact .refl ..
  | hostCplTimeout tag => exact hostCplTimeout_answers s tag
  | lateHostRead =>
    refine .next ?_; split
    · split
      · exact ((breakReq_kept ..).weaken rfl).guard
      · exact .refl ..
    · exact .refl ..
  | holdupMeasure e => exact holdupMeasure_answers s e
  -- the kiln
  | kilnBatch =>
    refine .next ?_; split
    · exact (kilnTake_kept ..).weaken rfl
    · exact .refl ..
  | kilnSlotStart => exact (kilnNext_kept ..).answers rfl
  | kilnHeaderReadDone => exact (headerDone_kept ..).answers rfl
  | kilnSampleDecoded => exact (sampleEnd_kept ..).answers rfl
  | kilnBackfillAssign => exact (backfill_kept ..).answers rfl
  | kilnPalletDelivered =>
    refine .next ?_; split
    · exact .refl ..
    · exact .guard (((palletDone_kept ..).weaken rfl).step (kilnDrained_kept ..) rfl)
  -- links
  | arkelFlitReceive => exact (flitArrives_kept ..).answers rfl
  | arkelReplayTimeout =>
    exact .next (.guard (((State.setPort_kept s _ _).weaken rfl).step (replayAll_kept ..) rfl))
  | arkelWriteMsg => exact onMsg_answers _ _ _ _ _ (fun _ _ => writeMsg_kept ..) rfl rfl
  | arkelReadRequestMsg => exact onMsg_answers _ _ _ _ _ (fun _ _ => readMsg_kept ..) rfl rfl
  | arkelReadResponseMsg => exact onMsg_answers _ _ _ _ _ (fun _ _ => responseMsg_kept ..) rfl rfl
  | unreachableNotice => exact onMsg_answers _ _ _ _ _ (fun _ _ => noticeMsg_kept ..) rfl rfl
  | arkelLightDetect | arkelBringupRetry | timeExchangeSend => exact (State.setPort_kept ..).guard.answers rfl
  | arkelLaneTrainDone => exact (lanesTrained_kept ..).answers rfl
  | arkelLinkControlFlit => exact (linkControl_kept ..).answers rfl
  | arkelLaneFail => exact (laneFail_kept ..).answers rfl
  | arkelSpareSwapDone => exact (State.setPort_kept ..).answers rfl
  | arkelLinkDown => exact (portDown_kept ..).guard.answers rfl
  | arkelFibreRejoin => exact .next (.ite (.refl ..) ((fibreRejoin_kept ..).weaken rfl))
  | timeExchangeFlit => exact (timeExchange_kept ..).answers rfl
  | laserSupplyLoss => exact (supplyLoss_kept ..).answers rfl
  | laserSupplyLightReturn => exact (Kept.set_links ..).answers rfl
  | removalAnnounce => exact (removal_kept ..).answers rfl
  -- collectives
  | collReduceScatter | collAllReduce | collAllGather | collAllToAll | collPermute | collVote | collLand =>
    exact collTake_answers ..
  | collSetupMsg p =>
    refine onColl_answers _ _ _ _ _ (qs := frameOf (.collSetupMsg p)) (fun y m => ?_) rfl rfl
    split
    · exact (setupPass_kept ..).weaken rfl
    · exact .refl ..
  | collSetupTimeout =>
    refine .next ?_; split
    · exact ((collEnd_kept ..).weaken rfl).guard
    · exact .refl ..
  | collAbortMsg => exact onColl_answers _ _ _ _ _ (fun _ _ => abortPass_kept ..) rfl rfl
  | collHeaderPassMsg => exact onPhase_answers _ _ _ _ _ (fun _ _ _ => headerPass_kept ..) rfl rfl
  | collMantissaPassMsg => exact onPhase_answers _ _ _ _ _ (fun _ _ _ => mantissaPass_kept ..) rfl rfl
  | collGatherDataMsg => exact onPhase_answers _ _ _ _ _ (fun _ _ _ => gatherPass_kept ..) rfl rfl
  | collCountsMsg => exact onPhase_answers _ _ _ _ _ (fun _ _ _ => countsPass_kept ..) rfl rfl
  | collBucketMsg => exact onColl_answers _ _ _ _ _ (fun _ _ => bucketPass_kept ..) rfl rfl
  | collPermuteDataMsg p =>
    refine onColl_answers _ _ _ _ _ (qs := frameOf (.collPermuteDataMsg p)) (fun y m => ?_) rfl rfl
    split
    · exact .ite ((barrierPass_kept ..).weaken rfl) ((permPass_kept ..).weaken rfl)
    · exact ((collForward_kept ..).weaken rfl).guard
  | collVoteMsg p =>
    refine onColl_answers _ _ _ _ _ (qs := frameOf (.collVoteMsg p)) (fun y m => ?_) rfl rfl
    split
    · exact (votePass_kept ..).weaken rfl
    · exact .refl ..
  | collStatisticsMsg => exact onPhase_answers _ _ _ _ _ (fun _ _ _ => statsPass_kept ..) rfl rfl
  | idleTick => exact (idleTick_kept ..).answers rfl
  -- continuity, mailboxes, contexts
  | commitLapMsg p => exact commitLapMsg_answers s p
  | contTimeoutExpiry ctx => exact contTimeoutExpiry_answers s ctx
  | mbTxSend => exact inDomain_answers _ _ _ _ (fun _ => mbHostSend_kept ..) rfl rfl
  | mbTimeoutExpiry =>
    refine .next ?_; split
    · exact ((State.setMbox_kept ..).weaken rfl).guard
    · exact .refl ..
  | mbReceiverStateChange => exact (rxChange_kept ..).answers rfl
  | functionLevelReset => exact (ctxReset_kept ..).answers rfl
  | contextResetComplete => exact (ctxResetDone_kept ..).answers rfl
  | functionEnableChange fn on => exact functionEnableChange_answers s fn on
  | msixUnmask fn v => exact msixUnmask_answers s fn v
  -- the KV page manager
  | kvCmdWindowWrite =>
    exact .next (.guard (((Kept.set_regPosted s _).weaken rfl).step (kvWindow_kept ..) rfl))
  | kvRunTimeout =>
    refine .next ?_; split
    · exact ((kvDiscard_kept ..).weaken rfl).guard
    · exact .refl ..
  | kvLookup n => exact kvKeyed_answers s n 1 kvLookupOp (fun _ _ _ => kvLookupOp_kept ..) rfl
  | kvAlloc n => exact kvRun_answers s n 2 kvAllocOp (fun _ _ => kvAllocOp_kept ..) rfl
  | kvPublish n => exact kvKeyed_answers s n 3 kvPublishOp (fun _ _ _ => kvPublishOp_kept ..) rfl
  | kvPin n => exact kvOnPage_answers s n 4 (fun c y p => kvPinOp y c p) (fun _ _ _ => kvPinOp_kept ..) rfl
  | kvUnpin n => exact kvOnPage_answers s n 5 (fun c y p => kvUnpinOp y c p) (fun _ _ _ => kvUnpinOp_kept ..) rfl
  | kvRef n => exact kvOnPage_answers s n 6 (fun c y p => kvRefOp y c p) (fun _ _ _ => kvRefOp_kept ..) rfl
  | kvUnref n => exact kvOnPage_answers s n 7 (fun c y p => kvUnrefOp y c p) (fun _ _ _ => kvUnrefOp_kept ..) rfl
  | kvWprep =>
    exact .next (kvTake_kept _ _ _ _ rfl (.refl ..) fun _ _ h => h.step (kvWprepCmd_kept ..) rfl)
  | kvWprepCopyDone =>
    refine .next ?_; split
    · exact .ite (.refl ..) ((kvCopyEnd_kept ..).weaken rfl)
    · exact .refl ..
  | kvEpochAdvance => exact .next (.ite (.refl ..) ((kvAdvance_kept ..).weaken rfl))
  -- power
  | ppPendingApply => exact ppPendingApply_answers s
  | capFrame bytes => exact capFrame_answers s bytes
  | reportTimer => exact .next (.ite (.refl ..) ((sendReport_kept ..).weaken rfl))
  | leaseExpiry =>
    refine .next ?_; split
    · exact .guard (((State.modPower_kept s _).weaken rfl).step (capChange_kept ..) rfl)
    · exact .refl ..
  | powerWindowEnd w => exact powerWindowEnd_answers s w
  | curVpUpdate =>
    exact .next ((((State.draw_kept s).weaken rfl).step (State.draw_kept ..) rfl).step (State.modTime_kept ..) rfl)
  | dutyQuantum =>
    exact .next (.ite (((State.modPower_kept s _).weaken rfl).step (startHeads_kept ..) rfl)
      ((State.modPower_kept s _).weaken rfl))
  | collExemptExpiry | unitDrainDone | unitPowerUpDone => exact (State.modPower_kept ..).guard.answers rfl
  | coolantTemperatureSample => exact (State.modPower_kept ..).answers rfl
  | shedStageEnter | presentRelease => exact (shedTo_kept ..).answers rfl
  | shedStageExit => exact (leaveStage_kept ..).answers rfl
  | safeStopCommit => exact (safeStop_kept ..).guard.answers rfl
  | tileReplicaSample => exact (replicaSample_kept ..).answers rfl
  | remeasureDone entries => exact remeasureDone_answers s entries
  | junctionSensorSample sensor temp hot => exact junctionSensorSample_answers s sensor temp hot
  | thermalThrottleStep =>
    exact .next (.ite (((State.modPower_kept s _).weaken rfl).step (State.bump_kept ..) rfl)
      ((State.modPower_kept s _).weaken rfl))
  -- trust
  | coldReset => exact (coldReset_kept ..).answers rfl
  | storeCmdWarmReset m pins => exact storeCmdWarmReset_answers s m pins
  | hostPortReset => exact (hostPortReset_kept ..).answers rfl
  | storeRecordCommit => exact (startCommit_kept ..).answers rfl
  | storeCompact => exact storeCompact_answers s
  | lifetimeHourlyRecord => exact (storePut_kept ..).answers rfl
  | retainedStoreRecordDone => exact (recordDone_kept ..).answers rfl
  | krtAttest chan => exact krtAttest_answers s chan
  | krtExtend chan => exact krtExtend_answers s chan
  | krtCert => exact krtRun_answers _ _ _ _ (fun _ _ => krtWrite_kept ..) rfl rfl
  | krtPeerAdd chan => exact krtPeerAdd_answers s chan
  | krtPeerDel chan => exact krtPeerDel_answers s chan
  | wdtExpiry => exact (restartCmc_kept ..).guard.answers rfl
  | mgmtHandshake =>
    exact .next (.ite (.refl ..) (((Kept.set_mgmt s _).weaken rfl).step (mbPumpAll_kept ..) rfl))
  | mgmtSessionIdleTimeout =>
    exact .next (.guard (((Kept.set_mgmt s _).weaken rfl).step (mbPumpAll_kept ..) rfl))
  -- test access
  | testFence => exact testRequest_answers _ _ _ _ (fun _ => fenceElement_kept ..) rfl rfl
  | testUnfence => exact testRequest_answers _ _ _ _ (fun _ => unfenceElement_kept ..) rfl rfl
  | testSelftest => exact testRequest_answers _ _ _ _ (fun _ => selftestElement_kept ..) rfl rfl
  | testSpall => exact testRequest_answers _ _ _ _ (fun _ => spallElement_kept ..) rfl rfl
  | testRestore => exact testRequest_answers _ _ _ _ (fun _ => restoreElement_kept ..) rfl rfl
  | tileFenceEffect => exact (tileFenced_kept ..).guard.answers rfl
  | spallTileStop => exact (spallTile_kept ..).guard.answers rfl
  | selftestDone => exact (selftestEnd_kept ..).answers rfl

/-! ### What every frame leaves out -/

/-- No command changes the queue behind it or the variant. -/
theorem pending_variant_not_in_frame (i : Instr) : (frameOf i).contains .pending = false ∧ (frameOf i).contains .variant = false := by
  cases i <;> exact ⟨rfl, rfl⟩

/-! ### The obligations -/

theorem Kept.unchanged {ps : List Part} {s t : State} (h : Kept ps s t) (p : Part) (hp : ps.contains p = false) :
    p.same s t :=
  (h.same p).resolve_left (by simpa using hp)

/-- Settles O44: every arm answers, its frame names neither queue nor variant, and the frame relation keeps both counters
from falling. -/
theorem everyCommandAnswers : Obligations.EveryCommandAnswers := by
  unfold Obligations.EveryCommandAnswers
  intro i s
  obtain ⟨t, ht, hkept⟩ := exec_answers i s
  obtain ⟨hpending, hvariant⟩ := pending_variant_not_in_frame i
  exact ⟨t, ht, hkept.unchanged .pending hpending, hkept.unchanged .variant hvariant, hkept.ctr, hkept.ids⟩

/-- Settles O47: the frame relation of every arm, applied to the state that it answers. -/
theorem commandsKeepTheirFrame : Obligations.CommandsKeepTheirFrame := by
  unfold Obligations.CommandsKeepTheirFrame
  intro i s t h
  obtain ⟨t', ht', hkept⟩ := exec_answers i s
  obtain rfl : t' = t := Host.Outcome.next.inj (ht'.symm.trans h)
  exact hkept.same

/-- The queue is no part of the canonical form. -/
theorem State.Canon.with_pending {s : State} (h : s.Canon) (rest : List Instr) : { s with pending := rest }.Canon :=
  ⟨h.mem, h.poison, h.regs⟩

/-- Settles O46: an idle step changes device time alone, and the arm of a command keeps the canonical form of the state
with the rest of the queue. -/
theorem canonicalFormKept : Obligations.CanonicalFormKept := by
  unfold Obligations.CanonicalFormKept
  intro s t hs h
  rw [step] at h
  split at h
  · obtain rfl := Host.Outcome.next.inj h
    exact (tick_kept s).canon hs
  · next c rest _ =>
    obtain ⟨t', ht', hkept⟩ := exec_answers c { s with pending := rest }
    obtain rfl : t' = t := Host.Outcome.next.inj (ht'.symm.trans h)
    exact hkept.canon (hs.with_pending rest)

/-- Settles O45: the memories are empty, and no register and no poison mark stands. -/
theorem resetIsCanonical : Obligations.ResetIsCanonical := by
  unfold Obligations.ResetIsCanonical
  exact ⟨⟨empty_wf, empty_wf, empty_wf⟩, rfl, rfl⟩

/-- Settles O42: `step` takes the command at the front. -/
theorem stepRunsFrontCommand : Obligations.StepRunsFrontCommand := by
  unfold Obligations.StepRunsFrontCommand
  intro s c rest h
  rw [step, h]

theorem step_of_idle {s : State} (h : s.pending = []) : step s = .next (tick s) := by
  rw [step, h]

/-- R38: a period applies at most 10 ps of the correction. -/
theorem slewStep_bounds (left : Int) : -10 ≤ slewStep left ∧ slewStep left ≤ 10 := by
  rw [slewStep]
  omega

theorem slewStep_zero : slewStep 0 = 0 := rfl

/-- R37, R38: short of the wrap at 2^64 ns, the period's whole ns are added without loss. -/
theorem devTime_tick {s : State} (h0 : 0 ≤ s.time.slewAcc) (h1 : s.time.slewAcc < 1000)
    (hmax : s.time.devTime + 12 < 2 ^ 64) :
    ((tick s).time.devTime : Int) = s.time.devTime + 10 + (s.time.slewAcc + slewStep s.time.slewLeft) / 1000 := by
  obtain ⟨hlo, hhi⟩ := slewStep_bounds s.time.slewLeft
  show ((Int.toNat (s.time.devTime + 10 + (s.time.slewAcc + slewStep s.time.slewLeft) / 1000) % 2 ^ 64 : Nat) : Int) = _
  omega

/-- Settles O43: a period is `tick`, whose ns and ps together are the time before, 10 ns and the part of the correction
that it takes from what is left. -/
theorem idleStepIsOnePeriod : Obligations.IdleStepIsOnePeriod := by
  unfold Obligations.IdleStepIsOnePeriod
  intro s hidle h0 h1 hmax _
  obtain ⟨hlo, hhi⟩ := slewStep_bounds s.time.slewLeft
  have hdev := devTime_tick h0 h1 hmax
  have hleft : (tick s).time.slewLeft = s.time.slewLeft - slewStep s.time.slewLeft := rfl
  have hacc : (tick s).time.slewAcc = (s.time.slewAcc + slewStep s.time.slewLeft) % 1000 := rfl
  refine ⟨tick s, step_of_idle hidle, (tick_kept s).same, ?_, ?_, ?_, ?_, fun hzero => ?_, rfl, rfl, rfl⟩
  · omega
  · omega
  · omega
  · omega
  · rw [hzero, slewStep_zero] at hdev
    omega

end Sys2Proof.Machine

/-! SUPPORT. The sequencer of a tile (R60 to R65, R82): a word of unit 0 that is met, held or released. -/

namespace Sys2Proof.Machine

/-! ### One tile changes -/

@[simp] theorem State.setTile_setTile (s : State) (t : Nat) (x y : Tile) :
    (s.setTile t x).setTile t y = s.setTile t y := by
  simp only [State.setTile, tset_tset]

theorem State.modTile_eq (s : State) (t : Nat) (g : Tile → Tile) : s.modTile t g = s.setTile t (g (s.tile t)) := rfl

@[simp] theorem State.modTile_setTile (s : State) (t : Nat) (x : Tile) (g : Tile → Tile) :
    (s.setTile t x).modTile t g = s.setTile t (g x) := by
  rw [State.modTile_eq, State.tile_setTile_same, State.setTile_setTile]

theorem otherTiles_setTile (s : State) (t : Nat) (x : Tile) : otherTiles s (s.setTile t x) t :=
  fun _ hk => s.tile_setTile_ne x hk

theorem onlyTile_setTile (s : State) (t : Nat) (x : Tile) : onlyTile s (s.setTile t x) t :=
  ⟨(s.setTile_kept t x).same, otherTiles_setTile s t x⟩

/-! ### Tokens (R63) -/

@[simp] theorem Tile.takeToken_run (x : Tile) (w : CWord) : (x.takeToken w).run = x.run := by
  rw [Tile.takeToken]
  split <;> rfl

@[simp] theorem Tile.takeToken_pc (x : Tile) (w : CWord) : (x.takeToken w).pc = x.pc := by
  rw [Tile.takeToken]
  split <;> rfl

@[simp] theorem Tile.takeToken_loops (x : Tile) (w : CWord) : (x.takeToken w).loops = x.loops := by
  rw [Tile.takeToken]
  split <;> rfl

@[simp] theorem Tile.takeToken_sregs (x : Tile) (w : CWord) : (x.takeToken w).sregs = x.sregs := by
  rw [Tile.takeToken]
  split <;> rfl

@[simp] theorem Tile.sreg_takeToken (x : Tile) (w : CWord) (i : Nat) : (x.takeToken w).sreg i = x.sreg i := by
  rw [Tile.sreg, Tile.sreg, Tile.takeToken_sregs]

theorem Tile.token_congr {x y : Tile} (h : y.tokens = x.tokens) (k : Nat) : y.token k = x.token k := by
  rw [Tile.token, Tile.token, h]

/-- R63: a running tile with room in the token signals it. -/
theorem seqSignal_setTile (s : State) {t pc : Nat} {y : Tile} {w : CWord} (hrun : y.run = .running)
    (hroom : cwSigEn w = true → y.token (cwSigTok w) < 255) :
    seqSignal (s.setTile t y) t pc w = s.setTile t (y.signalled w) := by
  cases hsig : cwSigEn w with
  | false => simp [seqSignal, Tile.signalled, hsig]
  | true => simp [seqSignal, signalToken, Tile.signalled, hsig, hrun, hroom hsig]

/-! ### Issue of the word at the program counter (R60) -/

section

variable {s : State} {t u op : Nat} {w : CWord}

theorem issue_of_word (hrun : (s.tile t).run = .running) (hstall : (s.tile t).stall = .none)
    (hw : tfind? (s.tile t).cmdCache (s.tile t).pc = some w) (hunit : cwUnit w = u) (hop : cwOp w = op)
    (hknown : opKnown u op = true) (k : State → CWord → State) : issue s t u op k = k s w := by
  simp [issue, hrun, hstall, hw, hunit, hop, hknown]

theorem issue_of_missing (hrun : (s.tile t).run = .running) (hstall : (s.tile t).stall = .none)
    (hw : tfind? (s.tile t).cmdCache (s.tile t).pc = none) (k : State → CWord → State) :
    issue s t u op k = s.setTile t { s.tile t with stall := .fetch } := by
  simp [issue, hrun, hstall, hw, State.modTile_eq]

/-- R63: a word of unit 0 that is met takes its token and starts. -/
theorem issue_seqStart (h : wordAt s t 0 op w) (hknown : opKnown 0 op = true) (k : State → CWord → State) :
    issue s t 0 op (seqStart t k) = k (s.setTile t ((s.tile t).takeToken w)) w := by
  obtain ⟨hrun, hstall, hw, hunit, hop, htoken, hopen⟩ := h
  rw [issue_of_word hrun hstall hw hunit hop hknown]
  simp [seqStart, htoken, hopen]

theorem run_of_wordAt (h : wordAt s t u op w) : (s.tile t).run = .running := h.1

/-- R65: a word of unit 0 that completes at once. -/
theorem seqWord_of_wordAt (h : wordAt s t 0 op w) (hroom : tokenRoom (s.tile t) w) (hknown : opKnown 0 op = true)
    {g : Tile → CWord → Tile} (hrun : ∀ x w, (g x w).run = x.run) (htok : ∀ x w, (g x w).tokens = x.tokens) :
    seqWord s t op g = s.setTile t ((g ((s.tile t).takeToken w) w).signalled w) := by
  rw [seqWord, issue_seqStart h hknown, State.modTile_setTile]
  refine seqSignal_setTile s ?_ fun hsig => ?_
  · rw [hrun, Tile.takeToken_run, run_of_wordAt h]
  · rw [Tile.token_congr (htok _ w)]
    exact hroom hsig

theorem seqHold_of_wordAt (h : wordAt s t 0 op w) (hknown : opKnown 0 op = true) (st : CWord → Stall) :
    seqHold s t op st = s.setTile t { (s.tile t).takeToken w with stall := st w } := by
  rw [seqHold, issue_seqStart h hknown, State.modTile_setTile]

end

/-- R65: the row of a word that completes at once, from what the word does to the tile. -/
theorem scalarWord_of {i : Nat → Instr} {op : Nat} {g : State → CWord → Tile → Tile}
    (hexec : ∀ s t, exec (i t) s = .next (seqWord s t op (fun x w => g s w x))) (hknown : opKnown 0 op = true)
    (hrun : ∀ s w x, (g s w x).run = x.run) (htok : ∀ s w x, (g s w x).tokens = x.tokens) : scalarWord i op g := by
  intro s t w h hroom
  refine ⟨_, hexec s t, ?_⟩
  rw [seqWord_of_wordAt h hroom hknown (fun x w => hrun s w x) (fun x w => htok s w x)]
  exact ⟨onlyTile_setTile .., s.tile_setTile_same ..⟩

/-! ### Scalar words -/

/-- Settles O1: each of the five words completes at once, with its result in the tile. -/
theorem scalarWordsComplete : Obligations.ScalarWordsComplete := by
  unfold Obligations.ScalarWordsComplete
  refine ⟨scalarWord_of (fun _ _ => rfl) rfl ?_ ?_, scalarWord_of (fun _ _ => rfl) rfl ?_ ?_,
    scalarWord_of (fun _ _ => rfl) rfl ?_ ?_, scalarWord_of (fun _ _ => rfl) rfl ?_ ?_,
    scalarWord_of (fun _ _ => rfl) rfl ?_ ?_⟩ <;> simp

/-! ### Loops and branches -/

theorem Tile.advance_pc (x : Tile) : x.advance.pc = (afterWord x.loops x.pc).1 := rfl

theorem Tile.advance_loops (x : Tile) : x.advance.loops = (afterWord x.loops x.pc).2 := rfl

@[simp] theorem Tile.branch_run (x : Tile) (w : CWord) (b : Bool) : (x.branch w b).run = x.run := by
  cases b <;> rfl

@[simp] theorem Tile.branch_tokens (x : Tile) (w : CWord) (b : Bool) : (x.branch w b).tokens = x.tokens := by
  cases b <;> rfl

@[simp] theorem Tile.loop_run (x : Tile) (w : CWord) : (x.loop w).run = x.run := by
  rw [Tile.loop]
  split <;> rfl

@[simp] theorem Tile.loop_tokens (x : Tile) (w : CWord) : (x.loop w).tokens = x.tokens := by
  rw [Tile.loop]
  split <;> rfl

/-- R65: LOOP with a count of 0, or below four open levels, completes. -/
theorem exec_loop {s : State} {t : Nat} {w : CWord} (h : wordAt s t 0 0x04 w) (hroom : tokenRoom (s.tile t) w)
    (hdepth : (s.tile t).sreg (cwf w 92 4) = 0 ∨ (s.tile t).loops.length < 4) :
    exec (.loop t) s = .next (s.setTile t ((((s.tile t).takeToken w).loop w).signalled w)) := by
  have hfit : ¬ (4 ≤ (s.tile t).loops.length ∧ (s.tile t).sreg (cwf w 92 4) ≠ 0) := by omega
  show Host.Outcome.next (issue s t 0 0x04 (seqStart t _)) = _
  rw [issue_seqStart h rfl]
  simp only [State.tile_setTile_same, Tile.takeToken_loops, Tile.sreg_takeToken, if_neg hfit, State.modTile_setTile]
  rw [seqSignal_setTile]
  · rw [Tile.loop_run, Tile.takeToken_run, run_of_wordAt h]
  · intro hsig
    rw [Tile.token_congr (Tile.loop_tokens _ w)]
    exact hroom hsig

theorem scalarWord_branch {i : Nat → Instr} {op : Nat} {g : State → CWord → Tile → Tile} (taken : Tile → CWord → Bool)
    (hexec : ∀ s t, exec (i t) s = .next (seqWord s t op (fun x w => x.branch w (taken x w))))
    (hknown : opKnown 0 op = true) (hg : ∀ s w x, g s w x = x.branch w (taken x w)) : scalarWord i op g := by
  obtain rfl : g = fun _ w x => x.branch w (taken x w) := funext fun s => funext fun w => funext fun x => hg s w x
  exact scalarWord_of hexec hknown (fun _ _ _ => Tile.branch_run ..) (fun _ _ _ => Tile.branch_tokens ..)

/-- Settles O2: LOOP and the branches complete at once; the program goes on after the last word of a loop as `afterWord`
says. -/
theorem loopsAndBranchesComplete : Obligations.LoopsAndBranchesComplete := by
  unfold Obligations.LoopsAndBranchesComplete
  refine ⟨fun s t w h hroom hdepth => ⟨_, exec_loop h hroom hdepth, onlyTile_setTile .., s.tile_setTile_same ..⟩,
    scalarWord_branch (fun _ _ => true) (fun _ _ => rfl) rfl fun _ _ _ => rfl,
    scalarWord_branch (fun x w => x.sreg (cwf w 92 4) == 0) (fun _ _ => rfl) rfl fun _ w x => ?_,
    scalarWord_branch (fun x w => x.sreg (cwf w 92 4) != 0) (fun _ _ => rfl) rfl fun _ w x => ?_,
    fun x h => ?_, fun x l r h hlast => ?_, fun x l r h hlast hleft => ?_, fun x l r h hlast hleft => ?_⟩
  · by_cases hz : x.sreg (cwf w 92 4) = 0 <;> simp [Tile.branch, hz]
  · by_cases hz : x.sreg (cwf w 92 4) = 0 <;> simp [Tile.branch, hz]
  · simp [Tile.advance_pc, Tile.advance_loops, h, afterWord]
  · simp [Tile.advance_pc, Tile.advance_loops, h, afterWord, hlast]
  · simp [Tile.advance_pc, Tile.advance_loops, h, afterWord, hlast, hleft]
  · simp [Tile.advance_pc, Tile.advance_loops, h, afterWord, hlast, Nat.not_lt.2 hleft]

/-! ### A word that holds the sequencer is over (R65) -/

theorem State.tile_congr {s t : State} (h : Part.tiles.same s t) (k : Nat) : t.tile k = s.tile k := by
  rw [State.tile, State.tile, show t.tiles = s.tiles from h]

theorem Kept.tile_eq {ps : List Part} {s t : State} (h : Kept ps s t) (hp : ps.contains .tiles = false) (k : Nat) :
    t.tile k = s.tile k :=
  State.tile_congr (h.unchanged .tiles hp) k

/-- The launches that remain once one has ended are some of those before. -/
theorem launches_launchEnd_subset (s : State) (id : Nat) : (launchEnd s id).launches ⊆ s.launches := by
  rw [launchEnd]
  split
  · exact fun _ h => h
  · next l _ =>
    split
    · exact fun _ h => h
    · rw [show (finishDesc _ l.ctx l.ring l.abs _ _).launches = _ from (finishDesc_kept ..).unchanged .launches rfl]
      refine fun x hx => (List.mem_filter.1 (?_ : x ∈ s.launches.filter (fun x => x.id != id))).1
      split at hx
      · rwa [show (jointAddFor _ l.ctx _ 1 4).launches = _ from (jointAddFor_kept ..).unchanged .launches rfl] at hx
      · exact hx

/-- R371: the launch of a tile that leaves waits for it no more. -/
theorem not_mem_left_of_leaveLaunch {s : State} {t : Nat} {b : Bool} {l : Launch}
    (hl : l ∈ (leaveLaunch s t b).launches) (hid : l.id = (s.tile t).launch) : t ∉ l.left := by
  obtain ⟨x, -, rfl⟩ := List.mem_map.1 (launches_launchEnd_subset _ _ hl)
  by_cases hx : x.id = (s.tile t).launch
  · simp [hx]
  · rw [if_neg hx] at hid
    exact absurd hid hx

/-- R83: what a tile is once its program has ended where it stood. -/
theorem haltUnits_eq (s : State) (t : Nat) (run : TileRun) (halt : Bool) :
    haltUnits s t run halt = (dropTileWaits (dropKvUsers (dropHodReqs s t) t halt) t).setTile t { s.tile t with
      run := run, stall := .none, units := List.replicate 8 UnitQ.reset, loops := [], lastCtx := some (s.tile t).ctx,
      hod := { (s.tile t).hod with streams := [], descs := (s.tile t).hod.descs.filterMap ((s.tile t).hod.residue halt) } } := by
  have htile : (dropTileWaits (dropKvUsers (dropHodReqs s t) t halt) t).tile t = s.tile t :=
    ((((dropHodReqs_kept s t).weaken (ps := [.time, .kv, .joints]) rfl).step (dropKvUsers_kept ..) rfl).step
      (dropTileWaits_kept ..) rfl).tile_eq rfl t
  rw [haltUnits, State.modTile_eq, htile]

theorem otherTiles_haltUnits (s : State) (t : Nat) (run : TileRun) (halt : Bool) :
    otherTiles s (haltUnits s t run halt) t := fun k hk => by
  rw [haltUnits_eq, State.tile_setTile_ne _ _ hk]
  exact ((((dropHodReqs_kept s t).weaken (ps := [.time, .kv, .joints]) rfl).step (dropKvUsers_kept ..) rfl).step
      (dropTileWaits_kept ..) rfl).tile_eq rfl k

theorem leftLaunch_haltUnits (s : State) (t : Nat) (run : TileRun) (halt b : Bool) :
    leftLaunch s (leaveLaunch (haltUnits s t run halt) t b) t run := by
  have htile : ∀ k, (leaveLaunch (haltUnits s t run halt) t b).tile k = (haltUnits s t run halt).tile k :=
    (leaveLaunch_kept ..).tile_eq rfl
  have hlaunch : ((haltUnits s t run halt).tile t).launch = (s.tile t).launch := by
    rw [haltUnits_eq, State.tile_setTile_same]
  refine ⟨?_, ?_, ?_, ?_, ?_, ?_, ?_, ?_, fun l hl hid => not_mem_left_of_leaveLaunch hl (hid.trans hlaunch.symm),
    fun k hk => (htile k).trans (otherTiles_haltUnits s t run halt k hk)⟩ <;>
    rw [htile, haltUnits_eq, State.tile_setTile_same]

section

variable {s : State} {t : Nat} {w : CWord}

theorem seqRelease_eq (hrun : (s.tile t).run = .running) (hw : tfind? (s.tile t).cmdCache (s.tile t).pc = some w)
    (hroom : cwSigEn w = true → (s.tile t).token (cwSigTok w) < 255) :
    seqRelease s t = s.setTile t ((s.tile t).released w) := by
  rw [seqRelease, hw]
  exact seqSignal_setTile s hrun hroom

theorem exec_fenceRelease (h : heldAt s t .fence w) :
    exec (.fenceRelease t) s = .next (s.setTile t ((s.tile t).released w)) := by
  obtain ⟨hrun, hstall, hdrained, hw, hroom⟩ := h
  show Host.Outcome.next (if _ then _ else _) = _
  rw [if_pos (by simp [hrun, hstall, hdrained]), seqRelease_eq hrun hw hroom]

end

theorem Tile.released_pc (x : Tile) (w : CWord) : (x.released w).pc = (afterWord x.loops x.pc).1 := by
  rw [Tile.released, Tile.signalled]
  split <;> rfl

theorem Tile.released_loops (x : Tile) (w : CWord) : (x.released w).loops = (afterWord x.loops x.pc).2 := by
  rw [Tile.released, Tile.signalled]
  split <;> rfl

theorem Tile.released_tokens (x : Tile) (w : CWord) : (x.released w).tokens =
    if cwSigEn w then x.tokens.set (cwSigTok w) (x.token (cwSigTok w) + 1) else x.tokens := by
  rw [Tile.released, Tile.signalled]
  split <;> rfl

theorem Tile.released_stall (x : Tile) (w : CWord) : (x.released w).stall = .none := by
  rw [Tile.released, Tile.signalled]
  split <;> rfl

theorem Tile.released_split (x : Tile) (w : CWord) : (x.released w).split = x.split := by
  rw [Tile.released, Tile.signalled]
  split <;> rfl

theorem Tile.released_cache (x : Tile) (w : CWord) : (x.released w).cache = x.cache := by
  rw [Tile.released, Tile.signalled]
  split <;> rfl

/-! ### The split (R82) -/

/-- R371: the lines of the cache go; no other tile changes. -/
theorem flushCache_tile (s : State) (t : Nat) :
    (flushCache s t).tile t = { s.tile t with cache := [] } ∧ otherTiles s (flushCache s t) t := by
  have hwrites : ∀ k, ((s.tile t).cache.foldl (fun s' l => writeBack s' t (s.tile t).ctx l) s).tile k = s.tile k :=
    (Kept.foldl (ps := [.regs, .mem, .poison, .mortar]) (fun _ _ h => h.step (writeBack_kept ..) rfl)
      (.refl ..)).tile_eq rfl
  refine ⟨?_, fun k hk => ?_⟩
  · rw [flushCache, State.tile_modTile_same, hwrites]
  · rw [flushCache, State.tile_modTile_ne _ _ hk, hwrites]

/-- R82: what a change of the split does to its tile. -/
theorem convertSplit_tile (s : State) (t c : Nat) :
    (convertSplit s t c).tile t =
      { s.tile t with split := c, cache := if c < (s.tile t).split then [] else (s.tile t).cache } ∧
    otherTiles s (convertSplit s t c) t := by
  rw [convertSplit]
  by_cases h : c < (s.tile t).split
  · obtain ⟨htile, hother⟩ := flushCache_tile s t
    have hundef : ∀ x a n k, (State.undefine x a n).tile k = x.tile k := fun x a n => (x.undefine_kept a n).tile_eq rfl
    simp only [if_pos h]
    refine ⟨?_, fun k hk => ?_⟩
    · rw [hundef, State.tile_modTile_same, htile]
    · rw [hundef, State.tile_modTile_ne _ _ hk, hother k hk]
  · simp only [if_neg h]
    exact ⟨s.tile_modTile_same ..,  fun k hk => s.tile_modTile_ne _ hk⟩

theorem convertSplit_mem_of_le {s : State} {t c : Nat} (h : (s.tile t).split ≤ c) :
    (convertSplit s t c).mem = s.mem := by
  rw [convertSplit, if_neg (Nat.not_lt.2 h), if_neg (Nat.not_lt.2 h), State.modTile_mem]

theorem exec_splitComplete {s : State} {t c : Nat} {w : CWord} (h : heldAt s t (.split c) w) :
    exec (.splitComplete t) s =
      .next ((convertSplit s t c).setTile t (((convertSplit s t c).tile t).released w)) := by
  obtain ⟨hrun, hstall, hdrained, hw, hroom⟩ := h
  have htile := (convertSplit_tile s t c).1
  have hrel : seqRelease (convertSplit s t c) t =
      (convertSplit s t c).setTile t (((convertSplit s t c).tile t).released w) :=
    seqRelease_eq (by rw [htile]; exact hrun) (by rw [htile]; exact hw) (by rw [htile]; exact hroom)
  show execSplitComplete t s = _
  simp [execSplitComplete, hstall, hrun, hdrained, hrel]

/-- Settles O3: a word that holds the sequencer sets the tile's stall; the event that ends it finds the tile drained. -/
theorem sequencerHoldsComplete : Obligations.SequencerHoldsComplete := by
  unfold Obligations.SequencerHoldsComplete
  have hold : ∀ {s t op w} (st : CWord → Stall), wordAt s t 0 op w → opKnown 0 op = true →
      onlyTile s (seqHold s t op st) t ∧ (seqHold s t op st).tile t = { (s.tile t).takeToken w with stall := st w } :=
    fun {s t op w} st h hknown => by
      rw [seqHold_of_wordAt h hknown]
      exact ⟨onlyTile_setTile .., s.tile_setTile_same ..⟩
  refine ⟨fun s t w h => ⟨_, rfl, hold _ h rfl⟩, fun s t w h => ⟨_, rfl, hold _ h rfl⟩, fun s t w h => ⟨_, rfl, hold _ h rfl⟩,
    fun s t hrun hstall hdrained => ⟨tileHalt s t, ?_, leftLaunch_haltUnits ..⟩,
    fun s t w h => ⟨_, exec_fenceRelease h, onlyTile_setTile .., s.tile_setTile_same ..⟩,
    fun s t c w h => ⟨_, exec_splitComplete h, fun k hk => ?_, ?_⟩⟩
  · show Host.Outcome.next (if _ then _ else _) = _
    rw [if_pos (by simp [hrun, hstall, hdrained])]
  · rw [State.tile_setTile_ne _ _ hk, (convertSplit_tile s t c).2 k hk]
  · obtain ⟨htile, -⟩ := convertSplit_tile s t c
    rw [State.tile_setTile_same, htile]
    simp only [Tile.scratchBytes, Tile.released_split, Tile.released_stall, Tile.released_pc, Tile.released_loops,
      Tile.released_tokens, Tile.released_cache, State.setTile_mem]
    exact ⟨trivial, trivial, trivial, trivial, rfl, trivial, fun hlt => if_pos hlt,
      fun hle => ⟨if_neg (Nat.not_lt.2 hle), convertSplit_mem_of_le hle⟩⟩

end Sys2Proof.Machine

/-! SUPPORT. The words of units 1 to 6: issue, start, completion (R60 to R63, R75, R108, R121). -/

namespace Sys2Proof.Machine

/-! ### Issue (R60, R61) -/

theorem opKnown_of_unitCommand {t : Nat} : ∀ c ∈ unitCommands t, opKnown c.2.1 c.2.2 = true := by
  simp [unitCommands, opKnown]

theorem issueOrRetry_of_issues {s : State} {t u op : Nat} (h : (s.tile t).issues u op = true) :
    issueOrRetry s t u op = issueUnit s t u op := if_pos h

/-- HODCMO, TUPDATE and MBSEND try a waiting word again only when there is none to issue; the others always issue. -/
theorem exec_unitCommand {s : State} {t : Nat} : ∀ c ∈ unitCommands t, (s.tile t).issues c.2.1 c.2.2 = true →
    exec c.1 s = .next (issueUnit s t c.2.1 c.2.2) := by
  intro c hc h
  fin_cases hc <;> first | rfl | exact congrArg _ (issueOrRetry_of_issues h)

theorem Tile.issues_of_word {x : Tile} {u op : Nat} {w : CWord} (hstall : x.stall = .none)
    (hw : tfind? x.cmdCache x.pc = some w) (hunit : cwUnit w = u) (hop : cwOp w = op) : x.issues u op = true := by
  simp [Tile.issues, hstall, hw, hunit, hop]

theorem Tile.issues_of_missing {x : Tile} {u op : Nat} (hstall : x.stall = .none)
    (hw : tfind? x.cmdCache x.pc = none) : x.issues u op = true := by
  simp [Tile.issues, hstall, hw]

/-- R61: a word joins its unit's queue, or finds it full. -/
theorem place_eq (s : State) (t u : Nat) (w : CWord) : place t u s w =
    if ((s.tile t).unit u).queue.length < 16 then startUnit (s.setTile t ((s.tile t).placed u w)) t u
    else s.setTile t { s.tile t with stall := .queueFull } := by
  by_cases h : ((s.tile t).unit u).queue.length < 16
  · rw [if_pos h, place, if_neg (Nat.not_le.2 h)]
    rfl
  · rw [if_neg h, place, if_pos (Nat.not_lt.1 h)]
    rfl

/-- Settles O4: the row of a word of a unit issues it (`exec_unitCommand`), and the issue places it (`place_eq`). -/
theorem unitWordsJoinTheirQueue : Obligations.UnitWordsJoinTheirQueue := by
  unfold Obligations.UnitWordsJoinTheirQueue
  refine ⟨fun s t w c hc hrun hstall hw hunit hop => ⟨_, exec_unitCommand c hc (Tile.issues_of_word hstall hw hunit hop), ?_⟩,
    fun s t c hc hrun hstall hw => ⟨_, exec_unitCommand c hc (Tile.issues_of_missing hstall hw), issue_of_missing hrun hstall hw _⟩⟩
  rw [issueUnit, issue_of_word hrun hstall hw hunit hop (opKnown_of_unitCommand c hc), place_eq]

/-! ### Events of the sequencer and the units (R60, R61, R63) -/

theorem tfind?_eq_none_iff {α : Type} (c : Tbl α) (k : Nat) : tfind? c k = none ↔ thas c k = false := by
  simp [tfind?, thas]

theorem tfind?_filter {α : Type} (c : Tbl α) (p : Nat × α → Bool) {k : Nat} (h : ∀ e ∈ c, e.1 = k → p e = true) :
    tfind? (c.filter p) k = tfind? c k := by
  rw [tfind?, tfind?, List.find?_filter]
  refine congrArg _ (List.find?_congr fun e he => ?_)
  by_cases hk : e.1 = k <;> simp [hk, h e he]

/-- R60: the command cache holds the word at its place, and what stands at other places. -/
theorem tfind?_cacheWord (c : Tbl CWord) (a : Nat) (w : CWord) : tfind? (cacheWord c a w) a = some w ∧
    ∀ b, b % 1024 ≠ a % 1024 → tfind? (cacheWord c a w) b = tfind? c b := by
  refine ⟨by rw [cacheWord, tfind?_tset, if_pos rfl], fun b hb => ?_⟩
  have hne : b ≠ a := fun h => hb (by rw [h])
  rw [cacheWord, tfind?_tset, if_neg hne, tfind?_filter]
  rintro e - rfl
  simpa using hb

/-- R60: the fetch of a tile that waits for it returns. -/
theorem fetchFill_of_fetch {s : State} {t : Nat} (hrun : (s.tile t).run = .running)
    (hfetch : (s.tile t).stall = .fetch ∨ ((s.tile t).stall = .none ∧ tfind? (s.tile t).cmdCache (s.tile t).pc = none)) :
    let x := s.tile t
    let n := min 8 (2 ^ 20 - x.pc)
    let r := agentReadAll s x.ctx (x.image + 16 * x.pc) (16 * n) t
    s.stalled (x.image + 16 * x.pc) (16 * n) = false → r.1.ok = true → r.1.bad = [] →
    fetchFill s t false = r.2.modTile t (fun x => { x with stall := .none, cmdCache := (List.range n).foldl (fun c i =>
         cacheWord c (x.pc + i) (BitVec.ofNat 128 (fld r.1.data (16 * i) 16))) x.cmdCache }) := by
  intro x n r htrain hok hbad
  have hwaits : (x.stall == .fetch || (x.stall == .none && !thas x.cmdCache x.pc)) = true := by
    rcases hfetch with h | ⟨h, hmiss⟩
    · simp [x, h]
    · simp [x, h, (tfind?_eq_none_iff _ _).1 hmiss]
  have hgo : ¬ (x.run ≠ .running ∨ (!(x.stall == .fetch || (x.stall == .none && !thas x.cmdCache x.pc))) = true ∨
      s.stalled (x.image + 16 * x.pc) (16 * n) = true) := by
    simp [x, hrun, hwaits, htrain]
  have hread : ¬ ((false || !r.1.ok || !r.1.bad.isEmpty) = true) := by simp [hok, hbad]
  exact (if_neg hgo).trans (if_neg hread)

theorem stallRelease_of_room {s : State} {t : Nat} {w : CWord} (hrun : (s.tile t).run = .running)
    (hstall : (s.tile t).stall = .queueFull) (hw : tfind? (s.tile t).cmdCache (s.tile t).pc = some w)
    (hroom : ((s.tile t).unit (cwUnit w)).queue.length < 16) :
    stallRelease s t = startUnit (s.setTile t ((s.tile t).placed (cwUnit w) w)) t (cwUnit w) := by
  simp [stallRelease, hw, hrun, hstall, hroom, place_eq]

/-- R61, R63, R121: what the head of a queue finds when it may start. -/
abbrev headStarts (s : State) (t u : Nat) (q : QWord) (rest : List QWord) : Prop :=
  (s.tile t).run = .running ∧ ((s.tile t).unit u).queue = q :: rest ∧
  ((s.tile t).unit (slotOf u q.word)).active = none ∧ (s.tile t).tokenReady q.word = true ∧
  (s.tile t).hazard u q = false ∧ (u = 1 → matHazard (s.tile t) q.word = false) ∧ s.power.issueOpen = true

/-- The tile as the head `q` of the queue of unit `u` starts. -/
def Tile.headStarted (x : Tile) (u : Nat) (q : QWord) (rest : List QWord) : Tile :=
  let y := (x.takeToken q.word).setUnit u { x.unit u with queue := rest }
  y.setUnit (slotOf u q.word) { y.unit (slotOf u q.word) with active := some (q.running (x.latchOf u q.word)) }

/-- R61: the head of a queue that may start runs. -/
theorem startHead_of_head {s : State} {t u : Nat} {q : QWord} {rest : List QWord} (h : headStarts s t u q rest) :
    startHead s t u = settle t (slotOf u q.word) q.addr
      (runWord (s.setTile t ((s.tile t).headStarted u q rest)) t (q.running ((s.tile t).latchOf u q.word))) := by
  obtain ⟨hrun, hqueue, hidle, htoken, hfree, hmat, hopen⟩ := h
  simp only [startHead, hqueue]
  rw [if_neg (by simpa [hrun, hidle, htoken, hfree, hopen] using hmat)]
  rfl

theorem State.reg_lt (s : State) {off : Nat} (idx : Nat) (h : wordReset off < 2 ^ 32) : s.reg off idx < 2 ^ 32 := by
  rw [State.reg]
  split
  · exact BitVec.isLt _
  · exact h

theorem State.reg_orReg_same {s : State} (h : s.Canon) {off : Nat} (idx v : Nat) (hreset : wordReset off < 2 ^ 32) :
    (s.orReg off idx v).reg off idx = s.reg off idx ||| v % 2 ^ 32 := by
  rw [State.orReg, s.reg_setReg_same _ _ _ h.regs, Nat.or_mod_two_pow, Nat.mod_eq_of_lt (s.reg_lt idx hreset)]

/-- R109: the flags stand in the tile's word and in the context's. -/
theorem reg_raiseTile {s : State} (h : s.Canon) (t ctx f : Nat) :
    (raiseTile s t ctx f).reg 0x13014 t = s.reg 0x13014 t ||| f % 2 ^ 32 ∧
    (raiseTile s t ctx f).reg 0x14010 ctx = s.reg 0x14010 ctx ||| f % 2 ^ 32 := by
  by_cases hf : f = 0
  · simp [raiseTile, hf]
  · have htile : (s.orReg 0x13014 t f).Canon := ((s.setReg_kept 0x13014 t _).canon h)
    rw [raiseTile, if_neg hf, raiseCtx, if_neg hf]
    refine ⟨?_, ?_⟩
    · rw [State.orReg, State.reg_setReg_ne _ _ (regKey_ne_off (by decide)), State.reg_orReg_same h t f (by decide)]
    · rw [State.reg_orReg_same htile ctx f (by decide), State.orReg, State.reg_setReg_ne _ _ (regKey_ne_off (by decide))]

/-- Settles O5: each event of the sequencer and of the units finds its condition and acts. -/
theorem unitEventsComplete : Obligations.UnitEventsComplete := by
  unfold Obligations.UnitEventsComplete
  refine ⟨fun s t hrun hfetch => fun htrain hok hbad => ⟨_, rfl, fetchFill_of_fetch hrun hfetch htrain hok hbad⟩,
    fun s t w hrun hstall hw hroom => ⟨_, rfl, stallRelease_of_room hrun hstall hw hroom⟩,
    fun s t u q rest hrun hqueue hidle htoken hfree hmat hopen => ⟨_, rfl, ?_⟩,
    fun s t u a hrun hactive hover => ⟨completeWord s t u, rfl, _, rfl, ?_⟩,
    fun s t ctx f h => reg_raiseTile h t ctx f, fun c a w _ => tfind?_cacheWord c a w⟩
  · rintro v a y s1 rfl rfl rfl rfl
    rw [startUnit, startHead_of_head ⟨hrun, hqueue, hidle, htoken, hfree, hmat, hopen⟩]
    by_cases hu : u = 1
    · subst hu; rfl
    · simp only [if_neg hu]; rfl
  · simp only [completeWord, hactive]
    rw [if_neg (by simp [hrun, hover])]

/-! ### A word that starts as it is issued (R61, R63) -/

theorem Tile.unit_setUnit_same {x : Tile} {u : Nat} (h : u < x.units.length) (y : UnitQ) : (x.setUnit u y).unit u = y := by
  simp [Tile.unit, Tile.setUnit, List.getD_eq_getElem?_getD, h]

theorem Tile.unit_setUnit_ne {x : Tile} {u v : Nat} (h : v ≠ u) (y : UnitQ) : (x.setUnit u y).unit v = x.unit v := by
  simp [Tile.unit, Tile.setUnit, List.getD_eq_getElem?_getD, List.getElem?_set_ne (Ne.symm h)]

theorem Tile.setUnit_unit {x : Tile} {u : Nat} (h : u < x.units.length) : x.setUnit u (x.unit u) = x := by
  simp [Tile.unit, Tile.setUnit, List.getD_eq_getElem?_getD, h]

/-- The sequencer goes on behind a word that it has issued. -/
def Tile.issued (x : Tile) : Tile := { x.advance with stall := .none, issueSeq := x.issueSeq + 1 }

theorem Tile.issued_units (x : Tile) : x.issued.units = x.units := rfl

theorem Tile.placed_eq (x : Tile) (u : Nat) (w : CWord) : x.placed u w =
    x.issued.setUnit u { x.unit u with queue := (x.unit u).queue ++ [x.entryOf w] } := rfl

theorem Tile.unit_placed_same {x : Tile} {u : Nat} {w : CWord} (hu : u < x.units.length) :
    (x.placed u w).unit u = { x.unit u with queue := (x.unit u).queue ++ [x.entryOf w] } := by
  rw [Tile.placed_eq, Tile.unit_setUnit_same (x.issued_units.symm ▸ hu)]

theorem Tile.active_placed {x : Tile} {u : Nat} {w : CWord} (hu : u < x.units.length) (v : Nat) :
    ((x.placed u w).unit v).active = (x.unit v).active := by
  by_cases hv : v = u
  · rw [hv, Tile.unit_placed_same hu]
  · rw [Tile.placed_eq, Tile.unit_setUnit_ne hv]
    rfl

/-- The word that a free unit's empty queue takes is its head, and may start. -/
theorem headStarts_of_startsAt {s : State} {t u op : Nat} {w : CWord} (h : startsAt s t u op w) :
    headStarts (s.setTile t ((s.tile t).placed u w)) t u ((s.tile t).entryOf w) [] := by
  obtain ⟨⟨hrun, -, -, -, -, htoken, hopen⟩, hqueue, hidle, hu, -, hfree, hmat⟩ := h
  refine ⟨?_, ?_, ?_, ?_, ?_, ?_, hopen⟩ <;> rw [State.tile_setTile_same]
  · exact hrun
  · rw [Tile.unit_placed_same hu, hqueue]
    rfl
  · rw [Tile.active_placed hu]
    exact hidle
  · exact htoken
  · exact hfree
  · exact hmat

theorem Tile.takeToken_setUnit (x : Tile) (u : Nat) (y : UnitQ) (w : CWord) :
    (x.setUnit u y).takeToken w = (x.takeToken w).setUnit u y := by
  rw [Tile.takeToken, Tile.takeToken]
  split <;> rfl

theorem Tile.takeToken_issued (x : Tile) (w : CWord) : x.issued.takeToken w = (x.takeToken w).issued := by
  rw [Tile.takeToken, Tile.takeToken]
  split <;> rfl

theorem Tile.units_takeToken (x : Tile) (w : CWord) : (x.takeToken w).units = x.units := by
  rw [Tile.takeToken]
  split <;> rfl

theorem Tile.issueSeq_takeToken (x : Tile) (w : CWord) : (x.takeToken w).issueSeq = x.issueSeq := by
  rw [Tile.takeToken]
  split <;> rfl

theorem Tile.setUnit_setUnit (x : Tile) (u : Nat) (y z : UnitQ) : (x.setUnit u y).setUnit u z = x.setUnit u z := by
  simp [Tile.setUnit]

theorem Tile.unit_congr {x y : Tile} (h : x.units = y.units) (u : Nat) : x.unit u = y.unit u := by
  rw [Tile.unit, Tile.unit, h]

theorem Tile.started_eq (x : Tile) (u : Nat) (w : CWord) : x.started u w =
    (x.takeToken w).issued.setUnit (slotOf u w)
      { (x.takeToken w).issued.unit (slotOf u w) with active := some ((x.entryOf w).running (x.latchOf u w)) } := by
  rw [Tile.started, Tile.issued, Tile.issueSeq_takeToken]

/-- The queue is empty again as the word runs. -/
theorem Tile.headStarted_placed {x : Tile} {u : Nat} {w : CWord} (hu : u < x.units.length) (hqueue : (x.unit u).queue = []) :
    (x.placed u w).headStarted u (x.entryOf w) [] = x.started u w := by
  have hempty : { x.unit u with queue := [] } = (x.takeToken w).issued.unit u := by
    rw [← hqueue, Tile.unit_congr (Tile.issued_units _), Tile.unit_congr (x.units_takeToken w)]
  have hunits : ((x.placed u w).takeToken w).setUnit u { (x.placed u w).unit u with queue := [] } =
      (x.takeToken w).issued := by
    rw [Tile.unit_placed_same hu, Tile.placed_eq, Tile.takeToken_setUnit, Tile.takeToken_issued, Tile.setUnit_setUnit, hempty,
      Tile.setUnit_unit (by rw [Tile.issued_units, Tile.units_takeToken]; exact hu)]
  have hlatch : (x.placed u w).latchOf u w = x.latchOf u w := rfl
  have hw : (x.entryOf w).word = w := rfl
  rw [Tile.headStarted, hw, hunits, hlatch, Tile.started_eq]

/-- What runs of the word `w` of unit `u` that is issued at the program counter of `x`. -/
def Tile.runs (x : Tile) (u : Nat) (w : CWord) : Active := (x.entryOf w).running (x.latchOf u w)

/-- R61, R63: a word that is met where it can start is issued, starts, and runs. -/
theorem issueUnit_of_startsAt {s : State} {t u op : Nat} {w : CWord} (h : startsAt s t u op w) (hknown : opKnown u op = true) :
    issueUnit s t u op =
      let s1 := settle t (slotOf u w) (s.tile t).pc (runWord (s.started t u w) t ((s.tile t).runs u w))
      if u = 1 then startHead s1 t 1 else s1 := by
  have hstarts := headStarts_of_startsAt h
  obtain ⟨⟨hrun, hstall, hw, hunit, hop, -⟩, hqueue, -, hu, -⟩ := h
  rw [issueUnit, issue_of_word hrun hstall hw hunit hop hknown, place_eq, if_pos (by simp [hqueue]), startUnit,
    startHead_of_head hstarts, State.setTile_setTile, State.tile_setTile_same, Tile.headStarted_placed hu hqueue]
  by_cases h1 : u = 1
  · subst h1; rfl
  · simp only [if_neg h1]; rfl

theorem startHead_of_empty {s : State} {t u : Nat} (h : ((s.tile t).unit u).queue = []) : startHead s t u = s := by
  rw [startHead]
  simp only [h]

theorem Tile.queue_finish (x : Tile) (u f v : Nat) : ((x.finish u f).unit v).queue = (x.unit v).queue := by
  by_cases hv : v = u
  · subst hv
    by_cases hlen : v < x.units.length
    · rw [Tile.finish, Tile.modActive, Tile.unit_setUnit_same hlen]
    · simp [Tile.finish, Tile.modActive, Tile.setUnit, Tile.unit, List.getD_eq_getElem?_getD, hlen]
  · rw [Tile.finish, Tile.modActive, Tile.unit_setUnit_ne hv]

theorem Tile.queue_started {x : Tile} {u : Nat} {w : CWord} (h : slotOf u w < x.units.length) (v : Nat) :
    ((x.started u w).unit v).queue = (x.unit v).queue := by
  have hunits : (x.takeToken w).issued.units = x.units := by rw [Tile.issued_units, Tile.units_takeToken]
  rw [Tile.started_eq]
  by_cases hv : v = slotOf u w
  · rw [hv, Tile.unit_setUnit_same (hunits ▸ h)]
    show ((x.takeToken w).issued.unit (slotOf u w)).queue = _
    rw [Tile.unit_congr hunits]
  · rw [Tile.unit_setUnit_ne hv]
    exact congrArg UnitQ.queue (Tile.unit_congr hunits _)

/-- The word `a` begins on its part of unit `u`: it stands there, and but for a matrix word holds nothing yet. -/
abbrev Tile.begins (x : Tile) (u : Nat) (a : Active) : Prop :=
  (x.unit (slotOf u a.word)).active = some a ∧ (u ≠ 1 → a.latch = [])

theorem Tile.begins_started {x : Tile} {u : Nat} {w : CWord} (h : slotOf u w < x.units.length) :
    (x.started u w).begins u (x.runs u w) := by
  have hunits : (x.takeToken w).issued.units = x.units := by rw [Tile.issued_units, Tile.units_takeToken]
  refine ⟨?_, fun hu => if_neg hu⟩
  rw [Tile.started_eq]
  exact congrArg UnitQ.active (Tile.unit_setUnit_same (hunits ▸ h) _)

theorem State.tile_started (s : State) (t u : Nat) (w : CWord) : (s.started t u w).tile t = (s.tile t).started u w :=
  s.tile_setTile_same t _

section

variable {i : Nat → Instr} {u op : Nat} {ok : State → Nat → CWord → Prop}

/-- The row of a word that runs up to its completion, from what its unit does with it as it runs. A word of the matrix
unit leaves the unit's queue as it was. -/
theorem unitWord_of_runWord {g : State → Nat → CWord → State × Nat}
    (hword : ∀ s t a, cwOp a.word = op → (s.tile t).begins u a → ok s t a.word →
      runWord s t a = .done (g s t a.word).1 (g s t a.word).2)
    (hrow : ∀ t, (i t, u, op) ∈ unitCommands t := by simp [unitCommands])
    (hqueue : u = 1 → ∀ s t w, ok s t w → (((g s t w).1.tile t).unit 1).queue = ((s.tile t).unit 1).queue := by nofun) :
    unitWord i u op ok g := by
  intro s t w h hok
  have hexec := exec_unitCommand (s := s) _ (hrow t) (Tile.issues_of_word h.1.2.1 h.1.2.2.1 h.1.2.2.2.1 h.1.2.2.2.2.1)
  refine ⟨_, hexec, ?_⟩
  rw [issueUnit_of_startsAt h (opKnown_of_unitCommand _ (hrow t))]
  obtain ⟨⟨-, -, -, -, hop, -⟩, hempty, -, -, hslot, -⟩ := h
  have hrun := hword (s.started t u w) t ((s.tile t).runs u w) hop
    (by rw [State.tile_started]; exact Tile.begins_started hslot) hok
  rw [hrun]
  by_cases h1 : u = 1
  · subst h1
    refine (if_pos rfl).trans (startHead_of_empty ?_)
    have hkept := hqueue rfl _ _ _ hok
    rw [settle, State.tile_modTile_same, Tile.queue_finish]
    exact (hkept.trans (by rw [State.tile_started, Tile.queue_started hslot])).trans hempty
  · exact if_neg h1

/-- The same, of a word that runs alike wherever its unit holds it. -/
theorem unitWord_of {g : State → Nat → CWord → State × Nat} (word : State → Nat → CWord → WOut)
    (hword : ∀ s t w, ok s t w → word s t w = .done (g s t w).1 (g s t w).2)
    (hrow : ∀ t, (i t, u, op) ∈ unitCommands t := by simp [unitCommands])
    (hop : ∀ s t a, cwOp a.word = op → runWord s t a = word s t a.word := by intro s t a h; simp [runWord, h])
    (hqueue : u = 1 → ∀ s t w, ok s t w → (((g s t w).1.tile t).unit 1).queue = ((s.tile t).unit 1).queue := by nofun) :
    unitWord i u op ok g :=
  unitWord_of_runWord (fun s t a h _ hok => (hop s t a h).trans (hword s t a.word hok)) hrow hqueue

/-- The row of a word that starts and waits in its unit, from what its unit does with it as it starts. -/
theorem unitWaits_of_runWord {g : State → Nat → CWord → State}
    (hword : ∀ s t a, cwOp a.word = op → (s.tile t).begins u a → ok s t a.word → runWord s t a = .wait (g s t a.word))
    (hu : u ≠ 1 := by decide) (hrow : ∀ t, (i t, u, op) ∈ unitCommands t := by simp [unitCommands]) :
    unitWaits i u op ok g := by
  intro s t w h hok
  have hexec := exec_unitCommand (s := s) _ (hrow t) (Tile.issues_of_word h.1.2.1 h.1.2.2.1 h.1.2.2.2.1 h.1.2.2.2.2.1)
  refine ⟨_, hexec, ?_⟩
  rw [issueUnit_of_startsAt h (opKnown_of_unitCommand _ (hrow t))]
  obtain ⟨⟨-, -, -, -, hop, -⟩, -, -, -, hslot, -⟩ := h
  have hrun := hword (s.started t u w) t ((s.tile t).runs u w) hop
    (by rw [State.tile_started]; exact Tile.begins_started hslot) hok
  rw [hrun]
  exact if_neg hu

/-- The same, of a word that starts alike wherever its unit holds it. -/
theorem unitWaits_of {g : State → Nat → CWord → State} (word : State → Nat → CWord → WOut)
    (hword : ∀ s t w, ok s t w → word s t w = .wait (g s t w)) (hu : u ≠ 1 := by decide)
    (hrow : ∀ t, (i t, u, op) ∈ unitCommands t := by simp [unitCommands])
    (hop : ∀ s t a, cwOp a.word = op → runWord s t a = word s t a.word := by intro s t a h; simp [runWord, h]) :
    unitWaits i u op ok g :=
  unitWaits_of_runWord (fun s t a h _ hok => (hop s t a h).trans (hword s t a.word hok)) hu hrow

end

end Sys2Proof.Machine

/-! SUPPORT. Which words of the register map an operation may change: accesses of agents, records, adds to joints. -/

namespace Sys2Proof.Machine

/-- But for the words at the offsets `offs`, no word of the register map differs. -/
structure RegsBut (offs : List Nat) (s t : State) : Prop where
  same : ∀ o i, o < 0x4000000 → o ∉ offs → t.reg o i = s.reg o i

theorem RegsBut.refl {offs : List Nat} {s : State} : RegsBut offs s s := ⟨fun _ _ _ _ => rfl⟩

theorem RegsBut.trans {offs : List Nat} {s t u : State} (h : RegsBut offs s t) (k : RegsBut offs t u) : RegsBut offs s u :=
  ⟨fun o i ho hoff => (k.same o i ho hoff).trans (h.same o i ho hoff)⟩

theorem RegsBut.mono {offs more : List Nat} {s t : State} (h : RegsBut offs s t) (hsub : offs ⊆ more) : RegsBut more s t :=
  ⟨fun o i ho hoff => h.same o i ho (fun hm => hoff (hsub hm))⟩

theorem State.reg_congr {s t : State} (h : t.regs = s.regs) (o i : Nat) : t.reg o i = s.reg o i := by
  rw [State.reg, State.reg, h]

theorem RegsBut.of_regs {offs : List Nat} {s t : State} (h : t.regs = s.regs) : RegsBut offs s t :=
  ⟨fun o i _ _ => State.reg_congr h o i⟩

/-- What came before did not change the registers. -/
theorem RegsBut.after {offs : List Nat} {s t u : State} (h : RegsBut offs t u) (hregs : t.regs = s.regs) : RegsBut offs s u :=
  (RegsBut.of_regs hregs).trans h

/-- An operation that does not change the registers. -/
theorem Kept.regsBut {ps : List Part} {offs : List Nat} {s t : State} (h : Kept ps s t)
    (hps : ps.contains Part.regs = false) : RegsBut offs s t := .of_regs (h.unchanged .regs hps)

theorem RegsBut.setReg {offs : List Nat} (s : State) {off : Nat} (idx v : Nat) (hoff : off < 0x4000000) (hmem : off ∈ offs) :
    RegsBut offs s (s.setReg off idx v) := by
  refine ⟨fun o i ho hnot => ?_⟩
  have hne : o ≠ off := fun h => hnot (h ▸ hmem)
  exact s.reg_setReg_ne v (regKey_ne_off (by rw [Nat.mod_eq_of_lt hoff, Nat.mod_eq_of_lt ho]; exact Ne.symm hne))

theorem RegsBut.bump {offs : List Nat} (s : State) {off : Nat} (idx n : Nat) (hoff : off < 0x4000000) (hmem : off ∈ offs) :
    RegsBut offs s (s.bump off idx n) := .setReg s idx _ hoff hmem

/-- A counter that starts at 0 reads as counted. -/
theorem State.reg_bump_same (s : State) {off : Nat} (idx : Nat) (h : wordReset off = 0) :
    (s.bump off idx 1).reg off idx = satAdd32 (s.reg off idx) 1 := by
  have hlt : s.reg off idx < 2 ^ 32 := s.reg_lt idx (by omega)
  have hval : satAdd32 (s.reg off idx) 1 % 2 ^ 32 = satAdd32 (s.reg off idx) 1 := Nat.mod_eq_of_lt (by unfold satAdd32; omega)
  rw [State.bump, State.reg_setReg_set _ _ _ _ (by rw [hval, h]; unfold satAdd32; omega), hval]

theorem RegsBut.foldl {α : Type} {offs : List Nat} {f : State → α → State} (h : ∀ s a, RegsBut offs s (f s a)) (l : List α)
    (s : State) : RegsBut offs s (l.foldl f s) := by
  induction l generalizing s with
  | nil => exact .refl
  | cons a r ih => exact (h s a).trans (ih (f s a))

theorem RegsBut.ite {offs : List Nat} {p : Prop} [Decidable p] {s t u : State} (ht : RegsBut offs s t) (hu : RegsBut offs s u) :
    RegsBut offs s (if p then t else u) := by
  split
  · exact ht
  · exact hu

/-! ### Accesses of agents (R24, R186, R187) -/

/-- The counts of an agent's write: partial writes, address errors, and codewords that read as poisoned. -/
def accessRegs : List Nat := [0x1024, 0x10020, 0x17018, 0x1701C]

theorem regsBut_logErr {offs : List Nat} (s : State) (ch kind cw : Nat) : RegsBut offs s (logErr s ch kind cw) := by
  rw [logErr]
  exact .ite (.of_regs rfl) (.of_regs rfl)

theorem regsBut_noteBad (ch : Nat) (s : State) (cw : Nat) : RegsBut accessRegs s (noteBad ch s cw) := by
  rw [noteBad]
  exact .ite ((RegsBut.bump s ch 1 (by decide) (by decide)).trans (regsBut_logErr ..))
    ((RegsBut.bump s ch 1 (by decide) (by decide)).trans (regsBut_logErr ..))

theorem regsBut_decodeClean (s : State) (a n : Nat) : RegsBut accessRegs s (s.decodeClean a n).2 :=
  .foldl (regsBut_noteBad _) _ _

theorem regsBut_noteProt (s : State) (ctx page : Nat) : RegsBut accessRegs s (s.noteProt ctx page) := by
  have h := regsBut_decodeClean s ((s.ctx ctx).protAddr page) 1
  rw [State.noteProt]
  exact .ite .refl (.ite (h.trans (.of_regs rfl)) h)

theorem regsBut_addrError (s : State) (ctx : Nat) : RegsBut accessRegs s (s.addrError ctx) := by
  rw [State.addrError]
  exact .ite .refl (.bump s ctx 1 (by decide) (by decide))

theorem regsBut_writeBrick (s : State) (a : Nat) (bs : List Byte) (bad : List Nat) :
    RegsBut accessRegs s (s.writeBrick a bs bad) := by
  have hread : ∀ (l : List Nat) (acc : List Nat × State), RegsBut accessRegs acc.2
      (l.foldl (fun (acc : List Nat × State) c => (acc.1 ++ (acc.2.decodeClean (32 * c) 32).1, (acc.2.decodeClean (32 * c) 32).2))
        acc).2 := by
    intro l
    induction l with
    | nil => exact fun acc => .refl
    | cons c r ih =>
      intro acc
      rw [List.foldl_cons]
      refine .trans ?_ (ih _)
      exact regsBut_decodeClean acc.2 (32 * c) 32
  exact (hread (partWords a bs.length) ([], s)).trans ((State.storeBrick_kept ..).regsBut rfl)

theorem regsBut_postWords (n : Nat) (s : State) (m off : Nat) (bs : List Byte) :
    RegsBut accessRegs s (postWords n s m off bs) := by
  induction n generalizing s off bs with
  | zero => exact .refl
  | succ n ih =>
    rw [postWords]
    refine .ite (.bump s 0 _ (by decide) (by decide)) (RegsBut.trans ?_ (ih ..))
    exact .of_regs rfl

theorem regsBut_putBytes (s : State) (ctx a : Nat) (bs : List Byte) (bad : List Nat) :
    RegsBut accessRegs s (s.putBytes ctx a bs bad) := by
  rw [State.putBytes]
  split
  · exact regsBut_writeBrick ..
  · exact .of_regs rfl
  · rw [postRegs]
    exact .ite (.of_regs rfl) (regsBut_postWords ..)
  · exact .ite .refl (.of_regs rfl)
  · exact .refl

theorem regsBut_agentWrite (s : State) (ctx a : Nat) (bs : List Byte) (bad : List Nat) (e : Nat) :
    RegsBut accessRegs s (agentWrite s ctx a bs bad e).2 := by
  have hprot : RegsBut accessRegs s (if addrKind a = .brick then s.noteProt ctx (a / 0x200000) else s) :=
    .ite (regsBut_noteProt ..) .refl
  rw [agentWrite]
  split
  · exact hprot.trans (((State.sendFlits_kept ..).regsBut rfl).trans (regsBut_putBytes ..))
  · exact hprot.trans (regsBut_addrError ..)

/-! ### Records (R365, R366) -/

/-- The words that the record of an event or a descriptor may change: the counts of its write, and those of a lost event. -/
def recordRegs : List Nat := [0x1024, 0x10020, 0x17018, 0x1701C, 0x1F024, 0x1F028]

theorem regsBut_setCRing {offs : List Nat} (s : State) (c q : Nat) (x : CRing) : RegsBut offs s (s.setCRing c q x) :=
  .of_regs rfl

theorem regsBut_writeRecord (s : State) (ctx q : Nat) (bs : List Byte) (raise : Bool) :
    RegsBut accessRegs s (writeRecord s ctx q bs raise) := by
  have hraise : ∀ u v, RegsBut accessRegs u (if raise then raiseVector u ctx v else u) :=
    fun u v => .ite ((raiseVector_kept ..).regsBut rfl) .refl
  simp only [writeRecord]
  refine .trans ?_ (hraise ..)
  exact .trans (.trans (regsBut_agentWrite ..) (regsBut_setCRing ..)) (regsBut_agentWrite ..)

theorem regsBut_postEvent (s : State) (ctx q : Nat) (bs : List Byte) : RegsBut recordRegs s (postEvent s ctx q bs) := by
  rw [postEvent]
  refine .ite ((regsBut_writeRecord ..).mono (by decide)) (.ite (.of_regs rfl) ?_)
  exact (RegsBut.setReg s ctx _ (by decide) (by decide)).trans (.bump _ ctx 1 (by decide) (by decide))

/-- R55: a miss is counted once; its record changes no word but those of `recordRegs`. -/
theorem reg_missRecord (s : State) (ctx ring qkind queue tag deadline who : Nat) :
    (missRecord s ctx ring qkind queue tag deadline who).reg 0x1201C 0 = satAdd32 (s.reg 0x1201C 0) 1 ∧
    RegsBut (0x1201C :: recordRegs) s (missRecord s ctx ring qkind queue tag deadline who) := by
  have hevent := regsBut_postEvent s ctx ring
    (eventRecord 0x22 0 0 qkind ctx queue tag (0x0A000000 + who) deadline s.now)
  refine ⟨?_, (hevent.mono (List.subset_cons_self _ _)).trans (.bump _ 0 1 (by decide) (by decide))⟩
  rw [missRecord, State.reg_bump_same _ _ (by decide), hevent.same 0x1201C 0 (by decide) (by decide)]

/-! ### Ends of descriptors and launches (R363, R371, R378) -/

/-- The words that the end of a descriptor or a launch may change: those of its record, and the count of discarded adds. -/
def endRegs : List Nat := [0x1024, 0x10020, 0x17018, 0x1701C, 0x1F024, 0x1F028, 0x1F058]

theorem regsBut_emitDesc (s : State) (ctx q : Nat) (d : Desc) : RegsBut endRegs s (emitDesc s ctx q d) := by
  rw [emitDesc]
  refine .ite (.trans ((regsBut_writeRecord ..).mono (by decide)) ((State.dropDesc_kept ..).regsBut rfl)) (.ite ?_ .refl)
  exact .of_regs rfl

theorem regsBut_sweepRing (n : Nat) (s : State) (ctx q : Nat) : RegsBut endRegs s (sweepRing n s ctx q) := by
  induction n generalizing s with
  | zero => exact .refl
  | succ n ih =>
    simp only [sweepRing]
    split
    · exact .refl
    · exact .ite (regsBut_emitDesc ..) ((regsBut_emitDesc ..).trans (ih ..))

theorem regsBut_finishDesc (s : State) (ctx q abs status detail : Nat) :
    RegsBut endRegs s (finishDesc s ctx q abs status detail) :=
  ((State.modDesc_kept ..).regsBut rfl).trans (regsBut_sweepRing ..)

theorem regsBut_rawAddFor (s : State) (ctx j n cause : Nat) : RegsBut endRegs s (rawAddFor s ctx j n cause) := by
  rw [rawAddFor]
  exact .ite (.of_regs rfl) (.bump s 0 1 (by decide) (by decide))

theorem regsBut_leaveGo (s : State) (ctx : Nat) : RegsBut endRegs s (leaveGo s ctx) := by
  rw [leaveGo]
  exact (regsBut_rawAddFor ..).after rfl

theorem regsBut_contLook (s : State) (ctx : Nat) : RegsBut endRegs s (contLook s ctx) := by
  rw [contLook]
  exact .trans (.ite (regsBut_leaveGo s ctx) .refl) (.ite ((enterPrepared_kept ..).regsBut rfl) .refl)

theorem regsBut_contWatch (s : State) : RegsBut endRegs s (contWatch s) := by
  rw [contWatch]
  refine .foldl (fun u c => ?_) _ _
  exact regsBut_contLook u c.1

theorem regsBut_jointAddFor (s : State) (ctx j n cause : Nat) : RegsBut endRegs s (jointAddFor s ctx j n cause) :=
  (regsBut_rawAddFor ..).trans (regsBut_contWatch _)

theorem regsBut_launchEnd (s : State) (id : Nat) : RegsBut endRegs s (launchEnd s id) := by
  rw [launchEnd]
  split
  · exact .refl
  · refine .ite .refl (.trans (.ite ?_ ?_) (regsBut_finishDesc ..))
    · exact (regsBut_jointAddFor ..).after rfl
    · exact .of_regs rfl

theorem regsBut_leaveLaunch (s : State) (t : Nat) (b : Bool) : RegsBut endRegs s (leaveLaunch s t b) := by
  rw [leaveLaunch]
  exact (regsBut_launchEnd ..).after rfl

end Sys2Proof.Machine

/-! SUPPORT. WAIT (R66, R67, R55) and the joint words of a tile (R377 to R381). -/

namespace Sys2Proof.Machine

/-! ### A WAIT that starts, and one that ends (R66) -/

theorem waitWord_of_holds {s : State} {t : Nat} {w : CWord} (hfault : waitFault s t w = none)
    (h : waitHolds s t w ((s.tile t).sreg (cwf w 74 4)) = true) : waitWord s t w = .done s 0 := by
  simp [waitWord, hfault, h]

theorem waitWord_of_not_holds {s : State} {t : Nat} {w : CWord} (hfault : waitFault s t w = none)
    (h : waitHolds s t w ((s.tile t).sreg (cwf w 74 4)) = false) : waitWord s t w = .wait
      (let v := (s.tile t).sreg (cwf w 74 4)
       let s1 := s.modTile t (fun x => x.modActive 6 (fun a => { a with latch := [v, x.sreg (cwf w 70 4)] }))
       if waKind w = 0 then addWait s1 (waObject w) (.tile t) (.ge v) else s1) := by
  simp [waitWord, hfault, h]

theorem waitOver_of_holds {s : State} {t : Nat} {a : Active} (ha : (s.tile t).waitActive = some a)
    (h : waitHolds s t a.word (a.latch.getD 0 0) = true) :
    waitOver s t = (dropTileWaits s t).setTile t ((s.tile t).finish 6 0) := by
  have htile : (dropTileWaits s t).tile t = s.tile t := (dropTileWaits_kept s t).tile_eq rfl t
  simp only [waitOver, ha]
  rw [if_pos h, State.modTile_eq, htile]

theorem waits_dropTileWaits {s : State} {t : Nat} {e : Nat × Joint} (he : e ∈ (dropTileWaits s t).joints) :
    ∀ p ∈ e.2.waits, p.1 ≠ JWho.tile t := by
  obtain ⟨j, -, rfl⟩ := List.mem_map.1 he
  intro p hp
  simpa using (List.mem_filter.1 hp).2

/-! ### A WAIT that misses its need-by time (R55, R67) -/

/-- The state once the miss of the WAIT `a` is recorded, and the late requests of its stream are marked. -/
def waitMissed (s : State) (t : Nat) (a : Active) : State :=
  let n := missNames s t a
  let k := waKind a.word
  let s1 := missRecord s (s.tile t).ctx 0 (if k = 1 then 1 else if k = 2 then 3 else 4) (waObject a.word) n.1 n.2 t
  if k = 1 then markLate s1 t (waObject a.word) (a.latch.getD 0 0) else s1

theorem markLate_tile (s : State) (t n v : Nat) :
    (∃ h, (markLate s t n v).tile t = { s.tile t with hod := h }) ∧ otherTiles s (markLate s t n v) t := by
  obtain ⟨g, hg⟩ : ∃ g : Hod → Hod, ∀ k, (markLate s t n v).tile k =
      (s.modTile t (fun x => { x with hod := g x.hod })).tile k :=
    ⟨fun h => { h with descs := h.descs.map (fun d =>
      if ((lateDescs (s.tile t) n v).map (fun d => d.id)).contains d.id then { d with late := true } else d) }, fun _ => rfl⟩
  exact ⟨⟨_, (hg t).trans (State.tile_modTile_same ..)⟩, fun k hk => (hg k).trans (State.tile_modTile_ne _ _ hk)⟩

theorem markLate_ite_tile {s u : State} {p : Prop} [Decidable p] (hu : ∀ k, u.tile k = s.tile k) (t n v : Nat) :
    (∃ h, (if p then markLate u t n v else u).tile t = { s.tile t with hod := h }) ∧
    otherTiles s (if p then markLate u t n v else u) t := by
  obtain ⟨⟨h, htile⟩, hother⟩ := markLate_tile u t n v
  split
  · exact ⟨⟨h, by rw [htile, hu]⟩, fun k hk => (hother k hk).trans (hu k)⟩
  · exact ⟨⟨_, hu t⟩, fun k _ => hu k⟩

theorem waitMissed_tile (s : State) (t : Nat) (a : Active) :
    (∃ h, (waitMissed s t a).tile t = { s.tile t with hod := h }) ∧ otherTiles s (waitMissed s t a) t :=
  markLate_ite_tile (fun k => (missRecord_kept ..).tile_eq rfl k) t _ _

theorem waitMissed_reg (s : State) (t : Nat) (a : Active) :
    (waitMissed s t a).reg 0x1201C 0 = satAdd32 (s.reg 0x1201C 0) 1 ∧
    RegsBut (0x1201C :: recordRegs) s (waitMissed s t a) := by
  have hmark : ∀ u v, RegsBut [] u (if waKind a.word = 1 then markLate u t (waObject a.word) v else u) :=
    fun u v => .ite ((markLate_kept ..).regsBut rfl) .refl
  obtain ⟨hcount, hbut⟩ := reg_missRecord s (s.tile t).ctx 0 (if waKind a.word = 1 then 1 else if waKind a.word = 2 then 3 else 4)
    (waObject a.word) (missNames s t a).1 (missNames s t a).2 t
  exact ⟨((hmark ..).same _ _ (by decide) (by decide)).trans hcount, hbut.trans ((hmark ..).mono (by simp))⟩

theorem waitMiss_of_missed {s : State} {t : Nat} {a : Active} (ha : (s.tile t).waitActive = some a)
    (hrt : waitRt s t a.word = true) (hlate : a.latch.getD 1 0 ≤ s.now)
    (hwaits : waitHolds s t a.word (a.latch.getD 0 0) = false) : waitMiss s t =
      match waFallback a.word with
      | some f => ((waitMissed s t a).bump 0x12020 0 1).modTile t (fun x => ({ x.discardAfter a.seq with pc := f }).finish 6 0)
      | none => tileFault (waitMissed s t a) t 0xA a.addr := by
  simp only [waitMiss, ha]
  rw [if_neg (by rw [hrt, hwaits]; simpa using hlate)]
  rfl

theorem run_of_waitActive {x : Tile} {a : Active} (h : x.waitActive = some a) : x.run = .running := by
  by_contra hrun
  simp [Tile.waitActive, hrun] at h

/-- R67: of the words issued after a WAIT that has missed, none is left. -/
theorem Tile.seq_discardAfter {x : Tile} {seq u : Nat} {q : QWord} (hq : q ∈ ((x.discardAfter seq).unit u).queue) :
    q.seq < seq := by
  by_cases hu : u < x.units.length
  · simp only [Tile.unit, Tile.discardAfter, List.getD_eq_getElem?_getD, List.getElem?_map, List.getElem?_eq_getElem hu] at hq
    simpa using (List.mem_filter.1 hq).2
  · simp [Tile.unit, Tile.discardAfter, List.getD_eq_getElem?_getD, hu, UnitQ.reset] at hq

/-- R67: the tile goes on at its fallback program. -/
theorem waitMiss_fallback {s : State} {t f : Nat} {a : Active} (hrun : (s.tile t).run = .running) :
    let s' := ((waitMissed s t a).bump 0x12020 0 1).modTile t (fun x => ({ x.discardAfter a.seq with pc := f }).finish 6 0)
    (s'.tile t).pc = f ∧ (s'.tile t).stall = .none ∧ (s'.tile t).run = .running ∧ otherTiles s s' t ∧
      (s'.tile t).sregs = (s.tile t).sregs ∧ (∀ u q, q ∈ ((s'.tile t).unit u).queue → q.seq < a.seq) ∧
      s'.reg 0x12020 0 = satAdd32 (s.reg 0x12020 0) 1 ∧ s'.reg 0x1201C 0 = satAdd32 (s.reg 0x1201C 0) 1 := by
  intro s'
  obtain ⟨⟨h, htile⟩, hother⟩ := waitMissed_tile s t a
  obtain ⟨hcount, hbut⟩ := waitMissed_reg s t a
  have htile' : s'.tile t = ({ ({ s.tile t with hod := h } : Tile).discardAfter a.seq with pc := f }).finish 6 0 := by
    rw [State.tile_modTile_same, State.tile_bump, htile]
  refine ⟨?_, ?_, ?_, fun k hk => ?_, ?_, fun u q hq => ?_, ?_, ?_⟩
  · rw [htile', Tile.finish_pc]
  · rw [htile']
    rfl
  · rw [htile']
    exact hrun
  · rw [State.tile_modTile_ne _ _ hk, State.tile_bump, hother k hk]
  · rw [htile']
    rfl
  · rw [htile', Tile.queue_finish] at hq
    exact Tile.seq_discardAfter hq
  · rw [State.reg_modTile, State.reg_bump_same _ _ (by decide), hbut.same _ _ (by decide) (by decide)]
  · rw [State.reg_modTile, State.bump, State.reg_setReg_ne _ _ (regKey_ne_off (by decide)), hcount]

/-- R83: a running tile stops at the word that faulted; its code is shown. -/
theorem tileFault_of_running {s : State} {t code pc : Nat} (hrun : (s.tile t).run = .running)
    (hcode : code % 2 ^ 32 ≠ 0) :
    ((tileFault s t code pc).tile t).run = .faulted ∧ ((tileFault s t code pc).tile t).pc = pc ∧
    (tileFault s t code pc).reg 0x1300C t = code % 2 ^ 32 ∧ otherTiles s (tileFault s t code pc) t := by
  have hleave : ∀ u c bs b k, (leaveLaunch (postEvent u c 0 bs) t b).tile k = u.tile k := fun u c bs b k =>
    ((leaveLaunch_kept ..).tile_eq rfl k).trans ((postEvent_kept ..).tile_eq rfl k)
  have hregs : ∀ u c bs b, (leaveLaunch (postEvent u c 0 bs) t b).reg 0x1300C t = u.reg 0x1300C t := fun u c bs b =>
    (((regsBut_postEvent ..).mono (by decide)).trans (regsBut_leaveLaunch ..)).same _ _ (by decide) (by decide)
  have hhalt : (haltUnits s t .faulted).tile t = _ := (congrArg (fun u => State.tile u t) (haltUnits_eq ..)).trans
    (State.tile_setTile_same ..)
  simp only [tileFault]
  rw [if_neg (fun h => h hrun)]
  refine ⟨?_, ?_, ?_, fun k hk => ?_⟩
  · rw [hleave, State.tile_modTile_same, State.tile_setReg, hhalt]
  · rw [hleave, State.tile_modTile_same]
  · rw [hregs, State.reg_modTile]
    exact State.reg_setReg_set _ _ _ _ hcode
  · rw [hleave, State.tile_modTile_ne _ _ hk, State.tile_setReg, otherTiles_haltUnits _ _ _ _ k hk]

/-- Settles O6: a WAIT that starts by `waitWord`, one that ends by `waitOver`, one that misses by `waitMiss`. -/
theorem waitWordsComplete : Obligations.WaitWordsComplete := by
  unfold Obligations.WaitWordsComplete
  refine ⟨unitWord_of waitWord (fun s t w h => waitWord_of_holds h.1 h.2),
    unitWaits_of waitWord (fun s t w h => waitWord_of_not_holds h.1 h.2),
    fun s t a ha h => ⟨_, congrArg Host.Outcome.next (waitOver_of_holds ha h), ?_, ?_, ?_, ?_⟩,
    fun s t a f ha hrt hlate hwaits hf => ⟨_, congrArg Host.Outcome.next (waitMiss_of_missed ha hrt hlate hwaits), ?_⟩,
    fun s t a ha hrt hlate hwaits hf => ⟨_, congrArg Host.Outcome.next (waitMiss_of_missed ha hrt hlate hwaits), ?_⟩⟩
  · exact State.tile_setTile_same ..
  · intro k hk
    rw [State.tile_setTile_ne _ _ hk]
    exact (dropTileWaits_kept s t).tile_eq rfl k
  · exact (((dropTileWaits_kept s t).weaken (by decide)).step (State.setTile_kept ..) (by decide)).same
  · exact fun e he => waits_dropTileWaits he
  · simp only [hf]
    exact waitMiss_fallback (run_of_waitActive ha)
  · obtain ⟨⟨h, htile⟩, hother⟩ := waitMissed_tile s t a
    have hrun : ((waitMissed s t a).tile t).run = .running := by
      rw [htile]
      exact run_of_waitActive ha
    obtain ⟨hfault, hpc, hcode, hothers⟩ := tileFault_of_running (code := 0xA) (pc := a.addr) hrun (by decide)
    simp only [hf]
    exact ⟨hfault, hpc, hcode, fun k hk => (hothers k hk).trans (hother k hk)⟩

/-! ### The joint words (R377 to R381) -/

/-- R378: a word on a joint that the context may use. -/
theorem withJoint_of_ok {s : State} {t : Nat} {w : CWord} (h : s.jointOk (s.tile t).ctx (jwJoint w) = true)
    (k : Joint → WOut) : withJoint s t w k = k (s.joint (jwJoint w)) := if_pos h

/-- Settles O7: each joint word by what it does with the joint it names. -/
theorem jointWordsComplete : Obligations.JointWordsComplete := by
  unfold Obligations.JointWordsComplete
  intro ok val
  refine ⟨?_, ?_, ?_, ?_, ?_, ?_, ?_, ?_, ?_, ?_⟩
  · exact unitWord_of jaddWord (fun s t w h => withJoint_of_ok h _)
  · exact unitWord_of jtryWord (fun s t w h => (withJoint_of_ok h.1 _).trans (if_pos h.2))
  · exact unitWord_of jtryWord (fun s t w h => (withJoint_of_ok h.1 _).trans (if_neg (Nat.not_le.2 h.2)))
  · exact unitWord_of jticketWord (fun s t w h => withJoint_of_ok h _)
  · exact unitWord_of jorderWord (fun s t w h => (withJoint_of_ok h.1 _).trans (if_pos h.2))
  · exact unitWaits_of jorderWord (fun s t w h => (withJoint_of_ok h.1 _).trans (if_neg h.2))
  · exact unitWord_of jarriveWord (fun s t w h => (withJoint_of_ok h.1 _).trans (if_pos h.2))
  · exact unitWaits_of jarriveWord (fun s t w h => (withJoint_of_ok h.1 _).trans (if_neg (Nat.not_le.2 h.2)))
  · exact unitWord_of jreadWord (fun s t w h => withJoint_of_ok h _)
  · exact unitWord_of jsignalWord (fun s t w h => if_pos h)

end Sys2Proof.Machine

/-! SUPPORT. The matrix words (R68 to R80, R108). -/

namespace Sys2Proof.Machine

/-- A word of the matrix unit stores sets; its unit's queue stays. -/
theorem Tile.unit_foldl_setAcc {α : Type} (n : α → Nat) (a : α → AccSet) (l : List α) (x : Tile) (u : Nat) :
    (l.foldl (fun x y => x.setAcc (n y) (a y)) x).unit u = x.unit u := by
  induction l generalizing x with
  | nil => rfl
  | cons y r ih => exact ih _

theorem chargeSteps_tile (s : State) (t n k : Nat) : (chargeSteps s t n).tile k = s.tile k :=
  (chargeSteps_kept ..).tile_eq rfl k

theorem raiseTile_tile (s : State) (t ctx f k : Nat) : (raiseTile s t ctx f).tile k = s.tile k :=
  (raiseTile_kept ..).tile_eq rfl k

theorem mmaWord_of_ok {s : State} {t : Nat} {w : CWord} (hfault : (mmaOf (s.tile t) w).fault (s.tile t) = none)
    (hclash : (mmaOf (s.tile t) w).accumulate = true → ∀ n ∈ (mmaOf (s.tile t) w).sets,
      ((s.tile t).accSet n).clash (fmtFp32Path (mmaOf (s.tile t) w).fa) = false) : mmaWord s t w =
    (let x := s.tile t
     let m := mmaOf x w
     let r := m.sets.mapIdx (fun q n => (n, m.quadrant s t (q / 2) (q % 2) (x.accSet n)))
     .done (chargeSteps ((s.modTile t (fun x => r.foldl (fun x y => x.setAcc y.1 y.2.1) x)).bump 0x13010 t m.stepsTaken) t
       m.steps) (r.foldl (fun f y => f ||| y.2.2) 0)) := by
  simp only [mmaWord, hfault]
  exact if_neg (by simpa using hclash)

theorem mdrainWord_of_ok {s : State} {t : Nat} {w : CWord} {o : OutFmt} (hfmt : outFmt (cwf w 77 3) = some o)
    (hgroup : mdGroupBad w = false) (hint : o = .int32 → ∀ n ∈ mdSets w, ((s.tile t).accSet n).intOk = true)
    (hsr : cwb w 76 = true → o ≠ .int32 ∧ o ≠ .float .fp32 ∧ o ≠ .float .fp16)
    (hfits : (s.tile t).fits (mdAddr (s.tile t) w) (256 * o.bytes * (mdSets w).length) = true)
    (hblocks : blocksOk (mdAddr (s.tile t) w) (mdSets w).length (256 * o.bytes) = true) : mdrainWord s t w =
    (let x := s.tile t
     let sets := mdSets w
     let r := sets.mapIdx (fun q n =>
       drainBlock x (x.accSet n) o (mdAxis w) (cwb w 76) (x.sreg (cwf w 70 4) + 256 * q))
     let s := s.setScratch t (mdAddr x w) (r.flatMap (fun y => y.1))
     let s := if cwb w 75 then s else s.modTile t (fun x => sets.foldl (fun x n => x.setAcc n .empty) x)
     .done (raiseTile s t x.ctx (r.foldl (fun f y => f ||| y.2) 0)) 0) := by
  have hlegal : ¬ ((o == .int32 && (mdSets w).any (fun n => !((s.tile t).accSet n).intOk)) ||
      (cwb w 76 && (o == .int32 || o == .float .fp32 || o == .float .fp16))) = true := by
    simp only [Bool.or_eq_true, Bool.and_eq_true, beq_iff_eq, List.any_eq_true, Bool.not_eq_true']
    rintro (⟨ho, n, hn, hbad⟩ | ⟨hround, ho⟩)
    · exact absurd (hint ho n hn) (by simp [hbad])
    · obtain ⟨h1, h2, h3⟩ := hsr hround
      simp [h1, h2, h3] at ho
  simp only [mdrainWord, hfmt, hgroup, Bool.false_eq_true, if_false]
  rw [if_neg hlegal, hfits, hblocks]
  rfl

theorem mloadWord_of_ok {s : State} {t : Nat} {w : CWord} (hgroup : mdGroupBad w = false)
    (hfits : (s.tile t).fits (mdAddr (s.tile t) w) (1024 * (mdSets w).length) = true)
    (hblocks : blocksOk (mdAddr (s.tile t) w) (mdSets w).length 1024 = true) : mloadWord s t w =
    (let a := mdAddr (s.tile t) w
     .done (s.modTile t (fun x => ((mdSets w).mapIdx (fun q n => (n, AccSet.fp32 ((List.range 256).map (fun n =>
        BitVec.ofNat 32 (leNat (s.scratch t
          (a + 1024 * q + 4 * (if mdAxis w then n % 16 * 16 + n / 16 else n)) 4))))))).foldl
          (fun x y => x.setAcc y.1 y.2) x)) 0) := by
  rw [mloadWord, hgroup, hfits, hblocks]
  rfl

theorem mzeroWord_of_ok {s : State} {t : Nat} {w : CWord} (hgroup : mdGroupBad w = false) : mzeroWord s t w =
    .done (s.modTile t (fun x => (mdSets w).foldl (fun x n => x.setAcc n .empty) x)) 0 := by
  rw [mzeroWord, hgroup]
  rfl

/-- Settles O8: each matrix word by its own function; none of them changes the queue of its unit. -/
theorem matrixWordsComplete : Obligations.MatrixWordsComplete := by
  unfold Obligations.MatrixWordsComplete
  refine ⟨unitWord_of mmaWord (fun s t w h => mmaWord_of_ok h.1 h.2) (hqueue := fun _ s t w _ => ?_),
    fun o => unitWord_of mdrainWord
      (fun s t w ⟨hfmt, hgroup, hint, hsr, hfits, hblocks⟩ => mdrainWord_of_ok hfmt hgroup hint hsr hfits hblocks)
      (hqueue := fun _ s t w _ => ?_),
    unitWord_of mloadWord (fun s t w ⟨hgroup, hfits, hblocks⟩ => mloadWord_of_ok hgroup hfits hblocks)
      (hqueue := fun _ s t w _ => ?_),
    unitWord_of mzeroWord (fun s t w h => mzeroWord_of_ok h) (hqueue := fun _ s t w _ => ?_)⟩
  · dsimp only
    rw [chargeSteps_tile, State.tile_bump, State.tile_modTile_same, Tile.unit_foldl_setAcc (fun y : Nat × AccSet × Nat => y.1) (fun y => y.2.1)]
  · dsimp only
    rw [raiseTile_tile]
    split
    · rw [State.tile_setScratch]
    · rw [State.tile_modTile_same, State.tile_setScratch, Tile.unit_foldl_setAcc (fun n => n) (fun _ => .empty)]
  · dsimp only
    rw [State.tile_modTile_same, Tile.unit_foldl_setAcc (fun y : Nat × AccSet => y.1) (fun y => y.2)]
  · dsimp only
    rw [State.tile_modTile_same, Tile.unit_foldl_setAcc (fun n => n) (fun _ => .empty)]

end Sys2Proof.Machine

/-! SUPPORT. The vector words (R120 to R131). -/

namespace Sys2Proof.Machine

/-- Settles O9: each elementwise word is `elementWord` with its opcode. -/
theorem elementWordsComplete : Obligations.ElementWordsComplete := by
  unfold Obligations.ElementWordsComplete
  intro ok res
  have hword : ∀ op s t w, ok s t w → elementWord op s t w = .done (res op s t w).1 (res op s t w).2 :=
    fun op s t w h => if_neg h
  exact ⟨unitWord_of _ (hword _), unitWord_of _ (hword _), unitWord_of _ (hword _), unitWord_of _ (hword _),
    unitWord_of _ (hword _), unitWord_of _ (hword _), unitWord_of _ (hword _)⟩

/-! ### Loads, stores and moves (R124) -/

section

variable {s : State} {t : Nat} {w : CWord}

theorem vldWord_of_ok (h : memFault (s.tile t) w = none) : vldWord s t w =
    (let x := s.tile t
     let k := memBytes (vMemFmt w)
     let r := mapLanes (x.vreg (vVD w)) (laneBits (vType w)) (x.vmask (vMask w)) (fun l =>
       toLane (vType w) x.conv (memVal (vMemFmt w) (leNat (s.scratch t (vAddr x w + k * l) k))))
     .done (s.modTile t (fun x => x.setV (vVD w) r.1)) r.2) := by
  simp only [vldWord, h]

theorem vstWord_of_ok (h : memFault (s.tile t) w = none) : vstWord s t w =
    (let x := s.tile t
     let n := laneBits (vType w)
     let k := memBytes (vMemFmt w)
     let r := (List.range (1024 / n)).foldl (fun (acc : State × Nat) l =>
       if bitAt (x.vmask (vMask w)) l then
         (acc.1.setScratch t (vAddr x w + k * l) (leBytes k (storeLane x w l (lane (x.vreg (vVA w)) n l)).1),
           acc.2 ||| (storeLane x w l (lane (x.vreg (vVA w)) n l)).2)
       else acc) (s, 0)
     .done r.1 r.2) := by
  simp only [vstWord, h]

/-- A word whose type is FP32 or INT32. -/
theorem type_bad_eq_false (h : vType w = 0 ∨ vType w = 2) : (decide (vType w = 1) || decide (vType w = 3)) = false := by
  rcases h with h | h <;> simp [h]

end

/-- Settles O12: each of the other vector words by its own function, in the case that its checks pass. -/
theorem vectorWordsComplete : Obligations.VectorWordsComplete := by
  unfold Obligations.VectorWordsComplete
  refine ⟨unitWord_of vldWord (fun s t w h => vldWord_of_ok h), unitWord_of vstWord (fun s t w h => vstWord_of_ok h),
    unitWord_of vcmpWord (fun s t w h => ?_), unitWord_of vselWord (fun s t w h => if_neg h),
    unitWord_of vscanWord (fun s t w h => ?_), unitWord_of vredWord (fun s t w h => ?_),
    unitWord_of vredWord (fun s t w h => ?_), unitWord_of vbrcWord (fun s t w h => ?_),
    unitWord_of vstatWord (fun s t w h => ?_), unitWord_of vstatfWord (fun s t w h => ?_),
    unitWord_of vmovsWord (fun s t w h => ?_), unitWord_of vmovsWord (fun s t w h => ?_)⟩
  · exact (if_neg (Nat.not_lt.2 h.1)).trans (if_neg h.2)
  · refine (if_neg (Nat.not_lt.2 h.1)).trans (if_neg ?_)
    simp [type_bad_eq_false h.2]
  · obtain ⟨hsub, htype⟩ := h
    simp only [vredWord, hsub, type_bad_eq_false htype]
    rfl
  · obtain ⟨hsub, htype⟩ := h
    simp only [vredWord, type_bad_eq_false htype, if_neg (show ¬ 3 < vSub w by omega), if_neg (show ¬ vSub w = 3 by omega)]
    generalize treeOf (redOp (vType w) (vSub w)) _ = v
    by_cases hchain : vChain w = true
    · simp only [hchain, if_true]
      rfl
    · simp only [hchain]
      rfl
  · obtain ⟨hsub, htype, hpat, ha, hd⟩ := h
    refine (if_neg (Nat.not_lt.2 hsub)).trans ((if_neg ?_).trans (if_neg ?_))
    · simp [htype, hpat]
    · simpa using ⟨ha, hd⟩
  · obtain ⟨hsub, htype, hstart⟩ := h
    refine (if_neg (Nat.not_lt.2 hsub)).trans ((if_neg ?_).trans (if_neg ?_))
    · simp [type_bad_eq_false htype]
    · have hlen : ((List.range 32).filter (bitAt ((s.tile t).vmask (vMask w)))).length ≤ 32 :=
        (List.length_filter_le _ _).trans_eq List.length_range
      rcases hstart with hnew | ⟨hold, hstarted, hroom⟩
      · simp only [hnew, if_true, StatAcc.reset]
        simpa using by omega
      · simp only [hold, Bool.false_eq_true, if_false]
        simpa [hstarted] using hroom
  · obtain ⟨htype, hstart⟩ := h
    refine (if_neg ?_).trans (if_neg ?_)
    · simp [type_bad_eq_false htype]
    · simp [hstart]
  · exact (if_neg (by omega)).trans ((if_neg h.2).trans (if_pos h.1))
  · exact (if_neg (by omega)).trans ((if_neg h.2).trans (if_neg (by omega)))

/-! ### Lanes (R120, R125) -/

theorem lane_packLanes (w : Nat) (xs : List Nat) {l : Nat} (h : l < xs.length) :
    lane (packLanes w xs) w l = xs[l] % 2 ^ w := by
  induction xs generalizing l with
  | nil => simp at h
  | cons x r ih =>
    cases l with
    | zero => simp [lane, bits, packLanes]
    | succ l =>
      have hshift : packLanes w (x :: r) / 2 ^ (w * (l + 1)) = packLanes w r / 2 ^ (w * l) := by
        rw [packLanes, Nat.mul_succ, Nat.add_comm (w * l), Nat.pow_add, ← Nat.div_div_eq_div_mul,
          Nat.add_mul_div_left _ _ (Nat.two_pow_pos w),
          Nat.div_eq_of_lt (Nat.mod_lt _ (Nat.two_pow_pos w)), Nat.zero_add]
      rw [lane, bits, hshift]
      exact ih (by simpa using h)

theorem packLanes_lt (w : Nat) (xs : List Nat) : packLanes w xs < 2 ^ (w * xs.length) := by
  induction xs with
  | nil => simp [packLanes]
  | cons x r ih =>
    have hx : x % 2 ^ w < 2 ^ w := Nat.mod_lt _ (Nat.two_pow_pos w)
    rw [packLanes, List.length_cons, Nat.mul_succ, Nat.add_comm (w * r.length), Nat.pow_add]
    calc x % 2 ^ w + 2 ^ w * packLanes w r < 2 ^ w * (packLanes w r + 1) := by rw [Nat.mul_succ]; omega
      _ ≤ 2 ^ w * 2 ^ (w * r.length) := Nat.mul_le_mul_left _ ih

/-- Settles O10: a lane of a packed register is the lane packed there (`lane_packLanes`). -/
theorem lanesWrittenUnderMask : Obligations.LanesWrittenUnderMask := by
  unfold Obligations.LanesWrittenUnderMask
  refine ⟨fun old n mask l f _ hl => ?_, fun old n mask f hn => ?_, fun x i v hv => ⟨?_, fun j hj => ?_⟩⟩
  · rw [mapLanes, lane_packLanes _ _ (by simpa using hl)]
    by_cases hbit : bitAt mask l = true
    · simp [hbit]
    · simp [hbit, lane, bits]
  · refine (packLanes_lt ..).trans_eq ?_
    rcases hn with rfl | rfl | rfl <;> rw [List.length_map, List.length_map, List.length_range]
  · rw [Tile.vreg, Tile.setV, tget_tset_same, BitVec.toNat_ofNat, Nat.mod_eq_of_lt hv]
  · rw [Tile.vreg, Tile.setV, tget_tset_ne _ _ _ hj, Tile.vreg]

/-! ### INT32 lanes (R122) -/

theorem signed_toNat (a : BitVec 32) : signed 32 a.toNat = a.toInt := by
  rw [signed, BitVec.toInt_eq_msb_cond, BitVec.msb_eq_getLsbD_last, bitAt, Nat.mod_eq_of_lt a.isLt]
  rfl

theorem unsignedOf_eq (x : Int) : unsignedOf 32 x = (BitVec.ofInt 32 x).toNat := (BitVec.toNat_ofInt x).symm

/-- Settles O11: an integer result is cut to its low 32 bits, as the arithmetic of `BitVec 32` is. -/
theorem integerLanes : Obligations.IntegerLanes := by
  unfold Obligations.IntegerLanes
  intro a b c
  have hlane : ∀ op, laneOp 2 op a.toNat b.toNat c.toNat = (intOp op a.toNat b.toNat c.toNat, 0) := fun _ => rfl
  simp only [hlane, intOp, signed_toNat, unsignedOf_eq, Prod.mk.injEq, and_true]
  refine ⟨?_, ?_, ?_, ?_, ?_, ?_, ?_⟩
  · simp [BitVec.ofInt_add, BitVec.ofInt_mul]
  · simp [BitVec.ofInt_add]
  · exact congrArg BitVec.toNat (BitVec.eq_of_toInt_eq (by simp [BitVec.toInt_sub, BitVec.toInt_ofInt]))
  · simp [BitVec.ofInt_mul]
  · rcases le_or_gt b.toInt a.toInt with h | h
    · simp [h]
    · simp [max_eq_right h.le, h.not_ge]
  · rcases le_or_gt a.toInt b.toInt with h | h
    · simp [h]
    · simp [min_eq_right h.le, h.not_ge]
  · by_cases hb : b = 0
    · simp [hb]
    · have hne : b.toInt ≠ 0 := fun h => hb (BitVec.eq_of_toInt_eq (by simpa using h))
      simp only [hne, hb, if_false]
      refine congrArg BitVec.toNat (BitVec.eq_of_toInt_eq ?_)
      simp [BitVec.toInt_sdiv, BitVec.toInt_ofInt]

/-! ### The special-function unit (R132 to R142) -/

/-- A word that evaluates its function in each lane. -/
theorem funcWord_of_ok {s : State} {t : Nat} {w : CWord} {g : Tile → Nat → Option (Word × Nat)} {rs : List (Word × Nat)}
    (hgen : genBad (s.tile t) w = false) (hfunc : (s.tile t).funcOk (fFunc w) = true)
    (heval : evalLanes ((s.tile t).vmask (fMask w)) (g (s.tile t)) = some rs) : funcWord s t w g =
    .done (s.setTile t (putLanes (s.tile t) w (fVD w) rs).1) (putLanes (s.tile t) w (fVD w) rs).2 := by
  simp [funcWord, hgen, hfunc, heval]

/-- Settles O13: each word of the special-function unit by its own function, in the case that its checks pass. -/
theorem functionWordsComplete : Obligations.FunctionWordsComplete := by
  unfold Obligations.FunctionWordsComplete
  intro func put
  refine ⟨fun rs => unitWord_of sfevalWord (fun s t w h => ?_), fun rs => unitWord_of sfbasWord (fun s t w h => ?_),
    unitWord_of sfsincosWord (fun s t w h => ?_), unitWord_of sfnssWord (fun s t w h => ?_),
    unitWord_of sfloadWord (fun s t w h => ?_), unitWord_of sfswapWord (fun s t w _ => rfl),
    unitWord_of sfprogWord (fun s t w h => ?_)⟩
  · obtain ⟨hgen, hfunc, heval⟩ := h
    exact funcWord_of_ok hgen hfunc heval
  · obtain ⟨hpat, hgen, hfunc, heval⟩ := h
    exact (if_neg hpat).trans (funcWord_of_ok hgen hfunc heval)
  · obtain ⟨hgen, hvd⟩ := h
    exact (if_neg (by simp [hgen])).trans (if_neg hvd)
  · obtain ⟨hgen, hpat, hstarted, hfinal⟩ := h
    exact (if_neg (by simp [hgen])).trans ((if_neg hpat).trans (if_neg (by simp [hstarted, hfinal])))
  · obtain ⟨hpos, hmax, hlast, hfits⟩ := h
    refine (if_neg ?_).trans (if_neg ?_)
    · simp only [Bool.or_eq_true, decide_eq_true_eq]; omega
    · simp [hfits]
  · obtain ⟨hpos, hmax, hlast, hfits⟩ := h
    refine (if_neg ?_).trans (if_neg ?_)
    · simp only [Bool.or_eq_true, decide_eq_true_eq]; omega
    · simp [hfits]

end Sys2Proof.Machine

/-! SUPPORT. The words of the hod (R208, R209, R223), TUPDATE (R329 to R337) and mailboxes (R383 to R387). -/

namespace Sys2Proof.Machine

/-! ### The words of the hod -/

section

variable {s : State} {t : Nat} {w : CWord} {st : Stream}

theorem hodstreamWord_of_new (h : (s.tile t).hod.stream? (hwStream w) = none) : hodstreamWord s t w =
    (let x : Stream := { timed := cwb w 91, rt := cwb w 90, recv := cwb w 89, credits := 0, delivered := 0 }
     .done (s.modHod t (fun h => { h with streams := tset x h.streams (hwStream w) })) 0) := by
  rw [hodstreamWord, h]
  rfl

theorem hodrunWord_of_ok (pc : Nat) (hstream : (s.tile t).hod.stream? (hwStream w) = some st) (hrecv : st.recv = false)
    (hfits : (s.tile t).fits ((s.tile t).byteAt (cwf w 80 12) (cwf w 76 4)) 64 = true) : hodrunWord pc s t w =
    (let x := s.tile t
     let d : HDesc := {
       id := s.nextId, stream := hwStream w, ctx := x.ctx,
       bytes := s.scratch t (x.byteAt (cwf w 80 12) (cwf w 76 4)) 64, pc := pc,
       sig := if cwSigEn w then some (cwSigTok w) else none, deadline := x.sreg (cwf w 72 4), timed := st.timed,
       adm := 0, treq := none, taken := false, genOfs := 0, waiting := [], issued := 0, rowNext := 0,
       idxAsked := 0, idxNext := 0, idxRest := [], idxBad := false, members := [], dropped := [], sent := false,
       landed := false, replay := false, status := 0, done := false, late := false, cancel := false, kvUser := none }
     .done (s.fresh.2.modHod t (fun h => { h with descs := h.descs ++ [d] })) 0) := by
  simp only [hodrunWord, hstream, hrecv, hfits]
  rfl

theorem hodrecvWord_of_ok (hstream : (s.tile t).hod.stream? (hwStream w) = some st) (hrecv : st.recv = true)
    (hroom : st.credits + cwf w 84 8 ≤ 65535) : hodrecvWord s t w =
    .done (s.modStream t (hwStream w) (fun x => { x with credits := x.credits + cwf w 84 8 })) 0 := by
  simp only [hodrecvWord, hstream]
  exact if_neg (by simpa [hrecv] using hroom)

theorem Hod.idle_of {h : Hod} (htags : h.tags = []) (hdescs : ∀ d ∈ h.descs, d.done = true ∧ d.waiting = []) :
    h.idle = true := by
  simpa [Hod.idle, htags] using hdescs

end

/-- Settles O14: each word of the hod by its own function; HODRUN keeps the place of the word that its unit runs. -/
theorem hodWordsComplete : Obligations.HodWordsComplete := by
  unfold Obligations.HodWordsComplete
  refine ⟨unitWord_of hodstreamWord (fun s t w h => hodstreamWord_of_new h),
    fun st => unitWord_of_runWord (fun s t a hop hactive h => ?_),
    fun st => unitWord_of hodrecvWord (fun s t w ⟨hstream, hrecv, hroom⟩ => hodrecvWord_of_ok hstream hrecv hroom),
    unitWord_of hodcmoWord (fun s t w h => ?_)⟩
  · obtain ⟨hstream, hrecv, hfits⟩ := h
    have hactive : ((s.tile t).unit 4).active = some a := hactive.1
    have hrun : runWord s t a = hodrunWord a.addr s t a.word := by simp [runWord, hop]
    rw [hrun, hodrunWord_of_ok a.addr hstream hrecv hfits]
    simp only [hactive]
  · rw [hodcmoWord]
    simp only [Hod.idle_of h.1 h.2]
    rfl

/-! ### TUPDATE (R329 to R337) -/

/-- What the trowel takes of a TUPDATE. -/
def State.updOf (s : State) (t : Nat) (w : CWord) : Upd :=
  let x := s.tile t
  { block := s.scratch t (x.byteAt (cwf w 84 12) (cwf w 80 4)) 64, ofs := x.sreg (cwf w 76 4),
    cnt := x.sreg (cwf w 72 4), idx := x.sreg (cwf w 68 4) }

/-- A TUPDATE that begins, and whose parameter block lies in the scratchpad, is taken. -/
theorem runWord_tupdate {s : State} {t : Nat} {a : Active} (hop : cwOp a.word = 0x70) (h : (s.tile t).begins 5 a)
    (hfits : (s.tile t).fits ((s.tile t).byteAt (cwf a.word 84 12) (cwf a.word 80 4)) 64 = true) :
    runWord s t a = updTake s t (s.updOf t a.word) (cwf a.word 67 1) := by
  obtain ⟨hactive, hlatch⟩ := h
  have hactive : ((s.tile t).unit 5).active = some a := hactive
  have hrun : runWord s t a = tupdateWord s t a.word := by simp [runWord, hop]
  have hnew : a.latch = [] := hlatch (by decide)
  rw [hrun, tupdateWord]
  obtain ⟨addr, word, seq, flags, finished, latch⟩ := a
  subst hnew
  simp only [hactive, hfits]
  rfl

theorem updTake_of_ok {s : State} {t : Nat} {u : Upd} {par : Nat} (hbad : u.bad s (s.tile t).ctx = false)
    (hstep : (s.ctx (s.tile t).ctx).stepPoison par = false) : updTake s t u par = updGo s t u := by
  simp only [updTake, hbad, hstep]
  rfl

/-- Settles O16: a TUPDATE that begins is taken; it runs, waits, or is skipped for its poisoned step. -/
theorem tupdateCompletes : Obligations.TupdateCompletes := by
  unfold Obligations.TupdateCompletes
  intro upd ok
  refine ⟨unitWord_of_runWord (fun s t a hop hbegins h => ?_), unitWaits_of_runWord (fun s t a hop hbegins h => ?_),
    unitWord_of_runWord (fun s t a hop hbegins h => ?_)⟩
  · obtain ⟨⟨hfits, (hbad : (s.updOf t a.word).bad s (s.tile t).ctx = false), hstep⟩, hwaits, hserves⟩ := h
    have hgo : (updWaits s (s.tile t).ctx || s.stalled (0x2000000 * t) 1) = false := by rw [hwaits, hserves]; rfl
    rw [runWord_tupdate hop hbegins hfits, updTake_of_ok hbad hstep, updGo, hgo]
    simp only [runUpdate]
    generalize nearRead = read
    rfl
  · obtain ⟨⟨hfits, (hbad : (s.updOf t a.word).bad s (s.tile t).ctx = false), hstep⟩, hwaits⟩ := h
    rw [runWord_tupdate hop hbegins hfits, updTake_of_ok hbad hstep, updGo, hwaits]
    rfl
  · obtain ⟨hfits, hbad, hstep⟩ := h
    rw [runWord_tupdate hop hbegins hfits, updTake]
    have hbad : (s.updOf t a.word).bad s (s.tile t).ctx = false := hbad
    simp only [hbad, hstep]
    rfl

/-! ### Mailboxes (R383 to R387) -/

theorem mbSendBy_of_room {s : State} {c sender dl mver : Nat} {p : List Byte} (htimeout : (s.mbox c).timeout = false)
    (hroom : (s.mbox c).queue.length < 16) (htimed : (s.mbox c).timed = false) :
    mbSendBy s c sender dl mver p = (.sent, mbEnqueue s c sender dl mver p) := by
  simp [mbSendBy, mbAdmit, htimeout, htimed, Nat.not_le.2 hroom]

theorem mbSendBy_of_timeout {s : State} {c sender dl mver : Nat} {p : List Byte} (htimeout : (s.mbox c).timeout = true) :
    mbSendBy s c sender dl mver p = (.timeout, s) := by
  simp [mbSendBy, htimeout]

/-- R383: a message of a channel that is not timed joins its queue without a deadline. -/
theorem mbEnqueue_of_bulk {s : State} {c sender dl mver : Nat} {p : List Byte} (htimed : (s.mbox c).timed = false) :
    mbEnqueue s c sender dl mver p = mbPump 16 (s.setMbox c { s.mbox c with
      queue := (s.mbox c).queue ++ [mbMessage c sender (s.mbox c).seq 0 mver p], seq := ((s.mbox c).seq + 1) % 2 ^ 32 }) c := by
  simp [mbEnqueue, htimed]

theorem mbDeliver_of_asleep {s : State} {c : Nat} (h : s.rxState (s.mbox c).receiver ≠ 0) : mbDeliver s c = s := by
  simp only [mbDeliver]
  split
  · rfl
  · exact if_pos h

/-- R384: the queue of a channel whose receiver is not awake stays. -/
theorem queue_mbPump_of_asleep {s : State} {c : Nat} (h : s.rxState (s.mbox c).receiver ≠ 0) (n : Nat) :
    ((mbPump n s c).mbox c).queue = (s.mbox c).queue := by
  induction n with
  | zero => rw [mbPump, mbClock, State.mbox_setMbox_same]
  | succ n ih => rw [mbPump, mbDeliver_of_asleep h, ih]

section

variable {s : State} {t : Nat} {w : CWord}

/-- How MBSEND ends, by how its send ended. -/
def mbsendEnd (t : Nat) (w : CWord) : MbOut × State → WOut
  | (.sent, s) => .done (s.putS t (mwDst w) 0) 0
  | (.timeout, s) => .done (s.putS t (mwDst w) 2) 0
  | (.full, s) => .wait s
  | (.refused, s) => .done (s.draw.2.putS t (mwDst w) (Config.freeDWord s.draw.1).toNat) 0

/-- R387: MBSEND of the channel's sender, of a payload in the scratchpad and a version that the channel takes. -/
theorem mbsendWord_of_sender (hvalid : (s.mbox (mwChan w)).valid = true)
    (hsender : (s.mbox (mwChan w)).sender = 0x40 + (s.tile t).ctx) (hfits : (s.tile t).fits (mwAddr (s.tile t) w) 44 = true)
    (hmver : fld (s.scratch t (mwAddr (s.tile t) w) 44) 0 1 ≤ (s.mbox (mwChan w)).mverMax) : mbsendWord s t w =
    mbsendEnd t w (mbSendBy s (mwChan w) (0x40 + (s.tile t).ctx) ((s.tile t).sreg (cwf w 66 4))
      (fld (s.scratch t (mwAddr (s.tile t) w) 44) 0 1) (s.scratch t (mwAddr (s.tile t) w) 44)) := by
  have hchannel : ¬ (!(s.mbox (mwChan w)).valid || (s.mbox (mwChan w)).sender != 0x40 + (s.tile t).ctx) = true := by
    simp [hvalid, hsender]
  simp only [mbsendWord]
  rw [if_neg hchannel, hfits, if_neg (Nat.not_lt.2 hmver)]
  obtain ⟨o, s1⟩ := mbSendBy s _ _ _ _ _
  cases o <;> rfl

section

variable (hvalid : (s.mbox (mwChan w)).valid = true) (hreceiver : (s.mbox (mwChan w)).receiver = 0x40 + (s.tile t).ctx)
  (hfits : (s.tile t).fits (mwAddr (s.tile t) w) 64 = true)

include hvalid hreceiver hfits

theorem mbrecvWord_of_message {m : List Byte} {r : List (List Byte)} (hqueue : (s.mbox (mwChan w)).queue = m :: r) :
    mbrecvWord s t w =
      .done (mbTake ((s.setScratch t (mwAddr (s.tile t) w) m).putS t (mwDst w) 1) (mwChan w)) 0 := by
  simp only [mbrecvWord, hvalid, hreceiver, hfits, hqueue]
  exact if_neg (by simp)

theorem mbrecvWord_of_empty (hqueue : (s.mbox (mwChan w)).queue = []) :
    mbrecvWord s t w = .done (s.putS t (mwDst w) 0) 0 := by
  simp only [mbrecvWord, hvalid, hreceiver, hfits, hqueue]
  exact if_neg (by simp)

end

end

/-- Settles O17: sends join the queue (`mbSendBy_of_room`), a timer that runs out shows, a receiver that wakes is served. -/
theorem mailboxCommandsComplete : Obligations.MailboxCommandsComplete := by
  unfold Obligations.MailboxCommandsComplete
  refine ⟨fun s fn v hen hreset => ?_, unitWord_of mbsendWord (fun s t w h => ?_), unitWord_of mbsendWord (fun s t w h => ?_),
    fun m r => unitWord_of mbrecvWord (fun s t w h => ?_), unitWord_of mbrecvWord (fun s t w h => ?_),
    fun s c at_ htimer hlate => ⟨_, rfl, ?_⟩, fun s ident st hhost hst => ⟨_, rfl, ?_⟩, fun s st hst hfailed => ⟨_, rfl, ?_⟩⟩
  · intro c mver b hvalid hsender hmver htimeout hroom htimed
    have hsend : ¬ (!b.valid || b.sender != fn || decide (b.mverMax < mver)) = true := by
      simp [hvalid, hsender, hmver]
    have hpump : mbHostSend s fn v.toNat = mbPump 16 (s.setMbox c { b with
        queue := b.queue ++ [mbMessage c fn b.seq 0 mver (mbStaged s fn)], seq := (b.seq + 1) % 2 ^ 32 }) c := by
      rw [mbHostSend]
      refine (if_neg hsend).trans ?_
      rw [mbSendBy_of_room htimeout hroom htimed, mbEnqueue_of_bulk htimed]
    refine ⟨mbHostSend s fn v.toNat, ?_, hpump, fun hasleep => ?_⟩
    · show Host.Outcome.next (if _ then inDomain s fn _ else s) = _
      rw [if_pos hen, inDomain, hreset]
      rfl
    · rw [hpump, queue_mbPump_of_asleep, State.mbox_setMbox_same]
      rw [State.mbox_setMbox_same]
      exact hasleep
  · obtain ⟨hvalid, hsender, hfits, hmver, htimeout, hroom, htimed⟩ := h
    rw [mbsendWord_of_sender hvalid hsender hfits hmver, mbSendBy_of_room htimeout hroom htimed]
    rfl
  · obtain ⟨hvalid, hsender, hfits, hmver, htimeout⟩ := h
    rw [mbsendWord_of_sender hvalid hsender hfits hmver, mbSendBy_of_timeout htimeout]
    rfl
  · obtain ⟨hvalid, hreceiver, hfits, hqueue⟩ := h
    exact mbrecvWord_of_message hvalid hreceiver hfits hqueue
  · obtain ⟨hvalid, hreceiver, hfits, hqueue⟩ := h
    exact mbrecvWord_of_empty hvalid hreceiver hfits hqueue
  · simp only [htimer]
    exact if_pos hlate
  · simp [rxChange, hhost, hst]
  · rcases hst with rfl | rfl | rfl <;> simp [rxChange, hfailed]

end Sys2Proof.Machine

/-! SUPPORT. Rings (R361 to R369): doorbells, entries, held records, misses, completion records. -/

namespace Sys2Proof.Machine

/-! ### Rings of a context -/

theorem State.ring_setRing_same (s : State) (c q : Nat) (x : SRing) : ((s.setRing c q x).ctx c).ring q = x := by
  rw [State.setRing, State.ctx_setCtx_same]
  exact tget_tset_same ..

theorem State.ring_setRing_ne (s : State) (c : Nat) {q q' : Nat} (x : SRing) (h : q' ≠ q) :
    ((s.setRing c q x).ctx c).ring q' = (s.ctx c).ring q' := by
  rw [State.setRing, State.ctx_setCtx_same]
  exact tget_tset_ne _ _ _ h

theorem State.cring_setCRing_same (s : State) (c q : Nat) (x : CRing) : ((s.setCRing c q x).ctx c).cring q = x := by
  rw [State.setCRing, State.ctx_setCtx_same]
  exact tget_tset_same ..

theorem live_inReset {c : Ctx} (h : c.live = true) : c.inReset = false := by
  simp only [Ctx.live, Bool.and_eq_true, Bool.not_eq_true'] at h
  exact h.2

theorem inDomain_of_live {s : State} {ctx : Nat} (h : (s.ctx ctx).live = true) (k : State → State) :
    inDomain s ctx k = k s := by
  rw [inDomain, live_inReset h]
  rfl

/-! ### Doorbells (R362, R364) -/

/-- The absolute index that a ring index names has that index in the ring. -/
theorem ringIndex_mod {base k v : Nat} (h : v < 2 ^ k) : ringIndex base k v % 2 ^ k = v := by
  have hb : base % 2 ^ k < 2 ^ k := Nat.mod_lt _ (Nat.two_pow_pos k)
  have hsum : base + (v + 2 ^ k - base % 2 ^ k) = v + 2 ^ k * (base / 2 ^ k + 1) := by
    have := Nat.div_add_mod base (2 ^ k)
    rw [Nat.mul_succ]
    omega
  rw [ringIndex, Nat.add_mod_mod, hsum, Nat.add_mul_mod_self_left, Nat.mod_eq_of_lt h]

/-- R362: a doorbell that covers entries not before those read moves the tail. -/
theorem exec_sqDoorbell {s : State} {m ctx q : Nat} {v : Word} (hpage : reachesPage m ctx = true)
    (hlive : (s.ctx ctx).live = true) (hen : ((s.ctx ctx).ring q).en = true)
    (hindex : v.toNat % 65536 < 2 ^ ((s.ctx ctx).ring q).log2)
    (hahead : ((s.ctx ctx).ring q).head ≤
      ringIndex ((s.ctx ctx).ring q).oldest ((s.ctx ctx).ring q).log2 (v.toNat % 65536)) :
    exec (.sqDoorbell m ctx q v) s = .next (acceptDoor s ctx q
      (ringIndex ((s.ctx ctx).ring q).oldest ((s.ctx ctx).ring q).log2 (v.toNat % 65536))) := by
  show execSqDoorbell m ctx q v s = _
  rw [execSqDoorbell, if_pos hpage, inDomain_of_live hlive, sqDoor]
  simp only [hlive, hen]
  rw [if_neg (by simp), if_neg (Nat.not_le.2 hindex), if_neg (Nat.not_lt.2 hahead)]

theorem ctx_acceptDoor (s : State) (ctx q tail : Nat) : (acceptDoor s ctx q tail).ctx ctx =
    { (s.setRing ctx q { (s.ctx ctx).ring q with
        tail := tail, doors := (tail, (s.ctx ctx).doorOrder) :: ((s.ctx ctx).ring q).doors.filter (fun d =>
          decide (d.1 < tail) && decide (((s.ctx ctx).ring q).head < d.1)) }).ctx ctx with
      doorOrder := (s.ctx ctx).doorOrder + 1 } := State.ctx_setCtx_same ..

theorem ring_acceptDoor_same (s : State) (ctx q tail : Nat) : ((acceptDoor s ctx q tail).ctx ctx).ring q =
    { (s.ctx ctx).ring q with
        tail := tail, doors := (tail, (s.ctx ctx).doorOrder) :: ((s.ctx ctx).ring q).doors.filter (fun d =>
          decide (d.1 < tail) && decide (((s.ctx ctx).ring q).head < d.1)) } := by
  rw [ctx_acceptDoor]
  exact State.ring_setRing_same ..

theorem ring_acceptDoor_ne (s : State) (ctx tail : Nat) {q q' : Nat} (h : q' ≠ q) :
    ((acceptDoor s ctx q tail).ctx ctx).ring q' = (s.ctx ctx).ring q' := by
  rw [ctx_acceptDoor]
  exact State.ring_setRing_ne _ _ _ h

theorem ctx_acceptDoor_ne (s : State) (q tail : Nat) {ctx c : Nat} (h : c ≠ ctx) :
    (acceptDoor s ctx q tail).ctx c = s.ctx c :=
  (State.ctx_setCtx_ne _ _ h).trans (State.ctx_setCtx_ne _ _ h)

theorem exec_cqDoorbell {s : State} {m ctx q : Nat} {v : Word} (hpage : reachesPage m ctx = true)
    (hlive : (s.ctx ctx).live = true) (hen : ((s.ctx ctx).cring q).en = true)
    (hindex : v.toNat % 65536 < 2 ^ ((s.ctx ctx).cring q).log2)
    (hbehind : ringIndex ((s.ctx ctx).cring q).db ((s.ctx ctx).cring q).log2 (v.toNat % 65536) ≤
      ((s.ctx ctx).cring q).head) :
    exec (.cqDoorbell m ctx q v) s = .next (mbPumpAll (s.setCRing ctx q { (s.ctx ctx).cring q with
      db := ringIndex ((s.ctx ctx).cring q).db ((s.ctx ctx).cring q).log2 (v.toNat % 65536) }) ctx) := by
  show execCqDoorbell m ctx q v s = _
  rw [execCqDoorbell, if_pos hpage, inDomain_of_live hlive, cqDoor]
  simp only [hlive, hen]
  rw [if_neg (by simp), if_neg (Nat.not_le.2 hindex), if_neg (Nat.not_lt.2 hbehind)]

/-! ### Entries (R363, R367) -/

section

variable {s : State} {ctx q : Nat}

/-- R363: an entry that is read whole enters its ring. -/
theorem exec_submissionEntryRead (hlive : (s.ctx ctx).live = true) (hread : ((s.ctx ctx).ring q).readable = true)
    (hserves : s.stalled (((s.ctx ctx).ring q).base + 64 * (((s.ctx ctx).ring q).head % 2 ^ ((s.ctx ctx).ring q).log2)) 64
      = false)
    {o : RdOut × State} (ho : agentRead s ctx (((s.ctx ctx).ring q).base +
      64 * (((s.ctx ctx).ring q).head % 2 ^ ((s.ctx ctx).ring q).log2)) 64 = o)
    (hok : o.1.ok = true) (hbad : o.1.bad = []) :
    exec (.submissionEntryRead ctx q false) s = .next (enterDesc o.2 ctx q o.1.data) := by
  show execSubmissionEntryRead ctx q false s = _
  have hgo : ((s.ctx ctx).live && ((s.ctx ctx).ring q).readable && !s.stalled (((s.ctx ctx).ring q).base +
      64 * (((s.ctx ctx).ring q).head % 2 ^ ((s.ctx ctx).ring q).log2)) 64) = true := by
    rw [hlive, hread, hserves]
    rfl
  obtain ⟨r, s1⟩ := o
  have hok : r.ok = true := hok
  have hbad : r.bad = [] := hbad
  simp only [execSubmissionEntryRead, if_pos hgo, readEntry, ho, hok, hbad]
  rfl

theorem enterDesc_of_ready {bytes : List Byte} (hheader : headerFault ((takeEntry s ctx q bytes).ctx ctx)
      ((s.ctx ctx).ring q).timed (newDesc ((s.ctx ctx).ring q) bytes) = none) : enterDesc s ctx q bytes =
    if ((s.ctx ctx).ring q).timed && !(takeEntry s ctx q bytes).absentDesc (newDesc ((s.ctx ctx).ring q) bytes) then
      presentDesc (takeEntry s ctx q bytes) ctx q (newDesc ((s.ctx ctx).ring q) bytes)
    else takeEntry s ctx q bytes := by
  simp only [enterDesc, hheader]

end

/-- R44: a request that every check passes is admitted under the next number. -/
theorem present_of_admits {s : State} {r : TReq} {demote : Bool}
    (h : s.fresh.2.admits { r with id := s.nextId } = true) :
    present s r demote = (.admitted s.nextId, s.fresh.2.enter { r with id := s.nextId }) := by
  have hadmit : admitReq s r = (some s.nextId, s.fresh.2.enter { r with id := s.nextId }) := if_pos h
  rw [present, hadmit]

/-- Settles O18: each row of a ring finds its condition and acts. -/
theorem ringCommandsComplete : Obligations.RingCommandsComplete := by
  unfold Obligations.RingCommandsComplete
  refine ⟨fun s m ctx q v hpage hlive hen hindex => ?_, fun s m ctx q v hpage hlive hen hindex => ?_,
    fun s ctx q hlive hread => ?_, fun s ctx q d id hlinks => ?_, fun s ctx h hheld => ?_,
    fun s ctx q idx d hfind hrtm hlate hneed => ?_, fun s id r d hreq hkind hhead htreq hphase => ?_⟩
  · intro r tail hahead
    refine ⟨_, exec_sqDoorbell hpage hlive hen hindex hahead, (acceptDoor_kept ..).same, ?_, ?_, ?_, ?_, ?_,
      ringIndex_mod hindex, fun q' hq => ring_acceptDoor_ne _ _ _ hq, fun c hc => ctx_acceptDoor_ne _ _ _ hc⟩
    · rw [ring_acceptDoor_same]
    · rw [ring_acceptDoor_same]
    · rw [ring_acceptDoor_same]
    · rw [ring_acceptDoor_same]
      rfl
    · rw [ctx_acceptDoor]
  · intro r db hbehind
    exact ⟨_, exec_cqDoorbell hpage hlive hen hindex hbehind, rfl⟩
  · intro r o d s1 hserves hok hbad hheader
    have hexec := exec_submissionEntryRead hlive hread hserves (o := o) rfl hok hbad
    rw [enterDesc_of_ready hheader] at hexec
    refine ⟨fun hbulk => ⟨_, hexec, if_neg ?_⟩, fun htimed hhas => ⟨_, hexec, if_pos ?_⟩⟩
    · rcases hbulk with h | h
      · simp [h]
      · simp [s1, d] at h
        simp [h]
    · simp only [htimed, Bool.true_and, Bool.not_eq_true']
      exact hhas
  · intro a r hadmits hid
    subst hid
    have hpresent : present s { r with id := 0 } d.demote = (.admitted s.nextId, s.fresh.2.enter r) :=
      present_of_admits hadmits
    rw [presentDesc]
    simp only [hlinks, if_true]
    rw [hpresent]
  · exact ⟨_, rfl, _, _, rfl, rfl, by simp only [writeHeld, hheld] <;> rfl⟩
  · have hneed : (((s.ctx ctx).ring q).rtm && decide (d.deadline ≤ s.now) && (((s.ctx ctx).ring q).timed || d.deadline != 0))
        = true := by
      simpa [hrtm, hlate] using hneed
    have hmiss : ringMiss s ctx q idx = missRecord (s.modDesc ctx q d.abs (fun d => { d with missed := true })) ctx d.cpl 0 q
        d.tag d.deadline 0xFFFFFF := by
      simp only [ringMiss, hfind]
      exact if_pos hneed
    exact ⟨_, congrArg Host.Outcome.next hmiss, rfl, (reg_missRecord ..).1⟩
  · refine ⟨_, rfl, ?_⟩
    simp [hreq, hkind, deliverRing, hhead, htreq, hphase]

/-! ### Completion records (R365, R366, R368) -/

theorem ctx_congr {s t : State} (h : t.ctxs = s.ctxs) (c : Nat) : t.ctx c = s.ctx c := by
  rw [State.ctx, State.ctx, h]

theorem Kept.ctx_eq {ps : List Part} {s t : State} (h : Kept ps s t) (hp : ps.contains Part.ctxs = false) (c : Nat) :
    t.ctx c = s.ctx c := ctx_congr (h.unchanged .ctxs hp) c

theorem sq_setCtx {s : State} {c : Nat} {x : Ctx} (h : x.sq = (s.ctx c).sq) (k : Nat) :
    ((s.setCtx c x).ctx k).sq = (s.ctx k).sq := by
  by_cases hk : k = c
  · rw [hk, State.ctx_setCtx_same, h]
  · rw [State.ctx_setCtx_ne _ _ hk]

theorem sq_noteProt (s : State) (ctx page c : Nat) : ((s.noteProt ctx page).ctx c).sq = (s.ctx c).sq := by
  have hread : ∀ a k, ((s.decodeClean a 1).2.ctx k) = s.ctx k := fun a k => (State.decodeClean_kept ..).ctx_eq rfl k
  rw [State.noteProt]
  split
  · rfl
  · dsimp only
    split
    · rw [sq_setCtx (by rw [hread]), hread]
    · rw [hread]

/-- An agent's write leaves the submission rings as they are. -/
theorem sq_agentWrite (s : State) (ctx a : Nat) (bs : List Byte) (bad : List Nat) (e c : Nat) :
    ((agentWrite s ctx a bs bad e).2.ctx c).sq = (s.ctx c).sq := by
  have hprot : ((if addrKind a = .brick then s.noteProt ctx (a / 0x200000) else s).ctx c).sq = (s.ctx c).sq := by
    split
    · exact sq_noteProt ..
    · rfl
  rw [agentWrite]
  split
  · exact (congrArg Ctx.sq (((State.putBytes_kept ..).ctx_eq rfl c).trans ((State.sendFlits_kept ..).ctx_eq rfl c))).trans hprot
  · exact (congrArg Ctx.sq ((State.addrError_kept ..).ctx_eq rfl c)).trans hprot

theorem sq_writeRecord (s : State) (ctx q : Nat) (bs : List Byte) (raise : Bool) (c : Nat) :
    ((writeRecord s ctx q bs raise).ctx c).sq = (s.ctx c).sq := by
  have hraise : ∀ u v, (if raise then raiseVector u ctx v else u).ctx c = u.ctx c := by
    intro u v
    split
    · exact (raiseVector_kept ..).ctx_eq rfl c
    · rfl
  have hcring : ∀ u x, ((State.setCRing u ctx q x).ctx c).sq = (u.ctx c).sq := fun u x => by
    rw [State.setCRing]
    refine sq_setCtx ?_ c
    rfl
  simp only [writeRecord]
  rw [hraise, sq_agentWrite, hcring, sq_agentWrite]

theorem ring_congr {x y : Ctx} (h : y.sq = x.sq) (q : Nat) : y.ring q = x.ring q := by
  rw [Ctx.ring, Ctx.ring, h]

/-- R363: the only descriptor of a bulk ring, once finished, leaves it with its record. -/
theorem sweepRing_of_single {s : State} {ctx q : Nat} {e : Desc} (hbulk : ((s.ctx ctx).ring q).timed = false)
    (hout : ((s.ctx ctx).ring q).out = [e]) (hdone : e.emittable = true) (htake : (s.ctx ctx).canTake e.cpl = true) :
    sweepRing 2 s ctx q = (writeRecord s ctx e.cpl (e.record ctx q s.now) e.irq).dropDesc ctx q e.abs := by
  have hemit : emitDesc s ctx q e = (writeRecord s ctx e.cpl (e.record ctx q s.now) e.irq).dropDesc ctx q e.abs :=
    if_pos htake
  have hring : ((writeRecord s ctx e.cpl (e.record ctx q s.now) e.irq).ctx ctx).ring q = (s.ctx ctx).ring q :=
    ring_congr (sq_writeRecord ..) q
  have hempty : ((((writeRecord s ctx e.cpl (e.record ctx q s.now) e.irq).dropDesc ctx q e.abs).ctx ctx).ring q) =
      { (s.ctx ctx).ring q with out := [] } := by
    rw [State.dropDesc, State.ring_setRing_same, hring, hout]
    simp
  have hstop : ∀ u, ((State.ctx u ctx).ring q) = { (s.ctx ctx).ring q with out := [] } → sweepRing 1 u ctx q = u := by
    intro u hu
    simp [sweepRing, hu, hbulk]
  rw [sweepRing]
  simp only [hbulk, hout, List.find?_cons, hdone, Bool.false_eq_true, if_false, hemit, hstop _ hempty, ite_self]

/-- R363, R365: a descriptor of a bulk ring with no other outstanding finishes. -/
theorem finishDesc_of_single {s : State} {ctx q st det : Nat} {d : Desc} (hbulk : ((s.ctx ctx).ring q).timed = false)
    (hout : ((s.ctx ctx).ring q).out = [d]) (htreq : d.treq = none) (htake : (s.ctx ctx).canTake d.cpl = true) :
    let e := { d with phase := .finished, status := st, detail := det }
    let s1 := s.setRing ctx q { (s.ctx ctx).ring q with out := [e] }
    finishDesc s ctx q d.abs st det = (writeRecord s1 ctx d.cpl (e.record ctx q s.now) d.irq).dropDesc ctx q d.abs := by
  intro e s1
  have hmod : s.modDesc ctx q d.abs (fun d => { d with phase := .finished, status := st, detail := det }) = s1 := by
    simp [State.modDesc, hout, s1, e]
  have hring : (s1.ctx ctx).ring q = { (s.ctx ctx).ring q with out := [e] } := State.ring_setRing_same ..
  have htake1 : (s1.ctx ctx).canTake e.cpl = true := by
    rw [show s1.ctx ctx = _ from State.ctx_setCtx_same ..]
    exact htake
  have hbulk1 : ((s1.ctx ctx).ring q).timed = false := by rw [hring]; exact hbulk
  have hout1 : ((s1.ctx ctx).ring q).out = [e] := by rw [hring]
  have hsweep := sweepRing_of_single hbulk1 hout1 (by simp [Desc.emittable, e, htreq]) htake1
  rw [finishDesc, hmod]
  simp only [hout1]
  exact hsweep

/-! ### A record in host memory (R27, R366) -/

theorem length_leBytes (n v : Nat) : (leBytes n v).length = n := by
  induction n generalizing v with
  | zero => rfl
  | succ n ih => rw [leBytes, List.length_cons, ih]

/-- The state once bytes have gone to a context's host memory (R27). -/
def State.hostPut (s : State) (ctx a : Nat) (bs : List Byte) (e : Nat := unitEnd 8) : State :=
  { s.sendFlits e (endOf a) (flitsOf bs.length) with hostMem := s.hostMem.writeBytes (s.hostAddr ctx a) bs }

@[simp] theorem State.hostPut_ctx (s : State) (ctx a : Nat) (bs : List Byte) (e c : Nat) :
    (s.hostPut ctx a bs e).ctx c = s.ctx c := rfl
@[simp] theorem State.hostPut_msix (s : State) (ctx a : Nat) (bs : List Byte) (e : Nat) :
    (s.hostPut ctx a bs e).msix = s.msix := rfl
@[simp] theorem State.hostPut_msixSent (s : State) (ctx a : Nat) (bs : List Byte) (e : Nat) :
    (s.hostPut ctx a bs e).msixSent = s.msixSent := rfl
@[simp] theorem State.hostPut_hostMem (s : State) (ctx a : Nat) (bs : List Byte) (e : Nat) :
    (s.hostPut ctx a bs e).hostMem = s.hostMem.writeBytes (s.hostAddr ctx a) bs := rfl

/-- R450: the message of a vector goes unless the vector is masked. -/
theorem msixSent_raiseVector (s : State) (fn v : Nat) : (raiseVector s fn v).msixSent =
    if (tget MsixVec.reset s.msix (fn * 32 + v)).masked = false then s.msixSent ++ [(fn, v)] else s.msixSent := by
  rw [raiseVector]
  cases h : (tget MsixVec.reset s.msix (fn * 32 + v)).masked <;> simp

/-- R27: a write to host memory that the context reaches stores its bytes there. -/
theorem agentWrite_host {s : State} {ctx a e : Nat} {bs : List Byte} (hkind : addrKind a = .host) (hctx : ctx < 64)
    (hserves : (s.ctx ctx).inReset = false) (hlimit : a - hostBase + bs.length ≤ 65536 * (s.ctx ctx).hostLimit) :
    agentWrite s ctx a bs [] e = (true, s.hostPut ctx a bs e) := by
  have hreach : s.reaches ctx a bs.length true = true := by
    have hne : ctx ≠ noCtx := Nat.ne_of_lt hctx
    simp only [State.reaches, hkind, Bool.and_eq_true, bne_iff_ne, decide_eq_true_eq]
    exact ⟨hne, hlimit⟩
  have hserves' : ((s.sendFlits e (endOf a) (flitsOf bs.length)).ctx ctx).inReset = false := hserves
  simp only [agentWrite, hkind, hreach, if_true, reduceCtorEq, if_false, State.putBytes, hserves', Bool.false_eq_true]
  rfl

theorem hostBase_le_of_host {a : Nat} (h : addrKind a = .host) : hostBase ≤ a := by
  simp only [addrKind] at h
  split at h
  · simp at h
  split at h
  · simp at h
  split at h
  · simp at h
  split at h
  · next hrange => simp at hrange; exact hrange.1
  · simp at h

/-- R27: the host bus address of a byte below the limit of a window that does not wrap. -/
theorem hostAddr_eq {s : State} {ctx a n : Nat}
    (hwindow : (s.ctx ctx).hostBase + 65536 * (s.ctx ctx).hostLimit ≤ 2 ^ 64) (hn : 0 < n)
    (hlimit : a - hostBase + n ≤ 65536 * (s.ctx ctx).hostLimit) :
    s.hostAddr ctx a = (s.ctx ctx).hostBase + (a - hostBase) := by
  rw [State.hostAddr]
  exact Nat.mod_eq_of_lt (by omega)

theorem readBytes_writeBytes_out {m : Memory} {a b n : Nat} {bs : List Byte} (h : m.wf = true)
    (hapart : b + n ≤ a ∨ a + bs.length ≤ b) : (m.writeBytes a bs).readBytes b n = m.readBytes b n := by
  refine List.map_congr_left fun i hi => read_writeBytes_out a bs _ h ?_
  have := List.mem_range.1 hi
  omega

section

variable {s : State} {ctx q : Nat} {bs : List Byte}

/-- R366: both writes of a record whose ring and write-back word lie in host memory. -/
theorem writeRecord_host (raise : Bool) (hctx : ctx < 64) (hserves : (s.ctx ctx).inReset = false) :
    let r := (s.ctx ctx).cring q
    let a := r.base + 32 * (r.head % 2 ^ r.log2)
    addrKind a = .host → addrKind r.wb = .host → a - hostBase + bs.length ≤ 65536 * (s.ctx ctx).hostLimit →
    r.wb - hostBase + 4 ≤ 65536 * (s.ctx ctx).hostLimit →
    ∃ u : State, writeRecord s ctx q bs raise = (if raise then raiseVector u ctx r.vector else u) ∧
      u.hostMem = (s.hostMem.writeBytes (s.hostAddr ctx a) bs).writeBytes (s.hostAddr ctx r.wb)
        (leBytes 4 ((r.head + 1) % 2 ^ r.log2)) ∧
      ((u.ctx ctx).cring q).head = r.head + 1 ∧ u.msix = s.msix ∧ u.msixSent = s.msixSent := by
  intro r a hkind hwb hlimit hlimitWb
  obtain ⟨s2, hs2⟩ : ∃ s2, s2 = (s.hostPut ctx a bs).setCRing ctx q { r with head := r.head + 1 } := ⟨_, rfl⟩
  have hctx2 : s2.ctx ctx = { s.ctx ctx with cq := tset { r with head := r.head + 1 } (s.ctx ctx).cq q } := by
    rw [hs2, State.setCRing, State.ctx_setCtx_same]
    rfl
  have hfirst : agentWrite s ctx a bs [] = (true, s.hostPut ctx a bs) := agentWrite_host hkind hctx hserves hlimit
  have hsecond := agentWrite_host (s := s2) (e := unitEnd 8) (bs := leBytes 4 ((r.head + 1) % 2 ^ r.log2)) hwb hctx
    (by rw [hctx2]; exact hserves) (by rw [hctx2, length_leBytes]; exact hlimitWb)
  refine ⟨s2.hostPut ctx r.wb (leBytes 4 ((r.head + 1) % 2 ^ r.log2)), ?_, ?_, ?_, ?_, ?_⟩
  · simp only [writeRecord]
    rw [show agentWrite s ctx _ bs [] _ = _ from hfirst, show State.setCRing (s.hostPut ctx a bs) ctx q _ = _ from hs2.symm,
      show agentWrite s2 ctx _ _ [] _ = _ from hsecond]
  · have haddr : s2.hostAddr ctx r.wb = s.hostAddr ctx r.wb := by rw [State.hostAddr, hctx2]; rfl
    rw [State.hostPut_hostMem, haddr, hs2, State.setCRing_hostMem, State.hostPut_hostMem]
  · rw [State.hostPut_ctx, hs2, State.cring_setCRing_same]
  · rw [State.hostPut_msix, hs2, State.setCRing_msix, State.hostPut_msix]
  · rw [State.hostPut_msixSent, hs2, State.setCRing_msixSent, State.hostPut_msixSent]

end

/-- Settles O19: the record leaves with its descriptor; the two writes of a record lie apart in host memory. -/
theorem completionRecordWritten : Obligations.CompletionRecordWritten := by
  unfold Obligations.CompletionRecordWritten
  refine ⟨fun s ctx q d st det hbulk hout htreq htake => finishDesc_of_single hbulk hout htreq htake, ?_⟩
  intro s ctx q bs raise hcanon hctx hlen r a hkind hwb hserves hwindow hlimit hlimitWb hapart s'
  obtain ⟨u, hs', hmem, hhead, hmsix, hsent⟩ := writeRecord_host (bs := bs) raise hctx hserves hkind hwb
    (by rw [hlen]; exact hlimit) hlimitWb
  have hs' : s' = _ := hs'
  have hraise : s'.hostMem = u.hostMem ∧ s'.ctxs = u.ctxs := by
    rw [hs']
    split
    · exact ⟨(raiseVector_kept ..).unchanged .hostMem rfl, (raiseVector_kept ..).unchanged .ctxs rfl⟩
    · exact ⟨rfl, rfl⟩
  have hbytes : (leBytes 4 ((r.head + 1) % 2 ^ r.log2)).length = 4 := length_leBytes ..
  have hwf := hcanon.mem.2.1
  have hwf1 := writeBytes_wf (s.hostAddr ctx a) bs hwf
  have haddr : s.hostAddr ctx a = (s.ctx ctx).hostBase + (a - hostBase) := hostAddr_eq hwindow (by decide) hlimit
  have haddrWb : s.hostAddr ctx r.wb = (s.ctx ctx).hostBase + (r.wb - hostBase) := hostAddr_eq hwindow (by decide) hlimitWb
  have hlo := hostBase_le_of_host hkind
  have hloWb := hostBase_le_of_host hwb
  have hdisjoint : s.hostAddr ctx a + 32 ≤ s.hostAddr ctx r.wb ∨ s.hostAddr ctx r.wb + 4 ≤ s.hostAddr ctx a := by
    rw [haddr, haddrWb]
    omega
  refine ⟨?_, ?_, ?_, fun x hx hxWb => ?_, ?_⟩
  · rw [hraise.1, hmem, readBytes_writeBytes_out hwf1 (by rw [hbytes]; exact hdisjoint), ← hlen]
    exact readBytes_writeBytes _ _ hwf
  · have := readBytes_writeBytes (s.hostAddr ctx r.wb) (leBytes 4 ((r.head + 1) % 2 ^ r.log2)) hwf1
    rw [hbytes] at this
    rw [hraise.1, hmem, this]
  · rw [ctx_congr hraise.2]
    exact hhead
  · rw [hraise.1, hmem, read_writeBytes_out _ _ _ hwf1 (by rw [hbytes]; exact hxWb),
      read_writeBytes_out _ _ _ hwf (by rw [hlen]; exact hx)]
  · rw [hs']
    cases raise with
    | false => exact hsent
    | true =>
      rw [if_pos rfl, msixSent_raiseVector, hmsix, hsent]
      simp only [true_and]
      rfl

end Sys2Proof.Machine

/-! SUPPORT. Launches, copies and fences (R370 to R376). -/

namespace Sys2Proof.Machine

/-! ### Launches (R370, R371) -/

theorem leNat_lt (bs : List Byte) : leNat bs < 256 ^ bs.length := by
  induction bs with
  | nil => simp [leNat]
  | cons b r ih =>
    have hb : b.toNat < 256 := b.isLt
    rw [leNat, List.length_cons, Nat.pow_succ]
    omega

theorem fld_lt (bs : List Byte) (o n : Nat) : fld bs o n < 256 ^ n := by
  refine (leNat_lt _).trans_le (Nat.pow_le_pow_right (by decide) ?_)
  rw [slice]
  exact (List.length_take_le ..)

section

variable {s : State} {l : Launch}

theorem takeLaunch_of_new {ctx q : Nat} {d : Desc} (h : ∀ l ∈ s.launches, ¬ (l.ctx = ctx ∧ l.ring = q ∧ l.abs = d.abs)) :
    takeLaunch s ctx q d = { s with nextId := s.nextId + 1, launches := s.launches ++
      [{ id := s.nextId, ctx := ctx, ring := q, abs := d.abs, bytes := d.bytes, running := false, skipped := 0,
         faulted := 0, stopped := false, left := [] }] } := by
  refine if_neg ?_
  simp only [List.any_eq_true, Bool.and_eq_true, beq_iff_eq]
  rintro ⟨l, hl, ⟨hctx, hring⟩, habs⟩
  exact h l hl ⟨hctx, hring, habs⟩

/-- The launch as it runs: the tiles that it does not skip are left. -/
def Launch.started (l : Launch) (s : State) : Launch :=
  { l with running := true, left := (lTiles l.bytes).filter (fun t => !(s.tile t).skipped),
           skipped := (lTiles l.bytes).length - ((lTiles l.bytes).filter (fun t => !(s.tile t).skipped)).length }

/-- The state as a launch starts, before its tiles do. -/
def State.launchStarts (s : State) (l : Launch) : State :=
  ({ s with launches := s.launches.map (fun (x : Launch) => if x.id = l.id then l.started s else x),
            links := { s.links with startedCtx := true } } : State).startDesc l.ctx l.ring l.abs

theorem startLaunch_of_no_adapter (h : lAdpDir l.bytes = 0) : startLaunch s l =
    launchEnd ((l.started s).left.foldl (startTile (l.started s) none) (s.launchStarts l)) l.id := by
  simp only [startLaunch, h]
  rfl

/-! ### A tile that starts (R371) -/

theorem launchSplit_tile (s : State) (t c : Nat) (z : Bool) :
    (launchSplit s t c z).tile t = { s.tile t with split := c } ∧ otherTiles s (launchSplit s t c z) t := by
  have hundef : ∀ (u : State) a n k, (u.undefine a n).tile k = u.tile k := fun u a n => (State.undefine_kept ..).tile_eq rfl
  rw [launchSplit]
  refine ⟨?_, fun k hk => ?_⟩
  · split
    · rw [hundef, State.tile_modTile_same]
    · rw [State.tile_modTile_same]
  · split
    · rw [hundef, State.tile_modTile_ne _ _ hk]
    · rw [State.tile_modTile_ne _ _ hk]

theorem agentMove_zero (s : State) (ctx src dst e : Nat) : agentMove s ctx src dst 0 e = ((true, [], 0), s) := rfl

/-- R371: a tile whose launch reads no table, no adapter and no preload starts at once. -/
theorem startTile_of_plain {t : Nat} (hadapter : lAdpDir l.bytes = 0) (htable : lTableEn l.bytes = false)
    (hpre : lPreLen l.bytes = 0) : ∃ u : State, startTile l none s t = (u.setTile t
        (({ s.tile t with cache := [], split := lCache l.bytes } : Tile).begin u l t (lImage l.bytes) (lStart l.bytes) 0)).endQueues
          (fun k => k.1 == 1 && k.2.2 / 16 == t) ∧ otherTiles s u t := by
  obtain ⟨hflush, hflushOther⟩ := flushCache_tile s t
  obtain ⟨z, hz⟩ : ∃ z, z = (s.tile t).foreign l.ctx := ⟨_, rfl⟩
  obtain ⟨v, hv⟩ : ∃ v : State, v = if z then (flushCache s t).zeroScratch t else flushCache s t := ⟨_, rfl⟩
  have hvtile : ∀ k, v.tile k = (flushCache s t).tile k := fun k => by
    rw [hv]
    split
    · rw [State.tile_zeroScratch]
    · rfl
  obtain ⟨hsplit, hsplitOther⟩ := launchSplit_tile v t (lCache l.bytes) z
  refine ⟨launchSplit v t (lCache l.bytes) z, ?_, fun k hk => ?_⟩
  · have hbegin : (launchSplit v t (lCache l.bytes) z).modTile t (fun x => x.begin (launchSplit v t (lCache l.bytes) z) l t
        (lImage l.bytes) (lStart l.bytes) 0) = (launchSplit v t (lCache l.bytes) z).setTile t
        (({ s.tile t with cache := [], split := lCache l.bytes } : Tile).begin (launchSplit v t (lCache l.bytes) z) l t
          (lImage l.bytes) (lStart l.bytes) 0) := by
      rw [State.modTile_eq, hsplit, hvtile, hflush]
    rw [← hbegin]
    simp only [startTile, hadapter, htable, hpre, readIf, putAdapter, agentMove_zero, ← hz, ← hv]
    rfl
  · rw [hsplitOther k hk, hvtile, hflushOther k hk]

theorem Tile.length_setS (x : Tile) (i v : Nat) : (x.setS i v).sregs.length = x.sregs.length := by
  rw [Tile.setS]
  split
  · rfl
  · exact List.length_set ..

/-- R371 item 7: the scalar registers that a launch sets. -/
theorem Tile.sreg_begin {x : Tile} (h : x.sregs.length = 16) (t image start : Nat) :
    let y := x.begin s l t image start 0
    y.sreg 1 = lArg l.bytes ∧
    y.sreg 2 = ((tileY t - lY0 l.bytes) * (lWm1 l.bytes + 1) + (tileX t - lX0 l.bytes)) % 2 ^ 64 ∧ y.sreg 3 = t % 2 ^ 64 ∧
    y.sreg 4 = lWm1 l.bytes + 1 + 65536 * (lHm1 l.bytes + 1) ∧ y.sreg 5 = 0 ∧ ∀ i, 6 ≤ i → y.sreg i = x.sreg i := by
  have harg : lArg l.bytes < 256 ^ 6 := fld_lt ..
  have hw : lWm1 l.bytes < 256 ^ 1 := fld_lt ..
  have hh : lHm1 l.bytes < 256 ^ 1 := fld_lt ..
  refine ⟨?_, ?_, ?_, ?_, ?_, fun i hi => ?_⟩ <;> rw [Tile.begin]
  · rw [Tile.sreg_setS_of_ne _ (by decide), Tile.sreg_setS_of_ne _ (by decide), Tile.sreg_setS_of_ne _ (by decide),
      Tile.sreg_setS_of_ne _ (by decide), Tile.sreg_setS_same _ (by decide) (by simp only [h]; decide)]
    omega
  · rw [Tile.sreg_setS_of_ne _ (by decide), Tile.sreg_setS_of_ne _ (by decide), Tile.sreg_setS_of_ne _ (by decide),
      Tile.sreg_setS_same _ (by decide) (by simp only [Tile.length_setS, h]; decide)]
  · rw [Tile.sreg_setS_of_ne _ (by decide), Tile.sreg_setS_of_ne _ (by decide),
      Tile.sreg_setS_same _ (by decide) (by simp only [Tile.length_setS, h]; decide)]
  · rw [Tile.sreg_setS_of_ne _ (by decide),
      Tile.sreg_setS_same _ (by decide) (by simp only [Tile.length_setS, h]; decide)]
    omega
  · rw [Tile.sreg_setS_same _ (by decide) (by simp only [Tile.length_setS, h]; decide), Nat.zero_mod]
  · rw [Tile.sreg_setS_of_ne _ (by omega), Tile.sreg_setS_of_ne _ (by omega), Tile.sreg_setS_of_ne _ (by omega),
      Tile.sreg_setS_of_ne _ (by omega), Tile.sreg_setS_of_ne _ (by omega)]
    rfl

end

/-! ### Copies (R373) -/

section

variable {s : State} {ctx q : Nat} {d : Desc}

theorem startCopy_of_device (hstall : copyStalled s d.bytes = false) (hkind : addrKind (cpSrc d.bytes) ≠ .host) :
    startCopy s ctx q d = runCopy s ctx q d :=
  (if_neg (by simp only [hstall, Bool.false_eq_true, not_false_eq_true])).trans (if_pos hkind)

/-- R373: a copy that finds no uncorrectable word completes with status 0. -/
theorem runCopy_of_clean {n : Nat}
    (h : (agentMove (s.startDesc ctx q d.abs) ctx (cpSrc d.bytes) (cpDst d.bytes) (cpLen d.bytes)).1 = (true, [], n)) :
    runCopy s ctx q d = endCopy (agentMove (s.startDesc ctx q d.abs) ctx (cpSrc d.bytes) (cpDst d.bytes) (cpLen d.bytes)).2
      ctx q d true false n := by
  simp only [runCopy, h]
  rfl

theorem startCopy_of_host (hstall : copyStalled s d.bytes = false) (hkind : addrKind (cpSrc d.bytes) = .host)
    (hlen : s.copies.length < 4) :
    let k := kvUse s (s.overPool (cpDst d.bytes) (cpDst d.bytes + cpLen d.bytes))
    startCopy s ctx q d = pumpCopy { k.2.startDesc ctx q d.abs with
      copies := s.copies ++ [{ ctx := ctx, ring := q, abs := d.abs, asked := 0, landed := 0, ok := true, bad := false,
                               moved := 0, kvUser := k.1 }] } ctx q d := by
  intro k
  have hcopies : k.2.copies = s.copies := (kvUse_kept ..).unchanged .copies rfl
  refine (if_neg (by simp only [hstall, Bool.false_eq_true, not_false_eq_true])).trans
    ((if_neg (not_not.mpr hkind)).trans ((if_neg (Nat.not_le.mpr hlen)).trans ?_))
  rw [← hcopies]

end

/-- Settles O20: each row runs the function that its case names; a tile that starts at once has its launch's registers. -/
theorem launchCopyFenceComplete : Obligations.LaunchCopyFenceComplete := by
  refine ⟨?launch, ?start, ?tile, ?copy, ?copyHost, ?fence, ?stop, ?release⟩
  case launch =>
    intro s ctx q d hd hnew
    refine ⟨takeLaunch s ctx q d, ?_, ?_⟩
    · show execLaunch ctx q s = _
      simp only [execLaunch, hd]
    · rw [takeLaunch_of_new hnew]
      exact ⟨takeLaunch_of_new hnew ▸ (takeLaunch_kept ..).same, rfl, rfl⟩
  case start =>
    intro s id l hl hblocked hstage hout hadapter
    refine ⟨startLaunch s l, ?_, s.launchStarts l, l.started s, startLaunch_of_no_adapter hadapter, rfl, rfl, rfl, rfl, rfl, rfl,
      fun t => rfl, rfl, rfl⟩
    show execLaunchStart id s = _
    simp only [execLaunchStart, hl, hblocked, hstage, hout]
    rfl
  case tile =>
    intro s l t hadapter htable hpre hlen
    obtain ⟨u, hu, hother⟩ := startTile_of_plain hadapter htable hpre
    have htile : (startTile l none s t).tile t = _ := (congrArg (State.tile · t) hu).trans (State.tile_setTile_same ..)
    obtain ⟨h1, h2, h3, h4, h5, hrest⟩ := Tile.sreg_begin (s := u) (l := l)
      (x := { s.tile t with cache := [], split := lCache l.bytes }) hlen t (lImage l.bytes) (lStart l.bytes)
    refine ⟨fun k hk => ?_, ?_⟩
    · rw [hu]
      exact (State.tile_setTile_ne _ _ hk).trans (hother k hk)
    · rw [htile]
      exact ⟨rfl, rfl, rfl, rfl, rfl, rfl, rfl, rfl, rfl, h1, h2, h3, h4, h5, hrest, rfl⟩
  case copy =>
    intro s ctx q d n hd hout hstall hkind m hm
    refine ⟨startCopy s ctx q d, ?_, ?_⟩
    · show execCopy ctx q s = _
      simp only [execCopy, hd, hout]
      rfl
    · rw [startCopy_of_device hstall hkind, runCopy_of_clean hm]
      rfl
  case copyHost =>
    intro s ctx q d hd hout hstall hkind hlen
    refine ⟨startCopy s ctx q d, ?_, startCopy_of_host hstall hkind hlen⟩
    show execCopy ctx q s = _
    simp only [execCopy, hd, hout]
    rfl
  case fence =>
    intro s ctx q d hd
    refine ⟨_, ?_, rfl⟩
    show execFenceDesc ctx q s = _
    simp only [execFenceDesc, hd]
  case stop =>
    intro s ctx q d hd hdetail
    refine ⟨_, ?_, rfl⟩
    show execFenceStop ctx q s = _
    simp only [execFenceStop, hd, hdetail]
    rfl
  case release =>
    intro s ctx q d hd hready
    refine ⟨releaseFence s ctx q d, ?_, _, _, _, rfl, rfl, rfl⟩
    show execFenceDescRelease ctx q s = _
    simp only [execFenceDescRelease, hd, hready]
    rfl

end Sys2Proof.Machine

/-! SUPPORT. Joint operation descriptors, releases and signals (R374, R379, R381). -/

namespace Sys2Proof.Machine

theorem completes_of_exec {i : Instr} {s t : State} {P : State → Prop} (h : exec i s = .next t) (hp : P t) : completes i s P :=
  ⟨t, h, hp⟩

theorem Kept.joint_eq {ps : List Part} {s t : State} (h : Kept ps s t) (hp : ps.contains .joints = false) (j : Nat) :
    t.joint j = s.joint j := congrArg (tget Joint.reset · j) (h.unchanged .joints hp)

/-- R374, R378: the operation of a descriptor whose joint the context may use. -/
theorem jointDesc_of_ok {s : State} {ctx q op : Nat} {d : Desc} (hd : nextJointDesc s ctx q op = some d)
    (hok : s.jointOk ctx d.joint = true) (k : State → Desc → State) :
    jointDesc s ctx q op k = k (s.startDesc ctx q d.abs) d := by
  rw [jointDesc, hd]
  exact if_pos hok

/-- R374: what stands in the state once the result of a joint operation is written. -/
theorem jointResult_of_written {s s1 : State} {ctx q v : Nat} {d : Desc} (hresult : d.resultAddr ≠ 0)
    (h : agentWriteAll s ctx d.resultAddr (leBytes 8 v) [] = (true, s1)) :
    jointResult s ctx q d v = finishDesc s1 ctx q d.abs 0 v := by
  rw [jointResult, if_neg hresult, h]
  rfl

theorem signalDesc_of_sent {s s1 : State} {ctx q : Nat} {d : Desc} (h : sendSignal (s.startDesc ctx q d.abs) ctx
      (fldBits d.bytes 20 2 0 12) (fldBits d.bytes 22 2 0 14) d.value d.tag (if d.treq.isSome then 0 else 1) = (.sent, s1)) :
    signalDesc s ctx q d = finishDesc s1 ctx q d.abs 0 0 := by
  rw [signalDesc]
  simp only [h]

theorem releaseOldest_of_ready {s : State} {j : Nat} {w : JWho × JNeed}
    (h : (s.joint j).waits.find? (fun w => (s.joint j).ready w.2) = some w) :
    releaseOldest s j = releaseWait (s.setJoint j { s.joint j with
      waits := dropFirst (fun w => (s.joint j).ready w.2) (s.joint j).waits }) j w.1 w.2 := by
  rw [releaseOldest, h]

theorem takeSignal_of_ok {s : State} {p : Nat} {m : RxMsg} (hvalid : (s.joint (msgAddr m.bytes % 2 ^ 14)).valid = true)
    (hremote : (s.joint (msgAddr m.bytes % 2 ^ 14)).remoteOk = true) : takeSignal s p m =
      jointAdd (s.consume p m) (msgAddr m.bytes % 2 ^ 14) (fld m.bytes 32 8) (p / 2) := by
  have hjoint : (s.consume p m).joint (msgAddr m.bytes % 2 ^ 14) = s.joint (msgAddr m.bytes % 2 ^ 14) :=
    (State.consume_kept ..).joint_eq rfl _
  rw [takeSignal, hjoint]
  exact if_pos (by rw [hvalid, hremote]; rfl)

/-- Settles O21: each operation of a joint descriptor on its joint, the release of a wait by its kind, and the two ends of a
joint signal. -/
theorem jointDescriptorsComplete : Obligations.JointDescriptorsComplete := by
  refine ⟨?ops, ?noResult, ?result, ?signal, ?release, ?message⟩
  case ops =>
    intro s ctx q d op hd hok s1 j up put
    refine ⟨?_, ?_, ?_, ?_, ?_, ?_, ?_⟩ <;> rintro rfl
    · exact completes_of_exec (congrArg Host.Outcome.next (jointDesc_of_ok hd hok _)) rfl
    · exact completes_of_exec (congrArg Host.Outcome.next (jointDesc_of_ok hd hok _)) rfl
    · exact completes_of_exec (congrArg Host.Outcome.next (jointDesc_of_ok hd hok _)) rfl
    · intro htimed hle
      refine completes_of_exec (congrArg Host.Outcome.next (jointDesc_of_ok hd hok _)) ?_
      exact (if_neg (by rw [htimed]; exact Bool.false_ne_true)).trans (if_pos hle)
    · intro htimed hlt
      refine completes_of_exec (congrArg Host.Outcome.next (jointDesc_of_ok hd hok _)) ?_
      exact (if_neg (by rw [htimed]; exact Bool.false_ne_true)).trans (if_neg (Nat.not_le.mpr hlt))
    · exact completes_of_exec (congrArg Host.Outcome.next (jointDesc_of_ok hd hok _)) rfl
    · exact completes_of_exec (congrArg Host.Outcome.next (jointDesc_of_ok hd hok _)) rfl
  case noResult =>
    intro s ctx q d v hresult
    exact if_pos hresult
  case result =>
    intro s ctx q d v s1 hresult hwritten
    exact jointResult_of_written hresult hwritten
  case signal =>
    intro s ctx q d s1 hd hsent
    refine completes_of_exec (t := signalDesc s ctx q d) ?_ (signalDesc_of_sent hsent)
    show execJointDescSignal ctx q s = _
    rw [execJointDescSignal, hd]
  case release =>
    intro s j who n hready s1 s2
    refine completes_of_exec (congrArg Host.Outcome.next (releaseOldest_of_ready hready)) ?_
    cases n <;> rfl
  case message =>
    intro s p m hm hvalid hremote
    refine completes_of_exec (t := takeSignal s p m) ?_ (takeSignal_of_ok hvalid hremote)
    show execJointSignalMsg p s = _
    rw [execJointSignalMsg, hm]

end Sys2Proof.Machine

/-! SUPPORT. Writes of one register (R446 to R448), and the rows that are such writes. -/

namespace Sys2Proof.Machine

/-! ### A whole write of a word of function 0's map -/

/-- A word that writes reach, all of whose writable fields need the unlock (`key`), or none. -/
structure WritableWord (off : Nat) (key : Bool) : Prop where
  decode : decodeOffset off = .word (mapWord off)
  off_eq : (mapWord off).off = off
  canon_eq : canon off = off
  wk : (mapWord off).mask .wk = 0 ↔ key = false
  plain : key = false → (mapWord off).mask .rw + (mapWord off).mask .wo ≠ 0

/-- What `WritableWord` says of a word, evaluated on the register map. -/
def writableWord (off : Nat) (key : Bool) : Bool :=
  decide (decodeOffset off = .word (mapWord off)) && (mapWord off).off == off && canon off == off &&
    decide ((mapWord off).mask .wk = 0) == !key && (key || (mapWord off).mask .rw + (mapWord off).mask .wo != 0)

theorem writableWord_of {off : Nat} {key : Bool} (h : writableWord off key = true) : WritableWord off key := by
  simp only [writableWord, Bool.and_eq_true, decide_eq_true_eq, beq_iff_eq, Bool.or_eq_true, bne_iff_ne] at h
  obtain ⟨⟨⟨⟨hdecode, hoff⟩, hcanon⟩, hwk⟩, hplain⟩ := h
  refine ⟨hdecode, hoff, hcanon, ?_, fun hkey => hplain.resolve_left (by simp only [hkey, Bool.false_eq_true, not_false_eq_true])⟩
  rw [← Bool.not_eq_true', ← hwk, decide_eq_true_eq]

section

variable {s : State} {m off v : Nat}

theorem seenAt_of_way (h : noWay m = false) : seenAt m off = canon off := by
  rw [noWay] at h
  rw [seenAt, h]
  rfl

theorem namedWrite_of_way (h : wayTo s m off) (hdecode : decodeOffset off = .word (mapWord off)) :
    namedWrite s m off v = writeWord s m (canon off) (mapWord off) v := by
  obtain ⟨hway, hreach, hdom, -⟩ := h
  have htarget : decodeFor m off = .word (mapWord off) := (decodeFor_of_way hway off).trans hdecode
  rw [namedWrite, hway, if_neg Bool.false_ne_true, writeReg, hreach, if_neg Bool.false_ne_true, hdom, htarget, seenAt_of_way hway]
  rfl

/-- The state once a write has used the unlock, where its word needs one. -/
theorem consumeUnlock_of_key {key : Bool} (h : WritableWord off key) (hkey : key = true → s.unlocked m = true) :
    consumeUnlock s m (mapWord off) = if key then rearm s m else s := by
  cases key with
  | false => exact if_pos (h.wk.mpr rfl)
  | true => exact (if_neg (fun h0 => Bool.noConfusion (h.wk.mp h0))).trans (if_pos (hkey rfl))

theorem unitAbsent_rearm (key : Bool) : (if key then rearm s m else s).unitAbsent off = s.unitAbsent off := by
  cases key <;> rfl

theorem ignores_rearm (key : Bool) (k idx w : Nat) : (if key then rearm s m else s).ignores k off idx w = s.ignores k off idx w := by
  cases key <;> rfl

/-- R446 to R448: a write of legal values that the state takes does what its word does. -/
theorem writeWord_of_legal {key : Bool} (h : WritableWord off key) (hunit : s.unitAbsent off = false)
    (hkey : key = true → s.unlocked m = true) (hlegal : legalWrite s m off v)
    (hignores : s.ignores m off (s.bankAt m off) (s.written m off v) = false) : writeWord s m (canon off) (mapWord off) v =
      commitWord (if key then rearm s m else s) m off off (s.bankAt m off) (s.written m off v) := by
  obtain ⟨hclamps, hclampWord⟩ := hlegal
  have hwritable : ¬ ((mapWord off).mask .rw + (mapWord off).mask .wo = 0 ∧ (s.unlocked m = false ∨ (mapWord off).mask .wk = 0)) := by
    rintro ⟨hrw, hwk⟩
    have hfalse : key ≠ false := fun hk => h.plain hk hrw
    have htrue : key = true := by simpa only [Bool.not_eq_false] using hfalse
    rcases hwk with hlocked | hwk
    · exact Bool.noConfusion ((hkey htrue).symm.trans hlocked)
    · exact hfalse (h.wk.mp hwk)
  rw [writeWord]
  simp only [h.off_eq, h.canon_eq, consumeUnlock_of_key h hkey, unitAbsent_rearm, hunit, ignores_rearm, Bool.false_or]
  rw [if_neg (by simpa only [Bool.and_eq_true, Bool.or_eq_true, decide_eq_true_eq, Bool.not_eq_true'] using hwritable)]
  refine (if_neg (by exact Bool.eq_false_iff.mp hignores)).trans (if_neg ?_)
  simp only [hclamps, hclampWord, bne_self_eq_false, Bool.or_self, Bool.false_and, Bool.false_eq_true, not_false_eq_true]

end

/-- A row that is a whole write of one word completes with what the word does; what it needs of the state does not rest on
the unlock. -/
theorem writesWord_of {i : Nat → Word → Instr} {off : Nat} {key : Bool} {ok : State → Nat → Nat → Prop}
    {g : State → Nat → Nat → State} (hrow : ∀ m v s, exec (i m v) s = .next (namedWrite s m off v.toNat))
    (hword : writableWord off key = true) (hok : ∀ s m w, ok s m w → ok (rearm s m) m w)
    (heffect : ∀ s m w, s.ignores m off (s.bankAt m off) w = false → ok s m w →
      commitWord s m off off (s.bankAt m off) w = g s m w) : writesWord i off key ok g := by
  intro s m v hway hkey hlegal hignores hs
  have hw := writableWord_of hword
  refine completes_of_exec (hrow m v s) ?_
  rw [namedWrite_of_way hway hw.decode, writeWord_of_legal hw hway.2.2.2 hkey hlegal hignores]
  cases key with
  | false => exact heffect s m _ hignores hs
  | true => exact heffect (rearm s m) m _ hignores (hok s m _ hs)

/-! ### The rows of one register (O22) -/

theorem requestDuty_of_raise {s : State} {v : Nat} (h : s.power.dutyAdm ≤ v) : requestDuty s v =
    capMark (s.modPower (fun p => { p with dutyAdm := v, dutyPend := none, duty := max p.duty v })) :=
  congrArg capMark (if_pos h)

theorem requestDuty_of_lowering {s : State} {v : Nat} (h : v < s.power.dutyAdm) : requestDuty s v =
    capMark (if s.allPass s.time.pp (s.dutyShare v) then s.modPower (fun p => { p with dutyAdm := v, dutyPend := none })
      else s.modPower (fun p => { p with dutyPend := some v })) :=
  congrArg capMark (if_neg (Nat.not_le.mpr h))

theorem kvPages_setReg (s : State) (v : Nat) : (s.setReg 0x15000 0 v).kvPages = s.kvPages :=
  s.reg_setReg_ne v (regKey_ne_off (by decide))

theorem kvCtrl_of_enabling {s : State} {v : Nat} (hoff : s.kvEn = false) (hen : bitAt v 0 = true) : kvCtrl s v =
    State.undefineMeta { s.setReg 0x15000 0 v with kv := { s.kv with
      pages := [], copies := s.kv.copies.map (fun (k : KvCopy) => { k with gone := true }) } } 0 s.kvPages := by
  refine (if_neg (Bool.eq_false_iff.mp hoff)).trans ((if_pos hen).trans ?_)
  rw [kvPages_setReg, State.setReg_kv]

theorem kvCtrl_of_not_enabling {s : State} {v : Nat} (h : s.kvEn = true ∨ bitAt v 0 = false) : kvCtrl s v =
    if s.kvEn then s.setRegFld 0x15000 0 0 1 v else s.setReg 0x15000 0 v := by
  rw [kvCtrl]
  split
  · rfl
  · next hoff => exact if_neg (Bool.eq_false_iff.mp (h.resolve_left hoff))

theorem supplyWrite_of_idle {s : State} {m b v : Nat} (hidle : ∀ c ∈ brickChans b, (s.chan c).state = .fenced ∨ (s.chan c).state = .spalled)
    (hv : v ≠ 0) : supplyWrite s m b v = ((brickChans b).filter (fun c => decide ((s.chan c).state = .fenced))).foldl
      (fun s c => (s.modChan c (fun x => { x with selftestPassed := false })).undefine (0x2000000 * c) 0x2000000)
      (s.setReg 0x17050 b v) := by
  have hall : (brickChans b).all (fun c => decide ((s.chan c).state = .fenced) || decide ((s.chan c).state = .spalled)) = true := by
    simpa only [List.all_eq_true, Bool.or_eq_true, decide_eq_true_eq] using hidle
  refine (if_neg ?_).trans (if_pos hv)
  rw [hall]
  exact Bool.false_ne_true

/-- R301: ENABLE, as a write of LINK_CTRL leaves it. -/
theorem linkEnabled_setReg {s : State} (h : s.Canon) (p w : Nat) :
    (s.setReg 0x1B00C p (setBits w 3 1 0)).linkEnabled p = bitAt w 0 := by
  rw [State.linkEnabled, s.reg_setReg_same _ _ _ h.regs, bitAt, bitAt, Nat.testBit_zero, Nat.testBit_zero, setBits, bits]
  congr 1
  rw [eq_iff_iff]
  omega

theorem linkCtrl_of_enabled {s : State} {p : Nat} {r : Bool} (h : s.linkEnabled p = true) :
    linkCtrl s p false r = portDown s p .dark 0 := by
  rw [linkCtrl, h]
  exact (if_neg Bool.false_ne_true).trans (if_pos (by rw [Bool.not_false, Bool.or_true]))

theorem linkCtrl_of_disabled {s : State} {p : Nat} (h : s.linkEnabled p = false) (hphase : (s.port p).phase ≠ .off) (was r : Bool) :
    linkCtrl s p was r = portDown s p .off 0 := by
  rw [linkCtrl, h]
  exact if_neg hphase

theorem commitWord_linkCtrl {s : State} {m p w : Nat} (hp : p < 8) : commitWord s m 0x1B00C 0x1B00C p w =
    linkCtrl (s.setReg 0x1B00C p (setBits w 3 1 0)) p (s.linkEnabled p) (bitAt w 3) := if_neg (Nat.not_le.mpr hp)

theorem collGroupSet_of_enabling {s : State} {c g w : Nat} (hen : bitAt w 0 = true) (hoff : (s.group c g).en = false) :
    collGroupSet s c g w = s.setGroup c g
      { en := true, axis := bits w 1 2, len := clampTo 2 64 (bits w 3 7),
        rank := min (bits w 10 6) (clampTo 2 64 (bits w 3 7) - 1), seq := 0 } := by
  rw [collGroupSet]
  simp only [hen, hoff]
  rfl

theorem contCtrl_of_enabling {s : State} {m c w : Nat} (hoff : bitAt (s.reg 0x1E004 c) 0 = false) (hen : bitAt w 0 = true)
    (hlayout : genLayoutOk (s.setReg 0x1E004 c (setBits w 0 1 0)) c = true) : contCtrl s m c w =
      contWatch (((s.setReg 0x1E004 c (setBits w 0 1 0)).setReg 0x1E004 c w).setCont c { s.cont c with st := .running }) := by
  rw [contCtrl]
  simp only [hoff, hen, hlayout]
  rfl

theorem jntCfg_of_validating {s : State} {j w o m : Nat} (hwaits : (s.joint j).waits = []) (hvalid : bitAt w 0 = true)
    (hold : (s.joint j).valid = false) : jntCfg s j w o m = s.setJoint j { s.joint j with
      valid := true, owner := bits w 1 6, remoteOk := bitAt w 7, value := 0, ticket := 0 } := by
  rw [jntCfg]
  simp only [hwaits, hvalid, hold]
  rfl

theorem sqControl_of_enabling {s : State} {m a c q w : Nat} (hen : bitAt w 0 = true) (hoff : ((s.ctx c).ring q).en = false) :
    let h := ceilDiv ((s.ctx c).ring q).head (2 ^ (4 + bits w 1 4)) * 2 ^ (4 + bits w 1 4)
    sqControl s m a c q w = (s.setRing c q { (s.ctx c).ring q with
      log2 := 4 + bits w 1 4, timed := bitAt w 5, rtm := bitAt w 6, en := true, start := h, head := h, tail := h,
      doors := [] }).endQueues (fun k => k == (0, c, q)) := by
  intro h
  rw [sqControl, hoff]
  exact (if_neg Bool.false_ne_true).trans (if_pos hen)

theorem cqControl_of_enabling {s : State} {m a c q w : Nat} (hen : bitAt w 0 = true) (hoff : ((s.ctx c).cring q).en = false) :
    cqControl s m a c q w = mbPumpAll (s.setCRing c q { (s.ctx c).cring q with
      log2 := 4 + bits w 1 4, vector := bits w 7 5, en := true, head := 0, db := 0 }) c := by
  rw [cqControl]
  simp only [hoff, hen]
  rfl

/-- R451: a write of the context table's control word without RESET. -/
theorem ctControl_of_no_reset {s : State} {m a c w : Nat} (hreset : bitAt w 1 = false) : ctControl s m a c w =
    if bitAt w 0 = (s.ctx c).enable then s
    else if bitAt w 0 then
      (if s.trust.rebuilding || s.trust.stage != 6 || s.ctxs.any (fun d => d.1 != c && d.2.enable && (s.ctx c).overlaps d.2) then
        s.clampEvent a m 2
      else s.setCtx c { s.ctx c with enable := true })
    else
      let t := if (s.ctx c).fnEn then ctxReset s c else s
      t.setCtx c { t.ctx c with enable := false } := by
  rw [ctControl, hreset]
  rfl

theorem ctControl_of_enabling {s : State} {m a c w : Nat} (hen : bitAt w 0 = true) (hreset : bitAt w 1 = false)
    (hoff : (s.ctx c).enable = false) (hrebuild : s.trust.rebuilding = false) (hstage : s.trust.stage = 6)
    (hfree : ∀ d ∈ s.ctxs, d.1 ≠ c → d.2.enable = true → (s.ctx c).overlaps d.2 = false) :
    ctControl s m a c w = s.setCtx c { s.ctx c with enable := true } := by
  have hany : s.ctxs.any (fun d => d.1 != c && d.2.enable && (s.ctx c).overlaps d.2) = false := by
    simp only [List.any_eq_false, Bool.and_eq_true, bne_iff_ne, not_and, Bool.not_eq_true]
    exact fun d hd h => hfree d hd h.1 h.2
  rw [ctControl_of_no_reset hreset, hen, hoff, hrebuild, hstage, hany]
  rfl

theorem ctControl_of_disabling {s : State} {m a c w : Nat} (hen : bitAt w 0 = false) (hreset : bitAt w 1 = false)
    (hon : (s.ctx c).enable = true) : ctControl s m a c w =
      let t := if (s.ctx c).fnEn then ctxReset s c else s
      t.setCtx c { t.ctx c with enable := false } := by
  rw [ctControl_of_no_reset hreset, hen, hon]
  exact (if_neg Bool.false_ne_true).trans (if_neg Bool.false_ne_true)

theorem commitWord_units (s : State) (m a i w : Nat) :
    commitWord s m a 0x20014 i w = applyUnits (s.setReg 0x20014 0 w) := by
  simp [commitWord]

/-- A register write's new registers rest on the old ones alone. -/
theorem State.regs_setReg {s t : State} (h : t.regs = s.regs) (off idx v : Nat) :
    (t.setReg off idx v).regs = (s.setReg off idx v).regs := by
  rw [State.setReg, State.setReg, h]
  split <;> rfl

theorem genLayoutOk_congr {s t : State} (h : t.regs = s.regs) (c : Nat) : genLayoutOk t c = genLayoutOk s c := by
  have hreg : ∀ o i, t.reg o i = s.reg o i := fun o i => by rw [State.reg, State.reg, h]
  have hfld : ∀ o i lo n, t.regFld o i lo n = s.regFld o i lo n := fun o i lo n => by rw [State.regFld, State.regFld, hreg]
  have hlen : t.genLen c = s.genLen c := hfld ..
  have hdelta : t.genDelta c = s.genDelta c := hfld ..
  have hlo : t.genLo c = s.genLo c := hfld ..
  rw [genLayoutOk, genLayoutOk, hlen, hdelta, hlo]

/-- Settles O22: each row is a whole write of its word, and the word's own effect is the case's. -/
theorem registerWritesComplete : Obligations.RegisterWritesComplete := by
  refine ⟨?pp, ?seedLo, ?seedHi, ?kvOn, ?kvOff, ?scrub, ?supply, ?linkOn, ?linkOff, ?rtLo, ?rtHi, ?group, ?cont, ?joint, ?sq, ?cq,
    ?dutyUp, ?dutyDown, ?kiln, ?flash, ?unlock, ?lock, ?ctOn, ?ctOff, ?bind⟩
  case pp => exact writesWord_of (fun _ _ _ => rfl) (by decide) (fun _ _ _ h => h) (fun s m w _ _ => rfl)
  case seedLo => exact writesWord_of (fun _ _ _ => rfl) (by decide) (fun _ _ _ h => h) (fun s m w _ _ => rfl)
  case seedHi => exact writesWord_of (fun _ _ _ => rfl) (by decide) (fun _ _ _ h => h) (fun s m w _ _ => rfl)
  case kvOn =>
    exact writesWord_of (fun _ _ _ => rfl) (by decide) (fun _ _ _ h => h) (fun s m w _ h => kvCtrl_of_enabling h.1 h.2)
  case kvOff =>
    exact writesWord_of (fun _ _ _ => rfl) (by decide) (fun _ _ _ h => h) (fun s m w _ h => kvCtrl_of_not_enabling h)
  case scrub => exact writesWord_of (fun _ _ _ => rfl) (by decide) (fun _ _ _ h => h) (fun s m w _ _ => rfl)
  case supply =>
    exact writesWord_of (fun _ _ _ => rfl) (by decide) (fun _ _ _ h => h) (fun s m w _ h => supplyWrite_of_idle h.1 h.2)
  case linkOn =>
    refine writesWord_of (fun _ _ _ => rfl) (by decide) (fun s m _ h => ⟨(State.setMaster_kept ..).canon h.1, h.2⟩) (fun s m w _ h => ?_)
    obtain ⟨hcanon, hp, hen, hoff⟩ := h
    rw [commitWord_linkCtrl hp, hoff]
    exact linkCtrl_of_enabled ((linkEnabled_setReg hcanon _ w).trans hen)
  case linkOff =>
    refine writesWord_of (fun _ _ _ => rfl) (by decide) (fun s m _ h => ⟨(State.setMaster_kept ..).canon h.1, h.2⟩) (fun s m w _ h => ?_)
    obtain ⟨hcanon, hp, hen, hphase⟩ := h
    rw [commitWord_linkCtrl hp]
    refine linkCtrl_of_disabled ((linkEnabled_setReg hcanon _ w).trans hen) ?_ ..
    rw [State.port, State.setReg_links]
    exact hphase
  case rtLo => exact writesWord_of (fun _ _ _ => rfl) (by decide) (fun _ _ _ h => h) (fun s m w _ _ => rfl)
  case rtHi =>
    exact writesWord_of (fun _ _ _ => rfl) (by decide) (fun _ _ _ h => h) (fun s m w _ h => if_neg (Nat.not_lt.mpr h))
  case group =>
    exact writesWord_of (fun _ _ _ => rfl) (by decide) (fun _ _ _ h => h) (fun s m w _ h => collGroupSet_of_enabling h.1 h.2)
  case cont =>
    exact writesWord_of (fun _ _ _ => rfl) (by decide)
      (fun s m w h => ⟨h.1, h.2.1, (genLayoutOk_congr (State.regs_setReg (show (rearm s m).regs = s.regs from rfl) ..) _).trans h.2.2⟩)
      (fun s m w _ ⟨hoff, hen, hlayout⟩ => contCtrl_of_enabling hoff hen hlayout)
  case joint =>
    exact writesWord_of (fun _ _ _ => rfl) (by decide) (fun _ _ _ h => h)
      (fun s m w _ ⟨hwaits, hvalid, hold⟩ => jntCfg_of_validating hwaits hvalid hold)
  case sq =>
    exact writesWord_of (fun _ _ _ => rfl) (by decide) (fun _ _ _ h => h)
      (fun s m w _ ⟨hring, hen, hoff⟩ => (if_neg (Nat.not_le.mpr hring)).trans (sqControl_of_enabling hen hoff))
  case cq =>
    exact writesWord_of (fun _ _ _ => rfl) (by decide) (fun _ _ _ h => h)
      (fun s m w _ ⟨hring, hen, hoff⟩ => (if_pos hring).trans (cqControl_of_enabling hen hoff))
  case dutyUp =>
    refine writesWord_of (fun _ _ _ => rfl) (by decide) (fun _ _ _ h => h) (fun s m w _ h => ?_)
    rw [← s.setReg_power 0x2000C 0 w] at h
    exact requestDuty_of_raise h
  case dutyDown =>
    refine writesWord_of (fun _ _ _ => rfl) (by decide) (fun _ _ _ h => h) (fun s m w _ h => ?_)
    rw [← s.setReg_power 0x2000C 0 w] at h
    exact requestDuty_of_lowering h
  case kiln => exact writesWord_of (fun _ _ _ => rfl) (by decide) (fun _ _ _ h => h) (fun s m w _ _ => commitWord_units ..)
  case flash => exact writesWord_of (fun _ _ _ => rfl) (by decide) (fun _ _ _ h => h) (fun s m w _ _ => commitWord_units ..)
  case unlock => exact writesWord_of (fun _ _ _ => rfl) (by decide) (fun _ _ _ h => h) (fun s m w _ h => if_pos h)
  case lock => exact writesWord_of (fun _ _ _ => rfl) (by decide) (fun _ _ _ h => h) (fun s m w _ h => if_neg h)
  case ctOn =>
    exact writesWord_of (fun _ _ _ => rfl) (by decide) (fun _ _ _ h => h) (fun s m w _ ⟨hen, hreset, hoff, hrebuild, hstage, hfree⟩ =>
      ctControl_of_enabling hen hreset hoff hrebuild hstage hfree)
  case ctOff =>
    exact writesWord_of (fun _ _ _ => rfl) (by decide) (fun _ _ _ h => h)
      (fun s m w _ ⟨hen, hreset, hon⟩ => ctControl_of_disabling hen hreset hon)
  case bind => exact writesWord_of (fun _ _ _ => rfl) (by decide) (fun _ _ _ h => h) (fun s m w _ _ => rfl)

end Sys2Proof.Machine

/-! SUPPORT. Commands written to one register (R446), and the fields of a word that a write merges. -/

namespace Sys2Proof.Machine

/-! ### Fields of a word -/

theorem setBits_eq (v lo n x : Nat) : setBits v lo n x = 2 ^ lo * (2 ^ n * (v / 2 ^ lo / 2 ^ n) + x % 2 ^ n) + v % 2 ^ lo := by
  have hv : 2 ^ lo * (v / 2 ^ lo) + v % 2 ^ lo = v := Nat.div_add_mod ..
  have hq : 2 ^ n * (v / 2 ^ lo / 2 ^ n) + v / 2 ^ lo % 2 ^ n = v / 2 ^ lo := Nat.div_add_mod ..
  rw [setBits, bits, Nat.mul_add, Nat.mul_comm _ (2 ^ lo), Nat.mul_comm _ (2 ^ lo)]
  rw [← hq, Nat.mul_add] at hv
  omega

/-- A field's bits read what was put there, all others what they were. -/
theorem bitAt_setBits (v lo n x i : Nat) :
    bitAt (setBits v lo n x) i = if lo ≤ i ∧ i < lo + n then bitAt x (i - lo) else bitAt v i := by
  rw [setBits_eq, bitAt, bitAt, bitAt, Nat.testBit_two_pow_mul_add _ (Nat.mod_lt _ (Nat.two_pow_pos lo))]
  by_cases hlo : i < lo
  · rw [if_pos hlo, if_neg (by omega), Nat.testBit_mod_two_pow, decide_eq_true hlo, Bool.true_and]
  · rw [if_neg hlo, Nat.testBit_two_pow_mul_add _ (Nat.mod_lt _ (Nat.two_pow_pos n))]
    by_cases hn : i - lo < n
    · rw [if_pos hn, if_pos (by omega), Nat.testBit_mod_two_pow, decide_eq_true hn, Bool.true_and]
    · rw [if_neg hn, if_neg (by omega), Nat.testBit_div_two_pow, Nat.testBit_div_two_pow]
      congr 1
      omega

theorem bitAt_bits (v lo n i : Nat) : bitAt (bits v lo n) i = (decide (i < n) && bitAt v (i + lo)) := by
  rw [bitAt, bits, Nat.testBit_mod_two_pow, Nat.testBit_div_two_pow, bitAt]

/-- The words that a write clamps beyond their fields' own ranges. -/
def clampedWords : List Nat := [0x17040, 0x20028, 0x10008, 0x1C008]

theorem clampWord_of_free {off : Nat} (h : off ∉ clampedWords) (v : Nat) : clampWord off v = v := by
  simp only [clampedWords, List.mem_cons, List.not_mem_nil, or_false, not_or] at h
  obtain ⟨h1, h2, h3, h4⟩ := h
  rw [clampWord, if_neg h1, if_neg h2, if_neg h3, if_neg h4]

/-- R447: a word of which no field has a range takes every value. -/
theorem legalWrite_of_free {s : State} {m off v : Nat} (hfields : ∀ f ∈ (mapWord off).fields, f.clamp = .any)
    (hoff : off ∉ clampedWords) : legalWrite s m off v := by
  refine ⟨?_, clampWord_of_free hoff _⟩
  rw [WordRow.clamps, List.any_eq_false]
  intro f hf
  rw [FieldRow.legal, hfields f hf]
  simp only [bne_self_eq_false, Bool.and_false, Bool.false_eq_true, not_false_eq_true]

/-! ### Writes of the words without a range -/

section

variable {s : State} {m : Nat}

/-- A legal write of a row's word that the state takes. -/
theorem namedWrite_of_legal {off v : Nat} {key : Bool} (hword : writableWord off key = true) (h : wayTo s m off)
    (hkey : key = true → s.unlocked m = true) (hlegal : legalWrite s m off v)
    (hignores : s.ignores m off (s.bankAt m off) (s.written m off v) = false) :
    namedWrite s m off v = commitWord (if key then rearm s m else s) m off off (s.bankAt m off) (s.written m off v) := by
  have hw := writableWord_of hword
  rw [namedWrite_of_way h hw.decode, writeWord_of_legal hw h.2.2.2 hkey hlegal hignores]

theorem mapWord_ctControl : mapWord 0x10004 =
    row 0x10004 .ct [anyF 0 1 .rw 0, anyF 1 1 .wo 0, anyF 2 2 .ro 0, anyF 4 1 .ro 0] := by decide

/-- R451: ENABLE and RESET of the context table, as a write leaves them. -/
theorem bitAt_written_ctControl (v : Nat) : bitAt (s.written m 0x10004 v) 0 = bitAt v 0 ∧
    bitAt (s.written m 0x10004 v) 1 = bitAt v 1 := by
  rw [State.written, clampWord_of_free (by decide), mapWord_ctControl]
  constructor <;> simp [WordRow.merge, row, anyF, FieldRow.taken, FieldRow.legal, bitAt_setBits, bitAt_bits]

theorem mapWord_linkCtrl : mapWord 0x1B00C =
    row 0x1B00C .port [anyF 0 1 .wk 1, anyF 1 1 .wk 1, anyF 2 1 .wk 0, anyF 3 1 .wk 0, inF 8 8 .wk 0x32 1 255] := by decide

/-- R301: RETRAIN of LINK_CTRL, as a write under the unlock leaves it. -/
theorem bitAt_written_linkCtrl (h : s.unlocked m = true) (v : Nat) : bitAt (s.written m 0x1B00C v) 3 = bitAt v 3 := by
  rw [State.written, clampWord_of_free (by decide), mapWord_linkCtrl, h]
  simp [WordRow.merge, row, anyF, inF, FieldRow.taken, FieldRow.legal, bitAt_setBits, bitAt_bits]

end

/-! ### Commands (R446) -/

/-- A word of one field, whose command `c` a write puts there when it holds none. -/
def commandWord (off c : Nat) : Bool :=
  writableWord off true && decide ((mapWord off).bank ≠ .port) && (mapWord off).merge 0 c true == c &&
    !(mapWord off).clamps c true && clampWord off c == c

/-- A write of a command under the unlock, to a word that holds none. -/
theorem namedWrite_of_command {s : State} {m off c : Nat} (hword : commandWord off c = true)
    (hview : s.view m off (s.bankAt m off) = none) (hway : wayTo s m off) (hunlocked : s.unlocked m = true)
    (hempty : s.reg off (s.bankAt m off) = 0) (hignores : s.ignores m off (s.bankAt m off) c = false) :
    namedWrite s m off c = commitWord (rearm s m) m off off (s.bankAt m off) c := by
  simp only [commandWord, Bool.and_eq_true, decide_eq_true_eq, beq_iff_eq, Bool.not_eq_true'] at hword
  obtain ⟨⟨⟨⟨hwritable, hport⟩, hmerge⟩, hclamps⟩, hclampWord⟩ := hword
  have hoff := (writableWord_of hwritable).off_eq
  have hvalue : s.wordValue m (mapWord off) = 0 := by
    rw [State.wordValue_of_stored (by rw [hoff]; exact hway.2.2.2) hport (by rw [hoff]; exact hview), hoff]
    exact hempty
  have hwritten : s.written m off c = c := by rw [State.written, hvalue, hunlocked, hmerge, hclampWord]
  rw [namedWrite_of_legal hwritable hway (fun _ => hunlocked)
    (by rw [legalWrite, hvalue, hunlocked, hmerge]; exact ⟨hclamps, hclampWord⟩) (by rw [hwritten]; exact hignores), hwritten]
  rfl

theorem writesCommand_of {i : Nat → Instr} {off c : Nat} {ok : State → Nat → Prop} {g : State → Nat → State}
    (hrow : ∀ m s, exec (i m) s = .next (namedWrite s m off c)) (hword : commandWord off c = true)
    (hview : ∀ s m idx, State.view s m off idx = none) (hok : ∀ s m, ok s m → ok (rearm s m) m)
    (heffect : ∀ s m, ok s m → commitWord s m off off (s.bankAt m off) c = g s m) : writesCommand i off c ok g := by
  intro s m hway hunlocked hempty hignores hs
  refine completes_of_exec (hrow m s) ?_
  rw [namedWrite_of_command hword (hview ..) hway hunlocked hempty hignores]
  exact heffect (rearm s m) m (hok s m hs)

/-! ### What the words of commands do when they are written -/

section

variable (s : State) (m a i w : Nat)

theorem commitWord_chCmd : commitWord s m a 0x17034 i w = chCmd s m i w := by simp [commitWord]

theorem commitWord_contCmd : commitWord s m a 0x1E020 i w = contCmd s m i w := by simp [commitWord]

theorem commitWord_pwrCmd : commitWord s m a 0x20024 i w = if w = 1 then remeasure s m else s := by simp [commitWord]

theorem commitWord_storeCmd : commitWord s m a 0x2100C i w = storeCmd s m w := by simp [commitWord]

end

/-! ### The rows that are commands (O23) -/

theorem chCmd_of_inService {s : State} {m ch c : Nat} (hstate : (s.chan ch).state ≠ .spalled) (hc : c ≠ 0 ∧ c ≠ 7) :
    chCmd s m ch c = if c = 1 then retrainCause s ch else if c = 2 then fenceChan s ch
      else if c = 3 then (if (s.chan ch).state ≠ .fenced then s.clampEvent 0x17034 m 2
        else if s.regFld 0x17050 (brickOf ch) 0 6 ≠ 0 then s.clampEvent 0x17034 m 2 else unfenceChan s ch)
      else if c = 4 then spallChan s ch
      else if (s.chan ch).state ≠ .fenced then s.clampEvent 0x17034 m 2
      else s.setChan ch { s.chan ch with margin := some (c - 5), marginValid := false } :=
  (if_neg (not_or.mpr hc)).trans (if_neg hstate)

theorem chCmd_spall {s : State} {m ch : Nat} (hstate : (s.chan ch).state ≠ .spalled) : chCmd s m ch 4 = spallChan s ch := by
  rw [chCmd_of_inService hstate (by decide), if_neg (by decide), if_neg (by decide), if_neg (by decide), if_pos rfl]

theorem chCmd_of_fenced {s : State} {m ch c : Nat} (hstate : (s.chan ch).state = .fenced) (hc : 5 ≤ c ∧ c < 7) :
    chCmd s m ch c = s.modChan ch (fun x => { x with margin := some (c - 5), marginValid := false }) := by
  rw [chCmd_of_inService (by rw [hstate]; decide) (by omega), if_neg (by omega), if_neg (by omega), if_neg (by omega),
    if_neg (by omega), if_neg (not_not.mpr hstate)]
  rfl

theorem contCmd_of_inDoubt {s : State} {m c cmd : Nat} (h : (s.cont c).st = .inDoubt) (hcmd : cmd = 1 ∨ cmd = 2) :
    contCmd s m c cmd = contResolve s c (cmd == 1) := by
  rw [contCmd, h]
  exact (if_pos hcmd).trans (if_pos rfl)

theorem contCmd_of_settled {s : State} {m c cmd : Nat} (h : (s.cont c).st ≠ .inDoubt) (hcmd : cmd = 3 ∨ cmd = 4) :
    contCmd s m c cmd = contHold s m c (cmd == 3) := by
  rw [contCmd]
  exact (if_neg (by omega)).trans ((if_pos hcmd).trans (if_neg (by simpa only [beq_iff_eq] using h)))

theorem warmRequest_of_idle {s : State} {m : Nat} {bad : List (Nat × List Nat)} (hidle : ∀ c ∈ s.ctxs, c.2.enable = false)
    (hstore : s.trust.writing = none) : warmRequest s m bad = warmReset s bad := by
  have hany : s.ctxs.any (fun c => c.2.enable) = false := by
    simp only [List.any_eq_false, Bool.not_eq_true]
    exact hidle
  rw [warmRequest, hany, hstore]
  rfl

theorem remeasure_of_idle {s : State} {m : Nat} (hidle : ∀ c ∈ s.ctxs, c.2.enable = false) :
    remeasure s m = s.modPower (fun p => { p with remeasuring := true }) := by
  have hany : s.ctxs.any (fun c => c.2.enable) = false := by
    simp only [List.any_eq_false, Bool.not_eq_true]
    exact hidle
  rw [remeasure, hany]
  rfl

theorem fenceChan_of_serving {s : State} {ch : Nat} (h : (s.chan ch).state ≠ .fenced) :
    fenceChan s ch = s.modChan ch (fun c => { c with fencing := true }) := by
  rw [fenceChan, State.modChan, State.modChan, if_neg h]

theorem contHold_of_free {s : State} {m c : Nat} (h : (s.cont c).held = none) :
    contHold s m c true = s.setCont c { s.cont c with held := some (s.cont c).curGen } := by
  rw [contHold, h]
  rfl

theorem ctControl_of_reset {s : State} {m a c w : Nat} (hreset : bitAt w 1 = true) (hen : bitAt w 0 = (s.ctx c).enable) :
    ctControl s m a c w = ctxReset s c := by
  rw [ctControl, hreset]
  exact if_pos hen

theorem linkCtrl_of_retrain {s : State} {p : Nat} {was : Bool} (h : s.linkEnabled p = true) :
    linkCtrl s p was true = portDown s p .dark 0 := by
  rw [linkCtrl, h]
  exact (if_neg Bool.false_ne_true).trans (if_pos (Bool.true_or _))

/-- Settles O23: each command is a write of its word, and the word's own effect is the case's. -/
theorem registerCommandsComplete : Obligations.RegisterCommandsComplete := by
  refine ⟨?retrain, ?fence, ?unfence, ?spall, ?stb, ?vref, ?commit, ?abort, ?hold, ?release, ?measure, ?save, ?svn, ?preferA,
    ?preferB, ?warm, ?warmPeer, ?kick, ?sync, ?link, ?ctReset, ?expiry⟩
  case retrain =>
    refine writesCommand_of (fun _ _ => rfl) (by decide) (fun _ _ _ => rfl) (fun _ _ h => h) (fun s m ⟨hstate, hretrain⟩ => ?_)
    exact (commitWord_chCmd ..).trans <| (chCmd_of_inService (c := 1) hstate (by decide)).trans (if_neg (not_or.mpr ⟨hstate, not_not.mpr hretrain⟩))
  case fence =>
    refine writesCommand_of (fun _ _ => rfl) (by decide) (fun _ _ _ => rfl) (fun _ _ h => h) (fun s m ⟨hstate, hfenced⟩ => ?_)
    exact (commitWord_chCmd ..).trans <| (chCmd_of_inService (c := 2) hstate (by decide)).trans (fenceChan_of_serving hfenced)
  case unfence =>
    refine writesCommand_of (fun _ _ => rfl) (by decide) (fun _ _ _ => rfl) (fun _ _ h => h) (fun s m ⟨hstate, hsupply⟩ => ?_)
    exact (commitWord_chCmd ..).trans <| (chCmd_of_inService (c := 3) (by rw [hstate]; decide) (by decide)).trans
      ((if_neg (not_not.mpr hstate)).trans (if_neg (not_not.mpr hsupply)))
  case spall =>
    exact writesCommand_of (fun _ _ => rfl) (by decide) (fun _ _ _ => rfl) (fun _ _ h => h)
      (fun s m hstate => (commitWord_chCmd ..).trans (chCmd_spall hstate))
  case stb =>
    exact writesCommand_of (fun _ _ => rfl) (by decide) (fun _ _ _ => rfl) (fun _ _ h => h)
      (fun s m hstate => (commitWord_chCmd ..).trans <| chCmd_of_fenced (c := 5) hstate (by decide))
  case vref =>
    exact writesCommand_of (fun _ _ => rfl) (by decide) (fun _ _ _ => rfl) (fun _ _ h => h)
      (fun s m hstate => (commitWord_chCmd ..).trans <| chCmd_of_fenced (c := 6) hstate (by decide))
  case commit =>
    exact writesCommand_of (fun _ _ => rfl) (by decide) (fun _ _ _ => rfl) (fun _ _ h => h)
      (fun s m h => (commitWord_contCmd ..).trans <| contCmd_of_inDoubt (cmd := 1) h (by decide))
  case abort =>
    exact writesCommand_of (fun _ _ => rfl) (by decide) (fun _ _ _ => rfl) (fun _ _ h => h)
      (fun s m h => (commitWord_contCmd ..).trans <| contCmd_of_inDoubt (cmd := 2) h (by decide))
  case hold =>
    exact writesCommand_of (fun _ _ => rfl) (by decide) (fun _ _ _ => rfl) (fun _ _ h => h)
      (fun s m h => (commitWord_contCmd ..).trans <| (contCmd_of_settled (cmd := 3) h.1 (by decide)).trans (contHold_of_free h.2))
  case release =>
    exact writesCommand_of (fun _ _ => rfl) (by decide) (fun _ _ _ => rfl) (fun _ _ h => h)
      (fun s m h => (commitWord_contCmd ..).trans <| contCmd_of_settled (cmd := 4) h (by decide))
  case measure =>
    exact writesCommand_of (fun _ _ => rfl) (by decide) (fun _ _ _ => rfl) (fun _ _ h => h)
      (fun s m h => (commitWord_pwrCmd ..).trans <| (if_pos rfl).trans (remeasure_of_idle h))
  case save =>
    exact writesCommand_of (fun _ _ => rfl) (by decide) (fun _ _ _ => rfl) (fun _ _ h => h) (fun s m _ => commitWord_storeCmd ..)
  case svn =>
    exact writesCommand_of (fun _ _ => rfl) (by decide) (fun _ _ _ => rfl) (fun _ _ h => h) (fun s m _ => commitWord_storeCmd ..)
  case preferA =>
    exact writesCommand_of (fun _ _ => rfl) (by decide) (fun _ _ _ => rfl) (fun _ _ h => h) (fun s m _ => commitWord_storeCmd ..)
  case preferB =>
    exact writesCommand_of (fun _ _ => rfl) (by decide) (fun _ _ _ => rfl) (fun _ _ h => h) (fun s m _ => commitWord_storeCmd ..)
  case warm =>
    intro bad s m hway hunlocked hempty hignores ⟨hm, hidle, hstore⟩
    have hwrite := namedWrite_of_command (s := s.modTrust (fun t => { t with pins := bad })) (c := 5) (by decide) rfl
      (wayTo_congr rfl rfl rfl hway) hunlocked hempty hignores
    refine completes_of_exec (congrArg Host.Outcome.next (if_neg hm)) ?_
    rw [hwrite, commitWord_storeCmd]
    exact congrArg (State.modTrust · (fun t => { t with pins := [] })) (warmRequest_of_idle hidle hstore)
  case warmPeer =>
    intro s bad hup hidle hstore
    refine completes_of_exec (congrArg Host.Outcome.next ((if_pos rfl).trans (if_pos hup))) ?_
    exact warmRequest_of_idle hidle hstore
  case kick =>
    intro s hway
    refine completes_of_exec (congrArg Host.Outcome.next (namedWrite_of_legal (key := false) (by decide) hway
      (fun h => Bool.noConfusion h) (legalWrite_of_free (by decide) (by decide)) rfl)) ?_
    rfl
  case sync =>
    intro s m hway _
    refine completes_of_exec (congrArg Host.Outcome.next (namedWrite_of_legal (key := false) (by decide) hway
      (fun h => Bool.noConfusion h) (legalWrite_of_free (by decide) (by decide)) rfl)) ?_
    rfl
  case link =>
    intro s m v hway hunlocked hcanon hp w hen hlegal
    have hretrain : bitAt w 3 = true := by
      rw [bitAt_written_linkCtrl hunlocked, bitAt_setBits]
      rfl
    refine completes_of_exec (congrArg Host.Outcome.next (namedWrite_of_legal (key := true) (by decide) hway
      (fun _ => hunlocked) hlegal rfl)) ?_
    refine (commitWord_linkCtrl hp).trans ?_
    rw [hretrain]
    exact linkCtrl_of_retrain ((linkEnabled_setReg ((State.setMaster_kept ..).canon hcanon) _ w).trans hen)
  case ctReset =>
    intro s m v hway hen
    obtain ⟨hbit0, hbit1⟩ := bitAt_written_ctControl (s := s) (m := m) (setBits v.toNat 1 1 1)
    refine completes_of_exec (congrArg Host.Outcome.next (namedWrite_of_legal (key := false) (by decide) hway
      (fun h => Bool.noConfusion h) (legalWrite_of_free (by decide) (by decide)) rfl)) ?_
    refine ctControl_of_reset ?_ ?_
    · rw [hbit1, bitAt_setBits]
      rfl
    · rw [hbit0, bitAt_setBits]
      exact hen
  case expiry =>
    intro s m t hunlock hlate
    refine completes_of_exec (t := rearm s m) ?_ rfl
    show execUnlockExpiry m s = _
    rw [execUnlockExpiry, hunlock]
    exact congrArg Host.Outcome.next (if_pos (by omega))

end Sys2Proof.Machine

/-! SUPPORT. Reads of one register (R439, R443, R444): words with a latched upper half, RC fields, holes and bit aliases. -/

namespace Sys2Proof.Machine

/-! ### RC fields -/

theorem sub_and_self_and (v c : Nat) : (v - (v &&& c)) &&& c = 0 := by
  induction v using Nat.strongRecOn generalizing c with
  | ind v ih =>
    rcases Nat.eq_zero_or_pos v with rfl | hv
    · rw [Nat.zero_sub, Nat.zero_and]
    have hdiv : (v &&& c) / 2 = v / 2 &&& c / 2 := Nat.and_div_two
    have hmod : (v &&& c) % 2 = v % 2 &&& c % 2 := by simpa using Nat.and_mod_two_pow (n := 1) (a := v) (b := c)
    have hlow : v % 2 &&& c % 2 ≤ v % 2 := Nat.and_le_left
    have hle : v / 2 &&& c / 2 ≤ v / 2 := Nat.and_le_left
    have hhalf : (v - (v &&& c)) / 2 = v / 2 - (v / 2 &&& c / 2) := by omega
    have hrest : ((v - (v &&& c)) &&& c) / 2 = 0 := by rw [Nat.and_div_two, hhalf, ih _ (by omega)]
    have hbit : ((v - (v &&& c)) &&& c) % 2 = (v % 2 - (v % 2 &&& c % 2)) &&& c % 2 := by
      have hsub : (v - (v &&& c)) % 2 = v % 2 - (v % 2 &&& c % 2) := by omega
      rw [← hsub]
      simpa using Nat.and_mod_two_pow (n := 1) (a := v - (v &&& c)) (b := c)
    have hzero : (v % 2 - (v % 2 &&& c % 2)) &&& c % 2 = 0 := by
      rcases Nat.mod_two_eq_zero_or_one v with h | h <;> rcases Nat.mod_two_eq_zero_or_one c with h' | h' <;> rw [h, h'] <;> rfl
    omega

section

variable {s : State}

/-- R443: a read of a word changes no register but the word's own. -/
theorem State.reg_clearRc_ne (s : State) (r : WordRow) (idx mask : Nat) {o i : Nat} (h : regKey o i ≠ regKey r.off idx) :
    (s.clearRc r idx mask).reg o i = s.reg o i := by
  rw [State.clearRc]
  split
  · rfl
  · exact s.reg_setReg_ne _ h

/-- R443: the RC fields that the mask covers read 0 afterwards. -/
theorem State.reg_clearRc_cleared (h : s.Canon) (r : WordRow) (idx : Nat) :
    (s.clearRc r idx 0xFFFFFFFF).reg r.off idx &&& (r.mask .rc &&& 0xFFFFFFFF) = 0 := by
  simp only [State.clearRc]
  split
  · next hc => rw [hc, Nat.and_zero]
  · rw [s.reg_setReg_same _ _ _ h.regs, ← Nat.and_two_pow_sub_one_eq_mod, Nat.and_right_comm, sub_and_self_and, Nat.zero_and]

/-- A read that latches nothing, of a word other than the error log's. -/
theorem State.readRow_of_no_latch {m : Nat} {r : WordRow} (hunit : s.unitAbsent r.off = false) (hlog : r.off ≠ 0x1706C)
    (hlatch : s.latch m r.off (s.bankOf m r.bank) = s) : s.readRow m r =
      (s.wordValue m r, (s.clearRc r (s.bankOf m r.bank) 0xFFFFFFFF).clearFlits r.off (s.bankOf m r.bank)) := by
  simp only [State.readRow, hunit, hlatch]
  exact if_neg hlog

theorem State.reg_clearFlits (off idx o i : Nat) : (s.clearFlits off idx).reg o i = s.reg o i := by
  rw [State.clearFlits]
  split <;> rfl

theorem namedRead_of_way {m off : Nat} {r : WordRow} (h : wayTo s m off) (hdecode : decodeOffset off = .word r) :
    namedRead s m off = returned (s.readRow m r).2 m (s.readRow m r).1 := by
  obtain ⟨hway, hreach, hdom, -⟩ := h
  rw [namedRead, hway, if_neg Bool.false_ne_true, readFor_word hreach hdom ((decodeFor_of_way hway off).trans hdecode)]

theorem ofNat_mod_word (v : Nat) : BitVec.ofNat 32 (v % 2 ^ 32) = BitVec.ofNat 32 v := by
  apply BitVec.eq_of_toNat_eq
  rw [BitVec.toNat_ofNat, BitVec.toNat_ofNat, Nat.mod_mod]

end

/-! ### Words with a latched upper half (R39, R328, R391, R413) -/

/-- A word of function 0's map that shows the low half of a value and has no RC field. -/
def lowWord (off : Nat) : Bool :=
  decide (decodeOffset off = .word (mapWord off)) && (mapWord off).off == off && decide ((mapWord off).bank ≠ .port) &&
    (mapWord off).mask .rc == 0 && off != 0x1706C && off != 0x13040

section

variable {s : State} {m off : Nat}

/-- A read of a low half returns it and latches the upper half for its master. -/
theorem namedRead_low {latch v : Nat} (hword : lowWord off = true) (hway : wayTo s m off)
    (hview : s.view m off (s.bankAt m off) = some (v % 2 ^ 32))
    (hlatch : s.latch m off (s.bankAt m off) = s.setReg latch m (v / 2 ^ 32)) :
    namedRead s m off = returned (s.setReg latch m (v / 2 ^ 32)) m v := by
  simp only [lowWord, Bool.and_eq_true, decide_eq_true_eq, beq_iff_eq, bne_iff_ne] at hword
  obtain ⟨⟨⟨⟨⟨hdecode, hoff⟩, hport⟩, hrc⟩, hlog⟩, hflits⟩ := hword
  have hunit : s.unitAbsent (mapWord off).off = false := by rw [hoff]; exact hway.2.2.2
  rw [namedRead_of_way hway hdecode,
    State.readRow_of_mask_eq_zero hunit (by rw [hoff]; exact hlog) (by rw [hoff]; exact hflits) hrc,
    State.wordValue_of_view hunit hport hrc (by rw [hoff]; exact hview), hoff, returned, ofNat_mod_word]
  exact congrArg (returned · m v) hlatch

theorem readsLow_of {i : Nat → Instr} {latch : Nat} {value : State → Nat → Nat}
    (hrow : ∀ m s, exec (i m) s = .next (namedRead s m off)) (hword : lowWord off = true)
    (hview : ∀ s m idx, State.view s m off idx = some (value s idx % 2 ^ 32))
    (hlatch : ∀ s m idx, State.latch s m off idx = s.setReg latch m (value s idx / 2 ^ 32)) : readsLow i off latch value := by
  intro s m hway hcanon hlt
  refine completes_of_exec (hrow m s) ?_
  rw [namedRead_low hword hway (hview ..) (hlatch ..)]
  refine ⟨?_, ?_, (((State.setReg_kept ..).weaken (by decide)).step (State.setMaster_kept ..) (by decide)).same, ?_⟩
  · rw [State.master_setMaster_same]
  · show (s.setReg latch m _).reg latch m = _
    rw [s.reg_setReg_same _ _ _ hcanon.regs, Nat.mod_eq_of_lt (Nat.div_lt_of_lt_mul (by omega))]
  · intro k hk
    rw [State.master_setMaster_ne _ _ hk, State.master_setReg]

end

/-! ### The error log (R200) -/

/-- ERRLOG_3, as a read shows it. -/
def State.errTop (s : State) : Nat := match s.errLog with | [] => 0 | e :: _ => e.time / 2 ^ 32 % 2 ^ 32

theorem namedRead_errLog {s : State} {m : Nat} (hway : wayTo s m 0x1706C) : namedRead s m 0x1706C = returned s.popErr m s.errTop := by
  have hview : s.view m 0x1706C 0 = some s.errTop := by
    rw [State.errTop]
    show (match s.errLog with | [] => some 0 | e :: _ => some (e.time / 2 ^ 32 % 2 ^ 32)) = _
    cases s.errLog <;> rfl
  have hvalue : s.wordValue m (mapWord 0x1706C) = s.errTop := by
    have hbank : (mapWord 0x1706C).bank = .module := by decide
    have hoff : (mapWord 0x1706C).off = 0x1706C := by decide
    simp only [State.wordValue, hbank, hoff, hway.2.2.2, State.bankOf, hview]
    exact Nat.or_zero _
  rw [namedRead_of_way hway (r := mapWord 0x1706C) (by decide), State.readRow, if_neg ?unit, if_pos (by decide), hvalue]
  case unit => exact Bool.eq_false_iff.mp hway.2.2.2

/-! ### Any word (R439, R443, R444) -/

theorem decodeOffset_aliasOff {slot bit : Nat} (hslot : slot < 16) (hbit : bit < 32) :
    decodeOffset (aliasOff slot bit) = .alias_ slot bit := by
  have hblock : aliasOff slot bit / 0x1000 = 2 + slot / 8 := by rw [aliasOff]; omega
  have hword : aliasOff slot bit % 0x400 / 4 * 4 = slot % 8 * 0x80 + 4 * bit := by rw [aliasOff]; omega
  have hmirror : (2 + slot / 8 = 2 || 2 + slot / 8 = 3) = true := by
    simp only [Bool.or_eq_true, decide_eq_true_eq]
    omega
  have hslotEq : (2 + slot / 8 - 2) * 8 + (slot % 8 * 0x80 + 4 * bit) / 0x80 = slot := by omega
  have hbitEq : (slot % 8 * 0x80 + 4 * bit) % 0x80 / 4 = bit := by omega
  simp only [decodeOffset, hblock, hword]
  refine (if_neg (by omega)).trans ((if_neg ?_).trans ((if_pos hmirror).trans ?_))
  · simp only [Bool.and_eq_true, decide_eq_true_eq]
    omega
  · rw [hslotEq, hbitEq]

theorem dropFirst_of_not_mem {α : Type} [BEq α] [LawfulBEq α] {x : α} {l : List α} (h : x ∉ l) : dropFirst (· == x) l = l := by
  induction l with
  | nil => rfl
  | cons y ys ih =>
    obtain ⟨hne, hmem⟩ := not_or.mp (fun h' => h (List.mem_cons.mpr h'))
    rw [dropFirst, if_neg (fun hy => hne (eq_of_beq hy).symm), ih hmem]

/-- Settles O24: each read is a read of its word, with the latch or the clearing that the word has. -/
theorem registerReadsComplete : Obligations.RegisterReadsComplete := by
  refine ⟨?time, ?idle, ?value, ?ticket, ?energy, ?log, ?clear, ?hole, ?holeWrite, ?mirror, ?mirrorWrite, ?write⟩
  case time => exact readsLow_of (fun _ _ => rfl) (by decide) (fun _ _ _ => rfl) (fun _ _ _ => rfl)
  case idle => exact readsLow_of (fun _ _ => rfl) (by decide) (fun _ _ _ => rfl) (fun _ _ _ => rfl)
  case value => exact readsLow_of (fun _ _ => rfl) (by decide) (fun _ _ _ => rfl) (fun _ _ _ => rfl)
  case ticket => exact readsLow_of (fun _ _ => rfl) (by decide) (fun _ _ _ => rfl) (fun _ _ _ => rfl)
  case energy => exact readsLow_of (fun _ _ => rfl) (by decide) (fun _ _ _ => rfl) (fun _ _ _ => rfl)
  case log =>
    intro s m e rest hway hlog
    refine completes_of_exec (congrArg Host.Outcome.next (namedRead_errLog hway)) ⟨?_, rfl, ?_, ?_, fun k hk => ?_⟩
    · show s.errLog.drop 1 = rest
      rw [hlog]
      rfl
    · rw [State.master_setMaster_same, State.errTop, hlog]
    · exact (((State.popErr_kept s).weaken (by decide)).step (State.setMaster_kept ..) (by decide)).same
    · rw [State.master_setMaster_ne _ _ hk]
      rfl
  case clear =>
    intro s m off r hway hr hunit hlog hlatch
    obtain ⟨hnoWay, hreach, hdom, -⟩ := hway
    obtain ⟨i, hi⟩ : ∃ i, i = s.bankOf m r.bank := ⟨_, rfl⟩
    have hread : readFor s m off = returned ((s.clearRc r i 0xFFFFFFFF).clearFlits r.off i) m (s.wordValue m r) := by
      rw [readFor_word hreach hdom hr, State.readRow_of_no_latch hunit hlog hlatch, hi]
    refine completes_of_exec (congrArg Host.Outcome.next hread) ?_
    rw [← hi]
    refine ⟨?_, ?_, fun hflits => ?_, fun o k hk => ?_, fun hcanon => ?_⟩
    · rw [State.master_setMaster_same]
    · exact ((((State.clearRc_kept ..).weaken (by decide)).step (State.clearFlits_kept ..) (by decide)).step
        (State.setMaster_kept ..) (by decide)).same
    · show ((s.clearRc r i 0xFFFFFFFF).clearFlits r.off i).mortar = s.mortar
      rw [State.clearFlits_of_ne _ hflits]
      exact (State.clearRc_kept ..).unchanged .mortar rfl
    · exact (State.reg_clearFlits ..).trans (State.reg_clearRc_ne _ _ _ _ hk)
    · refine Eq.trans ?_ (State.reg_clearRc_cleared hcanon r i)
      exact congrArg (· &&& _) (State.reg_clearFlits ..)
  case hole =>
    intro s m off hreach hdom hhole
    refine completes_of_exec (t := State.returnRead (readReg s m off) m) ?_ ?_
    · show execHoleAccess m off false s = _
      simp only [execHoleAccess, hhole, readFor, hreach]
      rfl
    · have hread : readReg s m off = (some 0, s.bump 0x1020 0 1) := by
        simp only [readReg, hdom, hhole]
        rfl
      rw [hread]
      show (s.bump 0x1020 0 1).setMaster m { (s.bump 0x1020 0 1).master m with lastRead := some 0 } = _
      rw [State.master_bump]
  case holeWrite =>
    intro s m off hhole
    refine completes_of_exec (t := s.bump 0x1020 0 1) ?_ rfl
    show execHoleAccess m off true s = _
    simp only [execHoleAccess, hhole]
    rfl
  case mirror =>
    intro s m slot bit r hslot hbit hway hr hunit
    obtain ⟨hnoWay, hreach, hdom, -⟩ := hway
    have hdecode : decodeFor m (aliasOff slot bit) = .alias_ slot bit :=
      (decodeFor_of_way hnoWay _).trans (decodeOffset_aliasOff hslot hbit)
    have hread : namedRead s m (aliasOff slot bit) =
        returned (s.clearRc r (s.bankOf m r.bank) (2 ^ bit)) m (b2n (bitAt (s.wordValue m r) bit)) := by
      simp only [namedRead, hnoWay, readFor, hreach, readReg, hdom, hdecode, State.readAlias, hr, hunit]
      rfl
    refine completes_of_exec (congrArg Host.Outcome.next hread) ⟨?_, ?_⟩
    · rw [State.master_setMaster_same]
    · exact (((State.clearRc_kept ..).weaken (by decide)).step (State.setMaster_kept ..) (by decide)).same
  case mirrorWrite =>
    intro s m slot bit v r hslot hbit hway hr
    obtain ⟨hnoWay, hreach, hdom, -⟩ := hway
    have hdecode : decodeFor m (aliasOff slot bit) = .alias_ slot bit :=
      (decodeFor_of_way hnoWay _).trans (decodeOffset_aliasOff hslot hbit)
    refine completes_of_exec (t := namedWrite s m (aliasOff slot bit) v.toNat) rfl ?_
    simp only [namedWrite, hnoWay, writeReg, hreach, hdom, hdecode, writeAlias, hr, seenAt_of_way hnoWay]
    rfl
  case write =>
    intro s m off v r hm hreach hdom hr hposted
    have hnoWay : noWay m = false := by
      rw [noWay]
      rcases hm with rfl | hm
      · rfl
      · simp only [Bool.and_eq_false_iff, decide_eq_false_iff_not]
        exact .inr (by omega)
    refine completes_of_exec (t := writeReg s m off v.toNat true) ?_ ?_
    · show execRegisterWrite m off v true s = _
      rw [execRegisterWrite, dropFirst_of_not_mem hposted]
    · simp only [writeReg, hreach, hdom, hr, seenAt_of_way hnoWay]
      rfl

/-! ### The five latching reads by master (O59) -/

/-- R436, R446: a master that reaches the whole map has a way to each word of function 0 that no other unit holds. -/
theorem wayTo_of_wholeMap {s : State} {m off : Nat} (hm : wholeMap m) (hword : lowWord off = true ∨ off = 0x1706C)
    (hblock : off / 0x1000 ≠ 0x18 ∧ off / 0x1000 ≠ 0x1A) : wayTo s m off := by
  have hnoWay : noWay m = false := by
    simp only [noWay, Bool.and_eq_false_iff, decide_eq_false_iff_not]
    rcases hm with rfl | rfl | hm <;> omega
  have hdecode : ∃ r, decodeOffset off = .word r := by
    rcases hword with hword | rfl
    · simp only [lowWord, Bool.and_eq_true, decide_eq_true_eq] at hword
      exact ⟨_, hword.1.1.1.1.1⟩
    · exact ⟨mapWord 0x1706C, by decide⟩
  obtain ⟨r, hr⟩ := hdecode
  obtain ⟨hflash, hkiln⟩ := hblock
  refine ⟨hnoWay, ?_, ?_, ?_⟩
  · simp only [outOfReach, Bool.and_eq_false_iff, decide_eq_false_iff_not]
    rcases hm with rfl | rfl | hm <;> omega
  · rw [State.domainOff, decodeFor_of_way hnoWay, hr]
    refine (if_neg ?_).trans ?_
    · rw [noWay] at hnoWay
      rw [hnoWay]
      exact Bool.false_ne_true
    · rw [decide_eq_false hflash, Bool.and_false, Bool.false_and]
  · rw [State.unitAbsent, decide_eq_false hflash, decide_eq_false hkiln, Bool.or_false, Bool.and_false]

/-- R359: a read outside the context's reach by one of its agents. -/
theorem namedRead_of_outOfReach {s : State} {n off : Nat} (hn : 1 ≤ n ∧ n < 64) (hoff : off / 0x1000 ≠ 0x100 + n ∧ off / 0x1000 ≠ 0x16) :
    namedRead s (0x40 + n) off = s.bump 0x10020 n 1 := by
  obtain ⟨hpos, hlt⟩ := hn
  have hnoWay : noWay (0x40 + n) = false := by
    simp only [noWay, Bool.and_eq_false_iff, decide_eq_false_iff_not]
    omega
  have hreach : regReach (0x40 + n - 0x40) off = false := by
    rw [Nat.add_sub_cancel_left, regReach]
    simp only [Bool.or_eq_false_iff, decide_eq_false_iff_not, beq_eq_false_iff_ne, noCtx]
    omega
  have hout : outOfReach (0x40 + n) off = true := by
    rw [outOfReach, hreach]
    simp only [Bool.not_false, Bool.and_true, Bool.and_eq_true, decide_eq_true_eq]
    omega
  rw [namedRead, hnoWay, if_neg Bool.false_ne_true, readFor, hout, if_pos rfl, Nat.add_sub_cancel_left]
  exact if_neg (by rw [noCtx]; omega)

theorem namedRead_of_noWay {s : State} {m off : Nat} (hpos : 1 ≤ m) (hlt : m < 0x40) : namedRead s m off = s := by
  refine if_pos ?_
  rw [noWay, decide_eq_true hpos, decide_eq_true hlt]
  rfl

/-- Settles O59: each of the five words read by a master of the whole map, by an agent of another context, and by a virtual
function. -/
theorem latchedReadsComplete : Obligations.LatchedReadsComplete := by
  refine ⟨fun s m hm => ⟨?idle, ?value, ?ticket, ?energy, fun e rest hlog => ?log, fun hlog => ?empty⟩, fun s n hpos hlt => ?agent,
    fun s m hpos hlt => ?function⟩
  case idle =>
    exact congrArg Host.Outcome.next (namedRead_low (by decide) (wayTo_of_wholeMap hm (.inl (by decide)) (by decide)) rfl rfl)
  case value =>
    exact congrArg Host.Outcome.next (namedRead_low (by decide) (wayTo_of_wholeMap hm (.inl (by decide)) (by decide)) rfl rfl)
  case ticket =>
    exact congrArg Host.Outcome.next (namedRead_low (by decide) (wayTo_of_wholeMap hm (.inl (by decide)) (by decide)) rfl rfl)
  case energy =>
    exact congrArg Host.Outcome.next (namedRead_low (by decide) (wayTo_of_wholeMap hm (.inl (by decide)) (by decide)) rfl rfl)
  case log =>
    refine congrArg Host.Outcome.next ((namedRead_errLog (wayTo_of_wholeMap hm (.inr rfl) (by decide))).trans ?_)
    rw [State.errTop, State.popErr, hlog]
    exact congrArg (fun w => State.setMaster _ m { s.master m with lastRead := some w }) (ofNat_mod_word _)
  case empty =>
    refine congrArg Host.Outcome.next ((namedRead_errLog (wayTo_of_wholeMap hm (.inr rfl) (by decide))).trans ?_)
    rw [State.errTop, State.popErr, hlog]
    show returned { s with errLog := [], errOverflow := false } m 0 = _
    rw [← hlog]
  case agent =>
    have hread : ∀ off, off / 0x1000 ≠ 0x16 → off / 0x1000 < 0x100 → namedRead s (0x40 + n) off = s.bump 0x10020 n 1 :=
      fun off hwindow hblock => namedRead_of_outOfReach ⟨hpos, hlt⟩ ⟨by omega, hwindow⟩
    exact ⟨congrArg Host.Outcome.next (hread _ (by decide) (by decide)), congrArg Host.Outcome.next (hread _ (by decide) (by decide)),
      congrArg Host.Outcome.next (hread _ (by decide) (by decide)), congrArg Host.Outcome.next (hread _ (by decide) (by decide)),
      congrArg Host.Outcome.next (hread _ (by decide) (by decide))⟩
  case function =>
    have hread : ∀ off, Host.Outcome.next (φ := Fault) (ρ := Refusal) (namedRead s m off) = .next s :=
      fun off => congrArg Host.Outcome.next (namedRead_of_noWay hpos hlt)
    exact ⟨hread _, hread _, hread _, hread _, hread _⟩

end Sys2Proof.Machine

/-! SUPPORT. The events of the channels (R179 to R198, R216, R217, R457). -/

namespace Sys2Proof.Machine

section

variable {s : State} {ch : Nat}

/-- A state of service, as the channel's guards test it. -/
theorem inService_iff {x : ChState} : (x == .active || x == .degraded) = true ↔ x = .active ∨ x = .degraded := by
  simp only [Bool.or_eq_true, beq_iff_eq]

theorem takeLine_of_next {e : CEntry} (hservice : (s.chan ch).service = none)
    (hstate : (s.chan ch).state = .active ∨ (s.chan ch).state = .degraded) (hnext : nextLine s (s.chan ch) = some e) :
    takeLine s ch e.id = s.setChan ch { (s.chan ch).served e.tile with service := some e.id } := by
  rw [takeLine]
  simp only [hservice, inService_iff.mpr hstate, hnext]
  exact (if_neg Bool.false_ne_true).trans (if_pos trivial)

/-! ### Lines (R217) -/

/-- What a line does to the memory, and what it read. -/
def lineMoved (s : State) (ch : Nat) (errs : List (Nat × Nat × Nat)) (e : CEntry) : (List Byte × List Nat) × State :=
  if e.write then (([], []), writePiece s ch e.piece.1 (slice e.data (e.piece.1 - e.addr) e.piece.2) e.poison errs)
  else readPiece s ch e.piece.1 e.piece.2 errs

/-- The entry after its line. -/
def CEntry.after (e : CEntry) (o : List Byte × List Nat) : CEntry :=
  { e with next := e.piece.1 + e.piece.2, data := if e.write then e.data else e.data ++ o.1,
           poison := if e.write then e.poison else e.poison ++ o.2 }

theorem CEntry.after_of_read {e : CEntry} (h : e.write = false) (o : List Byte × List Nat) : e.after o =
    { e with next := e.piece.1 + e.piece.2, data := e.data ++ o.1, poison := e.poison ++ o.2 } := by
  rw [CEntry.after, if_neg (Bool.eq_false_iff.mp h), if_neg (Bool.eq_false_iff.mp h)]

theorem CEntry.after_of_write {e : CEntry} (h : e.write = true) (o : List Byte × List Nat) :
    e.after o = { e with next := e.piece.1 + e.piece.2 } := by
  rw [CEntry.after, if_pos h, if_pos h]

theorem lineDone_eq {errs : List (Nat × Nat × Nat)} {id : Nat} {e : CEntry} (hservice : (s.chan ch).service = some id)
    (hfind : (s.chan ch).entries.find? (fun x => x.id == id) = some e) : lineDone s ch errs =
      (let o := lineMoved s ch errs e
       let s1 := o.2.modChan ch (fun c => { c with service := none })
       if e.addr + e.len ≤ e.piece.1 + e.piece.2 then
         (let s2 := s1.modChan ch (fun c => { c with entries := dropEq e c.entries })
          admitHeld (s2.chan ch).held.length (answerTag s2 e.tile e.tag false (e.after o.1).data (e.after o.1).poison ch) ch)
       else s1.modChan ch (fun c => { c with entries := replaceEq e (e.after o.1) c.entries })) := by
  rw [lineDone]
  simp only [hservice, hfind]
  rfl

/-! ### Trainings (R188 to R191) -/

theorem execRetrainDone_of_running {sweep : PinSweep} {ok : Bool} (hretrain : (s.chan ch).retrain = .running)
    (hreq : (s.chan ch).retrainReq = none) : execRetrainDone ch sweep ok s =
      (let c := trained (s.chan ch) s.minEyeNow sweep
       .next (if 4 < c.2.length ∨ !ok then trainSpall (s.setChan ch { c.1 with retrain := .none, retrainReq := none }) ch
         else trainEnd s ch c.1 c.2)) := by
  rw [execRetrainDone]
  simp only [hretrain, hreq]
  rfl

theorem fenceDone_of_empty (hfencing : (s.chan ch).fencing = true) (hentries : (s.chan ch).entries = [])
    (hservice : (s.chan ch).service = none) (hstate : (s.chan ch).state ≠ .training) (hreq : (s.chan ch).retrainReq = none)
    (htreqs : ∀ r ∈ s.time.treqs, r.qkind ≠ 5 → thas r.res (resChan ch) = false) : fenceDone s ch =
      testDone (pointChan ((s.chan ch).held.foldl (failEntry ch) (s.setChan ch { s.chan ch with
        state := .fenced, fencing := false, selftestPassed := false, held := [],
        retrain := if (s.chan ch).retrain = .none then .none else .running })) ch) 1 1 ch 0 0 0 0 := by
  have hany : s.time.treqs.any (fun r => r.qkind != 5 && thas r.res (resChan ch)) = false := by
    simp only [List.any_eq_false, Bool.and_eq_true, bne_iff_ne, not_and, Bool.not_eq_true]
    exact htreqs
  have htraining : ((s.chan ch).state == .training) = false := beq_eq_false_iff_ne.mpr hstate
  rw [fenceDone]
  simp only [hfencing, hentries, hservice, htraining, hreq, hany]
  rfl

end

/-- Settles O25: each event by the branch of its function that the case's hypotheses name. -/
theorem channelEventsComplete : Obligations.ChannelEventsComplete := by
  refine ⟨?request, ?read, ?write, ?refresh, ?scrub, ?resubmit, ?start, ?done, ?fence, ?margin⟩
  case request =>
    intro s ch e hservice hstate hnext
    exact completes_of_exec rfl (takeLine_of_next hservice hstate hnext)
  case read =>
    intro s ch errs id e hservice hfind hread o s1
    have hmoved : lineMoved s ch errs e = o := if_neg (Bool.eq_false_iff.mp hread)
    have hdone := lineDone_eq (errs := errs) hservice hfind
    simp only [hmoved, CEntry.after_of_read hread] at hdone
    refine ⟨fun hlast => ?_, fun hmore => ?_⟩
    · exact completes_of_exec rfl (hdone.trans (if_pos hlast))
    · exact completes_of_exec rfl (hdone.trans (if_neg (Nat.not_le.mpr hmore)))
  case write =>
    intro s ch errs id e hservice hfind hwrite hlast s1
    have hmoved : lineMoved s ch errs e = (([], []),
        writePiece s ch e.piece.1 (slice e.data (e.piece.1 - e.addr) e.piece.2) e.poison errs) := if_pos hwrite
    have hdone := lineDone_eq (errs := errs) hservice hfind
    simp only [hmoved, CEntry.after_of_write hwrite] at hdone
    exact completes_of_exec rfl (hdone.trans (if_pos hlast))
  case refresh =>
    intro s ch bank htrained hspalled hbank hbusy
    refine completes_of_exec (congrArg Host.Outcome.next (if_neg ?_)) rfl
    exact fun h => h.elim htrained (fun h => h.elim hspalled (fun h => h.elim (Nat.not_le.mpr hbank) hbusy))
  case scrub =>
    intro s ch errs hstate hperiod hfree s1
    refine completes_of_exec (congrArg Host.Outcome.next (if_neg ?_)) rfl
    rw [inService_iff.mpr hstate, hfree, beq_eq_false_iff_ne.mpr hperiod]
    exact Bool.false_ne_true
  case resubmit =>
    intro s ch hrefused hdue
    exact completes_of_exec (congrArg Host.Outcome.next (if_pos ⟨hrefused, hdue⟩)) rfl
  case start =>
    intro s ch id hreq hsubmitted hservice hturn hstate
    refine completes_of_exec (t := s.setChan ch { s.chan ch with retrain := .running, state := .training }) ?_ rfl
    show execRetrainStart ch s = _
    rw [execRetrainStart]
    simp only [hreq, hsubmitted, hservice, hturn, hstate]
    rfl
  case done =>
    intro s ch sweep hretrain hreq c
    refine ⟨fun hfew => ?_, fun ok hmany => ?_⟩
    · refine completes_of_exec ((execRetrainDone_of_running hretrain hreq).trans (congrArg Host.Outcome.next (if_neg ?_))) rfl
      simp only [Bool.not_true, Bool.false_eq_true, or_false]
      exact Nat.not_lt.mpr hfew
    · refine completes_of_exec ((execRetrainDone_of_running hretrain hreq).trans (congrArg Host.Outcome.next (if_pos ?_))) rfl
      simpa only [Bool.not_eq_true'] using hmany
  case fence =>
    intro s ch hfencing hentries hservice hstate hreq htreqs
    exact completes_of_exec rfl (fenceDone_of_empty hfencing hentries hservice hstate hreq htreqs)
  case margin =>
    intro s ch lo hi lane none n hmargin
    refine completes_of_exec (t := s.setChan ch _) ?_ rfl
    show execMarginDone ch lo hi lane none s = _
    rw [execMarginDone, hmargin]
    rfl

end Sys2Proof.Machine

/-! SUPPORT. The flash commands (R234 to R239). -/

namespace Sys2Proof.Machine

section

variable {s : State} {ctx q : Nat} {d : Desc}

/-- R234, R236: the next descriptor's flash operation runs on the state with the descriptor started. -/
theorem flashCmd_of_at {op : Nat} (h : flashAt s ctx q op d) (k : State → Desc → State) :
    flashCmd s ctx q op k = k (s.startDesc ctx q d.abs) d := by
  obtain ⟨hnext, hvariant, hon, hop, hpos, hle, hstage, hout⟩ := h
  rw [flashCmd, hnext]
  simp only [hvariant, hstage, hon, hout, hop]
  refine (if_neg (by decide)).trans ((if_neg Bool.false_ne_true).trans ((if_neg (by decide)).trans ((if_neg ?_).trans ?_)))
  · omega
  · exact if_neg (not_not.mpr rfl)

theorem flashCmd_of_absent (hnext : s.nextOf ctx q 3 = some d) (hvariant : s.variant = .kv1s) (op : Nat)
    (k : State → Desc → State) : flashCmd s ctx q op k = finishDesc s ctx q d.abs 8 0 := by
  rw [flashCmd, hnext]
  exact if_pos hvariant

theorem owns_startDesc (a t : Nat) : ((s.startDesc ctx q a).ctx ctx).owns t = (s.ctx ctx).owns t := by
  rw [State.startDesc, State.modDesc, State.setRing, State.ctx_setCtx_same]
  rfl

theorem flashMake_of_new (hnew : s.fobj? (flObj d.bytes) = none) (hobj : flObj d.bytes ≠ 0xFFFFFFFF) (hlen : flLen d.bytes ≠ 0)
    (hcount : s.flash.objs.length < 1048576)
    (hroom : s.flash.objs.foldl (fun n o => n + o.2.size) 0 + flLen d.bytes ≤ flashUnits) (hrw : s.flash.readOnly = false) :
    flashMake s ctx q d = flashDone (s.modFlash (fun f => { f with
      objs := tset { ctx := ctx, size := flLen d.bytes, poisoned := [] } f.objs (flObj d.bytes),
      data := f.data.fill (flashKey (flObj d.bytes) 0) (4096 * flLen d.bytes) .zero })) ctx q d 0 := by
  rw [flashMake]
  refine (if_neg hobj).trans ((if_neg ?_).trans ((if_neg hlen).trans (if_neg ?_)))
  · rw [hnew]
    exact Bool.false_ne_true
  · rw [hrw]
    exact not_or.mpr ⟨Nat.not_le.mpr hcount, not_or.mpr ⟨Nat.not_lt.mpr hroom, Bool.false_ne_true⟩⟩

theorem flashReadStart_of_ok (hfault : objFault s ctx d.bytes true = none)
    (htile : fldBit d.bytes 17 1 = true → flTile d.bytes < tileCount ∧ (s.ctx ctx).owns (flTile d.bytes) = true)
    (haddr : flashAddrOk (flAddr d.bytes) 4096 = true) (hclean : extentPoisoned s d.bytes = false) :
    flashReadStart s ctx q d = (flashFly s ctx q d
      (if fldBit d.bytes 17 1 then some (flTile d.bytes, flStream d.bytes) else none)).2 := by
  rw [flashReadStart, hfault]
  simp only [haddr, hclean]
  refine (if_neg ?_).trans ((if_neg ?_).trans ((if_neg (by decide)).trans (if_neg Bool.false_ne_true))) <;>
    rcases hstream : fldBit d.bytes 17 1
  · exact Bool.false_ne_true
  · rw [Bool.true_and, decide_eq_true_eq]
    exact Nat.not_le.mpr (htile hstream).1
  · exact Bool.false_ne_true
  · rw [(htile hstream).2]
    exact Bool.false_ne_true

theorem flashWriteStart_of_ok (hfault : objFault s ctx d.bytes true = none) (haddr : flashAddrOk (flAddr d.bytes) 4096 = true)
    (hrw : s.flash.readOnly = false) : flashWriteStart s ctx q d =
      let fly := flashFly s ctx q d none
      if fly.1.fromHost then pumpUnits fly.2 fly.1.id else startPrograms 64 fly.2 := by
  rw [flashWriteStart, hfault]
  simp only [haddr, hrw]
  exact (if_neg (by decide)).trans (if_neg Bool.false_ne_true)

/-- R235: whether a WRITE's data comes from host memory. -/
theorem fromHost_flashFly (hop : flOp d.bytes = 4) (stream : Option (Nat × Nat)) :
    (flashFly s ctx q d stream).1.fromHost = (addrKind (flAddr d.bytes) == .host) := by
  show (flOp d.bytes == 4 && addrKind (flAddr d.bytes) == .host && true) = _
  rw [hop, Bool.and_true]
  rfl

theorem flashTrimRun_of_ok {o : FObj} (hfault : objFault s ctx d.bytes true = none) (hobj : s.fobj? (flObj d.bytes) = some o) :
    flashTrimRun s ctx q d = flashDone (s.modFlash (fun f => {
      f.unplace (flObj d.bytes) (fun p => (decide (flOff d.bytes ≤ 4 * p) && decide (4 * p < flOff d.bytes + flLen d.bytes)) &&
        (decide (flOff d.bytes ≤ 4 * p + 3) && decide (4 * p + 3 < flOff d.bytes + flLen d.bytes))) with
      objs := tset { o with poisoned := o.poisoned.filter (fun u =>
        !(decide (flOff d.bytes ≤ u) && decide (u < flOff d.bytes + flLen d.bytes))) } f.objs (flObj d.bytes),
      data := f.data.fill (flashKey (flObj d.bytes) (4096 * flOff d.bytes)) (4096 * flLen d.bytes) .zero })) ctx q d 0 := by
  have hkept : ∀ g : Flash → Flash, (g s.flash).objs = s.flash.objs → (s.modFlash g).fobj? (flObj d.bytes) = some o :=
    fun g hg => (congrArg (tfind? · (flObj d.bytes)) hg).trans hobj
  simp only [flashTrimRun, hfault]
  rw [hkept]
  case a => rfl
  rfl

theorem flashStatRun_of_ok {o : FObj} (hfault : objFault s ctx d.bytes false = none) (hobj : s.fobj? (flObj d.bytes) = some o)
    (haddr : flashAddrOk (flAddr d.bytes) 32 = true) : flashStatRun s ctx q d =
      let w := agentWriteAll s ctx (flAddr d.bytes) (statRecord o) [] (unitEnd 12)
      flashDone w.2 ctx q d (if w.1 then 0 else 6) := by
  rw [flashStatRun, hfault, hobj]
  simp only [haddr]
  exact if_neg (by decide)

theorem streamCredit_of_room {c : FCmd} {t n : Nat} {x : Stream} (hstream : c.stream = some (t, n))
    (hx : (s.tile t).hod.stream? n = some x) (hrecv : x.recv = true) (hcredits : 0 < x.credits) : streamCredit s c =
      (s.modStream t n (fun x => { x with credits := x.credits - 1 })).modFCmd c.id
        (fun c => { c with started := true, steppedAt := s.now }) := by
  rw [streamCredit, hstream]
  simp only [hx]
  exact if_pos (by rw [hrecv, decide_eq_true hcredits]; rfl)

end

/-- Settles O26: each operation by its function, on the state with its descriptor started. -/
theorem flashCommandsComplete : Obligations.FlashCommandsComplete := by
  refine ⟨?create, ?delete, ?read, ?credit, ?cancel, ?write, ?trim, ?stat, ?absent⟩
  case create =>
    intro s ctx q d hat hnew hobj hlen hcount hroom hrw o
    exact completes_of_exec (congrArg Host.Outcome.next (flashCmd_of_at hat _)) (flashMake_of_new hnew hobj hlen hcount hroom hrw)
  case delete =>
    intro s ctx q d hat hfault
    have hfault' : objFault (s.startDesc ctx q d.abs) ctx d.bytes false = none := hfault
    refine completes_of_exec (congrArg Host.Outcome.next (flashCmd_of_at hat _)) ?_
    rw [hfault']
  case read =>
    intro s ctx q d hat hfault htile haddr hclean
    refine completes_of_exec (congrArg Host.Outcome.next (flashCmd_of_at hat _)) (flashReadStart_of_ok hfault ?_ haddr hclean)
    rw [owns_startDesc]
    exact htile
  case credit =>
    intro s id c t n x hc hop hstarted hlate hstream hx hrecv hcredits
    refine completes_of_exec (t := streamCredit s c) ?_ (streamCredit_of_room hstream hx hrecv hcredits)
    show execFlashReadStreamStart id s = _
    rw [execFlashReadStreamStart, hc]
    simp only [hop, hstarted, hlate]
    rfl
  case cancel =>
    intro s id c hc hop hlate
    refine completes_of_exec (t := flashEnd s c 9) ?_ rfl
    show execFlashReadCancel id s = _
    rw [execFlashReadCancel, hc]
    simp only [hop, hlate]
    rfl
  case write =>
    intro s ctx q d hat hfault haddr hrw fly
    have hop : flOp d.bytes = 4 := hat.2.2.2.1
    have hrun := (flashCmd_of_at hat (fun s d => flashWriteStart s ctx q d)).trans (flashWriteStart_of_ok hfault haddr hrw)
    refine ⟨fun hkind => ?_, fun hkind => ?_⟩
    · refine completes_of_exec (congrArg Host.Outcome.next hrun) (if_neg ?_)
      rw [fromHost_flashFly hop, beq_iff_eq]
      exact hkind
    · refine completes_of_exec (congrArg Host.Outcome.next hrun) (if_pos ?_)
      rw [fromHost_flashFly hop, beq_iff_eq]
      exact hkind
  case trim =>
    intro s ctx q d o hat hfault hobj o'
    exact completes_of_exec (congrArg Host.Outcome.next (flashCmd_of_at hat _)) (flashTrimRun_of_ok hfault hobj)
  case stat =>
    intro s ctx q d o hat hfault hobj haddr
    exact completes_of_exec (congrArg Host.Outcome.next (flashCmd_of_at hat _)) (flashStatRun_of_ok hfault hobj haddr)
  case absent =>
    intro s ctx q d hnext hvariant i hi
    simp only [List.mem_cons, List.not_mem_nil, or_false] at hi
    rcases hi with rfl | rfl | rfl | rfl | rfl | rfl <;>
    exact completes_of_exec (congrArg Host.Outcome.next (flashCmd_of_absent hnext hvariant ..)) rfl

end Sys2Proof.Machine

/-! SUPPORT. The events of the flash tier (R238, R242, R244 to R246) and of host reads (R247, R248, R472). -/

namespace Sys2Proof.Machine

section

variable {s : State} {id row slot u : Nat} {c : FCmd}

/-! ### Page programs (R238) -/

theorem programDone_of_failed (hc : s.fcmd? id = some c) (hop : c.op = 4) (hprograms : 0 < c.programs) :
    programDone s id false row slot = startPrograms 64 (s.modFCmd id (fun c => { c with programs := c.programs - 1 })) := by
  rw [programDone, hc]
  exact (if_neg (not_or.mpr ⟨not_not.mpr hop, hprograms.ne'⟩)).trans (if_pos rfl)

theorem programDone_of_page {us : List Nat} (hc : s.fcmd? id = some c) (hop : c.op = 4) (hprograms : 0 < c.programs)
    (hunits : c.units = u :: us) (hplace : s.flash.canPlace row slot = true) :
    programDone s id true row slot = startPrograms 64 (programPage s c u row slot) := by
  rw [programDone, hc]
  simp only [hunits, hplace]
  exact (if_neg (not_or.mpr ⟨not_not.mpr hop, hprograms.ne'⟩)).trans (if_neg (by decide))

theorem programDone_of_parity {x : Nat × Nat} {xs : List (Nat × Nat)} (hc : s.fcmd? id = some c) (hop : c.op = 4)
    (hprograms : 0 < c.programs) (hunits : c.units = []) (hparity : c.parity = x :: xs) :
    programDone s id true row slot = startPrograms 64 (endWrites (programParity s c x)) := by
  rw [programDone, hc]
  simp only [hunits, hparity]
  exact (if_neg (not_or.mpr ⟨not_not.mpr hop, hprograms.ne'⟩)).trans (if_neg (by decide))

theorem programPage_of_unit (hstatus : c.status ≠ 6) (hunits : c.units.filter (fun v => pageOf v == pageOf u) = [u])
    (hok : (programUnit s c u).1 ≠ 6) : programPage s c u row slot =
      (let st := if (programUnit s c u).1 = 0 then c.status else (programUnit s c u).1
       ((programUnit s c u).2.modFlash (fun f => f.put c.obj (pageOf u) row slot)).modFCmd c.id
         (fun x => { x with status := st, programs := x.programs - 1, steppedAt := (programUnit s c u).2.now,
                            parity := if x.parity.contains (row, slot / 15) then x.parity
                              else x.parity ++ [(row, slot / 15)],
                            units := x.units.filter (fun v => pageOf v != pageOf u) })) := by
  obtain ⟨st, hst⟩ : ∃ st, st = if (programUnit s c u).1 = 0 then c.status else (programUnit s c u).1 := ⟨_, rfl⟩
  have hne : st ≠ 6 := by
    rw [hst]
    split
    · exact hstatus
    · exact hok
  rw [programPage, hunits]
  simp only [List.foldl_cons, List.foldl_nil, if_neg hstatus, ← hst, if_neg hne]
  rfl

/-! ### Page reads (R244 to R246) -/

theorem pageRead_of_lost (hc : readWaits s id u = some c) (hlost : s.flash.pageLost c.obj (pageOf u) = true) (ok : Bool) :
    pageRead s id u ok = poisonUnit s c.obj u := by
  rw [pageRead, hc]
  exact if_pos hlost

theorem pageRebuild_of_lost (hc : readWaits s id u = some c) (hlost : s.flash.pageLost c.obj (pageOf u) = true) (ok : Bool) :
    pageRebuild s id u ok = poisonUnit s c.obj u := by
  rw [pageRebuild, hc]
  exact if_pos hlost

theorem pageRead_of_first (hc : readWaits s id u = some c) (hlost : s.flash.pageLost c.obj (pageOf u) = false)
    (htries : s.flash.tries c.obj (pageOf u) = none) (hdown : s.flash.pageDown c.obj (pageOf u) = false) (ok : Bool) :
    pageRead s id u ok =
      (let s1 := s.modFlash (fun f => f.countRead c.obj (pageOf u))
       if ok then landShared s1 c.obj (pageUnits (pageOf u)) true
       else (pageWaiters s1 c.obj (pageOf u)).foldl recheckRead (setTries s1 c.obj (pageOf u) (some 0))) := by
  rw [pageRead, hc]
  simp only [hlost, htries, hdown]
  exact (if_neg Bool.false_ne_true).trans (if_neg (by decide))

theorem pageRetry_of_tried {n : Nat} (hc : readWaits s id u = some c) (htries : s.flash.tries c.obj (pageOf u) = some n)
    (hn : n < 7) (hdown : s.flash.pageDown c.obj (pageOf u) = false) (ok : Bool) : pageRetry s id u ok =
      (let s1 := s.modFlash (fun f => (f.countRead c.obj (pageOf u)).noteRetry c.obj (pageOf u))
       if ok then landShared ((setTries s1 c.obj (pageOf u) none).bump 0x1800C 0 1) c.obj (pageUnits (pageOf u)) true
       else setTries s1 c.obj (pageOf u) (some (n + 1))) := by
  rw [pageRetry, hc]
  simp only [htries]
  refine if_neg (not_or.mpr ⟨Nat.not_le.mpr hn, ?_⟩)
  rw [hdown]
  exact Bool.false_ne_true

theorem pageRebuild_of_due (hc : readWaits s id u = some c) (hlost : s.flash.pageLost c.obj (pageOf u) = false)
    (hdue : s.flash.tries c.obj (pageOf u) = some 7 ∨ s.flash.pageDown c.obj (pageOf u) = true) (ok : Bool) :
    pageRebuild s id u ok =
      if ok then landShared ((setTries s c.obj (pageOf u) none).bump 0x18010 0 1) c.obj (pageUnits (pageOf u)) true
      else poisonUnit s c.obj u := by
  have hdue' : (decide ((s.flash.tries c.obj (pageOf u)).getD 0 < 7) && !s.flash.pageDown c.obj (pageOf u)) = false := by
    rcases hdue with htries | hdown
    · rw [htries]
      rfl
    · rw [hdown, Bool.not_true, Bool.and_false]
  rw [pageRebuild, hc]
  simp only [hlost, hdue']
  exact (if_neg Bool.false_ne_true).trans (if_neg Bool.false_ne_true)

/-! ### Rows (R242) -/

theorem relocateRow_of_ok {dst : Nat} (hvariant : s.variant = .kv1a) (hsrc : tget 0 s.flash.fill row ≠ 0)
    (hdst : tget 0 s.flash.fill dst = 0) (hne : row ≠ dst) (hopens : s.flash.opens dst = true)
    (hparity : ∀ c ∈ s.flash.cmds, ∀ x ∈ c.parity, x.1 ≠ row) (hdue : rowWorn s row = true ∨ rowStale s.flash row = true) :
    relocateRow s row dst = (if rowWorn s row then s.bump 0x18018 0 1 else s).modFlash (fun f => f.relocate row dst) := by
  have hany : s.flash.cmds.any (fun c => c.parity.any (fun x => x.1 == row)) = false := by
    simp only [List.any_eq_false, List.any_eq_true, beq_iff_eq, not_exists, not_and]
    exact hparity
  have hdue' : (rowWorn s row || rowStale s.flash row) = true := by
    rw [Bool.or_eq_true]
    exact hdue
  rw [relocateRow]
  refine if_neg ?_
  rw [hvariant, hopens, hany, hdue']
  simp only [hsrc, hdst, hne]
  decide

end

/-- Settles O27: each event by the branch of its function that the case's hypotheses name. -/
theorem flashEventsComplete : Obligations.FlashEventsComplete := by
  refine ⟨?program, ?page, ?lost, ?first, ?retry, ?rebuild, ?poison, ?die, ?relocate, ?loaded⟩
  case program =>
    intro s id c row slot hc hop hprograms
    refine ⟨?_, fun u us hunits hplace => ?_, fun x xs hunits hparity => ?_⟩
    · exact completes_of_exec rfl (congrArg keepSweep (programDone_of_failed hc hop hprograms))
    · exact completes_of_exec rfl (congrArg keepSweep (programDone_of_page hc hop hprograms hunits hplace))
    · exact completes_of_exec rfl (congrArg keepSweep (programDone_of_parity hc hop hprograms hunits hparity))
  case page =>
    intro s c u row slot hstatus hunits hok
    exact programPage_of_unit hstatus hunits hok
  case lost =>
    intro s id u c hc hlost
    exact ⟨fun ok => completes_of_exec rfl (pageRead_of_lost hc hlost ok),
      fun ok => completes_of_exec rfl (pageRebuild_of_lost hc hlost ok)⟩
  case first =>
    intro s id u c hc hlost htries hdown
    exact ⟨completes_of_exec rfl (pageRead_of_first hc hlost htries hdown true),
      completes_of_exec rfl (pageRead_of_first hc hlost htries hdown false)⟩
  case retry =>
    intro s id u c n hc htries hn hdown
    exact ⟨completes_of_exec rfl (pageRetry_of_tried hc htries hn hdown true),
      completes_of_exec rfl (pageRetry_of_tried hc htries hn hdown false)⟩
  case rebuild =>
    intro s id u c hc hlost hdue
    exact ⟨completes_of_exec rfl (pageRebuild_of_due hc hlost hdue true),
      completes_of_exec rfl (pageRebuild_of_due hc hlost hdue false)⟩
  case poison => exact fun s obj u => rfl
  case die =>
    intro s die hvariant hdie hdue
    have hflash : (pointPut s 4 die 1).flash = s.flash := (pointPut_kept ..).unchanged .flash rfl
    refine completes_of_exec (congrArg Host.Outcome.next (if_neg ?_)) ?_
    · rw [hvariant, hdue]
      simp only [Nat.not_le.mpr hdie]
      decide
    · simp only [State.modFlash, hflash, and_self]
  case relocate =>
    intro s row dst hvariant hsrc hdst hne hopens hparity
    have hmove := relocateRow_of_ok hvariant hsrc hdst hne hopens hparity
    refine ⟨fun hworn => ?_, fun hfresh hstale => ?_⟩
    · refine completes_of_exec rfl ((hmove (.inl hworn)).trans ?_)
      rw [if_pos hworn]
    · refine completes_of_exec rfl ((hmove (.inr hstale)).trans ?_)
      rw [if_neg (Bool.eq_false_iff.mp hfresh)]
  case loaded =>
    intro s hvariant
    exact completes_of_exec (congrArg Host.Outcome.next (if_pos hvariant)) rfl

/-! ### Host reads (R247, R248, R472) -/

theorem exec_hostReadCompletion {s : State} {tag st : Nat} {data : List Byte} {h : HostRead}
    (hfind : s.hostReads.find? (fun h => h.tag == tag) = some h) (hwaits : hostWaits s h = false) :
    exec (.hostReadCompletion tag st data) s = .next (hostComplete s h st data) := by
  show execHostReadCompletion tag st data s = _
  rw [execHostReadCompletion, hfind]
  exact congrArg Host.Outcome.next (if_neg (Bool.eq_false_iff.mp hwaits))

/-- Settles O28: a completion by what it finds of its read, and the two times at which a read is late. -/
theorem hostReadsComplete : Obligations.HostReadsComplete := by
  refine ⟨?good, ?hod, ?bad, ?abandoned, ?timeout, ?late⟩
  case good =>
    intro s tag data h hfind habandoned hwaits
    refine completes_of_exec (exec_hostReadCompletion hfind hwaits) ?_
    exact (if_neg (Bool.eq_false_iff.mp habandoned)).trans (if_pos rfl)
  case hod =>
    intro s h t g bs hwho
    rw [hostWaits, hostLand, hwho]
    exact ⟨rfl, rfl⟩
  case bad =>
    intro s tag st data h hfind habandoned hwaits hst
    refine completes_of_exec (exec_hostReadCompletion hfind hwaits) ?_
    exact (if_neg (Bool.eq_false_iff.mp habandoned)).trans (if_neg hst)
  case abandoned =>
    intro s tag st data h hfind habandoned hwaits
    exact completes_of_exec (exec_hostReadCompletion hfind hwaits) (if_pos habandoned)
  case timeout =>
    intro s tag h hfind habandoned hdue
    refine completes_of_exec (t := hostReadFails ((dropHostRead s tag).bump 0x1900C 0 1) h) ?_ rfl
    show execHostCplTimeout tag s = _
    rw [execHostCplTimeout, hfind]
    exact congrArg Host.Outcome.next ((if_pos hdue).trans (if_neg (Bool.eq_false_iff.mp habandoned)))
  case late =>
    intro s tag h id hfind htreq habandoned hdue
    refine completes_of_exec (t := breakReq s id 4 0 (resHost true)) ?_ rfl
    show execLateHostRead tag s = _
    rw [execLateHostRead, hfind]
    simp only [htreq]
    exact congrArg Host.Outcome.next (if_pos (by rw [habandoned, decide_eq_true hdue]; rfl))

end Sys2Proof.Machine

/-! SUPPORT. The KV page manager (R168 to R175). -/

namespace Sys2Proof.Machine

section

variable {s : State} {n op : Nat} {c : KvCmd}

/-- R170, R173: the accepted command leaves the list and runs. -/
theorem kvTake_of_at (h : kvAt s n op c) (k : State → KvCmd → State) : kvTake s n op k = k (s.kvTaken n) c := by
  obtain ⟨hc, hop, -, -, hstalled⟩ := h
  rw [kvTake, hc]
  exact if_pos (by rw [hstalled, decide_eq_true hop]; rfl)

/-- R174: a command of its own context whose response can be written runs. -/
theorem kvRun_of_at (h : kvAt s n op c) (k : State → KvResp × State) :
    kvRun (s.kvTaken n) c k = kvRespond (k (s.kvTaken n)).2 c (k (s.kvTaken n)).1 := by
  obtain ⟨-, -, hfield, hresp, -⟩ := h
  rw [kvRun, hresp]
  exact (if_neg (by decide)).trans (if_neg (not_not.mpr hfield))

theorem kvOnPage_of_live (h : kvLive s c) (k : State → Page → KvResp × State) : kvOnPage c k s = k s (s.page c.page) := by
  obtain ⟨hpage, hst, hctx⟩ := h
  exact (if_neg (not_or.mpr ⟨Nat.not_le.mpr hpage, not_not.mpr hst⟩)).trans (if_neg (not_not.mpr hctx))

/-- R170: a command on the live page that it names. -/
theorem kvPageCommand (h : kvAt s n op c) (hlive : kvLive s c) (k : State → KvCmd → Page → KvResp × State) :
    kvTake s n op (fun s c => kvRun s c (kvOnPage c (fun s p => k s c p))) =
      kvRespond (k (s.kvTaken n) c (s.page c.page)).2 c (k (s.kvTaken n) c (s.page c.page)).1 := by
  have hlive' : kvLive (s.kvTaken n) c := hlive
  rw [kvTake_of_at h, kvRun_of_at h, kvOnPage_of_live hlive']
  rfl

/-- R169: a command with the key of the token block that it reads. -/
theorem kvKeyed_of_read (h : kvAt s n op c) {k : State → List Byte → KvResp × State} {key : List Byte}
    (hok : (agentReadAll (s.kvTaken n) c.ctx c.tokAddr 528 kvEnd).1.ok = true)
    (hbad : (agentReadAll (s.kvTaken n) c.ctx c.tokAddr 528 kvEnd).1.bad = [])
    (hkey : key = kvKey (agentReadAll (s.kvTaken n) c.ctx c.tokAddr 528 kvEnd).1.data) :
    kvKeyed (s.kvTaken n) c k =
      (let x := k (agentReadAll (s.kvTaken n) c.ctx c.tokAddr 528 kvEnd).2 key
       kvRespond x.2 c x.1) := by
  obtain ⟨-, -, hfield, hresp, -⟩ := h
  have hwith : kvWithKey c (s.kvTaken n) k =
      (some (k (agentReadAll (s.kvTaken n) c.ctx c.tokAddr 528 kvEnd).2 key).1,
        (k (agentReadAll (s.kvTaken n) c.ctx c.tokAddr 528 kvEnd).2 key).2) := by
    simp only [kvWithKey, hok, hbad, hkey]
    exact (if_neg (by decide)).trans (if_neg (by decide))
  rw [kvKeyed, hresp, hwith]
  exact (if_neg (by decide)).trans (if_neg (not_not.mpr hfield))

theorem kvLookupOp_of_hit {key : List Byte} {i : Nat} {p : Page} (hfind : s.kvFind c.ctx c.lgrp (leNat key) = some (i, p))
    (hpins : p.pins + b2n (c.flag 0) < 2 ^ 16) (hrefs : p.refs + b2n (c.flag 1) < 2 ^ 24) : kvLookupOp c s key =
      (let x := { p with pins := p.pins + b2n (c.flag 0), refs := p.refs + b2n (c.flag 1) }
       (KvResp.of 0 i x key, (s.bump 0x1501C 0 1).kvSetPage i x)) := by
  rw [kvLookupOp, hfind]
  exact if_neg (not_or.mpr ⟨Nat.not_le.mpr hpins, Nat.not_le.mpr hrefs⟩)

theorem kvPublishOp_of_live {key : List Byte} (hlive : kvLive s c) (hring : (s.page c.page).ring = false) :
    kvPublishOp c s key =
      (let x := match s.kvFind c.ctx c.lgrp (leNat key) with
         | some (i, q) => (KvResp.of 2 i q key, s)
         | none =>
           if (s.page c.page).refs = 0 then (kvFail s c 6, s)
           else
             let q := { s.page c.page with published := true, inDir := true, lgrp := c.lgrp, key := leNat key }
             (KvResp.of 0 c.page q key, s.kvSetPage c.page q)
       ({ x.1 with key := key }, x.2)) := by
  rw [kvPublishOp, kvOnPage_of_live hlive]
  simp only [if_neg (Bool.eq_false_iff.mp hring)] <;> rfl

/-- R171: a WPREP of a live page. -/
theorem kvWprepCmd_of_live (h : kvAt s n op c) (hlive : kvLive s c) : kvWprepCmd (s.kvTaken n) c =
    match kvWprepOp (s.kvTaken n) c (s.page c.page) with
    | (none, t) => t
    | (some r, t) => kvRespond t c r := by
  obtain ⟨-, -, hfield, hresp, -⟩ := h
  obtain ⟨hpage, hst, hctx⟩ := hlive
  rw [kvWprepCmd, hresp]
  refine (if_neg (by decide)).trans ((if_neg (not_not.mpr hfield)).trans ((if_neg ?_).trans (if_neg (not_not.mpr hctx))))
  exact not_or.mpr ⟨Nat.not_le.mpr hpage, not_not.mpr hst⟩

theorem kvCopyEnd_of_good {k : KvCopy} (hgone : k.gone = false) :
    let m := kvMovePage { s with kv := { s.kv with copies := dropEq k s.kv.copies } } (s.kvPageAddr k.page)
      (s.kvPageAddr k.newPage) s.kvPageBytes
    m.1 = true → (m.2.page k.page).refs ≠ 0 → kvCopyEnd s k false =
      (let p := m.2.page k.page
       let x : Page := { Page.reset with st := .live, refs := 1, ctx := p.ctx, lgrp := p.lgrp }
       kvRespond (((m.2.putPage k.page { p with refs := p.refs - 1 }).kvSetPage k.newPage x).bump 0x15024 0 1) k.cmd
         (KvResp.of 0 k.newPage x (zeros 16))) := by
  intro m hok hrefs
  rw [kvCopyEnd]
  have hm : kvMovePage { s with kv := { s.kv with copies := dropEq k s.kv.copies } }
      (State.kvPageAddr { s with kv := { s.kv with copies := dropEq k s.kv.copies } } k.page)
      (State.kvPageAddr { s with kv := { s.kv with copies := dropEq k s.kv.copies } } k.newPage)
      (State.kvPageBytes { s with kv := { s.kv with copies := dropEq k s.kv.copies } }) = (true, m.2) := Prod.ext hok rfl
  simp only [hm]
  refine (if_neg ?_).trans ((if_neg (by decide)).trans (if_neg hrefs))
  rw [hgone]
  exact Bool.false_ne_true

/-- R172: what the advance of the epoch leaves in the manager. -/
theorem kv_kvAdvance (s : State) : (kvAdvance s).kv = { s.kv with
    epoch := s.kv.epoch + 1, advancedAt := s.now,
    pages := s.kv.pages.filter (fun p =>
      !(p.2.st == PageState.retiring && (p.2.epoch + 2) % 2 ^ 32 == (s.kv.epoch + 1).toNat)) } := by
  rw [kvAdvance]
  refine (((Kept.foldl (fun t p ht => ht.trans (State.undefineMeta_kept ..)) (Kept.refl _ _)).weaken
    (ps := [.freeCtr, .mem, .poison, .regs]) (by decide)).step (State.bump_kept ..) (by decide)).unchanged .kv rfl

end

/-- Settles O29: each command by its operation's function on the state that the command has left, the end of a copy, the epoch,
and the command window. -/
theorem kvCommandsComplete : Obligations.KvCommandsComplete := by
  refine ⟨?lookup, ?alloc, ?publish, ?pin, ?unpin, ?ref, ?unref, ?wprep, ?copy, ?epoch, ?window, ?timeout⟩
  case lookup =>
    intro s n c key hat s1 r hok hbad hkey
    have hrun := (kvTake_of_at hat (fun s c => kvKeyed s c (kvLookupOp c))).trans (kvKeyed_of_read (k := kvLookupOp c) hat hok hbad hkey)
    refine ⟨fun hfind => ?_, fun i p hfind hpins hrefs => ?_⟩
    · refine completes_of_exec (congrArg Host.Outcome.next hrun) ?_
      rw [kvLookupOp, hfind]
    · refine completes_of_exec (congrArg Host.Outcome.next hrun) ?_
      rw [kvLookupOp_of_hit hfind hpins hrefs]
  case alloc =>
    intro s n c i hat hfree
    refine completes_of_exec (congrArg Host.Outcome.next ((kvTake_of_at hat _).trans (kvRun_of_at hat _))) ?_
    rw [kvAllocOp, hfree]
  case publish =>
    intro s n c key hat r hok hbad hkey hlive hring
    have hrun := (kvTake_of_at hat (fun s c => kvKeyed s c (kvPublishOp c))).trans (kvKeyed_of_read (k := kvPublishOp c) hat hok hbad hkey)
    refine ⟨fun hfind hrefs => ?_, fun i p hfind => ?_⟩
    · refine completes_of_exec (congrArg Host.Outcome.next hrun) ?_
      rw [kvPublishOp_of_live hlive hring, hfind]
      simp only [if_neg hrefs.ne']
      rfl
    · refine completes_of_exec (congrArg Host.Outcome.next hrun) ?_
      rw [kvPublishOp_of_live hlive hring, hfind]
      rfl
  case pin =>
    intro s n c hat hlive hpins
    refine completes_of_exec (congrArg Host.Outcome.next (kvPageCommand hat hlive kvPinOp)) ?_
    rw [kvPinOp, if_neg (by omega)]
    rfl
  case unpin =>
    intro s n c hat hlive hpins
    refine completes_of_exec (congrArg Host.Outcome.next (kvPageCommand hat hlive kvUnpinOp)) ?_
    rw [kvUnpinOp, if_neg (by omega)]
    rfl
  case ref =>
    intro s n c hat hlive hrefs
    refine completes_of_exec (congrArg Host.Outcome.next (kvPageCommand hat hlive kvRefOp)) ?_
    rw [kvRefOp, if_neg (by omega)]
    rfl
  case unref =>
    intro s n c hat hlive hrefs
    refine completes_of_exec (congrArg Host.Outcome.next (kvPageCommand hat hlive kvUnrefOp)) ?_
    rw [kvUnrefOp, if_neg (by omega)]
    rfl
  case wprep =>
    intro s n c hat hlive p
    have hrun := (kvTake_of_at hat kvWprepCmd).trans (kvWprepCmd_of_live hat hlive)
    refine ⟨fun hring hpub hrefs hpins => ?_, fun hring hpins => ?_, fun i hring hshared hfree => ?_⟩
    · refine completes_of_exec (congrArg Host.Outcome.next hrun) ?_
      simp only [kvWprepOp, show (s.page c.page).ring = false from hring, show (s.page c.page).published = false from hpub,
        show (s.page c.page).refs = 1 from hrefs, show (s.page c.page).pins = 0 from hpins]
      rfl
    · refine completes_of_exec (congrArg Host.Outcome.next hrun) ?_
      simp only [kvWprepOp, show (s.page c.page).ring = true from hring, show 0 < (s.page c.page).pins from hpins]
      rfl
    · refine completes_of_exec (congrArg Host.Outcome.next hrun) ?_
      have hnot : (!(s.page c.page).published && (s.page c.page).refs == 1 && (s.page c.page).pins == 0) = false := by
        simp only [Bool.and_eq_false_iff, Bool.not_eq_false', beq_eq_false_iff_ne, or_assoc]
        exact hshared
      simp only [kvWprepOp, show (s.page c.page).ring = false from hring, hnot, hfree]
      rfl
  case copy =>
    intro s page k hfind hgone hstalled m p x hok hrefs
    refine completes_of_exec (t := kvCopyEnd s k false) ?_ (kvCopyEnd_of_good hgone hok hrefs)
    show execKvWprepCopyDone page false s = _
    rw [execKvWprepCopyDone, hfind]
    exact congrArg Host.Outcome.next (if_neg (Bool.eq_false_iff.mp hstalled))
  case epoch =>
    intro s husers hdue
    have hany : s.kv.users.any (fun u => u.2 == (s.kv.epoch - 1).toNat) = false := by
      simp only [List.any_eq_false, beq_iff_eq]
      exact husers
    refine completes_of_exec (t := kvAdvance s) (congrArg Host.Outcome.next (if_neg ?_)) ?_
    · rw [hany, Bool.false_or, decide_eq_true_eq]
      omega
    · rw [kv_kvAdvance]
      refine ⟨rfl, rfl, fun p => ?_, rfl, ((kvAdvance_kept s).weaken (by decide)).same⟩
      simp only [List.mem_filter, Bool.not_eq_true', ← Bool.not_eq_true, Bool.and_eq_true, beq_iff_eq]
  case window =>
    intro s m off data hoff halign hlen hen c hop hle
    refine completes_of_exec (congrArg Host.Outcome.next (if_pos hoff)) ?_
    refine (if_pos ?_).trans ((if_neg ?_).trans (if_neg ?_))
    · rw [hlen, halign]
      decide
    · rw [Bool.not_eq_true']
      exact fun hoff => Bool.noConfusion (hen.symm.trans hoff)
    · exact not_or.mpr ⟨hop, Nat.not_lt.mpr hle⟩
  case timeout =>
    intro s m r hrun hdue
    refine completes_of_exec (t := kvDiscard s m) ?_ rfl
    show execKvRunTimeout m s = _
    rw [execKvRunTimeout, hrun]
    exact congrArg Host.Outcome.next (if_pos hdue)

end Sys2Proof.Machine

/-! SUPPORT. The batches of the kiln (R260 to R272). -/

namespace Sys2Proof.Machine

section

variable {s : State} {ctx q : Nat} {d : Desc}

theorem exec_kilnBatch (hnext : s.nextOf ctx q 4 = some d) : exec (.kilnBatch ctx q) s = .next (kilnTake s ctx q d) := by
  show execKilnBatch ctx q s = _
  rw [execKilnBatch, hnext]

/-- R260, R275: a batch that the kiln takes, by what the check of its block says. -/
theorem kilnTake_of_taken (hvariant : s.variant = .kv1a) (hstate : s.kiln.kstate = 0 ∨ d.treq.isSome = true)
    (hon : s.kilnOn = true) (hout : s.unitOutranked d = false) (hstall : s.stalled (kdBlock d.bytes) 128 = false) :
    kilnTake s ctx q d = match kilnCheck (s.startDesc ctx q d.abs) ctx d.bytes with
      | (.good, b, t) => kilnAccept t ctx q d b
      | (.bad i, _, t) => kilnReject t ctx q d 1 i
      | (.address, _, t) => kilnReject t ctx q d 2 0 := by
  rw [kilnTake, hvariant, hon, hout, hstall]
  refine (if_neg (by decide)).trans ((if_neg ?_).trans (if_neg (by decide)))
  rintro ⟨hdrain, hbulk⟩
  rw [Option.isNone_iff_eq_none] at hbulk
  rw [hbulk] at hstate
  exact hdrain (hstate.resolve_right Bool.false_ne_true)

/-! ### Slots (R261, R263, R265) -/

/-- R261: the slot of a batch whose turn it is starts on the first free engine. -/
theorem kilnNext_of_free {id e i : Nat} {b : Batch} (hb : s.batch? id = some b) (hturn : batchTurn s b = true)
    (hslot : b.nextSlot = some i) (hfree : (List.range 16).find? (fun e => s.kiln.up.getLsbD e &&
      !s.kiln.fencing.getLsbD e && (s.engine e).st == .free) = some e) : kilnNext s id = slotStart s b i e := by
  rw [kilnNext, hb]
  simp only [hfree, hslot, hturn]
  exact if_neg (by decide)

/-- R263, steps 1 to 4: a slot whose catalogue record has been read without an uncorrectable word. -/
theorem slotStart_of_record {b : Batch} {i e k : Nat} {s2 t u : State} {r : RdOut}
    (hs2 : s2 = (s.modBatch b.id (fun b => b.setSlot i { b.slot i with st := .busy })).setEngine e
      { Engine.reset with st := .header, batch := b.id, slot := i })
    (hindex : slotIndex s2 b i = (some k, t))
    (hread : agentReadAll t b.ctx (kbCatalog b.block + 32 * k) 32 (unitEnd 10) = (r, u)) (hok : r.ok = true) (hbad : r.bad = []) :
    slotStart s b i e =
      (let s3 := u.setEngine e { u.engine e with catalog := k, record := r.data }
       match recordCause s3 r.data with
       | some cause => kilnCorrupt s3 e cause
       | none => askSource (s3.setEngine e { s3.engine e with hi := headerBytes r.data }) b e) := by
  simp only [slotStart, ← hs2, hindex, hread, hok, hbad]
  exact if_neg (by decide)

theorem headerDone_eq {e : Nat} {b : Batch} (hb : s.batch? (s.engine e).batch = some b) (hst : (s.engine e).st = .header) :
    headerDone s e =
      if (s.engine e).failed then kilnCorrupt s e 3
      else if !(s.engine e).whole then askSource s b e
      else match headerCause s (s.engine e).record (Config.kilnParse (crCodec (s.engine e).record) ((s.engine e).bytesFrom 0)) with
        | some c => kilnCorrupt s e c
        | none => allocate s b e (Config.kilnParse (crCodec (s.engine e).record) ((s.engine e).bytesFrom 0)) := by
  rw [headerDone]
  simp only [hb]
  exact if_neg (not_not.mpr hst)

theorem sampleEnd_eq {e : Nat} {b : Batch} (hb : s.batch? (s.engine e).batch = some b) (hst : (s.engine e).st = .decode) :
    sampleEnd s e =
      if (s.engine e).failed then kilnCorrupt s e 3
      else if !(s.engine e).whole then askSource s b e
      else if slotStalled s b (s.engine e).slot then s
      else
        let par := slotParam s b (s.engine e).slot
        let cause := decodeCause (s.engine e) par.1.data (b.slot (s.engine e).slot).cand.isNone (kbFrames b.block)
        if cause = 0 then sampleDone par.2 b e par.1.data else kilnCorrupt par.2 e cause := by
  rw [sampleEnd]
  simp only [hb]
  exact if_neg (not_not.mpr hst)

theorem backfill_of_corrupt {id i : Nat} {b : Batch} (hb : s.batch? id = some b)
    (hi : (List.range b.slots.length).find? (fun i => !(b.slot i).final) = some i) (hst : (b.slot i).st = .corrupt)
    (hstall : slotStalled s b i = false) : backfill s id =
      if b.bfUsed < kbBackfills b.block then
        s.modBatch id (fun x => { x.setSlot i { b.slot i with st := .todo, cand := some x.bfUsed } with bfUsed := x.bfUsed + 1 })
      else ((writeSlot s b i 0xFFFFFFFF (fun _ => zeros (kbToken b.block))).bump 0x1A024 0 1).modBatch id
        (fun x => x.setSlot i { b.slot i with st := .padding, catalog := 0xFFFFFFFF }) := by
  rw [backfill, hb]
  simp only [hi]
  refine if_neg ?_
  rw [hst, hstall]
  decide

end

/-- Settles O30: each event of a batch by the branch of its function that the case's hypotheses name. -/
theorem kilnCommandsComplete : Obligations.KilnCommandsComplete := by
  refine ⟨?take, ?draining, ?absent, ?start, ?header, ?sample, ?backfill, ?delivered⟩
  case take =>
    intro s ctx q d b s1 hnext hvariant hstate hon hout hstall
    have htake := kilnTake_of_taken (ctx := ctx) (q := q) hvariant hstate hon hout hstall
    refine ⟨fun hcheck => ?_, fun i hcheck => ?_, fun hcheck => ?_⟩ <;>
    · rw [hcheck] at htake
      exact completes_of_exec (exec_kilnBatch hnext) htake
  case draining =>
    intro s ctx q d hnext hvariant hstate hbulk
    refine completes_of_exec (exec_kilnBatch hnext) ((if_neg ?_).trans (if_pos ⟨hstate, ?_⟩))
    · rw [hvariant]
      decide
    · rw [hbulk]
      rfl
  case absent =>
    intro s ctx q d hnext hvariant
    exact completes_of_exec (exec_kilnBatch hnext) (if_pos hvariant)
  case start =>
    intro s id b e i hb hturn hslot hfree s1 s2 x k hk r s3 hok hbad
    have hstart := (kilnNext_of_free hb hturn hslot hfree).trans (slotStart_of_record (s2 := s2) (t := x.2) (r := r.1) (u := r.2) rfl (Prod.ext hk rfl)
      Prod.mk.eta.symm hok hbad)
    refine ⟨fun hcause => ?_, fun c hcause => ?_⟩
    · refine completes_of_exec (congrArg Host.Outcome.next hstart) ?_
      simp only [show recordCause (State.setEngine r.2 e _) r.1.data = _ from hcause]
      rfl
    · refine completes_of_exec (congrArg Host.Outcome.next hstart) ?_
      simp only [show recordCause (State.setEngine r.2 e _) r.1.data = _ from hcause]
      rfl
  case header =>
    intro s e b hb hst
    have hdone := headerDone_eq hb hst
    refine ⟨fun hfailed => ?_, fun hfailed hwhole => ?_, fun hfailed hwhole => ⟨fun hcause => ?_, fun c hcause => ?_⟩⟩
    · exact completes_of_exec rfl (hdone.trans (if_pos hfailed))
    · refine completes_of_exec rfl (hdone.trans ((if_neg (Bool.eq_false_iff.mp hfailed)).trans (if_pos ?_)))
      rw [hwhole]
      rfl
    · rw [hcause, if_neg (Bool.eq_false_iff.mp hfailed), hwhole] at hdone
      exact completes_of_exec rfl hdone
    · rw [hcause, if_neg (Bool.eq_false_iff.mp hfailed), hwhole] at hdone
      exact completes_of_exec rfl hdone
  case sample =>
    intro s e b hb hst
    have hdone := sampleEnd_eq hb hst
    refine ⟨fun hfailed => ?_, fun hfailed hwhole => ?_, fun hfailed hwhole hstall => ?_⟩
    · exact completes_of_exec rfl (hdone.trans (if_pos hfailed))
    · refine completes_of_exec rfl (hdone.trans ((if_neg (Bool.eq_false_iff.mp hfailed)).trans (if_pos ?_)))
      rw [hwhole]
      rfl
    · rw [if_neg (Bool.eq_false_iff.mp hfailed), hwhole, if_neg (by decide), if_neg (Bool.eq_false_iff.mp hstall)] at hdone
      exact ⟨fun hcause => completes_of_exec rfl (hdone.trans (if_pos hcause)),
        fun hcause => completes_of_exec rfl (hdone.trans (if_neg hcause))⟩
  case backfill =>
    intro s id b i hb hi hst hstall
    have hassign := backfill_of_corrupt hb hi hst hstall
    exact ⟨fun hleft => completes_of_exec rfl (hassign.trans (if_pos hleft)),
      fun hleft => completes_of_exec rfl (hassign.trans (if_neg (Nat.not_lt.mpr hleft)))⟩
  case delivered =>
    intro s id b hb hfinal hfirst
    refine completes_of_exec (t := kilnDrained (palletDone s b)) ?_ rfl
    show execKilnPalletDelivered id s = _
    rw [execKilnPalletDelivered, hb]
    simp only [hfinal, hfirst]
    exact congrArg Host.Outcome.next (if_pos (by rw [Bool.true_and, beq_self_eq_true]))

end Sys2Proof.Machine

/-! SUPPORT. The Arkel links (R279 to R293). -/

namespace Sys2Proof.Machine

theorem Kept.port_eq {ps : List Part} {s t : State} (h : Kept ps s t) (hp : ps.contains .links = false) (p : Nat) :
    t.port p = s.port p := congrArg (fun l : Links => tget Port.reset l.ports p) (h.unchanged .links hp)

section

variable {s : State} {p f : Nat} {b : List Byte} {fec : List (List (Nat × Nat))}

/-! ### Flits (R278, R281) -/

/-- R278: counting corrected symbols leaves all of the port but its counts. -/
theorem port_fecCount : ∃ es, (fecCount s p f fec).port p = { s.port p with symErrs := es } := by
  rw [fecCount, State.port_setPort_same, State.port_bump, State.port_bump]
  exact ⟨_, rfl⟩

theorem flitArrives_of_up (hphase : (s.port p).phase = .up) (hon : (s.port p).fibreOn 1 f = true) :
    flitArrives s p f b fec =
      fecLanes (flitIn (fecCount s p f fec) p f b (crc32c (b.take 268) == fld b 268 4 && !fec.any uncorrectable)) p f := by
  rw [flitArrives]
  simp only [hphase, hon]
  rfl

theorem flitIn_of_good (hphase : (s.port p).phase = .up) (hon : (s.port p).fibreOn 1 f = true)
    (hswap : (s.port p).swapping.contains (1, f) = false) (hseq : fld b 2 2 = (s.port p).rxSeq) : flitIn s p f b true =
      (let x := { s.port p with failRun := (s.port p).failRun.set f 0, rxSeq := ((s.port p).rxSeq + 1) % 65536 }
       let s1 := flitHeader (s.setPort p x) p b
       idleAfter (if fldBits b 0 1 0 4 = 1 then payloadIn s1 p b else s1) p (s.port p).wire.length) := by
  rw [flitIn]
  refine (if_neg ?_).trans (if_neg ?_)
  · rw [hphase, hon, hswap]
    decide
  · rw [hseq, bne_self_eq_false]
    decide

theorem flitIn_of_bad {good : Bool} {run : Nat} (hphase : (s.port p).phase = .up) (hon : (s.port p).fibreOn 1 f = true)
    (hswap : (s.port p).swapping.contains (1, f) = false) (hrun : run = (s.port p).failRun.getD f 0 + b2n (!good))
    (hlt : run < 16) (hbad : good = false ∨ fld b 2 2 ≠ (s.port p).rxSeq) : flitIn s p f b good =
      idleAfter ((s.setPort p { s.port p with failRun := (s.port p).failRun.set f run, nakDue := true }).bump 0x1B020 p 1) p
        (s.port p).wire.length := by
  have hrun' : (if good = true then (s.port p).failRun.getD f 0 else (s.port p).failRun.getD f 0 + 1) = run := by
    rw [hrun]
    cases good <;> rfl
  rw [flitIn]
  simp only [hrun']
  refine (if_neg ?_).trans ((if_pos ?_).trans (if_neg (Nat.not_le.mpr hlt)))
  · rw [hphase, hon, hswap]
    decide
  · simpa only [Bool.or_eq_true, Bool.not_eq_true', bne_iff_ne] using hbad

/-! ### Messages (R280, R288, R293) -/

theorem onMsg_of_found {op : Nat} {ready : RxMsg → Bool} {m : RxMsg} (hm : s.inMsg p (fun m => msgOp m.bytes == op && ready m) = some m)
    (k : State → RxMsg → State) : onMsg s p op ready k = k (s.consume p m) m := by
  rw [onMsg, hm]

theorem inMsg_of_msgAt {op : Nat} {m : RxMsg} (h : msgAt s p op m) : s.inMsg p (fun m => msgOp m.bytes == op && true) = some m := by
  simp only [Bool.and_true]
  exact h

theorem writeMsg_of_live {m : RxMsg} (hlive : (s.ctx (msgCtx m.bytes)).live = true) : writeMsg p s m =
    (requests (msgAddr m.bytes) (msgAddr m.bytes) (msgLen m.bytes)).foldl (fun s q =>
      let w := agentWrite s (msgCtx m.bytes) (msgAddr m.bytes + q.1) (slice (msgData m.bytes) q.1 q.2) [] (unitEnd p)
      if w.1 then collLanded w.2 (msgCtx m.bytes) (msgAddr m.bytes + q.1) q.2 else w.2) s := by
  rw [writeMsg, hlive]
  exact if_neg (by decide)

theorem readMsg_of_live {m : RxMsg} (hversion : (s.port p).version = 2) (hlive : (s.ctx (msgCtx m.bytes)).live = true)
    (hok : (agentReadAll s (msgCtx m.bytes) (msgAddr m.bytes) (msgLen m.bytes) (unitEnd p)).1.ok = true) : readMsg p s m =
      (let r := agentReadAll s (msgCtx m.bytes) (msgAddr m.bytes) (msgLen m.bytes) (unitEnd p)
       sendBack r.2 m (msgHeader 3 (if r.1.bad.isEmpty then 0 else 2) (msgCtx m.bytes) (msgTag m.bytes)
         (msgAddr m.bytes) r.1.data.length r.2.coord ++ r.1.data)) := by
  rw [readMsg, hversion, hlive]
  simp only [hok]
  exact (if_neg (by decide)).trans ((if_neg (by decide)).trans (if_neg (by decide)))

theorem responseMsg_of_done {m : RxMsg} {i : Issued} {e : Nat} (hfind : s.links.issued.find? (fun i =>
      i.engine.isSome && i.tag == msgTag m.bytes && i.ctx == msgCtx m.bytes) = some i) (hengine : i.engine = some e)
    (hstatus : msgStatus m.bytes = 0) : responseMsg p s m =
      (State.progressAll { s with links := { s.links with issued := dropEq i s.links.issued } } (engineReq s e)
        [(resPort p true, 256 * ceilDiv m.bytes.length 256)]).engineLand e i.ofs (msgData m.bytes) := by
  rw [responseMsg, hfind]
  simp only [hengine]
  exact if_pos hstatus

theorem noticeMsg_of_signal {m : RxMsg} {i : Issued} (hfind : s.links.issued.find? (fun i => i.tag == msgTag m.bytes &&
      i.ctx == msgCtx m.bytes && (i.engine.isSome || i.rjoint == msgAddr m.bytes % 2 ^ 14)) = some i)
    (hengine : i.engine = none) : noticeMsg s m =
      (let s1 := { s with links := { s.links with issued := dropEq i s.links.issued } }
       signalFailed (if msgStatus m.bytes = 1 ∨ wayOf s1 m (s1.signalEntry i.entry) = false then s1
         else s1.markDown (s1.signalEntry i.entry)) i) := by
  rw [noticeMsg, hfind]
  simp only [hengine, Option.isNone_none, if_true, Bool.or_eq_true, decide_eq_true_eq, Bool.not_eq_true']

/-! ### Bring-up (R287 to R289) -/

/-- R281: sending touches the wire of a port and its turn of fibres alone. -/
theorem Port.send_eq (x : Port) (fs : List (List Byte)) : ∃ w n, x.send fs = { x with wire := w, txFlit := n } := by
  induction fs generalizing x with
  | nil => exact ⟨_, _, rfl⟩
  | cons f fs ih =>
    obtain ⟨w, n, h⟩ := ih { x with wire := x.wire ++ [(nthFibre x.txFibres x.txFlit, f)], txFlit := x.txFlit + 1 }
    exact ⟨w, n, h⟩

/-- R287 E2, E3: with every lane good, all fibres lock with their spares free. -/
theorem lanesTrained_of_good (hp : p < 8) (hphase : (s.port p).phase = .lanes) (hbad : ∀ d f, badLanes s p [] d f = []) :
    ∃ y : Port, lanesTrained s p [] = pointSpares (s.setPort p y) p (s.port p) ∧ y.phase = .fec ∧ y.txFibres = 15 ∧
      y.rxFibres = 15 ∧ y.spareTx = [15, 15, 15, 15] ∧ y.spareRx = [15, 15, 15, 15] := by
  have hplace : ∀ d, (List.range (portFibres p)).map (fun f => placeSpare (badLanes s p [] d f)) =
      [some 15, some 15, some 15, some 15] := fun d => by
    rw [portFibres, if_neg (by omega)]
    simp only [hbad]
    rfl
  rw [lanesTrained]
  simp only [hplace]
  refine ⟨_, (if_neg (not_not.mpr hphase)).trans ((if_neg (by decide)).trans (if_neg (Nat.not_le.mpr hp))), ?_⟩
  obtain ⟨w, n, hsend⟩ := Port.send_eq _ _
  rw [hsend]
  exact ⟨rfl, rfl, rfl, rfl, rfl⟩

theorem controlHeard_of_fit {coord code : Nat} (hfibres : (s.port p).rxFibres = 15) (hcode : code < 8) (hcoord : coord < 2 ^ 24) :
    controlHeard s p coord code 15 = s.setPort p { s.port p with coord := coord, code := code } := by
  rw [controlHeard, Nat.mod_eq_of_lt hcoord, Nat.mod_eq_of_lt hcode, hfibres,
    show (15 : BitVec 4) &&& BitVec.ofNat 4 15 = 15 from rfl, ← hfibres]

/-! ### Lanes (R290, R291) -/

theorem laneFail_of_spare {dir lane : Nat} (hp : p < 8) (hphase : (s.port p).phase = .up) (hon : (s.port p).fibreOn dir f = true)
    (hlane : lane < 8) (hspare : (s.port p).spare dir f = 15) (hswap : (s.port p).swapping.contains (dir, f) = false) :
    laneFail s p dir f lane =
      (let y := (s.port p).setSpare dir f lane
       recheckPort ((pointSpares ((laneNote s p dir f lane).setPort p { y with swapping := y.swapping ++ [(dir, f)] }) p
         (s.port p)).bump 0x1B028 p 1) p dir (if (s.port p).version = 1 then 37500 else 2500)) := by
  rw [laneFail]
  simp only [hphase, hon, hspare, hswap, if_pos hp]
  refine (if_neg (by decide)).trans ((if_neg (by omega)).trans ((if_neg (by omega)).trans (if_neg (by decide))))

theorem fibreRejoin_of_good {dir v : Nat} (hplace : placeSpare (badLanes s p [] dir f) = some v) (hphase : (s.port p).phase = .up)
    (hversion : (s.port p).version = 2) (hoff : (s.port p).fibreOn dir f = false) : fibreRejoin s p dir f =
      pointSpares (s.setPort p ((Port.setFibres { s.port p with failRun := (s.port p).failRun.set f 0 } dir
        ((s.port p).fibres dir ||| (1#4 <<< f))).setSpare dir f v)) p (s.port p) := by
  rw [fibreRejoin, hplace]
  refine if_pos ?_
  rw [hphase, hversion, hoff]
  rfl

end

/-- Settles O31: each event of a link by the branch of its function that the case's hypotheses name. -/
theorem arkelEventsComplete : Obligations.ArkelEventsComplete := by
  refine ⟨?flit, ?replay, ?write, ?read, ?response, ?notice, ?light, ?trained, ?control, ?retry, ?laneFail, ?swapDone, ?down, ?rejoin⟩
  case flit =>
    intro s p f b fec hphase hon hswap s0 good
    obtain ⟨es, hport⟩ : ∃ es, s0.port p = { s.port p with symErrs := es } := port_fecCount
    have hphase' : (s0.port p).phase = .up := by rw [hport]; exact hphase
    have hon' : (s0.port p).fibreOn 1 f = true := by rw [hport]; exact hon
    have hswap' : (s0.port p).swapping.contains (1, f) = false := by rw [hport]; exact hswap
    have harrives := flitArrives_of_up (b := b) (fec := fec) hphase hon
    refine ⟨fun hgood hseq => ?_, fun run hrun hlt hbad => ?_⟩
    · have hin := flitIn_of_good (b := b) hphase' hon' hswap' (by rw [hport]; exact hseq)
      refine completes_of_exec rfl (harrives.trans (congrArg (fecLanes · p f) ?_))
      refine (congrArg (flitIn s0 p f b) hgood).trans (hin.trans ?_)
      rw [hport]
    · have hin := flitIn_of_bad (b := b) hphase' hon' hswap' (by rw [hport]; exact hrun) hlt (by rw [hport]; exact hbad)
      refine completes_of_exec rfl (harrives.trans (congrArg (fecLanes · p f) (hin.trans ?_)))
      rw [hport]
  case replay =>
    intro s p hup hreplay hdue
    refine completes_of_exec (congrArg Host.Outcome.next (if_pos ?_)) rfl
    rw [hup, decide_eq_true hdue]
    simp only [Bool.true_and, Bool.and_true, Bool.not_eq_true', List.isEmpty_eq_false_iff]
    exact hreplay
  case write =>
    intro s p m hm hlive a c
    exact completes_of_exec (congrArg Host.Outcome.next (onMsg_of_found hm _)) (writeMsg_of_live hlive)
  case read =>
    intro s p m hm hversion hlive r hok
    exact completes_of_exec (congrArg Host.Outcome.next (onMsg_of_found hm _)) (readMsg_of_live hversion hlive hok)
  case response =>
    intro s p m i e hm hstatus hfind hengine
    exact completes_of_exec (congrArg Host.Outcome.next (onMsg_of_found (inMsg_of_msgAt hm) _))
      (responseMsg_of_done hfind hengine hstatus)
  case notice =>
    intro s p m i hm hengine hfind
    exact completes_of_exec (congrArg Host.Outcome.next (onMsg_of_found (inMsg_of_msgAt hm) _)) (noticeMsg_of_signal hfind hengine)
  case light =>
    intro s p hen hphase
    refine completes_of_exec (congrArg Host.Outcome.next (if_pos ?_)) rfl
    rw [hen, hphase]
    decide
  case trained =>
    intro s p hp hphase hbad
    obtain ⟨y, hdone, hfec, htx, hrx, hspareTx, hspareRx⟩ := lanesTrained_of_good hp hphase hbad
    have hport : (lanesTrained s p []).port p = y := by
      rw [hdone, (pointSpares_kept ..).port_eq rfl, State.port_setPort_same]
    refine completes_of_exec rfl ?_
    rw [hport]
    exact ⟨hfec, htx, hrx, hspareTx, hspareRx, (lanesTrained_kept ..).same⟩
  case control =>
    intro s p coord code hphase hfibres hcode hp hcoord
    have hlt : code < 8 := by
      rw [hcode]
      exact Nat.xor_lt_two_pow (n := 3) hp (by decide)
    have hfib : (s.port p).rxFibres &&& BitVec.ofNat 4 15 ≠ 0 := by
      rw [hfibres]
      decide
    have hrun := linkControl_of_versions_meet (verMin := 1) (verMax := 2) (coord := coord) (code := code) hphase (by decide) hfib
    rw [if_neg (by rw [Nat.mod_eq_of_lt hlt, hcode]; simp only [ne_eq, not_true, decide_false, Bool.false_and, Bool.false_eq_true, not_false_eq_true]),
      controlHeard_of_fit hfibres hlt hcoord] at hrun
    refine completes_of_exec rfl ⟨hrun, ?_⟩
    have hup := bringUp_linkUp (s.setPort p { s.port p with coord := coord, code := code }) p 2
    replace hup := (congrArg (fun t => (State.port t p).bringUp) hrun).trans hup
    simp only [Port.bringUp, Prod.mk.injEq] at hup
    exact ⟨hup.1, hup.2.2.1⟩
  case retry =>
    intro s p hphase hen hauto
    refine completes_of_exec (congrArg Host.Outcome.next (if_pos ?_)) rfl
    rw [hphase, hen, hauto]
    decide
  case laneFail =>
    intro s p dir f lane hp hphase hon hlane hspare hswap
    exact completes_of_exec rfl (laneFail_of_spare hp hphase hon hlane hspare hswap)
  case swapDone => exact fun s p dir f => completes_of_exec rfl rfl
  case down =>
    intro s p dir hup hfibres
    refine completes_of_exec (congrArg Host.Outcome.next (if_pos ?_)) rfl
    rw [hup, hfibres]
    decide
  case rejoin =>
    intro s p dir f v hstage hplace hphase hversion hoff
    refine completes_of_exec (congrArg Host.Outcome.next (if_neg (Nat.not_le.mpr hstage))) ?_
    exact fibreRejoin_of_good hplace hphase hversion hoff

end Sys2Proof.Machine

/-! SUPPORT. The time exchange (R296, R297), the laser supply (R298) and a removal (R353). -/

namespace Sys2Proof.Machine

section

variable {s : State} {p : Nat}

/-- R296: following another port changes no more than the parent and what is slewed. -/
theorem reparent_eq (s : State) : ∃ par w, reparent s =
    { s with links := { s.links with parent := par }, time := { s.time with slewLeft := w } } := by
  rw [reparent]
  split
  · exact ⟨s.links.parent, s.time.slewLeft, rfl⟩
  · exact ⟨_, _, rfl⟩

theorem timeExchange_of_up {root : Nat} {ofs : Int} {hops : Nat} {s1 : State} (hup : s.portUp p = true)
    (hs1 : s1 = reparent (s.setPort p { s.port p with
      exchanged := true, offsetPs := ofs, rootAhead := root - s.now, rootHops := hops,
      timeSplit := s.links.startedCtx && decide (1000000 < (root - s.now : Int)) })) : timeExchange s p root ofs hops =
    (let s2 := if s1.links.parent ≠ some p then s1
       else if !s.links.acquired && !s.links.startedCtx then acquireTime s1 ofs
       else { s1 with time := { s1.time with slewLeft := ofs } }
     { s2 with links := { s2.links with acquired := true } }) := by
  have hlinks : ∀ y, (reparent (s.setPort p y)).links.acquired = s.links.acquired ∧
      (reparent (s.setPort p y)).links.startedCtx = s.links.startedCtx := fun y => by
    obtain ⟨par, w, h⟩ := reparent_eq (s.setPort p y)
    rw [h]
    exact ⟨rfl, rfl⟩
  simp only [timeExchange, hup, hs1, (hlinks _).1, (hlinks _).2]
  exact if_neg (by decide)

/-! ### The laser supply (R298) -/

/-- R298: a wavelength that either input supplies is not dark. -/
theorem darkLanes_of_supplied (h : s.links.ls0 ||| s.links.ls1 = 0x1FF) : s.darkLanes = [] := by
  rw [State.darkLanes, List.filter_eq_nil_iff]
  intro l hl
  have hbit : (s.links.ls0 ||| s.links.ls1).getLsbD l = true := by
    rw [h]
    have hrange := List.mem_range.mp hl
    interval_cases l <;> rfl
  rw [BitVec.getLsbD_or, Bool.or_eq_true] at hbit
  rcases hbit with hbit | hbit <;> simp only [hbit, Bool.not_true, Bool.and_false, Bool.false_and, Bool.false_eq_true,
    not_false_eq_true]

/-- R298: the state once input 0 has lost wavelengths. -/
def State.dimmed (s : State) (l : BitVec 9) (mm : Bool) : State :=
  { s with links := { s.links with ls0 := s.links.ls0 &&& ~~~l, ls0mm := s.links.ls0mm && !mm } }

theorem supplyLoss_eq {l : BitVec 9} {mm : Bool} (hl : l ≠ 0) : supplyLoss s 0 l mm =
    (let t := (s.dimmed l mm).orReg 0x1B038 0 0x100000
     let lost := (s.dimmed l mm).darkLanes.filter (fun l => !s.darkLanes.contains l)
     if (s.dimmed l mm).links.ls0 = 0 && (s.dimmed l mm).links.ls1 = 0 then
       (List.range 9).foldl (fun s p => if s.portUp p then portDown s p .off 0 else s) t
     else (List.range 9).foldl (fun s p => (List.range (portFibres p)).foldl (fun s f =>
       lost.foldl (fun s l => laneFail s p 0 f l) s) s) t) := by
  have hlinks : ((s.dimmed l mm).orReg 0x1B038 0 0x100000).links = (s.dimmed l mm).links := State.setReg_links ..
  have hdark : ((s.dimmed l mm).orReg 0x1B038 0 0x100000).darkLanes = (s.dimmed l mm).darkLanes := by
    rw [State.darkLanes, State.darkLanes, hlinks]
  have hmarked : (if l = 0 && !mm then s.dimmed l mm else (s.dimmed l mm).orReg 0x1B038 0 0x100000) =
      (s.dimmed l mm).orReg 0x1B038 0 0x100000 := if_neg (by rw [decide_eq_false hl, Bool.false_and]; exact Bool.false_ne_true)
  rw [supplyLoss]
  show (let t := if l = 0 && !mm then s.dimmed l mm else (s.dimmed l mm).orReg 0x1B038 0 0x100000
    let lost := t.darkLanes.filter (fun l => !s.darkLanes.contains l)
    if t.links.ls0 = 0 && t.links.ls1 = 0 then
      (List.range 9).foldl (fun s p => if s.portUp p then portDown s p .off 0 else s) t
    else (List.range 9).foldl (fun s p => (List.range (portFibres p)).foldl (fun s f =>
      lost.foldl (fun s l => laneFail s p 0 f l) s) s) t) = _
  simp only [hmarked, hdark, hlinks]

/-! ### Removal (R353) -/

theorem foldl_fixed_of_mem {α β : Type} {g : α → β → α} {a : α} {l : List β} (h : ∀ b ∈ l, g a b = a) : l.foldl g a = a := by
  induction l with
  | nil => rfl
  | cons b l ih =>
    rw [List.foldl_cons, h b List.mem_cons_self]
    exact ih (fun c hc => h c (List.mem_cons_of_mem b hc))

end

/-- Settles O32: the time exchange by what the module follows, the laser supply by what is left of it, and a removal port by
port. -/
theorem moduleEventsComplete : Obligations.ModuleEventsComplete := by
  refine ⟨?send, ?exchange, ?dark, ?supplied, ?light, ?removal⟩
  case send =>
    intro s p hup hwindow
    refine completes_of_exec (congrArg Host.Outcome.next (if_pos ?_)) rfl
    rw [hup, hwindow]
    rfl
  case exchange =>
    intro s p v ofs hops hup ahead y s1
    have hnow : s1.now = s.now := by
      obtain ⟨par, w, h⟩ := reparent_eq (s.setPort p y)
      rw [show s1 = _ from h]
      rfl
    have hrun := timeExchange_of_up (s1 := s1) (root := v.toNat) (ofs := ofs) (hops := hops) hup rfl
    refine ⟨fun hother => ?_, fun hparent hfresh hidle => ?_, fun hparent hset => ?_⟩
    · rw [if_pos hother] at hrun
      exact completes_of_exec (congrArg Host.Outcome.next hrun) rfl
    · rw [if_neg (not_not.mpr hparent), hfresh, hidle] at hrun
      refine completes_of_exec (congrArg Host.Outcome.next hrun) ⟨rfl, ?_⟩
      show (s1.now + (ofs / 1000).toNat) % 2 ^ 64 = _
      rw [hnow]
    · rw [if_neg (not_not.mpr hparent), if_neg ?started] at hrun
      case started =>
        rcases hset with h | h <;> rw [h] <;> simp only [Bool.not_true, Bool.and_false, Bool.false_and, Bool.false_eq_true,
          not_false_eq_true]
      exact completes_of_exec (congrArg Host.Outcome.next hrun) rfl
  case dark =>
    intro s l mm hl h0 h1
    refine completes_of_exec (congrArg Host.Outcome.next (supplyLoss_eq hl)) (if_pos ?_)
    rw [show (s.dimmed l mm).links.ls0 = 0 from h0, show (s.dimmed l mm).links.ls1 = 0 from h1]
    rfl
  case supplied =>
    intro s l mm hl hall h1
    refine completes_of_exec (congrArg Host.Outcome.next (supplyLoss_eq hl)) ((if_neg ?_).trans ?_)
    · rw [decide_eq_false (show ¬ (s.dimmed l mm).links.ls1 = 0 from h1), Bool.and_false]
      exact Bool.false_ne_true
    · rw [darkLanes_of_supplied (s := s.dimmed l mm) hall]
      exact foldl_fixed_of_mem (fun p _ => foldl_fixed_of_mem (fun f _ => rfl))
  case light => exact fun s l mm => ⟨completes_of_exec rfl rfl, completes_of_exec rfl rfl⟩
  case removal =>
    intro s held s1
    refine ⟨completes_of_exec rfl rfl, fun hall => completes_of_exec rfl (foldl_fixed_of_mem (fun p hp => ?_))⟩
    exact if_pos (hall p (List.mem_range.mp hp))

end Sys2Proof.Machine

/-! SUPPORT. Collectives are taken and begin (R303 to R306). -/

namespace Sys2Proof.Machine

section

variable {s : State} {ctx q g : Nat} {d : Desc} {c : Coll}

theorem Kept.group_eq {ps : List Part} {s t : State} (h : Kept ps s t) (hp : ps.contains .groups = false) (c g : Nat) :
    t.group c g = s.group c g := congrArg (fun l => tget Group.reset l (c * 16 + g)) (h.unchanged .groups hp)

theorem collTake_of_next {op : Nat} (hd : s.nextOf ctx q 5 = some d) (hop : cdOp d.bytes = op)
    (hst : collStalled s ctx d.bytes = false) :
    collTake s ctx q op =
      collNext (s.modDesc ctx q d.abs (fun d => { d with phase := .waiting })) ctx (cdGroup d.bytes) := by
  rw [collTake, hd, ← hop]
  exact if_neg (by simp [hst])

theorem collRow_of_exec {i : Nat → Nat → Instr} {op : Nat}
    (hexec : ∀ s ctx q, exec (i ctx q) s = .next (collTake s ctx q op)) : collRow i op := by
  intro s ctx q d hd hop hst
  exact completes_of_exec (hexec s ctx q) (collTake_of_next hd hop hst)

theorem collNext_of_free (hfree : s.coll? ctx g = none) (hd : firstColl (waitingColls s ctx g) = some (q, d)) :
    collNext s ctx g = collKick (waitingColls s ctx g).length (collStart s ctx q d) ctx g := by
  rw [collNext, collKick, hfree, if_neg (by decide), hd]

theorem collNext_of_busy (hbusy : s.coll? ctx g = some c) : collNext s ctx g = s := by
  rw [collNext, collKick, hbusy]
  rfl

theorem collStart_of_fault {st : Nat} (h : collFault (s.startDesc ctx q d.abs) ctx d.bytes = some st) :
    collStart s ctx q d = finishDesc (s.startDesc ctx q d.abs) ctx q d.abs st 0 := by
  rw [collStart, h]

theorem State.progressAll_nil (s : State) (treq : Option Nat) : s.progressAll treq [] = s := by
  cases treq <;> rfl

/-- R303: the collective that a descriptor other than PERMUTE begins, in its group's turn. -/
def begunColl (s : State) (ctx q : Nat) (d : Desc) : Coll where
  ctx := ctx
  group := cdGroup d.bytes
  ring := q
  abs := d.abs
  bytes := d.bytes
  phase := .setup
  seq := (s.group ctx (cdGroup d.bytes)).seq.toNat
  startedAt := s.now
  seen := []
  own := false
  total := 0
  heads := []
  headLeft := 0
  sums := []
  left := 0
  counts := []
  stats := []
  mismatch := false
  round := 0
  rounds := 0
  lapBack := false
  lapSeen := 0
  missing := []
  wire := []
  wrote := false
  keepLeft := 0
  keepBad := false
  kvUser := none

theorem collStart_of_begun {s1 : State} {u : Option Nat × State} {c : Coll} {g : Group} (hs1 : s1 = s.startDesc ctx q d.abs)
    (hf : collFault s1 ctx d.bytes = none) (hop : cdOp d.bytes ≠ 5)
    (hu : u = kvUse s1 (collOverPool s1 (begunColl s1 ctx q d)))
    (hc : c = { begunColl s1 ctx q d with kvUser := u.1 }) (hg : g = s1.group ctx (cdGroup d.bytes)) :
    collStart s ctx q d =
      (let t := u.2.setGroup ctx (cdGroup d.bytes) { g with seq := g.seq + 1 }
       collLaunch { t with colls := t.colls ++ [c] } c) := by
  subst hg hc hu hs1
  rw [collStart, hf]
  simp only [if_neg hop, breakForWords, State.progressAll_nil, decide_eq_false hop]
  rfl

theorem collLaunch_of_sent {r : Sent × State} (hop : c.op ≠ 7) (hup : (collPorts s c.ctx c.bytes).all s.portUp = true)
    (hr : r = collSend s c.ctx c.group ((s.collGroup c).port true) (s.collCls c) 0
      (collSub s c 1 (s.collGroup c).rank c.first (cdShard c.bytes) (if c.reduces then cdContrib c.bytes else 0))
      (setupData c.bytes (s.collGroup c).rank false c.rounds))
    (hsent : r.1 = .sent) : collLaunch s c = r.2 := by
  rw [collLaunch, if_neg hop, hup, if_neg (by decide), ← hr]
  exact if_pos hsent

theorem collLaunch_of_land (hop : c.op = 7) (hn : cdShard c.bytes ≠ 0) :
    collLaunch s c = s.setColl { c with phase := .land, missing := [(cdDst c.bytes, 32 * cdShard c.bytes)] } := by
  rw [collLaunch, if_pos hop, if_neg hn]

end

/-- Settles O33: each row is `collTake` on its operation; a start keeps its group but for the sequence number, which rises by one. -/
theorem collectiveCommandsComplete : Obligations.CollectiveCommandsComplete := by
  refine ⟨collRow_of_exec fun _ _ _ => rfl, collRow_of_exec fun _ _ _ => rfl, collRow_of_exec fun _ _ _ => rfl,
    collRow_of_exec fun _ _ _ => rfl, collRow_of_exec fun _ _ _ => rfl, collRow_of_exec fun _ _ _ => rfl,
    collRow_of_exec fun _ _ _ => rfl, fun s ctx g q d hfree hd => collNext_of_free hfree hd,
    fun s ctx g c h => collNext_of_busy h, fun s ctx q d st h => collStart_of_fault h,
    fun s ctx q d hf hop => ?_, fun s c hop hup => collLaunch_of_sent hop hup rfl,
    fun s c hop hn => collLaunch_of_land hop hn⟩
  have hs1 : Kept [.ctxs] s (s.startDesc ctx q d.abs) := State.startDesc_kept ..
  have hu := kvUse_kept (s.startDesc ctx q d.abs)
    (collOverPool (s.startDesc ctx q d.abs) (begunColl (s.startDesc ctx q d.abs) ctx q d))
  refine ⟨_, _, collStart_of_begun rfl hf hop rfl rfl rfl, rfl, rfl, rfl, rfl, rfl, rfl, ?now, rfl, rfl, ?seq, ?mem, ?rise⟩
  case now => exact congrArg (fun x => x.devTime) (hs1.unchanged .time rfl)
  case seq => exact congrArg (fun g : Group => g.seq.toNat) (hs1.group_eq rfl ..)
  case mem => exact List.mem_append_right _ (List.mem_singleton.2 rfl)
  case rise =>
    rw [← hs1.group_eq rfl ctx (cdGroup d.bytes)]
    exact congrArg Group.seq (State.group_setGroup_same ..)

end Sys2Proof.Machine

/-! SUPPORT. Messages of collectives (R304, R310 to R324). -/

namespace Sys2Proof.Machine

section

variable {s : State} {p : Nat} {m : RxMsg} {c : Coll}

theorem onColl_of_takes {kind : Nat} {ok : State → RxMsg → Bool} {k : State → RxMsg → State}
    (h : collTakes s p kind (ok s) m) : onColl s p kind ok k = k (collTaken s p m) m := by
  rw [onColl, h]

theorem onPhase_of_at {kind : Nat} {ps : List CollPhase} {k : State → RxMsg → Coll → State} (h : collAt s p kind ps m c) :
    onPhase s p kind ps k = k (collTaken s p m) m c := by
  obtain ⟨htakes, hof⟩ := h
  rw [onPhase, onColl_of_takes htakes, hof]

/-! ### The setup lap (R304) -/

theorem execCollSetupMsg_of_takes
    (hm : collTakes s p 1 (fun m => (setupOf s m.bytes).isSome || collStale s m.bytes) m)
    (hc : setupOf (collTaken s p m) m.bytes = some c) :
    execCollSetupMsg p s = .next (setupPass (collTaken s p m) p m c) := by
  refine congrArg Host.Outcome.next ((onColl_of_takes hm).trans ?_)
  rw [hc]

/-- R304: a mark of a member before, or a member left out, is a mismatch. -/
def setupMarked (g : Group) (d : List Byte) : Bool := fld d 49 1 != 0 || fld d 48 1 != nextRank g.len g.rank false

theorem setupPass_of_origin (ho : subOrigin m.bytes = (s.collGroup c).rank) (hphase : c.phase = .setup)
    (hseq : c.seq = subSeq m.bytes) (hop : c.op = subOp m.bytes) :
    setupPass s p m c = setupBack s c m.bytes (setupMarked (s.collGroup c) (collData m.bytes)) := by
  rw [setupPass, if_pos ho, if_pos (by simp [hphase, hseq, hop])]
  rfl

theorem setupPass_of_other (ho : subOrigin m.bytes ≠ (s.collGroup c).rank) (hphase : c.phase = .setup) :
    setupPass s p m c =
      (let d := collData m.bytes
       let wrong := setupMarked (s.collGroup c) d || compared (zeros 16 ++ slice d 0 48) != compared c.bytes ||
         subSeq m.bytes != c.seq
       let total := subTotal m.bytes + (if c.reduces then cdContrib c.bytes else 0)
       collForward (s.setColl { c with seen := subOrigin m.bytes :: c.seen }) p m (subOrigin m.bytes) total
         (slice d 0 48 ++ leBytes 1 (s.collGroup c).rank ++ leBytes 1 (b2n wrong) ++
           leBytes 1 (max (fld d 50 1) c.rounds))) := by
  rw [setupPass, if_neg ho]
  simp only [hphase, decide_false, Bool.false_and, reduceCtorEq, Bool.false_eq_true, if_false]
  rfl

section

variable {b : List Byte} {c1 : Coll} (hc1 : c1 = { c with own := true, total := subTotal b, rounds := fld (collData b) 50 1 })
include hc1

theorem setupBack_of_wrong : setupBack s c b true = collEnd (s.setColl c1) c1 2 := by
  subst hc1
  rfl

theorem setupBack_of_many (hred : c.reduces = true) (hn : 4096 < subTotal b) :
    setupBack s c b false = collEnd (s.setColl c1) c1 3 := by
  subst hc1
  rw [setupBack, if_neg Bool.false_ne_true]
  exact if_pos (Bool.and_eq_true_iff.2 ⟨hred, decide_eq_true hn⟩)

theorem setupBack_of_plain (hred : c.reduces = false) : setupBack s c b false = collBegin (s.setColl c1) c1 := by
  subst hc1
  rw [setupBack, if_neg Bool.false_ne_true]
  exact if_neg fun h => absurd (hred.symm.trans (Bool.and_eq_true_iff.1 h).1) (by decide)

end

theorem execCollSetupTimeout_of_late {ctx g : Nat} (hc : s.coll? ctx g = some c) (hphase : c.phase = .setup)
    (hlate : c.startedAt + s.collTimeout ≤ s.now) : execCollSetupTimeout ctx g s = .next (collEnd s c 4) := by
  rw [execCollSetupTimeout, hc]
  exact congrArg Host.Outcome.next (if_pos (by simp [hphase, hlate]))

theorem execCollAbortMsg_of_takes (hm : collTakes s p 9 (fun _ => true) m)
    (hc : collOf (collTaken s p m) m.bytes = some c) (hg : axisGroup (collTaken s p m) m.bytes = none)
    (hphase : c.phase ≠ .ended) : execCollAbortMsg p s = .next (collEnd (collTaken s p m) c 5) := by
  refine congrArg Host.Outcome.next ((onColl_of_takes (ok := fun _ _ => true) hm).trans ?_)
  rw [abortPass, hg]
  simp only [hc]
  exact if_neg hphase

/-! ### The passes of the operations -/

theorem mantissaPass_of_other {own : List (List Int)} {first : Nat} {u : Nat × List (List Int)}
    {o : Option (List (List Int)) × State} (hfirst : first = subFirst m.bytes - c.first)
    (hu : u = unpackBlocks c (collData m.bytes)) (ho : o = ownSums s c first u.2.length)
    (hshard : first / max 1 c.shard ≠ (s.collGroup c).rank) (hown : o.1 = some own) :
    mantissaPass s p m c = collForward o.2 p m (s.collGroup c).rank 0
      (packBlocks c first (u.1 + cdContrib c.bytes) (List.zipWith addInts u.2 own)) := by
  subst hfirst hu ho
  rw [mantissaPass]
  simp only [hown]
  exact if_pos hshard

/-- R321: the messages that a bucket row may take. -/
abbrev bucketOk (s : State) (m : RxMsg) : Bool :=
  collStale s m.bytes || (match axisGroup s m.bytes with
    | some g => subTotal m.bytes != (s.group (msgCtx m.bytes) g).rank
    | none => false) || (match collOf s m.bytes with | some c => c.phase == .buckets | none => false)

theorem execCollBucketMsg_of_takes (hm : collTakes s p 6 (bucketOk s) m) :
    execCollBucketMsg p s = .next (bucketPass (collTaken s p m) p m) :=
  congrArg Host.Outcome.next (onColl_of_takes (ok := bucketOk) (k := fun s m => bucketPass s p m) hm)

theorem bucketPass_of_other {g : Nat} (hg : axisGroup s m.bytes = some g)
    (hrank : subTotal m.bytes ≠ (s.group (msgCtx m.bytes) g).rank) :
    bucketPass s p m = collForward s p m (subOrigin m.bytes) (subTotal m.bytes) (collData m.bytes) := by
  rw [bucketPass, hg]
  exact if_pos hrank

theorem bucketPass_of_own {g : Nat} {r : Bool × State} (hg : axisGroup s m.bytes = some g)
    (hrank : subTotal m.bytes = (s.group (msgCtx m.bytes) g).rank) (hc : collOf s m.bytes = some c)
    (hr : r = landBucket s c (subOrigin m.bytes) (subFirst m.bytes) (msgStatus m.bytes == 2) (collData m.bytes)) :
    bucketPass s p m = blocksLanded r.2 c r.1 (collData m.bytes).length allToAllEnd := by
  subst hr
  rw [bucketPass, hg]
  refine (if_neg (not_not_intro hrank)).trans ?_
  rw [hc]

theorem execCollPermuteDataMsg_of_takes (hm : collTakes s p 7 (permTakes s) m)
    (hc : collOf (collTaken s p m) m.bytes = some c) :
    execCollPermuteDataMsg p s = .next (if subCount m.bytes = 0 then barrierPass (collTaken s p m) p m c
      else permPass (collTaken s p m) m c) := by
  refine congrArg Host.Outcome.next ((onColl_of_takes (ok := permTakes) hm).trans ?_)
  rw [hc]

theorem execCollVoteMsg_of_takes (hm : collTakes s p 8 (fun m => (voteOf s m.bytes).isSome) m)
    (hc : voteOf (collTaken s p m) m.bytes = some c) :
    execCollVoteMsg p s = .next (votePass (collTaken s p m) p m c) := by
  refine congrArg Host.Outcome.next ((onColl_of_takes (ok := fun s m => (voteOf s m.bytes).isSome) hm).trans ?_)
  rw [hc]

theorem statsPass_of_other {d : List Byte} {x : Coll} (hd : d = collData m.bytes)
    (hx : x = { c with stats := tset (BitVec.ofNat 32 (fld d 0 4), BitVec.ofNat 32 (fld d 8 4)) c.stats (subOrigin m.bytes) })
    (hphase : x.phase ≠ .stats) :
    statsPass s p m c = if nextStop (s.setColl x) p m c = subOrigin m.bytes then s.setColl x
      else collForward (s.setColl x) p m (subOrigin m.bytes) 0 d := by
  subst hd hx
  exact if_neg (by simpa using fun h => absurd h hphase)

theorem collEnd_of_idle {st : Nat} (hc : (collFinish s c st).coll? c.ctx c.group = none)
    (hw : waitingColls (collFinish s c st) c.ctx c.group = []) : collEnd s c st = collFinish s c st := by
  rw [collEnd, collNext, collKick, hc, hw]
  rfl

end

/-- Settles O34: each row is `onColl` or `onPhase` at the message that it takes, then the branch of its pass. -/
theorem collectiveMessagesComplete : Obligations.CollectiveMessagesComplete := by
  refine ⟨fun s p m c hm hc => ⟨fun ho hphase hseq hop => ?origin, fun ho hphase => ?other⟩,
    fun s c b => ⟨setupBack_of_wrong rfl, fun hred hn => setupBack_of_many rfl hred hn,
      fun hred => setupBack_of_plain rfl hred⟩,
    fun s ctx g c hc hphase hlate => completes_of_exec (execCollSetupTimeout_of_late hc hphase hlate) rfl,
    fun s p m c hm hc hg hphase => completes_of_exec (execCollAbortMsg_of_takes hm hc hg hphase) rfl,
    fun s p m c h => completes_of_exec rfl (onPhase_of_at h),
    fun s p m c h => completes_of_exec rfl (onPhase_of_at h),
    fun s p m c hshard own hown => mantissaPass_of_other rfl rfl rfl hshard hown,
    fun s p m c h => completes_of_exec rfl (onPhase_of_at h),
    fun s p m c h => completes_of_exec rfl (onPhase_of_at h),
    fun s p m c g hm hg => ⟨fun hrank => ?pass, fun hrank hc => ?own⟩,
    fun s p m c hm hc => completes_of_exec (execCollPermuteDataMsg_of_takes hm hc) rfl,
    fun s p m c hm hc => completes_of_exec (execCollVoteMsg_of_takes hm hc) rfl,
    fun s p m c h hphase => completes_of_exec rfl ((onPhase_of_at h).trans (statsPass_of_other rfl rfl hphase)),
    fun s c st hc hw => collEnd_of_idle hc hw⟩
  case origin =>
    exact completes_of_exec (execCollSetupMsg_of_takes hm hc) (setupPass_of_origin ho hphase hseq hop)
  case other => exact completes_of_exec (execCollSetupMsg_of_takes hm hc) (setupPass_of_other ho hphase)
  case pass => exact completes_of_exec (execCollBucketMsg_of_takes hm) (bucketPass_of_other hg hrank)
  case own => exact completes_of_exec (execCollBucketMsg_of_takes hm) (bucketPass_of_own hg hrank hc rfl)

end Sys2Proof.Machine

/-! SUPPORT. The lap of a commit (R339), and its timeout (R341). -/

namespace Sys2Proof.Machine

section

variable {s : State} {p ctx g : Nat} {m : RxMsg}

theorem execCommitLapMsg_of_solo (h : soloLap s = some ctx) : execCommitLapMsg p s = .next (lapEnd s ctx) := by
  rw [execCommitLapMsg, h]

theorem execCommitLapMsg_of_arrives (hsolo : soloLap s = none) (hheld : heldLap s p = none)
    (hm : s.inMsg p isLap = some m) (hon : lapOn (s.consume p m) m = some (ctx, g)) :
    execCommitLapMsg p s = .next (lapTake (s.consume p m) ctx g m) := by
  rw [execCommitLapMsg, hsolo, hheld, hm]
  refine congrArg Host.Outcome.next ?_
  show lapArrive s p m = _
  rw [lapArrive, hon]

theorem lapTake_of_own (ho : subOrigin m.bytes = (s.group ctx g).rank) :
    lapTake s ctx g m = lapNext (s.setCont ctx { s.cont ctx with
      lapBack := true, lapAnd := (s.cont ctx).lapAnd && bitAt (subTotal m.bytes) 0 }) ctx :=
  if_pos ho

theorem lapTake_of_other {c y : Cont} {ok : Bool} (hc : c = s.cont ctx) (hok : ok = (subFirst m.bytes == s.contStep ctx))
    (hy : y = { c with
      lapSeen := c.lapSeen + 1, lapAnd := c.lapAnd && ok, lapCause := if ok then c.lapCause else 2 })
    (ho : subOrigin m.bytes ≠ (s.group ctx g).rank) :
    lapTake s ctx g m = lapNext (sendLap (s.setCont ctx y) ctx g (subOrigin m.bytes)
      (bitAt (subTotal m.bytes) 0 && (c.lapAnd && ok)) (subFirst m.bytes)) ctx := by
  subst hy hok hc
  exact if_neg ho

theorem lapNext_of_last (hgroups : (s.cont ctx).lapGroups = [g]) (hback : (s.cont ctx).lapBack = true)
    (hseen : (s.group ctx g).len ≤ (s.cont ctx).lapSeen + 1) :
    lapNext s ctx = lapEnd (s.setCont ctx { s.cont ctx with lapGroups := [] }) ctx := by
  rw [lapNext, hgroups]
  exact if_pos (by rw [hback, decide_eq_true hseen]; rfl)

theorem execContTimeoutExpiry_of_late (hst : (s.cont ctx).st = .prepared)
    (hlate : (s.cont ctx).preparedAt + 1000000 * s.regFld 0x1E024 ctx 0 16 ≤ s.now) :
    execContTimeoutExpiry ctx s =
      .next (commitRecord ((s.setCont ctx { s.cont ctx with st := .inDoubt }).bump 0x1E030 ctx 1) ctx 3) :=
  congrArg Host.Outcome.next (if_pos (by rw [hst, decide_eq_true hlate]; rfl))

end

/-- Settles O35: a lap message is taken by the unit whose lap is on, and the lap goes on by `lapNext`. -/
theorem commitLapComplete : Obligations.CommitLapComplete := by
  refine ⟨fun s p ctx h => completes_of_exec (execCommitLapMsg_of_solo h) rfl,
    fun s p m ctx g rest hsolo hheld hm hon _ => ⟨fun ho => ?_, fun ho => ?_⟩,
    fun s ctx g hgroups hback hseen => lapNext_of_last hgroups hback hseen,
    fun s ctx hst hlate => completes_of_exec (execContTimeoutExpiry_of_late hst hlate) rfl⟩
  · exact completes_of_exec (execCommitLapMsg_of_arrives hsolo hheld hm hon) (lapTake_of_own ho)
  · exact completes_of_exec (execCommitLapMsg_of_arrives hsolo hheld hm hon) (lapTake_of_other rfl rfl rfl ho)

end Sys2Proof.Machine

/-! SUPPORT. The rows of the power manager (R393 to R411, R196, R249). -/

namespace Sys2Proof.Machine

section

variable {s : State}

theorem State.sameBut.weaken {t : State} {ps qs : List Part} (h : s.sameBut t ps) (hq : partsIn ps qs = true) :
    s.sameBut t qs :=
  fun p => (h p).imp_left (partsIn_mem hq)

/-! ### Promise point, caps and reports (R50, R393 to R401) -/

theorem execPpPendingApply_of_point {v : Nat} (hv : s.time.pendVp = some v) (hd : s.power.dutyPend = none)
    (hpass : s.allPass v s.admShare = true) : execPpPendingApply s = .next (capMark (setPp s v)) := by
  rw [execPpPendingApply, hv]
  simp only [hpass, if_true]
  refine congrArg (fun s => Host.Outcome.next (capMark s)) ?_
  show (match s.power.dutyPend with | some d => _ | none => setPp s v) = _
  rw [hd]

theorem execPpPendingApply_of_duty {d : Nat} (hv : s.time.pendVp = none) (hd : s.power.dutyPend = some d)
    (hpass : s.allPass s.time.pp (s.dutyShare d) = true) :
    execPpPendingApply s = .next (capMark (s.modPower (fun p => { p with dutyAdm := d, dutyPend := none }))) := by
  rw [execPpPendingApply, hv]
  simp only [hd, hpass, if_true]

theorem sendReport_of_up (hup : s.mgmt.up = true) : sendReport s =
    { s with mgmt := { s.mgmt with sent := s.mgmt.sent ++ [capReport s] }, power := { s.power with maxW := 0 } } := by
  rw [sendReport, if_pos hup, mgmtSend, if_pos hup]
  rfl

theorem execCapFrame_of_up {f : List Byte} (hup : s.mgmt.up = true) : execCapFrame f s =
    .next (sendReport (if capAccepts s.heard f then capAccept s.heard f else s.heard.bump 0x2003C 0 1)) := by
  refine congrArg Host.Outcome.next (if_neg ?_)
  rw [hup]
  decide

theorem capFrame_completes {f : List Byte} {t : State} (hup : s.mgmt.up = true)
    (ht : t = if capAccepts s.heard f then capAccept s.heard f else s.heard.bump 0x2003C 0 1) :
    completes (.capFrame f) s fun s' => s' = sendReport t :=
  completes_of_exec (execCapFrame_of_up hup) (congrArg sendReport ht.symm)

theorem execLeaseExpiry_of_over {t : Nat} (ht : s.power.leaseEnd = some t) (hover : t ≤ s.now) :
    execLeaseExpiry s = .next (capChange { s with power := { s.power with
      rackCap := none, leaseEnd := none, leaseExpired := true } }) := by
  rw [execLeaseExpiry, ht]
  exact congrArg Host.Outcome.next (if_pos hover)

theorem execCollExemptExpiry_of_over (h : 5000000 + s.power.exemptFrom ≤ s.now ∨ s.collsExempt = false) :
    execCollExemptExpiry s = .next { s with power := { s.power with collExempt := false, exemptColls := [] } } :=
  congrArg Host.Outcome.next (if_pos (by simpa using h))

/-! ### Brick and junction temperatures (R196, R411) -/

theorem throttleOn_of_cold {k : Nat} (h : s.hot k = false) : throttleOn s k = s := by
  rw [throttleOn, h]
  rfl

theorem State.hot_brick {b : Nat} : s.hot (1600 + b) = decide (380 < (s.brick b).temp) := by
  rw [State.hot, if_neg (by omega), Nat.add_sub_cancel_left]

/-- R196: the state once brick `b` reads `temp`. -/
def brickRead (s : State) (b temp : Nat) : State :=
  s.setBrick b { temp := temp, band := bandOf temp (s.brick b).band }

theorem hot_brickRead {b temp : Nat} (h : temp ≤ 380) : (brickRead s b temp).hot (1600 + b) = false := by
  rw [State.hot_brick, brickRead, State.brick_setBrick_same]
  exact decide_eq_false (Nat.not_lt.2 h)

theorem execBrickTempSample_of_lt {b temp : Nat} {rs : List Nat} (hb : b < 16) (htemp : temp = rs.foldl max 0) :
    execBrickTempSample b rs s =
      (let s1 := brickRead s b temp
       let s2 := throttleOn (if 380 < temp then s1.orReg 0x1704C b 0x8000 else s1) (1600 + b)
       .next (if 420 ≤ temp then shedTo s2 5 4 else s2)) := by
  subst htemp
  exact congrArg Host.Outcome.next (if_neg (Nat.not_le.2 hb))

theorem execBrickTempSample_of_cool {b : Nat} {rs : List Nat} (hb : b < 16) (h : rs.foldl max 0 ≤ 380) :
    execBrickTempSample b rs s = .next (brickRead s b (rs.foldl max 0)) := by
  rw [execBrickTempSample_of_lt hb rfl]
  simp only [if_neg (Nat.not_lt.2 h), if_neg (Nat.not_le.2 (Nat.lt_of_le_of_lt h (by decide : 380 < 420))),
    throttleOn_of_cold (hot_brickRead h)]

theorem execBrickTempSample_of_warm {b : Nat} {rs : List Nat} (hb : b < 16) (hlo : 380 < rs.foldl max 0)
    (hhi : rs.foldl max 0 < 420) : execBrickTempSample b rs s =
      .next (throttleOn ((brickRead s b (rs.foldl max 0)).orReg 0x1704C b 0x8000) (1600 + b)) := by
  rw [execBrickTempSample_of_lt hb rfl]
  simp only [if_pos hlo, if_neg (Nat.not_le.2 hhi)]

theorem execBrickTempSample_of_hot {b : Nat} {rs : List Nat} (hb : b < 16) (h : 420 ≤ rs.foldl max 0) :
    execBrickTempSample b rs s =
      .next (shedTo (throttleOn ((brickRead s b (rs.foldl max 0)).orReg 0x1704C b 0x8000) (1600 + b)) 5 4) := by
  rw [execBrickTempSample_of_lt hb rfl]
  simp only [if_pos (Nat.lt_of_lt_of_le (by decide : 380 < 420) h), if_pos h]

theorem execJunctionSensorSample_of_lt {k temp : Nat} {hotDie : Bool} {s1 : State} (hk : k < 1600)
    (hs1 : s1 = throttleOn { s with power := { s.power with junc := tset temp s.power.junc k } } k) :
    execJunctionSensorSample k temp hotDie s = .next (if hotDie then shedTo s1 5 4 else s1) := by
  subst hs1
  exact congrArg Host.Outcome.next (if_neg (Nat.not_le.2 hk))

/-! ### The hold-up bank (R249, R250) -/

theorem execHoldupMeasure_of_fell {e : Nat} {fell : Bool} {s1 : State}
    (hf : fell = (s.holdup.wasOk && !decide (262 ≤ e) && !s.holdup.failed))
    (hs1 : s1 = { s with holdup := { s.holdup with
      energy := e, ok := decide (262 ≤ e), wasOk := s.holdup.wasOk || decide (262 ≤ e),
      failed := s.holdup.failed || fell, deferring := false } }) :
    execHoldupMeasure e s =
      .next (keepSweep (retryCommit (retryPrograms (if fell then shedTo s1 5 3 else s1)))) := by
  subst hs1 hf
  rfl

theorem execHoldupMeasure_of_ready {e : Nat} (h : 262 ≤ e ∨ s.holdup.wasOk = false ∨ s.holdup.failed = true) :
    execHoldupMeasure e s = .next (keepSweep (retryCommit (retryPrograms { s with holdup := { s.holdup with
      energy := e, ok := decide (262 ≤ e), wasOk := s.holdup.wasOk || decide (262 ≤ e), deferring := false } }))) := by
  have hf : false = (s.holdup.wasOk && !decide (262 ≤ e) && !s.holdup.failed) := by
    rcases h with h | h | h <;> simp [h]
  rw [execHoldupMeasure_of_fell hf rfl, if_neg Bool.false_ne_true, Bool.or_false]

theorem execHoldupMeasure_of_failure {e : Nat} (he : e < 262) (hok : s.holdup.wasOk = true)
    (hfailed : s.holdup.failed = false) :
    execHoldupMeasure e s = .next (keepSweep (retryCommit (retryPrograms (shedTo { s with holdup := { s.holdup with
      energy := e, ok := false, failed := true, deferring := false } } 5 3)))) := by
  have hlow : decide (262 ≤ e) = false := decide_eq_false (Nat.not_le.2 he)
  have hf : true = (s.holdup.wasOk && !decide (262 ≤ e) && !s.holdup.failed) := by rw [hok, hlow, hfailed]; rfl
  rw [execHoldupMeasure_of_fell hf rfl, if_pos rfl, Bool.or_true, hlow, Bool.or_false]

/-! ### Windows and the operating point (R396, R397, R399, R405, R406) -/

/-- R406: between the states, energy has been measured and nothing else has changed. -/
def measured (s t : State) : Prop := ∃ e n, t = { s with power := { s.power with energy := e }, freeCtr := n }

theorem measured.refl (s : State) : measured s s := ⟨_, _, rfl⟩

theorem measured.trans {t u : State} (hst : measured s t) (htu : measured t u) : measured s u := by
  obtain ⟨_, _, rfl⟩ := hst
  obtain ⟨e, n, rfl⟩ := htu
  exact ⟨e, n, rfl⟩

theorem measured.foldl {α β : Type} {f : β × State → α → β × State} (hf : ∀ acc x, measured acc.2 (f acc x).2)
    (l : List α) (acc : β × State) : measured acc.2 (l.foldl f acc).2 := by
  induction l generalizing acc with
  | nil => exact .refl _
  | cons x l ih => exact (hf acc x).trans (ih _)

theorem chargeEnergy_measured (s : State) (k : Nat) : measured s (chargeEnergy s k).2 := ⟨_, _, rfl⟩

/-- R406: the energy of the rings at work, and their sum. -/
def chargeRing (c : Nat) (acc : Nat × State) (q : Nat) : Nat × State :=
  (acc.1 + (chargeEnergy acc.2 (c * 32 + q)).1, (chargeEnergy acc.2 (c * 32 + q)).2)

theorem chargeRings_measured (s : State) (c : Nat) (l : List Nat) : measured s (l.foldl (chargeRing c) (0, s)).2 :=
  .foldl (f := chargeRing c) (fun acc q => chargeEnergy_measured acc.2 (c * 32 + q)) l (0, s)

theorem addEnergy_measured (s : State) (k : Nat) (w : DWord) :
    measured s (s.modPower (fun p => { p with energy := tset (tget 0 p.energy k + w) p.energy k })) := ⟨_, _, rfl⟩

theorem chargeCtx_measured (s : State) (c : Nat) : measured s (chargeCtx s c) :=
  ((chargeRings_measured s c _).trans (chargeEnergy_measured ..)).trans (addEnergy_measured ..)

theorem chargeAll_measured (s : State) (l : List (Nat × Ctx)) : measured s (l.foldl (fun s c => chargeCtx s c.1) s) := by
  induction l generalizing s with
  | nil => exact .refl _
  | cons x l ih => exact (chargeCtx_measured s x.1).trans (ih _)

/-- R405: matched mode is lost once the mean lies above the cap, until DUTY is 10 again. -/
def dutyLost (s : State) (w d : Nat) : Bool :=
  if bitAt (s.reg 0x20010 0) 0 && decide (s.capInForce < w) then true else if d = 10 then false else s.power.matchLost

theorem chooseDuty_of_choice {w : Nat} {r : Nat × State} (hr : r = if s.duties w then
      (min s.power.dutyAdm 10 + Config.freeNat s.freeCtr % (11 - min s.power.dutyAdm 10), s.draw.2) else (10, s)) :
    chooseDuty s w = r.2.modPower (fun p => { p with
      duty := r.1, matchLost := dutyLost r.2 w r.1, issueOpen := p.issueOpen || r.1 == 10 }) := by
  subst hr
  rfl

theorem chooseDuty_eq (s : State) (w : Nat) : ∃ d lost n, chooseDuty s w =
    { s with power := { s.power with duty := d, matchLost := lost, issueOpen := s.power.issueOpen || d == 10 }, freeCtr := n } ∧
    min s.power.dutyAdm 10 ≤ d ∧ d ≤ 10 ∧ (s.duties w = false → d = 10) := by
  cases hd : s.duties w with
  | true =>
    have hlt := Nat.mod_lt (Config.freeNat s.freeCtr) (show 0 < 11 - min s.power.dutyAdm 10 by omega)
    exact ⟨_, _, _, chooseDuty_of_choice (by rw [hd, if_pos rfl]), by omega, by omega, fun h => absurd h (by decide)⟩
  | false =>
    refine ⟨_, _, _, chooseDuty_of_choice (r := (10, s)) (by rw [hd, if_neg Bool.false_ne_true]), Nat.min_le_right _ _,
      Nat.le_refl _, fun _ => rfl⟩

/-- R396: the mean of a window is taken over. -/
def windowMean (s : State) (w : Nat) : State :=
  s.modPower (fun p => { p with meanW := w, maxW := max p.maxW w, energyIn := p.energyIn + BitVec.ofNat 64 w })

theorem execPowerWindowEnd_of_measured (s : State) (w : Nat) :
    ∃ t, measured (windowMean s w) t ∧ execPowerWindowEnd w s = .next (chooseDuty t w) :=
  ⟨_, (chargeAll_measured _ _).trans (chargeEnergy_measured ..), rfl⟩

theorem powerWindowEnd_completes (s : State) (w : Nat) : completes (.powerWindowEnd w) s fun s' =>
    s'.power.meanW = w ∧ s'.power.maxW = max s.power.maxW w ∧
    s'.power.energyIn = s.power.energyIn + BitVec.ofNat 64 w ∧ min s.power.dutyAdm 10 ≤ s'.power.duty ∧
    s'.power.duty ≤ 10 ∧ (s.duties w = false → s'.power.duty = 10) ∧ s.sameBut s' [.power, .freeCtr] := by
  obtain ⟨t, ⟨e, n, rfl⟩, hexec⟩ := execPowerWindowEnd_of_measured s w
  obtain ⟨d, lost, n', hduty, hlo, hhi, hten⟩ := chooseDuty_eq
    { windowMean s w with power := { (windowMean s w).power with energy := e }, freeCtr := n } w
  have hframe := commandsKeepTheirFrame (.powerWindowEnd w) s _ hexec
  refine completes_of_exec hexec ?_
  rw [hduty] at hframe ⊢
  exact ⟨rfl, rfl, rfl, hlo, hhi, hten, hframe.weaken rfl⟩

/-! ### Duty, throttling and units (R399, R410, R411) -/

theorem execDutyQuantum_of_closed (h : s.power.duty < 10) :
    execDutyQuantum false s = .next { s with power := { s.power with issueOpen := false } } := by
  rw [execDutyQuantum, decide_eq_false (Nat.not_le.2 h)]
  rfl

theorem execUnitDrainDone_of_empty {u : Nat} (hst : s.power.units.getD u 0 = 2) (he : s.unitEmpty u = true) :
    execUnitDrainDone u s = .next { s with power := { s.power with
      units := s.power.units.set u (if s.power.unitWant.getD u none = some true then 3 else 0),
      unitWant := s.power.unitWant.set u none } } :=
  congrArg Host.Outcome.next (if_pos ⟨hst, he⟩)

theorem execUnitPowerUpDone_of_powering {u : Nat} (hst : s.power.units.getD u 0 = 3) :
    execUnitPowerUpDone u s = .next { s with power := { s.power with
      units := s.power.units.set u (if s.power.unitWant.getD u none = some false then 2 else 1),
      unitWant := s.power.unitWant.set u none } } :=
  congrArg Host.Outcome.next (if_pos hst)

end

/-- Settles O36: each row by the branch that its guard names; measuring a window changes no more than the energy counters. -/
theorem powerEventsComplete : Obligations.PowerEventsComplete := by
  refine ⟨fun s v hv hd hpass => completes_of_exec (execPpPendingApply_of_point hv hd hpass) rfl,
    fun s d hv hd hpass => completes_of_exec (execPpPendingApply_of_duty hv hd hpass) rfl,
    fun s b rs hb => ⟨fun h => completes_of_exec (execBrickTempSample_of_cool hb h) rfl,
      fun hlo hhi => completes_of_exec (execBrickTempSample_of_warm hb hlo hhi) rfl,
      fun h => completes_of_exec (execBrickTempSample_of_hot hb h) rfl⟩,
    fun s e h => completes_of_exec (execHoldupMeasure_of_ready h) rfl,
    fun s e he hok hfailed => completes_of_exec (execHoldupMeasure_of_failure he hok hfailed) rfl,
    fun s f hup ha => capFrame_completes hup (if_pos ha).symm,
    fun s f hup ha => capFrame_completes hup (if_neg (by rw [ha]; decide)).symm,
    fun s hms hup => completes_of_exec rfl ((if_neg hms).trans (sendReport_of_up hup)),
    fun s t ht hover => completes_of_exec (execLeaseExpiry_of_over ht hover) rfl,
    powerWindowEnd_completes, fun s want w => ?curVp,
    fun s h => completes_of_exec (execDutyQuantum_of_closed h) rfl, fun s => completes_of_exec rfl rfl,
    fun s h => completes_of_exec (execCollExemptExpiry_of_over h) rfl,
    fun s k temp hk => ⟨completes_of_exec (execJunctionSensorSample_of_lt hk rfl) rfl,
      completes_of_exec (execJunctionSensorSample_of_lt hk rfl) rfl⟩,
    fun s => ⟨fun hn => completes_of_exec rfl (if_neg (Nat.not_le.2 hn)), fun hn => completes_of_exec rfl (if_pos hn)⟩,
    fun s i o => completes_of_exec rfl rfl,
    fun s u hst he => completes_of_exec (execUnitDrainDone_of_empty hst he) rfl,
    fun s u hst => completes_of_exec (execUnitPowerUpDone_of_powering hst) rfl⟩
  case curVp =>
    exact completes_of_exec rfl ⟨rfl, rfl, rfl, rfl, rfl, (commandsKeepTheirFrame (.curVpUpdate want w) s _ rfl).weaken rfl⟩

end Sys2Proof.Machine

/-! SUPPORT. Shedding (R407 to R409), idle counting (R326), context resets (R389), enables (R357) and unmasking (R450). -/

namespace Sys2Proof.Machine

section

variable {s : State}

/-! ### Shedding (R407 to R409) -/

theorem stagesAbove_next : ∀ k < 5, (List.range 6).filter (fun j => decide (k < j) && decide (j ≤ k + 1)) = [k + 1] := by
  decide

theorem shedTo_next {cause : Nat} (h : s.time.shedStage < 5) :
    shedTo s (s.time.shedStage + 1) cause = enterStage s (s.time.shedStage + 1) cause := by
  rw [shedTo, stagesAbove_next _ h]
  rfl

theorem shedTo_of_le {stage cause : Nat} (h : stage ≤ s.time.shedStage) : shedTo s stage cause = s := by
  have hnone : (List.range 6).filter (fun k => decide (s.time.shedStage < k) && decide (k ≤ stage)) = [] :=
    List.filter_eq_nil_iff.2 fun k _ hk => by
      simp only [Bool.and_eq_true, decide_eq_true_eq] at hk
      omega
  rw [shedTo, hnone]
  rfl

/-- R407: the declared stage is counted. -/
def stageCounted (s : State) (k : Nat) : State :=
  State.bump { s with time := { s.time with shedStage := k } } 0x20044 0 1

theorem enterStage_one {cause : Nat} : enterStage s 1 cause = shedKiln (applyUnits (stageCounted s 1)) := by
  rw [enterStage, if_pos (rfl : 1 = 1), if_pos (by decide : 1 ≤ 4)]
  rfl

theorem enterStage_two {cause : Nat} : enterStage s 2 cause = applyUnits (stageCounted s 2) := by
  rw [enterStage, if_neg (by decide : ¬2 = 1), if_neg (by decide : ¬2 = 3), if_neg (by decide : ¬2 = 4),
    if_neg (by decide : ¬2 = 5), if_pos (by decide : 2 ≤ 4)]
  rfl

theorem enterStage_three {cause : Nat} {s3 : State} (hs3 : s3 = applyUnits (stageCounted s 3)) :
    enterStage s 3 cause =
      capMark (recheckAll { s3 with time := { s3.time with curVp := 0, pp := 0, pendVp := none } } 0 3) := by
  subst hs3
  rw [enterStage, if_neg (by decide : ¬3 = 1), if_pos (rfl : 3 = 3), if_pos (by decide : 3 ≤ 4)]
  generalize hs3 : applyUnits (stageCounted s 3) = s3
  rw [stageCounted] at hs3
  simp only [State.modTime, hs3]

/-- R407: stage 5 stands declared, with its cause. -/
def stageFive (s : State) (cause : Nat) : State :=
  ((stageCounted s 5).modTime (fun t => { t with admStopped := true })).modPower (fun p => { p with
    stage5 := true, stopCause := cause })

theorem stopTiles_kept (s : State) : (s.tiles.foldl (fun s t => tileStop s t.1) s).power = s.power :=
  (Kept.foldl (fun y e h => h.step (tileStop_kept y e.1) (by decide)) (.refl [.regs, .mem, .poison, .hostMem, .time, .tiles,
    .mortar, .errLog, .errOverflow, .ctxs, .launches, .joints, .kv, .links, .conts, .msix, .msixSent, .regPosted] s)).unchanged
    .power rfl

theorem enterStage_five {cause : Nat} : enterStage s 5 cause =
    (let t := (stageFive s cause).tiles.foldl (fun s t => tileStop s t.1) (stageFive s cause)
     flashStop (recheckAll t (stageFive s cause).time.pp 5)) := by
  rw [enterStage, if_neg (by decide : ¬5 = 1), if_neg (by decide : ¬5 = 3), if_neg (by decide : ¬5 = 4),
    if_pos (rfl : 5 = 5), if_neg (by decide : ¬5 ≤ 4)]
  rfl

theorem enterStage_five_power {cause : Nat} : (enterStage s 5 cause).power = (stageFive s cause).power := by
  rw [enterStage_five]
  exact ((flashStop_kept _).unchanged .power rfl).trans
    (((recheckAll_kept _ _ _).unchanged .power rfl).trans (stopTiles_kept _))

theorem leaveStage_of_none (h : s.time.shedStage = 0 ∨ 5 ≤ s.time.shedStage) : leaveStage s = s := if_pos h

theorem leaveStage_of_stage {s1 : State} (h : ¬(s.time.shedStage = 0 ∨ 5 ≤ s.time.shedStage))
    (hs1 : s1 = applyUnits { s with time := { s.time with shedStage := s.time.shedStage - 1 } }) :
    leaveStage s = if s.time.shedStage = 1 then unshedKiln s1 else if s.time.shedStage = 3 then wantedPp s1
      else if s.time.shedStage = 4 then s1.modTime (fun t => { t with admStopped := false }) else s1 := by
  subst hs1
  exact if_neg h

theorem leaveStage_one (h : s.time.shedStage = 1) {s1 : State}
    (hs1 : s1 = applyUnits { s with time := { s.time with shedStage := s.time.shedStage - 1 } }) :
    leaveStage s = unshedKiln s1 := by
  rw [leaveStage_of_stage (by omega) hs1, if_pos h]

theorem leaveStage_two (h : s.time.shedStage = 2) {s1 : State}
    (hs1 : s1 = applyUnits { s with time := { s.time with shedStage := s.time.shedStage - 1 } }) : leaveStage s = s1 := by
  rw [leaveStage_of_stage (by omega) hs1, if_neg (by omega), if_neg (by omega), if_neg (by omega)]

theorem leaveStage_three (h : s.time.shedStage = 3) {s1 : State}
    (hs1 : s1 = applyUnits { s with time := { s.time with shedStage := s.time.shedStage - 1 } }) :
    leaveStage s = wantedPp s1 := by
  rw [leaveStage_of_stage (by omega) hs1, if_neg (by omega), if_pos h]

theorem leaveStage_four (h : s.time.shedStage = 4) {s1 : State}
    (hs1 : s1 = applyUnits { s with time := { s.time with shedStage := s.time.shedStage - 1 } }) :
    leaveStage s = { s1 with time := { s1.time with admStopped := false } } := by
  rw [leaveStage_of_stage (by omega) hs1, if_neg (by omega), if_neg (by omega), if_pos h]
  rfl

theorem execSafeStopCommit_of_idle (h5 : s.power.stage5 = true) (hstop : s.power.safeStop = false)
    (hidle : ∀ c ∈ s.flash.cmds, c.programs = 0) : execSafeStopCommit s = .next (safeStop s) := by
  refine congrArg Host.Outcome.next (if_pos ?_)
  rw [h5, hstop, List.all_eq_true.2 fun c hc => beq_iff_eq.2 (hidle c hc)]
  rfl

end

/-- Settles O37: the stages above the one in force are a list of one, or of none; stage 5 keeps what it has declared. -/
theorem sheddingCompletes : Obligations.SheddingCompletes := by
  refine ⟨fun s cause h => completes_of_exec rfl (shedTo_next h), fun s stage cause h => completes_of_exec rfl (shedTo_of_le h),
    fun s cause => ⟨enterStage_one, enterStage_two, enterStage_three rfl⟩,
    fun s h => if_neg (fun hk => absurd (h.symm.trans hk.1) (by decide)),
    fun s cause => ⟨congrArg (·.stage5) enterStage_five_power, congrArg (·.stopCause) enterStage_five_power⟩,
    fun s h => completes_of_exec rfl (leaveStage_of_none h),
    fun s => ⟨fun h => completes_of_exec rfl (leaveStage_one h rfl), fun h => completes_of_exec rfl (leaveStage_two h rfl),
      fun h => completes_of_exec rfl (leaveStage_three h rfl), fun h => completes_of_exec rfl (leaveStage_four h rfl)⟩,
    fun s h5 hstop hidle => completes_of_exec (execSafeStopCommit_of_idle h5 hstop hidle) ⟨rfl, rfl⟩,
    fun s _ => completes_of_exec rfl rfl⟩

section

variable {s : State} {n : Nat}

/-! ### Idle counting (R326) -/

/-- R326: the counters once tile `t` has added to its own. -/
def idleCount (s : State) (m : Tbl DWord) (t : Nat) : Tbl DWord :=
  if (s.ownerOf t).isNone then m
  else match idleCause s (s.tile t) with
    | none => m
    | some c => tset (tget 0 m (brickOf t * 16 + c) + 1) m (brickOf t * 16 + c)

/-- R326: the state once tile `t` has added to its counter. -/
def idleAdd (s : State) (t : Nat) : State :=
  if (s.ownerOf t).isNone then s
  else match idleCause s (s.tile t) with
    | none => s
    | some c => { s with idle := tset (tget 0 s.idle (brickOf t * 16 + c) + 1) s.idle (brickOf t * 16 + c) }

theorem idleAdd_eq (s : State) (m : Tbl DWord) (t : Nat) :
    idleAdd { s with idle := m } t = { s with idle := idleCount s m t } := by
  show (if (s.ownerOf t).isNone then _ else match idleCause s (s.tile t) with | none => _ | some c => _) = _
  rw [idleCount]
  split
  · rfl
  · split <;> rfl

theorem idleFold_eq (s : State) (m : Tbl DWord) (l : List Nat) :
    l.foldl idleAdd { s with idle := m } = { s with idle := l.foldl (idleCount s) m } := by
  induction l generalizing m with
  | nil => rfl
  | cons t l ih => rw [List.foldl_cons, List.foldl_cons, idleAdd_eq, ih]

theorem idleTick_eq (s : State) : idleTick s = { s with idle := (List.range tileCount).foldl (idleCount s) s.idle } :=
  idleFold_eq s s.idle (List.range tileCount)

theorem idleTick_idle {g : Tbl DWord → Nat → Tbl DWord} (hg : ∀ m t, idleCount s m t = g m t) :
    (idleTick s).idle = (List.range tileCount).foldl g s.idle := by
  rw [idleTick_eq, ← funext₂ hg]

/-! ### Contexts (R357, R389) -/

theorem ctxReset_of_live (h : (s.ctx n).inReset = false) {s1 s2 : State}
    (hs1 : s1 = s.setCtx n { s.ctx n with
      inReset := true, resetRect := rectTiles (s.ctx n).x0 (s.ctx n).y0 (s.ctx n).wm1 (s.ctx n).hm1 })
    (hs2 : s2 = dropUnstarted (abandonReads s1 n) n) :
    ctxReset s n = stopLaunches { s2 with launches := s2.launches.filter (fun l => !(l.ctx == n && !l.running)) } n := by
  subst hs2 hs1
  rw [ctxReset, h]
  rfl

theorem ctxReset_of_reset (h : (s.ctx n).inReset = true) : ctxReset s n = s := by
  rw [ctxReset, h]
  rfl

theorem ctxResetDone_of_reset (h : (s.ctx n).inReset = true) {s1 : State} (hs1 : s1 = clearCtx (endInFlight s n) n) :
    ctxResetDone s n = mbPumpAll (s1.setCtx n { s1.ctx n with inReset := false }) n := by
  subst hs1
  rw [ctxResetDone, h]
  rfl

/-- R357: enabling function `n` makes its context overlap one that is enabled. -/
def enableClash (s : State) (n : Nat) : Bool :=
  s.ctxs.any (fun d => d.1 != n && d.2.enable && d.2.fnEn && (s.ctx n).overlaps d.2)

theorem execFunctionEnableChange_of_idle (h : (s.ctx n).enable = false) :
    execFunctionEnableChange n true s = .next (s.setCtx n { s.ctx n with fnEn := true }) := by
  rw [execFunctionEnableChange]
  simp only [h, Bool.and_false, Bool.false_and, Bool.not_true, Bool.false_eq_true, if_false]

theorem execFunctionEnableChange_of_clash (he : (s.ctx n).enable = true) (hf : (s.ctx n).fnEn = false)
    (hclash : enableClash s n = true) : execFunctionEnableChange n true s =
      .next ((s.setCtx n { s.ctx n with fnEn := true, enable := false }).clampEvent 0x10004 n 2) := by
  rw [enableClash] at hclash
  rw [execFunctionEnableChange]
  simp only [he, hf, hclash, Bool.not_true, Bool.false_eq_true, if_false, Bool.not_false,
    if_true, Bool.and_true, Bool.and_false]

theorem execFunctionEnableChange_of_off (he : (s.ctx n).enable = true) (hf : (s.ctx n).fnEn = true) :
    execFunctionEnableChange n false s =
      .next ((ctxReset s n).setCtx n { (ctxReset s n).ctx n with fnEn := false, enable := true }) := by
  rw [execFunctionEnableChange]
  simp only [he, hf, Bool.not_false, Bool.true_and, if_true, Bool.false_and, Bool.not_true, Bool.false_eq_true, if_false]

/-! ### Vectors (R450) -/

theorem execMsixUnmask_of_entry {v : Nat} {e : MsixVec} {s1 : State} (he : e = tget MsixVec.reset s.msix (n * 32 + v))
    (hs1 : s1 = { s with msix := tset { e with masked := false, pending := false } s.msix (n * 32 + v) }) :
    execMsixUnmask n v s = .next (if e.pending then { s1 with msixSent := s1.msixSent ++ [(n, v)] } else s1) := by
  subst hs1 he
  rfl

theorem execMsixUnmask_of_pending {v : Nat} {e : MsixVec} {s1 : State} (he : e = tget MsixVec.reset s.msix (n * 32 + v))
    (hs1 : s1 = { s with msix := tset { e with masked := false, pending := false } s.msix (n * 32 + v) })
    (hp : e.pending = true) : execMsixUnmask n v s = .next { s1 with msixSent := s1.msixSent ++ [(n, v)] } := by
  rw [execMsixUnmask_of_entry he hs1, if_pos hp]

theorem execMsixUnmask_of_none {v : Nat} {e : MsixVec} {s1 : State} (he : e = tget MsixVec.reset s.msix (n * 32 + v))
    (hs1 : s1 = { s with msix := tset { e with masked := false, pending := false } s.msix (n * 32 + v) })
    (hp : e.pending = false) : execMsixUnmask n v s = .next s1 := by
  rw [execMsixUnmask_of_entry he hs1, hp, if_neg Bool.false_ne_true]

end

/-- Settles O38: counting idle tiles is a fold over the counters alone; the other rows by the branch of their guard. -/
theorem contextEventsComplete : Obligations.ContextEventsComplete := by
  refine ⟨fun s => completes_of_exec rfl ⟨commandsKeepTheirFrame .idleTick s _ rfl, ?idle⟩,
    fun s n h => completes_of_exec rfl (ctxReset_of_live h rfl rfl),
    fun s n h => completes_of_exec rfl (ctxReset_of_reset h),
    fun s n h => completes_of_exec rfl (ctxResetDone_of_reset h rfl), fun s n => ?clear,
    fun s n h => completes_of_exec (execFunctionEnableChange_of_idle h) rfl,
    fun s n he hf hclash => completes_of_exec (execFunctionEnableChange_of_clash he hf hclash) rfl,
    fun s n he hf => completes_of_exec (execFunctionEnableChange_of_off he hf) rfl,
    fun s n v => ⟨fun hp => completes_of_exec (execMsixUnmask_of_pending rfl rfl hp) rfl,
      fun hp => completes_of_exec (execMsixUnmask_of_none rfl rfl hp) rfl⟩⟩
  case idle =>
    exact idleTick_idle fun m t => rfl
  case clear =>
    rw [clearCtx, State.ctx_setCtx_same]
    exact ⟨rfl, rfl, rfl, rfl, rfl⟩

end Sys2Proof.Machine

/-! SUPPORT. Test access (R453 to R464) and the replica rates (R403). -/

namespace Sys2Proof.Machine

section

variable {s : State} {op : Nat} {f : List Byte} {k : State → State}

/-! ### Requests (R453 to R455) -/

theorem testRequest_of_op (htakes : testTakes s f = true) (hop : tfOp f = op) (hlo : op ≠ 0) (hhi : op ≤ 5) :
    testRequest s op f k = if !testIdOk op (tfKind f) (tfId f) then testAnswer s.heard f 6 0
      else if tfKind f = 3 ∧ s.variant = .kv1s then testAnswer s.heard f 7 0
      else if testBusy s (tfKind f) (tfId f) then testAnswer s.heard f 3 0 else k s.heard := by
  subst hop
  have hreserved : ¬(tfOp f = 0 ∨ 5 < tfOp f) := by omega
  rw [testRequest, htakes, if_neg (by decide), if_neg hreserved, if_neg (not_not_intro rfl)]
  rfl

theorem testRequest_of_good (hlo : op ≠ 0) (hhi : op ≤ 5) (h : testGood s op f) : testRequest s op f k = k s.heard := by
  obtain ⟨htakes, hop, hid, hkind, hbusy⟩ := h
  have hkiln : ¬(tfKind f = 3 ∧ s.variant = .kv1s) := fun ⟨h3, hv⟩ => absurd ((hkind h3).symm.trans hv) (by decide)
  rw [testRequest_of_op htakes hop hlo hhi, hid, if_neg (by decide), if_neg hkiln, hbusy, if_neg Bool.false_ne_true]

theorem testRequest_of_badId (hlo : op ≠ 0) (hhi : op ≤ 5) (htakes : testTakes s f = true) (hop : tfOp f = op)
    (hid : testIdOk op (tfKind f) (tfId f) = false) : testRequest s op f k = testAnswer s.heard f 6 0 := by
  rw [testRequest_of_op htakes hop hlo hhi, hid]
  rfl

theorem testRequest_of_absent (hlo : op ≠ 0) (hhi : op ≤ 5) (htakes : testTakes s f = true) (hop : tfOp f = op)
    (hid : testIdOk op (tfKind f) (tfId f) = true) (h3 : tfKind f = 3) (hv : s.variant = .kv1s) :
    testRequest s op f k = testAnswer s.heard f 7 0 := by
  rw [testRequest_of_op htakes hop hlo hhi, hid, if_neg (by decide), if_pos ⟨h3, hv⟩]

theorem testRequest_of_busy (hlo : op ≠ 0) (hhi : op ≤ 5) (htakes : testTakes s f = true) (hop : tfOp f = op)
    (hid : testIdOk op (tfKind f) (tfId f) = true) (hkind : tfKind f = 3 → s.variant = .kv1a)
    (hbusy : testBusy s (tfKind f) (tfId f) = true) : testRequest s op f k = testAnswer s.heard f 3 0 := by
  have hkiln : ¬(tfKind f = 3 ∧ s.variant = .kv1s) := fun ⟨h3, hv⟩ => absurd ((hkind h3).symm.trans hv) (by decide)
  rw [testRequest_of_op htakes hop hlo hhi, hid, if_neg (by decide), if_neg hkiln, hbusy, if_pos rfl]

theorem testRow_of_exec {i : List Byte → Instr} {g : State → List Byte → State} (hlo : op ≠ 0) (hhi : op ≤ 5)
    (hexec : ∀ s f, exec (i f) s = .next (testRequest s op f (fun s => g s f))) : testRow i op g :=
  ⟨fun s f h => completes_of_exec (hexec s f) (testRequest_of_good hlo hhi h),
    fun s f htakes hop hid => completes_of_exec (hexec s f) (testRequest_of_badId hlo hhi htakes hop hid),
    fun s f htakes hop hid h3 hv => completes_of_exec (hexec s f) (testRequest_of_absent hlo hhi htakes hop hid h3 hv),
    fun s f htakes hop hid hkind hbusy =>
      completes_of_exec (hexec s f) (testRequest_of_busy hlo hhi htakes hop hid hkind hbusy)⟩

theorem testRequest_of_reserved (htakes : testTakes s f = true) (hop : tfOp f = 0 ∨ 5 < tfOp f) :
    testRequest s 1 f k = testAnswer s.heard f 6 0 := by
  rw [testRequest, htakes, if_neg (by decide), if_pos hop, if_pos rfl]
  rfl

/-! ### Tiles -/

section

variable (hkind : tfKind f = 0)
include hkind

theorem elementFenced_tile : elementFenced s (tfKind f) (tfId f) = ((s.tile (tfId f)).run == .fenced) := by
  rw [hkind]
  rfl

theorem elementSpalled_tile : elementSpalled s (tfKind f) (tfId f) = ((s.tile (tfId f)).run == .spalled) := by
  rw [hkind]
  rfl

section

variable (hrun : (s.tile (tfId f)).run ≠ .fenced)
include hrun

theorem elementFenced_of_ne : elementFenced s (tfKind f) (tfId f) = false := by
  rw [elementFenced_tile hkind]
  exact beq_eq_false_iff_ne.2 hrun

theorem fenceElement_of_ne (hspalled : (s.tile (tfId f)).run ≠ .spalled) :
    fenceElement s f = tileFence (testBegin s f) (tfId f) := by
  have hno : elementSpalled s (tfKind f) (tfId f) = false := by
    rw [elementSpalled_tile hkind]
    exact beq_eq_false_iff_ne.2 hspalled
  rw [fenceElement, elementFenced_of_ne hkind hrun, if_neg Bool.false_ne_true, hno, if_neg Bool.false_ne_true, if_pos hkind]

theorem unfenceElement_of_ne : unfenceElement s f = testAnswer s f 2 0 := by
  rw [unfenceElement, elementFenced_of_ne hkind hrun]
  rfl

theorem selftestElement_of_ne : selftestElement s f = testAnswer s f 2 0 := by
  rw [selftestElement, elementFenced_of_ne hkind hrun]
  rfl

theorem spallElement_of_ne : spallElement s f = testAnswer s f 2 0 := by
  rw [spallElement, elementFenced_of_ne hkind hrun]
  rfl

end

theorem restoreElement_of_ne (hspalled : (s.tile (tfId f)).run ≠ .spalled) : restoreElement s f = testAnswer s f 2 0 := by
  rw [restoreElement, elementSpalled_tile hkind, beq_eq_false_iff_ne.2 hspalled]
  rfl

section

variable (hrun : (s.tile (tfId f)).run = .fenced)
include hrun

theorem elementFenced_of_eq : elementFenced s (tfKind f) (tfId f) = true := by
  rw [elementFenced_tile hkind, hrun]
  rfl

theorem fenceElement_of_fenced : fenceElement s f = testAnswer s f 0 0 := by
  rw [fenceElement, elementFenced_of_eq hkind hrun]
  rfl

theorem unfenceElement_of_fenced : unfenceElement s f =
    testAnswer (pointPut (s.modTile (tfId f) (fun x =>
      { x with run := .idle, cache := [], zeroNext := true })) 0 (tfId f) 0) f 0 0 := by
  rw [unfenceElement, elementFenced_of_eq hkind hrun, if_neg (by decide), if_pos hkind]

theorem selftestElement_of_fenced : selftestElement s f = testBegin s f := by
  rw [selftestElement, elementFenced_of_eq hkind hrun]
  rfl

theorem spallElement_of_fenced : spallElement s f =
    if wouldSplit s (tfId f) then testAnswer { s with trust := { s.trust with moduleFailed := true } } f 4 0
    else testBegin { s with
      detourAvoid := s.detourAvoid.filter (· != tfId f) ++ [tfId f], detourGen := s.detourGen + 1 } f := by
  have hchan : tfKind f ≠ 1 := by
    rw [hkind]
    decide
  rw [spallElement, elementFenced_of_eq hkind hrun, if_neg (by decide), if_neg hchan]

end

theorem restoreElement_of_spalled (hrun : (s.tile (tfId f)).run = .spalled) :
    restoreElement s f = testAnswer (restoreTile s (tfId f)) f 0 0 := by
  rw [restoreElement, elementSpalled_tile hkind, hrun, hkind]
  rfl

theorem fenceElement_of_spalled (hrun : (s.tile (tfId f)).run = .spalled) : fenceElement s f = testAnswer s f 2 0 := by
  have hne : (s.tile (tfId f)).run ≠ .fenced := by
    rw [hrun]
    decide
  have hyes : elementSpalled s (tfKind f) (tfId f) = true := by
    rw [elementSpalled_tile hkind, hrun]
    rfl
  rw [fenceElement, elementFenced_of_ne hkind hne, if_neg Bool.false_ne_true, hyes, if_pos rfl]

end

/-! ### Events -/

section

variable {t rate : Nat}

theorem execTileFenceEffect_of_free (hp : (s.tile t).fencePending = true) (hh : s.tileHeld t = false) :
    execTileFenceEffect t s = .next (tileFenced s t) := by
  refine congrArg Host.Outcome.next (if_pos ?_)
  rw [hp, hh]
  rfl

/-- R403: the entry of a tile falls to `v`. -/
def derate (s : State) (t v : Nat) : State :=
  storePut ((s.modPower (fun p => { p with tsm := tset (v, true) p.tsm (t * 16 + s.time.curVp) })).bump 0x20040 0 1)
    secSpeed [(t * 16 + s.time.curVp, speedWord v true)]

theorem derate_kept (s : State) (t v : Nat) : Kept [.power, .regs, .trust] s (derate s t v) :=
  (((Kept.set_power s _).weaken (by decide)).step (State.bump_kept ..) (by decide)).step (storePut_kept ..) (by decide)

theorem replicaSample_of_lower (ht : t < tileCount) (hrun : (s.tile t).run ≠ .spalled)
    (hlow : 97 * rate < 100 * s.speedEntry t s.time.curVp) {s1 : State} (hs1 : s1 = derate s t (97 * rate / 100)) :
    replicaSample s t rate =
      if floorRate s.time.curVp ≤ 97 * rate / 100 ∨ (s.tile t).run = .fenced ∨
        s.tests.any (fun c => c.kind == 0 && c.id == t) then s1
      else tileFence { s1 with tests := s1.tests ++
        [{ op := 1, kind := 0, id := t, tag := 0, depth := false, auto := true }] } t := by
  have hkept := derate_kept s t (97 * rate / 100)
  rw [← hkept.tile_eq rfl t, ← hkept.unchanged .tests rfl]
  subst hs1
  have hno : ¬(tileCount ≤ t ∨ 100 * s.speedEntry t s.time.curVp ≤ 97 * rate ∨ (s.tile t).run = .spalled) := by
    rintro (h | h | h)
    · omega
    · omega
    · exact hrun h
  rw [replicaSample, if_neg hno]
  rfl

theorem replicaSample_of_same (h : 100 * s.speedEntry t s.time.curVp ≤ 97 * rate) : replicaSample s t rate = s :=
  if_pos (Or.inr (Or.inl h))

end

end

/-- Settles O39: every operation passes the same checks (`testRequest`), then acts by the state of its element. -/
theorem testAccessCompletes : Obligations.TestAccessCompletes := by
  refine ⟨testRow_of_exec (by decide) (by decide) fun _ _ => rfl, testRow_of_exec (by decide) (by decide) fun _ _ => rfl,
    testRow_of_exec (by decide) (by decide) fun _ _ => rfl, testRow_of_exec (by decide) (by decide) fun _ _ => rfl,
    testRow_of_exec (by decide) (by decide) fun _ _ => rfl,
    fun s f htakes hop => completes_of_exec rfl (testRequest_of_reserved htakes hop),
    fun s f hkind hf hs => ⟨fenceElement_of_ne hkind hf hs, unfenceElement_of_ne hkind hf, selftestElement_of_ne hkind hf,
      spallElement_of_ne hkind hf, restoreElement_of_ne hkind hs⟩,
    fun s f hkind hf => ⟨fenceElement_of_fenced hkind hf, unfenceElement_of_fenced hkind hf,
      selftestElement_of_fenced hkind hf, fun hsplit => (spallElement_of_fenced hkind hf).trans (if_pos hsplit),
      fun hsplit => (spallElement_of_fenced hkind hf).trans (if_neg (Bool.eq_false_iff.1 hsplit))⟩,
    fun s f hkind hs => ⟨fenceElement_of_spalled hkind hs, restoreElement_of_spalled hkind hs⟩,
    fun s t hp hh => completes_of_exec (execTileFenceEffect_of_free hp hh) rfl,
    fun s k id res rate ber sweep rb c hc => ?selftest, fun s t h => completes_of_exec rfl (if_pos h),
    fun s t rate ht hrun hlow => ⟨fun hv => ?derated, fun hv hf hfree => ?fenced⟩,
    fun s t rate h => completes_of_exec rfl (replicaSample_of_same h)⟩
  case selftest =>
    refine completes_of_exec rfl ?_
    rw [selftestEnd, hc]
  case derated =>
    refine completes_of_exec rfl ?_
    rw [replicaSample_of_lower ht hrun hlow rfl, if_pos (Or.inl hv)]
    rfl
  case fenced =>
    refine completes_of_exec rfl ?_
    rw [replicaSample_of_lower ht hrun hlow rfl, if_neg (by simp [hf, hfree, Nat.not_le.2 hv])]
    rfl

end Sys2Proof.Machine

/-! SUPPORT. Boot and resets (R420, R430), the retained store (R427), the watchdog (R431), the management session (R432)
and the services of the KRT (R421 to R423). -/

namespace Sys2Proof.Machine

section

variable {s : State}

/-! ### Boot and resets (R420, R430) -/

/-- R420 E4 to E6: what boot has done before the optics start. -/
def bootLocked (s : State) (train : State → State) (b : Bool) : State :=
  let s := s.modTrust (fun t => { t with slot := b, altSlot := b != t.preferB })
  let s := restoreConfig (restorePoints (restoreSpeeds (train (measureBoot s))))
  let s := { s with mail := bindTable s.trust }
  s.modTrust (fun t => { t with stage := 6, bindLocked := true, cmcState := 0, cmcFailed := false, wdtAt := s.now })

theorem bootOn_of_slot {train : State → State} {b : Bool} (h : bootSlot s.trust = some b) :
    bootOn s train = startPorts (bootLocked s train b) := by
  rw [bootOn, h]
  rfl

theorem bootOn_of_none {train : State → State} (h : bootSlot s.trust = none) : bootOn s train = recovery s := by
  rw [bootOn, h]

theorem bootOn_trust_of_slot {train : State → State} {b : Bool} (h : bootSlot s.trust = some b) :
    (bootOn s train).trust = (bootLocked s train b).trust := by
  rw [bootOn_of_slot h]
  exact (startPorts_kept _).unchanged .trust rfl

theorem bootOn_stage {train : State → State} (hlock : s.trust.bindLocked = false) :
    (bootOn s train).trust.stage = if (bootOn s train).trust.bindLocked then 6 else 7 := by
  cases h : bootSlot s.trust with
  | some b =>
    rw [bootOn_trust_of_slot h]
    rfl
  | none =>
    rw [bootOn_of_none h]
    show 7 = if s.trust.bindLocked then 6 else 7
    rw [hlock]
    rfl

/-- R420: a module that has power, before its boot. -/
def poweredOn (s : State) (puf0 puf1 half0 half1 sigA sigB : Bool) : State :=
  let s := powerUp s
  let id := puf0 || puf1
  let valid := id && (if s.trust.half then half1 else half0)
  let s := s.modTrust (fun t => { t with
    identityLost := !id, helperCopy := !puf0 && puf1, sigA := sigA, sigB := sigB, storeValid := valid,
    factoryDefaults := !valid, rebuilding := !valid, committed := if valid then t.committed else [],
    replayCut := valid && t.replayCut })
  restoreLife (s.modTrust restoreTrust)

theorem State.undefine_trust (s : State) (a n : Nat) : (s.undefine a n).trust = s.trust :=
  (State.undefine_kept s a n).unchanged .trust rfl

theorem powerUp_unlocked (s : State) : (powerUp s).trust.bindLocked = false := by
  rw [powerUp, State.undefine_trust]
  rfl

theorem poweredOn_unlocked (p0 p1 h0 h1 sa sb : Bool) : (poweredOn s p0 p1 h0 h1 sa sb).trust.bindLocked = false :=
  powerUp_unlocked s

theorem coldReset_eq (p0 p1 h0 h1 sa sb : Bool) (bad : List (Nat × List Nat)) :
    coldReset s p0 p1 h0 h1 sa sb bad = bootOn (poweredOn s p0 p1 h0 h1 sa sb) (fun s => trainAllCold s bad) := rfl

theorem coldReset_stage (p0 p1 h0 h1 sa sb : Bool) (bad : List (Nat × List Nat)) :
    (coldReset s p0 p1 h0 h1 sa sb bad).trust.stage =
      if (coldReset s p0 p1 h0 h1 sa sb bad).trust.bindLocked then 6 else 7 := by
  rw [coldReset_eq]
  exact bootOn_stage (poweredOn_unlocked ..)

theorem tget_map_snd {α : Type} {f : α → α} {d : α} (hd : f d = d) (l : List (Nat × α)) (k : Nat) :
    tget d (l.map (fun e => (e.1, f e.2))) k = f (tget d l k) := by
  induction l with
  | nil => exact hd.symm
  | cons e l ih =>
    simp only [List.map_cons, tget]
    split
    · rfl
    · exact ih

/-- R430, R451: a context whose function is disabled. -/
def fnOff (c : Ctx) : Ctx := { c with fnEn := false }

/-- R430: PCIe configuration state after a reset of the host port. -/
def fnsOff (s : State) : State := { s with ctxs := s.ctxs.map (fun c => (c.1, fnOff c.2)), msix := [] }

theorem fnsOff_ctx (s : State) (n : Nat) : (fnsOff s).ctx n = { s.ctx n with fnEn := false } :=
  tget_map_snd (f := fnOff) rfl _ n

theorem hostPortReset_ctx (s : State) (n : Nat) :
    (hostPortReset s).ctx n = { ((List.range 64).foldl ctxReset s).ctx n with fnEn := false } := by
  rw [← fnsOff_ctx]
  rfl

/-! ### The retained store (R426, R427) -/

section

variable {r : StoreRec} {rest : List StoreRec}

theorem startCommit_of_queue (hq : s.trust.queue = r :: rest) (hw : s.trust.writing = none) (hst : 6 ≤ s.trust.stage)
    (hd : s.trust.deferred = false) (h5 : s.power.stage5 = false) :
    startCommit s = if holdupAllows s 60 then
      { s with trust := { s.trust with queue := rest, writing := some r, busy := true } }
      else deferStore { s with trust := { s.trust with deferred := true } } := by
  rw [startCommit, hq]
  exact if_neg (by simp [hw, hd, h5, hst])

theorem execStoreCompact_of_full (hw : s.trust.writing = none) (hc : s.trust.compacting = false) (hst : 6 ≤ s.trust.stage)
    (hfree : s.trust.free < 0x100000) (hd : s.trust.deferred = false) (h5 : s.power.stage5 = false)
    (hhold : holdupAllows s 60 = true) : execStoreCompact s =
      .next { s with trust := { s.trust with writing := some snapshotRec, busy := true, compacting := true } } := by
  rw [execStoreCompact, if_neg (by simp [hw, hc, hd, h5, hst, hfree]), if_pos hhold]
  rfl

/-- R427: the record is committed. -/
def recordKept (s : State) (r : StoreRec) : State := { s with trust := { s.trust with
  writing := none, busy := false, storeGen := s.trust.storeGen + 1, free := s.trust.free - r.bytes,
  committed := s.trust.committed ++ [r] } }

/-- R427: the new half rules. -/
def halfTurned (s : State) : State := { s.draw.2 with trust := { s.trust with
  writing := none, busy := false, compacting := false, half := !s.trust.half, storeGen := s.trust.storeGen + 8,
  free := 0x100000 + Config.freeNat s.draw.1 % 0x700000 } }

theorem recordDone_of_writing {bad : List (Nat × List Nat)} {t : State} (hw : s.trust.writing = some r)
    (ht : t = if r.section_ = 0xFF then halfTurned s else recordKept s r) :
    recordDone s bad = if t.trust.warmPending then warmReset t bad else t := by
  subst ht
  rw [recordDone, hw]
  rfl

theorem recordDone_of_record {bad : List (Nat × List Nat)} (hw : s.trust.writing = some r) (hr : r.section_ ≠ 0xFF) :
    recordDone s bad = if s.trust.warmPending then warmReset (recordKept s r) bad else recordKept s r :=
  recordDone_of_writing hw (if_neg hr).symm

theorem recordDone_of_snapshot {bad : List (Nat × List Nat)} (hw : s.trust.writing = some r) (hr : r.section_ = 0xFF)
    (hwarm : s.trust.warmPending = false) : recordDone s bad = halfTurned s :=
  (recordDone_of_writing hw (if_pos hr).symm).trans (if_neg (by
    show ¬s.trust.warmPending = true
    rw [hwarm]
    exact Bool.false_ne_true))

end

theorem execRemeasureDone_of_plain {es : List (Nat × Nat × Nat)} {d : List (Nat × Nat)} {old : Tbl (Nat × Bool)}
    (hd : d = es.map (fun e => (e.1 * 16 + e.2.1, e.2.2 % 65536)))
    (hold : old = s.power.tsm.map (fun e => (e.1, (e.2.1, false))))
    (hre : s.power.remeasuring = true) (hb : s.trust.rebuilding = false) :
    execRemeasureDone es s = .next (storePut { s with power := { s.power with
      remeasuring := false, tsm := d.foldl (fun m x => tset (x.2, false) m x.1) old } } secSpeed d) := by
  subst hd hold
  rw [execRemeasureDone]
  simp only [hre, hb, Bool.not_true, Bool.false_and, Bool.false_eq_true, if_false]
  refine congrArg Host.Outcome.next (if_neg ?_)
  show ¬s.trust.rebuilding = true
  rw [hb]
  exact Bool.false_ne_true

/-! ### The session (R432) -/

theorem execMgmtHandshake_of_peer {h : List Byte} (hid : s.trust.identityLost = false) (hst : s.trust.stage = 6)
    (hcmc : s.trust.cmcState = 0) (hpeer : s.trust.peers.contains h = true) : execMgmtHandshake h s =
      .next (mbPumpAll { s with mgmt := { s.mgmt with up := true, peer := h, lastAt := s.now } } 0x82) := by
  rw [execMgmtHandshake, hid, hst, hcmc, hpeer]
  rfl

theorem execMgmtSessionIdleTimeout_of_idle (hup : s.mgmt.up = true) (hidle : 10000000000 + s.mgmt.lastAt ≤ s.now) :
    execMgmtSessionIdleTimeout s = .next (mbPumpAll { s with mgmt := { s.mgmt with up := false } } 0x82) := by
  refine congrArg Host.Outcome.next (if_pos ?_)
  rw [hup, decide_eq_true hidle]
  rfl

end

/-- Settles O40: boot ends in stage 6 with the binding locked, or in recovery; the other rows by the branch of their guard. -/
theorem controllerRowsComplete : Obligations.ControllerRowsComplete := by
  refine ⟨fun s p0 p1 h0 h1 sa sb bad => completes_of_exec rfl ⟨rfl, coldReset_stage ..⟩, fun s train b h => ?slot,
    fun s train h => ?recovery, fun s => completes_of_exec rfl ⟨rfl, ?port, hostPortReset_ctx s⟩,
    fun s r rest hq hw hst hd h5 => ⟨fun hh => ?commit, fun hh => ?postpone⟩,
    fun s hw hc hst hfree hd h5 hh => completes_of_exec (execStoreCompact_of_full hw hc hst hfree hd h5 hh) rfl,
    fun s r bad hw hwarm => ⟨fun hr => ?record, fun hr => ?snapshot⟩, fun s r bad hw hwarm hr => ?warm,
    fun s => completes_of_exec rfl rfl,
    fun s es hre hb => completes_of_exec (execRemeasureDone_of_plain rfl rfl hre hb) rfl,
    fun s hst hf hat => completes_of_exec rfl (if_pos ⟨hst, hf, hat⟩),
    fun s h hid hst hcmc hpeer => completes_of_exec (execMgmtHandshake_of_peer hid hst hcmc hpeer) rfl,
    fun s hup hidle => completes_of_exec (execMgmtSessionIdleTimeout_of_idle hup hidle) rfl⟩
  case slot =>
    show (bootOn s train).trust.stage = 6 ∧ (bootOn s train).trust.bindLocked = true ∧ (bootOn s train).trust.cmcState = 0
    rw [bootOn_trust_of_slot h]
    exact ⟨rfl, rfl, rfl⟩
  case recovery =>
    show (bootOn s train).trust.stage = 7 ∧ (bootOn s train).trust.bindLocked = s.trust.bindLocked ∧
      s.sameBut (bootOn s train) [.mail, .trust]
    rw [bootOn_of_none h]
    exact ⟨rfl, rfl, (recovery_kept s).same⟩
  case port => exact fun p => by cases p <;> simp [Part.same, hostPortReset]
  case commit => exact completes_of_exec rfl ((startCommit_of_queue hq hw hst hd h5).trans (if_pos hh))
  case postpone =>
    exact completes_of_exec rfl ((startCommit_of_queue hq hw hst hd h5).trans (if_neg (Bool.eq_false_iff.1 hh)))
  case record =>
    exact completes_of_exec rfl ((recordDone_of_record hw hr).trans (if_neg (Bool.eq_false_iff.1 hwarm)))
  case snapshot =>
    refine completes_of_exec (congrArg Host.Outcome.next (recordDone_of_snapshot hw hr hwarm)) ?_
    exact ⟨rfl, rfl, rfl, rfl, Nat.le_add_right .., rfl, fun p => by cases p <;> simp [Part.same, halfTurned, State.draw]⟩
  case warm => exact completes_of_exec rfl ((recordDone_of_record hw hr).trans (if_pos hwarm))

end Sys2Proof.Machine

/-! SUPPORT. The services of the KRT (R421 to R423). -/

namespace Sys2Proof.Machine

section

variable {s : State} {ch op : Nat} {p : List Byte}

theorem krtRun_of_at {takes : Nat → Bool} {k : State → List Byte → (Nat × Nat) × State} {r : (Nat × Nat) × State}
    (h : krtAt s ch op p) (htakes : takes op = true) (hr : k s p = r) :
    krtRun s ch takes k = krtAnswer s r.2 ch op r.1.1 r.1.2 := by
  obtain ⟨hreq, hop, hst⟩ := h
  rw [krtRun, hreq]
  simp only [hop, htakes, hst, Bool.not_false, Bool.and_self, if_true, hr]

/-! ### ATTEST (R422, R423) -/

/-- R422: the answer to ATTEST, or to an OP of no request. -/
def krtAttestOf (s : State) (ch : Nat) (p : List Byte) : (Nat × Nat) × State :=
  if fld p 1 1 ≠ 1 then ((4, 0), s)
  else if s.trust.identityLost then ((2, 0), s)
  else krtWrite s.draw.2 ch p (report s.draw.2 (slice p 12 32) s.draw.1)

theorem execKrtAttest_of_at {r : (Nat × Nat) × State} (h : krtAt s ch op p) (hop : op < 2 ∨ 5 < op)
    (hr : krtAttestOf s ch p = r) : execKrtAttest ch s = .next (krtAnswer s r.2 ch op r.1.1 r.1.2) :=
  congrArg Host.Outcome.next (krtRun_of_at h (by simpa using hop) hr)

theorem krtAttestOf_of_lost (h : krtAt s ch 1 p) (hid : s.trust.identityLost = true) :
    krtAttestOf s ch p = ((2, 0), s) := by
  obtain ⟨-, hop, -⟩ := h
  rw [krtAttestOf, if_neg (not_not_intro hop), if_pos hid]

theorem krtAttestOf_of_known (h : krtAt s ch 1 p) (hid : s.trust.identityLost = false) :
    krtAttestOf s ch p = krtWrite s.draw.2 ch p (report s.draw.2 (slice p 12 32) s.draw.1) := by
  obtain ⟨-, hop, -⟩ := h
  rw [krtAttestOf, if_neg (not_not_intro hop), hid, if_neg Bool.false_ne_true]

theorem krtAttestOf_of_reserved (h : krtAt s ch op p) (hop : op = 0 ∨ 5 < op) : krtAttestOf s ch p = ((4, 0), s) := by
  obtain ⟨-, hfld, -⟩ := h
  exact if_pos (by omega)

/-! ### EXTEND, PEER_ADD and PEER_DEL (R421, R422) -/

section

variable {d : List Byte} {s1 : State}

theorem execKrtExtend_of_refused (h : krtAt s ch 2 p) (hno : krtAllowed s ch = false ∨ fld p 2 1 < 4 ∨ 7 < fld p 2 1) :
    execKrtExtend ch s = .next (krtAnswer s s ch 2 3 0) :=
  congrArg Host.Outcome.next (krtRun_of_at (r := ((3, 0), s)) h rfl (if_pos (by simpa [or_assoc] using hno)))

theorem execKrtExtend_of_digest (h : krtAt s ch 2 p) (hok : krtAllowed s ch = true) (hlo : 4 ≤ fld p 2 1)
    (hhi : fld p 2 1 ≤ 7) (hd : krtDigest s ch p = (some d, s1)) :
    execKrtExtend ch s = .next (krtAnswer s (extendMeas s1 (fld p 2 1) d) ch 2 0 0) := by
  refine congrArg Host.Outcome.next (krtRun_of_at (r := ((0, 0), extendMeas s1 (fld p 2 1) d)) h rfl ?_)
  refine (if_neg (by simp [hok, Nat.not_lt.2 hlo, Nat.not_lt.2 hhi])).trans ?_
  rw [hd]

/-- R422: the answer to PEER_ADD once its bytes are read. -/
def krtPeerAdded (s : State) (d : List Byte) : (Nat × Nat) × State :=
  if s.trust.peers.contains d then ((0, 0), s)
  else if 8 ≤ s.trust.peers.length then ((5, 0), s)
  else ((0, 0), putSecurity { s with trust := { s.trust with peers := s.trust.peers ++ [d] } })

theorem execKrtPeerAdd_of_digest {r : (Nat × Nat) × State} (h : krtAt s ch 4 p) (hok : krtAllowed s ch = true)
    (hd : krtDigest s ch p = (some d, s1)) (hr : krtPeerAdded s1 d = r) :
    execKrtPeerAdd ch s = .next (krtAnswer s r.2 ch 4 r.1.1 r.1.2) := by
  refine congrArg Host.Outcome.next (krtRun_of_at h rfl (.trans ?_ hr))
  rw [hok, if_neg (by decide), hd]
  rfl

theorem krtPeerAdded_of_known (hin : s1.trust.peers.contains d = true) : krtPeerAdded s1 d = ((0, 0), s1) := if_pos hin

theorem krtPeerAdded_of_full (hin : s1.trust.peers.contains d = false) (hn : 8 ≤ s1.trust.peers.length) :
    krtPeerAdded s1 d = ((5, 0), s1) := by
  rw [krtPeerAdded, hin, if_neg Bool.false_ne_true, if_pos hn]

theorem krtPeerAdded_of_new (hin : s1.trust.peers.contains d = false) (hn : s1.trust.peers.length < 8) :
    krtPeerAdded s1 d =
      ((0, 0), putSecurity { s1 with trust := { s1.trust with peers := s1.trust.peers ++ [d] } }) := by
  rw [krtPeerAdded, hin, if_neg Bool.false_ne_true, if_neg (Nat.not_le.2 hn)]

theorem execKrtPeerDel_of_digest (h : krtAt s ch 5 p) (hok : krtAllowed s ch = true)
    (hd : krtDigest s ch p = (some d, s1)) (hin : s1.trust.peers.contains d = true) :
    execKrtPeerDel ch s = .next (krtAnswer s (putSecurity { s1 with trust := { s1.trust with
      peers := s1.trust.peers.filter (fun x => x != d) } }) ch 5 0 0) := by
  refine congrArg Host.Outcome.next (krtRun_of_at (r := ((0, 0), putSecurity { s1 with trust := { s1.trust with
    peers := s1.trust.peers.filter (fun x => x != d) } })) h rfl ?_)
  rw [hok, if_neg (by decide), hd]
  exact if_pos hin

theorem execKrtPeerAdd_of_refused (hno : krtAllowed s ch = false) (h : krtAt s ch 4 p) :
    execKrtPeerAdd ch s = .next (krtAnswer s s ch 4 3 0) :=
  congrArg Host.Outcome.next (krtRun_of_at (r := ((3, 0), s)) h rfl (if_pos (by rw [hno]; rfl)))

theorem execKrtPeerDel_of_refused (hno : krtAllowed s ch = false) (h : krtAt s ch 5 p) :
    execKrtPeerDel ch s = .next (krtAnswer s s ch 5 3 0) :=
  congrArg Host.Outcome.next (krtRun_of_at (r := ((3, 0), s)) h rfl (if_pos (by rw [hno]; rfl)))

end

theorem krtAnswer_of_room {s0 : State} {st len c : Nat} (hc : krtReply s ch = some c)
    (hroom : (s.mbox c).queue.length < 16) : krtAnswer s0 s ch op st len =
      (mbSendBy (mbTake s ch) c 0x81 0 1 (leBytes 1 1 ++ leBytes 1 ((op + 0x80) % 256) ++ leBytes 1 st ++ zeros 9 ++
        leBytes 4 len ++ zeros 28)).2 := by
  rw [krtAnswer, hc]
  exact if_neg (Nat.not_le.2 hroom)

end

/-- Settles O41: each service is `krtRun` on its operation, with the status that its case names. -/
theorem krtServicesComplete : Obligations.KrtServicesComplete := by
  refine ⟨fun s ch p h hid => completes_of_exec (execKrtAttest_of_at h (by decide) (krtAttestOf_of_lost h hid)) rfl,
    fun s ch p h hid => completes_of_exec (execKrtAttest_of_at h (by decide) (krtAttestOf_of_known h hid)) rfl,
    fun s ch p op h hop => completes_of_exec (execKrtAttest_of_at h (by omega) (krtAttestOf_of_reserved h hop)) rfl,
    fun s ch p h hno => completes_of_exec (execKrtExtend_of_refused h hno) rfl,
    fun s ch p d s1 h hok hlo hhi hd => completes_of_exec (execKrtExtend_of_digest h hok hlo hhi hd) rfl,
    fun s ch p h => completes_of_exec (congrArg Host.Outcome.next (krtRun_of_at h rfl rfl)) rfl,
    fun s ch p d s1 h hok hd => ⟨fun hin => ?known, fun hin hn => ?full, fun hin hn => ?new⟩,
    fun s ch p d s1 h hok hd hin => completes_of_exec (execKrtPeerDel_of_digest h hok hd hin) rfl,
    fun s ch p hno => ⟨fun h => completes_of_exec (execKrtPeerAdd_of_refused hno h) rfl,
      fun h => completes_of_exec (execKrtPeerDel_of_refused hno h) rfl⟩,
    fun s0 s ch op st len c hc hroom => krtAnswer_of_room hc hroom⟩
  case known => exact completes_of_exec (execKrtPeerAdd_of_digest h hok hd (krtPeerAdded_of_known hin)) rfl
  case full => exact completes_of_exec (execKrtPeerAdd_of_digest h hok hd (krtPeerAdded_of_full hin hn)) rfl
  case new => exact completes_of_exec (execKrtPeerAdd_of_digest h hok hd (krtPeerAdded_of_new hin hn)) rfl

end Sys2Proof.Machine

/-! SUPPORT. Vectors (R450), sums of blocks (R112 to R114), and what power-up leaves (the Reset columns of the map). -/

namespace Sys2Proof.Machine

/-! ### Vectors (R450) -/

section

variable {s : State} {fn v : Nat}

theorem raiseVector_of_unmasked (h : (tget MsixVec.reset s.msix (fn * 32 + v)).masked = false) :
    raiseVector s fn v = { s with msixSent := s.msixSent ++ [(fn, v)] } := by
  rw [raiseVector, h]
  rfl

theorem raiseVector_of_masked (h : (tget MsixVec.reset s.msix (fn * 32 + v)).masked = true) : raiseVector s fn v =
    { s with msix := tset { tget MsixVec.reset s.msix (fn * 32 + v) with pending := true } s.msix (fn * 32 + v) } :=
  if_pos h

end

/-- Settles O57: a masked vector is raised in its table entry alone, from which the unmasking takes it. -/
theorem maskedVectorsWait : Obligations.MaskedVectorsWait := by
  refine fun s fn v _ => ⟨raiseVector_of_unmasked, fun hmask => ?_⟩
  rw [raiseVector_of_masked hmask]
  refine ⟨rfl, fun p => by cases p <;> simp [Part.same],
    completes_of_exec (execMsixUnmask_of_pending rfl rfl (congrArg MsixVec.pending (tget_tset_same ..)))
      ⟨rfl, ?masked, ?pending, fun k hk => ?other⟩⟩
  case masked => exact congrArg MsixVec.masked (tget_tset_same ..)
  case pending => exact congrArg MsixVec.pending (tget_tset_same ..)
  case other => exact (tget_tset_ne _ _ _ hk).trans (tget_tset_ne _ _ _ hk)

/-! ### Reset values -/

/-- Every field of a word has its own reset value in the word's. -/
def WordRow.spellsResets (r : WordRow) : Bool := r.fields.all (fun f => bits r.resetValue f.lsb f.width == f.reset)

theorem blockRows_spellsResets_of_lt : ∀ b < 0x22, (blockRows b).all WordRow.spellsResets = true := by
  decide +kernel

theorem blockRows_of_le {b : Nat} (h : 0x22 ≤ b) : blockRows b = [] := by
  unfold blockRows
  repeat rw [if_neg (by omega)]

theorem spellsResets_of_mem {b : Nat} {r : WordRow} (hr : r ∈ blockRows b) : r.spellsResets = true := by
  by_cases hb : b < 0x22
  · exact List.all_eq_true.1 (blockRows_spellsResets_of_lt b hb) r hr
  · rw [blockRows_of_le (Nat.le_of_not_lt hb)] at hr
    exact absurd hr List.not_mem_nil

theorem wordReset_of_row {off : Nat} {r : WordRow} (h : wordRow off = some r) : wordReset off = r.resetValue := by
  rw [wordReset, h]

theorem bits_reset_reg {off idx : Nat} {r : WordRow} {f : FieldRow} (hr : wordRow off = some r) (hf : f ∈ r.fields) :
    bits (State.reset.reg off idx) f.lsb f.width = f.reset := by
  have hreg : State.reset.reg off idx = r.resetValue := wordReset_of_row hr
  rw [hreg]
  exact beq_iff_eq.1 (List.all_eq_true.1 (spellsResets_of_mem (List.mem_of_find?_eq_some hr)) f hf)

/-- Settles O58: every block of the map spells its fields' resets, and no word is stored at reset. -/
theorem resetLeavesTheMapsValues : Obligations.ResetLeavesTheMapsValues :=
  ⟨fun _ _ hr _ _ hf => bits_reset_reg hr hf, rfl, rfl, fun _ => rfl, fun _ => ⟨rfl, rfl⟩, rfl, rfl, rfl, rfl, rfl,
    fun _ => rfl, fun _ _ => ⟨rfl, rfl⟩, fun _ => rfl, fun _ _ => rfl, fun _ => rfl⟩

/-! ### Sums of blocks (R112 to R114) -/

section

variable {n : Nat} {bs cs : List (List Int)} {a b : List Int}

theorem length_addInts (ha : a.length = n) (hb : b.length = n) : (addInts a b).length = n := by
  rw [addInts, List.length_zipWith, ha, hb, Nat.min_self]

theorem getD_addInts (ha : a.length = n) (hb : b.length = n) {k : Nat} (hk : k < n) :
    (addInts a b).getD k 0 = a.getD k 0 + b.getD k 0 := by
  rw [List.getD_eq_getElem _ _ (by rwa [length_addInts ha hb]), List.getD_eq_getElem _ _ (by rwa [ha]),
    List.getD_eq_getElem _ _ (by rwa [hb])]
  exact List.getElem_zipWith

theorem eq_of_getD {α : Type} {d : α} {a b : List α} (ha : a.length = n) (hb : b.length = n)
    (h : ∀ k < n, a.getD k d = b.getD k d) : a = b := by
  refine List.ext_getElem (ha.trans hb.symm) fun k hk hk' => ?_
  rw [← List.getD_eq_getElem a d hk, ← List.getD_eq_getElem b d hk']
  exact h k (ha ▸ hk)

/-- The blocks added to a block of `n` elements: its length, and each element. -/
theorem foldl_addInts (hbs : ∀ b ∈ bs, b.length = n) (ha : a.length = n) : (bs.foldl addInts a).length = n ∧
    ∀ k < n, (bs.foldl addInts a).getD k 0 = a.getD k 0 + (bs.map (fun b => b.getD k 0)).sum := by
  induction bs generalizing a with
  | nil => exact ⟨ha, fun k _ => (Int.add_zero _).symm⟩
  | cons b bs ih =>
    have hb := hbs b List.mem_cons_self
    obtain ⟨hlen, hget⟩ := ih (fun x hx => hbs x (List.mem_cons_of_mem _ hx)) (length_addInts ha hb)
    refine ⟨hlen, fun k hk => (hget k hk).trans ?_⟩
    rw [getD_addInts ha hb hk, List.map_cons, List.sum_cons, Int.add_assoc]

theorem length_sumBlocks (hbs : ∀ b ∈ bs, b.length = n) : (sumBlocks n bs).length = n :=
  (foldl_addInts hbs List.length_replicate).1

theorem getD_sumBlocks (hbs : ∀ b ∈ bs, b.length = n) {k : Nat} (hk : k < n) :
    (sumBlocks n bs).getD k 0 = (bs.map (fun b => b.getD k 0)).sum := by
  rw [sumBlocks, (foldl_addInts hbs List.length_replicate).2 k hk]
  simp

theorem sumBlocks_perm (hbs : ∀ b ∈ bs, b.length = n) (h : bs.Perm cs) : sumBlocks n cs = sumBlocks n bs := by
  have hcs : ∀ c ∈ cs, c.length = n := fun c hc => hbs c (h.mem_iff.2 hc)
  refine eq_of_getD (d := 0) (length_sumBlocks hcs) (length_sumBlocks hbs) fun k hk => ?_
  rw [getD_sumBlocks hcs hk, getD_sumBlocks hbs hk]
  exact (h.map _).sum_eq.symm

theorem sumBlocks_append (hbs : ∀ b ∈ bs, b.length = n) (hcs : ∀ c ∈ cs, c.length = n) :
    sumBlocks n (bs ++ cs) = addInts (sumBlocks n bs) (sumBlocks n cs) := by
  have hall : ∀ x ∈ bs ++ cs, x.length = n := fun x hx => (List.mem_append.1 hx).elim (hbs x) (hcs x)
  have hlb := length_sumBlocks hbs
  have hlc := length_sumBlocks hcs
  refine eq_of_getD (d := 0) (length_sumBlocks hall) (length_addInts hlb hlc) fun k hk => ?_
  rw [getD_sumBlocks hall hk, getD_addInts hlb hlc hk, getD_sumBlocks hbs hk, getD_sumBlocks hcs hk, List.map_append,
    List.sum_append]

end

/-- Settles O56: each element of a sum is the sum of that element of the blocks. -/
theorem blockSumsIgnoreOrder : Obligations.BlockSumsIgnoreOrder :=
  fun _ _ _ hbs => ⟨sumBlocks_perm hbs, sumBlocks_append hbs, fun _ hk => getD_sumBlocks hbs hk⟩

end Sys2Proof.Machine

/-! SUPPORT. Which bytes a write of an agent changes (R24, R27, R179). -/

namespace Sys2Proof.Machine

section

variable {s : State} {ctx a : Nat} {bs : List Byte} {bad : List Nat} {e : Nat}

/-! ### One request -/

/-- R179: a codeword that a write covers in part is decoded, after those of `acc`. -/
def partDecoded (acc : List Nat × State) (c : Nat) : List Nat × State :=
  (acc.1 ++ (acc.2.decodeClean (32 * c) 32).1, (acc.2.decodeClean (32 * c) 32).2)

theorem partsDecoded_mem (l : List Nat) (acc : List Nat × State) : (l.foldl partDecoded acc).2.mem = acc.2.mem := by
  induction l generalizing acc with
  | nil => rfl
  | cons c l ih => exact (ih _).trans ((State.decodeClean_kept ..).unchanged .mem rfl)

theorem State.writeBrick_mem : (s.writeBrick a bs bad).mem = s.mem.writeBytes a bs :=
  congrArg (fun m : Memory => m.writeBytes a bs) (partsDecoded_mem (partWords a bs.length) ([], s))

theorem State.putBytes_mem :
    (s.putBytes ctx a bs bad).mem = s.mem ∨ (s.putBytes ctx a bs bad).mem = s.mem.writeBytes a bs := by
  rw [State.putBytes]
  split
  case h_1 => exact .inr State.writeBrick_mem
  case h_2 => exact .inr rfl
  case h_3 => exact .inl ((postRegs_kept ..).unchanged .mem rfl)
  case h_4 =>
    split
    · exact .inl rfl
    · exact .inl rfl
  case h_5 => exact .inl rfl

theorem State.putBytes_brick (h : addrKind a = .brick) : s.putBytes ctx a bs bad = s.writeBrick a bs bad := by
  rw [State.putBytes, h]

theorem State.putBytes_hostMem : (s.putBytes ctx a bs bad).hostMem = s.hostMem ∨
    (addrKind a = .host ∧ (s.putBytes ctx a bs bad).hostMem = s.hostMem.writeBytes (s.hostAddr ctx a) bs) := by
  rw [State.putBytes]
  split
  case h_1 => exact .inl ((State.writeBrick_kept ..).unchanged .hostMem rfl)
  case h_2 => exact .inl rfl
  case h_3 => exact .inl ((postRegs_kept ..).unchanged .hostMem rfl)
  case h_4 hk =>
    split
    · exact .inl rfl
    · exact .inr ⟨hk, rfl⟩
  case h_5 => exact .inl rfl

theorem hostBase_setCtx {s : State} {c : Nat} {x : Ctx} (h : x.hostBase = (s.ctx c).hostBase) (k : Nat) :
    ((s.setCtx c x).ctx k).hostBase = (s.ctx k).hostBase := by
  by_cases hk : k = c
  · rw [hk, State.ctx_setCtx_same, h]
  · rw [State.ctx_setCtx_ne _ _ hk]

theorem hostBase_noteProt (s : State) (ctx page c : Nat) :
    ((s.noteProt ctx page).ctx c).hostBase = (s.ctx c).hostBase := by
  have hread : ∀ a k, (s.decodeClean a 1).2.ctx k = s.ctx k := fun a k => (State.decodeClean_kept ..).ctx_eq rfl k
  rw [State.noteProt]
  split
  · rfl
  · dsimp only
    split
    · rw [hostBase_setCtx (by rw [hread]), hread]
    · rw [hread]

/-- R360: the state in which a request's protection entry has been looked up. -/
def protNoted (s : State) (ctx a : Nat) : State := if addrKind a = .brick then s.noteProt ctx (a / 0x200000) else s

theorem protNoted_kept (s : State) (ctx a : Nat) : Kept [.regs, .errLog, .errOverflow, .ctxs] s (protNoted s ctx a) :=
  .ite (State.noteProt_kept ..) (.refl ..)

theorem hostBase_protNoted (s : State) (ctx a c : Nat) : ((protNoted s ctx a).ctx c).hostBase = (s.ctx c).hostBase := by
  rw [protNoted]
  split
  · exact hostBase_noteProt ..
  · rfl

/-- R202: the state in which a request that its context may make has crossed the mortar. -/
def writeSent (s : State) (ctx a n e : Nat) : State := (protNoted s ctx a).sendFlits e (endOf a) (flitsOf n)

theorem writeSent_kept (s : State) (ctx a n e : Nat) :
    Kept [.regs, .errLog, .errOverflow, .ctxs, .mortar] s (writeSent s ctx a n e) :=
  ((protNoted_kept ..).weaken (by decide)).step (State.sendFlits_kept ..) (by decide)

theorem hostAddr_of_hostBase {t : State} (h : (t.ctx ctx).hostBase = (s.ctx ctx).hostBase) (x : Nat) :
    t.hostAddr ctx x = s.hostAddr ctx x := by
  rw [State.hostAddr, State.hostAddr, h]

theorem hostBase_writeSent (s : State) (ctx a n e c : Nat) :
    ((writeSent s ctx a n e).ctx c).hostBase = (s.ctx c).hostBase :=
  (congrArg Ctx.hostBase ((State.sendFlits_kept ..).ctx_eq rfl c)).trans (hostBase_protNoted ..)

theorem agentWrite_of_reaches (h : s.reaches ctx a bs.length true = true) :
    agentWrite s ctx a bs bad e = (true, (writeSent s ctx a bs.length e).putBytes ctx a bs bad) := if_pos h

theorem agentWrite_of_error (h : s.reaches ctx a bs.length true = false) :
    agentWrite s ctx a bs bad e = (false, (protNoted s ctx a).addrError ctx) := if_neg (Bool.eq_false_iff.1 h)

theorem agentWrite_error_kept : Kept [.regs, .errLog, .errOverflow, .ctxs] s ((protNoted s ctx a).addrError ctx) :=
  (protNoted_kept ..).step (State.addrError_kept ..) (by decide)

theorem agentWrite_mem : (agentWrite s ctx a bs bad e).2.mem = s.mem ∨
    (agentWrite s ctx a bs bad e).2.mem = s.mem.writeBytes a bs := by
  cases h : s.reaches ctx a bs.length true with
  | true =>
    rw [agentWrite_of_reaches h, ← (writeSent_kept s ctx a bs.length e).unchanged .mem rfl]
    exact State.putBytes_mem
  | false =>
    rw [agentWrite_of_error h]
    exact .inl (agentWrite_error_kept.unchanged .mem rfl)

theorem agentWrite_mem_of_brick (hk : addrKind a = .brick) (hok : (agentWrite s ctx a bs bad e).1 = true) :
    (agentWrite s ctx a bs bad e).2.mem = s.mem.writeBytes a bs := by
  cases h : s.reaches ctx a bs.length true with
  | true =>
    rw [agentWrite_of_reaches h, ← (writeSent_kept s ctx a bs.length e).unchanged .mem rfl]
    exact (congrArg State.mem (State.putBytes_brick hk)).trans State.writeBrick_mem
  | false =>
    rw [agentWrite_of_error h] at hok
    exact absurd hok Bool.false_ne_true

theorem agentWrite_hostMem : (agentWrite s ctx a bs bad e).2.hostMem = s.hostMem ∨
    (addrKind a = .host ∧ (agentWrite s ctx a bs bad e).2.hostMem = s.hostMem.writeBytes (s.hostAddr ctx a) bs) := by
  cases h : s.reaches ctx a bs.length true with
  | true =>
    rw [agentWrite_of_reaches h, ← (writeSent_kept s ctx a bs.length e).unchanged .hostMem rfl,
      ← hostAddr_of_hostBase (hostBase_writeSent s ctx a bs.length e ctx) a]
    exact State.putBytes_hostMem
  | false =>
    rw [agentWrite_of_error h]
    exact .inl (agentWrite_error_kept.unchanged .hostMem rfl)

theorem hostBase_agentWrite (c : Nat) : ((agentWrite s ctx a bs bad e).2.ctx c).hostBase = (s.ctx c).hostBase := by
  cases h : s.reaches ctx a bs.length true with
  | true =>
    rw [agentWrite_of_reaches h]
    exact (congrArg Ctx.hostBase ((State.putBytes_kept ..).ctx_eq rfl c)).trans (hostBase_writeSent ..)
  | false =>
    rw [agentWrite_of_error h]
    exact (congrArg Ctx.hostBase ((State.addrError_kept ..).ctx_eq rfl c)).trans (hostBase_protNoted ..)

theorem agentWrite_canon (h : s.Canon) : (agentWrite s ctx a bs bad e).2.Canon := (agentWrite_kept (e := e) ..).canon h

/-! ### All requests of a write -/

theorem length_slice {o n : Nat} (h : o + n ≤ bs.length) : (slice bs o n).length = n := by
  rw [slice, List.length_take, List.length_drop]
  omega

theorem writeAllAux_cons (s : State) (r : List (Nat × Nat)) (o n : Nat) (good : Bool) :
    writeAllAux ((o, n) :: r) s e ctx a bs bad good =
      writeAllAux r (agentWrite s ctx (a + o) (slice bs o n) bad e).2 e ctx a bs bad
        (good && (agentWrite s ctx (a + o) (slice bs o n) bad e).1) := rfl

/-- Bytes of memory that none of the requests names stay. -/
theorem writeAllAux_mem_out {l : List (Nat × Nat)} {x : Nat} {good : Bool} (hs : s.Canon)
    (hin : ∀ r ∈ l, r.1 + r.2 ≤ bs.length) (hout : ∀ r ∈ l, x < a + r.1 ∨ a + r.1 + r.2 ≤ x) :
    (writeAllAux l s e ctx a bs bad good).2.mem.read x = s.mem.read x := by
  induction l generalizing s good with
  | nil => rfl
  | cons r l ih =>
    obtain ⟨o, n⟩ := r
    have hlen := length_slice (hin (o, n) List.mem_cons_self)
    have hx := hout (o, n) List.mem_cons_self
    rw [writeAllAux_cons, ih (agentWrite_canon hs) (fun r hr => hin r (List.mem_cons_of_mem _ hr))
      (fun r hr => hout r (List.mem_cons_of_mem _ hr))]
    rcases agentWrite_mem (s := s) (ctx := ctx) (a := a + o) (bs := slice bs o n) (bad := bad) (e := e) with h | h
    · rw [h]
    · rw [h]
      exact read_writeBytes_out _ _ _ hs.mem.1 (by rw [hlen]; exact hx)

theorem State.hostAddr_add {o n : Nat} (ha : hostBase ≤ a) (hw : s.hostAddr ctx a + n < 2 ^ 64) (ho : o ≤ n) :
    s.hostAddr ctx (a + o) = s.hostAddr ctx a + o := by
  rw [State.hostAddr] at hw ⊢
  rw [State.hostAddr]
  omega

/-- Bytes of host memory outside the window of the whole write stay. -/
theorem writeAllAux_hostMem_out {l : List (Nat × Nat)} {h : Nat} {good : Bool} (hs : s.Canon) (ha : hostBase ≤ a)
    (hw : s.hostAddr ctx a + bs.length < 2 ^ 64) (hin : ∀ r ∈ l, r.1 + r.2 ≤ bs.length)
    (hout : h < s.hostAddr ctx a ∨ s.hostAddr ctx a + bs.length ≤ h) :
    (writeAllAux l s e ctx a bs bad good).2.hostMem.read h = s.hostMem.read h := by
  induction l generalizing s good with
  | nil => rfl
  | cons r l ih =>
    obtain ⟨o, n⟩ := r
    have hin0 := hin (o, n) List.mem_cons_self
    have hlen := length_slice hin0
    have hbase := hostAddr_of_hostBase (hostBase_agentWrite (s := s) (ctx := ctx) (a := a + o) (bs := slice bs o n)
      (bad := bad) (e := e) ctx) a
    rw [writeAllAux_cons, ih (agentWrite_canon hs) (by rw [hbase]; exact hw) (fun r hr => hin r (List.mem_cons_of_mem _ hr))
      (by rw [hbase]; exact hout)]
    rcases agentWrite_hostMem (s := s) (ctx := ctx) (a := a + o) (bs := slice bs o n) (bad := bad) (e := e) with
      hm | ⟨-, hm⟩
    · rw [hm]
    · rw [hm]
      refine read_writeBytes_out _ _ _ hs.mem.2.1 ?_
      rw [hlen, State.hostAddr_add ha hw (Nat.le_trans (Nat.le_add_right o n) hin0)]
      have : o + n ≤ bs.length := hin0
      omega

/-- A write of brick data leaves host memory alone. -/
theorem writeAllAux_hostMem_brick {l : List (Nat × Nat)} {good : Bool} (hk : ∀ r ∈ l, addrKind (a + r.1) = .brick) :
    (writeAllAux l s e ctx a bs bad good).2.hostMem = s.hostMem := by
  induction l generalizing s good with
  | nil => rfl
  | cons r l ih =>
    obtain ⟨o, n⟩ := r
    rw [writeAllAux_cons, ih (fun r hr => hk r (List.mem_cons_of_mem _ hr))]
    refine agentWrite_hostMem.resolve_right fun h => ?_
    exact absurd ((hk (o, n) List.mem_cons_self).symm.trans h.1) (by decide)

theorem writeAllAux_good {l : List (Nat × Nat)} {good : Bool} (h : (writeAllAux l s e ctx a bs bad good).1 = true) :
    good = true := by
  induction l generalizing s good with
  | nil => exact h
  | cons r l ih =>
    rw [writeAllAux_cons] at h
    exact (Bool.and_eq_true_iff.1 (ih h)).1

/-! ### The cut at 512 B (R24) -/

theorem splitReq_succ {fuel b o len : Nat} (hlen : len ≠ 0) {n : Nat}
    (hn : n = min len (min (512 - (a + o) % 512) (512 - (b + o) % 512))) :
    splitReq (fuel + 1) a b o len = (o, n) :: splitReq fuel a b (o + n) (len - n) := by
  subst hn
  exact if_neg hlen

theorem splitReq_within {fuel b o len : Nat} : ∀ r ∈ splitReq fuel a b o len, o ≤ r.1 ∧ r.1 + r.2 ≤ o + len := by
  induction fuel generalizing o len with
  | zero => exact fun r hr => absurd hr List.not_mem_nil
  | succ fuel ih =>
    intro r hr
    by_cases hlen : len = 0
    · rw [splitReq, if_pos hlen] at hr
      exact absurd hr List.not_mem_nil
    · rw [splitReq_succ hlen rfl] at hr
      rcases List.mem_cons.1 hr with rfl | hr
      · exact ⟨Nat.le_refl _, Nat.add_le_add_left (Nat.min_le_left ..) _⟩
      · obtain ⟨hlo, hhi⟩ := ih r hr
        omega

theorem splitReq_pos {fuel b o len : Nat} : ∀ r ∈ splitReq fuel a b o len, 0 < r.2 := by
  induction fuel generalizing o len with
  | zero => exact fun r hr => absurd hr List.not_mem_nil
  | succ fuel ih =>
    intro r hr
    by_cases hlen : len = 0
    · rw [splitReq, if_pos hlen] at hr
      exact absurd hr List.not_mem_nil
    · rw [splitReq_succ hlen rfl] at hr
      rcases List.mem_cons.1 hr with rfl | hr
      · show 0 < min len (min (512 - (a + o) % 512) (512 - (b + o) % 512))
        omega
      · exact ih r hr

theorem getD_slice {o n i : Nat} (h : o + n ≤ bs.length) (hi : i < n) : (slice bs o n).getD i 0 = bs.getD (o + i) 0 := by
  rw [List.getD_eq_getElem _ _ (by rwa [length_slice h]), List.getD_eq_getElem _ _ (by omega)]
  simp [slice]

theorem read_writeBytes_in {m : Memory} (h : m.wf = true) {i : Nat} (hi : i < bs.length) :
    (m.writeBytes a bs).read (a + i) = bs.getD i 0 := by
  have hall := congrArg (fun l : List Byte => l.getD i 0) (readBytes_writeBytes a bs h)
  rw [← hall]
  simp [Memory.readBytes, hi]

/-- A write into brick data that is carried out leaves there every byte written, once enough requests are made. -/
theorem writeAllAux_brick_in {fuel o len : Nat} {good : Bool} (hs : s.Canon) (htop : a + bs.length ≤ brickTop)
    (hcover : o + len = bs.length) (hfuel : len + (a + o) % 512 ≤ 512 * fuel)
    (hok : (writeAllAux (splitReq fuel a a o len) s e ctx a bs bad good).1 = true) :
    ∀ i, o ≤ i → i < bs.length →
      (writeAllAux (splitReq fuel a a o len) s e ctx a bs bad good).2.mem.read (a + i) = bs.getD i 0 := by
  induction fuel generalizing s o len good with
  | zero => intro i hlo hhi; omega
  | succ fuel ih =>
    intro i hlo hhi
    have hlen : len ≠ 0 := by omega
    obtain ⟨n, hn⟩ : ∃ n, n = min len (min (512 - (a + o) % 512) (512 - (a + o) % 512)) := ⟨_, rfl⟩
    rw [splitReq_succ hlen hn, writeAllAux_cons] at hok ⊢
    have hslice : o + n ≤ bs.length := by omega
    by_cases hi : o + n ≤ i
    · exact ih (agentWrite_canon hs) (by omega) (by omega) hok i hi hhi
    · have hbrick : addrKind (a + o) = .brick := if_pos (by omega)
      have hfirst := agentWrite_mem_of_brick hbrick (Bool.and_eq_true_iff.1 (writeAllAux_good hok)).2
      rw [writeAllAux_mem_out (agentWrite_canon hs) (fun r hr => ?within) (fun r hr => ?outside), hfirst]
      case within =>
        obtain ⟨-, hr2⟩ := splitReq_within r hr
        omega
      case outside =>
        obtain ⟨hr1, -⟩ := splitReq_within r hr
        omega
      obtain ⟨j, rfl⟩ : ∃ j, i = o + j := ⟨i - o, by omega⟩
      rw [← Nat.add_assoc, read_writeBytes_in hs.mem.1 (by rw [length_slice hslice]; omega), getD_slice hslice (by omega)]

theorem readBytes_eq {m : Memory} (h : ∀ i < bs.length, m.read (a + i) = bs.getD i 0) : m.readBytes a bs.length = bs := by
  refine List.ext_getElem (by simp [Memory.readBytes]) fun i hi hi' => ?_
  rw [← List.getD_eq_getElem bs 0 hi', ← h i hi']
  simp [Memory.readBytes]

end

/-- Settles O48: each request writes within its own bytes, and the requests cut the whole write into consecutive pieces. -/
theorem agentWritesOnlyItsBytes : Obligations.AgentWritesOnlyItsBytes := by
  intro s ctx a bs bad hs
  have hin : ∀ r ∈ requests a a bs.length, r.1 + r.2 ≤ bs.length := fun r hr => by
    obtain ⟨-, h⟩ := splitReq_within r hr
    omega
  refine ⟨fun x hx => writeAllAux_mem_out hs hin fun r hr => ?out,
    fun ha hw h hout => writeAllAux_hostMem_out hs ha hw hin hout,
    fun htop => ⟨writeAllAux_hostMem_brick fun r hr => ?brick, fun hok => ?kept⟩⟩
  case out =>
    have := hin r hr
    omega
  case brick =>
    have hpos := splitReq_pos r hr
    have := hin r hr
    exact if_pos (by omega)
  case kept =>
    exact readBytes_eq fun i hi => writeAllAux_brick_in hs htop (Nat.zero_add _) (by omega) hok i (Nat.zero_le _) hi

end Sys2Proof.Machine

/-! SUPPORT. The element formats (R85 to R87): what a word means, and that a finite value is written back as it was. -/

namespace Sys2Proof.Machine

section

variable {f : Fmt} {cv : Conv} {r : Rnd} {w E M : Nat}

/-! ### What a word means -/

theorem Fmt.decode_fp32_nan_iff : Fmt.fp32.decode w = .nan ↔ bits w 23 8 = 255 ∧ bits w 0 23 ≠ 0 := by
  have hdec : Fmt.fp32.decode w = if bits w 23 8 == 255 then (if bits w 0 23 = 0 then .inf (bitAt w 31) else .nan)
      else if bits w 23 8 = 0 then .fin (bitAt w 31) (bits w 0 23) Fmt.fp32.emin
      else .fin (bitAt w 31) (2 ^ 23 + bits w 0 23) ((bits w 23 8 : Int) - 1 + Fmt.fp32.emin) := rfl
  rw [hdec]
  by_cases he : bits w 23 8 = 255
  · by_cases hm : bits w 0 23 = 0 <;> simp [he, hm]
  · rw [if_neg (by simpa using he)]
    by_cases h0 : bits w 23 8 = 0 <;> simp [he, h0]

theorem Fmt.one_lt_pow_eb (f : Fmt) : 2 ^ f.eb - 1 ≠ 0 := by
  cases f <;> decide

theorem Fmt.decode_of_zero (h : bits w f.mb f.eb = 0) :
    f.decode w = .fin (bitAt w (f.eb + f.mb)) (bits w 0 f.mb) f.emin := by
  have hne : (0 == 2 ^ f.eb - 1) = false := beq_eq_false_iff_ne.2 (Ne.symm f.one_lt_pow_eb)
  have h15 : ((0 : Nat) == 15) = false := rfl
  simp only [Fmt.decode, h, hne, h15, Bool.and_false, Bool.false_and, Bool.false_eq_true, if_false, if_true]

/-- R85: the exponent and the mantissa spell no infinity and no NaN. -/
def Fmt.spellsNumber (f : Fmt) (E M : Nat) : Prop :=
  (f.hasInf = true → E ≠ 2 ^ f.eb - 1) ∧ (f = .e4m3 → ¬(E = 15 ∧ M = 7))

theorem Fmt.spellsNumber_of_isFin (h : (f.decode w).isFin = true) :
    f.spellsNumber (bits w f.mb f.eb) (bits w 0 f.mb) := by
  refine ⟨fun hinf he => ?_, fun h4 ⟨he, hm⟩ => ?_⟩
  · have hs : (f.hasInf && bits w f.mb f.eb == 2 ^ f.eb - 1) = true := by simp [hinf, he]
    rw [Fmt.decode, if_pos hs] at h
    split at h <;> exact absurd h Bool.false_ne_true
  · subst h4
    rw [Fmt.decode, he, hm] at h
    exact absurd h Bool.false_ne_true

theorem Fmt.decode_of_number (h : f.spellsNumber (bits w f.mb f.eb) (bits w 0 f.mb)) (h0 : bits w f.mb f.eb ≠ 0) :
    f.decode w = .fin (bitAt w (f.eb + f.mb)) (2 ^ f.mb + bits w 0 f.mb) ((bits w f.mb f.eb : Int) - 1 + f.emin) := by
  obtain ⟨hinf, hnan⟩ := h
  have h1 : ¬(f.hasInf && bits w f.mb f.eb == 2 ^ f.eb - 1) = true := by simpa using hinf
  have h2 : ¬(f == .e4m3 && bits w f.mb f.eb == 15 && bits w 0 f.mb == 7) = true := by
    simpa [and_assoc] using hnan
  rw [Fmt.decode, if_neg h1, if_neg h2, if_neg h0]

theorem Fmt.le_maxFinite (hE : E < 2 ^ f.eb) (hM : M < 2 ^ f.mb) (h : f.spellsNumber E M) :
    E * 2 ^ f.mb + M ≤ f.maxFinite := by
  obtain ⟨hinf, hnan⟩ := h
  cases f <;> simp [Fmt.eb, Fmt.mb, Fmt.hasInf, Fmt.maxFinite] at * <;> omega

theorem b2n_testBit (w k : Nat) (h : w < 2 ^ (k + 1)) : b2n (bitAt w k) = w / 2 ^ k := by
  have hlt : w / 2 ^ k < 2 := Nat.div_lt_of_lt_mul (by rwa [Nat.pow_succ] at h)
  obtain ⟨q, hq⟩ : ∃ q, w / 2 ^ k = q := ⟨_, rfl⟩
  rw [bitAt, Nat.testBit_eq_decide_div_mod_eq, hq, b2n]
  rw [hq] at hlt
  interval_cases q <;> rfl

/-- A word is its sign, its exponent and its mantissa. -/
theorem Fmt.word_eq (h : w < 2 ^ f.width) :
    bits w f.mb f.eb * 2 ^ f.mb + bits w 0 f.mb + f.signBit (bitAt w (f.eb + f.mb)) = w := by
  have hsign : w / 2 ^ f.mb / 2 ^ f.eb = b2n (bitAt w (f.eb + f.mb)) := by
    rw [Nat.div_div_eq_div_mul, ← Nat.pow_add, Nat.add_comm f.mb, b2n_testBit]
    rwa [Fmt.width, Nat.add_assoc, Nat.add_comm] at h
  have hhigh : 2 ^ f.eb * (w / 2 ^ f.mb / 2 ^ f.eb) + bits w f.mb f.eb = w / 2 ^ f.mb := Nat.div_add_mod _ _
  have hlow : 2 ^ f.mb * (w / 2 ^ f.mb) + bits w 0 f.mb = w := by
    rw [bits, Nat.pow_zero, Nat.div_one]
    exact Nat.div_add_mod _ _
  rw [hsign] at hhigh
  rw [Fmt.signBit, Nat.pow_add]
  calc _ = 2 ^ f.mb * (2 ^ f.eb * b2n (bitAt w (f.eb + f.mb)) + bits w f.mb f.eb) + bits w 0 f.mb := by ring
    _ = w := by rw [hhigh, hlow]

/-! ### Writing back -/

theorem Fmt.roundMag_of_exact {m : Nat} {e : Int} (h : max ((Nat.log2 m : Int) + e - f.mb) f.emin = e) :
    f.roundMag r m e = (m, e, true) := by
  rw [Fmt.roundMag]
  simp only [h, Int.le_refl, if_true, Int.sub_self, Int.toNat_zero, Nat.pow_zero, Nat.mul_one]

theorem Fmt.encode_zero (s : Bool) (e : Int) : f.encode cv r (.fin s 0 e) = (f.signBit s, 0) := rfl

theorem Fmt.encode_subnormal {s : Bool} (h0 : M ≠ 0) (hM : M < 2 ^ f.mb) :
    f.encode cv r (.fin s M f.emin) = (M + f.signBit s, 0) := by
  have hlog : Nat.log2 M < f.mb := (Nat.log2_lt h0).2 hM
  have hround : f.roundMag r M f.emin = (M, f.emin, true) := Fmt.roundMag_of_exact (by omega)
  rw [Fmt.encode, if_neg h0, hround]
  exact if_pos hM

theorem Fmt.encode_normal {s : Bool} (h0 : E ≠ 0) (hM : M < 2 ^ f.mb) (hmax : E * 2 ^ f.mb + M ≤ f.maxFinite) :
    f.encode cv r (.fin s (2 ^ f.mb + M) ((E : Int) - 1 + f.emin)) = (E * 2 ^ f.mb + M + f.signBit s, 0) := by
  have hm0 : 2 ^ f.mb + M ≠ 0 := by have := Nat.two_pow_pos f.mb; omega
  have hlog : Nat.log2 (2 ^ f.mb + M) = f.mb := by
    refine (Nat.log2_eq_iff hm0).2 ⟨Nat.le_add_right _ _, ?_⟩
    rw [Nat.pow_succ]
    omega
  have hround : f.roundMag r (2 ^ f.mb + M) ((E : Int) - 1 + f.emin) = (2 ^ f.mb + M, (E : Int) - 1 + f.emin, true) :=
    Fmt.roundMag_of_exact (by rw [hlog]; omega)
  have hmag : (((E : Int) - 1 + f.emin - f.emin).toNat + 1) * 2 ^ f.mb + (2 ^ f.mb + M - 2 ^ f.mb) = E * 2 ^ f.mb + M := by
    rw [show ((E : Int) - 1 + f.emin - f.emin).toNat + 1 = E by omega, Nat.add_sub_cancel_left]
  rw [Fmt.encode, if_neg hm0, hround]
  simp only [hmag, if_neg (Nat.not_lt.2 (Nat.le_add_right (2 ^ f.mb) M)), if_neg (Nat.not_lt.2 hmax), if_true]

theorem bits_lt (w lo n : Nat) : bits w lo n < 2 ^ n := Nat.mod_lt _ (Nat.two_pow_pos n)

theorem Fmt.encode_decode (hw : w < 2 ^ f.width) (hfin : (f.decode w).isFin = true) :
    f.encode cv r (f.decode w) = (w, 0) := by
  have hword := Fmt.word_eq hw
  have hnum := Fmt.spellsNumber_of_isFin hfin
  by_cases hE : bits w f.mb f.eb = 0
  · rw [Fmt.decode_of_zero hE]
    rw [hE, Nat.zero_mul, Nat.zero_add] at hword
    by_cases hM : bits w 0 f.mb = 0
    · rw [hM, Fmt.encode_zero]
      rw [hM, Nat.zero_add] at hword
      rw [hword]
    · rw [Fmt.encode_subnormal hM (bits_lt ..), hword]
  · rw [Fmt.decode_of_number hnum hE, Fmt.encode_normal hE (bits_lt ..) (Fmt.le_maxFinite (bits_lt ..) (bits_lt ..) hnum),
      hword]

end

/-- Settles O55: a finite word is its sign, exponent and mantissa, and rounding leaves its magnitude exact. -/
theorem formatsKeepTheirValues : Obligations.FormatsKeepTheirValues :=
  ⟨fun _ _ => ⟨rfl, rfl, rfl, rfl, rfl⟩, fun _ _ => Fmt.decode_fp32_nan_iff,
    fun _ _ _ _ hw hfin => Fmt.encode_decode hw hfin, fun _ _ _ h => Fmt.decode_of_zero h⟩

end Sys2Proof.Machine

/-! SUPPORT. What a context reaches (R24, R359, R360) does not change as an entry of its protection table is looked up. -/

namespace Sys2Proof.Machine

section

variable {s : State} {ctx a n page : Nat}

/-! ### A decoded codeword (R186, R187) -/

theorem Kept.chan_eq {ps : List Part} {s t : State} (h : Kept ps s t) (hp : ps.contains .chans = false)
    (hb : ps.contains .chanBoot = false) (hg : ps.contains .chanGen = false) (c : Nat) : t.chan c = s.chan c := by
  have hboot : t.bootChan c = s.bootChan c := by
    rw [State.bootChan, State.bootChan, h.unchanged .chanBoot hb, h.unchanged .chanGen hg]
    rfl
  rw [State.chan, State.chan, hboot, h.unchanged .chans hp]

theorem logErr_reg (s : State) (ch kind cw o i : Nat) : (logErr s ch kind cw).reg o i = s.reg o i := by
  rw [State.reg, State.reg, (logErr_kept s ch kind cw).unchanged .regs rfl]

theorem noteBad_reg (ch : Nat) (s : State) (cw : Nat) : (noteBad ch s cw).reg 0x1703C 0 = s.reg 0x1703C 0 := by
  rw [noteBad]
  split
  · rw [logErr_reg, State.bump, State.reg_setReg_ne _ _ (regKey_ne_off (by decide))]
  · rw [logErr_reg, State.bump, State.reg_setReg_ne _ _ (regKey_ne_off (by decide))]

theorem decodeClean_reg (s : State) (a n : Nat) : (s.decodeClean a n).2.reg 0x1703C 0 = s.reg 0x1703C 0 := by
  rw [State.decodeClean]
  generalize (if 4 < (s.erased (chanOf a)).length then codewords a n else s.poisonIn a n) = l
  show (l.foldl (noteBad (chanOf a)) s).reg 0x1703C 0 = _
  induction l generalizing s with
  | nil => rfl
  | cons c l ih => exact (ih (noteBad (chanOf a) s c)).trans (noteBad_reg ..)

theorem decodeClean_bad {t : State} (hchan : ∀ c, t.chan c = s.chan c) (hreg : t.reg 0x1703C 0 = s.reg 0x1703C 0)
    (hpoison : t.poison = s.poison) : (t.decodeClean a n).1 = (s.decodeClean a n).1 := by
  have herased : t.erased (chanOf a) = s.erased (chanOf a) := by rw [State.erased, State.erased, hreg, hchan]
  have hin : t.poisonIn a n = s.poisonIn a n := by rw [State.poisonIn, State.poisonIn, hpoison]
  rw [State.decodeClean, State.decodeClean, herased, hin]

/-! ### Reach -/

/-- What a context's reach rests on is the same in both states, its protection cache apart. -/
structure ReachLike (ctx : Nat) (s t : State) : Prop where
  chan : ∀ c, t.chan c = s.chan c
  reg : t.reg 0x1703C 0 = s.reg 0x1703C 0
  poison : t.poison = s.poison
  mem : t.mem = s.mem
  bytes : ∀ k, (t.tile k).scratchBytes = (s.tile k).scratchBytes
  run : ∀ k, (t.tile k).run = (s.tile k).run
  owns : ∀ k, (t.ctx ctx).owns k = (s.ctx ctx).owns k
  inReset : ∀ c, (t.ctx c).inReset = (s.ctx c).inReset
  hostLimit : (t.ctx ctx).hostLimit = (s.ctx ctx).hostLimit
  protBase : (t.ctx ctx).protBase = (s.ctx ctx).protBase
  variant : t.variant = s.variant
  flash : t.flash = s.flash

/-- R360: the entry of a page as the stored table gives it. -/
def State.storedProt (s : State) (c : Ctx) (page : Nat) : Nat :=
  if s.protReadable c page then
    (let v := bits (s.mem.read (c.protAddr page)).toNat (2 * (page % 4)) 2
     if v = 2 then 0 else v)
  else 0

theorem State.protEntry_eq (s : State) (ctx page : Nat) :
    s.protEntry ctx page = (tfind? (s.ctx ctx).protCache page).getD (s.storedProt (s.ctx ctx) page) := by
  rw [State.protEntry]
  cases tfind? (s.ctx ctx).protCache page <;> rfl

theorem ReachLike.storedProt {t : State} (h : ReachLike ctx s t) (page : Nat) :
    t.storedProt (t.ctx ctx) page = s.storedProt (s.ctx ctx) page := by
  have haddr : (t.ctx ctx).protAddr page = (s.ctx ctx).protAddr page := by rw [Ctx.protAddr, Ctx.protAddr, h.protBase]
  rw [State.storedProt, State.storedProt, State.protReadable, State.protReadable, haddr, State.brickOk, State.brickOk,
    h.chan, decodeClean_bad h.chan h.reg h.poison, h.mem]

/-- Contexts that share what reach rests on, and whose entries agree, reach the same. -/
theorem ReachLike.reaches {t : State} (h : ReachLike ctx s t) (hprot : ∀ page, t.protEntry ctx page = s.protEntry ctx page)
    (a n : Nat) (wr : Bool) : t.reaches ctx a n wr = s.reaches ctx a n wr := by
  have hoff : ∀ m off, t.domainOff m off = s.domainOff m off := fun m off => by
    rw [State.domainOff, State.domainOff]
    simp only [h.inReset, h.variant, h.flash]
  simp only [State.reaches, State.brickOk, State.granted, h.chan, hprot, h.owns, h.bytes, h.run, hoff, h.hostLimit]

/-- States that agree in all but hods, registers and the mortar reach the same. -/
theorem ReachLike.of_ctxs {t : State} (hctxs : t.ctxs = s.ctxs) (hchan : ∀ c, t.chan c = s.chan c)
    (hreg : t.reg 0x1703C 0 = s.reg 0x1703C 0) (hpoison : t.poison = s.poison) (hmem : t.mem = s.mem)
    (hbytes : ∀ k, (t.tile k).scratchBytes = (s.tile k).scratchBytes) (hrun : ∀ k, (t.tile k).run = (s.tile k).run)
    (hvariant : t.variant = s.variant) (hflash : t.flash = s.flash) : ReachLike ctx s t := by
  have hctx : ∀ c, t.ctx c = s.ctx c := fun c => by rw [State.ctx, State.ctx, hctxs]
  exact ⟨hchan, hreg, hpoison, hmem, hbytes, hrun, fun k => by rw [hctx], fun c => by rw [hctx], by rw [hctx],
    by rw [hctx], hvariant, hflash⟩

theorem ReachLike.decodeClean (s : State) (ctx a n : Nat) : ReachLike ctx s (s.decodeClean a n).2 := by
  have hk : Kept [.regs, .errLog, .errOverflow] s (s.decodeClean a n).2 := State.decodeClean_kept ..
  exact .of_ctxs (hk.unchanged .ctxs rfl) (hk.chan_eq rfl rfl rfl) (decodeClean_reg ..) (hk.unchanged .poison rfl)
    (hk.unchanged .mem rfl) (fun k => by rw [hk.tile_eq rfl k]) (fun k => by rw [hk.tile_eq rfl k])
    (hk.unchanged .variant rfl) (hk.unchanged .flash rfl)

theorem ReachLike.protEntry_of_cache {t : State} (h : ReachLike ctx s t)
    (hc : (t.ctx ctx).protCache = (s.ctx ctx).protCache) (page : Nat) : t.protEntry ctx page = s.protEntry ctx page := by
  rw [State.protEntry_eq, State.protEntry_eq, hc, h.storedProt]

/-- R360: a context with one more entry of its table cached. -/
def protCached (s : State) (ctx page v : Nat) : State :=
  s.setCtx ctx { s.ctx ctx with protCache := tset v (s.ctx ctx).protCache page }

theorem ctx_protCached (s : State) (ctx page v : Nat) : (protCached s ctx page v).ctx ctx =
    { s.ctx ctx with protCache := tset v (s.ctx ctx).protCache page } := State.ctx_setCtx_same ..

theorem ReachLike.protCached (s : State) (ctx page v : Nat) : ReachLike ctx s (protCached s ctx page v) := by
  refine ⟨fun _ => rfl, rfl, rfl, rfl, fun _ => rfl, fun _ => rfl, fun k => ?_, fun c => ?_, ?_, ?_, rfl, rfl⟩
  · rw [ctx_protCached]
    rfl
  · by_cases hc : c = ctx
    · rw [hc, ctx_protCached]
    · rw [Machine.protCached, State.ctx_setCtx_ne _ _ hc]
  · rw [ctx_protCached]
  · rw [ctx_protCached]

/-- R360: caching the entry in force changes no entry. -/
theorem protEntry_protCached {v : Nat} (hv : v = s.protEntry ctx page) (p : Nat) :
    (protCached s ctx page v).protEntry ctx p = s.protEntry ctx p := by
  rw [State.protEntry_eq, (ReachLike.protCached s ctx page v).storedProt, ctx_protCached, tfind?_tset]
  by_cases hp : p = page
  · rw [hp, if_pos rfl, hv]
    rfl
  · rw [if_neg hp, State.protEntry_eq]

theorem reaches_noteProt (s : State) (ctx page a n : Nat) (wr : Bool) :
    (s.noteProt ctx page).reaches ctx a n wr = s.reaches ctx a n wr := by
  have hdec := ReachLike.decodeClean s ctx ((s.ctx ctx).protAddr page) 1
  have hctx : (s.decodeClean ((s.ctx ctx).protAddr page) 1).2.ctx ctx = s.ctx ctx :=
    (State.decodeClean_kept ..).ctx_eq rfl ctx
  have hentry := hdec.protEntry_of_cache (congrArg Ctx.protCache hctx)
  have hcached : (protCached (s.decodeClean ((s.ctx ctx).protAddr page) 1).2 ctx page (s.protEntry ctx page)).reaches
      ctx a n wr = s.reaches ctx a n wr :=
    ((ReachLike.protCached ..).reaches (protEntry_protCached (hentry page).symm) a n wr).trans
      (hdec.reaches hentry a n wr)
  rw [protCached, hctx] at hcached
  rw [State.noteProt]
  split
  · rfl
  · dsimp only
    split
    · exact hcached
    · exact hdec.reaches hentry a n wr

theorem reaches_protNoted (s : State) (ctx b a n : Nat) (wr : Bool) :
    (protNoted s ctx b).reaches ctx a n wr = s.reaches ctx a n wr := by
  rw [protNoted]
  split
  · exact reaches_noteProt ..
  · rfl

end

end Sys2Proof.Machine

/-! SUPPORT. What the hod and gather engine does on its own (R211 to R220, R226 to R228, R56), and the scratchpad window
(R25). -/

namespace Sys2Proof.Machine

section

variable {s : State} {t n id : Nat} {d : HDesc} {r : HReq} {g : HTag}

/-! ### Taking a descriptor (R211) -/

theorem hodAdmit_id (s : State) (t : Nat) (d : HDesc) (members : List Nat) : (hodAdmit s t d members).1.id = d.id := by
  rw [hodAdmit]
  split
  · rfl
  · dsimp only
    split <;> rfl

theorem hodTake_of_admitted {a : HDesc × State} {mem : List Nat} {g : Nat} {k : Option Nat × State}
    (hmem : mem = (hodMembers s d.bytes t).getD []) (hg : g = if hdGenRel d.bytes then s.genOfs d.ctx else 0)
    (ha : a = hodAdmit s t { d with taken := true, members := mem, genOfs := g } mem)
    (hok : hodRejects s d.bytes t = false) (hc : a.1.cancel = false)
    (hk : k = kvUse a.2 (hodOverPool a.2 d.bytes a.1.genOfs)) :
    hodTake s t d = hodSettle (k.2.modHDesc t d.id (fun _ => { a.1 with
      kvUser := k.1, waiting := (if hdKind d.bytes = 0 ∨ hdKind d.bytes = 3 then descReqs a.1 else []) })) t := by
  have hid : a.1.id = d.id := ha ▸ hodAdmit_id ..
  rw [hodTake, hok, if_neg Bool.false_ne_true]
  simp only [← hmem, ← hg, ← ha, hc, Bool.false_eq_true, if_false, ← hk, Bool.false_or]
  rw [← hid]
  by_cases h0 : hdKind d.bytes = 0 ∨ hdKind d.bytes = 3
  · rw [if_neg (by rcases h0 with h | h <;> simp [h]), if_pos h0]
  · rw [if_pos (by simpa using h0), if_neg h0]

theorem execHodDescriptorTake_of_found (hrun : (s.tile t).run = .running)
    (hd : (s.tile t).hod.descs.find? (fun d => d.stream == n && !d.taken && !d.cancel) = some d) :
    execHodDescriptorTake t n s = .next (hodTake s t d) := by
  rw [execHodDescriptorTake, hd]
  exact congrArg Host.Outcome.next (if_pos hrun)

/-! ### Landing (R204, R212, R214) -/

theorem execHodResponseLand_of_passes {k : Nat} {s1 : State}
    (hg : (s.tile t).hod.tags.find? (fun g => g.tag == k && g.answered && g.req.kind != .index &&
      (s.tile t).hod.canLand g) = some g) (hpass : passResponse s t g = (true, s1)) :
    execHodResponseLand t k s = .next (landTag s1 t g) := by
  rw [execHodResponseLand]
  simp only [hg, hpass, if_true]

theorem landTag_of_writing (hf : g.failed = false) (hw : g.writing = true) :
    landTag s t g = reqDone s t ((s.tile t).hod.desc? g.req.desc) g := by
  rw [landTag, hf, if_neg Bool.false_ne_true, if_pos hw]

theorem landTag_of_spread (hf : g.failed = false) (hw : g.writing = false) (hk : g.req.kind = .spread)
    (hd : (s.tile t).hod.desc? g.req.desc = some d) :
    landTag s t g = landSpread (hodPoison s t d g.req.ofHost g.poison) t d g := by
  rw [landTag, hf, if_neg Bool.false_ne_true, hw, if_neg Bool.false_ne_true, hk]
  simp only [hd]

theorem landData_of_plain (h : g.cacheRd = false) : landData s t g = ((g.data, g.poison), s) := by
  rw [landData, h]
  rfl

theorem landTag_of_copy (hf : g.failed = false) (hw : g.writing = false) (hk : g.req.kind = .copy)
    (hc : g.cacheRd = false) (hd : (s.tile t).hod.desc? g.req.desc = some d) :
    landTag s t g = landWrite (hodPoison s t d g.req.ofHost g.poison) t (some d) g g.data
      (moveBad g.poison g.req.src g.req.dst g.req.len) := by
  rw [landTag, hf, if_neg Bool.false_ne_true, hw, if_neg Bool.false_ne_true, hk]
  simp only [landData_of_plain hc, hd]

theorem landWrite_of_scratch {d : Option HDesc} {data : List Byte} {bad : List Nat} (ha : addrKind g.req.dst = .scratch)
    (hreach : s.reaches g.ctx g.req.dst data.length true = true) :
    landWrite s t d g data bad = reqDone ((s.sendFlits t (endOf g.req.dst) (flitsOf data.length)).putBytes g.ctx g.req.dst
      data bad) t d g := by
  have hne : addrKind g.req.dst ≠ .brick := by
    rw [ha]
    decide
  have hsent : writeSent s g.ctx g.req.dst data.length t = s.sendFlits t (endOf g.req.dst) (flitsOf data.length) := by
    rw [writeSent, protNoted, if_neg hne]
  rw [landWrite, if_neg hne, if_pos hreach, agentWrite_of_reaches hreach, hsent]

theorem execGatherIndexRead_of_passes {s1 : State} (hd : (s.tile t).hod.desc? id = some d)
    (hg : (s.tile t).hod.tags.find? (fun g => g.req.kind == .index && g.req.desc == id) = some g) (ha : g.answered = true)
    (hf : g.failed = false) (hpass : passResponse s t g = (true, s1)) : execGatherIndexRead t id s =
      .next (hodAfter (indexRows (hodPoison (freeTag s1 t g.tag) t d g.req.ofHost g.poison) t d g.data g.poison) t d.id) := by
  rw [execGatherIndexRead]
  simp only [hd, hg, ha, hpass, if_true, landIndex, hf, Bool.false_eq_true, if_false]

/-! ### Relay and multicast (R226 to R228) -/

theorem spreadStart_of_ready {kind : Nat} (hrun : (s.tile t).run = .running) (hd : (s.tile t).hod.desc? id = some d)
    (htaken : d.taken = true) (hcancel : d.cancel = false) (hsent : d.sent = false)
    (hcredit : d.members.all (holdsCredit s d.stream) = true) (hkind : hdKind d.bytes = kind) :
    spreadStart s t id kind = spread s t d d.members [] := by
  rw [spreadStart, hd]
  exact if_pos (by simp only [hrun, htaken, hcancel, hsent, hcredit, hkind]; simp)

theorem execMulticastDropInstant_of_due (hrun : (s.tile t).run = .running) (hd : (s.tile t).hod.desc? id = some d)
    (htaken : d.taken = true) (hcancel : d.cancel = false) (hsent : d.sent = false) (htimed : d.timed = true)
    (hkind : hdKind d.bytes = 5) (hdue : dropInstant s t d ≤ s.now) :
    execMulticastDropInstant t id s = .next (dropLate s t d) := by
  rw [execMulticastDropInstant, hd]
  exact congrArg Host.Outcome.next (if_pos (by
    simp only [hrun, htaken, hcancel, hsent, htimed, hkind, decide_eq_true hdue]
    simp))

theorem execMulticastReplay_of_credit {m : Nat} (hd : (s.tile t).hod.desc? id = some d) (hm : d.dropped.contains m = true)
    (hc : holdsCredit s d.stream m = true) : execMulticastReplay t id m s = .next (replayTo s t m d) := by
  rw [execMulticastReplay, hd]
  exact congrArg Host.Outcome.next (if_pos (by rw [hm, hc]; rfl))

theorem nextId_takeCredit (stream : Nat) (s : State) (m : Nat) : (takeCredit stream s m).nextId = s.nextId :=
  (takeCredit_kept stream s m).unchanged .nextId rfl

/-- R228: the descriptor that replays `d` to one member. -/
def replayDesc (d : HDesc) (id m : Nat) : HDesc := { d with
  id := id, sig := none, timed := false, adm := 0, treq := none, members := [m], dropped := [], sent := true,
  landed := false, replay := true, status := 0, done := true, late := false, cancel := false, kvUser := none,
  waiting := spreadReqs id d.bytes d.genOfs }

theorem replayTo_eq {m : Nat} {s1 : State} (hs1 : s1 = (takeCredit d.stream s m).fresh.2) :
    replayTo s t m d = hodAfter ((s1.modHDesc t d.id (fun e => { e with dropped := d.dropped.filter (· != m) })).modHod t
      (fun h => { h with descs := h.descs ++ [replayDesc d s.nextId m] })) t d.id := by
  rw [← nextId_takeCredit d.stream s m]
  subst hs1
  rfl

/-! ### Cancelling after a miss (R56) -/

/-- R56: a late request of the stream ends. -/
def cancelled (n : Nat) (d : HDesc) : HDesc :=
  if d.stream = n && d.late && !d.done && d.status != 4 then
    { d with waiting := [], taken := true, cancel := true, status := 3 } else d

theorem cancelled_eq (n : Nat) (d : HDesc) : cancelled n d =
    if d.stream = n ∧ d.late = true ∧ d.done = false ∧ d.status ≠ 4 then
      { d with waiting := [], taken := true, cancel := true, status := 3 } else d := by
  have hiff : (decide (d.stream = n) && d.late && !d.done && d.status != 4) = true ↔
      (d.stream = n ∧ d.late = true ∧ d.done = false ∧ d.status ≠ 4) := by
    simp [and_assoc]
  rw [cancelled]
  exact if_congr hiff rfl rfl

/-! ### The scratchpad window (R25) -/

theorem requests_of_unit {a len : Nat} (hpos : 0 < len) (hunit : a % 512 + len ≤ 512) : requests a a len = [(0, len)] := by
  have hn : len = min len (min (512 - (a + 0) % 512) (512 - (a + 0) % 512)) := by
    rw [Nat.add_zero]
    omega
  rw [requests, splitReq_succ (Nat.pos_iff_ne_zero.1 hpos) hn, Nat.sub_self, splitReq, if_pos rfl]

section

variable {ctx a len : Nat} {data : List Byte} (ha : addrKind a = .scratch)
include ha

theorem putBytes_of_scratch {u : State} : u.putBytes ctx a data [] = { u with mem := u.mem.writeBytes a data } := by
  rw [State.putBytes, ha]

theorem protNoted_of_scratch : protNoted s ctx a = s := if_neg (by rw [ha]; decide)

theorem windowAccess_of_write (hpos : 0 < data.length) (hunit : a % 512 + data.length ≤ 512)
    (hreach : s.reaches ctx a data.length true = true) (hfree : s.stalled a data.length true = false) :
    windowAccess s ctx a data.length true data =
      { s.sendFlits (unitEnd 8) (endOf a) (flitsOf data.length) with mem := s.mem.writeBytes a data } := by
  have hreq := requests_of_unit hpos hunit
  have hslice : slice data 0 data.length = data := List.take_length
  have hwait : (true && (requests a a data.length).any (fun r => s.stalled (a + r.1) r.2 true)) = false := by
    rw [hreq]
    simpa using hfree
  rw [windowAccess, List.take_length, hwait, if_neg Bool.false_ne_true, if_pos rfl, agentWriteAll, hreq, writeAllAux_cons,
    hslice]
  show (agentWrite s ctx a data [] (unitEnd 8)).2 = _
  rw [agentWrite_of_reaches hreach, writeSent, protNoted_of_scratch ha, putBytes_of_scratch ha]
  exact congrArg (fun m : Memory => { s.sendFlits (unitEnd 8) (endOf a) (flitsOf data.length) with
    mem := m.writeBytes a data }) ((State.sendFlits_kept ..).unchanged .mem rfl)

/-- R202: the state in which a read of the window has crossed the mortar and back. -/
def readSent (s : State) (a len : Nat) : State :=
  (s.sendFlits (unitEnd 8) (endOf a) 1).sendFlits (endOf a) (unitEnd 8) (flitsOf len)

theorem agentRead_of_scratch (hreach : s.reaches ctx a len false = true) :
    agentRead s ctx a len = ({ ok := true, data := s.mem.readBytes a len, bad := [] }, readSent s a len) := by
  simp only [agentRead, ha, hreach, if_true, reduceCtorEq, if_false, State.bytesAt]
  rfl

theorem windowAccess_of_read (hpos : 0 < len) (hunit : a % 512 + len ≤ 512)
    (hreach : s.reaches ctx a len false = true) :
    windowAccess s ctx a len false data = (readSent s a len).setMaster (0x40 + ctx)
      { (readSent s a len).master (0x40 + ctx) with
        lastRead := some (BitVec.ofNat 32 (leNat ((s.mem.readBytes a len).take 4))) } := by
  have hread : agentReadAll s ctx a len = ({ ok := true, data := s.mem.readBytes a len, bad := [] }, readSent s a len) := by
    rw [agentReadAll, requests_of_unit hpos hunit]
    show readAllAux [(0, len)] s (unitEnd 8) ctx a _ = _
    rw [readAllAux, Nat.add_zero, agentRead_of_scratch ha hreach]
    rfl
  rw [windowAccess, Bool.false_and, if_neg Bool.false_ne_true, if_neg Bool.false_ne_true, hread]
  rfl

end

end

end Sys2Proof.Machine

/-! SUPPORT. Issuing a request of the hod (R212 to R214), and what the hod's own events do. -/

namespace Sys2Proof.Machine

section

variable {s : State} {t n id ctx a len : Nat} {d : HDesc} {r : HReq} {g : HTag}

/-! ### Issuing a request (R212 to R214) -/

theorem reachLike_modHod (s : State) (ctx t : Nat) (f : Hod → Hod) : ReachLike ctx s (s.modHod t f) := by
  have htile : ∀ k, ∃ h, (s.modHod t f).tile k = { s.tile k with hod := h } := fun k => by
    by_cases hk : k = t
    · exact ⟨f (s.tile t).hod, by rw [hk, State.modHod, State.tile_modTile_same]⟩
    · exact ⟨(s.tile k).hod, by rw [State.modHod, State.tile_modTile_ne _ _ hk]⟩
  refine .of_ctxs rfl (fun _ => rfl) rfl rfl rfl (fun k => ?_) (fun k => ?_) rfl rfl
  · obtain ⟨h, hk⟩ := htile k
    rw [hk]
    rfl
  · obtain ⟨h, hk⟩ := htile k
    rw [hk]

theorem reaches_modHod (f : Hod → Hod) (wr : Bool) : (s.modHod t f).reaches ctx a len wr = s.reaches ctx a len wr :=
  (reachLike_modHod s ctx t f).reaches ((reachLike_modHod s ctx t f).protEntry_of_cache rfl) ..

/-- R212: the descriptor has given up the request. -/
def reqLeft (r : HReq) (x : HDesc) : HDesc :=
  if r.kind = .index then { x with idxAsked := x.idxAsked + r.len }
  else { x with waiting := dropEq r x.waiting, issued := x.issued + 1 }

theorem reaches_reqLeft (wr : Bool) :
    (s.modHDesc t id (reqLeft r)).reaches ctx a len wr = s.reaches ctx a len wr := reaches_modHod ..

theorem issueReq_of_copy (hk : r.kind = .copy) (hsrc : s.reaches d.ctx r.src r.len false = true)
    (hdst : s.reaches d.ctx r.dst r.len true = true) : issueReq s t d r =
      issueRead (protNoted (protNoted (s.modHDesc t d.id (reqLeft r)) d.ctx r.src) d.ctx r.dst) t d r := by
  have hboth : ∀ x n wr, (protNoted (protNoted (s.modHDesc t d.id (reqLeft r)) d.ctx r.src) d.ctx r.dst).reaches d.ctx
      x n wr = s.reaches d.ctx x n wr := fun x n wr => by
    rw [reaches_protNoted, reaches_protNoted, reaches_reqLeft]
  obtain ⟨desc, kind, src, dst, len, row⟩ := r
  subst hk
  exact if_pos (Bool.and_eq_true_iff.2 ⟨(hboth ..).trans hsrc, (hboth ..).trans hdst⟩)

theorem issueReq_of_read (hk : r.kind = .spread ∨ r.kind = .index) (hsrc : s.reaches d.ctx r.src r.len false = true) :
    issueReq s t d r = issueRead (protNoted (s.modHDesc t d.id (reqLeft r)) d.ctx r.src) t d r := by
  have hreach : (protNoted (s.modHDesc t d.id (reqLeft r)) d.ctx r.src).reaches d.ctx r.src r.len false = true := by
    rw [reaches_protNoted, reaches_reqLeft, hsrc]
  obtain ⟨desc, kind, src, dst, len, row⟩ := r
  rcases hk with hk | hk
  · subst hk
    exact if_pos hreach
  · subst hk
    exact if_pos hreach

/-! ### The tag of a request (R214, R220) -/

/-- The state holds one more tag of tile `t`: the lowest free one, for `r`. -/
def tagged (s u : State) (t : Nat) (r : HReq) : Prop := ∃ g, (u.tile t).hod.tags = (s.tile t).hod.tags ++ [g] ∧
  g.req = r ∧ g.tag = (s.tile t).hod.freeTag (r.kind == .index)

theorem tagged.of_tile {u v : State} (h : tagged s u t r) (hv : v.tile t = u.tile t) : tagged s v t r := by
  rwa [tagged, hv]

theorem tagged.of_tags {s' u : State} (h : tagged s u t r) (hs : (s.tile t).hod.tags = (s'.tile t).hod.tags) :
    tagged s' u t r := by
  rwa [tagged, ← hs, Hod.freeTag, ← hs]

theorem takeTag_tagged (ans : Bool) (data : List Byte) (bad : List Nat) :
    tagged s (takeTag s t d r ans data bad).2 t r := by
  rw [takeTag, State.modHod, tagged, State.tile_modTile_same]
  exact ⟨_, rfl, rfl, rfl⟩

theorem enterChan_kept_of_serves {ch : Nat} {e : CEntry} (h : (s.chan ch).serves = true) :
    Kept [.chans, .mortar] s (enterChan s ch e) := by
  rw [enterChan, h, if_neg (by decide)]
  exact ((Kept.weaken (State.sendFlits_kept ..) (by decide)).step (State.setChan_kept ..) (by decide)).step
    (admitHeld_kept ..) (by decide)

theorem chanReq_kept_of_serves {tag : Nat} {treq : Option Nat} {write : Bool} {data : List Byte} {bad : List Nat}
    (h : (s.chan (chanOf a)).serves = true) :
    Kept [.nextId, .chans, .mortar] s (chanReq s t tag treq write a n data bad) := by
  have hfresh : Kept [.nextId] s s.fresh.2 := State.fresh_kept s
  have hs : (s.fresh.2.chan (chanOf a)).serves = true := by rwa [hfresh.chan_eq rfl rfl rfl]
  exact (hfresh.weaken (by decide)).step (enterChan_kept_of_serves hs) (by decide)

theorem takeTag_chan (ans : Bool) (data : List Byte) (bad : List Nat) (c : Nat) :
    (takeTag s t d r ans data bad).2.chan c = s.chan c := (takeTag_kept ..).chan_eq rfl rfl rfl c

theorem chanOf_lineOf (a : Nat) : chanOf (lineOf a) = chanOf a := by
  rw [chanOf, chanOf, lineOf]
  omega

theorem serves_of_reaches {wr : Bool} (h : s.reaches ctx a len wr = true) (hk : addrKind a = .brick) :
    (s.chan (chanOf a)).serves = true := by
  rw [State.reaches, hk] at h
  simp only [State.brickOk, Bool.and_eq_true] at h
  exact h.1.1.2

/-- R206: the request of a tag waits in a channel that serves. -/
theorem chanReq_tagged {tag m b : Nat} {treq : Option Nat} (hs : (s.chan (chanOf r.src)).serves = true)
    (hb : chanOf b = chanOf r.src) :
    tagged s (chanReq (takeTag s t d r false [] []).2 t tag treq false b m [] []) t r := by
  have hserve : ((takeTag s t d r false [] []).2.chan (chanOf b)).serves = true := by rwa [hb, takeTag_chan]
  exact (takeTag_tagged ..).of_tile ((chanReq_kept_of_serves hserve).tile_eq rfl t)

theorem issueRead_tagged (hs : addrKind r.src = .brick → (s.chan (chanOf r.src)).serves = true) :
    tagged s (issueRead s t d r) t r := by
  rw [issueRead]
  split
  case h_1 hk =>
    dsimp only
    split
    · exact takeTag_tagged ..
    · split
      · exact chanReq_tagged (hs hk) (chanOf_lineOf _)
      · exact chanReq_tagged (hs hk) rfl
  case h_2 =>
    refine (takeTag_tagged (d := d) false [] []).of_tile ?_
    exact ((State.askHost_kept ..).tile_eq rfl t).trans ((State.sendFlits_kept ..).tile_eq rfl t)
  case h_3 =>
    refine (takeTag_tagged ..).of_tags ?_
    exact congrArg (fun x : Tile => x.hod.tags) ((agentRead_kept (e := t) ..).tile_eq rfl t)

theorem tags_reqLeft (s : State) (t id : Nat) (r : HReq) :
    ((s.modHDesc t id (reqLeft r)).tile t).hod.tags = (s.tile t).hod.tags := by
  rw [State.modHDesc, State.modHod, State.tile_modTile_same]

theorem tags_protNoted (s : State) (ctx a t : Nat) : ((protNoted s ctx a).tile t).hod.tags = (s.tile t).hod.tags :=
  congrArg (fun x : Tile => x.hod.tags) ((protNoted_kept s ctx a).tile_eq rfl t)

theorem issueReq_tagged (hsrc : s.reaches d.ctx r.src r.len false = true)
    (hk : (r.kind = .copy ∧ s.reaches d.ctx r.dst r.len true = true) ∨ r.kind = .spread ∨ r.kind = .index) :
    tagged s (issueReq s t d r) t r := by
  rcases hk with ⟨hk, hdst⟩ | hk
  · rw [issueReq_of_copy hk hsrc hdst]
    refine (issueRead_tagged fun hb => serves_of_reaches (ctx := d.ctx) (len := r.len) (wr := false) ?_ hb).of_tags ?_
    · rw [reaches_protNoted, reaches_protNoted, reaches_reqLeft, hsrc]
    · rw [tags_protNoted, tags_protNoted, tags_reqLeft]
  · rw [issueReq_of_read hk hsrc]
    refine (issueRead_tagged fun hb => serves_of_reaches (ctx := d.ctx) (len := r.len) (wr := false) ?_ hb).of_tags ?_
    · rw [reaches_protNoted, reaches_reqLeft, hsrc]
    · rw [tags_protNoted, tags_reqLeft]

theorem execHodRequestIssue_of_first (hrun : (s.tile t).run = .running)
    (hc : ((candidates s (s.tile t).hod).drop n).head? = some (d, r)) (hfree : issuable s t r = true)
    (hfirst : outranked s t n (candidates s (s.tile t).hod) d = false) :
    execHodRequestIssue t n s = .next (hodAfter (issueReq s t d r) t d.id) := by
  rw [execHodRequestIssue]
  simp only [hc]
  refine congrArg Host.Outcome.next (if_neg ?_)
  simp [hrun, hfree, hfirst]

end

/-- Settles O15: each event by the branch of its guard; looking up protection entries changes no reach, so an issue takes its tag. -/
theorem hodEventsComplete : Obligations.HodEventsComplete := by
  refine ⟨fun s t n d hrun hd hok hc => ?take, fun s t n d r hrun hc hfree hfirst hsrc hk => ?issue,
    fun s t k g s1 hg hf hpass => ⟨fun hw => ?written, fun d hw hk hcache hdst hd hreach => ?copy, fun d hw hk hd => ?piece⟩,
    fun s t id d g s1 hd hg ha hf hpass => completes_of_exec (execGatherIndexRead_of_passes hd hg ha hf hpass) rfl,
    fun s t id d hrun hd htaken hcancel hsent hcredit => ⟨fun hkind => ?relay, fun hkind => ?multicast⟩,
    fun s t id d hrun hd htaken hcancel hsent htimed hkind hdue =>
      completes_of_exec (execMulticastDropInstant_of_due hrun hd htaken hcancel hsent htimed hkind hdue) rfl,
    fun s t id m d hd hm hc => ?replay, fun s t n => ?cancel,
    fun s ctx a data ha hpos hunit hreach hfree => ?write, fun s ctx a len data ha hpos hunit hreach => ?read⟩
  case take =>
    exact completes_of_exec (execHodDescriptorTake_of_found hrun hd)
      ⟨_, _, _, rfl, rfl, hodTake_of_admitted rfl rfl rfl hok hc rfl⟩
  case issue =>
    obtain ⟨g, htags, hreq, htag⟩ := issueReq_tagged (t := t) hsrc hk
    exact completes_of_exec (execHodRequestIssue_of_first hrun hc hfree hfirst) ⟨_, g, rfl, htags, hreq, htag⟩
  case written => exact completes_of_exec (execHodResponseLand_of_passes hg hpass) (landTag_of_writing hf hw)
  case copy =>
    exact completes_of_exec (execHodResponseLand_of_passes hg hpass)
      ((landTag_of_copy hf hw hk hcache hd).trans (landWrite_of_scratch hdst hreach))
  case piece => exact completes_of_exec (execHodResponseLand_of_passes hg hpass) (landTag_of_spread hf hw hk hd)
  case relay =>
    exact completes_of_exec rfl (spreadStart_of_ready hrun hd htaken hcancel hsent hcredit hkind)
  case multicast =>
    exact completes_of_exec rfl (spreadStart_of_ready hrun hd htaken hcancel hsent hcredit hkind)
  case replay =>
    exact completes_of_exec (execMulticastReplay_of_credit hd hm hc)
      ⟨_, replayDesc d s.nextId m, rfl, rfl, rfl, rfl, rfl, rfl, rfl, replayTo_eq rfl⟩
  case cancel =>
    refine completes_of_exec rfl ?_
    show hodSettle (s.modHod t (fun h => { h with descs := h.descs.map (cancelled n) })) t = _
    rw [funext (cancelled_eq n)]
  case write =>
    exact completes_of_exec (congrArg Host.Outcome.next (if_pos ha)) (windowAccess_of_write ha hpos hunit hreach hfree)
  case read =>
    refine completes_of_exec (congrArg Host.Outcome.next ((if_pos ha).trans (windowAccess_of_read ha hpos hunit hreach))) ?_
    refine ⟨fun p => ?_, ?_⟩
    · have hsent : Kept [.mortar] s (readSent s a len) :=
        (State.sendFlits_kept ..).step (State.sendFlits_kept ..) (by decide)
      exact ((hsent.weaken (by decide)).step (State.setMaster_kept ..) (by decide)).same p
    · rw [State.master_setMaster_same]

end Sys2Proof.Machine
